-- ==== Sys2Proof/Word.lean ====
section
/-! DEFINITION. The widths the manual writes for register contents, addresses and instruction words (02 R39, 06 R136). -/

namespace Sys2Proof

/-- A byte of memory or of a local buffer (00 R6). -/
abbrev Byte := BitVec 8

/-- A 32-bit register element (02 R39). -/
abbrev W32 := BitVec 32

/-- A register pair, an address, a counter (02 R41, 03 R61). -/
abbrev W64 := BitVec 64

/-- An instruction word (06 R136). -/
abbrev W128 := BitVec 128

/-- A tile register (02 R39). -/
abbrev W256 := BitVec 256

/-- A set of lanes as a 32-bit mask, bit L for lane L (01 R14). -/
abbrev Mask := BitVec 32

end Sys2Proof
end

