-- ==== Sys2Proof/Config.lean ====
section
/-! DEFINITION. The free values: what the manual leaves open. Each is an opaque constant, so no proof can see which value it
takes; every one is named in the assumption log. -/

namespace Sys2Proof.Config

/-- Which member of a faithful pair a function word of row 0x9, DRCP or DRSQ returns (08 R195): by opcode and input bits;
true for the neighbour of larger value. [log 1: DESIGN CHOICE, safe] -/
opaque faithfulUp : Nat → Nat → Bool

/-- Whether the Colander answers PART where the truth of a box or triangle is IN or OUT (11 R264): by the bits of the beam and
of the node. -/
opaque classifyPart : List Nat → List Nat → Bool

/-- The cc between a Ladle word's issue and its promise, beyond the least 8 (10 R226): by the core's command count. [log 2: DESIGN CHOICE, safe] -/
opaque promiseExtra : Nat → Nat

/-- Which sub-range a gathered lane's turn takes in a quantum (04 R103): a sort key by counter and lane position. -/
opaque quantumOrder : Nat → Nat → Nat

/-- Which entry of a 64 KiB group translates an access (16 R355): its index in the group, by counter. -/
opaque groupEntry : Nat → Nat

/-- What a read behind a host port returns (18 R394): byte at 2^47 × port + address, by counter. The host may change its memory
at any time. -/
opaque hostByte : Nat → Nat → BitVec 8

/-- Whether both signatures of the image at an address with these bytes verify (18 R400), and the fused least version. -/
opaque imageVerifies : List (BitVec 8) → Bool
/-- See imageVerifies. -/
opaque fusedVersion : Nat

/-- Whether the installed firmware verifies at a reset (18 R400), by the count of free values. -/
opaque bootVerifies : Nat → Bool

/-- What SPDM responses hold that nothing gives a value: capabilities, nonces, vendor id, context (18 R402): byte k of body n. -/
opaque spdmByte : Nat → Nat → Nat
/-- The certificates of the chain, root first, each without its signatures; the leaf carries the HSS public key (18 R402). -/
opaque certBodies : List (List Nat)
/-- The ECDSA signature of a certificate (00 R9). -/
opaque certEcdsa : List Nat → List Nat
/-- The HSS signature of a certificate (00 R9). -/
opaque certHss : List Nat → List Nat
/-- Byte k of the SHA-384 digest of some bytes (18 R402). -/
opaque sha384 : List Nat → Nat → Nat
/-- What measurements 1 to 3 measure: boot ROM, Sieve firmware, microcode; by the number of images installed (18 R402). -/
opaque measured : Nat → Nat → List Nat
/-- Byte k of an HSS signature (18 R401, R402), by the state of the key. -/
opaque hssByte : Nat → Nat → Nat
/-- Byte k of the ECDSA signature of response n (18 R402). -/
opaque ecdsaByte : Nat → Nat → Nat

/-- Results the manual does not state: by opcode, operands. [log 3: DESIGN CHOICE, safe] -/
opaque unstated : Nat → Nat → Nat → Nat

/-- The sub-slot taken when any free heap slot may be (12 R283): by slice and counter. -/
opaque freeSlot : Nat → Nat → Nat

/-- Whether a value-changing read of the occupancy vector sees the newer state (15 R343); by counter. -/
opaque chooser : Nat → Nat

end Sys2Proof.Config
end

