-- ==== Sys2Proof/Syntax.lean ====
section
/-! DEFINITION. The syntax of the T5's steps: operands and fields of an instruction word (06 R136), and the one
inductive Instr with a constructor for every row of spec/opcode_table.json. -/

namespace Sys2Proof

/-- A register operand or the absence of one, by the class codes of R39, R47 and R136: 000 vector, 001 uniform,
010 predicate, 011 tile, 100 accumulator, 101 immediate, 110 special, 111 absent. -/
inductive Opnd where
  | vec (i : BitVec 11)
  | uni (i : BitVec 11)
  | pred (i : BitVec 11)
  | tile (i : BitVec 11)
  | acc (i : BitVec 11)
  | imm
  | spec (i : BitVec 11)
  | absent
  deriving DecidableEq, Repr, Inhabited

/-- The fields of an instruction word other than OP (06 R136). -/
structure Fields where
  /-- bits 17:14 -/
  guard : BitVec 4
  /-- bit 18 -/
  gneg : Bool
  /-- bit 13, SF -/
  sf : Bool
  /-- bits 12:10, RU: bit 0 for A, 1 for B, 2 for C -/
  ru : BitVec 3
  /-- bit 9 -/
  t : Bool
  /-- bit 8 -/
  s : Bool
  dst : Opnd
  a : Opnd
  b : Opnd
  c : Opnd
  /-- bits 95:75 -/
  mod : BitVec 21
  /-- bits 127:96 -/
  imm : W32
  deriving DecidableEq, Repr, Inhabited

/-- A unit that reports readiness (18 R409). -/
inductive ReadyUnit where
  | port (n : Nat)
  | sieve
  | whisk
  | deckle (quadrant : Nat)
  | slice (n : Nat)
  | core (n : Nat)
  deriving DecidableEq, Repr

/-- Where an SRAM error falls (18 R404). -/
inductive SramSite where
  /-- element `index` of a wave's register area of class `cls` (the offsets of R46, in 32-bit words) -/
  | register (core wave cls index : Nat)
  /-- 32-bit word of a core's buffer: 0 G (of gang `gang`), 1 W, 2 X, 3 Z -/
  | localWord (core buf gang word : Nat)
  /-- a word of an LLC line, by its system physical address -/
  | llc (spa : Nat)
  /-- a Stockpot tag entry -/
  | tag (slice set way : Nat)
  deriving DecidableEq, Repr

/-- The fields of a peer-link flit, and whether its CRC matches (18 R397). -/
structure Flit where
  type : Byte
  src : Byte
  dst : Byte
  flags : Byte
  lseq : W32
  tid : W64
  addr : W64
  bmask : W64
  data : List Byte
  /-- OPND: the opcode less 0xC0, TYPE, and the two operands -/
  op : Nat
  otype : Nat
  opnd : W64
  opnd2 : W64
  /-- bytes 98 to 103, which the manual gives no meaning -/
  pad : BitVec 48 := 0
  crcOk : Bool
  deriving DecidableEq, Repr

/-- The T5's steps: instruction words, and the events of its other agents and of the world around it, one constructor
per row of spec/opcode_table.json. -/
inductive Instr where
  /-- Module reset: the ports train, the Sieve starts once its firmware verifies, and every register returns to its reset state. (R408) -/
  | reset
  /-- An HBM4 stack finishes training, writes zero with valid ECC to all its memory and sets its readiness bit. (R408) -/
  | stackTrained (stack : Nat)
  /-- A port, slice, core, Deckle or the Whisk finishes its self-test and sets its readiness bit; the dealer may then serve it. (R409) -/
  | unitReady (unit : ReadyUnit)
  /-- A write of 1 to START waits for all eight stacks, checks the bases and function entry 0, sets every frame to HOST, applies entry 0 and sets STARTST. (R408) -/
  | start (value : W32)
  /-- A write to FWCOMMIT checks both signatures and the version of the image at FWADDR, and stages it or reports the refusal in FWSTAT. (R400) -/
  | fwcommit (value : W32)
  /-- A write to ALARMPOL sets the per-source alarm policies; under LOCK it may only raise them. (R403) -/
  | alarmpolWrite (value : W32)
  /-- A supply glitch fires its alarm source, which counts, logs or erases the keys under ALARMPOL. (R403) -/
  | vglitch
  /-- A clock glitch fires its alarm source under ALARMPOL. (R403) -/
  | cglitch
  /-- Removal of the lid fires its alarm source, whose reset policy erases the identity and attestation keys. (R403) -/
  | lid
  /-- A die rising above 105 °C fires alarm source THERM under ALARMPOL. (R403) -/
  | therm
  /-- A die above 115 °C makes the module remove package power and hold it in reset until the supply is cycled. (R410) -/
  | overtempShutdown
  /-- An HBM4 ECC error is corrected and counted, or if uncorrectable poisons its line or block and writes an error-log record. (R404) -/
  | hbmEccError (spa : Nat) (uncorrectable : Bool)
  /-- An uncorrectable SRAM word is poisoned and counted; a bad Stockpot tag entry becomes INVALID and its waiters are woken DROPPED. (R404) -/
  | sramEccError (site : SramSite) (uncorrectable : Bool)
  /-- At the end of a vector's 1,024 fc interval, an event that fell inside it is sent as an MSI-X message. (R393) -/
  | msixIntervalEnd (vf vector : Nat)
  /-- A PCI configuration VF Enable on a PF exposes its virtual functions, refused when NumVFs differs from the VFPORT count. (R390) -/
  | vfEnable (pf numVFs : Nat)
  /-- A host write through BAR 2 is translated by the function's stage 2, checked for ownership and performed at the home slice as a REL write at HOST. (R395) -/
  | hostWrite (vf addr : Nat) (bytes : List Byte)
  /-- A host read through BAR 2 returns the latest write performed at the home slice. (R395) -/
  | hostRead (bar vf addr n : Nat)
  /-- A write to a register-block register without behaviour of its own stores the value, or is ignored where the offset is not listed. (R391) -/
  | registerWrite (vf off : Nat) (bytes : List Byte)
  /-- A write of V to a HOSTQ queue's doorbell, after an acquire at HOST, admits cards SEQ to V − 1 in order, or is ignored and counted. (R338) -/
  | doorbell (vf q : Nat) (value : W32)
  /-- Writing the page count of the invalidation register performs TLBINV for the function, with BUSY read until it completes. (R391) -/
  | invalidationRegister (vf : Nat) (va : W64) (pages : W32)
  /-- A RETRY reply to the stage-1 reply register answers the matching request, after an acquire at HOST, and resumes work whose requests are all answered. (R365) -/
  | stage1ReplyRetry (vf : Nat) (seq : W32)
  /-- A REFUSE reply to the stage-1 reply register answers the request; waiting lanes take PAGE_REFUSED and engines record it. (R365) -/
  | stage1ReplyRefuse (vf : Nat) (seq : W32)
  /-- A RETRY reply to function 0's stage-2 reply register answers the named function's request and resumes waiting work. (R365) -/
  | stage2ReplyRetry (vf : Nat) (seq : W32)
  /-- A REFUSE reply to the stage-2 reply register answers the request with PAGE_REFUSED for the lanes, engines or fetches that waited on it. (R365) -/
  | stage2ReplyRefuse (vf : Nat) (seq : W32)
  /-- A write to STOPREQ naming a resident wave of the function makes HALTREQ due in all its lanes. (R379) -/
  | stopreq (vf : Nat) (value : W64)
  /-- A write to RESUME naming a parked wave unparks it and sets SSTEP to the STEP bit. (R379) -/
  | resume (vf : Nat) (value : W64)
  /-- Any write to LOST clears the dropped-record count. (R376) -/
  | lost (vf : Nat)
  /-- Writing EN = 1 to a value-trace region arms each present page of it at its home slices and sets ARMED. (R384) -/
  | vtrArm (vf region : Nat)
  /-- Sieve request that reads a queue table entry, checks it and resets the queue's SEQ and HEADSEQ. (R347) -/
  | qset (vf : Nat)
  /-- Sieve request that reloads one message filter entry. (R347) -/
  | filter (vf : Nat)
  /-- Sieve request that sets the deadline of a presentation queue's oldest or next card. (R347) -/
  | deadline (vf : Nat)
  /-- Sieve request that sets the pool of HOST frames receiving deadline save records. (R347) -/
  | savepool (vf : Nat)
  /-- Sieve request that reads and applies a function table entry, passing clusters and starting time slicing. (R352) -/
  | fset (vf : Nat)
  /-- Sieve request that reads a world entry and its template card, withdrawing the old world where its tag or pool changes. (R372) -/
  | wset (vf : Nat)
  /-- Sieve request that binds a counter bank or trace unit to a function, possibly suspending a G session. (R385) -/
  | dbgclaim (vf : Nat)
  /-- Sieve request that releases a counter bank or trace unit, resuming any suspended G session. (R385) -/
  | dbgfree (vf : Nat)
  /-- SPDM request on DOE, answered with version 1.3 only. (R402) -/
  | getVersion (pf : Nat)
  /-- SPDM request returning the supported capabilities. (R402) -/
  | getCapabilities (pf : Nat)
  /-- SPDM request selecting ECDSA P-384 with SHA-384. (R402) -/
  | negotiateAlgorithms (pf : Nat)
  /-- SPDM request returning the certificate chain digests. (R402) -/
  | getDigests (pf : Nat)
  /-- SPDM request returning the slot 0 X.509 chain. (R402) -/
  | getCertificate (pf slot offset length : Nat)
  /-- SPDM challenge answered with a response signed in both algorithms, or ERROR after erase or exhaustion. (R402) -/
  | challenge (pf slot nonce : Nat)
  /-- SPDM request returning the six measurements, signed in both algorithms. (R402) -/
  | getMeasurements (pf index : Nat) (signed : Bool) (nonce : Nat)
  /-- A debug-unlock challenge on DOE; a fourth consecutive failure fires alarm source DBGAUTH. (R403) -/
  | debugUnlockChallenge (ok : Bool)
  /-- A received WRITE flit is CRC-checked, forwarded or performed as a write of the INB function, REL counting as a release at SYS. (R397) -/
  | flitWrite (link : Nat) (flit : BitVec 1024)
  /-- A received READ flit is performed for the INB function and answered with READRSP, or NAK. (R397) -/
  | flitRead (link : Nat) (flit : BitVec 1024)
  /-- A received read response completes the matching outstanding peer read. (R397) -/
  | flitReadrsp (link : Nat) (flit : BitVec 1024)
  /-- A received ATOMIC flit is performed at the home slice for the INB function and answered with ATOMRSP. (R397) -/
  | flitAtomic (link : Nat) (flit : BitVec 1024)
  /-- A received atomic response completes the matching outstanding peer atomic. (R397) -/
  | flitAtomrsp (link : Nat) (flit : BitVec 1024)
  /-- A received credit flit returns link credits. (R397) -/
  | flitCredit (link : Nat) (flit : BitVec 1024)
  /-- A received NAK fails the matching request, giving PEER. (R398) -/
  | flitNak (link : Nat) (flit : BitVec 1024)
  /-- A peer link finishes retraining and sets its readiness bit again. (R398) -/
  | linkRetrained (link : Nat)
  /-- A peer request unanswered after 2^24 fc fails with TIMEOUT. (R398) -/
  | peerTimeout (tid : Nat)
  /-- The barrel reaches a wave slot: it skips it, spends an idle cycle, or votes and runs one block for up to two groups. (R16) -/
  | barrelVisit (core quarter : Nat)
  /-- A refill read of spilled reconvergence entries completes and releases the lanes the pop held. (R159) -/
  | reconvRefillComplete (core wave : Nat)
  /-- A block's prologue and words arrive in the L0 so its group may run, or the fetch is refused with FETCH_REFUSED. (R134) -/
  | blockFetchComplete (core wave : Nat) (pc : W64)
  /-- The clock reaches a sleeping lane's deadline and releases its hold. (R215) -/
  | sleepExpiry (core wave lane : Nat)
  /-- A load, store, atomic or other long-latency memory operation completes in a lane, writing its destination and clearing its flag when the last one ends. (R200) -/
  | memoryOpComplete (core wave op lane : Nat)
  /-- A word of rows 0x8 or 0x9 completes, writing its destination and ORing its exception bits. (R175) -/
  | conversionComplete (core wave op : Nat)
  /-- At the end of a 16 fc window the cluster reserves the gathered QUANTUM adds' total with one add and hands out sub-ranges. (R103) -/
  | quantumGather (cluster : Nat)
  /-- A core starts a dealt unit, allocating its G region and creating its WINIT waves in one step. (R18) -/
  | gangCreate (core : Nat)
  /-- After GATTACH's release, the attach is refused or places its waves in one step of the gang order. (R219) -/
  | gangAttach (core wave op : Nat)
  /-- A wave whose threads ended leaves its gang once its operations and replays are done; the last leave ends the gang and releases the unit. (R220) -/
  | gangLeave (core wave : Nat)
  /-- After BARARV's release, the wave's arrival enters the gang order and may complete a phase. (R218) -/
  | barrierArrival (core wave barrier : Nat)
  /-- A reserved fill or drain of a ring stage begins once depth or fullness allows, completing RINGFILL.BEGIN, RINGDRAIN.BEGIN or an engine's ring step. (R222) -/
  | ringStageBegin (core gang ring : Nat) (fill : Bool)
  /-- Every 4,096 cc each ring's depth rises, falls or stays by its waiting and fullness. (R76) -/
  | ringDepthReview (core : Nat)
  /-- A ready core requests work and the dealer chooses a card by class and queue and cuts it a chunk. (R341) -/
  | coreWorkRequest (core : Nat)
  /-- The next card of a queue begins once its predecessor is dealt, its counter allows and its records read, or completes at once as BADCARD, BADLAUNCH or DONE. (R339) -/
  | cardBegin (q : Nat)
  /-- At least every 4,096 fc, or after a signal, the queue rereads a waiting card's counter with an ACQ atomic. (R340) -/
  | depctrPoll (q : Nat)
  /-- When a card's last unit has finished and released, the queue signals SIGC and writes the completion record. (R33) -/
  | jobComplete (q : Nat) (seq : W32)
  /-- The Sieve examines a reserved cross-tenant post, denying it or writing a message and an admitted card. (R350) -/
  | sievePostExamine
  /-- Every 4,096 fc the Whisk reads the occupancy vector and issues migration commands. (R343) -/
  | whiskPeriod
  /-- A source core applies a migration command, moving its highest-numbered undealt records to the destination. (R345) -/
  | whiskMigrate (source : Nat)
  /-- The Sieve counter reaches deadline − LEAD and the Sieve starts pre-empting class-3 waves on needed clusters. (R348) -/
  | deadlineWindowOpen (q : Nat)
  /-- A time-slice phase ends and the Sieve stops dealing and pre-empts the outgoing function's waves on shared cores. (R373) -/
  | timesliceSwitch
  /-- Once no command of the outgoing waves is live, a shared core passes to the incoming function. (R373) -/
  | timesliceCorePass (core : Nat)
  /-- A pre-emption request makes a wave drain, each lane stopping at its next safe point. (R323) -/
  | preemptRequest (core wave : Nat)
  /-- When every lane has stopped, the wave quiesces, writes its save record and frees its slot. (R324) -/
  | waveQuiesce (core wave : Nat)
  /-- The save of a gang's last wave waits for its commands, then writes the gang record. (R329) -/
  | gangRecordSave (core gang : Nat)
  /-- When every lane of a wave with a due debug stop has stopped, it parks and a STOP record is written. (R377) -/
  | wavePark (core wave : Nat)
  /-- The Ladle finishes writing a 512-byte chunk and sets its bitmap bit. (R108) -/
  | ladleChunkDone (core cmd chunk : Nat)
  /-- A Ladle command releases, clears its flag, finalises chunk bits and writes its status. (R107) -/
  | ladleComplete (core cmd : Nat) (members : List (List Byte))
  /-- The MXE starts a queued command once its ranges and team members allow. (R243) -/
  | mxeCommandStart (core cmd : Nat)
  /-- An MXE command completes one k-step across its blocks and advances %mxprog, or stops on a fault. (R246) -/
  | mxeKstep (core cmd : Nat)
  /-- An MXE command completes with its status after its ring drains. (R248) -/
  | mxeComplete (core cmd : Nat)
  /-- The Colander accepts a query from its intake queue, checks it and writes every record MISS. (R270) -/
  | colanderAccept (core : Nat)
  /-- A beam acts on a reference whose target has been read, skipping, descending, splitting or testing triangles. (R265) -/
  | colanderNodeVisit (core beam : Nat)
  /-- A query whose traversal and records are done releases, writes bytes 48–63 and clears its flag. (R271) -/
  | queryComplete (core qid : Nat)
  /-- A continuation finishes its traversal, sets its record DONE and clears its flag. (R272) -/
  | beamcontComplete (core cont : Nat)
  /-- A lane's lookup is performed at the key's home slice, answering HIT, INFLIGHT, MISS, DENIED or BUSY. (R283) -/
  | stkLookup (core wave op lane : Nat)
  /-- A batch reaching 32 records, 512 fc or the ring's wrap is released and posted as a card to SHQ. (R286) -/
  | shadingBatchPost (slice world : Nat)
  /-- A STKFILL or STKDROP is performed at the home slice, changing the entry and waking its waiters. (R285) -/
  | stkFillPerform (core wave op lane : Nat)
  /-- The front end culls, snaps and rasterises an accepted primitive and sends its tiles to their home cores. (R297) -/
  | primitiveRasterise (pass : Nat)
  /-- A home core creates a surface wave for up to 32 fragments of a primitive in one tile. (R298) -/
  | surfaceWaveCreate (core : Nat)
  /-- An exported fragment is applied at its pixel, in PSEQ order, by depth test and blend. (R300) -/
  | fragmentApply (pass x y : Nat)
  /-- A pass whose draws are finished and fragments applied releases at PKG and writes its completion record. (R302) -/
  | passComplete (pass : Nat)
  /-- No effect. (R154) -/
  | nop (f : Fields)
  /-- Direct branch at the end of the run. (R154) -/
  | bra (f : Fields)
  /-- Indirect branch with an IND landing check. (R154) -/
  | brx (f : Fields)
  /-- Direct call writing the fall-through address. (R154) -/
  | call (f : Fields)
  /-- Indirect call with a CALL landing check. (R154) -/
  | callx (f : Fields)
  /-- Return to an address held in a register. (R154) -/
  | ret (f : Fields)
  /-- Ends the active lanes' threads at the run's end. (R154) -/
  | exit (f : Fields)
  /-- True when the predicate holds in every voting lane. (R161) -/
  | vall (f : Fields)
  /-- True when the predicate holds in some voting lane. (R161) -/
  | vany (f : Fields)
  /-- Mask of voting lanes whose predicate is true. (R161) -/
  | vballot (f : Fields)
  /-- Per lane, mask of voting lanes holding an equal value. (R161) -/
  | vmatch (f : Fields)
  /-- Reads the lane at a position of the segment. (R162) -/
  | lxpick (f : Fields)
  /-- Reads a lane k back within the segment, or the fill. (R162) -/
  | lxshift (f : Fields)
  /-- Reads a lane k back around the segment. (R162) -/
  | lxrot (f : Fields)
  /-- Reads lane L xor k within the segment. (R162) -/
  | lxswap (f : Fields)
  /-- Reads one lane's value into a uniform register. (R162) -/
  | rdlane (f : Fields)
  /-- Holds lanes until the named flags are clear. (R215) -/
  | waitf (f : Fields)
  /-- Holds lanes for a number of cc. (R215) -/
  | sleep (f : Fields)
  /-- Holds lanes until %clock reaches a value. (R215) -/
  | sleepuntil (f : Fields)
  /-- Checks chunk bits, trapping PROMISE_MISSED when any is clear. (R216) -/
  | chkprom (f : Fields)
  /-- Holds lanes until the named chunk bits are set. (R216) -/
  | waitchk (f : Fields)
  /-- Releases and arrives at a barrier. (R218) -/
  | bararv (f : Fields)
  /-- Waits until the wave's arrival phase has passed, then acquires. (R218) -/
  | barwait (f : Fields)
  /-- Arrives and waits at a barrier. (R218) -/
  | barsync (f : Fields)
  /-- Reads a barrier field. (R218) -/
  | barinfo (f : Fields)
  /-- Asks for new waves to join the gang, writing success into a predicate. (R219) -/
  | gattach (f : Fields)
  /-- Ends every thread of the wave and detaches it from its gang. (R220) -/
  | gdetach (f : Fields)
  /-- Reads gang membership information. (R221) -/
  | ginfo (f : Fields)
  /-- Reserves the next ring stage to fill and returns its offset once depth allows. (R222) -/
  | ringfillBegin (f : Fields)
  /-- Marks a filling stage FULL. (R222) -/
  | ringfillEnd (f : Fields)
  /-- Reserves the next stage to drain and returns it once FULL. (R222) -/
  | ringdrainBegin (f : Fields)
  /-- Marks a draining stage drained and advances DRAINN. (R222) -/
  | ringdrainEnd (f : Fields)
  /-- Holds lanes until the wave has at most a unfinished MXE commands. (R215) -/
  | waitmx (f : Fields)
  /-- Holds lanes until the wave's next barrel visit has passed. (R215) -/
  | yield (f : Fields)
  /-- Integer add. (R163) -/
  | iadd (f : Fields)
  /-- Integer subtract. (R163) -/
  | isub (f : Fields)
  /-- Add with carry in and carry out. (R163) -/
  | iaddc (f : Fields)
  /-- Subtract with borrow in and out. (R163) -/
  | isubb (f : Fields)
  /-- Saturating add. (R163) -/
  | iadds (f : Fields)
  /-- Saturating subtract. (R163) -/
  | isubs (f : Fields)
  /-- Three-way add. (R163) -/
  | isum3 (f : Fields)
  /-- Integer negate. (R163) -/
  | ineg (f : Fields)
  /-- Integer absolute value. (R163) -/
  | iabs (f : Fields)
  /-- Absolute difference plus addend. (R163) -/
  | iabsd (f : Fields)
  /-- 64-bit add of a shifted, extended 32-bit value. (R163) -/
  | ixadd (f : Fields)
  /-- Bitwise and. (R163) -/
  | and (f : Fields)
  /-- Bitwise or. (R163) -/
  | or (f : Fields)
  /-- Bitwise exclusive or. (R163) -/
  | xor (f : Fields)
  /-- Bitwise not. (R163) -/
  | not (f : Fields)
  /-- Arbitrary bitwise function of three inputs by table. (R163) -/
  | blut3 (f : Fields)
  /-- Low 32 bits of a product. (R164) -/
  | imul (f : Fields)
  /-- High 32 bits of a product. (R164) -/
  | imulhi (f : Fields)
  /-- Multiply-add modulo 2^32. (R164) -/
  | imad (f : Fields)
  /-- Widening multiply-add to 64 bits. (R164) -/
  | imadw (f : Fields)
  /-- Shift left, wrapped or clamped. (R165) -/
  | shl (f : Fields)
  /-- Logical shift right. (R165) -/
  | shr (f : Fields)
  /-- Arithmetic shift right. (R165) -/
  | sar (f : Fields)
  /-- Rotate left. (R164) -/
  | rotl (f : Fields)
  /-- Rotate right. (R164) -/
  | rotr (f : Fields)
  /-- Funnel shift of a 64-bit pair. (R164) -/
  | funnel (f : Fields)
  /-- Bit-field extract. (R166) -/
  | bfe (f : Fields)
  /-- Bit-field insert. (R166) -/
  | bfi (f : Fields)
  /-- Population count. (R164) -/
  | popc (f : Fields)
  /-- Count leading zeros. (R164) -/
  | clz (f : Fields)
  /-- Bit reverse. (R164) -/
  | brev (f : Fields)
  /-- Index of the lowest set bit. (R164) -/
  | ffs (f : Fields)
  /-- Integer compare with optional combine. (R167) -/
  | icmp (f : Fields)
  /-- 64-bit integer compare. (R167) -/
  | icmpw (f : Fields)
  /-- Select by predicate. (R168) -/
  | sel (f : Fields)
  /-- 64-bit select by predicate. (R168) -/
  | selw (f : Fields)
  /-- Integer minimum. (R168) -/
  | imin (f : Fields)
  /-- Integer maximum. (R168) -/
  | imax (f : Fields)
  /-- 64-bit integer minimum. (R168) -/
  | iminw (f : Fields)
  /-- 64-bit integer maximum. (R168) -/
  | imaxw (f : Fields)
  /-- Integer clamp. (R168) -/
  | iclamp (f : Fields)
  /-- 32-bit move. (R169) -/
  | mov (f : Fields)
  /-- 64-bit move. (R169) -/
  | movw (f : Fields)
  /-- Moves a tile descriptor or one of its words. (R169) -/
  | movt (f : Fields)
  /-- Predicate move. (R169) -/
  | pmov (f : Fields)
  /-- Predicate function of three predicates by table. (R170) -/
  | plut3 (f : Fields)
  /-- Packs predicates into a register. (R170) -/
  | p2s (f : Fields)
  /-- Unpacks register bits into predicates. (R170) -/
  | s2p (f : Fields)
  /-- FP32 add. (R179) -/
  | fadd (f : Fields)
  /-- FP32 subtract. (R179) -/
  | fsub (f : Fields)
  /-- FP32 multiply. (R179) -/
  | fmul (f : Fields)
  /-- FP32 fused multiply-add. (R179) -/
  | ffma (f : Fields)
  /-- FP32 minimum. (R181) -/
  | fmin (f : Fields)
  /-- FP32 maximum. (R181) -/
  | fmax (f : Fields)
  /-- FP32 median of three. (R179) -/
  | fmed3 (f : Fields)
  /-- FP32 compare. (R182) -/
  | fcmp (f : Fields)
  /-- Inverts the FP32 sign bit. (R179) -/
  | fneg (f : Fields)
  /-- Clears the FP32 sign bit. (R179) -/
  | fabs (f : Fields)
  /-- Copies a sign bit. (R179) -/
  | fcpsgn (f : Fields)
  /-- Rounds to an integral FP32 value. (R183) -/
  | frint (f : Fields)
  /-- Multiplies by a power of two. (R183) -/
  | fscale (f : Fields)
  /-- Classifies an FP32 value. (R184) -/
  | fclass (f : Fields)
  /-- Extracts the exponent. (R184) -/
  | fgetexp (f : Fields)
  /-- Fractional part. (R183) -/
  | ffrc (f : Fields)
  /-- Packed FP16 add. (R185) -/
  | hadd2 (f : Fields)
  /-- Packed FP16 subtract. (R185) -/
  | hsub2 (f : Fields)
  /-- Packed FP16 multiply. (R185) -/
  | hmul2 (f : Fields)
  /-- Packed FP16 fused multiply-add. (R185) -/
  | hfma2 (f : Fields)
  /-- Packed FP16 minimum. (R185) -/
  | hmin2 (f : Fields)
  /-- Packed FP16 maximum. (R185) -/
  | hmax2 (f : Fields)
  /-- Packed FP16 compare. (R186) -/
  | hcmp2 (f : Fields)
  /-- Packed sign inversion. (R185) -/
  | hneg2 (f : Fields)
  /-- Packed sign clear. (R185) -/
  | habs2 (f : Fields)
  /-- Packed BF16 add. (R185) -/
  | badd2 (f : Fields)
  /-- Packed BF16 subtract. (R185) -/
  | bsub2 (f : Fields)
  /-- Packed BF16 multiply. (R185) -/
  | bmul2 (f : Fields)
  /-- Packed BF16 fused multiply-add. (R185) -/
  | bfma2 (f : Fields)
  /-- Packed BF16 minimum. (R185) -/
  | bmin2 (f : Fields)
  /-- Packed BF16 maximum. (R185) -/
  | bmax2 (f : Fields)
  /-- Packed BF16 compare. (R186) -/
  | bcmp2 (f : Fields)
  /-- FP64 add. (R187) -/
  | dadd (f : Fields)
  /-- FP64 subtract. (R187) -/
  | dsub (f : Fields)
  /-- FP64 multiply. (R187) -/
  | dmul (f : Fields)
  /-- FP64 fused multiply-add. (R187) -/
  | dfma (f : Fields)
  /-- FP64 minimum. (R187) -/
  | dmin (f : Fields)
  /-- FP64 maximum. (R187) -/
  | dmax (f : Fields)
  /-- FP64 compare. (R187) -/
  | dcmp (f : Fields)
  /-- Inverts the FP64 sign bit. (R187) -/
  | dneg (f : Fields)
  /-- Clears the FP64 sign bit. (R187) -/
  | dabs (f : Fields)
  /-- Copies an FP64 sign bit. (R187) -/
  | dcpsgn (f : Fields)
  /-- Rounds to an integral FP64 value. (R187) -/
  | drint (f : Fields)
  /-- FP64 multiply by a power of two. (R187) -/
  | dscale (f : Fields)
  /-- Classifies an FP64 value. (R187) -/
  | dclass (f : Fields)
  /-- Extracts an FP64 exponent. (R187) -/
  | dgetexp (f : Fields)
  /-- FP64 reciprocal. (R187) -/
  | drcp (f : Fields)
  /-- FP64 reciprocal square root, faithful. (R187) -/
  | drsq (f : Fields)
  /-- Float-to-float conversion. (R190) -/
  | cvtf (f : Fields)
  /-- Float-to-integer conversion. (R190) -/
  | cvtfi (f : Fields)
  /-- Integer-to-float conversion. (R190) -/
  | cvtif (f : Fields)
  /-- Integer-to-integer conversion, wrapped or saturated. (R190) -/
  | cvtii (f : Fields)
  /-- Float conversion with a 64-bit side. (R190) -/
  | cvtfw (f : Fields)
  /-- Float–integer conversion with a 64-bit side. (R190) -/
  | cvtifw (f : Fields)
  /-- Converts two FP32 values into a packed 16-bit pair. (R191) -/
  | cvtpk2 (f : Fields)
  /-- Converts two FP32 values into an 8-bit element pair. (R191) -/
  | cvtpk4 (f : Fields)
  /-- Converts two FP32 values into a 4-bit element pair. (R191) -/
  | cvtpk8 (f : Fields)
  /-- Expands a 16-bit pair exactly. (R191) -/
  | cvtex2 (f : Fields)
  /-- Expands an 8-bit element pair exactly. (R191) -/
  | cvtex4 (f : Fields)
  /-- Expands a 4-bit element pair exactly. (R191) -/
  | cvtex8 (f : Fields)
  /-- Applies an E8 block scale. (R192) -/
  | cvtsc (f : Fields)
  /-- Computes the smallest fitting E8 scale. (R192) -/
  | cvtqs (f : Fields)
  /-- Byte permute with sign and constant modes. (R193) -/
  | bpick (f : Fields)
  /-- Swizzles 16-bit halves. (R193) -/
  | swzh (f : Fields)
  /-- FP32 reciprocal. (R194) -/
  | frcp (f : Fields)
  /-- FP32 reciprocal square root, faithful. (R194) -/
  | frsq (f : Fields)
  /-- FP32 square root. (R194) -/
  | fsqrt (f : Fields)
  /-- Base-2 exponential, faithful. (R194) -/
  | fexp2 (f : Fields)
  /-- Base-2 logarithm, faithful. (R194) -/
  | flog2 (f : Fields)
  /-- sin(πx), faithful. (R194) -/
  | fsin (f : Fields)
  /-- cos(πx), faithful. (R194) -/
  | fcos (f : Fields)
  /-- Hyperbolic tangent, faithful. (R194) -/
  | ftanh (f : Fields)
  /-- FP16 two-term dot product into FP32. (R196) -/
  | fdot2h (f : Fields)
  /-- BF16 two-term dot product into FP32. (R196) -/
  | fdot2b (f : Fields)
  /-- FP8 four-term dot product into FP32. (R196) -/
  | fdot4e (f : Fields)
  /-- 8-bit integer four-term dot product. (R196) -/
  | idot4 (f : Fields)
  /-- 4-bit integer eight-term dot product. (R196) -/
  | idot8 (f : Fields)
  /-- FP64 two-term dot product. (R196) -/
  | ddot2 (f : Fields)
  /-- Seeds the per-lane stochastic-rounding state. (R197) -/
  | srseed (f : Fields)
  /-- Reads the per-lane stochastic-rounding state. (R197) -/
  | srread (f : Fields)
  /-- Plain per-lane load from the shared space. (R203) -/
  | ld (f : Fields)
  /-- Plain per-lane store to the shared space. (R203) -/
  | st (f : Fields)
  /-- Plain uniform load. (R202) -/
  | lds (f : Fields)
  /-- Plain uniform store. (R202) -/
  | sts (f : Fields)
  /-- Load read at the home slice, bypassing the L1. (R203) -/
  | ldnc (f : Fields)
  /-- Register-window load from an assembled address. (R205) -/
  | ldwin (f : Fields)
  /-- Register-window store to an assembled address. (R205) -/
  | stwin (f : Fields)
  /-- Prefetch hint. (R206) -/
  | pref (f : Fields)
  /-- Invalidates L1 data lines of a range. (R206) -/
  | cinv (f : Fields)
  /-- Invalidates L0 instruction lines of a range. (R206) -/
  | iinv (f : Fields)
  /-- Q-form load at consecutive lane addresses. (R198) -/
  | ldq (f : Fields)
  /-- Q-form store at consecutive lane addresses. (R198) -/
  | stq (f : Fields)
  /-- Bounds-checked load. (R204) -/
  | ldbc (f : Fields)
  /-- Load and widen to FP32. (R204) -/
  | ldcvt (f : Fields)
  /-- Probes whether a read would be permitted. (R204) -/
  | ldprb (f : Fields)
  /-- Stores 64 zero bytes. (R202) -/
  | stzero (f : Fields)
  /-- Load from G. (R207) -/
  | ldg (f : Fields)
  /-- Store to G. (R207) -/
  | stg (f : Fields)
  /-- Load from W. (R207) -/
  | ldw (f : Fields)
  /-- Load from X. (R207) -/
  | ldx (f : Fields)
  /-- Store to X. (R207) -/
  | stx (f : Fields)
  /-- Convert-load from Z. (R209) -/
  | cvlz (f : Fields)
  /-- Convert-store to Z. (R209) -/
  | cvsz (f : Fields)
  /-- Transposed convert-load from an accumulator. (R209) -/
  | cvlzT (f : Fields)
  /-- Convert and add into Z. (R209) -/
  | cvszAdd (f : Fields)
  /-- Q-form load from G. (R207) -/
  | ldgq (f : Fields)
  /-- Q-form store to G. (R207) -/
  | stgq (f : Fields)
  /-- Q-form load from X. (R207) -/
  | ldxq (f : Fields)
  /-- Q-form store to X. (R207) -/
  | stxq (f : Fields)
  /-- Q-form load from W. (R207) -/
  | ldwq (f : Fields)
  /-- Fills a G range with a 32-bit value. (R207) -/
  | gfill (f : Fields)
  /-- Bounds-checked load from G. (R207) -/
  | ldgbc (f : Fields)
  /-- Atomic add. (R211) -/
  | atadd (f : Fields)
  /-- Atomic minimum. (R211) -/
  | atmin (f : Fields)
  /-- Atomic maximum. (R211) -/
  | atmax (f : Fields)
  /-- Atomic and. (R211) -/
  | atand (f : Fields)
  /-- Atomic or. (R211) -/
  | ator (f : Fields)
  /-- Atomic exclusive or. (R211) -/
  | atxor (f : Fields)
  /-- Atomic exchange. (R211) -/
  | atxchg (f : Fields)
  /-- Atomic compare-and-swap. (R211) -/
  | atcas (f : Fields)
  /-- Atomic wrapping increment. (R211) -/
  | atinc (f : Fields)
  /-- Atomic wrapping decrement. (R211) -/
  | atdec (f : Fields)
  /-- Atomic floating-point add. (R211) -/
  | atfadd (f : Fields)
  /-- Atomic load. (R211) -/
  | atld (f : Fields)
  /-- Atomic store. (R211) -/
  | atst (f : Fields)
  /-- Reduction across the voting lanes. (R213) -/
  | wred (f : Fields)
  /-- Phase boundary: release then acquire at a scope. (R214) -/
  | phase (f : Fields)
  /-- Prefix scan across the voting lanes. (R213) -/
  | wscan (f : Fields)
  /-- Ladle copy, optionally through a Deckle graph. (R233) -/
  | lcopy (f : Fields)
  /-- Ladle copy-out converting accumulators. (R238) -/
  | lcopyo (f : Fields)
  /-- Ladle gather of tensor rows by index. (R239) -/
  | lgath (f : Fields)
  /-- Ladle scatter-reduce of rows by index. (R239) -/
  | lscred (f : Fields)
  /-- Ladle copy from this module to a peer. (R240) -/
  | lrcopyPush (f : Fields)
  /-- Ladle copy from a peer to this module. (R240) -/
  | lrcopyPull (f : Fields)
  /-- Ladle collective among 2 to 16 modules. (R240) -/
  | lcoll (f : Fields)
  /-- Ladle fill of a destination with a value. (R240) -/
  | lfill (f : Fields)
  /-- Reads a field of the wave's Ladle status. (R236) -/
  | lstat (f : Fields)
  /-- Queues a matrix multiply-accumulate over k-steps. (R246) -/
  | mxloop (f : Fields)
  /-- Queues a matrix command with PARAM from a register. (R244) -/
  | mxstep (f : Fields)
  /-- Queues zeroing of accumulators. (R244) -/
  | mxzero (f : Fields)
  /-- Reads team id, rank or size. (R250) -/
  | mxteam (f : Fields)
  /-- Sets the gang's MXE spill ring. (R243) -/
  | mxqsetCmdr (f : Fields)
  /-- Sets the gang's stamp ring. (R243) -/
  | mxqsetStmr (f : Fields)
  /-- Reads MXE status of the wave. (R250) -/
  | mxstat (f : Fields)
  /-- Runs a Deckle graph per a graph run record. (R237) -/
  | dkrun (f : Fields)
  /-- Posts a copy of a job card to a queue and returns its status. (R224) -/
  | jobpost (f : Fields)
  /-- Filtered texture sample. (R294) -/
  | tex (f : Fields)
  /-- Texture gather of one channel. (R294) -/
  | texg (f : Fields)
  /-- Texture size query. (R293) -/
  | texq (f : Fields)
  /-- Stockpot lookup, optionally posting shading work. (R283) -/
  | stk (f : Fields)
  /-- Fills a Stockpot entry's slot from G. (R285) -/
  | stkfill (f : Fields)
  /-- Drops an in-flight Stockpot entry. (R285) -/
  | stkdrop (f : Fields)
  /-- Invalidates objects by advancing bucket generations. (R287) -/
  | stkinv (f : Fields)
  /-- Advances the world age. (R288) -/
  | stkage (f : Fields)
  /-- Issues a beam query. (R271) -/
  | beamq (f : Fields)
  /-- Issues a query of individual rays. (R271) -/
  | rayq (f : Fields)
  /-- Continues a claimed split record. (R272) -/
  | beamcont (f : Fields)
  /-- Claims the lowest OPEN split record. (R273) -/
  | sqpop (f : Fields)
  /-- Reads a split-queue count of a query. (R273) -/
  | sqpeek (f : Fields)
  /-- Exports vertices to the gang's vertex store. (R296) -/
  | expvtx (f : Fields)
  /-- Emits triangles for a draw. (R296) -/
  | expprim (f : Fields)
  /-- Marks the unit's exports to a draw as finished. (R296) -/
  | expprimEnd (f : Fields)
  /-- Exports a fragment's colour and depth. (R299) -/
  | expfrag (f : Fields)
  /-- User trap at the run's end. (R171) -/
  | trap (f : Fields)
  /-- Breakpoint trap when enabled. (R171) -/
  | brk (f : Fields)
  /-- Reads a user special register. (R172) -/
  | srd (f : Fields)
  /-- Writes WSTAT bits 7:0. (R173) -/
  | swrWrite (f : Fields)
  /-- Sets WSTAT bits 7:0. (R173) -/
  | swrSet (f : Fields)
  /-- Clears WSTAT bits 7:0. (R173) -/
  | swrClear (f : Fields)
  /-- Returns from a trap to the saved level and address. (R318) -/
  | rte (f : Fields)
  /-- Reads a privileged special register. (R322) -/
  | psrd (f : Fields)
  /-- Writes a privileged special register. (R322) -/
  | pswr (f : Fields)
  /-- Pre-empts and saves a wave to a record. (R332) -/
  | ctxsv (f : Fields)
  /-- Restores a wave from a save record. (R332) -/
  | ctxld (f : Fields)
  /-- Invalidates the function's translations for a range. (R333) -/
  | tlbinv (f : Fields)
  /-- Invalidates translations by function or guest physical range. (R333) -/
  | tlbinva (f : Fields)
  /-- Sets the owner of FREE frames. (R334) -/
  | ownset (f : Fields)
  /-- Reads a frame's owner. (R334) -/
  | ownget (f : Fields)
  /-- Sets a watchpoint of the core. (R335) -/
  | wpset (f : Fields)
  /-- Pauses dealing from a queue. (R336) -/
  | haltqPause (f : Fields)
  /-- Resumes dealing from a queue. (R336) -/
  | haltqResume (f : Fields)
  /-- Withdraws a queue, aborting its cards. (R336) -/
  | haltqWithdraw (f : Fields)
  /-- Zeroes frames through SCRUBBING to FREE. (R369) -/
  | scrub (f : Fields)
  /-- A write to the Sieve mailbox's SUBMIT register copies CODE and ARG0–ARG5, sets PENDING and queues the request, or is ignored and counted as a mailbox overrun while PENDING is set. (R392) -/
  | submit (vf : Nat) (token : W32)
  /-- A quadrant's Deckle, as an eligible consumer of a KIND 1 card, requests work and is dealt a chunk of graph run records, each of which then runs as DKRUN does. (R237) -/
  | deckleWorkRequest (quadrant : Nat)
  /-- Loss of the module's supply stops all work, losing volatile state while the HSS state already advanced in non-volatile storage survives. (R401) -/
  | powerLoss
  /-- A DOE discovery request on the mailbox of PF 0 or PF 1 is answered with the supported data object protocols. (R390) -/
  | doeDiscovery (pf index : Nat)
  deriving DecidableEq, Repr

end Sys2Proof
end

