-- ==== Sys2Proof/Decode.lean ====
section
/-! DEFINITION. The instruction word: bit layout (06 R136), operand forms and MOD values every opcode permits (06 R141
and the instruction chapters), the decoder, and the encoder. A word that a pattern of R143 decidable from the word alone
matches is rejected by the name of the pattern; the machine turns that into the trap ILLEGAL_ENCODING. -/

namespace Sys2Proof

/-- Bits hi:lo of a word, as a vector of n bits. -/
def field (w : W128) (lo n : Nat) : BitVec n := w.extractLsb' lo n

/-- Bits of MOD, by position in MOD (06 R138). -/
def Fields.m (f : Fields) (lo n : Nat) : Nat := (f.mod.extractLsb' lo n).toNat

/-- The pattern of R143 that a word matches, decided from the word alone. -/
inductive BadWord where
  /-- an operand class the opcode does not permit, an index out of range for its class, an odd pair -/
  | operand
  /-- two operands of class 101, or IMM against its use -/
  | immediate
  /-- a reserved MOD bit, or a MOD value not assigned -/
  | modifier
  /-- an RU bit for an operand not of class vector -/
  | reuse
  /-- T where it is not permitted -/
  | transient
  /-- SF = 1 on a word that raises no flag -/
  | flag
  deriving DecidableEq, Repr

/-- What a field of an opcode may hold: a class and a width in registers (07, class abbreviations). -/
inductive K where
  | v | v64 | v4 | u | u64 | u4 | p | t | ac | i | x | n
  deriving DecidableEq, Repr

/-- An operand of kind k: class, index within the class's names (02 R40, R47), parity of a pair (02 R41),
multiples of four (09 R199). -/
def K.ok (k : K) (o : Opnd) : Bool :=
  match k, o with
  | K.v, Opnd.vec _ => true
  | K.v64, Opnd.vec r => r.toNat % 2 == 0
  | K.v4, Opnd.vec r => r.toNat % 4 == 0
  | K.u, Opnd.uni r => decide (r.toNat < 256)
  | K.u64, Opnd.uni r => decide (r.toNat < 256) && r.toNat % 2 == 0
  | K.u4, Opnd.uni r => decide (r.toNat < 256) && r.toNat % 4 == 0
  | K.p, Opnd.pred r => decide (r.toNat < 16)
  | K.t, Opnd.tile r => decide (r.toNat < 16)
  | K.ac, Opnd.acc r => decide (r.toNat < 32)
  | K.i, Opnd.imm => true
  | K.x, Opnd.spec r => decide (r.toNat < 11)
  | K.n, Opnd.absent => true
  | _, _ => false

/-- The form of an opcode: the kinds of its four fields, the MOD bits it assigns, whether the MOD values hold, and
what IMM may be when no operand is immediate (06 R137). -/
structure Form where
  d : List K
  a : List K
  b : List K
  c : List K
  mask : BitVec 21
  modOk : Bool
  immOk : Bool
  deriving DecidableEq, Repr

/-- MOD bits hi:lo. -/
def mb (hi lo : Nat) : BitVec 21 := BitVec.ofNat 21 (2 ^ (hi + 1) - 2 ^ lo)

/-- A form without MOD bits, whose IMM is zero unless an operand is immediate. -/
def form (f : Fields) (d a b c : List K) (mask : BitVec 21 := 0) (modOk : Bool := true) : Form :=
  { d, a, b, c, mask, modOk, immOk := f.imm == 0 }

/-- A form whose IMM is the opcode's own field. -/
def formOwn (d a b c : List K) (mask : BitVec 21 := 0) (modOk : Bool := true) (immOk : Bool := true) : Form :=
  { d, a, b, c, mask, modOk, immOk }

/-- A 32-bit vector or uniform register. -/
def vu : List K := [.v, .u]
/-- A 64-bit pair of either class. -/
def vu64 : List K := [.v64, .u64]
/-- The source set s of chapter 07. -/
def ksrc : List K := [.v, .u, .i, .x]
/-- The 64-bit sources of chapter 07. -/
def ksrc64 : List K := [.v64, .u64, .i, .x]
/-- Vector, uniform or immediate. -/
def vui : List K := [.v, .u, .i]
/-- 64-bit vector, uniform or immediate. -/
def vui64 : List K := [.v64, .u64, .i]
/-- No operand. -/
def none' : List K := [.n]

/-- RM of a word that rounds and takes no SR (05 R118). -/
def rm3 (f : Fields) : Bool := decide (f.m 0 3 ≤ 3)
/-- SCOPE (04 R91). -/
def scopeOk (f : Fields) : Bool := decide (f.m 7 4 ≤ 11)

/-- The data kinds of an access of size code sz for class V (09 R199). -/
def dataV (sz : Nat) : List K := if sz = 4 then [.v4] else if sz = 3 then [.v64] else [.v]
/-- The data kinds of an access of size code sz for class U (09 R199). -/
def dataU (sz : Nat) : List K := if sz = 4 then [.u4] else if sz = 3 then [.u64] else [.u]

/-- MOD of rows 0xA and 0xB but the Z forms: SZ ≤ 4, SX only on 1- and 2-byte loads, CH below 3 (09 R201). -/
def accessOk (f : Fields) (load : Bool) : Bool :=
  decide (f.m 0 3 ≤ 4) && (f.m 3 1 == 0 || (load && decide (f.m 0 3 ≤ 1))) && f.m 4 2 != 3

/-- MOD of rows 0x5 to 0x7 (08 R178): which of RM, the sign modifiers of each operand, PROP, CC, HSEL, SATF a word
uses. -/
def fpMask (rm mA mB mC prop cc hsel satf : Bool) : BitVec 21 :=
  (if rm then mb 2 0 else 0) ||| (if mA then mb 3 3 ||| mb 6 6 else 0) ||| (if mB then mb 4 4 ||| mb 7 7 else 0) |||
  (if mC then mb 5 5 else 0) ||| (if prop then mb 8 8 else 0) ||| (if cc then mb 12 9 else 0) |||
  (if hsel then mb 14 13 else 0) ||| (if satf then mb 15 15 else 0)

/-- RM 0 to 3 and CC 0 to 7 (08 R178). -/
def fpOk (f : Fields) : Bool := decide (f.m 0 3 ≤ 3) && decide (f.m 9 4 ≤ 7)

/-- The number formats and their codes (08 R188); BYTE is code 30 of R227. -/
inductive Fmt where
  | fp32 | fp16 | bf16 | e4m3 | e5m2 | e2m1 | fp64
  | s32 | n32 | s64 | n64 | s16 | n16 | s8 | n8 | s4 | n4
  | byte
  deriving DecidableEq, Repr, Inhabited

/-- The format a code names (08 R188). -/
def Fmt.ofCode (n : Nat) : Option Fmt :=
  match n with
  | 0 => some .fp32 | 1 => some .fp16 | 2 => some .bf16 | 3 => some .e4m3 | 4 => some .e5m2 | 5 => some .e2m1
  | 6 => some .fp64 | 16 => some .s32 | 17 => some .n32 | 18 => some .s64 | 19 => some .n64 | 20 => some .s16
  | 21 => some .n16 | 22 => some .s8 | 23 => some .n8 | 24 => some .s4 | 25 => some .n4
  | _ => none

/-- The format a code of R227 names: those of R188, or 30 BYTE. -/
def Fmt.ofCode227 (n : Nat) : Option Fmt := if n = 30 then some .byte else Fmt.ofCode n

/-- Bits of one element (05 R113, R115). -/
def Fmt.width : Fmt → Nat
  | .fp64 | .s64 | .n64 => 64
  | .fp32 | .s32 | .n32 => 32
  | .fp16 | .bf16 | .s16 | .n16 => 16
  | .e4m3 | .e5m2 | .s8 | .n8 | .byte => 8
  | .e2m1 | .s4 | .n4 => 4

/-- A floating-point format (05 R113). -/
def Fmt.isFloat : Fmt → Bool
  | .fp32 | .fp16 | .bf16 | .e4m3 | .e5m2 | .e2m1 | .fp64 => true
  | _ => false

/-- A signed integer format (05 R115). -/
def Fmt.isSigned : Fmt → Bool
  | .s64 | .s32 | .s16 | .s8 | .s4 => true
  | _ => false

/-- A format that carries E8 block scales (05 R117). -/
def Fmt.scaled : Fmt → Bool
  | .e4m3 | .e5m2 | .e2m1 => true
  | _ => false

/-- MOD of a conversion word (08 R188, R189): the permitted DFMT and AFMT codes, the limit of POS, and which of RM, OVM,
ISAT, SCDIR are used. -/
def cvtOk (f : Fields) (dset aset : List Nat) (posMax : Nat) (rm ovm isat scdir : Bool) : Bool :=
  let df := f.m 3 5
  let af := f.m 8 5
  dset.contains df && aset.contains af && decide (f.m 14 3 ≤ posMax) &&
  (if rm then decide (f.m 0 3 ≤ 4) else f.m 0 3 == 0) &&
  (f.m 13 1 == 0 || (ovm && (df == 3 || df == 4 || df == 5))) &&
  (f.m 17 1 == 0 || isat) && (f.m 18 1 == 0 || scdir)

/-- The limit of POS for a source of format code c: below 32 / width, and 0 for 32 and 64 bits (08 R190). -/
def posMaxOf (c : Nat) : Nat :=
  match Fmt.ofCode c with
  | some t => if t.width < 32 then 32 / t.width - 1 else 0
  | none => 0

/-- Float codes of 32 bits or fewer, and integer codes of 32 bits or fewer (08 R189). -/
def fcodes : List Nat := [0, 1, 2, 3, 4, 5]
/-- See fcodes. -/
def icodes : List Nat := [16, 17, 20, 21, 22, 23, 24, 25]

/-- A result or source kind of width 64 when the code names a 64-bit format (08 R189). -/
def cvtD (c : Nat) : List K := if c = 6 ∨ c = 18 ∨ c = 19 then vu64 else vu
/-- See cvtD. -/
def cvtA (c : Nat) : List K := if c = 6 ∨ c = 18 ∨ c = 19 then vui64 else vui

/-- The ORD field is permitted for an atomic (04 R93): whether COMMUTATIVE, QUANTUM and SPECULATIVE apply to the
operation, and whether a destination is present. -/
def ordOk (f : Fields) (comm quant spec : Bool) : Bool :=
  let d := f.dst != .absent
  match f.m 3 4 with
  | 0 => true
  | 1 => comm && !d
  | 2 => d
  | 3 => quant && d && f.m 14 1 == 0 && (f.m 11 3 == 0 || f.m 11 3 == 2)
  | 4 => spec
  | 5 => d
  | 6 => true
  | 7 => d
  | 8 => true
  | _ => false

/-- A 64-bit TYPE of an atomic (09 R210). -/
def type64 (t : Nat) : Bool := t == 2 || t == 3 || t == 5

/-- The form of an atomic (09 R210, R211): its TYPE set, whether B, C, a destination are present. -/
def atomForm (f : Fields) (types : List Nat) (b c : Bool) (d : List K) (comm quant spec rm pse : Bool) : Form :=
  let w := type64 (f.m 11 3)
  let r := if w then vu64 else vu
  let dk := d.flatMap (fun k => if k = .n then [K.n] else if w then (if k = .v then [K.v64] else [K.u64]) else [k])
  formOwn dk (if f.m 14 1 = 1 then vu else vu64) (if b then r else none') (if c then r else none')
    (mb 14 0 ||| (if pse then mb 19 15 else 0))
    (types.contains (f.m 11 3) && scopeOk f && ordOk f comm quant spec &&
      (if rm then decide (f.m 0 3 ≤ 3) else f.m 0 3 == 0) && (f.m 19 1 == 1 || f.m 15 4 == 0))

/-- MOD bits of a Ladle-queue word (10 R231): SCOPE, REL and ACQ always, and the bits in extra. -/
def ladleOk (f : Fields) : Bool := scopeOk f && (f.m 7 4 == 0 || f.m 3 2 != 0)
/-- See ladleOk. -/
def ladleMask : BitVec 21 := mb 10 7 ||| mb 4 3

/-- IMM of a Ladle-queue word: the bitmap offset with BM, else zero unless B is immediate (10 R231). -/
def ladleForm (f : Fields) (d a b c : List K) (extra : BitVec 21) (ok : Bool) : Form :=
  { d, a, b, c, mask := ladleMask ||| extra, modOk := ladleOk f && ok, immOk := f.m 6 1 == 1 || f.imm == 0 }

/-- PARAM's fields in MXLOOP (10 R244): reserved bits, ACC, NB, MB, KSTEPS, and the solo limits that the word decides. -/
def mxloopOk (p : W32) : Bool :=
  let mbv := (p.extractLsb' 16 4).toNat
  let nb := (p.extractLsb' 20 4).toNat
  let team := (p.extractLsb' 24 1).toNat
  (p.extractLsb' 25 7).toNat == 0 && decide (1 ≤ nb) && decide (nb ≤ 10) && decide (1 ≤ mbv) && decide (mbv ≤ 6) &&
  (p.extractLsb' 0 16).toNat != 0 && (team == 1 || (decide (mbv ≤ 4) && decide (nb ≤ 8)))

/-- Registers of R320 by width: 64-bit PSRN. -/
def psr64 (n : Nat) : Bool := [2, 3, 7, 8, 15, 18, 19, 21].contains n
/-- Registers of R320 with a write level. -/
def psrWritable (n : Nat) : Bool := [0, 2, 6, 7, 8, 9, 15, 16, 18, 21].contains n



/-- Whether an operand is a predicate. -/
def Opnd.isPred : Opnd → Bool
  | .pred _ => true
  | _ => false

/-- Elements of format code c that one 32-bit result register of CVLZ holds (09 R208). -/
def zElems (c : Nat) : Nat :=
  match Fmt.ofCode c with
  | some t => 32 / t.width
  | none => 1

/-- MOD of WRED and WSCAN (09 R213): RO 0 to 5 with the integer TYPEs, RO 6 to 8 with FP32, RM only with FADD. -/
def redOk (f : Fields) : Bool :=
  decide (f.m 11 3 ≤ 4) && decide (f.m 3 4 ≤ 8) && ((f.m 11 3 == 4) == decide (6 ≤ f.m 3 4)) &&
  (if f.m 3 4 = 6 then rm3 f else f.m 0 3 == 0)

/-- The forms of row 0x0, column by column (06 R140, R141). -/
def forms0 (f : Fields) : Nat → Form
  | 0 => form f none' none' none' none'
  | 1 => formOwn none' none' none' none'
  | 2 => form f none' vu64 none' none'
  | 3 => formOwn vu64 none' none' none'
  | 4 => form f vu64 vu64 none' none'
  | 5 => form f none' vu64 none' none'
  | 6 => form f none' none' none' none'
  | 7 => form f [.p, .u] [.p] none' none'
  | 8 => form f [.p, .u] [.p] none' none'
  | 9 => form f vu [.p] none' none'
  | 10 => form f [.v] (if f.m 0 1 = 1 then [.v64] else [.v]) none' none' (mb 0 0)
  | 11 => form f (if f.m 0 1 = 1 then [.v64] else [.v]) (if f.m 0 1 = 1 then [.v64] else [.v]) vui (if f.m 0 1 = 1 then [.v64, .u64, .i, .n] else [.v, .u, .i, .n]) (mb 3 0) (decide (f.m 1 3 ≤ 5))
  | 12 => form f (if f.m 0 1 = 1 then [.v64] else [.v]) (if f.m 0 1 = 1 then [.v64] else [.v]) vui (if f.m 0 1 = 1 then [.v64, .u64, .i, .n] else [.v, .u, .i, .n]) (mb 3 0) (decide (f.m 1 3 ≤ 5))
  | 13 => form f (if f.m 0 1 = 1 then [.v64] else [.v]) (if f.m 0 1 = 1 then [.v64] else [.v]) vui (if f.m 0 1 = 1 then [.v64, .u64, .i, .n] else [.v, .u, .i, .n]) (mb 3 0) (decide (f.m 1 3 ≤ 5))
  | 14 => form f (if f.m 0 1 = 1 then [.v64] else [.v]) (if f.m 0 1 = 1 then [.v64] else [.v]) vui (if f.m 0 1 = 1 then [.v64, .u64, .i, .n] else [.v, .u, .i, .n]) (mb 3 0) (decide (f.m 1 3 ≤ 5))
  | _ => form f (if f.m 0 1 = 1 then [.u64] else [.u]) (if f.m 0 1 = 1 then [.v64] else [.v]) [.u, .i] (if f.m 0 1 = 1 then [.u64, .i, .n] else [.u, .i, .n]) (mb 0 0)

/-- The forms of row 0x1, column by column (06 R140, R141). -/
def forms1 (f : Fields) : Nat → Form
  | 0 => { form f none' [.u, .i] none' none' with immOk := decide (f.imm.toNat < 4096) && (f.a == .imm || f.imm == 0) }
  | 1 => form f none' [.u, .i] none' none'
  | 2 => form f none' [.u64, .i] none' none'
  | 3 => form f none' [.u] [.u, .i] none'
  | 4 => form f none' [.u] [.u, .i] none'
  | 5 => form f none' none' none' none' (mb 3 0 ||| mb 10 7) (scopeOk f && decide (2 ≤ f.m 7 4))
  | 6 => form f none' none' none' none' (mb 3 0 ||| mb 10 7) (scopeOk f && decide (2 ≤ f.m 7 4))
  | 7 => form f none' none' none' none' (mb 3 0 ||| mb 10 7) (scopeOk f && decide (2 ≤ f.m 7 4))
  | 8 => form f [.u] none' none' none' (mb 3 0 ||| mb 13 11) (decide (f.m 11 3 ≤ 5))
  | 9 => form f [.p] [.u, .i] [.u64] [.u]
  | 10 => form f none' none' none' none'
  | 11 => form f (if f.m 0 2 = 3 then [.u64] else [.u]) none' none' none' (mb 1 0)
  | 12 => if f.m 3 1 = 0 then form f [.u64] none' none' none' (mb 3 0) else form f none' [.u, .i] none' none' (mb 3 0)
  | 13 => if f.m 3 1 = 0 then form f [.u64] none' none' none' (mb 3 0) else form f none' [.u, .i] none' none' (mb 3 0)
  | 14 => form f none' [.u, .i] none' none'
  | _ => form f none' none' none' none'

/-- The forms of row 0x2, column by column (06 R140, R141). -/
def forms2 (f : Fields) : Nat → Form
  | 0 => form f vu ksrc ksrc none'
  | 1 => form f vu ksrc ksrc none'
  | 2 => form f vu ksrc ksrc [.p, .n] (mb 3 0)
  | 3 => form f vu ksrc ksrc [.p, .n] (mb 3 0)
  | 4 => form f vu ksrc ksrc none' (mb 0 0)
  | 5 => form f vu ksrc ksrc none' (mb 0 0)
  | 6 => form f vu ksrc ksrc ksrc
  | 7 => form f vu ksrc none' none'
  | 8 => form f vu ksrc none' none'
  | 9 => form f vu ksrc ksrc ksrc (mb 0 0)
  | 10 => form f vu64 ksrc vui64 none' (mb 3 0)
  | 11 => form f vu ksrc ksrc none'
  | 12 => form f vu ksrc ksrc none'
  | 13 => form f vu ksrc ksrc none'
  | 14 => form f vu ksrc none' none'
  | _ => formOwn vu [.v, .u, .x] [.v, .u, .x] [.v, .u, .x] 0 true (decide (f.imm.toNat < 256))

/-- The forms of row 0x3, column by column (06 R140, R141). -/
def forms3 (f : Fields) : Nat → Form
  | 0 => form f vu ksrc ksrc none'
  | 1 => form f vu ksrc ksrc none' (mb 0 0)
  | 2 => form f vu ksrc ksrc ksrc
  | 3 => form f vu64 ksrc ksrc [.v64, .u64, .i, .n] (mb 0 0)
  | 4 => form f vu ksrc ksrc none' (mb 0 0)
  | 5 => form f vu ksrc ksrc none' (mb 0 0)
  | 6 => form f vu ksrc ksrc none' (mb 0 0)
  | 7 => form f vu ksrc ksrc none'
  | 8 => form f vu ksrc ksrc none'
  | 9 => form f vu ksrc ksrc ksrc
  | 10 => form f vu ksrc ksrc ksrc (mb 0 0)
  | 11 => formOwn vu [.v, .u, .x] [.v, .u, .x] none' 0 true (decide (f.imm.toNat < 65536) && (f.imm.extractLsb' 8 8).toNat != 0 && decide ((f.imm.extractLsb' 0 8).toNat + (f.imm.extractLsb' 8 8).toNat ≤ 32))
  | 12 => form f vu ksrc none' none'
  | 13 => form f vu ksrc none' none'
  | 14 => form f vu ksrc none' none'
  | _ => form f vu ksrc none' none'

/-- The forms of row 0x4, column by column (06 R140, R141). -/
def forms4 (f : Fields) : Nat → Form
  | 0 => form f [.p, .v, .u] ksrc ksrc (if f.m 4 2 = 0 then [.n] else [.p]) (mb 5 0) (decide (f.m 1 3 ≤ 5))
  | 1 => form f [.p, .v, .u] ksrc64 ksrc64 (if f.m 4 2 = 0 then [.n] else [.p]) (mb 5 0) (decide (f.m 1 3 ≤ 5))
  | 2 => form f vu ksrc ksrc [.p]
  | 3 => form f vu64 ksrc64 ksrc64 [.p]
  | 4 => form f vu ksrc ksrc none' (mb 0 0)
  | 5 => form f vu ksrc ksrc none' (mb 0 0)
  | 6 => form f vu64 ksrc64 ksrc64 none' (mb 0 0)
  | 7 => form f vu64 ksrc64 ksrc64 none' (mb 0 0)
  | 8 => form f vu ksrc ksrc ksrc (mb 0 0)
  | 9 => form f vu ksrc none' none'
  | 10 => form f vu64 ksrc64 none' none'
  | 11 => form f (if f.m 0 2 = 2 then [.u] else [.t]) (if f.m 0 2 = 1 then [.u, .i] else [.t]) none' none' (mb 4 0) (f.m 0 2 != 3)
  | 12 => form f [.p] [.p, .v, .u, .i] none' none'
  | 13 => formOwn [.p] [.p] [.p] [.p] 0 true (decide (f.imm.toNat < 256))
  | 14 => form f vu ksrc none' none' (mb 15 0)
  | _ => form f none' ksrc none' none' (mb 15 0)

/-- The forms of row 0x5, column by column (06 R140, R141). -/
def forms5 (f : Fields) : Nat → Form
  | 0 => form f vu vui vui none' (fpMask true true true false false false false true) (fpOk f)
  | 1 => form f vu vui vui none' (fpMask true true true false false false false true) (fpOk f)
  | 2 => form f vu vui vui none' (fpMask true true true false false false false true) (fpOk f)
  | 3 => form f vu vui vui vui (fpMask true true true true false false false true) (fpOk f)
  | 4 => form f vu vui vui none' (fpMask false true true false true false false false) (fpOk f)
  | 5 => form f vu vui vui none' (fpMask false true true false true false false false) (fpOk f)
  | 6 => form f vu vui vui vui (fpMask false true true true true false false false) (fpOk f)
  | 7 => form f [.p, .v, .u] vui vui none' (fpMask false true true false false true false false) (fpOk f)
  | 8 => form f vu vui none' none' (0) (fpOk f)
  | 9 => form f vu vui none' none' (0) (fpOk f)
  | 10 => form f vu vui vui none' (0) (fpOk f)
  | 11 => form f vu vui none' none' (fpMask true true false false false false false false) (fpOk f)
  | 12 => form f vu vui vui none' (fpMask true true true false false false false false) (fpOk f)
  | 13 => form f [.p, .v, .u] vui (if Opnd.isPred f.dst then vui else [.n]) none' (0) (fpOk f)
  | 14 => form f vu vui none' none' (0) (fpOk f)
  | _ => form f vu vui none' none' (fpMask true true false false false false false false) (fpOk f)

/-- The forms of row 0x6, column by column (06 R140, R141). -/
def forms6 (f : Fields) : Nat → Form
  | 0 => form f vu vui vui none' (fpMask true true true false false false false true) (fpOk f)
  | 1 => form f vu vui vui none' (fpMask true true true false false false false true) (fpOk f)
  | 2 => form f vu vui vui none' (fpMask true true true false false false false true) (fpOk f)
  | 3 => form f vu vui vui vui (fpMask true true true true false false false true) (fpOk f)
  | 4 => form f vu vui vui none' (fpMask false true true false true false false false) (fpOk f)
  | 5 => form f vu vui vui none' (fpMask false true true false true false false false) (fpOk f)
  | 6 => form f [.p, .v, .u] vui vui none' (fpMask false true true false false true true false) (fpOk f && (f.m 13 2 == 0 || Opnd.isPred f.dst))
  | 7 => form f vu vui none' none' (0) (fpOk f)
  | 8 => form f vu vui none' none' (0) (fpOk f)
  | 9 => form f vu vui vui none' (fpMask true true true false false false false true) (fpOk f)
  | 10 => form f vu vui vui none' (fpMask true true true false false false false true) (fpOk f)
  | 11 => form f vu vui vui none' (fpMask true true true false false false false true) (fpOk f)
  | 12 => form f vu vui vui vui (fpMask true true true true false false false true) (fpOk f)
  | 13 => form f vu vui vui none' (fpMask false true true false true false false false) (fpOk f)
  | 14 => form f vu vui vui none' (fpMask false true true false true false false false) (fpOk f)
  | _ => form f [.p, .v, .u] vui vui none' (fpMask false true true false false true true false) (fpOk f && (f.m 13 2 == 0 || Opnd.isPred f.dst))

/-- The forms of row 0x7, column by column (06 R140, R141). -/
def forms7 (f : Fields) : Nat → Form
  | 0 => form f vu64 vui64 vui64 none' (fpMask true true true false false false false true) (fpOk f)
  | 1 => form f vu64 vui64 vui64 none' (fpMask true true true false false false false true) (fpOk f)
  | 2 => form f vu64 vui64 vui64 none' (fpMask true true true false false false false true) (fpOk f)
  | 3 => form f vu64 vui64 vui64 vui64 (fpMask true true true true false false false true) (fpOk f)
  | 4 => form f vu64 vui64 vui64 none' (fpMask false true true false true false false false) (fpOk f)
  | 5 => form f vu64 vui64 vui64 none' (fpMask false true true false true false false false) (fpOk f)
  | 6 => form f [.p, .v, .u] vui64 vui64 none' (fpMask false true true false false true false false) (fpOk f)
  | 7 => form f vu64 vui64 none' none' (0) (fpOk f)
  | 8 => form f vu64 vui64 none' none' (0) (fpOk f)
  | 9 => form f vu64 vui64 vui64 none' (0) (fpOk f)
  | 10 => form f vu64 vui64 none' none' (fpMask true true false false false false false false) (fpOk f)
  | 11 => form f vu64 vui64 vui none' (fpMask true true true false false false false false) (fpOk f)
  | 12 => form f [.p, .v, .u] vui64 (if Opnd.isPred f.dst then vui else [.n]) none' (0) (fpOk f)
  | 13 => form f vu vui64 none' none' (0) (fpOk f)
  | 14 => form f vu64 vui64 none' none' (fpMask true true false false false false false false) (fpOk f)
  | _ => form f vu64 vui64 none' none' (fpMask false true false false false false false false) (fpOk f)

/-- The forms of row 0x8, column by column (06 R140, R141). -/
def forms8 (f : Fields) : Nat → Form
  | 0 => form f vu vui none' none' (mb 18 0) (cvtOk f fcodes fcodes (posMaxOf (f.m 8 5)) true true false false)
  | 1 => form f vu vui none' none' (mb 18 0) (cvtOk f icodes fcodes (posMaxOf (f.m 8 5)) true false false false)
  | 2 => form f vu vui none' none' (mb 18 0) (cvtOk f fcodes icodes (posMaxOf (f.m 8 5)) true true false false)
  | 3 => form f vu vui none' none' (mb 18 0) (cvtOk f icodes icodes (posMaxOf (f.m 8 5)) false false true false)
  | 4 => form f (cvtD (f.m 3 5)) (cvtA (f.m 8 5)) none' none' (mb 18 0) (cvtOk f (6 :: fcodes) (6 :: fcodes) (posMaxOf (f.m 8 5)) true true false false && (f.m 3 5 == 6 || f.m 8 5 == 6))
  | 5 => form f (cvtD (f.m 3 5)) (cvtA (f.m 8 5)) none' none' (mb 18 0) (cvtOk f (6 :: 18 :: 19 :: fcodes ++ icodes) (6 :: 18 :: 19 :: fcodes ++ icodes) (posMaxOf (f.m 8 5)) true true false false && ((f.m 3 5 ≤ 6) != (f.m 8 5 ≤ 6)) && ([6, 18, 19].contains (f.m 3 5) || [6, 18, 19].contains (f.m 8 5)))
  | 6 => form f vu vui vui none' (mb 18 0) (cvtOk f [1, 2, 20, 21] [0] 0 true false false false)
  | 7 => form f vu vui vui [.v, .u, .n] (mb 18 0) (cvtOk f [3, 4, 22, 23] [0] 1 true true false false)
  | 8 => form f vu vui vui [.v, .u, .n] (mb 18 0) (cvtOk f [5, 24, 25] [0] 3 true true false false)
  | 9 => form f vu64 vui none' none' (mb 18 0) (cvtOk f [0, 16] [1, 2, 20, 21] 0 false false false false && (f.m 3 5 == 0 || decide (16 ≤ f.m 8 5)))
  | 10 => form f vu64 vui none' none' (mb 18 0) (cvtOk f [0, 16] [3, 4, 22, 23] 1 false false false false && (f.m 3 5 == 0 || decide (16 ≤ f.m 8 5)))
  | 11 => form f vu64 vui none' none' (mb 18 0) (cvtOk f [0, 16] [5, 24, 25] 3 false false false false && (f.m 3 5 == 0 || decide (16 ≤ f.m 8 5)))
  | 12 => form f vu vui vui none' (mb 18 0) (cvtOk f [0] [0] 0 true false false true)
  | 13 => form f vu vui none' none' (mb 18 0) (cvtOk f [3, 4, 5] [0] 0 false false false false)
  | 14 => form f vu vui vui vu
  | _ => form f vu vui [.v, .u, .i, .n] none' (mb 3 0) (f.b != .absent || (decide (f.m 0 2 ≤ 1) && decide (f.m 2 2 ≤ 1)))

/-- The forms of row 0x9, column by column (06 R140, R141). -/
def forms9 (f : Fields) : Nat → Form
  | 0 => form f vu vui none' none' (mb 2 0 ||| mb 3 3 ||| mb 6 6) (rm3 f)
  | 1 => form f vu vui none' none' (mb 3 3 ||| mb 6 6) (rm3 f)
  | 2 => form f vu vui none' none' (mb 2 0 ||| mb 3 3 ||| mb 6 6) (rm3 f)
  | 3 => form f vu vui none' none' (mb 3 3 ||| mb 6 6) (rm3 f)
  | 4 => form f vu vui none' none' (mb 3 3 ||| mb 6 6) (rm3 f)
  | 5 => form f vu vui none' none' (mb 3 3 ||| mb 6 6) (rm3 f)
  | 6 => form f vu vui none' none' (mb 3 3 ||| mb 6 6) (rm3 f)
  | 7 => form f vu vui none' none' (mb 3 3 ||| mb 6 6) (rm3 f)
  | 8 => form f vu vui vui vu (mb 2 0) (rm3 f)
  | 9 => form f vu vui vui vu (mb 2 0) (rm3 f)
  | 10 => form f vu vui vui vu (mb 4 0) (rm3 f)
  | 11 => form f vu vui vui vu (mb 5 3)
  | 12 => form f vu vui vui vu (mb 5 3)
  | 13 => form f vu64 [.v4, .u4] [.v4, .u4] vu64 (mb 2 0) (rm3 f)
  | 14 => form f none' vui none' none'
  | _ => form f [.v] none' none' none'

/-- The forms of row 0xA, column by column (06 R140, R141). -/
def formsA (f : Fields) : Nat → Form
  | 0 => formOwn (dataV (f.m 0 3)) vu64 none' none' (mb 5 0) (accessOk f true)
  | 1 => formOwn none' vu64 (dataV (f.m 0 3) ++ dataU (f.m 0 3)) none' (mb 5 0) (accessOk f false)
  | 2 => formOwn (dataU (f.m 0 3)) [.u64] none' none' (mb 5 0) (accessOk f true)
  | 3 => formOwn none' [.u64] (dataU (f.m 0 3)) none' (mb 5 0) (accessOk f false)
  | 4 => formOwn (dataV (f.m 0 3) ++ dataU (f.m 0 3)) vu64 none' none' (mb 5 0) (accessOk f true)
  | 5 => form f (dataV (f.m 0 3) ++ dataU (f.m 0 3)) vu vui none' (mb 2 0) (f.m 0 3 == 2 || f.m 0 3 == 3)
  | 6 => form f none' vu vui (dataV (f.m 0 3) ++ dataU (f.m 0 3)) (mb 2 0) (f.m 0 3 == 2 || f.m 0 3 == 3)
  | 7 => formOwn none' vu64 none' none' (mb 5 4) (f.m 4 2 != 3)
  | 8 => form f none' [.u64] [.u, .i] none'
  | 9 => form f none' [.u64] [.u, .i] none'
  | 10 => formOwn (dataV (f.m 0 3)) [.u64] none' none' (mb 5 0) (accessOk f true)
  | 11 => formOwn none' [.u64] (dataV (f.m 0 3)) none' (mb 5 0) (accessOk f false)
  | 12 => form f (dataV (f.m 0 3)) [.u64] vu [.u] (mb 5 0) (accessOk f true)
  | 13 => formOwn [.v] vu64 none' none' (mb 7 3) (decide (1 ≤ f.m 3 5) && decide (f.m 3 5 ≤ 4))
  | 14 => formOwn [.p] vu64 none' none' (mb 5 4) (f.m 4 2 != 3)
  | _ => formOwn none' vu64 none' none' (mb 5 4) (f.m 4 2 != 3)

/-- The forms of row 0xB, column by column (06 R140, R141). -/
def formsB (f : Fields) : Nat → Form
  | 0 => formOwn (dataV (f.m 0 3)) vu none' none' (mb 3 0) (accessOk f true)
  | 1 => formOwn none' vu (dataV (f.m 0 3) ++ dataU (f.m 0 3)) none' (mb 3 0) (accessOk f false)
  | 2 => formOwn (dataV (f.m 0 3)) vu none' none' (mb 3 0) (accessOk f true)
  | 3 => formOwn (dataV (f.m 0 3)) vu none' none' (mb 3 0) (accessOk f true)
  | 4 => formOwn none' vu (dataV (f.m 0 3) ++ dataU (f.m 0 3)) none' (mb 3 0) (accessOk f false)
  | 5 => formOwn [.v] [.ac, .v, .u] none' none' (mb 13 13 ||| mb 7 0) (rm3 f && decide (f.m 3 5 ≤ 4) && (f.m 13 1 == 0 || f.m 3 5 == 3 || f.m 3 5 == 4)) (f.imm.toNat % 4 == 0)
  | 6 => formOwn none' [.ac, .v, .u] vu none' (mb 12 8 ||| mb 2 0) (rm3 f && decide (f.m 8 5 ≤ 4)) (f.imm.toNat % 4 == 0)
  | 7 => formOwn [.v] [.ac] none' none' (mb 13 13 ||| mb 7 0) (rm3 f && decide (f.m 3 5 ≤ 4) && (f.m 13 1 == 0 || f.m 3 5 == 3 || f.m 3 5 == 4)) (f.imm.toNat % 4 == 0 && decide (f.imm.toNat / 4 % 64 ≤ 32) && decide (f.imm.toNat / 256 + zElems (f.m 3 5) ≤ 64))
  | 8 => formOwn none' [.ac, .v, .u] vu none' (mb 12 8 ||| mb 2 0) (rm3 f && decide (f.m 8 5 ≤ 4)) (f.imm.toNat % 4 == 0)
  | 9 => formOwn (dataV (f.m 0 3)) [.u] none' none' (mb 3 0) (accessOk f true)
  | 10 => formOwn none' [.u] (dataV (f.m 0 3)) none' (mb 3 0) (accessOk f false)
  | 11 => formOwn (dataV (f.m 0 3)) [.u] none' none' (mb 3 0) (accessOk f true)
  | 12 => formOwn none' [.u] (dataV (f.m 0 3)) none' (mb 3 0) (accessOk f false)
  | 13 => formOwn (dataV (f.m 0 3)) [.u] none' none' (mb 3 0) (accessOk f true)
  | 14 => formOwn none' [.u] [.u] [.u] (mb 2 0) (f.m 0 3 == 2)
  | _ => form f (dataV (f.m 0 3)) [.u] vu [.u] (mb 3 0) (accessOk f true)

/-- The forms of row 0xC, column by column (06 R140, R141). -/
def formsC (f : Fields) : Nat → Form
  | 0 => atomForm f [0, 1, 2, 3] true false [.v, .u, .n] true true false false false
  | 1 => atomForm f [0, 1, 2, 3] true false [.v, .u, .n] true false false false false
  | 2 => atomForm f [0, 1, 2, 3] true false [.v, .u, .n] true false false false false
  | 3 => atomForm f [0, 1, 2, 3] true false [.v, .u, .n] true false false false false
  | 4 => atomForm f [0, 1, 2, 3] true false [.v, .u, .n] true false false false false
  | 5 => atomForm f [0, 1, 2, 3] true false [.v, .u, .n] true false false false false
  | 6 => atomForm f [0, 1, 2, 3] true false [.v, .u, .n] false false false false false
  | 7 => atomForm f [0, 1, 2, 3] true true [.v, .u, .n] false false true false true
  | 8 => atomForm f [0, 2] true false [.v, .u, .n] false false false false false
  | 9 => atomForm f [0, 2] true false [.v, .u, .n] false false false false false
  | 10 => atomForm f [4, 5, 6, 7] true false [.v, .u, .n] false false false true false
  | 11 => atomForm f [0, 1, 2, 3] false false [.v, .u] false false false false false
  | 12 => atomForm f [0, 1, 2, 3] true false [.n] false false false false false
  | 13 => form f (if type64 (f.m 11 3) then vu64 else vu) (if type64 (f.m 11 3) then [.v64] else [.v]) none' none' (mb 13 11 ||| mb 6 0) (redOk f)
  | 14 => form f none' none' none' none' (mb 10 7) (scopeOk f)
  | _ => form f (if type64 (f.m 11 3) then [.v64] else [.v]) (if type64 (f.m 11 3) then [.v64] else [.v]) none' none' (mb 14 11 ||| mb 6 0) (redOk f)

/-- The forms of row 0xD, column by column (06 R140, R141). -/
def formsD (f : Fields) : Nat → Form
  | 0 => ladleForm f [.u64, .n] [.t] [.t] [.u64, .n] (mb 6 6) true
  | 1 => ladleForm f [.u64, .n] [.t] [.t] [.n] (mb 12 12 ||| mb 6 6 ||| mb 2 0) (rm3 f)
  | 2 => ladleForm f [.u64, .n] [.t] [.t] [.u] (mb 6 6) true
  | 3 => ladleForm f [.u64, .n] [.t] [.t] [.u] (mb 15 13 ||| mb 2 0) (rm3 f && decide (f.m 13 3 ≤ 2))
  | 4 => ladleForm f [.u64, .n] [.t] [.t] [.u] (mb 11 11 ||| mb 6 6) true
  | 5 => ladleForm f [.u64, .n] [.t] [.t] [.u64] (mb 15 13 ||| mb 6 6 ||| mb 2 0) (rm3 f && decide (f.m 13 3 ≤ 2))
  | 6 => ladleForm f [.u64, .n] [.t] [.u, .i] [.n] (mb 6 6) (f.m 6 1 == 0 || f.b != .imm)
  | 7 => form f [.u] none' none' none' (mb 3 0)
  | 8 => formOwn none' [.t] [.t] [.ac] (ladleMask ||| mb 15 15) (ladleOk f) (mxloopOk f.imm)
  | 9 => form f none' [.t] [.t] [.u] (ladleMask ||| mb 15 15) (ladleOk f)
  | 10 => formOwn none' none' none' [.ac] 0 true (decide (1 ≤ f.imm.toNat) && decide (f.imm.toNat ≤ 32))
  | 11 => form f [.u] none' none' none' (mb 1 0) (f.m 0 2 != 3)
  | 12 => form f [.u] [.u64] [.u, .i] none' (mb 0 0)
  | 13 => form f [.u] none' none' none' (mb 3 0) (decide (f.m 0 3 ≤ 3))
  | 14 => form f [.u64, .n] [.u64] none' none' ladleMask (ladleOk f)
  | _ => form f [.u64] [.u64] [.u, .i] none'

/-- The forms of row 0xE, column by column (06 R140, R141). -/
def formsE (f : Fields) : Nat → Form
  | 0 => form f [.v4] [.t] [.v4] none'
  | 1 => form f [.v4] [.t] [.v4] none' (mb 1 0)
  | 2 => form f vu [.t] vui none' (mb 1 0)
  | 3 => form f [.v64] vu64 none' none' (mb 1 0)
  | 4 => form f [.v, .n] vu64 vu vu
  | 5 => form f [.v, .n] vu64 vu none'
  | 6 => form f none' [.u] [.u, .i] none'
  | 7 => form f [.u, .n] [.u] none' none'
  | 8 => form f [.u, .n] [.u64] none' none' ladleMask (ladleOk f)
  | 9 => form f [.u, .n] [.u64] [.u, .i] none' ladleMask (ladleOk f)
  | 10 => form f [.u, .n] [.u] none' none' ladleMask (ladleOk f)
  | 11 => form f [.u] [.u] none' none'
  | 12 => form f [.u] [.u] none' none' (mb 2 0) (decide (f.m 0 3 ≤ 4))
  | 13 => form f none' [.v4] [.v4, .n] vu
  | 14 => if f.m 0 1 = 0 then form f none' [.v] [.u64] none' (mb 0 0) else form f none' [.u64] none' none' (mb 0 0)
  | _ => form f none' [.v4] [.v, .n] none'

/-- The forms of row 0xF, column by column (06 R140, R141). -/
def formsF (f : Fields) : Nat → Form
  | 0 => formOwn none' none' none' none' 0 true (decide (f.imm.toNat < 65536))
  | 1 => formOwn none' none' none' none' 0 true (decide (f.imm.toNat < 65536))
  | 2 => form f vu none' none' none' (mb 7 0) (decide (f.m 0 8 ≤ 2))
  | 3 => form f none' [.u, .i] none' none' (mb 9 0) (f.m 0 8 == 0 && decide (f.m 8 2 ≤ 2))
  | 4 => form f none' none' none' none'
  | 5 => form f (if psr64 (f.m 0 8) then vu64 else vu) none' none' none' (mb 7 0) (decide (f.m 0 8 ≤ 21))
  | 6 => form f none' (if psr64 (f.m 0 8) then [.u64, .i] else [.u, .i]) none' none' (mb 7 0) (psrWritable (f.m 0 8))
  | 7 => form f [.u] [.u64, .i] [.u, .i] none'
  | 8 => form f [.u] [.u64, .i] none' none'
  | 9 => form f [.u, .n] [.u64, .i] [.u, .i] none'
  | 10 => form f [.u, .n] [.u64, .i] [.u, .i] none' (mb 7 0) (f.m 6 2 != 3)
  | 11 => form f [.u] [.u64, .i] [.u, .i] none' (mb 6 0) (decide (f.m 0 7 ≤ 65))
  | 12 => form f [.u] [.u64, .i] none' none'
  | 13 => form f none' [.u64] [.u, .i] none' (mb 1 0)
  | 14 => form f [.u, .n] [.u, .i] none' none' (mb 1 0) (f.m 0 2 != 3)
  | _ => form f [.u] [.u64, .i] [.u, .i] none'

/-- The form of an opcode. -/
def formOf (op : Nat) (f : Fields) : Form :=
  match op / 16 with
  | 0 => forms0 f (op % 16)
  | 1 => forms1 f (op % 16)
  | 2 => forms2 f (op % 16)
  | 3 => forms3 f (op % 16)
  | 4 => forms4 f (op % 16)
  | 5 => forms5 f (op % 16)
  | 6 => forms6 f (op % 16)
  | 7 => forms7 f (op % 16)
  | 8 => forms8 f (op % 16)
  | 9 => forms9 f (op % 16)
  | 10 => formsA f (op % 16)
  | 11 => formsB f (op % 16)
  | 12 => formsC f (op % 16)
  | 13 => formsD f (op % 16)
  | 14 => formsE f (op % 16)
  | _ => formsF f (op % 16)

/-- Row 0x0 of the opcode map (06 R140); a MOD field selects among the table's split rows. -/
def build0 (f : Fields) : Nat → Instr
  | 0 => .nop f
  | 1 => .bra f
  | 2 => .brx f
  | 3 => .call f
  | 4 => .callx f
  | 5 => .ret f
  | 6 => .exit f
  | 7 => .vall f
  | 8 => .vany f
  | 9 => .vballot f
  | 10 => .vmatch f
  | 11 => .lxpick f
  | 12 => .lxshift f
  | 13 => .lxrot f
  | 14 => .lxswap f
  | _ => .rdlane f

/-- Row 0x1 of the opcode map (06 R140); a MOD field selects among the table's split rows. -/
def build1 (f : Fields) : Nat → Instr
  | 0 => .waitf f
  | 1 => .sleep f
  | 2 => .sleepuntil f
  | 3 => .chkprom f
  | 4 => .waitchk f
  | 5 => .bararv f
  | 6 => .barwait f
  | 7 => .barsync f
  | 8 => .barinfo f
  | 9 => .gattach f
  | 10 => .gdetach f
  | 11 => .ginfo f
  | 12 => if f.m 3 1 = 0 then .ringfillBegin f else .ringfillEnd f
  | 13 => if f.m 3 1 = 0 then .ringdrainBegin f else .ringdrainEnd f
  | 14 => .waitmx f
  | _ => .yield f

/-- Row 0x2 of the opcode map (06 R140); a MOD field selects among the table's split rows. -/
def build2 (f : Fields) : Nat → Instr
  | 0 => .iadd f
  | 1 => .isub f
  | 2 => .iaddc f
  | 3 => .isubb f
  | 4 => .iadds f
  | 5 => .isubs f
  | 6 => .isum3 f
  | 7 => .ineg f
  | 8 => .iabs f
  | 9 => .iabsd f
  | 10 => .ixadd f
  | 11 => .and f
  | 12 => .or f
  | 13 => .xor f
  | 14 => .not f
  | _ => .blut3 f

/-- Row 0x3 of the opcode map (06 R140); a MOD field selects among the table's split rows. -/
def build3 (f : Fields) : Nat → Instr
  | 0 => .imul f
  | 1 => .imulhi f
  | 2 => .imad f
  | 3 => .imadw f
  | 4 => .shl f
  | 5 => .shr f
  | 6 => .sar f
  | 7 => .rotl f
  | 8 => .rotr f
  | 9 => .funnel f
  | 10 => .bfe f
  | 11 => .bfi f
  | 12 => .popc f
  | 13 => .clz f
  | 14 => .brev f
  | _ => .ffs f

/-- Row 0x4 of the opcode map (06 R140); a MOD field selects among the table's split rows. -/
def build4 (f : Fields) : Nat → Instr
  | 0 => .icmp f
  | 1 => .icmpw f
  | 2 => .sel f
  | 3 => .selw f
  | 4 => .imin f
  | 5 => .imax f
  | 6 => .iminw f
  | 7 => .imaxw f
  | 8 => .iclamp f
  | 9 => .mov f
  | 10 => .movw f
  | 11 => .movt f
  | 12 => .pmov f
  | 13 => .plut3 f
  | 14 => .p2s f
  | _ => .s2p f

/-- Row 0x5 of the opcode map (06 R140); a MOD field selects among the table's split rows. -/
def build5 (f : Fields) : Nat → Instr
  | 0 => .fadd f
  | 1 => .fsub f
  | 2 => .fmul f
  | 3 => .ffma f
  | 4 => .fmin f
  | 5 => .fmax f
  | 6 => .fmed3 f
  | 7 => .fcmp f
  | 8 => .fneg f
  | 9 => .fabs f
  | 10 => .fcpsgn f
  | 11 => .frint f
  | 12 => .fscale f
  | 13 => .fclass f
  | 14 => .fgetexp f
  | _ => .ffrc f

/-- Row 0x6 of the opcode map (06 R140); a MOD field selects among the table's split rows. -/
def build6 (f : Fields) : Nat → Instr
  | 0 => .hadd2 f
  | 1 => .hsub2 f
  | 2 => .hmul2 f
  | 3 => .hfma2 f
  | 4 => .hmin2 f
  | 5 => .hmax2 f
  | 6 => .hcmp2 f
  | 7 => .hneg2 f
  | 8 => .habs2 f
  | 9 => .badd2 f
  | 10 => .bsub2 f
  | 11 => .bmul2 f
  | 12 => .bfma2 f
  | 13 => .bmin2 f
  | 14 => .bmax2 f
  | _ => .bcmp2 f

/-- Row 0x7 of the opcode map (06 R140); a MOD field selects among the table's split rows. -/
def build7 (f : Fields) : Nat → Instr
  | 0 => .dadd f
  | 1 => .dsub f
  | 2 => .dmul f
  | 3 => .dfma f
  | 4 => .dmin f
  | 5 => .dmax f
  | 6 => .dcmp f
  | 7 => .dneg f
  | 8 => .dabs f
  | 9 => .dcpsgn f
  | 10 => .drint f
  | 11 => .dscale f
  | 12 => .dclass f
  | 13 => .dgetexp f
  | 14 => .drcp f
  | _ => .drsq f

/-- Row 0x8 of the opcode map (06 R140); a MOD field selects among the table's split rows. -/
def build8 (f : Fields) : Nat → Instr
  | 0 => .cvtf f
  | 1 => .cvtfi f
  | 2 => .cvtif f
  | 3 => .cvtii f
  | 4 => .cvtfw f
  | 5 => .cvtifw f
  | 6 => .cvtpk2 f
  | 7 => .cvtpk4 f
  | 8 => .cvtpk8 f
  | 9 => .cvtex2 f
  | 10 => .cvtex4 f
  | 11 => .cvtex8 f
  | 12 => .cvtsc f
  | 13 => .cvtqs f
  | 14 => .bpick f
  | _ => .swzh f

/-- Row 0x9 of the opcode map (06 R140); a MOD field selects among the table's split rows. -/
noncomputable def build9 (f : Fields) : Nat → Instr
  | 0 => .frcp f
  | 1 => .frsq f
  | 2 => .fsqrt f
  | 3 => .fexp2 f
  | 4 => .flog2 f
  | 5 => .fsin f
  | 6 => .fcos f
  | 7 => .ftanh f
  | 8 => .fdot2h f
  | 9 => .fdot2b f
  | 10 => .fdot4e f
  | 11 => .idot4 f
  | 12 => .idot8 f
  | 13 => .ddot2 f
  | 14 => .srseed f
  | _ => .srread f

/-- Row 0xA of the opcode map (06 R140); a MOD field selects among the table's split rows. -/
noncomputable def buildA (f : Fields) : Nat → Instr
  | 0 => .ld f
  | 1 => .st f
  | 2 => .lds f
  | 3 => .sts f
  | 4 => .ldnc f
  | 5 => .ldwin f
  | 6 => .stwin f
  | 7 => .pref f
  | 8 => .cinv f
  | 9 => .iinv f
  | 10 => .ldq f
  | 11 => .stq f
  | 12 => .ldbc f
  | 13 => .ldcvt f
  | 14 => .ldprb f
  | _ => .stzero f

/-- Row 0xB of the opcode map (06 R140); a MOD field selects among the table's split rows. -/
noncomputable def buildB (f : Fields) : Nat → Instr
  | 0 => .ldg f
  | 1 => .stg f
  | 2 => .ldw f
  | 3 => .ldx f
  | 4 => .stx f
  | 5 => .cvlz f
  | 6 => .cvsz f
  | 7 => .cvlzT f
  | 8 => .cvszAdd f
  | 9 => .ldgq f
  | 10 => .stgq f
  | 11 => .ldxq f
  | 12 => .stxq f
  | 13 => .ldwq f
  | 14 => .gfill f
  | _ => .ldgbc f

/-- Row 0xC of the opcode map (06 R140); a MOD field selects among the table's split rows. -/
noncomputable def buildC (f : Fields) : Nat → Instr
  | 0 => .atadd f
  | 1 => .atmin f
  | 2 => .atmax f
  | 3 => .atand f
  | 4 => .ator f
  | 5 => .atxor f
  | 6 => .atxchg f
  | 7 => .atcas f
  | 8 => .atinc f
  | 9 => .atdec f
  | 10 => .atfadd f
  | 11 => .atld f
  | 12 => .atst f
  | 13 => .wred f
  | 14 => .phase f
  | _ => .wscan f

/-- Row 0xD of the opcode map (06 R140); a MOD field selects among the table's split rows. -/
noncomputable def buildD (f : Fields) : Nat → Instr
  | 0 => .lcopy f
  | 1 => .lcopyo f
  | 2 => .lgath f
  | 3 => .lscred f
  | 4 => if f.m 11 1 = 0 then .lrcopyPush f else .lrcopyPull f
  | 5 => .lcoll f
  | 6 => .lfill f
  | 7 => .lstat f
  | 8 => .mxloop f
  | 9 => .mxstep f
  | 10 => .mxzero f
  | 11 => .mxteam f
  | 12 => if f.m 0 1 = 0 then .mxqsetCmdr f else .mxqsetStmr f
  | 13 => .mxstat f
  | 14 => .dkrun f
  | _ => .jobpost f

/-- Row 0xE of the opcode map (06 R140); a MOD field selects among the table's split rows. -/
noncomputable def buildE (f : Fields) : Nat → Instr
  | 0 => .tex f
  | 1 => .texg f
  | 2 => .texq f
  | 3 => .stk f
  | 4 => .stkfill f
  | 5 => .stkdrop f
  | 6 => .stkinv f
  | 7 => .stkage f
  | 8 => .beamq f
  | 9 => .rayq f
  | 10 => .beamcont f
  | 11 => .sqpop f
  | 12 => .sqpeek f
  | 13 => .expvtx f
  | 14 => if f.m 0 1 = 0 then .expprim f else .expprimEnd f
  | _ => .expfrag f

/-- Row 0xF of the opcode map (06 R140); a MOD field selects among the table's split rows. -/
noncomputable def buildF (f : Fields) : Nat → Instr
  | 0 => .trap f
  | 1 => .brk f
  | 2 => .srd f
  | 3 => if f.m 8 2 = 0 then .swrWrite f else if f.m 8 2 = 1 then .swrSet f else .swrClear f
  | 4 => .rte f
  | 5 => .psrd f
  | 6 => .pswr f
  | 7 => .ctxsv f
  | 8 => .ctxld f
  | 9 => .tlbinv f
  | 10 => .tlbinva f
  | 11 => .ownset f
  | 12 => .ownget f
  | 13 => .wpset f
  | 14 => if f.m 0 2 = 0 then .haltqPause f else if f.m 0 2 = 1 then .haltqResume f else .haltqWithdraw f
  | _ => .scrub f

/-- The instruction of an opcode and fields. -/
noncomputable def build (op : Nat) (f : Fields) : Instr :=
  match op / 16 with
  | 0 => build0 f (op % 16)
  | 1 => build1 f (op % 16)
  | 2 => build2 f (op % 16)
  | 3 => build3 f (op % 16)
  | 4 => build4 f (op % 16)
  | 5 => build5 f (op % 16)
  | 6 => build6 f (op % 16)
  | 7 => build7 f (op % 16)
  | 8 => build8 f (op % 16)
  | 9 => build9 f (op % 16)
  | 10 => buildA f (op % 16)
  | 11 => buildB f (op % 16)
  | 12 => buildC f (op % 16)
  | 13 => buildD f (op % 16)
  | 14 => buildE f (op % 16)
  | _ => buildF f (op % 16)

/-- The opcode and fields of an instruction word; none for an event. -/
def Instr.word : Instr → Option (Nat × Fields)
  | .reset => none
  | .stackTrained _ => none
  | .unitReady _ => none
  | .start _ => none
  | .fwcommit _ => none
  | .alarmpolWrite _ => none
  | .vglitch => none
  | .cglitch => none
  | .lid => none
  | .therm => none
  | .overtempShutdown => none
  | .hbmEccError _ _ => none
  | .sramEccError _ _ => none
  | .msixIntervalEnd _ _ => none
  | .vfEnable _ _ => none
  | .hostWrite _ _ _ => none
  | .hostRead _ _ _ _ => none
  | .registerWrite _ _ _ => none
  | .doorbell _ _ _ => none
  | .invalidationRegister _ _ _ => none
  | .stage1ReplyRetry _ _ => none
  | .stage1ReplyRefuse _ _ => none
  | .stage2ReplyRetry _ _ => none
  | .stage2ReplyRefuse _ _ => none
  | .stopreq _ _ => none
  | .resume _ _ => none
  | .lost _ => none
  | .vtrArm _ _ => none
  | .qset _ => none
  | .filter _ => none
  | .deadline _ => none
  | .savepool _ => none
  | .fset _ => none
  | .wset _ => none
  | .dbgclaim _ => none
  | .dbgfree _ => none
  | .getVersion _ => none
  | .getCapabilities _ => none
  | .negotiateAlgorithms _ => none
  | .getDigests _ => none
  | .getCertificate _ _ _ _ => none
  | .challenge _ _ _ => none
  | .getMeasurements _ _ _ _ => none
  | .debugUnlockChallenge _ => none
  | .flitWrite _ _ => none
  | .flitRead _ _ => none
  | .flitReadrsp _ _ => none
  | .flitAtomic _ _ => none
  | .flitAtomrsp _ _ => none
  | .flitCredit _ _ => none
  | .flitNak _ _ => none
  | .linkRetrained _ => none
  | .peerTimeout _ => none
  | .barrelVisit _ _ => none
  | .reconvRefillComplete _ _ => none
  | .blockFetchComplete _ _ _ => none
  | .sleepExpiry _ _ _ => none
  | .memoryOpComplete _ _ _ _ => none
  | .conversionComplete _ _ _ => none
  | .quantumGather _ => none
  | .gangCreate _ => none
  | .gangAttach _ _ _ => none
  | .gangLeave _ _ => none
  | .barrierArrival _ _ _ => none
  | .ringStageBegin _ _ _ _ => none
  | .ringDepthReview _ => none
  | .coreWorkRequest _ => none
  | .cardBegin _ => none
  | .depctrPoll _ => none
  | .jobComplete _ _ => none
  | .sievePostExamine => none
  | .whiskPeriod => none
  | .whiskMigrate _ => none
  | .deadlineWindowOpen _ => none
  | .timesliceSwitch => none
  | .timesliceCorePass _ => none
  | .preemptRequest _ _ => none
  | .waveQuiesce _ _ => none
  | .gangRecordSave _ _ => none
  | .wavePark _ _ => none
  | .ladleChunkDone _ _ _ => none
  | .ladleComplete _ _ _ => none
  | .mxeCommandStart _ _ => none
  | .mxeKstep _ _ => none
  | .mxeComplete _ _ => none
  | .colanderAccept _ => none
  | .colanderNodeVisit _ _ => none
  | .queryComplete _ _ => none
  | .beamcontComplete _ _ => none
  | .stkLookup _ _ _ _ => none
  | .shadingBatchPost _ _ => none
  | .stkFillPerform _ _ _ _ => none
  | .primitiveRasterise _ => none
  | .surfaceWaveCreate _ => none
  | .fragmentApply _ _ _ => none
  | .passComplete _ => none
  | .nop f => some (0, f)
  | .bra f => some (1, f)
  | .brx f => some (2, f)
  | .call f => some (3, f)
  | .callx f => some (4, f)
  | .ret f => some (5, f)
  | .exit f => some (6, f)
  | .vall f => some (7, f)
  | .vany f => some (8, f)
  | .vballot f => some (9, f)
  | .vmatch f => some (10, f)
  | .lxpick f => some (11, f)
  | .lxshift f => some (12, f)
  | .lxrot f => some (13, f)
  | .lxswap f => some (14, f)
  | .rdlane f => some (15, f)
  | .waitf f => some (16, f)
  | .sleep f => some (17, f)
  | .sleepuntil f => some (18, f)
  | .chkprom f => some (19, f)
  | .waitchk f => some (20, f)
  | .bararv f => some (21, f)
  | .barwait f => some (22, f)
  | .barsync f => some (23, f)
  | .barinfo f => some (24, f)
  | .gattach f => some (25, f)
  | .gdetach f => some (26, f)
  | .ginfo f => some (27, f)
  | .ringfillBegin f => some (28, f)
  | .ringfillEnd f => some (28, f)
  | .ringdrainBegin f => some (29, f)
  | .ringdrainEnd f => some (29, f)
  | .waitmx f => some (30, f)
  | .yield f => some (31, f)
  | .iadd f => some (32, f)
  | .isub f => some (33, f)
  | .iaddc f => some (34, f)
  | .isubb f => some (35, f)
  | .iadds f => some (36, f)
  | .isubs f => some (37, f)
  | .isum3 f => some (38, f)
  | .ineg f => some (39, f)
  | .iabs f => some (40, f)
  | .iabsd f => some (41, f)
  | .ixadd f => some (42, f)
  | .and f => some (43, f)
  | .or f => some (44, f)
  | .xor f => some (45, f)
  | .not f => some (46, f)
  | .blut3 f => some (47, f)
  | .imul f => some (48, f)
  | .imulhi f => some (49, f)
  | .imad f => some (50, f)
  | .imadw f => some (51, f)
  | .shl f => some (52, f)
  | .shr f => some (53, f)
  | .sar f => some (54, f)
  | .rotl f => some (55, f)
  | .rotr f => some (56, f)
  | .funnel f => some (57, f)
  | .bfe f => some (58, f)
  | .bfi f => some (59, f)
  | .popc f => some (60, f)
  | .clz f => some (61, f)
  | .brev f => some (62, f)
  | .ffs f => some (63, f)
  | .icmp f => some (64, f)
  | .icmpw f => some (65, f)
  | .sel f => some (66, f)
  | .selw f => some (67, f)
  | .imin f => some (68, f)
  | .imax f => some (69, f)
  | .iminw f => some (70, f)
  | .imaxw f => some (71, f)
  | .iclamp f => some (72, f)
  | .mov f => some (73, f)
  | .movw f => some (74, f)
  | .movt f => some (75, f)
  | .pmov f => some (76, f)
  | .plut3 f => some (77, f)
  | .p2s f => some (78, f)
  | .s2p f => some (79, f)
  | .fadd f => some (80, f)
  | .fsub f => some (81, f)
  | .fmul f => some (82, f)
  | .ffma f => some (83, f)
  | .fmin f => some (84, f)
  | .fmax f => some (85, f)
  | .fmed3 f => some (86, f)
  | .fcmp f => some (87, f)
  | .fneg f => some (88, f)
  | .fabs f => some (89, f)
  | .fcpsgn f => some (90, f)
  | .frint f => some (91, f)
  | .fscale f => some (92, f)
  | .fclass f => some (93, f)
  | .fgetexp f => some (94, f)
  | .ffrc f => some (95, f)
  | .hadd2 f => some (96, f)
  | .hsub2 f => some (97, f)
  | .hmul2 f => some (98, f)
  | .hfma2 f => some (99, f)
  | .hmin2 f => some (100, f)
  | .hmax2 f => some (101, f)
  | .hcmp2 f => some (102, f)
  | .hneg2 f => some (103, f)
  | .habs2 f => some (104, f)
  | .badd2 f => some (105, f)
  | .bsub2 f => some (106, f)
  | .bmul2 f => some (107, f)
  | .bfma2 f => some (108, f)
  | .bmin2 f => some (109, f)
  | .bmax2 f => some (110, f)
  | .bcmp2 f => some (111, f)
  | .dadd f => some (112, f)
  | .dsub f => some (113, f)
  | .dmul f => some (114, f)
  | .dfma f => some (115, f)
  | .dmin f => some (116, f)
  | .dmax f => some (117, f)
  | .dcmp f => some (118, f)
  | .dneg f => some (119, f)
  | .dabs f => some (120, f)
  | .dcpsgn f => some (121, f)
  | .drint f => some (122, f)
  | .dscale f => some (123, f)
  | .dclass f => some (124, f)
  | .dgetexp f => some (125, f)
  | .drcp f => some (126, f)
  | .drsq f => some (127, f)
  | .cvtf f => some (128, f)
  | .cvtfi f => some (129, f)
  | .cvtif f => some (130, f)
  | .cvtii f => some (131, f)
  | .cvtfw f => some (132, f)
  | .cvtifw f => some (133, f)
  | .cvtpk2 f => some (134, f)
  | .cvtpk4 f => some (135, f)
  | .cvtpk8 f => some (136, f)
  | .cvtex2 f => some (137, f)
  | .cvtex4 f => some (138, f)
  | .cvtex8 f => some (139, f)
  | .cvtsc f => some (140, f)
  | .cvtqs f => some (141, f)
  | .bpick f => some (142, f)
  | .swzh f => some (143, f)
  | .frcp f => some (144, f)
  | .frsq f => some (145, f)
  | .fsqrt f => some (146, f)
  | .fexp2 f => some (147, f)
  | .flog2 f => some (148, f)
  | .fsin f => some (149, f)
  | .fcos f => some (150, f)
  | .ftanh f => some (151, f)
  | .fdot2h f => some (152, f)
  | .fdot2b f => some (153, f)
  | .fdot4e f => some (154, f)
  | .idot4 f => some (155, f)
  | .idot8 f => some (156, f)
  | .ddot2 f => some (157, f)
  | .srseed f => some (158, f)
  | .srread f => some (159, f)
  | .ld f => some (160, f)
  | .st f => some (161, f)
  | .lds f => some (162, f)
  | .sts f => some (163, f)
  | .ldnc f => some (164, f)
  | .ldwin f => some (165, f)
  | .stwin f => some (166, f)
  | .pref f => some (167, f)
  | .cinv f => some (168, f)
  | .iinv f => some (169, f)
  | .ldq f => some (170, f)
  | .stq f => some (171, f)
  | .ldbc f => some (172, f)
  | .ldcvt f => some (173, f)
  | .ldprb f => some (174, f)
  | .stzero f => some (175, f)
  | .ldg f => some (176, f)
  | .stg f => some (177, f)
  | .ldw f => some (178, f)
  | .ldx f => some (179, f)
  | .stx f => some (180, f)
  | .cvlz f => some (181, f)
  | .cvsz f => some (182, f)
  | .cvlzT f => some (183, f)
  | .cvszAdd f => some (184, f)
  | .ldgq f => some (185, f)
  | .stgq f => some (186, f)
  | .ldxq f => some (187, f)
  | .stxq f => some (188, f)
  | .ldwq f => some (189, f)
  | .gfill f => some (190, f)
  | .ldgbc f => some (191, f)
  | .atadd f => some (192, f)
  | .atmin f => some (193, f)
  | .atmax f => some (194, f)
  | .atand f => some (195, f)
  | .ator f => some (196, f)
  | .atxor f => some (197, f)
  | .atxchg f => some (198, f)
  | .atcas f => some (199, f)
  | .atinc f => some (200, f)
  | .atdec f => some (201, f)
  | .atfadd f => some (202, f)
  | .atld f => some (203, f)
  | .atst f => some (204, f)
  | .wred f => some (205, f)
  | .phase f => some (206, f)
  | .wscan f => some (207, f)
  | .lcopy f => some (208, f)
  | .lcopyo f => some (209, f)
  | .lgath f => some (210, f)
  | .lscred f => some (211, f)
  | .lrcopyPush f => some (212, f)
  | .lrcopyPull f => some (212, f)
  | .lcoll f => some (213, f)
  | .lfill f => some (214, f)
  | .lstat f => some (215, f)
  | .mxloop f => some (216, f)
  | .mxstep f => some (217, f)
  | .mxzero f => some (218, f)
  | .mxteam f => some (219, f)
  | .mxqsetCmdr f => some (220, f)
  | .mxqsetStmr f => some (220, f)
  | .mxstat f => some (221, f)
  | .dkrun f => some (222, f)
  | .jobpost f => some (223, f)
  | .tex f => some (224, f)
  | .texg f => some (225, f)
  | .texq f => some (226, f)
  | .stk f => some (227, f)
  | .stkfill f => some (228, f)
  | .stkdrop f => some (229, f)
  | .stkinv f => some (230, f)
  | .stkage f => some (231, f)
  | .beamq f => some (232, f)
  | .rayq f => some (233, f)
  | .beamcont f => some (234, f)
  | .sqpop f => some (235, f)
  | .sqpeek f => some (236, f)
  | .expvtx f => some (237, f)
  | .expprim f => some (238, f)
  | .expprimEnd f => some (238, f)
  | .expfrag f => some (239, f)
  | .trap f => some (240, f)
  | .brk f => some (241, f)
  | .srd f => some (242, f)
  | .swrWrite f => some (243, f)
  | .swrSet f => some (243, f)
  | .swrClear f => some (243, f)
  | .rte f => some (244, f)
  | .psrd f => some (245, f)
  | .pswr f => some (246, f)
  | .ctxsv f => some (247, f)
  | .ctxld f => some (248, f)
  | .tlbinv f => some (249, f)
  | .tlbinva f => some (250, f)
  | .ownset f => some (251, f)
  | .ownget f => some (252, f)
  | .wpset f => some (253, f)
  | .haltqPause f => some (254, f)
  | .haltqResume f => some (254, f)
  | .haltqWithdraw f => some (254, f)
  | .scrub f => some (255, f)
  | .submit _ _ => none
  | .deckleWorkRequest _ => none
  | .powerLoss => none
  | .doeDiscovery _ _ => none

/-- The class code and index of an operand (06 R136). -/
def Opnd.code : Opnd → BitVec 3 × BitVec 11
  | .vec i => (0, i)
  | .uni i => (1, i)
  | .pred i => (2, i)
  | .tile i => (3, i)
  | .acc i => (4, i)
  | .imm => (5, 0)
  | .spec i => (6, i)
  | .absent => (7, 0)

/-- The operand of a class code and index; an index beside class 101 or 111 is refused (02 R49). -/
def Opnd.ofCode (c : BitVec 3) (i : BitVec 11) : Option Opnd :=
  match c.toNat with
  | 0 => some (.vec i)
  | 1 => some (.uni i)
  | 2 => some (.pred i)
  | 3 => some (.tile i)
  | 4 => some (.acc i)
  | 5 => if i = 0 then some .imm else none
  | 6 => some (.spec i)
  | _ => if i = 0 then some .absent else none

/-- The words that read lanes across, or jump per lane, and so may name V beside a uniform destination (07 R152):
VALL, VANY, VBALLOT, RDLANE, CALLX, and WRED (09 R213). -/
def crossLane (op : Nat) : Bool := [0x04, 0x07, 0x08, 0x09, 0x0F, 0xCD].contains op

/-- Whether an operand is of class V or is %laneid (07 R152). -/
def Opnd.perLane : Opnd → Bool
  | .vec _ => true
  | .spec i => i == 0
  | _ => false

/-- Whether an operand is a vector register. -/
def Opnd.isVec : Opnd → Bool
  | .vec _ => true
  | _ => false

/-- Whether a word of this opcode raises a flag (02 R57; 07 R153; 08 R175; 09 R200, R215; 10 R231; 14 R331). -/
def raisesFlag (op : Nat) (f : Fields) : Bool :=
  match op / 16 with
  | 0 => [3, 4, 7, 8, 9, 10, 11, 12, 13, 14, 15].contains (op % 16)
  | 1 => f.dst != .absent
  | 2 | 3 | 4 | 5 | 6 => false
  | 9 => op != 0x9E
  | 10 => op != 0xA7
  | 15 => !([0xF0, 0xF1, 0xF3, 0xF4, 0xF6].contains op)
  | _ => true

/-- A fixed-latency row: its results are ready for the next word (02 R51; 07 R153; 08 R175). -/
def fixedRow (op : Nat) : Bool := decide (0x20 ≤ op) && decide (op < 0x70)

/-- A transfer word (06 R139). -/
def isTransfer (op : Nat) : Bool := [0x01, 0x02, 0x03, 0x04, 0x05, 0x06, 0xF4].contains op

/-- A word that is legal only as the last of its block (06 R139; 07 R171; 09 R220). -/
def lastOnly (op : Nat) : Bool := isTransfer op || [0x1A, 0xF0, 0xF1].contains op

/-- The least privilege level of an opcode: 0 U, 1 G, 2 H (06 R142). -/
def levelOf (op : Nat) : Nat :=
  if [0xF4, 0xF5, 0xF6, 0xF9, 0xFD].contains op then 1
  else if [0xF7, 0xF8, 0xFA, 0xFB, 0xFC, 0xFE, 0xFF].contains op then 2
  else 0

/-- The operand of a field is legal for the kinds of its form. -/
def okIn (ks : List K) (o : Opnd) : Bool := ks.any (fun k => k.ok o)

/-- A, B, C of a word. -/
def Fields.srcs (f : Fields) : List Opnd := [f.a, f.b, f.c]

/-- Every pattern of R143 that the word alone decides, in the order of the table; the first that matches. -/
def check (op : Nat) (f : Fields) : Option BadWord :=
  let g := formOf op f
  let imms := (f.srcs.filter (fun o => o == .imm)).length
  if !(okIn g.d f.dst && okIn g.a f.a && okIn g.b f.b && okIn g.c f.c) then some .operand
  else if decide (op < 0xF0) && !crossLane op && (match f.dst with | .uni _ => true | .tile _ => true | _ => false) &&
      f.srcs.any Opnd.perLane then some .operand
  else if decide (1 < imms) || !((decide (imms = 1) && op != 0x10) || g.immOk) then some .immediate
  else if f.mod &&& g.mask != f.mod || !g.modOk then some .modifier
  else if ((f.ru.getLsbD 0) && !f.a.isVec) || ((f.ru.getLsbD 1) && !f.b.isVec) || ((f.ru.getLsbD 2) && !f.c.isVec) then
    some .reuse
  else if f.t && (!fixedRow op || f.s || !(match f.dst with | .vec _ => true | .uni _ => true | .pred _ => true | _ => false))
  then some .transient
  else if f.sf && !raisesFlag op f then some .flag
  else none

/-- The fields of a word; none where an index stands beside class 101 or 111, or a destination is immediate or special. -/
def unpack (w : W128) : Option Fields := do
  let dst ← Opnd.ofCode (field w 30 3) (field w 19 11)
  let a ← Opnd.ofCode (field w 44 3) (field w 33 11)
  let b ← Opnd.ofCode (field w 58 3) (field w 47 11)
  let c ← Opnd.ofCode (field w 72 3) (field w 61 11)
  pure { guard := field w 14 4, gneg := w.getLsbD 18, sf := w.getLsbD 13, ru := field w 10 3, t := w.getLsbD 9,
         s := w.getLsbD 8, dst, a, b, c, mod := field w 75 21, imm := field w 96 32 }

/-- The opcode of a word (06 R136). -/
def opOf (w : W128) : Nat := (field w 0 8).toNat

/-- The instruction of a 128-bit word, or the pattern of R143 it matches. [log 11: DESIGN CHOICE, safe] -/
noncomputable def decode (w : W128) : Except BadWord Instr :=
  match unpack w with
  | none => .error .operand
  | some f =>
    match check (opOf w) f with
    | some e => .error e
    | none => .ok (build (opOf w) f)

/-- One bit as a vector. -/
def bit1 (b : Bool) : BitVec 1 := BitVec.ofBool b

/-- The 128 bits of an opcode and fields, field by field from bit 127 down (06 R136). -/
def packWord (op : Nat) (f : Fields) : W128 :=
  f.imm ++ f.mod ++ f.c.code.1 ++ f.c.code.2 ++ f.b.code.1 ++ f.b.code.2 ++ f.a.code.1 ++ f.a.code.2 ++
  f.dst.code.1 ++ f.dst.code.2 ++ bit1 f.gneg ++ f.guard ++ bit1 f.sf ++ f.ru ++ bit1 f.t ++ bit1 f.s ++ BitVec.ofNat 8 op

/-- The word of an instruction; none for an event, which has no encoding. -/
def encode (i : Instr) : Option W128 := i.word.map (fun p => packWord p.1 p.2)

/-- The host's view of the decoder: the instruction of a word whose bits are w, numbered from the least significant
bit of the first byte; the T5's words are 128 bits, least significant byte first (00 R6). -/
noncomputable def decodeTableWord (_nbits w : Nat) : Option Instr :=
  match decode (BitVec.ofNat 128 w) with
  | .ok i => some i
  | .error _ => none

end Sys2Proof
end

