-- ==== Sys2Proof/Machine/Sparse.lean ====
section
/-! DEFINITION. Sparse tables as plain data: a list of (key, value) pairs, keys strictly rising, without entries equal
to the value an unlisted key has; and sets of numbers as strictly rising lists. -/

namespace Sys2Proof.Machine

/-- A table from numbers to values of α. -/
abbrev Tab (α : Type) := List (Nat × α)

/-- The entry of a key, if listed. -/
def Tab.get? {α : Type} : Tab α → Nat → Option α
  | [], _ => none
  | (k, v) :: r, i => if i = k then some v else Tab.get? r i

/-- What a key reads as when unlisted keys read as d. -/
def Tab.get {α : Type} (d : α) (m : Tab α) (i : Nat) : α := (m.get? i).getD d

/-- Lists v under key i, in place. -/
def Tab.ins {α : Type} : Tab α → Nat → α → Tab α
  | [], i, v => [(i, v)]
  | (k, u) :: r, i, v => if i = k then (i, v) :: r else if i < k then (i, v) :: (k, u) :: r else (k, u) :: Tab.ins r i v

/-- Drops key i. -/
def Tab.del {α : Type} : Tab α → Nat → Tab α
  | [], _ => []
  | (k, u) :: r, i => if i = k then Tab.del r i else (k, u) :: Tab.del r i

/-- Writes v at key i of a table whose unlisted keys read as d: writing d drops the entry. -/
def Tab.put {α : Type} [DecidableEq α] (d : α) (m : Tab α) (i : Nat) (v : α) : Tab α :=
  if v = d then m.del i else m.ins i v

/-- Changes the entry of key i where it is listed. -/
def Tab.adj {α : Type} (m : Tab α) (i : Nat) (g : α → α) : Tab α :=
  match m.get? i with
  | some v => m.ins i (g v)
  | none => m

/-- Keys strictly above b rise strictly. -/
def Tab.above {α : Type} : Option Nat → Tab α → Bool
  | _, [] => true
  | b, (k, _) :: r => (match b with | none => true | some x => decide (x < k)) && Tab.above (some k) r

/-- The canonical form of a table whose unlisted keys read as d. -/
def Tab.wf {α : Type} [DecidableEq α] (d : α) (m : Tab α) : Bool :=
  Tab.above none m && m.all (fun p => decide (p.2 ≠ d))

/-- Adds a number to a rising list. -/
def setIns : List Nat → Nat → List Nat
  | [], i => [i]
  | k :: r, i => if i = k then k :: r else if i < k then i :: k :: r else k :: setIns r i

/-- Drops a number from a rising list. -/
def setDel : List Nat → Nat → List Nat
  | [], _ => []
  | k :: r, i => if i = k then setDel r i else k :: setDel r i

/-- Replaces element i of a list. -/
def listSet {α : Type} : List α → Nat → α → List α
  | [], _, _ => []
  | _ :: r, 0, v => v :: r
  | x :: r, n + 1, v => x :: listSet r n v

/-- Changes element i of a list. -/
def listAdj {α : Type} : List α → Nat → (α → α) → List α
  | [], _, _ => []
  | x :: r, 0, g => g x :: r
  | x :: r, n + 1, g => x :: listAdj r n g

end Sys2Proof.Machine
end

