-- ==== Sys2Proof/Machine/State.lean ====
section
/-! DEFINITION. The machine's state as plain data: everything the manual gives the T5, from a lane's registers to the
host's register blocks, and the machine right after reset. -/

namespace Sys2Proof.Machine

/-- Privilege levels (14 R311). -/
inductive Level where
  | u | g | h
  deriving DecidableEq, Repr, Inhabited

/-- A pending landing check (07 R155; 14 R318). -/
inductive Landing where
  | none | ind | call | trapret
  deriving DecidableEq, Repr, Inhabited

/-- What holds a lane (09 R215; 14 R328 STATE 7:4). [log 134: DEDUCED, unsafe] -/
inductive Hold where
  | none
  | waitf (mask : BitVec 12)
  | sleep (deadline : W64)
  | waitchk (off : W32) (mask : W32)
  | waitmx (n : W32)
  | yield
  /-- until the wave's barrier wait, its operation number op, is over -/
  | barwait (op : Nat)
  /-- a fetch waits on page requests -/
  | fetch (tickets : List Nat)
  /-- the fetch was refused; the trap is taken at the vote (06 R134) -/
  | refused
  | halted
  deriving DecidableEq, Repr, Inhabited

/-- A trap record with KSAVE (14 R317, R328). -/
structure TrapRec where
  cause : W32
  spo : W32
  res : W64
  aux : W64
  aux2 : W32
  kp : W32
  k0 : W32
  k1 : W32
  k2 : W32
  k3 : W32
  deriving DecidableEq, Repr, Inhabited

/-- A cause found at a completion, due at the end of the lane's run or held (14 R315). -/
structure Cause where
  code : Nat
  sub : Nat
  spo : W32
  off : Nat
  aux : W64
  aux2 : W32
  /-- the level at which the lane issued the operation -/
  level : Level
  deriving DecidableEq, Repr, Inhabited

/-- A thread's own state (01 R10, R11; 14 R311, R328). -/
structure Lane where
  pc : W64
  level : Level
  check : Landing
  holds : List Hold
  exited : Bool
  trg : TrapRec
  trh : TrapRec
  /-- completion causes not yet taken, for the end of the current run -/
  due : List Cause
  /-- the held cause of R315 -/
  held : Option Cause
  srg : W32
  /-- stopped by a drain (R323) or a park (17 R377) -/
  stopped : Bool
  /-- debug stops due, bit k for code 64 + k (17 R377) -/
  stops : BitVec 5
  /-- the ordinal of the safe point at which the lane stopped (17 R382) -/
  stopSpo : W32
  /-- the first vote after RESUME does not match its prologue (17 R378) -/
  skipStop : Bool
  deriving DecidableEq, Repr, Inhabited

/-- One element of a register file. -/
inductive RegElem where
  | v (i lane : Nat)
  | u (i : Nat)
  | p (i lane : Nat)
  /-- 32-bit word w of tile i -/
  | t (i w : Nat)
  /-- 32-bit word w of accumulator i -/
  | a (i w : Nat)
  deriving DecidableEq, Repr, Inhabited

/-- A register write that lands later: at the end of a run or at a completion (07 R153; 08 R175). -/
structure RegWrite where
  elem : RegElem
  val : W32
  deriving DecidableEq, Repr, Inhabited

/-- A reconvergence entry (07 R156). -/
structure RsEntry where
  rpc : W64
  mask : Mask
  deriving DecidableEq, Repr, Inhabited

/-- Where a lane access goes once it is checked and translated (03 R66, R79; 18 R391, R394). -/
inductive Target where
  | none
  /-- HBM4, by system physical address -/
  | hbm (spa : Nat)
  /-- a slot of the heap aperture -/
  | heap (spa : Nat)
  /-- port 0 A or 1 B, host bus address -/
  | port (n addr : Nat)
  | peer (node addr : Nat)
  /-- a register block -/
  | regs (vf off : Nat)
  /-- the register window -/
  | window (addr : Nat)
  /-- an offset of a local buffer -/
  | loc (off : Nat)
  deriving DecidableEq, Repr, Inhabited

/-- Where a lane of an operation stands. -/
inductive LaneSt where
  /-- issued, not yet performed -/
  | ready
  /-- performed; what it writes stands in the operation -/
  | known
  /-- waits on page requests, by ticket, in an operand-log entry or at the port (03 R85) -/
  | logged (tickets : List Nat)
  /-- behind an earlier access of its 4 KiB region (03 R86) -/
  | behind
  /-- its store is in the core's write queue, entry id -/
  | queued (id : Nat)
  /-- sent to a host port or a peer, transaction id -/
  | sent (tid : Nat)
  /-- a Stockpot lane that waits for a wake (12 R284), or an add its cluster gathers (04 R103) -/
  | waiting
  /-- a SPECULATIVE compare-and-swap has read this value and not written yet (04 R104) -/
  | read (old : W64)
  | done
  deriving DecidableEq, Repr, Inhabited

/-- How a lane's access came to where it stands: as it issued, held behind an earlier access of its region, or from a log entry
(03 R85, R86). -/
inductive Past where
  | fresh | held | logged
  deriving DecidableEq, Repr, Inhabited

/-- One lane of an operation, with what a log entry keeps (03 R85). -/
structure LaneOp where
  lane : Nat
  va : W64
  src : W128
  src2 : W64
  tgt : Target
  st : LaneSt
  past : Past := .fresh
  deriving DecidableEq, Repr, Inhabited

/-- Where the lanes of an operation that fault are kept (03 R85). -/
inductive LogSt where
  | none | entry | port
  deriving DecidableEq, Repr, Inhabited

/-- A pending operation of a wave: the word that issued it, the flag it is attached to and what is left (02 R58). -/
structure Op where
  id : Nat
  opc : Nat
  f : Fields
  /-- word index in its block, SPO, and the levels and identity a completion needs -/
  off : Nat
  spo : W32
  level : Level
  /-- flags it is attached to: the selected flag; for STK also the wake flag -/
  flag : Option Nat
  wake : Option Nat
  lanes : List LaneOp
  log : LogSt
  /-- a release the operation waits for is done; an acquire follows -/
  released : Bool
  /-- register writes of a word of rows 0x7 to 0x9 -/
  writes : List RegWrite
  exc : BitVec 8
  /-- parameters by opcode: barrier, ring, stage, ticket, sequence number, cluster -/
  n : Nat
  m : Nat
  /-- a record read by the word (JOBPOST's card) -/
  bytes : List Byte
  deriving DecidableEq, Repr, Inhabited

/-- A wave's part in a barrier (01 R21, R22; 09 R218). -/
structure WBar where
  owes : Bool
  /-- holds an arrival -/
  holds : Bool
  arph : W32
  arrived : Bool
  deriving DecidableEq, Repr, Inhabited

/-- The Ladle status (10 R236). -/
structure LStat where
  err : W32
  errseq : W32
  nerr : W32
  issued : W32
  done : W32
  dkidx : W32
  dkcnt : W32
  exc : W32
  deriving DecidableEq, Repr, Inhabited

/-- The fields at their initial values (10 R236). -/
def LStat.initial : LStat := { (default : LStat) with dkidx := 0xFFFFFFFF }

/-- MXSTAT's fields and the wave's MXE ordinal (10 R249, R250). -/
structure MStat where
  issued : W32
  exc : BitVec 8
  err : BitVec 8
  errSeq : W32
  stamps : W32
  deriving DecidableEq, Repr, Inhabited

/-- A surface wave's fragments (12 R298, R299): pass, draw, primitive, and per lane the pixel, the depth at creation and
whether it has exported. -/
structure Surf where
  pass : Nat
  draw : Nat
  pseq : Nat
  px : List (Nat × Nat)
  depth : List W32
  exported : Mask
  deriving DecidableEq, Repr, Inhabited

/-- The registers a wave holds (02 R39, R40, R44); accumulators lie in the core's Z (R43). Vector key 32 × index + lane;
uniform and predicate key index; unlisted elements are zero. -/
structure Regs where
  vec : Tab W32
  uni : Tab W32
  pred : Tab Mask
  tile : Tab W256
  /-- poisoned register words (18 R404): vector, uniform and tile words by their save-area word number, and 32 × index + lane for
  the lanes of a predicate word that nothing has written since -/
  vpois : List Nat
  upois : List Nat
  tpois : List Nat
  ppois : List Nat := []
  deriving DecidableEq, Repr, Inhabited

/-- A spilled entry whose write waits on page requests (07 R159): its index, the requests, and its place in the operand log. -/
structure Spill where
  idx : Nat
  entry : RsEntry
  tickets : List Nat
  log : LogSt
  deriving DecidableEq, Repr, Inhabited

/-- A refill of spilled entries in progress (07 R159): its requests, the lanes whose pop began it, the entries spilled then, and its
place in the operand log. -/
structure Refilling where
  tickets : List Nat
  freed : Mask
  from_ : Nat
  log : LogSt
  deriving DecidableEq, Repr, Inhabited

/-- A resident wave (01 R11; 02 R40; 14 R327). -/
structure Wave where
  uid : Nat
  vf : Nat
  gang : Nat
  /-- CLASS of its queue (15 R342), WTAG of its job (02 R47), launch record of its job (17 R378), LEVEL0 scope -/
  cls : Nat
  world : Nat
  kern : W64
  vgran : Nat
  sgran : Nat
  tregs : Nat
  aregs : Nat
  regs : Regs
  zmap : List Nat
  lanes : List Lane
  /-- FLAGCNT: operations attached to each flag (02 R58) -/
  flags : List Nat
  wstat : W32
  rsbase : W64
  /-- on-chip reconvergence entries, newest first, and the number spilled (07 R159) -/
  stack : List RsEntry
  spilled : Nat
  refill : Option Refilling
  spillLog : List Spill
  ops : List Op
  nextOp : Nat
  bars : List WBar
  lstat : LStat
  mstat : MStat
  surf : Option Surf
  /-- last taken branch target (PF 3 only hints) -/
  lastBr : W64
  /-- all threads were ended by GDETACH (09 R220) -/
  detached : Bool
  /-- it runs a PRIV job (15 R337; 19 R411) -/
  priv : Bool := false
  deriving DecidableEq, Repr, Inhabited

/-- A drain in progress of a wave: who asked and where the record goes (14 R323, R332; 15 R348). -/
structure Drain where
  /-- save record address; none until the Sieve's pool gives one -/
  addr : Option Nat
  /-- CTXSV: core, wave uid and op id to complete -/
  req : Option (Nat × Nat × Nat)
  /-- 0 CTXSV, 1 deadline, 2 time slice -/
  reason : Nat
  /-- the queue whose deadline asked -/
  q : Nat
  /-- the wave was parked when it was asked for -/
  parked : Bool := false
  deriving DecidableEq, Repr, Inhabited

/-- A watchpoint hit whose skid still counts (17 R380): n words issued since by its lowest lane, unless the word carried S. -/
structure PendWatch where
  unit : Nat
  spo : W32
  off : Nat
  mask : Mask
  addr : W64
  lane : Nat
  n : Nat
  fixed : Bool
  /-- the hitting word itself has not finished issuing -/
  now : Bool
  deriving DecidableEq, Repr, Inhabited

/-- What a slot adds to its wave: drains, parks and page waits (14 R323; 17 R377). -/
structure Slot where
  wave : Wave
  drain : Option Drain
  parked : Bool
  /-- a debug stop is due in some lane: the wave drains to park -/
  stopping : Bool
  watches : List PendWatch
  deriving DecidableEq, Repr, Inhabited

/-- A transient result: element, value, and the word index that made it (02 R51, R52). -/
structure TransVal where
  elem : RegElem
  val : W32
  idx : Nat
  deriving DecidableEq, Repr, Inhabited

/-- What a lane does at the end of the run instead of falling through (06 R133). -/
inductive EndAct where
  | jump (target : W64) (check : Landing)
  | exit
  | rte
  /-- TRAP and BRK: cause and code (07 R171) -/
  | trap (cause : Nat) (code : W64) (off : Nat)
  deriving DecidableEq, Repr, Inhabited

/-- One group of a run (01 R13, R15). -/
structure Group where
  /-- 0 or 1, the fetch port -/
  port : Nat
  mask : Mask
  pro : W64
  hdr : W64
  land : W64
  words : List W128
  level : Level
  /-- lanes that trapped and left the run -/
  gone : Mask
  writes : List RegWrite
  acts : List (Nat × EndAct)
  holds : List (Nat × Hold)
  trans : List TransVal
  /-- lanes that passed the safe point of the last S word issued, with its ordinal -/
  sps : List (Nat × W32)
  detach : Bool
  /-- flags raised by words that complete at the end of the run (07 R153), and bits they OR then (09 R213) -/
  raised : List Nat
  exc : BitVec 8
  deriving DecidableEq, Repr, Inhabited

/-- What a wave's registers held before this cc: uniform and tile registers, the core's Z with its poisoned words, and WSTAT
(02 R50). -/
structure Snap where
  uni : Tab W32
  tile : Tab W256
  z : Tab W32
  zpois : List Nat
  wstat : W32
  deriving DecidableEq, Repr, Inhabited

/-- A run of a quarter (01 R15): which word and port issue next, and once port 0 has issued in this cc, what the wave's
registers held before its writes (02 R50). -/
structure Run where
  wave : Nat
  groups : List Group
  idx : Nat
  port : Nat
  snap : Option Snap
  /-- engine queue entries reserved and not used yet: Ladle, MXE, Colander (10 R225; 11 R270) -/
  resL : Nat
  resM : Nat
  resC : Nat
  deriving DecidableEq, Repr, Inhabited

/-- A quarter: the barrel's next slot and the run in progress (01 R15, R16). -/
structure Quarter where
  slot : Nat
  run : Option Run
  deriving DecidableEq, Repr, Inhabited

/-- A barrier of a gang (01 R21). -/
structure Bar where
  ph : W32
  e : Nat
  a : Nat
  /-- waves that hold an arrival, by uid, in gang order -/
  held : List Nat
  deriving DecidableEq, Repr, Inhabited

/-- The state of a stage slot (09 R222). -/
inductive Stage where
  | empty | filling | full | draining
  deriving DecidableEq, Repr, Inhabited

/-- A fill or drain place taken in a ring's order: stage number and who took it. -/
structure Place where
  stage : W32
  /-- 0 a wave's BEGIN (wave, op); 1 a Ladle command; 2 an MXE command -/
  who : Nat
  id : Nat
  op : Nat
  deriving DecidableEq, Repr, Inhabited

/-- An X ring of a gang (03 R74 to R76; 09 R222). -/
structure Ring where
  xoff : Nat
  stageb : Nat
  minst : Nat
  maxst : Nat
  filln : W32
  drainn : W32
  consn : W32
  d : Nat
  /-- state of each slot, and whether a draining stage was marked drained -/
  stages : List Stage
  drained : List Bool
  /-- places reserved and not yet begun, in order -/
  fills : List Place
  drains : List Place
  /-- this interval: a consumer waited; at some cc fewer than two stages were FULL or DRAINING -/
  waited : Bool
  low : Bool
  deriving DecidableEq, Repr, Inhabited

/-- A ring declaration (03 R74). -/
structure RingDecl where
  xoff : Nat
  stageb : Nat
  minst : Nat
  maxst : Nat
  deriving DecidableEq, Repr, Inhabited

/-- A level descriptor (01 R26). -/
structure LevelD where
  domain : Nat
  scope : Nat
  ext : Nat
  deriving DecidableEq, Repr, Inhabited

/-- A launch record as read when its card began (01 R25, R421). -/
structure Launch where
  addr : W64
  entry : W64
  vgran : Nat
  sgran : Nat
  tregs : Nat
  aregs : Nat
  gkib : Nat
  winit : Nat
  wmax : Nat
  dealt : Nat
  argsz : Nat
  coord : Nat
  cfmt : Nat
  wtag : Nat
  levels : List LevelD
  rings : List RingDecl
  deriving DecidableEq, Repr, Inhabited

/-- An exported vertex: x, y, z, w and four attribute words (12 R296). -/
structure Vertex where
  pos : List W32
  attr : List W32
  deriving DecidableEq, Repr, Inhabited

/-- A live gang of a core (01 R18 to R24). -/
structure Gang where
  id : Nat
  vf : Nat
  cls : Nat
  launch : Launch
  /-- the unit: queue, card SEQ, record index, argument record; none for surface waves -/
  unit : Option (Nat × W32 × Nat)
  args : W64
  /-- its lanes start at H (14 R311) -/
  priv : Bool
  /-- team id, rank and size (10 R247) -/
  team : Option (Nat × Nat × Nat)
  /-- member waves by %waveid; saved members by uid -/
  members : List Nat
  savedMembers : List Nat
  ending : Bool
  bars : List Bar
  rings : List Ring
  /-- the G region and its poisoned words -/
  g : List Host.Cell
  gpois : List Nat
  /-- spill ring base and entries; commands in it are those of Core.mspill (10 R243) -/
  spBase : W64
  spN : Nat
  stBase : W64
  stN : Nat
  stCount : W32
  /-- team commands issued (10 R247) -/
  teamN : Nat
  verts : Tab Vertex
  prims : Nat
  /-- draws exported to: pass number, address of the draw record -/
  draws : List (Nat × Nat)
  /-- waves attached and created so far, for the launch ordinals -/
  level0 : Nat
  deriving DecidableEq, Repr, Inhabited

/-- The wave, or saved wave, on whose behalf an engine command runs (04 R106). -/
structure Issuer where
  uid : Nat
  wave : Nat
  /-- the number the wave's next operation had at issue, and the lane that issued it: what it waits behind (04 R96) -/
  after : Nat
  lane : Nat
  gang : Nat
  vf : Nat
  world : Nat
  level : Level
  spo : W32
  off : Nat
  flag : Option Nat
  /-- of a wave of a PRIV job (19 R411) -/
  priv : Bool := false
  deriving DecidableEq, Repr, Inhabited

/-- Who writes (17 R384). -/
structure Writer where
  core : Nat
  wave : Nat
  gang : Nat
  spo : W32
  off : Nat
  lane : Nat
  /-- 0 lane, 1 Ladle, 2 slice, 3 host or peer -/
  kind : Nat
  cmd : W32
  deriving DecidableEq, Repr, Inhabited

/-- A write that the part made by itself, whose VALUE records are still to be written: its writer, memory before it and after it, its
address and length (17 R384). -/
structure SelfWrite where
  wr : Writer
  old : List Host.Cell
  new : List Host.Cell
  spa : Nat
  len : Nat
  deriving DecidableEq, Repr, Inhabited

/-- A stream computed from a command's whole source: its bytes, the positions of poisoned bytes and of bytes left out, and the
scale byte of each element where there are scales (10 R233, R238, R254). -/
structure LStream where
  bytes : List Byte
  pois : List Nat
  holes : List Nat
  scales : List Nat
  deriving DecidableEq, Repr, Inhabited

/-- A source sector as a command has read it, once (04 R89, R110): 0 shared or 1 + buffer tag, its number, an error code, its bytes and
poisoned positions. -/
structure KeptSector where
  space : Nat
  sector : Nat
  err : Option Nat
  bytes : List Byte
  pois : List Nat
  deriving DecidableEq, Repr, Inhabited

/-- An entry of a core's write queue (03 R67): the bytes of one line on their way to their target. -/
structure WqEntry where
  id : Nat
  tgt : Target
  bytes : List Byte
  /-- positions between the bytes written that the byte mask leaves out (03 R64) -/
  holes : List Nat := []
  vf : Nat
  level : Level
  world : Nat
  /-- the operation whose lanes complete at the acknowledgement: wave uid, wave id, op -/
  who : Option (Nat × Nat × Nat)
  /-- lanes that contribute bytes: lane, first position, number -/
  lanes : List (Nat × Nat × Nat) := []
  va : W64
  /-- the engine command and its chunk; of a query, 0 for a merge and 1 + function for its status words -/
  eng : Option (Nat × Nat)
  /-- other chunks of the command with bytes in it; of a merge, its cell and the words of its record -/
  more : List Nat := []
  /-- the engine: 0 Ladle, 1 MXE, 2 Colander -/
  kind : Nat := 0
  wr : Writer
  poison : List Nat
  /-- FLAGS of the flit it becomes at a peer (18 R397) -/
  flags : Nat := 1
  /-- made for a PRIV job (19 R411) -/
  priv : Bool := false
  deriving DecidableEq, Repr, Inhabited

/-- A Ladle-queue command (10 R225 to R242). -/
structure LCmd where
  id : Nat
  /-- position in the scoreboard's order (04 R109) -/
  ord : Nat
  by_ : Issuer
  opc : Nat
  f : Fields
  ordinal : W32
  ta : W256
  tb : W256
  c : W64
  /-- Z slots of the issuing wave's accumulators at acceptance -/
  zs : List Nat
  /-- records read at acceptance: A's and B's layout records, the graph, the run or collective record -/
  recA : List Byte
  recB : List Byte
  graph : List Byte
  rec_ : List Byte
  /-- its acquire is done -/
  acquired : Bool
  accepted : Bool
  /-- refused at acceptance: it writes nothing -/
  refused : Bool
  /-- error codes met (R235) -/
  codes : List Nat
  dkidx : W32
  dkcnt : Nat
  exc : W32
  /-- a stream computed from the whole source -/
  stream : Option LStream
  /-- chunks already written, or finally left, and those left wholly or partly unwritten because of an error -/
  chunks : List Nat
  bad : List Nat
  /-- no chunk may be marked written (R233, R254) -/
  allBad : Bool
  /-- destination bytes written -/
  written : Nat
  stage : Option W32
  began : Bool
  /-- page requests: page and ticket -/
  waits : List (Nat × Nat)
  /-- source sectors already read, and records that could not be read (0 to 3, as they are read) -/
  secs : List KeptSector := []
  lost : List Nat := []
  /-- its newest write to a peer, kept until it is known whether another follows it (18 R397, R399) -/
  last : Option WqEntry := none
  deriving DecidableEq, Repr, Inhabited

/-- An MXE-queue command (10 R243 to R249). -/
structure MCmd where
  id : Nat
  ord : Nat
  by_ : Issuer
  opc : Nat
  ordinal : W32
  f : Fields
  ta : W256
  tb : W256
  param : W32
  acc : Nat
  cnt : Nat
  recA : List Byte
  recB : List Byte
  acquired : Bool
  /-- its own acceptance checks are made; it is accepted, or refused -/
  checked : Bool
  accepted : Bool
  started : Bool
  prog : Nat
  status : Nat
  exc : BitVec 8
  /-- it lies in the gang's spill ring -/
  spilled : Bool
  /-- Z slots of its accumulators, from the first one named -/
  zs : List Nat
  /-- page requests: page and ticket -/
  waits : List (Nat × Nat)
  /-- ring stages it has obtained and not drained yet, for A and for B -/
  stA : List W32
  stB : List W32
  tAcc : W64
  tIn : W64
  tDone : W64
  wait : W32
  comp : W32
  /-- ring places taken and not drained yet, for A and for B -/
  leftA : Nat
  leftB : Nat
  /-- since when it waits for operands -/
  wsince : Option W64
  team : Option (Nat × Nat × Nat)
  /-- its number among the member's team commands -/
  teamSeq : Nat
  /-- its team held it when its last k-step was over (10 R247) -/
  teamHeld : Bool := false
  deriving DecidableEq, Repr, Inhabited

/-- A completed tile that has not retired (10 R249). -/
structure TileRec where
  cmd : MCmd
  deriving DecidableEq, Repr, Inhabited

/-- A stamp record that has not been written yet (10 R249). -/
structure Stamp where
  by_ : Issuer
  va : W64
  bytes : List Byte
  waits : List (Nat × Nat)
  deriving DecidableEq, Repr, Inhabited

/-- A pending reference of a traversal (11 R265), with the box that holds it and the instance in force. -/
structure Beam where
  id : Nat
  qid : W32
  /-- the continuation it belongs to -/
  cont : Option Nat
  ref : W64
  /-- six FP32 bounds, and the transform in which the box is given: twelve FP32, or none for world space -/
  box : Option (List W32)
  boxM : List W32
  x0 : Nat
  y0 : Nat
  cw : Nat
  ch : Nat
  depth : Nat
  base : Nat
  /-- address of the instance record in force; its transform and id once read -/
  inst : Option W64
  instM : List W32
  instId : W32
  /-- not classified: the reference is descended as one beam (a starting reference, an instance's root) -/
  start : Bool
  /-- a child of a split that goes to a split record, or to its sub-rays, next (11 R265, R267) -/
  child : Bool := false
  /-- page requests: page and ticket -/
  waits : List (Nat × Nat)
  deriving DecidableEq, Repr, Inhabited

/-- A split record as the Colander itself keeps it (11 R266, R267), with the box that holds its reference. -/
structure SplitRec where
  seq : W32
  off : Nat
  node : W64
  inst : Option W64
  x0 : Nat
  y0 : Nat
  cw : Nat
  ch : Nat
  depth : Nat
  box : Option (List W32)
  boxM : List W32
  /-- 0 OPEN, 1 CLAIMED, 2 DONE -/
  state : Nat
  /-- uid of the wave it is claimed for -/
  claim : Nat
  /-- a BEAMCONT of it has issued -/
  issued : Bool
  deriving DecidableEq, Repr, Inhabited

/-- A query, in the intake queue or live (11 R270, R271). -/
structure Query where
  qid : W32
  ord : Nat
  by_ : Issuer
  opc : Nat
  f : Fields
  addr : W64
  /-- bytes 0 to 47 of the query record, once loaded -/
  qrec : List Byte
  /-- the beam record, or the ray records, once read -/
  beam : List Byte
  rays : Nat
  acquired : Bool
  /-- status code, the lowest met; 0 for none -/
  code : Nat
  poison : Bool
  degr : Nat
  recs : List SplitRec
  /-- by cell, the candidates whose records were written, the latest first: the words T, PRIM, INST, BARY -/
  best : Tab (List (List W32))
  /-- by cell, the codes of the ERROR records written, the latest first -/
  failed : Tab (List Nat)
  waits : List (Nat × Nat)
  deriving DecidableEq, Repr, Inhabited

/-- A continuation of a split record, in the intake queue until it is accepted (11 R272). -/
structure Cont where
  id : Nat
  ord : Nat
  by_ : Issuer
  f : Fields
  qid : W32
  seq : W32
  accepted : Bool
  deriving DecidableEq, Repr, Inhabited

/-- A core's Colander (11 R270). -/
structure Colander where
  intake : List Query
  live : List Query
  conts : List Cont
  beams : List Beam
  nextQid : W32
  nextId : Nat
  deriving DecidableEq, Repr, Inhabited

/-- An L1 or LLC line's 64 bytes as held in a cache, and its poison: of the line, and of single words (03 R67, R83; 18 R404). -/
structure Line where
  data : BitVec 512
  poison : Bool
  words : List Nat := []
  deriving DecidableEq, Repr, Inhabited

/-- A TLB entry (16 R359): function, page base, log2 of the size, system physical base, permissions. -/
structure TlbEnt where
  vf : Nat
  va : Nat
  size : Nat
  gpa : Nat
  spa : Nat
  r : Bool
  w : Bool
  x : Bool
  u : Bool
  elide : Bool
  deriving DecidableEq, Repr, Inhabited

/-- A walk-cache entry (16 R359): function, the table entry's system physical address, its value. -/
structure WalkEnt where
  vf : Nat
  spa : Nat
  val : W64
  deriving DecidableEq, Repr, Inhabited

/-- An L0 line (06 R134, R135): function, virtual and system physical address, U of its leaf, its 64 bytes. -/
structure L0Line where
  vf : Nat
  va : Nat
  spa : Nat
  u : Bool
  data : BitVec 512
  deriving DecidableEq, Repr, Inhabited

/-- Undealt records of one card that a core holds (01 R34; 15 R341, R342). -/
structure Chunk where
  q : Nat
  seq : W32
  cls : Nat
  recs : List Nat
  deriving DecidableEq, Repr, Inhabited

/-- A watchpoint (14 R335). -/
structure Watch where
  en : Bool
  eng : Bool
  vf : Nat
  addr : W64
  bmask : BitVec 16
  /-- armed slice address under ENG -/
  spa : Option Nat
  gang : Nat
  deriving DecidableEq, Repr, Inhabited

/-- Fragments of one primitive in one tile, waiting at their home core for a surface wave (12 R298): pass, draw, pseq, and
per fragment x, y, depth, b1, b2; with the attribute words of the three vertices. -/
structure TileShare where
  pass : Nat
  draw : Nat
  pseq : Nat
  cls : Nat
  frags : List (List Nat)
  attrs : List W32
  deriving DecidableEq, Repr, Inhabited

/-- A core (00 R2). -/
structure Core where
  ready : Bool
  clock : W64
  /-- the clock at the last review of its rings' depths (03 R76) -/
  reviewed : W64 := 0
  /-- the function its cluster serves, as the core last passed (16 R370) -/
  vf : Option Nat
  quarters : List Quarter
  slots : Tab Slot
  gangs : Tab Gang
  w : List Host.Cell
  wpois : List Nat
  x : List Host.Cell
  xpois : List Nat
  /-- Z by 32-bit word -/
  z : Tab W32
  zpois : List Nat
  /-- Z slots kept for commands of waves that ended (10 R242) -/
  zkeep : List (Nat × Nat)
  l0 : List L0Line
  l1 : Tab Line
  tlb : List TlbEnt
  wq : List WqEntry
  nextWq : Nat
  ladle : List LCmd
  mx : List MCmd
  tiles : List TileRec
  /-- stamp records on their way to their ring -/
  stamps : List Stamp
  col : Colander
  nextCmd : Nat
  nextOrd : Nat
  held : List Chunk
  lastQ : Nat
  watch : List Watch
  poisonReads : W32
  trapLoss : W32
  corr : W32
  uncorr : W32
  shares : List TileShare
  /-- page requests of the export that is next to be accepted: page and ticket -/
  exportWaits : List (Nat × Nat)
  /-- the migration command the Whisk has issued to this core: destination, count (15 R344) -/
  migrate : Option (Nat × Nat)
  /-- the clock at the last k-step of any command (17 R388) -/
  mxLast : W64 := 0
  /-- host ports written since their last zero-length read (18 R395) -/
  unread : BitVec 2 := 0
  deriving DecidableEq, Repr, Inhabited

/-- A gathered QUANTUM add (04 R103): core, wave, op, lane, location, amount. -/
structure QuantAdd where
  core : Nat
  wave : Nat
  op : Nat
  lane : Nat
  spa : Nat
  n64 : Bool
  amount : Nat
  deriving DecidableEq, Repr, Inhabited

/-- A SPECULATIVE compare-and-swap between its read and its write (04 R104): core, wave, uid, op, lane, the line, and whether
another access to the line was performed meanwhile. -/
structure SpecRead where
  core : Nat
  wave : Nat
  uid : Nat
  op : Nat
  lane : Nat
  line : Nat
  broken : Bool
  deriving DecidableEq, Repr, Inhabited

/-- A counter bank's session (17 R385, R386). -/
structure Bank where
  vf : Nat
  /-- claimed by H -/
  h : Bool
  slot : Nat
  codes : List Nat
  counts : List W64
  deriving DecidableEq, Repr, Inhabited

/-- A cluster: second-level TLB, walk cache, quantum adds, counter banks with the sessions an H claim suspended. -/
structure Cluster where
  tlb2 : List TlbEnt
  walk : List WalkEnt
  quant : List QuantAdd
  banks : Tab Bank
  susp : Tab Bank
  deriving DecidableEq, Repr, Inhabited

/-- A trace unit's session (17 R385, R386). -/
structure TraceUnit where
  vf : Nat
  h : Bool
  susp : Option Nat
  deriving DecidableEq, Repr, Inhabited

/-- A Stockpot tag entry (12 R278): STATE 0 INVALID, 1 INFLIGHT, 2 VALID, 3 STALE. -/
structure TagEnt where
  key : W64
  world : Nat
  gen : BitVec 16
  age : BitVec 8
  state : Nat
  slot : Nat
  deriving DecidableEq, Repr, Inhabited

/-- A waiter of an entry (12 R283, R284). -/
structure Waiter where
  ent : Nat
  core : Nat
  wave : Nat
  uid : Nat
  op : Nat
  lane : Nat
  vf : Nat
  deriving DecidableEq, Repr, Inhabited

/-- A batch of shading records (12 R286): the address of its first record, how many, the fc of the first, and the queue and
template its card takes. -/
structure Batch where
  addr : Nat
  count : Nat
  since : Nat
  shq : Nat
  tmpl : List Byte
  deriving DecidableEq, Repr, Inhabited

/-- A shading record whose write waits on page requests (12 R420): its address, bytes, key and entry. -/
structure ShRec where
  addr : Nat
  bytes : List Byte
  /-- its tag entry, and the batch queue and template -/
  ent : Nat
  shq : Nat
  tmpl : List Byte
  pages : List (Nat × Nat)
  deriving DecidableEq, Repr, Inhabited

/-- A slice's shading sub-ring of a world (12 R286). -/
structure SubRing where
  world : Nat
  /-- the sub-ring in use: its address and records; the position counter -/
  base : Nat
  rcap : Nat
  pos : Nat
  seq : W32
  open_ : Option Batch
  /-- batches closed and not yet posted, oldest first -/
  closed : List Batch
  /-- addresses of records not free: written, or carried by cards that have not completed -/
  busy : List Nat
  /-- a new ring applies to the next batch -/
  restart : Bool
  waits : List ShRec
  deriving DecidableEq, Repr, Inhabited

/-- A Stockpot slice (12 R278 to R289). -/
structure Slice where
  ready : Bool
  tags : Tab TagEnt
  wayHand : Tab Nat
  slotHand : Tab Nat
  waiters : List Waiter
  rings : List SubRing
  deriving DecidableEq, Repr, Inhabited

/-- A world as WSET left it (12 R280; 16 R372). [log 30: DEDUCED, safe] -/
structure World where
  tag : Nat
  grants : W64
  sbase : Nat
  scnt : Nat
  shq : Nat
  tmpl : List Byte
  tmplAddr : W64
  ring : W64
  rcap : Nat
  wage : BitVec 8
  gen : Tab (BitVec 16)
  deriving DecidableEq, Repr, Inhabited

/-- A job card in a queue (01 R32; 15 R338, R339). -/
structure Card where
  seq : W32
  /-- the copy posted, and then the bytes its slot gave -/
  bytes : List Byte
  entry : W64
  args : W64
  count : Nat
  stride : Nat
  minchunk : Nat
  divisor : Nat
  kind : Nat
  waitc : Nat
  sigc : Nat
  done : W64
  tag : W64
  /-- the copy has still to be written into its slot -/
  unwritten : Bool
  /-- its slot has been read -/
  read : Bool
  /-- reserved for a cross-tenant post the Sieve has not decided (R350) -/
  reserved : Bool
  /-- its wait counter was read once; a read gave 0 (R340) -/
  polled : Bool
  depOk : Bool
  begun : Bool
  launch : Option Launch
  graph : List Byte
  /-- records in no chunk, as ranges (start, end), rising; units finished, and started and not finished -/
  undealt : List (Nat × Nat)
  finished : Nat
  live : Nat
  /-- status once completed; its counter signalled; nothing is left to do -/
  status : Option Nat
  signalled : Bool
  closed : Bool
  /-- page requests of the queue for this card -/
  waits : List (Nat × Nat)
  /-- which message-filter entry admitted it -/
  mfe : Option Nat
  /-- the slice, world, first record and number of records of the batch it carries -/
  batch : Option (Nat × Nat × Nat × Nat)
  /-- clusters that records of a placed card were dealt to -/
  homes : List Nat := []
  deriving DecidableEq, Repr, Inhabited

/-- A hardware queue (15 R337, R338). -/
structure Queue where
  owner : Nat
  enabled : Bool
  priv : Bool
  hostq : Bool
  cls : Nat
  ring : W64
  nent : Nat
  ctrbase : W64
  nctr : Nat
  need : BitVec 128
  lead : Nat
  seq : W32
  headseq : W32
  cards : List Card
  paused : Bool
  withdrawn : Bool
  withdrawals : Nat
  /-- the card a deadline applies to, and its Sieve tick (R347) -/
  deadline : Option (W32 × Nat)
  misses : BitVec 16
  deriving DecidableEq, Repr, Inhabited

/-- A cross-tenant post reserved and not yet examined (15 R350). -/
structure Post where
  q : Nat
  seq : W32
  poster : Nat
  level : Level
  card : List Byte
  withdrawals : Nat
  /-- decided: admitted or denied; the poster's record has still to be written -/
  verdict : Option Bool
  waits : List (Nat × Nat)
  deriving DecidableEq, Repr, Inhabited

/-- A message filter entry as cached by the Sieve (15 R349). -/
structure Filter where
  valid : Bool
  src : Nat
  dq : Nat
  mcap : Nat
  mring : W64
  entry : W64
  count : Nat
  openMsgs : Nat
  deriving DecidableEq, Repr, Inhabited

/-- An outstanding page request, or a fault that waits for a place in a full ring (16 R361, R362). -/
structure PageReq where
  ticket : Nat
  vf : Nat
  stage : Nat
  cause : Nat
  table : Bool
  meta_ : Bool
  levelU : Bool
  acc : Nat
  cluster : Nat
  core : Nat
  va : Nat
  gpa : Nat
  seq : W32
  /-- its record is written -/
  written : Bool
  deriving DecidableEq, Repr, Inhabited

/-- How a request was answered (16 R365): retried, or refused at a stage with the request's SEQ. -/
inductive Answer where
  | retry (seq : W32)
  | refuse (stage : Nat) (seq : W32)
  deriving DecidableEq, Repr, Inhabited

/-- A breakpoint (17 R376). -/
structure Bp where
  kern : W64
  spo : W32
  en : Bool
  deriving DecidableEq, Repr, Inhabited

/-- A value-trace region (17 R376, R384): armed pages by system physical page number with their virtual page, the virtual bytes armed
(the first, and the first past them), and RSEQ by slice. -/
structure Vtr where
  base : W64
  len : W32
  en : Bool
  armed : W32
  lo : Nat := 0
  hi : Nat := 0
  pages : List (Nat × Nat)
  rseq : Tab W32
  deriving DecidableEq, Repr, Inhabited

/-- A function's debug page (17 R376). -/
structure Debug where
  stopen : Bool
  ringbase : W64
  ringn : W32
  tail : W32
  head : W32
  lost : W32
  bps : List Bp
  vtrs : List Vtr
  deriving DecidableEq, Repr, Inhabited

/-- A function's Sieve mailbox and register-block registers (18 R391, R392). -/
structure Mailbox where
  code : W32
  args : List W64
  pending : Bool
  rtoken : W32
  rstat : W32
  token : W32
  /-- the copied request, waiting -/
  req : Option (W32 × List W64 × Bool)
  /-- bytes written to the reply registers (16 R364) -/
  reply : List Byte
  /-- the invalidation register (18 R391), and the accesses its BUSY waits for: write-queue entries by core, transfers -/
  invVa : W64
  invPages : W32
  invLeft : List (Nat × Nat)
  invTids : List Nat
  msix : List W32
  pba : BitVec 8
  /-- an event fell in the vector's interval, whether the interval runs, and the fc at which each began -/
  pend : BitVec 8
  open_ : BitVec 8
  since : List Nat := List.replicate 8 0
  /-- MSI-X Enable and Function Mask of the function's capability (18 R393) -/
  msixEn : Bool := false
  msixMask : Bool := false
  deriving DecidableEq, Repr, Inhabited

/-- Error counters of a function (18 R405). -/
structure ErrCnt where
  own : W64
  stray : W64
  dep : W64
  bell : W64
  dk : W64
  query : W64
  mbox : W64
  slot : W64
  prq : W64
  deriving DecidableEq, Repr, Inhabited

/-- A function (16 R351; 14 R320, R321). -/
structure Func where
  valid : Bool
  ts : Bool
  maxw : Nat
  maxq : Nat
  prq1n : Nat
  prq2n : Nat
  tson : Nat
  tsoff : Nat
  chgrp : W64
  clust : BitVec 128
  prq1 : W64
  prq2 : W64
  etbase : W64
  s1root : W64
  s2root : W64
  tvecg : W64
  troute : W32
  rspool : W64
  /-- sequence counter (R362) and ring positions written -/
  seq : W32
  qpos1 : W32
  qpos2 : W32
  dbg : Debug
  mbox : Mailbox
  err : ErrCnt
  /-- metadata words met with reserved bits set (03 R80); no register reads the count -/
  badMeta : Nat := 0
  deriving DecidableEq, Repr, Inhabited

/-- Function 0's configuration page (18 R407). -/
structure ConfPage where
  ftbase : W64
  qtbase : W64
  mftbase : W64
  wtbase : W64
  fotbase : W64
  heapspa : W64
  elogbase : W64
  elogn : W32
  elogtail : W32
  eloghead : W32
  startst : Nat
  /-- START was written before all eight stacks were ready (18 R408) -/
  startWait : Bool := false
  nodeid : Nat
  fwaddr : W64
  fwstat : Nat
  vfport : W64
  /-- virtual functions exposed by VF Enable (18 R390) -/
  vfOn : BitVec 64
  alarmpol : W32
  keygone : Bool
  alarmcnt : List W32
  route : Tab Nat
  inb : Tab Nat
  stackcnt : List (W64 × W64)
  sievecnt : List W64
  deriving DecidableEq, Repr, Inhabited

/-- What the debug, identity and attestation side keeps (18 R400 to R403). -/
structure Security where
  /-- the staged image's address; it takes effect at the next reset -/
  staged : Option W64
  /-- HSS signatures used, of 2^40 -/
  hssUsed : Nat
  dbgFails : Nat
  /-- the Sieve's firmware verified at the last reset (R400) -/
  fwOk : Bool
  /-- NEGOTIATE_ALGORITHMS was answered, by mailbox -/
  negotiated : BitVec 2
  /-- staged images that have taken effect; measurement 2 and 3 follow it (18 R402) -/
  fwGen : Nat := 0
  overtemp : Bool
  deriving DecidableEq, Repr, Inhabited

/-- READY (18 R409) but for slices and cores, which hold their own bits. -/
structure Ready where
  portA : Bool
  portB : Bool
  sieve : Bool
  whisk : Bool
  hbm : BitVec 8
  links : BitVec 16
  deckles : BitVec 16
  deriving DecidableEq, Repr, Inhabited

/-- A peer link (18 R397, R398). -/
structure Link where
  expect : W32
  /-- LSEQ of the next flit sent -/
  sent : W32
  replays : Nat
  credits : Nat
  deriving DecidableEq, Repr, Inhabited

/-- An outstanding peer transfer (18 R398, R417). -/
structure PeerReq where
  tid : Nat
  node : Nat
  link : Nat
  /-- lane access: core, wave, uid, op, lane; none for an engine -/
  who : Option (Nat × Nat × Nat × Nat × Nat)
  /-- engine command: core, 0 Ladle 1 MXE 2 Colander 3 Deckle 5 queue 6 raster or slice 7 counter, its number -/
  cmd : Option (Nat × Nat × Nat)
  /-- the chunk it writes, for a Ladle command's write, and other chunks with bytes in it -/
  chunk : Option Nat
  more : List Nat := []
  addr : Nat
  /-- bytes; of a counter's compare-and-swap the value it expects, 0 for its read (15 R340) -/
  len : Nat
  /-- when it left (R398) -/
  since : Nat
  /-- an engine's read: how it ended, and its 64 bytes -/
  got : Option (Option (List Byte))
  deriving DecidableEq, Repr, Inhabited

/-- A primitive emitted (12 R296, R297). -/
structure Prim where
  draw : Nat
  pseq : Nat
  uidx : Nat
  cls : Nat
  verts : List Vertex
  deriving DecidableEq, Repr, Inhabited

/-- A draw of a pass (12 R295). -/
structure Draw where
  addr : W64
  didx : Nat
  nunit : Nat
  state : W32
  user : W64
  surfAddr : W64
  /-- SURF once read; it was illegal -/
  surf : Option Launch
  surfBad : Bool
  ended : List Nat
  /-- its record is illegal -/
  bad : Bool
  deriving DecidableEq, Repr, Inhabited

/-- A fragment covering a pixel that is not applied yet: draw, unit, pseq, pixel; exported colour and depth when its wave has
exported, or discarded (12 R299, R300). -/
structure Frag where
  draw : Nat
  uidx : Nat
  pseq : Nat
  x : Nat
  y : Nat
  /-- the home core of its tile (12 R297) -/
  core : Nat
  export_ : Option (List W32 × W32)
  deriving DecidableEq, Repr, Inhabited

/-- An open pass (12 R295, R302). -/
structure Pass where
  id : Nat
  vf : Nat
  level : Level
  addr : W64
  width : Nat
  height : Nat
  ndraw : Nat
  cfmt : Nat
  colb : W64
  cpitch : Nat
  depthb : W64
  dpitch : Nat
  done : W64
  tag : W64
  status : Nat
  applied : W32
  culled : Nat
  /-- its record is illegal -/
  bad : Bool
  draws : List Draw
  prims : List Prim
  frags : List Frag
  /-- page requests: page and ticket -/
  waits : List (Nat × Nat)
  deriving DecidableEq, Repr, Inhabited

/-- Records of a card of KIND 1 that a Deckle holds (10 R237): those not started, and the run in progress. -/
structure DkUnit where
  q : Nat
  seq : W32
  recs : List Nat
  run : Option LCmd
  deriving DecidableEq, Repr, Inhabited

/-- A wave that has been saved and not restored, with its operations still pending (14 R325; 15 R348; 16 R373). -/
structure Saved where
  wave : Wave
  core : Nat
  slot : Nat
  addr : Nat
  reason : Nat
  /-- words of its accumulators, by accumulator × 4096 + word, and the poisoned ones -/
  acc : Tab W32
  accPois : List Nat
  /-- its MXE commands that were not over -/
  mx : List MCmd
  /-- log entries of the record: operation, and their requests as ticket and SEQ -/
  reqs : List (Nat × List (Nat × W32))
  /-- log entries of its spills by index, and of its refill as 65,536 -/
  spillReqs : List (Nat × List (Nat × W32)) := []
  /-- a gang record follows -/
  grec : Bool
  deriving DecidableEq, Repr, Inhabited

/-- A gang all of whose waves are saved (14 R329). -/
structure SavedGang where
  core : Nat
  gang : Gang
  deriving DecidableEq, Repr, Inhabited

/-- The time slice of the shared clusters (16 R373). -/
structure TimeSlice where
  vf : Nat
  on : Bool
  began : Nat
  /-- a switch is in progress: cores still to pass -/
  todo : List Nat
  switching : Bool
  deriving DecidableEq, Repr, Inhabited

/-- What the part sends out: to a host, to a peer, or as an answer of a mailbox. -/
inductive OutMsg where
  | hostData (vf addr : Nat) (bytes : List Byte)
  | hostWrite (port addr vf : Nat) (bytes : List Byte)
  /-- a read request of a function for n bytes; none asked for makes the writes before it visible (18 R394, R395) -/
  | hostRead (port addr vf n : Nat)
  | flit (link : Nat) (f : BitVec 1024)
  | replayAsk (link : Nat) (lseq : W32)
  | msix (vf vector : Nat)
  | spdm (pf code : Nat) (body : List Nat)
  | vfEnabled (pf n : Nat) (ok : Bool)
  | powerOff
  deriving DecidableEq, Repr, Inhabited

/-- One thing that happens next: a step of the table, an issue slot of a quarter, or a step of the memory system that no
row of the table names (03 R67, R68; 16 R359). -/
inductive Move where
  | event (i : Instr)
  /-- the next word of a quarter's run issues, or its run ends -/
  | issue (core quarter : Nat)
  /-- entry id of a core's write queue reaches its target -/
  | drain (core id : Nat)
  | evictL1 (core line : Nat)
  | evictL0 (core : Nat)
  | evictTlb (core n : Nat)
  | evictTlb2 (cluster n : Nat)
  | evictWalk (cluster n : Nat)
  /-- time passes: cc of a core, fc, Sieve ticks -/
  | cc (core n : Nat)
  | fc (n : Nat)
  | ticks (n : Nat)
  /-- a core's first stamp record that waited for its page is tried again -/
  | stamp (core : Nat)
  /-- a held saved wave of the save pool is restored (15 R348; 16 R373) -/
  | restore (uid : Nat)
  /-- a core sends a zero-length read to a host port it has written (18 R395) -/
  | flushPort (core port : Nat)
  /-- a host writes Message Control of a function's MSI-X capability: Enable and Function Mask (18 R393) -/
  | msixControl (vf : Nat) (en mask : Bool)
  /-- a mailbox takes a request other than those R402 names (18 R402) -/
  | spdmOther (pf code : Nat)
  deriving DecidableEq, Repr

/-- The group and word that an instruction word's meaning acts for: core, quarter, port. -/
structure Cursor where
  core : Nat
  quarter : Nat
  port : Nat
  deriving DecidableEq, Repr, Inhabited

/-- What each member of a team command must name alike (10 R247): KSTEPS, MB, NB, ZERO, formats and the B descriptor. -/
structure TeamSig where
  rank : Nat
  refused : Bool
  ksteps : Nat
  mb : Nat
  nb : Nat
  zero : Bool
  fmtA : Nat
  fmtB : Nat
  tb : W256
  deriving DecidableEq, Repr, Inhabited

/-- A k-step of a shared B as the team's tile-fetch unit delivers it: codes and scales, or an error (10 R247). -/
structure TeamStep where
  step : Nat
  err : Nat
  pois : Bool
  els : List (Nat × Nat)
  deriving DecidableEq, Repr, Inhabited

/-- A team command (10 R247): the n-th of each member of a team. -/
structure TeamCmd where
  team : Nat
  seq : Nat
  sigs : List TeamSig
  /-- rank 0's core, issuer and record of B -/
  lead : Option (Nat × Issuer × List Byte)
  /-- k-steps completed by rank; 65,536 once a member's command is over -/
  prog : Tab Nat
  waits : List (Nat × Nat)
  steps : List TeamStep
  deriving DecidableEq, Repr, Inhabited

/-- Queues, cards, the dealer, the Whisk and the Sieve (15). -/
structure Sched where
  queues : Tab Queue
  posts : List Post
  filters : Tab Filter
  saved : List Saved
  savedGangs : List SavedGang
  pool : Option (Nat × Nat)
  poolUsed : List Nat
  slice : Option TimeSlice
  /-- open deadline windows: queue -/
  windows : List Nat
  /-- cores asked for room in open windows: queue, core, and its waves still to be asked for, in order (15 R348) -/
  asked : List (Nat × Nat × List Nat) := []
  occupancy : Tab W32
  whiskFc : Nat
  deckles : Tab (List DkUnit)
  teams : Nat
  teamCmds : List TeamCmd
  deriving DecidableEq, Repr, Inhabited

/-- The machine. -/
structure State where
  powered : Bool
  /-- HBM4 bytes; an unlisted byte reads 0 once its stack has trained (18 R408) -/
  mem : List Host.Cell
  memPois : List Nat
  /-- addresses of uncorrectable errors whose bytes nothing has overwritten (03 R83) -/
  eccs : List Nat := []
  /-- poisoned 32-bit words of the LLC, by address / 4; LLC and tag errors, corrected and not, which no register reads (18 R404) -/
  llcPois : List Nat := []
  llcCnt : W64 × W64 := (0, 0)
  /-- writes of the part's own whose VALUE records are still to be written (17 R384) -/
  selfWrites : List SelfWrite := []
  /-- frame owners; an unlisted frame is HOST's after START (16 R366; 18 R408) -/
  owners : Tab Nat
  cores : Tab Core
  clusters : Tab Cluster
  slices : Tab Slice
  funcs : Tab Func
  worlds : Tab World
  sched : Sched
  reqs : List PageReq
  answers : Tab Answer
  nextTicket : Nat
  tracers : Tab TraceUnit
  tvech : W64
  conf : ConfPage
  sec : Security
  rdy : Ready
  links : Tab Link
  peers : List PeerReq
  nextTid : Nat
  /-- SPECULATIVE compare-and-swaps between read and write (04 R104) -/
  specs : List SpecRead
  passes : List Pass
  nextPass : Nat
  nextUid : Nat
  fc : Nat
  ticks : Nat
  /-- cc since reset of the cores that have not reported yet (00 R3) -/
  bootCc : W64 := 0
  outbox : List OutMsg
  cur : Option Cursor
  agenda : List Move
  /-- the model's own: how many free values have been taken -/
  free : Nat
  deriving DecidableEq, Repr

/-- Why the machine stops. Both are safe: they end a run that the model's schedule made, never one the part must make. -/
inductive Fault where
  /-- a move that cannot happen in this state (step); safe: no behaviour of the part is claimed -/
  | notEnabled
  /-- an instruction word's meaning called with no group issuing (exec); safe -/
  | noIssue
  /-- the package has no power (18 R410); safe -/
  | powerOff
  deriving DecidableEq, Repr

/-- Why the model has no meaning for a step. -/
inductive Refusal where
  /-- raised by an arm of exec not written yet; safe -/
  | notModelled (mnemonic : String)
  deriving DecidableEq, Repr

/-- A quarter with no run. -/
def Quarter.idle : Quarter := { slot := 0, run := none }

/-- A watchpoint not armed. -/
def Watch.off : Watch := default

/-- A Colander without work. -/
def Colander.idle : Colander := default

/-- A core after its self-test, or before it: registers and buffers zero (18 R408). -/
def Core.idle : Core :=
  { ready := false, clock := 0, vf := none,
    quarters := [Quarter.idle, Quarter.idle, Quarter.idle, Quarter.idle],
    slots := [], gangs := [], w := [], wpois := [], x := [], xpois := [], z := [], zpois := [], zkeep := [],
    l0 := [], l1 := [], tlb := [], wq := [], nextWq := 0, ladle := [], mx := [], tiles := [], stamps := [],
    col := Colander.idle, nextCmd := 0, nextOrd := 0, held := [], lastQ := 0,
    watch := [Watch.off, Watch.off, Watch.off, Watch.off],
    poisonReads := 0, trapLoss := 0, corr := 0, uncorr := 0, shares := [], exportWaits := [], migrate := none }

/-- A cluster with nothing cached. -/
def Cluster.idle : Cluster := default

/-- A Stockpot slice whose entries are INVALID. -/
def Slice.idle : Slice := default

/-- A debug page after reset. -/
def Debug.reset : Debug :=
  { stopen := false, ringbase := 0, ringn := 0, tail := 0, head := 0, lost := 0,
    bps := List.replicate 16 default, vtrs := List.replicate 8 default }

/-- A mailbox after reset: nothing pending, every MSI-X vector masked as the PCI Express base specification resets it. [log 8: PRESUMED, unsafe] -/
def Mailbox.reset : Mailbox :=
  { code := 0, args := List.replicate 6 0, pending := false, rtoken := 0, rstat := 0, token := 0, req := none,
    reply := List.replicate 32 0, invVa := 0, invPages := 0, invLeft := [], invTids := [],
    msix := (List.replicate 8 [0, 0, 0, 1]).flatten, pba := 0, pend := 0, open_ := 0 }

/-- A function whose entry has not been applied. -/
def Func.reset : Func :=
  { valid := false, ts := false, maxw := 0, maxq := 0, prq1n := 0, prq2n := 0, tson := 0, tsoff := 0, chgrp := 0,
    clust := 0, prq1 := 0, prq2 := 0, etbase := 0, s1root := 0, s2root := 0, tvecg := 0, troute := 0, rspool := 0,
    seq := 0, qpos1 := 0, qpos2 := 0, dbg := Debug.reset, mbox := Mailbox.reset, err := default }

/-- A queue that QSET has not set up (15 R337). -/
def Queue.reset : Queue := default

/-- The configuration page after reset: ALARMPOL holds the reset policies, ROUTE and INB name nothing (18 R396, R403). -/
def ConfPage.reset : ConfPage :=
  { ftbase := 0, qtbase := 0, mftbase := 0, wtbase := 0, fotbase := 0, heapspa := 0, elogbase := 0, elogn := 0,
    elogtail := 0, eloghead := 0, startst := 0, nodeid := 0, fwaddr := 0, fwstat := 0, vfport := 0, vfOn := 0,
    alarmpol := 0x565, keygone := false, alarmcnt := List.replicate 6 0, route := [], inb := [],
    stackcnt := List.replicate 8 (0, 0), sievecnt := List.replicate 4 0 }

/-- No queue set up, no world, no work. -/
def Sched.reset : Sched := default

/-- The machine right after module reset (18 R408): no unit has reported, START is not done, nothing is resident. [log 5: DESIGN CHOICE, unsafe] [log 6: DESIGN CHOICE, unsafe] [log 9: DESIGN CHOICE, unsafe] -/
def State.reset : State :=
  { powered := true, mem := [], memPois := [], owners := [], cores := [], clusters := [], slices := [],
    funcs := [], worlds := [], sched := Sched.reset, reqs := [], answers := [], nextTicket := 0, tracers := [],
    tvech := 0, conf := ConfPage.reset,
    sec := { staged := none, hssUsed := 0, dbgFails := 0, fwOk := true, negotiated := 0, overtemp := false },
    rdy := default, links := [], peers := [], nextTid := 0, specs := [], passes := [], nextPass := 0, nextUid := 0, fc := 0,
    ticks := 0, outbox := [], cur := none, agenda := [], free := 0 }

end Sys2Proof.Machine
end

