-- ==== Sys2Proof/Machine/Flags.lean ====
section
/-! DEFINITION. Carries, comparisons, saturation and the exception bits of WSTAT (05 R121, R123; 07 R163 to R168). -/

namespace Sys2Proof.Machine

/-- Exception bits in the layout of WSTAT 7:0 (05 R123). -/
abbrev Exc := BitVec 8

/-- bit 2 -/
def excNX : Exc := 0x04
/-- bit 3 -/
def excUF : Exc := 0x08
/-- bit 4 -/
def excOF : Exc := 0x10
/-- bit 5 -/
def excDZ : Exc := 0x20
/-- bit 6 -/
def excIV : Exc := 0x40
/-- bit 7 -/
def excSAT : Exc := 0x80

/-- A 32-bit source read as S32 (NS 0) or N32 (NS 1) (07 R151). -/
def ns32 (ns : Nat) (a : W32) : Int := if ns = 0 then a.toInt else a.toNat
/-- A 64-bit source read as S64 (NS 0) or N64 (NS 1). -/
def ns64 (ns : Nat) (a : W64) : Int := if ns = 0 then a.toInt else a.toNat

/-- Least value of an integer format of n bits. -/
def intMin (signed : Bool) (n : Nat) : Int := if signed then -(2 ^ (n - 1) : Nat) else 0
/-- Greatest value of an integer format of n bits. -/
def intMax (signed : Bool) (n : Nat) : Int := if signed then (2 ^ (n - 1) : Nat) - 1 else (2 ^ n : Nat) - 1

/-- Sat to an integer format: the clamped value and SAT when it changed (05 R121). -/
def satInt (signed : Bool) (n : Nat) (y : Int) : Int × Exc :=
  if y < intMin signed n then (intMin signed n, excSAT)
  else if intMax signed n < y then (intMax signed n, excSAT)
  else (y, 0)

/-- The relation CC of ICMP (07 R167). -/
def intRel (cc : Nat) (a b : Int) : Bool :=
  match cc with
  | 0 => decide (a = b)
  | 1 => decide (a ≠ b)
  | 2 => decide (a < b)
  | 3 => decide (a ≤ b)
  | 4 => decide (b < a)
  | _ => decide (b ≤ a)

/-- COMB of ICMP (07 R167). -/
def combine (comb : Nat) (r c : Bool) : Bool :=
  match comb with
  | 0 => r
  | 1 => r && c
  | 2 => r || c
  | _ => xor r c

/-- All ones for true, zero for false (07 R161, R167). -/
def boolWord (b : Bool) : W32 := if b then 0xFFFFFFFF else 0

/-- Bit i of an 8-bit table (07 R163, R170). -/
def lut3 (t : W32) (a b c : Bool) : Bool := t.getLsbD (a.toNat + 2 * b.toNat + 4 * c.toNat)

/-- The number of one bits. -/
def popcount (n w : Nat) : Nat := ((List.range n).filter (fun i => w.testBit i)).length

/-- The index of the lowest one bit below n, n when there is none. -/
def lowestBit (n w : Nat) : Nat := ((List.range n).find? (fun i => w.testBit i)).getD n

end Sys2Proof.Machine
end

