-- ==== Sys2Proof/Machine/Num.lean ====
section
/-! DEFINITION. Exact numbers, the floating-point formats, Round, Overflow and stochastic rounding, and the arithmetic of
values (05 R113 to R122, R126; 08 R180 to R184, R195). -/

namespace Sys2Proof

/-! ## Formats -/

/-- Fraction bits M (05 R113). -/
def Fmt.frac : Fmt → Nat
  | .fp64 => 52 | .fp32 => 23 | .fp16 => 10 | .bf16 => 7 | .e4m3 => 3 | .e5m2 => 2 | .e2m1 => 1
  | _ => 0
/-- Bias (05 R113). -/
def Fmt.bias : Fmt → Nat
  | .fp64 => 1023 | .fp32 => 127 | .fp16 => 15 | .bf16 => 127 | .e4m3 => 7 | .e5m2 => 15 | .e2m1 => 1
  | _ => 0
/-- The code of the largest finite magnitude (05 R113). -/
def Fmt.maxCode : Fmt → Nat
  | .fp64 => 0x7FEFFFFFFFFFFFFF | .fp32 => 0x7F7FFFFF | .fp16 => 0x7BFF | .bf16 => 0x7F7F | .e4m3 => 0x7E
  | .e5m2 => 0x7B | .e2m1 => 7
  | _ => 0
/-- A format with infinities (05 R113). -/
def Fmt.hasInf : Fmt → Bool
  | .fp64 | .fp32 | .fp16 | .bf16 | .e5m2 => true
  | _ => false
/-- The canonical NaN (05 R114). -/
def Fmt.canon : Fmt → Nat
  | .fp64 => 0x7FF8000000000000 | .fp32 => 0x7FC00000 | .fp16 => 0x7E00 | .bf16 => 0x7FC0 | .e4m3 => 0x7F | .e5m2 => 0x7E
  | _ => 0
/-- The exponent of the unit of a subnormal. -/
def Fmt.qmin (t : Fmt) : Int := 1 - (t.bias : Int) - t.frac
/-- The sign bit of a float format, for a sign. -/
def Fmt.sign (t : Fmt) (neg : Bool) : Nat := if neg then 2 ^ (t.width - 1) else 0

end Sys2Proof

namespace Sys2Proof.Machine

/-! ## Exact numbers -/

/-- The exact real ± n / d × 2^e, d not 0; a zero keeps its sign. -/
structure Ex where
  neg : Bool
  n : Nat
  d : Nat
  e : Int
  deriving DecidableEq, Repr, Inhabited

/-- A value of a format: a NaN and whether it is signalling, an infinity, or a number. -/
inductive Val where
  | nan (sig : Bool)
  | inf (neg : Bool)
  | num (x : Ex)
  deriving DecidableEq, Repr, Inhabited

/-- Zero with a sign. -/
def Ex.zero (neg : Bool) : Ex := { neg := neg, n := 0, d := 1, e := 0 }
/-- An integer. -/
def Ex.ofInt (i : Int) : Ex := { neg := decide (i < 0), n := i.natAbs, d := 1, e := 0 }
/-- The opposite. -/
def Ex.opp (x : Ex) : Ex := { x with neg := !x.neg }
/-- The exact product. -/
def Ex.mul (x y : Ex) : Ex := { neg := xor x.neg y.neg, n := x.n * y.n, d := x.d * y.d, e := x.e + y.e }
/-- Times a power of two. -/
def Ex.scale (x : Ex) (k : Int) : Ex := { x with e := x.e + k }
/-- The signed numerator over d × 2^e0, for e0 at most e. -/
def Ex.top (x : Ex) (d : Nat) (e0 : Int) : Int :=
  let m : Nat := x.n * (d / x.d) * 2 ^ (x.e - e0).toNat
  if x.neg then -(m : Int) else m
/-- The exact sum; a zero sum here is +0. -/
def Ex.add (x y : Ex) : Ex :=
  let e0 := min x.e y.e
  let t := x.top (x.d * y.d) e0 + y.top (x.d * y.d) e0
  { neg := decide (t < 0), n := t.natAbs, d := x.d * y.d, e := e0 }
/-- x < y as reals. -/
def Ex.lt (x y : Ex) : Bool :=
  let e0 := min x.e y.e
  decide (x.top (x.d * y.d) e0 < y.top (x.d * y.d) e0)
/-- x = y as reals. -/
def Ex.same (x y : Ex) : Bool :=
  let e0 := min x.e y.e
  decide (x.top (x.d * y.d) e0 = y.top (x.d * y.d) e0)
/-- floor(log2 |x|) of a non-zero x. -/
def Ex.log2 (x : Ex) : Int :=
  let t : Int := (x.n.log2 : Int) - x.d.log2
  let ge : Bool := if 0 ≤ t then decide (x.d * 2 ^ t.toNat ≤ x.n) else decide (x.d ≤ x.n * 2 ^ (-t).toNat)
  (if ge then t else t - 1) + x.e
/-- |x| in units of 2^q: quotient, remainder, divisor. -/
def Ex.split (x : Ex) (q : Int) : Nat × Nat × Nat :=
  let n := if q ≤ x.e then x.n * 2 ^ (x.e - q).toNat else x.n
  let d := if q ≤ x.e then x.d else x.d * 2 ^ (q - x.e).toNat
  (n / d, n % d, d)

/-- Whether rounding moves a magnitude up: quotient g, remainder r of d, by RM (05 R118). -/
def bump (rm : Nat) (neg : Bool) (g r d : Nat) : Bool :=
  match rm with
  | 0 => decide (d < 2 * r) || (decide (2 * r = d) && g % 2 == 1)
  | 1 => false
  | 2 => decide (0 < r) && !neg
  | _ => decide (0 < r) && neg

/-! ## Values of codes -/

/-- The value of a float code (05 R113, R114). -/
def decodeF (t : Fmt) (b : Nat) : Val :=
  let neg := b.testBit (t.width - 1)
  let m := b % 2 ^ (t.width - 1)
  let fr := m % 2 ^ t.frac
  let ex := m / 2 ^ t.frac
  if t.hasInf && m == t.maxCode + 1 then .inf neg
  else if t != .e2m1 && decide (t.maxCode < m) then .nan (t != .e4m3 && !fr.testBit (t.frac - 1))
  else if ex = 0 then .num { neg := neg, n := fr, d := 1, e := t.qmin }
  else .num { neg := neg, n := 2 ^ t.frac + fr, d := 1, e := t.qmin + ((ex : Int) - 1) }

/-- The integer value of a code of an integer format (05 R115). -/
def decodeI (t : Fmt) (b : Nat) : Int :=
  let m := b % 2 ^ t.width
  if t.isSigned && decide (2 ^ (t.width - 1) ≤ m) then (m : Int) - 2 ^ t.width else m

/-- The value of an element in any format. -/
def decodeV (t : Fmt) (b : Nat) : Val := if t.isFloat then decodeF t (b % 2 ^ t.width) else .num (Ex.ofInt (decodeI t b))

/-- The code of an integer value. -/
def encodeI (t : Fmt) (i : Int) : Nat := (i.emod (2 ^ t.width)).toNat

/-- IV for a signalling NaN operand (05 R114). -/
def Val.sigExc : Val → Exc
  | .nan true => excIV
  | _ => 0
/-- A NaN. -/
def Val.isNan : Val → Bool
  | .nan _ => true
  | _ => false

/-! ## Rounding -/

/-- Overflow (05 R120); fin is the overflow mode FIN. -/
def overflowF (t : Fmt) (rm : Nat) (neg fin : Bool) : Nat × Exc :=
  let away := rm == 0 || (rm == 2 && !neg) || (rm == 3 && neg)
  let code :=
    if t == .e2m1 || !away || (fin && (t == .e4m3 || t == .e5m2)) then t.sign neg + t.maxCode
    else if t == .e4m3 then t.canon
    else t.sign neg + t.maxCode + 1
  (code, excOF ||| excNX)

/-- The code of a magnitude g × 2^q under a sign, with the bits R119 sets when it is inexact; overflow by RM where it is beyond
the largest finite. -/
def finishF (t : Fmt) (rm : Nat) (neg fin : Bool) (g : Nat) (q : Int) (inexact : Bool) : Nat × Exc :=
  let m := (q - t.qmin).toNat * 2 ^ t.frac + g
  if t.maxCode < m then overflowF t rm neg fin
  else (t.sign neg + m,
    (if inexact then excNX else 0) ||| (if inexact && decide (0 < m) && decide (m < 2 ^ t.frac) then excUF else 0))

/-- The unit that a number's rounding to a float format counts in: subnormal spacing below (05 R119). -/
def unitOf (t : Fmt) (x : Ex) : Int := max x.log2 (1 - (t.bias : Int)) - t.frac

/-- Round of a number to a float format (05 R119, R120). -/
def roundNum (t : Fmt) (rm : Nat) (fin : Bool) (x : Ex) : Nat × Exc :=
  if x.n = 0 then (t.sign x.neg, 0)
  else if (t.bias : Int) + 2 < x.log2 then overflowF t rm x.neg fin
  else if x.log2 < t.qmin - 2 then
    finishF t rm x.neg fin (if bump rm x.neg 0 1 4 then 1 else 0) t.qmin true
  else
    let q := unitOf t x
    let (g, r, d) := x.split q
    finishF t rm x.neg fin (if bump rm x.neg g r d then g + 1 else g) q (decide (0 < r))

/-- Round of an infinity to a float format (05 R119, R120). [log 138: DEDUCED, unsafe] -/
def roundInf (t : Fmt) (neg fin : Bool) : Nat × Exc :=
  match t with
  | .e4m3 => if fin then (t.sign neg + t.maxCode, excSAT) else (t.canon, excIV)
  | .e2m1 => (t.sign neg + t.maxCode, excSAT)
  | .e5m2 => if fin then (t.sign neg + t.maxCode, excSAT) else (t.sign neg + t.maxCode + 1, 0)
  | _ => (t.sign neg + t.maxCode + 1, 0)

/-- A number rounded to an integer by RM, and whether that changed it (05 R119). -/
def roundInt (rm : Nat) (x : Ex) : Int × Bool :=
  if x.log2 < -2 ∧ x.n ≠ 0 then
    let g : Int := if bump rm x.neg 0 1 4 then 1 else 0
    (if x.neg then -g else g, true)
  else
    let (g, r, d) := x.split 0
    let m : Int := ((if bump rm x.neg g r d then g + 1 else g : Nat) : Int)
    (if x.neg then -m else m, decide (0 < r))

/-- The saturated code of an integer, with IV and SAT when it is out of range (05 R119, R121). -/
def satCode (t : Fmt) (y : Int) : Nat × Exc :=
  let (v, e) := satInt t.isSigned t.width y
  (encodeI t v, if e = 0 then 0 else excIV ||| excSAT)

/-- Round (05 R119). -/
def roundV (t : Fmt) (rm : Nat) (fin : Bool) (x : Val) : Nat × Exc :=
  if t.isFloat then
    match x with
    | .nan _ => if t == .e2m1 then (0, excIV) else (t.canon, 0)
    | .inf neg => roundInf t neg fin
    | .num x => roundNum t rm fin x
  else
    match x with
    | .nan _ => (0, excIV)
    | .inf neg => (encodeI t (if neg then intMin t.isSigned t.width else intMax t.isSigned t.width), excIV ||| excSAT)
    | .num x =>
      let (y, nx) := roundInt rm x
      let (c, e) := satCode t y
      (c, e ||| (if nx then excNX else 0))

/-- One step of SRG (05 R122). -/
def srgNext (g : W32) : W32 := g * 0x0019660D + 0x3C6EF35F

/-- The result of R122 for a value, with SRG already advanced. -/
def roundSR (t : Fmt) (fin : Bool) (srg : W32) (x : Val) : Nat × Exc :=
  let g := (srg >>> 8).toNat
  match x with
  | .num x =>
    if x.n = 0 then roundV t 1 fin (.num x)
    else if t.isFloat then
      if (t.bias : Int) + 2 < x.log2 then overflowF t 0 x.neg fin
      else
        let q := unitOf t x
        let (m, r, d) := x.split q
        finishF t 0 x.neg fin (if g * d < r * 2 ^ 24 then m + 1 else m) q (decide (0 < r))
    else
      let (m, r, d) := x.split 0
      let y : Int := ((if g * d < r * 2 ^ 24 then m + 1 else m : Nat) : Int)
      let (c, e) := satCode t (if x.neg then -y else y)
      (c, e ||| (if 0 < r then excNX else 0))
  | x => roundV t 0 fin x

/-! ## Arithmetic of values -/

/-- The sum of two numbers as a value: the sign of an exact zero is R114's. -/
def addNum (rm : Nat) (x y : Ex) : Ex :=
  let z := x.add y
  if z.n = 0 then Ex.zero (if x.neg = y.neg then x.neg else rm == 3) else z

/-- Addition (08 R180; 05 R114): the result and the bits besides rounding. -/
def addV (rm : Nat) (x y : Val) : Val × Exc :=
  let iv := x.sigExc ||| y.sigExc
  match x, y with
  | .nan _, _ => (.nan false, iv)
  | _, .nan _ => (.nan false, iv)
  | .inf a, .inf b => if a = b then (.inf a, iv) else (.nan false, excIV)
  | .inf a, _ => (.inf a, iv)
  | _, .inf b => (.inf b, iv)
  | .num a, .num b => (.num (addNum rm a b), iv)

/-- Multiplication (08 R180). -/
def mulV (x y : Val) : Val × Exc :=
  let iv := x.sigExc ||| y.sigExc
  match x, y with
  | .nan _, _ => (.nan false, iv)
  | _, .nan _ => (.nan false, iv)
  | .inf a, .inf b => (.inf (xor a b), iv)
  | .inf a, .num b => if b.n = 0 then (.nan false, excIV) else (.inf (xor a b.neg), iv)
  | .num a, .inf b => if a.n = 0 then (.nan false, excIV) else (.inf (xor a.neg b), iv)
  | .num a, .num b => (.num (a.mul b), iv)

/-- A fused product and sum, exact (08 R180); 0 × ∞ gives NaN whatever z is. -/
def fmaV (rm : Nat) (x y z : Val) : Val × Exc :=
  let (p, e) := mulV x y
  let (r, e') := addV rm p z
  (r, e ||| e')

/-- The opposite of a value. -/
def Val.opp : Val → Val
  | .nan s => .nan s
  | .inf n => .inf (!n)
  | .num x => .num x.opp

/-- Rounds an exact result to a format. -/
def finish (t : Fmt) (rm : Nat) (r : Val × Exc) : Nat × Exc :=
  let (c, e) := roundV t rm false r.1
  (c, r.2 ||| e)

/-- Order of numbers and infinities, −0 below +0 when z is set (08 R181, R182). -/
def ltV (z : Bool) (x y : Val) : Bool :=
  match x, y with
  | .inf a, .inf b => a && !b
  | .inf a, .num _ => a
  | .num _, .inf b => !b
  | .num a, .num b => a.lt b || (z && a.n == 0 && b.n == 0 && a.neg && !b.neg)
  | _, _ => false

/-- Equality of numbers and infinities. -/
def eqV (x y : Val) : Bool :=
  match x, y with
  | .inf a, .inf b => a == b
  | .num a, .num b => a.same b
  | _, _ => false

/-- FMIN and FMAX on codes (08 R181). -/
def minMax (t : Fmt) (isMax prop : Bool) (a b : Nat) : Nat × Exc :=
  let x := decodeF t a
  let y := decodeF t b
  let iv := x.sigExc ||| y.sigExc
  match x.isNan, y.isNan with
  | true, true => (t.canon, iv)
  | true, false => (if prop then t.canon else b, iv)
  | false, true => (if prop then t.canon else a, iv)
  | false, false => (if ltV true x y = isMax then b else a, iv)

/-- FCMP on codes (08 R182). -/
def cmpF (t : Fmt) (cc : Nat) (a b : Nat) : Bool × Exc :=
  let x := decodeF t a
  let y := decodeF t b
  let un := x.isNan || y.isNan
  let iv := x.sigExc ||| y.sigExc ||| (if un && decide (2 ≤ cc ∧ cc ≤ 5) then excIV else 0)
  (match cc with
    | 0 => eqV x y
    | 1 => !eqV x y
    | 2 => ltV false x y
    | 3 => ltV false x y || eqV x y
    | 4 => ltV false y x
    | 5 => ltV false y x || eqV x y
    | 6 => !un
    | _ => un, iv)

/-- FRINT (08 R183). -/
def rintF (t : Fmt) (rm : Nat) (a : Nat) : Nat × Exc :=
  match decodeF t a with
  | .nan s => (t.canon, if s then excIV else 0)
  | .inf _ => (a, 0)
  | .num x =>
    if x.n = 0 then (a, 0)
    else
      let (y, nx) := roundInt rm x
      ((roundNum t 1 false { (Ex.ofInt y) with neg := x.neg }).1, if nx then excNX else 0)

/-- FSCALE (08 R183). -/
def scaleF (t : Fmt) (rm : Nat) (a : Nat) (b : Int) : Nat × Exc :=
  match decodeF t a with
  | .nan s => (t.canon, if s then excIV else 0)
  | .inf n => (t.sign n + t.maxCode + 1, 0)
  | .num x => roundNum t rm false (x.scale b)

/-- FFRC (08 R183; 05 R114). [log 32: DEDUCED, unsafe] -/
def frcF (t : Fmt) (rm : Nat) (a : Nat) : Nat × Exc :=
  match decodeF t a with
  | .nan s => (t.canon, if s then excIV else 0)
  | .inf _ => (t.canon, excIV)
  | .num x =>
    if x.n = 0 then (0, 0)
    else
      let fl := (roundInt 3 x).1
      let y := x.add (Ex.ofInt (-fl))
      -- the zero difference of equal numbers (05 R114)
      if y.n = 0 then (t.sign (rm == 3), 0)
      else
        let (c, e) := roundNum t rm false y
        let one := t.bias * 2 ^ t.frac
        if c = one then (one - 1, excNX) else (c, e)

/-- FCLASS's mask (08 R184). -/
def classMask (t : Fmt) (a : Nat) : Nat :=
  match decodeF t a with
  | .nan s => if s then 1 else 2
  | .inf n => if n then 4 else 512
  | .num x =>
    let sub := decide (a % 2 ^ (t.width - 1) < 2 ^ t.frac)
    if x.n = 0 then (if x.neg then 32 else 64)
    else if sub then (if x.neg then 16 else 128)
    else (if x.neg then 8 else 256)

/-- FGETEXP (08 R184). -/
def getExp (t : Fmt) (a : Nat) : W32 :=
  match decodeF t a with
  | .nan _ => 0x80000000
  | .inf _ => 0x7FFFFFFF
  | .num x => if x.n = 0 then 0x80000000 else BitVec.ofInt 32 x.log2

/-- SATF: the clamp of a result to [+0, 1.0] (08 R179). -/
def satF (t : Fmt) (c : Nat) : Nat :=
  let one := t.bias * 2 ^ t.frac
  match decodeF t c with
  | .nan _ => 0
  | _ => if c.testBit (t.width - 1) then 0 else if one < c then one else c

/-- The reciprocal (08 R194). -/
def rcpF (t : Fmt) (rm : Nat) (a : Nat) : Nat × Exc :=
  match decodeF t a with
  | .nan s => (t.canon, if s then excIV else 0)
  | .inf n => (t.sign n, 0)
  | .num x =>
    if x.n = 0 then (t.sign x.neg + t.maxCode + 1, excDZ)
    else roundNum t rm false { neg := x.neg, n := x.d, d := x.n, e := -x.e }

/-- The integer square root, bit by bit from 2^(k − 1) down. -/
def isqrtFrom (n : Nat) : Nat → Nat → Nat
  | 0, r => r
  | k + 1, r => if (r + 2 ^ k) * (r + 2 ^ k) ≤ n then isqrtFrom n k (r + 2 ^ k) else isqrtFrom n k r

/-- The square root of a positive number to 200 bits, with a last bit that says whether it was cut: rounding in any direction
gives what the exact root gives. -/
def Ex.sqrt (x : Ex) : Ex :=
  let odd := x.e.emod 2
  let k : Nat := 200 + x.d.log2
  let m := x.n * 2 ^ (2 * k + odd.toNat) / x.d
  let cut := decide (x.n * 2 ^ (2 * k + odd.toNat) % x.d ≠ 0)
  let r := isqrtFrom m (m.log2 / 2 + 1) 0
  { neg := x.neg, n := 2 * r + (if r * r = m ∧ cut = false then 0 else 1), d := 1, e := (x.e - odd) / 2 - k - 1 }

/-- FSQRT (08 R194). -/
def sqrtF (t : Fmt) (rm : Nat) (a : Nat) : Nat × Exc :=
  match decodeF t a with
  | .nan s => (t.canon, if s then excIV else 0)
  | .inf n => if n then (t.canon, excIV) else (a, 0)
  | .num x => if x.n = 0 then (a, 0) else if x.neg then (t.canon, excIV) else roundNum t rm false x.sqrt

/-! ## Faithful functions -/

/-- The member of a faithful pair: the exact value where it is representable, else a neighbour by the free choice (08 R195). The
bounds lie on either side of the exact magnitude. -/
def faithful (t : Fmt) (op a : Nat) (neg : Bool) (lo hi : Ex) : Nat × Exc :=
  let d := roundNum t 1 false { lo with neg := false }
  let u := roundNum t 2 false { hi with neg := false }
  if d.1 = u.1 ∧ d.2 = 0 ∧ u.2 = 0 then (t.sign neg + d.1, 0)
  else if t.maxCode < u.1 ∧ d.1 = t.maxCode ∧ d.2.getLsbD 4 then overflowF t 0 neg false
  else
    let c := if Config.faithfulUp op a then u.1 else d.1
    (t.sign neg + c, excNX ||| (if 0 < c ∧ c < 2 ^ t.frac then excUF else 0) ||| (if t.maxCode < c then excOF else 0))

/-- An exact result of a faithful function. -/
def faithfulExact (t : Fmt) (x : Ex) : Nat × Exc := roundNum t 0 false x

/-- Binary digits kept after the point by the series below. -/
def prec : Nat := 480
/-- 1 at that precision. -/
def fxOne : Nat := 2 ^ prec
/-- A bound of the error of the series, in units of 2^−480. -/
def fxErr : Nat := 2 ^ 48

/-- A number from fixed point. -/
def fxEx (v : Nat) : Ex := { neg := false, n := v, d := 1, e := -(prec : Int) }

/-- The faithful result of a magnitude known to fxErr. -/
def faithfulFx (t : Fmt) (op a : Nat) (neg : Bool) (v : Nat) : Nat × Exc :=
  faithful t op a neg (fxEx (v - fxErr)) (fxEx (v + fxErr))

/-- The odd-power series Σ ± z^(2k+1) / (2k + 1) from term k on, p the current power, q = z²; alternating for atan. -/
def atSeries (alt : Bool) (q : Nat) : Nat → Nat → Nat → Int
  | 0, _, _ => 0
  | n + 1, k, p => (if alt && k % 2 == 1 then -((p / (2 * k + 1) : Nat) : Int) else (p / (2 * k + 1) : Nat)) +
      atSeries alt q n (k + 1) (p * q / fxOne)

/-- 2 atanh(z) for z at most 1/3, in fixed point. -/
def atanh2 (z : Nat) : Nat := (2 * atSeries false (z * z / fxOne) 160 0 z).toNat
/-- ln 2. -/
def fxLn2 : Nat := atanh2 (fxOne / 3)
/-- π = 16 atan(1/5) − 4 atan(1/239). -/
def fxPi : Nat :=
  (16 * atSeries true (fxOne / 25) 110 0 (fxOne / 5) - 4 * atSeries true (fxOne / (239 * 239)) 40 0 (fxOne / 239)).toNat

/-- Σ p, p z / (k + 1), … : e^z for z below 1. -/
def expSeries (z : Nat) : Nat → Nat → Nat → Nat
  | 0, _, _ => 0
  | n + 1, k, p => p + expSeries z n (k + 1) (p * z / fxOne / (k + 1))
/-- e^z for z below 1. -/
def fxExp (z : Nat) : Nat := expSeries z 110 0 fxOne

/-- Σ ± z^(2k+1) / (2k + 1)! -/
def sinSeries (q : Nat) : Nat → Nat → Nat → Int
  | 0, _, _ => 0
  | n + 1, k, p => (if k % 2 = 1 then -(p : Int) else p) + sinSeries q n (k + 1) (p * q / fxOne / ((2 * k + 2) * (2 * k + 3)))
/-- sin z for z at most π/2. -/
def fxSin (z : Nat) : Nat := (sinSeries (z * z / fxOne) 70 0 z).toNat

/-- A non-negative number's integral part, and its fraction in fixed point, rounded down. -/
def Ex.parts (x : Ex) : Nat × Nat :=
  let (g, _, _) := x.split 0
  let (v, _, _) := x.split (-(prec : Int))
  (g, v % fxOne)

/-- FEXP2 (08 R194, R195). -/
def exp2F (op : Nat) (a : Nat) : Nat × Exc :=
  let t := Fmt.fp32
  match decodeF t a with
  | .nan s => (t.canon, if s then excIV else 0)
  | .inf n => (if n then 0 else a, 0)
  | .num x =>
    if x.n = 0 then (0x3F800000, 0)
    else if 8 < x.log2 then
      (if x.neg then faithful t op a false (Ex.zero false) { neg := false, n := 1, d := 1, e := -200 }
        else overflowF t 0 false false)
    else
      let (fl, nx) := roundInt 3 x
      if 128 ≤ fl then overflowF t 0 false false
      else if nx = false then
        (if fl < -149 then faithful t op a false (Ex.zero false) { neg := false, n := 1, d := 1, e := -200 }
          else faithfulExact t { neg := false, n := 1, d := 1, e := fl })
      else
        let r := (x.add (Ex.ofInt (-fl))).parts.2
        let v := fxExp (r * fxLn2 / fxOne)
        faithful t op a false ((fxEx (v - fxErr)).scale fl) ((fxEx (v + fxErr)).scale fl)

/-- FLOG2 (08 R194, R195). -/
def log2F (op : Nat) (a : Nat) : Nat × Exc :=
  let t := Fmt.fp32
  match decodeF t a with
  | .nan s => (t.canon, if s then excIV else 0)
  | .inf n => if n then (t.canon, excIV) else (a, 0)
  | .num x =>
    if x.n = 0 then (0xFF800000, excDZ)
    else if x.neg then (t.canon, excIV)
    else
      let e := x.log2
      let m := { x with e := x.e - e }
      if m.same (Ex.ofInt 1) then faithfulExact t (Ex.ofInt e)
      else
        let num := (m.add (Ex.ofInt (-1)))
        let den := (m.add (Ex.ofInt 1))
        let z := (num.split (-(prec : Int))).1 * fxOne / (den.split (-(prec : Int))).1
        let v : Int := e * fxOne + ((atanh2 z * fxOne / fxLn2 : Nat) : Int)
        faithfulFx t op a (decide (v < 0)) v.natAbs

/-- sin(π y) of a non-negative y: its sign and faithful magnitude; y an integer gives zero. -/
def sinPi (op a : Nat) (neg : Bool) (y : Ex) : Nat × Exc :=
  let t := Fmt.fp32
  let (g, r, d) := y.split 0
  let sgn := xor neg (g % 2 == 1)
  if r = 0 then (t.sign neg, 0)
  else
    let u := if 2 * r ≤ d then r else d - r
    if 2 * u = d then (t.sign sgn + 0x3F800000, 0)
    else faithfulFx t op a sgn (fxSin (fxPi * u / d))

/-- FSIN (08 R194, R195). -/
def sinF (op : Nat) (a : Nat) : Nat × Exc :=
  let t := Fmt.fp32
  match decodeF t a with
  | .nan s => (t.canon, if s then excIV else 0)
  | .inf _ => (t.canon, excIV)
  | .num x => sinPi op (a % 2 ^ 31) x.neg { x with neg := false }

/-- FCOS (08 R194, R195): cos(π x) is sin(π (|x| + ½)). -/
def cosF (op : Nat) (a : Nat) : Nat × Exc :=
  let t := Fmt.fp32
  match decodeF t a with
  | .nan s => (t.canon, if s then excIV else 0)
  | .inf _ => (t.canon, excIV)
  | .num x => sinPi op (a % 2 ^ 31) false ({ x with neg := false }.add { neg := false, n := 1, d := 1, e := -1 })

/-- FTANH (08 R194, R195). -/
def tanhF (op : Nat) (a : Nat) : Nat × Exc :=
  let t := Fmt.fp32
  let k := a % 2 ^ 31
  match decodeF t a with
  | .nan s => (t.canon, if s then excIV else 0)
  | .inf n => (t.sign n + 0x3F800000, 0)
  | .num x =>
    let y := { x with neg := false }
    if x.n = 0 then (a, 0)
    else if x.log2 < -40 then
      faithful t op k x.neg (y.add { neg := true, n := 1, d := 1, e := y.log2 - 60 }) y
    else if 4 < x.log2 then
      faithful t op k x.neg ((Ex.ofInt 1).add { neg := true, n := 1, d := 1, e := -60 }) (Ex.ofInt 1)
    else
      let z := (y.split (-(prec : Int) - 1)).1
      let i := z / fxLn2
      let e := fxExp (z % fxLn2) * 2 ^ i
      faithfulFx t op k x.neg ((e - fxOne) * fxOne / (e + fxOne))

/-- FRSQ and DRSQ (08 R194, R195). -/
def rsqF (t : Fmt) (op : Nat) (a : Nat) : Nat × Exc :=
  match decodeF t a with
  | .nan s => (t.canon, if s then excIV else 0)
  | .inf n => if n then (t.canon, excIV) else (0, 0)
  | .num x =>
    if x.n = 0 then (t.sign x.neg + t.maxCode + 1, excDZ)
    else if x.neg then (t.canon, excIV)
    else
      let y := Ex.sqrt { neg := false, n := x.d, d := x.n, e := -x.e }
      faithful t op a false y y

/-! ## Exact sums -/

/-- An exact sum of terms under R126: a NaN term gives NaN, infinities of both signs give NaN with IV. [log 147: DESIGN CHOICE, unsafe] -/
def sumTerms (rm : Nat) (ts : List Val) : Val × Exc :=
  let iv := (ts.map Val.sigExc).foldl (· ||| ·) 0
  if ts.any Val.isNan then (.nan false, iv)
  else
    match ts with
    | [] => (.num (Ex.zero false), 0)
    | t :: r => r.foldl (fun a v =>
        let (w, e) := addV rm a.1 v
        (w, a.2 ||| e)) (t, 0)

end Sys2Proof.Machine
end

