-- ==== Sys2Proof/Machine/Access.lean ====
section
/-! DEFINITION. Reading and changing one part of the state: cores, clusters, functions, waves, gangs, queues; registers of a
wave (02 R39 to R46), bytes of memory and of the local buffers (00 R6). -/

namespace Sys2Proof.Machine

/-- The three outcomes of a step of this machine. -/
abbrev Res := Host.Outcome State Fault Refusal

/-! ## Parts of the state -/

/-- Core c. -/
def State.core (s : State) (c : Nat) : Core := Tab.get Core.idle s.cores c
/-- Replaces core c. -/
def State.setCore (s : State) (c : Nat) (k : Core) : State := { s with cores := Tab.put Core.idle s.cores c k }
/-- Changes core c. -/
def State.modCore (s : State) (c : Nat) (g : Core → Core) : State := s.setCore c (g (s.core c))

/-- The slot of wave w of core c. -/
def State.slot? (s : State) (c w : Nat) : Option Slot := (s.core c).slots.get? w
/-- Changes the slot of wave w of core c, if it holds a wave. -/
def State.modSlot (s : State) (c w : Nat) (g : Slot → Slot) : State :=
  s.modCore c (fun k => { k with slots := k.slots.adj w g })
/-- Changes wave w of core c, if resident. -/
def State.modWave (s : State) (c w : Nat) (g : Wave → Wave) : State :=
  s.modSlot c w (fun t => { t with wave := g t.wave })
/-- Changes lane L of wave w of core c. -/
def State.modLane (s : State) (c w l : Nat) (g : Lane → Lane) : State :=
  s.modWave c w (fun v => { v with lanes := listAdj v.lanes l g })

/-- Changes quarter q of core c. -/
def State.modQuarter (s : State) (c q : Nat) (g : Quarter → Quarter) : State :=
  s.modCore c (fun k => { k with quarters := listAdj k.quarters q g })
/-- Quarter q of core c. -/
def State.quarter (s : State) (c q : Nat) : Quarter := (s.core c).quarters.getD q Quarter.idle
/-- Changes the run of quarter q of core c, if one is in progress. -/
def State.modRun (s : State) (c q : Nat) (g : Run → Run) : State :=
  s.modQuarter c q (fun t => { t with run := t.run.map g })
/-- Changes the group of fetch port p in the run of quarter q. -/
def State.modGroup (s : State) (c q p : Nat) (g : Group → Group) : State :=
  s.modRun c q (fun r => { r with groups := r.groups.map (fun u => if u.port = p then g u else u) })

/-- Gang i of core c. -/
def State.gang? (s : State) (c i : Nat) : Option Gang := (s.core c).gangs.get? i
/-- Changes gang i of core c. -/
def State.modGang (s : State) (c i : Nat) (g : Gang → Gang) : State :=
  s.modCore c (fun k => { k with gangs := k.gangs.adj i g })

/-- Cluster n. -/
def State.cluster (s : State) (n : Nat) : Cluster := Tab.get Cluster.idle s.clusters n
/-- Changes cluster n. -/
def State.modCluster (s : State) (n : Nat) (g : Cluster → Cluster) : State :=
  { s with clusters := Tab.put Cluster.idle s.clusters n (g (s.cluster n)) }
/-- Function f. -/
def State.func (s : State) (f : Nat) : Func := Tab.get Func.reset s.funcs f
/-- Changes function f. -/
def State.modFunc (s : State) (f : Nat) (g : Func → Func) : State :=
  { s with funcs := Tab.put Func.reset s.funcs f (g (s.func f)) }
/-- Queue q. -/
def State.queue (s : State) (q : Nat) : Queue := Tab.get Queue.reset s.sched.queues q
/-- Changes queue q. -/
def State.modQueue (s : State) (q : Nat) (g : Queue → Queue) : State :=
  { s with sched := { s.sched with queues := Tab.put Queue.reset s.sched.queues q (g (s.queue q)) } }
/-- Changes the card of SEQ n of queue q. -/
def State.modCard (s : State) (q : Nat) (n : W32) (g : Card → Card) : State :=
  s.modQueue q (fun t => { t with cards := t.cards.map (fun k => if k.seq = n then g k else k) })
/-- The card of SEQ n of queue q. -/
def State.card? (s : State) (q : Nat) (n : W32) : Option Card := (s.queue q).cards.find? (fun k => k.seq == n)
/-- Slice n. -/
def State.slice (s : State) (n : Nat) : Slice := Tab.get Slice.idle s.slices n
/-- Changes slice n. -/
def State.modSlice (s : State) (n : Nat) (g : Slice → Slice) : State :=
  { s with slices := Tab.put Slice.idle s.slices n (g (s.slice n)) }
/-- Changes the error counters of function f. -/
def State.modErr (s : State) (f : Nat) (g : ErrCnt → ErrCnt) : State :=
  s.modFunc f (fun x => { x with err := g x.err })

/-- An N64 counter that saturates (18 R405). -/
def satInc64 (x : W64) : W64 := if x = -1 then x else x + 1
/-- A saturating count of n more (18 R405). -/
def satAdd64 (x : W64) (n : Nat) : W64 := if x.toNat + n < 2 ^ 64 then x + BitVec.ofNat 64 n else -1
/-- An N32 counter that saturates (18 R406). -/
def satInc32 (x : W32) : W32 := if x = -1 then x else x + 1

/-- 0 U, 1 G, 2 H (14 R311). -/
def Level.code : Level → Nat
  | .u => 0
  | .g => 1
  | .h => 2
/-- The level of a code (14 R317). -/
def Level.ofCode (n : Nat) : Level := if n = 0 then .u else if n = 1 then .g else .h
/-- Least level. -/
def Level.atLeast (l : Level) (n : Nat) : Bool := decide (n ≤ l.code)

/-! ## Lane masks -/

/-- The lanes of a mask, rising. -/
def maskLanes (m : Mask) : List Nat := (List.range 32).filter (fun l => m.getLsbD l)
/-- The mask of lanes that satisfy p. -/
def maskOf (p : Nat → Bool) : Mask := (List.range 32).foldl (fun m l => if p l then m ||| (1 <<< l) else m) 0
/-- The mask of one lane. -/
def bitOf (l : Nat) : Mask := 1 <<< l
/-- The lowest lane of a list of rising lanes. -/
def lowest (ls : List Nat) : Nat := ls.headD 0

/-! ## Registers -/

/-- A 32-bit word of a tile (07 R169). -/
def tileWord (t : W256) (w : Nat) : W32 := t.extractLsb' (32 * w) 32
/-- A tile with word w replaced. -/
def tileSet (t : W256) (w : Nat) (v : W32) : W256 :=
  let m : W256 := (0xFFFFFFFF : W256) <<< (32 * w)
  (t &&& ~~~m) ||| (v.setWidth 256 <<< (32 * w))

/-- A register element; p15 reads true in every lane (02 R42, R44). Accumulators are read through Z. -/
def Regs.read (r : Regs) : RegElem → W32
  | .v i l => Tab.get 0 r.vec (32 * i + l)
  | .u i => Tab.get 0 r.uni i
  | .p i l => if i = 15 then 1 else if (Tab.get (0 : Mask) r.pred i).getLsbD l then 1 else 0
  | .t i w => tileWord (Tab.get 0 r.tile i) w
  | .a _ _ => 0

/-- Writes a register element; a write to p15 does nothing (02 R42). A word written is no longer poisoned (03 R84). -/
def Regs.write (r : Regs) (e : RegElem) (v : W32) : Regs :=
  match e with
  | .v i l => { r with vec := Tab.put 0 r.vec (32 * i + l) v, vpois := setDel r.vpois (32 * i + l) }
  | .u i => { r with uni := Tab.put 0 r.uni i v, upois := setDel r.upois i }
  | .p i l =>
    if i = 15 then r
    else
      let m := Tab.get (0 : Mask) r.pred i
      { r with pred := Tab.put 0 r.pred i (if v.getLsbD 0 then m ||| bitOf l else m &&& ~~~(bitOf l)),
               ppois := setDel r.ppois (32 * i + l) }
  | .t i w => { r with tile := Tab.put 0 r.tile i (tileSet (Tab.get 0 r.tile i) w v), tpois := setDel r.tpois (8 * i + w) }
  | .a _ _ => r

/-- Predicate word i is poisoned (18 R404): until every lane of it has been written (03 R84). -/
def Regs.predPois (r : Regs) (i : Nat) : Bool := r.ppois.any (fun n => n / 32 == i)

/-- Applies writes in order. -/
def Regs.writes (r : Regs) (ws : List RegWrite) : Regs := ws.foldl (fun r w => r.write w.elem w.val) r

/-- p0 to p14 of a lane as KSP holds them: bit n for p_n (14 R320). -/
def Regs.ksp (r : Regs) (l : Nat) : W32 :=
  (List.range 15).foldl (fun k n => if (r.read (.p n l)).getLsbD 0 then k ||| (1 <<< n) else k) 0

/-! ## Bytes -/

/-- A byte of HBM4; bytes never written read 0 (18 R408). -/
def memByte (m : List Host.Cell) (a : Nat) : Byte := Tab.get 0 m a
/-- Writes a byte. -/
def memPut (m : List Host.Cell) (a : Nat) (b : Byte) : List Host.Cell := Tab.put 0 m a b
/-- n bytes from a, lowest address first. -/
def memBytes (m : List Host.Cell) (a n : Nat) : List Byte := (List.range n).map (fun i => memByte m (a + i))
/-- Writes bytes from a upward. -/
def memPuts : List Host.Cell → Nat → List Byte → List Host.Cell
  | m, _, [] => m
  | m, a, b :: r => memPuts (memPut m a b) (a + 1) r

/-- The number whose little-endian bytes these are (00 R6). -/
def leNat : List Byte → Nat
  | [] => 0
  | b :: r => b.toNat + 256 * leNat r
/-- n little-endian bytes of a number (00 R6). -/
def leBytes : Nat → Nat → List Byte
  | 0, _ => []
  | n + 1, v => BitVec.ofNat 8 v :: leBytes n (v / 256)

/-- The field of n bytes at offset o of a record. -/
def recNat (r : List Byte) (o n : Nat) : Nat := leNat ((r.drop o).take n)
/-- A record with the n-byte field at o set. -/
def recSet (r : List Byte) (o n v : Nat) : List Byte := r.take o ++ leBytes n v ++ r.drop (o + n)

/-- A 32-bit word of a byte buffer. -/
def cellWord (m : List Host.Cell) (a : Nat) : W32 := BitVec.ofNat 32 (leNat (memBytes m a 4))

/-! ## Records of a core -/

/-- The quarter and slot of a wave number (02 R47). -/
def quarterOf (w : Nat) : Nat := w / 16

/-- The cluster of a core (01 R30). -/
def clusterOf (c : Nat) : Nat := c / 4
/-- The quadrant of a core. -/
def quadOf (c : Nat) : Nat := c / 32

/-- Waves of a core, with their numbers. -/
def Core.waves (k : Core) : List (Nat × Wave) := k.slots.map (fun p => (p.1, p.2.wave))

/-- The resident wave of a uid on a core. -/
def Core.byUid? (k : Core) (u : Nat) : Option (Nat × Wave) := k.waves.find? (fun p => p.2.uid == u)

/-- WSTAT as read: with TRAPD and RSSPILL (14 R319). -/
def Wave.wstatNow (w : Wave) : W32 :=
  let trapd := (w.lanes.filter (fun l => l.level != .u)).length
  (w.wstat &&& 0x010001FF) ||| (BitVec.ofNat 32 trapd <<< 16) ||| (if w.spilled = 0 then 0 else 0x200)

/-- Sets bits of WSTAT. -/
def Wave.orWstat (w : Wave) (e : BitVec 8) : Wave := { w with wstat := w.wstat ||| e.setWidth 32 }

/-- The threads of a wave that have not exited (01 R11). -/
def Wave.live (w : Wave) : Mask := maskOf (fun l => match w.lanes[l]? with | some x => !x.exited | none => false)

/-- A stage number's slot and offset in X (03 R75). -/
def Ring.slotOf (r : Ring) (n : W32) : Nat := n.toNat % r.maxst
/-- See slotOf. -/
def Ring.offOf (r : Ring) (n : W32) : Nat := r.xoff + r.slotOf n * r.stageb
/-- The state of stage n's slot. -/
def Ring.stage (r : Ring) (n : W32) : Stage := r.stages.getD (r.slotOf n) .empty
/-- Sets the state of stage n's slot. -/
def Ring.setStage (r : Ring) (n : W32) (t : Stage) : Ring := { r with stages := listSet r.stages (r.slotOf n) t }

/-- %ringdepth of a gang (02 R47). -/
def Gang.ringdepth (g : Gang) : W32 :=
  (g.rings.zipIdx).foldl (fun v p => v ||| (BitVec.ofNat 32 (p.1.d % 16) <<< (4 * p.2))) 0

/-- %mxprog of a wave: k-steps done by its oldest unfinished MXE command (02 R47). -/
def Core.mxprog (k : Core) (uid : Nat) : W32 :=
  match k.mx.find? (fun m => m.by_.uid == uid) with
  | some m => BitVec.ofNat 32 m.prog
  | none => 0

end Sys2Proof.Machine
end

