-- ==== Sys2Proof/Machine/Operands.lean ====
section
/-! DEFINITION. The group that issues, and every operand form: registers through the bypass (02 R50 to R53), immediates
(06 R137), specials (02 R47, R48), guards and active lanes (05 R121). -/

namespace Sys2Proof.Machine

/-- What a word sees when it issues: where, its wave, its group, and EXEC (01 R14). -/
structure Ctx where
  core : Nat
  quarter : Nat
  port : Nat
  wid : Nat
  sl : Slot
  run : Run
  g : Group
  exec : Mask
  clock : W64
  mxprog : W32
  ringdepth : W32
  deriving DecidableEq, Repr

/-- The wave. -/
abbrev Ctx.wv (x : Ctx) : Wave := x.sl.wave
/-- The word's index in its block. -/
abbrev Ctx.idx (x : Ctx) : Nat := x.run.idx

/-- The issuing group, if a quarter is issuing. -/
def State.issue? (s : State) : Option Ctx :=
  match s.cur with
  | none => none
  | some u =>
    let k := s.core u.core
    match (s.quarter u.core u.quarter).run with
    | none => none
    | some r =>
      match k.slots.get? r.wave, r.groups.find? (fun g => g.port == u.port) with
      | some t, some g =>
        some { core := u.core, quarter := u.quarter, port := u.port, wid := r.wave, sl := t, run := r, g := g,
               exec := g.mask &&& ~~~g.gone &&& t.wave.live, clock := k.clock, mxprog := k.mxprog t.wave.uid,
               ringdepth := match k.gangs.get? t.wave.gang with | some gg => gg.ringdepth | none => 0 }
      | _, _ => none

/-- The S bit of a word. -/
def wordS (w : W128) : Bool := w.getLsbD 8

/-- %spo of word i of a block: the landing word's SPO and the S-bit words before it (02 R47; 06 R131). -/
def spoAt (g : Group) (i : Nat) : W32 :=
  g.land.extractLsb' 0 32 + BitVec.ofNat 32 ((g.words.take i).filter wordS).length

/-- %spo of the issuing word. -/
def Ctx.spo (x : Ctx) : W32 := spoAt x.g x.idx

/-- The raw word that issues. -/
def Ctx.word (x : Ctx) : W128 := x.g.words.getD x.idx 0

/-- An element of p15, which reads true in every lane (02 R42). -/
def RegElem.isP15 : RegElem → Bool
  | .p i _ => i == 15
  | _ => false

/-- A register element as a source reads it: a transient result inside its window first (02 R52); a uniform or tile
register as it stood before this cc's writes (02 R50); else the file. [log 145: DESIGN CHOICE, unsafe] -/
def Ctx.readE (x : Ctx) (e : RegElem) : W32 :=
  match x.g.trans.find? (fun t => t.elem == e && decide (x.idx ≤ t.idx + 3) && !e.isP15) with
  | some t => t.val
  | none =>
    match x.run.snap, e with
    | some n, .u i => Tab.get 0 n.uni i
    | some n, .t i w => tileWord (Tab.get 0 n.tile i) w
    | _, _ => x.wv.regs.read e

/-- A special as 64 bits (02 R47, R48). -/
def Ctx.special (x : Ctx) (i lane : Nat) : W64 :=
  match i with
  | 0 => BitVec.ofNat 64 lane
  | 1 => BitVec.ofNat 64 x.wid
  | 2 => BitVec.ofNat 64 x.wv.gang
  | 3 => BitVec.ofNat 64 x.core
  | 4 => x.clock
  | 5 => x.exec.setWidth 64
  | 6 => x.ringdepth.setWidth 64
  | 7 => x.spo.setWidth 64
  | 8 => x.mxprog.setWidth 64
  | 9 => BitVec.ofNat 64 x.wv.world
  | _ => BitVec.ofNat 64 x.wv.vf

/-- A 32-bit source in a lane (07 R151). -/
def Ctx.rd (x : Ctx) (f : Fields) (o : Opnd) (lane : Nat) : W32 :=
  match o with
  | .vec i => x.readE (.v i.toNat lane)
  | .uni i => x.readE (.u i.toNat)
  | .pred i => x.readE (.p i.toNat lane)
  | .tile _ => 0
  | .acc i => i.setWidth 32
  | .imm => f.imm
  | .spec i => (x.special i.toNat lane).setWidth 32
  | .absent => 0

/-- A 64-bit source in a lane: a pair, a sign-extended immediate, or a special (02 R41, R48; 06 R137). -/
def Ctx.rd64 (x : Ctx) (f : Fields) (o : Opnd) (lane : Nat) : W64 :=
  match o with
  | .vec i => x.readE (.v (i.toNat + 1) lane) ++ x.readE (.v i.toNat lane)
  | .uni i => x.readE (.u (i.toNat + 1)) ++ x.readE (.u i.toNat)
  | .pred i => (x.readE (.p i.toNat lane)).setWidth 64
  | .tile _ => 0
  | .acc i => i.setWidth 64
  | .imm => f.imm.signExtend 64
  | .spec i => x.special i.toNat lane
  | .absent => 0

/-- Four consecutive registers as 128 bits (09 R199). -/
def Ctx.rd128 (x : Ctx) (o : Opnd) (lane : Nat) : W128 :=
  match o with
  | .vec i => x.readE (.v (i.toNat + 3) lane) ++ x.readE (.v (i.toNat + 2) lane) ++
              (x.readE (.v (i.toNat + 1) lane) ++ x.readE (.v i.toNat lane))
  | .uni i => x.readE (.u (i.toNat + 3)) ++ x.readE (.u (i.toNat + 2)) ++
              (x.readE (.u (i.toNat + 1)) ++ x.readE (.u i.toNat))
  | _ => 0

/-- A predicate source in a lane. -/
def Ctx.rdP (x : Ctx) (o : Opnd) (lane : Nat) : Bool :=
  match o with
  | .pred i => (x.readE (.p i.toNat lane)).getLsbD 0
  | _ => false

/-- A tile source (07 R169). -/
def Ctx.rdT (x : Ctx) (o : Opnd) : W256 :=
  match o with
  | .tile i =>
    match x.run.snap with
    | some n => Tab.get 0 n.tile i.toNat
    | none => Tab.get 0 x.wv.regs.tile i.toNat
  | _ => 0

/-- The guard of a word in a lane, after its negate bit (02 R42). [log 14: DEDUCED, unsafe] -/
def Ctx.guard (x : Ctx) (f : Fields) (lane : Nat) : Bool :=
  xor ((x.readE (.p f.guard.toNat lane)).getLsbD 0) f.gneg

/-- LaneActive (05 R121). -/
def Ctx.laneActive (x : Ctx) (f : Fields) (lane : Nat) : Bool := x.exec.getLsbD lane && x.guard f lane

/-- The lanes with LaneActive, rising. -/
def Ctx.active (x : Ctx) (f : Fields) : List Nat := (List.range 32).filter (x.laneActive f)

/-- The lanes of EXEC, rising. -/
def Ctx.execLanes (x : Ctx) : List Nat := maskLanes x.exec

/-- Whether an operand is a vector, which makes a word act per lane (09 R199). -/
def anyVec (f : Fields) : Bool := f.dst.isVec || f.a.isVec || f.b.isVec || f.c.isVec

/-- The lanes in which a word of rows 0xA to 0xF acts: each active lane, or the leader lane alone (09 R199). -/
def Ctx.acting (x : Ctx) (f : Fields) : List Nat :=
  if anyVec f then x.active f else (x.active f).take 1

/-- The elements a destination of width w registers names in a lane. -/
def destElems (o : Opnd) (lane w : Nat) : List RegElem :=
  match o with
  | .vec i => (List.range w).map (fun k => .v (i.toNat + k) lane)
  | .uni i => (List.range w).map (fun k => .u (i.toNat + k))
  | .pred i => [.p i.toNat lane]
  | _ => []

/-- Writes of a 32-bit value to a destination in a lane. -/
def wr32 (o : Opnd) (lane : Nat) (v : W32) : List RegWrite := (destElems o lane 1).map (fun e => ⟨e, v⟩)

/-- Writes of n 32-bit words of a value to a destination in a lane, low word first. -/
def wrWide (o : Opnd) (lane n : Nat) (v : W128) : List RegWrite :=
  (destElems o lane n).zipIdx.map (fun p => ⟨p.1, v.extractLsb' (32 * p.2) 32⟩)

/-- Writes of a 64-bit value. -/
def wr64 (o : Opnd) (lane : Nat) (v : W64) : List RegWrite := wrWide o lane 2 (v.setWidth 128)

/-- Writes of a truth value: a predicate, or all ones and zero in a register (07 R161, R167). -/
def wrBool (o : Opnd) (lane : Nat) (b : Bool) : List RegWrite :=
  match o with
  | .pred i => [⟨.p i.toNat lane, if b then 1 else 0⟩]
  | _ => wr32 o lane (boolWord b)

/-- Whether a destination is held per wave, so that a word writes it once (07 R152). -/
def isOnce : Opnd → Bool
  | .uni _ => true
  | .tile _ => true
  | _ => false

/-- The lanes in which a destination is written: each active lane, or once in the lowest (07 R152). [log 18: DEDUCED, unsafe] -/
def Ctx.destLanes (x : Ctx) (f : Fields) : List Nat := if isOnce f.dst then (x.active f).take 1 else x.active f

/-! ## Allocation -/

/-- Registers an operand spans for the kind it matches (02 R41; 09 R199). -/
def spanK : K → Nat
  | .v64 => 2
  | .u64 => 2
  | .v4 => 4
  | .u4 => 4
  | _ => 1

/-- The span of an operand under the kinds its field permits. -/
def spanOf (ks : List K) (o : Opnd) : Nat := ((ks.find? (fun k => k.ok o)).map spanK).getD 1

/-- An operand lies within the wave's allocation (02 R40, R41). -/
def allocOk (w : Wave) (ks : List K) (o : Opnd) : Bool :=
  match o with
  | .vec i => decide (i.toNat + spanOf ks o ≤ 16 * w.vgran)
  | .uni i => decide (i.toNat + spanOf ks o ≤ 32 * w.sgran)
  | .tile i => decide (i.toNat < w.tregs)
  | .acc i => decide (i.toNat < w.aregs)
  | _ => true

/-- The four operands of a word lie within the allocation. -/
def allocAll (op : Nat) (f : Fields) (w : Wave) : Bool :=
  let g := formOf op f
  allocOk w g.d f.dst && allocOk w g.a f.a && allocOk w g.b f.b && allocOk w g.c f.c

/-! ## Place of a word in its block -/

/-- Class and index fields of the destination and the sources of a raw word, for the window of R51. -/
def rawDst (w : W128) : BitVec 3 × BitVec 11 := (field w 30 3, field w 19 11)
/-- See rawDst. -/
def rawSrcs (w : W128) : List (BitVec 3 × BitVec 11) :=
  [(field w 44 3, field w 33 11), (field w 58 3, field w 47 11), (field w 72 3, field w 61 11)]

/-- Word k of a block has S and lies before the last consumer of a transient result of word j, inside its window
(02 R51). -/
def stopsWindow (ws : List W128) (j k : Nat) : Bool :=
  let p := ws.getD j 0
  p.getLsbD 9 && decide (j < k) && decide (k ≤ j + 3) &&
  ((List.range 3).any (fun d =>
    let c := j + 1 + d
    decide (k < c) && decide (c < ws.length) && (rawSrcs (ws.getD c 0)).contains (rawDst p)))

/-- S on word k breaks a transient window (02 R51). -/
def badStop (ws : List W128) (k : Nat) : Bool :=
  wordS (ws.getD k 0) && (List.range k).any (fun j => stopsWindow ws j k)

/-- SETA or SETB of the block, by SF (02 R56, R57). -/
def flagField (hdr : W64) (sf : Bool) : Nat :=
  if sf then (hdr.extractLsb' 21 4).toNat else (hdr.extractLsb' 17 4).toNat
/-- The flag a word raises, if its field names one. -/
def flagOf (hdr : W64) (sf : Bool) : Option Nat := if flagField hdr sf = 15 then none else some (flagField hdr sf)

/-- The checks of R143 that depend on the wave and on the word's place: allocation (R40), last words (R139, R171, R220), the
transient window (R51), a register-writing long-latency word with no flag (R57), STK's second flag (12 R283), a ring number
(09 R222), accumulator ranges (10 R244). -/
def Ctx.placeOk (x : Ctx) (op : Nat) (f : Fields) (nring : Nat) : Bool :=
  allocAll op f x.wv &&
  (!lastOnly op || decide (x.idx + 1 = x.g.words.length)) &&
  !badStop x.g.words x.idx &&
  (!(raisesFlag op f && (f.dst != .absent || (op == 0xC7 && f.m 19 1 == 1))) || (flagOf x.g.hdr f.sf).isSome) &&
  (op != 0xE3 || (flagOf x.g.hdr (!f.sf)).isSome) &&
  (!(op == 0x1C || op == 0x1D) || decide (f.m 0 3 < nring)) &&
  (op != 0xD8 || (f.imm.extractLsb' 24 1).toNat == 1 ||
    decide ((x.rd f f.c 0).toNat + (f.imm.extractLsb' 16 4).toNat * (f.imm.extractLsb' 20 4).toNat ≤ x.wv.aregs)) &&
  (op != 0xDA || decide ((x.rd f f.c 0).toNat + f.imm.toNat ≤ x.wv.aregs))

/-- WSTAT as a word reads it: as it stood before this cc where the other group has issued in it (02 R50; 07 R172). -/
def Ctx.wstat (x : Ctx) : W32 := match x.run.snap with | some n => n.wstat | none => x.wv.wstatNow

end Sys2Proof.Machine
end

