-- ==== Sys2Proof/Machine/Ops.lean ====
section
/-! DEFINITION. The named operations every meaning is built from: register writes at issue, at the end of a run and at a
completion (07 R153; 08 R175, R177), flags (02 R58), interrupts and the error log (18 R393, R407), taking a trap and
returning from one (14 R315 to R318), and the issue of a word with its checks (06 R142, R143). -/

namespace Sys2Proof.Machine

/-! ## Register writes -/

/-- Keeps the writes to elements other than es. -/
def dropElems (es : List RegElem) (ws : List RegWrite) : List RegWrite := ws.filter (fun w => !es.contains w.elem)

/-- Drops the pending writes of the words of R177 to elements es: those of the run's groups and of words of rows 0x7 to
0x9 in flight. [log 16: DEDUCED, unsafe] -/
def dropPending (s : State) (x : Ctx) (es : List RegElem) : State :=
  let s := s.modRun x.core x.quarter (fun r =>
    { r with groups := r.groups.map (fun g => { g with writes := dropElems es g.writes }) })
  s.modWave x.core x.wid (fun w => { w with ops := w.ops.map (fun o => { o with writes := dropElems es o.writes }) })

/-- Writes elements in the file at issue: earlier pending writes to them are dropped (R177), and so are transient values of
the group (02 R52). -/
def writeFile (x : Ctx) (ws : List RegWrite) (s : State) : State :=
  let es := ws.map RegWrite.elem
  let s := dropPending s x es
  let s := s.modGroup x.core x.quarter x.port (fun g => { g with trans := g.trans.filter (fun t => !es.contains t.elem) })
  s.modWave x.core x.wid (fun w => { w with regs := w.regs.writes ws })

/-- Writes the destination of a fixed-latency word: into the bypass only with T, else into the file (02 R51; 07 R153). [log 13: DEDUCED, unsafe] -/
def writeNow (x : Ctx) (f : Fields) (ws : List RegWrite) (s : State) : State :=
  if f.t then
    let es := ws.map RegWrite.elem
    s.modGroup x.core x.quarter x.port (fun g =>
      { g with trans := ws.map (fun w => ⟨w.elem, w.val, x.idx⟩) ++ g.trans.filter (fun t => !es.contains t.elem) })
  else writeFile x ws s

/-- Adds one to flag n's count of attached operations (02 R58). -/
def Wave.raise (w : Wave) (fl : Option Nat) : Wave :=
  match fl with
  | some n => { w with flags := listAdj w.flags n (· + 1) }
  | none => w
/-- Takes one from flag n's count. -/
def Wave.lower (w : Wave) (fl : Option Nat) : Wave :=
  match fl with
  | some n => { w with flags := listAdj w.flags n (· - 1) }
  | none => w

/-- A word that writes its destination at the end of its run and completes then (07 R153): the write is pending, and its
flag is raised until the run ends. -/
def writeEnd (x : Ctx) (f : Fields) (ws : List RegWrite) (s : State) : State :=
  let s := dropPending s x (ws.map RegWrite.elem)
  let fl := flagOf x.g.hdr f.sf
  let s := s.modGroup x.core x.quarter x.port (fun g => { g with writes := g.writes ++ ws, raised := g.raised ++ fl.toList })
  s.modWave x.core x.wid (fun w => w.raise fl)

/-- A write at the end of the run by a word whose own operation lives on: promises and ordinals (10 R226; 11 R271). -/
def writePromise (x : Ctx) (ws : List RegWrite) (s : State) : State :=
  let s := dropPending s x (ws.map RegWrite.elem)
  s.modGroup x.core x.quarter x.port (fun g => { g with writes := g.writes ++ ws })

/-- The flag a word of a block raises: none where it raises no flag. -/
def Ctx.flag (x : Ctx) (op : Nat) (f : Fields) : Option Nat := if raisesFlag op f then flagOf x.g.hdr f.sf else none

/-- An operation of a word, with nothing pending yet. -/
def Ctx.op (x : Ctx) (op : Nat) (f : Fields) : Op :=
  { id := x.wv.nextOp, opc := op, f := f, off := x.idx, spo := x.spo, level := x.g.level, flag := x.flag op f, wake := none,
    lanes := [], log := .none, released := false, writes := [], exc := 0, n := 0, m := 0, bytes := [] }

/-- Attaches an operation to its wave: its flags rise, and it takes the wave's next operation number. -/
def addOp (x : Ctx) (o : Op) (s : State) : State :=
  s.modWave x.core x.wid (fun w =>
    let w := (w.raise o.flag).raise o.wake
    { w with ops := w.ops ++ [{ o with id := w.nextOp }], nextOp := w.nextOp + 1 })

/-- A word of rows 0x8 and 0x9: its results and exception bits land at its completion (08 R175). -/
def writeLate (x : Ctx) (op : Nat) (f : Fields) (ws : List RegWrite) (e : Exc) (s : State) : State :=
  addOp x { x.op op f with writes := ws, exc := e } (dropPending s x (ws.map RegWrite.elem))

/-- ORs exception bits into WSTAT (05 R123). -/
def orExc (x : Ctx) (e : Exc) (s : State) : State := s.modWave x.core x.wid (fun w => w.orWstat e)

/-- The pending operation of a wave. -/
def Wave.op? (w : Wave) (id : Nat) : Option Op := w.ops.find? (fun o => o.id == id)
/-- Changes operation id of a wave. -/
def Wave.modOp (w : Wave) (id : Nat) (g : Op → Op) : Wave :=
  { w with ops := w.ops.map (fun o => if o.id = id then g o else o) }
/-- Removes operation id and lowers its selected flag. -/
def Wave.endOp (w : Wave) (id : Nat) : Wave :=
  match w.op? id with
  | some o => ({ w with ops := w.ops.filter (fun o => o.id != id) }).lower o.flag
  | none => w

/-! ## Messages and the error log -/

/-- Sends a message out of the part. -/
def State.send (s : State) (m : OutMsg) : State := { s with outbox := s.outbox ++ [m] }

/-- A vector sends nothing: MSI-X is not enabled, the function is masked, or the vector is (18 R391, R393). -/
def vecMasked (m : Mailbox) (v : Nat) : Bool := !m.msixEn || m.msixMask || (m.msix.getD (4 * v + 3) 1).getLsbD 0

/-- An event of a vector: sent at once, held while its interval runs, or pending under a mask (18 R393). -/
def msixEvent (s : State) (f v : Nat) : State :=
  let m := (s.func f).mbox
  if vecMasked m v then s.modFunc f (fun x => { x with mbox := { x.mbox with pba := x.mbox.pba ||| (1 <<< v) } })
  else if m.open_.getLsbD v then
    s.modFunc f (fun x => { x with mbox := { x.mbox with pend := x.mbox.pend ||| (1 <<< v) } })
  else
    (s.modFunc f (fun x => { x with mbox := { x.mbox with
      open_ := x.mbox.open_ ||| (1 <<< v), since := listAdj x.mbox.since v (fun _ => s.fc) } })).send (.msix f v)

/-- A power of two from lo to hi. -/
def pow2In (n lo hi : Nat) : Bool := decide (lo ≤ n) && decide (n ≤ hi) && n == 2 ^ n.log2

/-- Owner codes (14 R334). -/
def ownHost : Nat := 64
/-- See ownHost. -/
def ownFree : Nat := 65
/-- See ownHost. -/
def ownScrub : Nat := 66
/-- The end of HBM4 (03 R63). -/
def hbmEnd : Nat := 0x8000000000
/-- The owner code of the frame that holds a (16 R366). -/
def State.owner (s : State) (a : Nat) : Nat := Tab.get ownHost s.owners (a / 65536)

/-- The frame ownership table, which only the controllers write once it is in use (16 R366). -/
def State.inOwnTable (s : State) (a : Nat) : Bool :=
  s.conf.startst == 1 && decide (s.conf.fotbase.toNat ≤ a) && decide (a < s.conf.fotbase.toNat + 0x800000)

/-! ## Writes that the part makes by itself -/

/-- An access to a line is performed at its home slice: a SPECULATIVE compare-and-swap of the line that has read and not written
will fail (04 R104). -/
def homeTouch (s : State) (line : Nat) : State :=
  if s.specs.isEmpty then s
  else { s with specs := s.specs.map (fun r => if r.line = line then { r with broken := true } else r) }

/-- An access to n bytes from a is performed at their home slices. -/
def homeTouches (s : State) (a n : Nat) : State :=
  if s.specs.isEmpty then s
  else { s with specs := s.specs.map (fun r => if a / 64 ≤ r.line ∧ 64 * r.line < a + n then { r with broken := true } else r) }

/-- Some value-trace region is armed (17 R384). -/
def State.tracing (s : State) : Bool := s.funcs.any (fun p => p.2.dbg.vtrs.any (fun v => !v.pages.isEmpty))

/-- The part itself as a writer: R382 gives it no identity of its own. [log 103: DEDUCED, unsafe] -/
def partWriter : Writer :=
  { core := 0xFFFF, wave := 0xFF, gang := 0xFF, spo := 0xFFFFFFFF, off := 31, lane := 0xFF, kind := 2, cmd := 0 }

/-- A write to memory that is no access of a program: it is performed at its home slices, clears the poison of lines it covers, and its
VALUE records follow at the end of the step (03 R84; 04 R104; 17 R384). -/
def selfWrite (s : State) (w : Writer) (a : Nat) (bytes : List Byte) : State :=
  let n := bytes.length
  let m := memPuts s.mem a bytes
  let lines := (List.range ((a + n + 63) / 64 - a / 64)).map (· + a / 64)
  { homeTouches s a n with
    mem := m,
    memPois := s.memPois.filter (fun l => !(decide (a ≤ 64 * l) && decide (64 * l + 64 ≤ a + n))),
    llcPois := s.llcPois.filter (fun i => !(decide (a ≤ i / 16 * 64) && decide (i / 16 * 64 + 64 ≤ a + n))),
    eccs := s.eccs.filter (fun x => !(decide (a ≤ x) && decide (x < a + n))),
    selfWrites := if s.tracing then s.selfWrites ++ lines.map (fun l =>
        ({ wr := w, old := s.mem, new := m, spa := max a (64 * l), len := min (a + n) (64 * l + 64) - max a (64 * l) } : SelfWrite))
      else s.selfWrites }

/-- Adds one to element i of the Sieve's counters (18 R407). -/
def sieveCount (s : State) (i : Nat) : State :=
  { s with conf := { s.conf with sievecnt := listAdj s.conf.sievecnt i satInc64 } }

/-- Places an error-log record: in the next slot, its EPOS last, or dropped and counted when the ring is full. The log is off where its
fields say so, its place is not in HBM4, is not HOST's, or lies in the frame ownership table (16 R366; 18 R407). [log 128: DEDUCED, unsafe] -/
def elog (s : State) (code f src core : Nat) (addr aux : W64) : State :=
  let k := s.conf
  if k.elogbase.toNat % 4096 ≠ 0 ∨ pow2In k.elogn.toNat 64 65536 = false then s
  else
    let p := k.eloghead + 1
    let a := k.elogbase.toNat + 32 * ((p - 1).toNat % k.elogn.toNat)
    if hbmEnd ≤ a ∨ s.owner a ≠ ownHost ∨ s.inOwnTable a = true then s
    else if k.elogn < p - k.elogtail then sieveCount s 1
    else
      let bytes := leBytes 4 p.toNat ++ leBytes 2 code ++ leBytes 1 f ++ leBytes 1 src ++ leBytes 2 core ++ leBytes 6 0 ++
        leBytes 8 addr.toNat ++ leBytes 8 aux.toNat
      msixEvent { selfWrite s partWriter a bytes with conf := { k with eloghead := p } } 0 4

/-! ## Traps -/

/-- The cause word of a record (14 R317), with RESTV set. -/
def causeWord (dbl : Bool) (plev : Level) (off sub cause : Nat) : W32 :=
  (if dbl then 0x80000000 else 0) ||| 0x40000000 ||| BitVec.ofNat 32 (plev.code * 2 ^ 22 + (off % 32) * 2 ^ 17 +
    (sub % 256) * 256 + cause % 256)

/-- A record of a trap of lane l, with KSAVE (14 R313, R317). -/
def mkRec (r : Regs) (l : Nat) (cw : W32) (spo : W32) (res aux : W64) (aux2 : W32) : TrapRec :=
  { cause := cw, spo := spo, res := res, aux := aux, aux2 := aux2, kp := r.ksp l,
    k0 := r.read (.v 0 l), k1 := r.read (.v 1 l), k2 := r.read (.v 2 l), k3 := r.read (.v 3 l) }

/-- What a trap carries (14 R314). -/
structure Trap where
  cause : Nat
  sub : Nat
  off : Nat
  spo : W32
  res : W64
  aux : W64
  aux2 : W32
  deriving DecidableEq, Repr, Inhabited

/-- The target level of cause c at level L under a function's TROUTE and TVECG; none where the lane is halted (14 R316). -/
def trapTarget (l : Level) (c : Nat) (troute : W32) (tvecg : W64) : Option Level :=
  match l with
  | .u => if decide (32 ≤ c) || troute.getLsbD c || tvecg == 0 then some .h else some .g
  | .g => some .h
  | .h => none

/-- The lane after it takes trap t: entry at its target level, or a halt (14 R316, R321). -/
def laneTrap (r : Regs) (l : Nat) (x : Lane) (t : Trap) (troute : W32) (tvecg tvech : W64) : Lane × Bool :=
  let rec_ (dbl : Bool) : TrapRec := mkRec r l (causeWord dbl x.level t.off t.sub t.cause) t.spo t.res t.aux t.aux2
  let halt : Lane × Bool := ({ x with trh := rec_ true, holds := [.halted] }, true)
  match trapTarget x.level t.cause troute tvecg with
  | none => halt
  | some .h =>
    if tvech = 0 then halt
    else ({ x with trh := rec_ (x.level == .g), check := .none, holds := [], level := .h, pc := tvech }, false)
  | some _ => ({ x with trg := rec_ false, check := .none, holds := [], level := .g, pc := tvecg }, false)

/-- Taking a trap (14 R316): lane l of wave w of core c takes t, in one step; a halt is reported to the error log. [log 20: DESIGN CHOICE, unsafe] [log 21: DEDUCED, unsafe] -/
def takeTrap (s : State) (c w l : Nat) (t : Trap) : State :=
  match s.slot? c w with
  | none => s
  | some sl =>
    match sl.wave.lanes[l]? with
    | none => s
    | some x =>
      let f := s.func sl.wave.vf
      let (y, halted) := laneTrap sl.wave.regs l x t f.troute f.tvecg s.tvech
      let s := s.modLane c w l (fun _ => y)
      if halted then elog s 1 sl.wave.vf 0 c t.res (BitVec.ofNat 64 t.cause) else s

/-- Takes a trap in each of several lanes. -/
def takeTraps (s : State) (c w : Nat) (ls : List Nat) (t : Trap) : State :=
  ls.foldl (fun s l => takeTrap s c w l t) s

/-- The lower cause stays held, the other is counted as lost (14 R315). -/
def holdCause (s : State) (c w l : Nat) (k : Cause) : State :=
  let have_ := (((s.slot? c w).bind (fun t => t.wave.lanes[l]?)).bind Lane.held)
  match have_ with
  | none => s.modLane c w l (fun x => { x with held := some k })
  | some h =>
    (s.modLane c w l (fun x => { x with held := some (if k.code < h.code then k else h) })).modCore c
      (fun u => { u with trapLoss := satInc32 u.trapLoss })

/-- The trap of a cause that resumes at pc. -/
def Cause.trap (k : Cause) (pc : W64) : Trap :=
  { cause := k.code, sub := k.sub, off := k.off, spo := k.spo, res := pc, aux := k.aux, aux2 := k.aux2 }

/-- Lane l of wave w is in the run in progress of its quarter. -/
def inRun (s : State) (c w l : Nat) : Bool :=
  match (s.quarter c (quarterOf w)).run with
  | some r => r.wave == w && r.groups.any (fun g => g.mask.getLsbD l && !g.gone.getLsbD l)
  | none => false

/-- A completion cause of a lane (14 R315): held when it was issued below the lane's level, taken at the end of the lane's
run, or at once when the lane is in no run. -/
def completionCause (s : State) (c w l : Nat) (k : Cause) : State :=
  match (s.slot? c w).bind (fun t => t.wave.lanes[l]?) with
  | none => s
  | some x =>
    if x.exited then s
    else if decide (k.level.code < x.level.code) || x.holds.contains .halted then holdCause s c w l k
    else if inRun s c w l then s.modLane c w l (fun x => { x with due := x.due ++ [k] })
    else takeTrap s c w l (k.trap x.pc)

/-- Traps of lanes in the cc of issue (14 R315; 02 R53): they leave the run, and resume at the word's prologue. -/
def issueTraps (s : State) (x : Ctx) (ls : List Nat) (cause sub : Nat) (aux : Nat → W64) (aux2 : W32) : State :=
  let s := s.modGroup x.core x.quarter x.port (fun g => { g with gone := g.gone ||| maskOf (fun l => ls.contains l) })
  ls.foldl (fun s l => takeTrap s x.core x.wid l
    { cause := cause, sub := sub, off := x.idx, spo := x.spo, res := x.g.pro, aux := aux l, aux2 := aux2 }) s

/-- Return from a trap in a lane (14 R318): PC, level, v0 to v3 and p0 to p14 from the record of its level, and a landing
check; from H with PLEV H the lane halts with BADTARGET. -/
def laneRte (x : Lane) (l : Nat) (r : Regs) : Lane × Regs × Bool :=
  let t := if x.level = .h then x.trh else x.trg
  let plev := Level.ofCode (t.cause.extractLsb' 22 2).toNat
  if x.level = .h ∧ plev = .h then (x, r, true)
  else
    let r := if t.cause.getLsbD 30 then
        r.writes ([⟨.v 0 l, t.k0⟩, ⟨.v 1 l, t.k1⟩, ⟨.v 2 l, t.k2⟩, ⟨.v 3 l, t.k3⟩] ++
          (List.range 15).map (fun n => ⟨.p n l, if t.kp.getLsbD n then 1 else 0⟩))
      else r
    ({ x with pc := t.res, level := plev, check := .trapret }, r, false)

/-! ## Issue of a word -/

/-- Whether a register operand of a word reads a poisoned word in some acting lane (18 R404; 03 R84). -/
def regPoisoned (x : Ctx) (f : Fields) (op : Nat) (l : Nat) : Bool :=
  let g := formOf op f
  let r := x.wv.regs
  let chk (ks : List K) (o : Opnd) : Bool :=
    match o with
    | .vec i => (List.range (spanOf ks o)).any (fun k => r.vpois.contains (32 * (i.toNat + k) + l))
    | .uni i => (List.range (spanOf ks o)).any (fun k => r.upois.contains (i.toNat + k))
    | .tile i => (List.range 8).any (fun k => r.tpois.contains (8 * i.toNat + k))
    | .pred i => r.predPois i.toNat
    | _ => false
  chk g.a f.a || chk g.b f.b || chk g.c f.c

/-- A poisoned read of lane l (03 R84): POISON_SEEN, the core's counter, and the trap POISON when POISONTE is set. -/
def notePoison (s : State) (c w l : Nat) (k : Cause) : State :=
  match s.slot? c w with
  | none => s
  | some t =>
    let te := t.wave.wstat.getLsbD 1
    let s := (s.modWave c w (fun v => v.orWstat 1)).modCore c (fun u => { u with poisonReads := satInc32 u.poisonReads })
    if te then completionCause s c w l { k with code := 12, sub := 0, aux2 := 0 } else s

/-- Notes poisoned register operands of a word, its guard among them. -/
def noteRegPoison (s : State) (x : Ctx) (op : Nat) (f : Fields) : State :=
  if x.wv.regs.vpois.isEmpty && x.wv.regs.upois.isEmpty && x.wv.regs.tpois.isEmpty && x.wv.regs.ppois.isEmpty then s
  else ((if x.wv.regs.predPois f.guard.toNat then x.execLanes else (x.active f).filter (regPoisoned x f op))).foldl (fun s l => notePoison s x.core x.wid l
    { code := 12, sub := 0, spo := x.spo, off := x.idx, aux := 0, aux2 := 0, level := x.g.level }) s

/-- ILLEGAL_ENCODING in every lane of EXEC, whatever the guard holds (06 R143). -/
def illegalTrap (s : State) (x : Ctx) : State :=
  issueTraps s x x.execLanes 1 0 (fun _ => x.word.extractLsb' 0 64) (x.word.extractLsb' 64 32)

/-- PRIVILEGED in every lane of EXEC (06 R142; 14 R320). -/
def privTrap (s : State) (x : Ctx) (op : Nat) : State :=
  issueTraps s x x.execLanes 2 0 (fun _ => 0) (BitVec.ofNat 32 op)

/-- X rings of the issuing wave's gang. -/
def ringCount (s : State) (x : Ctx) : Nat :=
  match s.gang? x.core x.wv.gang with
  | some g => g.rings.length
  | none => 0

/-- The issue of a word: ILLEGAL_ENCODING, then PRIVILEGED, then its own effect (06 R142, R143). -/
def issueWord (op : Nat) (f : Fields) (s : State) (body : Ctx → State → State) : Res :=
  match s.issue? with
  | none => .fault .noIssue
  | some x =>
    if (check op f).isSome || !x.placeOk op f (ringCount s x) then .next (illegalTrap s x)
    else if levelOf op ≤ x.g.level.code then .next (body x (noteRegPoison s x op f))
    else .next (privTrap s x op)

/-- A word of the integer and predicate rows with a 32-bit result: v lane by lane, or once (07 R152, R153). -/
def alu32 (op : Nat) (f : Fields) (s : State) (v : Ctx → Nat → W32) : Res :=
  issueWord op f s (fun x s => writeNow x f ((x.destLanes f).flatMap (fun l => wr32 f.dst l (v x l))) s)

/-- A word with a 64-bit result. -/
def alu64 (op : Nat) (f : Fields) (s : State) (v : Ctx → Nat → W64) : Res :=
  issueWord op f s (fun x s => writeNow x f ((x.destLanes f).flatMap (fun l => wr64 f.dst l (v x l))) s)

/-- A word with a truth value. -/
def aluB (op : Nat) (f : Fields) (s : State) (v : Ctx → Nat → Bool) : Res :=
  issueWord op f s (fun x s => writeNow x f ((x.destLanes f).flatMap (fun l => wrBool f.dst l (v x l))) s)

end Sys2Proof.Machine
end

