-- ==== Sys2Proof/Machine/Fp.lean ====
section
/-! DEFINITION. FP32, packed FP16 and BF16, and FP64: rows 0x5, 0x6 and 0x7 (08 R174 to R187). -/

namespace Sys2Proof.Machine

/-- Magnitude, then negation, on an element's bits (08 R178). -/
def modBits (t : Fmt) (mag neg : Bool) (b : Nat) : Nat :=
  let m := if mag then b % 2 ^ (t.width - 1) else b
  if neg then m ^^^ 2 ^ (t.width - 1) else m

/-- A, B and C of an element after the modifiers AA, AB, NA, NB and NC (08 R178). -/
def modA (t : Fmt) (f : Fields) (b : Nat) : Nat := modBits t (f.m 6 1 == 1) (f.m 3 1 == 1) b
/-- See modA. -/
def modB (t : Fmt) (f : Fields) (b : Nat) : Nat := modBits t (f.m 7 1 == 1) (f.m 4 1 == 1) b
/-- See modA. -/
def modC (t : Fmt) (f : Fields) (b : Nat) : Nat := modBits t false (f.m 5 1 == 1) b

/-- The FP32 operands of a lane after modifiers. -/
def Ctx.fA (x : Ctx) (f : Fields) (l : Nat) : Nat := modA .fp32 f (x.rd f f.a l).toNat
/-- See fA. -/
def Ctx.fB (x : Ctx) (f : Fields) (l : Nat) : Nat := modB .fp32 f (x.rd f f.b l).toNat
/-- See fA. -/
def Ctx.fC (x : Ctx) (f : Fields) (l : Nat) : Nat := modC .fp32 f (x.rd f f.c l).toNat

/-- An FP64 source: a pair, or an FP32 immediate widened exactly, which sets IV when it is a signalling NaN (06 R137). -/
def Ctx.rdD (x : Ctx) (f : Fields) (o : Opnd) (l : Nat) : Nat × Exc :=
  match o with
  | .imm =>
    let v := decodeF .fp32 f.imm.toNat
    ((roundV .fp64 1 false v).1, v.sigExc)
  | _ => ((x.rd64 f o l).toNat, 0)

/-- The FP64 operands of a lane after modifiers; an immediate's NaN is already canonical and takes the modifiers as bits. -/
def Ctx.dA (x : Ctx) (f : Fields) (l : Nat) : Nat × Exc := let (v, e) := x.rdD f f.a l; (modA .fp64 f v, e)
/-- See dA. -/
def Ctx.dB (x : Ctx) (f : Fields) (l : Nat) : Nat × Exc := let (v, e) := x.rdD f f.b l; (modB .fp64 f v, e)
/-- See dA. -/
def Ctx.dC (x : Ctx) (f : Fields) (l : Nat) : Nat × Exc := let (v, e) := x.rdD f f.c l; (modC .fp64 f v, e)

/-- A result after SATF (08 R179). -/
def satOf (t : Fmt) (f : Fields) (r : Nat × Exc) : Nat × Exc := if f.m 15 1 = 1 then (satF t r.1, r.2) else r

/-- FADD on codes (08 R179, R180). -/
def addE (t : Fmt) (f : Fields) (a b _ : Nat) : Nat × Exc :=
  satOf t f (finish t (f.m 0 3) (addV (f.m 0 3) (decodeF t a) (decodeF t b)))
/-- FSUB on codes. -/
def subE (t : Fmt) (f : Fields) (a b _ : Nat) : Nat × Exc :=
  satOf t f (finish t (f.m 0 3) (addV (f.m 0 3) (decodeF t a) (decodeF t b).opp))
/-- FMUL on codes. -/
def mulE (t : Fmt) (f : Fields) (a b _ : Nat) : Nat × Exc :=
  satOf t f (finish t (f.m 0 3) (mulV (decodeF t a) (decodeF t b)))
/-- FFMA on codes. -/
def fmaE (t : Fmt) (f : Fields) (a b c : Nat) : Nat × Exc :=
  satOf t f (finish t (f.m 0 3) (fmaV (f.m 0 3) (decodeF t a) (decodeF t b) (decodeF t c)))
/-- FMIN on codes (08 R181). -/
def minE (t : Fmt) (f : Fields) (a b _ : Nat) : Nat × Exc := minMax t false (f.m 8 1 == 1) a b
/-- FMAX on codes. -/
def maxE (t : Fmt) (f : Fields) (a b _ : Nat) : Nat × Exc := minMax t true (f.m 8 1 == 1) a b
/-- FMED3 on codes (08 R179). -/
def med3E (t : Fmt) (f : Fields) (a b c : Nat) : Nat × Exc :=
  let (p, e1) := minE t f a b 0
  let (q, e2) := maxE t f a b 0
  let (r, e3) := minE t f q c 0
  let (v, e4) := maxE t f p r 0
  (v, e1 ||| e2 ||| e3 ||| e4)

/-- A word of rows 0x5 to 0x7: writes and exception bits of each lane it acts in; rows 0x5 and 0x6 write at issue, row 0x7 at
the end of the run; the bits are set at issue (08 R175). -/
def fpWord (op : Nat) (f : Fields) (s : State) (late : Bool) (v : Ctx → Nat → List RegWrite × Exc) : Res :=
  issueWord op f s (fun x s =>
    let rs := (x.destLanes f).map (v x)
    let ws := rs.flatMap Prod.fst
    orExc x ((rs.map Prod.snd).foldl (· ||| ·) 0) (if late then writeEnd x f ws s else writeNow x f ws s))

/-- An FP32 word. -/
def fp32 (op : Nat) (f : Fields) (s : State) (g : Nat → Nat → Nat → Nat × Exc) : Res :=
  fpWord op f s false (fun x l =>
    let (r, e) := g (x.fA f l) (x.fB f l) (x.fC f l)
    (wr32 f.dst l (BitVec.ofNat 32 r), e))

/-- A bit-exact word of rows 0x5 and 0x6 (05 R114). -/
def fpRaw (op : Nat) (f : Fields) (s : State) (g : Ctx → Nat → W32) : Res :=
  fpWord op f s false (fun x l => (wr32 f.dst l (g x l), 0))

/-- A compare of row 0x5. -/
def fpBool (op : Nat) (f : Fields) (s : State) (g : Ctx → Nat → Bool × Exc) : Res :=
  fpWord op f s false (fun x l => let (r, e) := g x l; (wrBool f.dst l r, e))

/-- FCLASS's result: the mask, or for a predicate whether it meets the test mask (08 R184). -/
def wrClass (f : Fields) (l : Nat) (m : Nat) (b : W32) : List RegWrite :=
  match f.dst with
  | .pred _ => wrBool f.dst l (BitVec.ofNat 32 m &&& b != 0)
  | _ => wr32 f.dst l (BitVec.ofNat 32 m)

/-- A packed word: the operation on both elements (08 R185). -/
def packed (op : Nat) (f : Fields) (s : State) (g : Nat → Nat → Nat → Nat × Exc) : Res :=
  fpWord op f s false (fun x l =>
    let t := Fmt.fp16
    let el (h : Nat) : Nat × Exc :=
      let p (o : Opnd) : Nat := (x.rd f o l).toNat / 2 ^ (16 * h) % 65536
      g (modA t f (p f.a)) (modB t f (p f.b)) (modC t f (p f.c))
    let (r0, e0) := el 0
    let (r1, e1) := el 1
    (wr32 f.dst l (BitVec.ofNat 32 (r0 + 65536 * r1)), e0 ||| e1))

/-- HCMP2 and BCMP2 (08 R186). -/
def packedCmp (op : Nat) (t : Fmt) (f : Fields) (s : State) : Res :=
  fpWord op f s false (fun x l =>
    let el (h : Nat) : Bool × Exc :=
      let p (o : Opnd) : Nat := (x.rd f o l).toNat / 2 ^ (16 * h) % 65536
      cmpF t (f.m 9 4) (modA t f (p f.a)) (modB t f (p f.b))
    let (r0, e0) := el 0
    let (r1, e1) := el 1
    (match f.dst with
      | .pred _ => wrBool f.dst l (match f.m 13 2 with | 0 => r0 | 1 => r1 | 2 => r0 && r1 | _ => r0 || r1)
      | _ => wr32 f.dst l ((if r0 then 0xFFFF else 0) ||| (if r1 then 0xFFFF0000 else 0)), e0 ||| e1))

/-- An FP64 word: operands, and the bits their immediates set (08 R187). -/
def fp64 (op : Nat) (f : Fields) (s : State) (g : Nat → Nat → Nat → Nat × Exc) : Res :=
  fpWord op f s true (fun x l =>
    let (r, e) := g (x.dA f l).1 (x.dB f l).1 (x.dC f l).1
    (wr64 f.dst l (BitVec.ofNat 64 r), e ||| (x.dA f l).2 ||| (x.dB f l).2 ||| (x.dC f l).2))

/-- A bit-exact FP64 word. -/
def fp64Raw (op : Nat) (f : Fields) (s : State) (g : W64 → W64 → W64) : Res :=
  fpWord op f s true (fun x l =>
    let (a, e1) := x.rdD f f.a l
    let (b, e2) := x.rdD f f.b l
    (wr64 f.dst l (g (BitVec.ofNat 64 a) (BitVec.ofNat 64 b)), e1 ||| e2))

/-! ## Row 0x5 -/

/-- FADD (08 R179, R180). -/
def execFadd (f : Fields) (s : State) : Res := fp32 0x50 f s (addE .fp32 f)
/-- FSUB (08 R179, R180). -/
def execFsub (f : Fields) (s : State) : Res := fp32 0x51 f s (subE .fp32 f)
/-- FMUL (08 R179, R180). -/
def execFmul (f : Fields) (s : State) : Res := fp32 0x52 f s (mulE .fp32 f)
/-- FFMA (08 R179, R180). -/
def execFfma (f : Fields) (s : State) : Res := fp32 0x53 f s (fmaE .fp32 f)
/-- FMIN (08 R179, R181). -/
def execFmin (f : Fields) (s : State) : Res := fp32 0x54 f s (minE .fp32 f)
/-- FMAX (08 R179, R181). -/
def execFmax (f : Fields) (s : State) : Res := fp32 0x55 f s (maxE .fp32 f)
/-- FMED3 (08 R179, R181). -/
def execFmed3 (f : Fields) (s : State) : Res := fp32 0x56 f s (med3E .fp32 f)
/-- FCMP (08 R182). -/
def execFcmp (f : Fields) (s : State) : Res := fpBool 0x57 f s (fun x l => cmpF .fp32 (f.m 9 4) (x.fA f l) (x.fB f l))
/-- FNEG (08 R179): bit 31 inverted. -/
def execFneg (f : Fields) (s : State) : Res := fpRaw 0x58 f s (fun x l => x.rd f f.a l ^^^ 0x80000000)
/-- FABS (08 R179): bit 31 cleared. -/
def execFabs (f : Fields) (s : State) : Res := fpRaw 0x59 f s (fun x l => x.rd f f.a l &&& 0x7FFFFFFF)
/-- FCPSGN (08 R179). -/
def execFcpsgn (f : Fields) (s : State) : Res := fpRaw 0x5A f s (fun x l => (x.rd f f.a l &&& 0x7FFFFFFF) ||| (x.rd f f.b l &&& 0x80000000))
/-- FRINT (08 R183). -/
def execFrint (f : Fields) (s : State) : Res := fp32 0x5B f s (fun a _ _ => rintF .fp32 (f.m 0 3) a)
/-- B of FSCALE and DSCALE: its bits after AB and NB, read as S32 (08 R178, R183). -/
def Ctx.scaleB (x : Ctx) (f : Fields) (l : Nat) : Int := (BitVec.ofNat 32 (modB .fp32 f (x.rd f f.b l).toNat)).toInt

/-- FSCALE (08 R183): B is read as S32. -/
def execFscale (f : Fields) (s : State) : Res :=
  fpWord 0x5C f s false (fun x l =>
    let (r, e) := scaleF .fp32 (f.m 0 3) (x.fA f l) (x.scaleB f l)
    (wr32 f.dst l (BitVec.ofNat 32 r), e))
/-- FCLASS (08 R184). -/
def execFclass (f : Fields) (s : State) : Res :=
  fpWord 0x5D f s false (fun x l => (wrClass f l (classMask .fp32 (x.rd f f.a l).toNat) (x.rd f f.b l), 0))
/-- FGETEXP (08 R184). -/
def execFgetexp (f : Fields) (s : State) : Res := fpRaw 0x5E f s (fun x l => getExp .fp32 (x.rd f f.a l).toNat)
/-- FFRC (08 R183). -/
def execFfrc (f : Fields) (s : State) : Res := fp32 0x5F f s (fun a _ _ => frcF .fp32 (f.m 0 3) a)

/-! ## Row 0x6 -/

/-- HADD2 (08 R185). -/
def execHadd2 (f : Fields) (s : State) : Res := packed 0x60 f s (addE .fp16 f)
/-- HSUB2 (08 R185). -/
def execHsub2 (f : Fields) (s : State) : Res := packed 0x61 f s (subE .fp16 f)
/-- HMUL2 (08 R185). -/
def execHmul2 (f : Fields) (s : State) : Res := packed 0x62 f s (mulE .fp16 f)
/-- HFMA2 (08 R185). -/
def execHfma2 (f : Fields) (s : State) : Res := packed 0x63 f s (fmaE .fp16 f)
/-- HMIN2 (08 R185). -/
def execHmin2 (f : Fields) (s : State) : Res := packed 0x64 f s (minE .fp16 f)
/-- HMAX2 (08 R185). -/
def execHmax2 (f : Fields) (s : State) : Res := packed 0x65 f s (maxE .fp16 f)
/-- HCMP2 (08 R186). -/
def execHcmp2 (f : Fields) (s : State) : Res := packedCmp 0x66 .fp16 f s
/-- BADD2 (08 R185). -/
def execBadd2 (f : Fields) (s : State) : Res := packed 0x69 f s (addE .bf16 f)
/-- BSUB2 (08 R185). -/
def execBsub2 (f : Fields) (s : State) : Res := packed 0x6A f s (subE .bf16 f)
/-- BMUL2 (08 R185). -/
def execBmul2 (f : Fields) (s : State) : Res := packed 0x6B f s (mulE .bf16 f)
/-- BFMA2 (08 R185). -/
def execBfma2 (f : Fields) (s : State) : Res := packed 0x6C f s (fmaE .bf16 f)
/-- BMIN2 (08 R185). -/
def execBmin2 (f : Fields) (s : State) : Res := packed 0x6D f s (minE .bf16 f)
/-- BMAX2 (08 R185). -/
def execBmax2 (f : Fields) (s : State) : Res := packed 0x6E f s (maxE .bf16 f)
/-- BCMP2 (08 R186). -/
def execBcmp2 (f : Fields) (s : State) : Res := packedCmp 0x6F .bf16 f s
/-- HNEG2 (08 R185). -/
def execHneg2 (f : Fields) (s : State) : Res := fpRaw 0x67 f s (fun x l => x.rd f f.a l ^^^ 0x80008000)
/-- HABS2 (08 R185). -/
def execHabs2 (f : Fields) (s : State) : Res := fpRaw 0x68 f s (fun x l => x.rd f f.a l &&& 0x7FFF7FFF)

/-! ## Row 0x7 -/

/-- DADD (08 R187). -/
def execDadd (f : Fields) (s : State) : Res := fp64 0x70 f s (addE .fp64 f)
/-- DSUB (08 R187). -/
def execDsub (f : Fields) (s : State) : Res := fp64 0x71 f s (subE .fp64 f)
/-- DMUL (08 R187). -/
def execDmul (f : Fields) (s : State) : Res := fp64 0x72 f s (mulE .fp64 f)
/-- DFMA (08 R187). -/
def execDfma (f : Fields) (s : State) : Res := fp64 0x73 f s (fmaE .fp64 f)
/-- DMIN (08 R187). -/
def execDmin (f : Fields) (s : State) : Res := fp64 0x74 f s (minE .fp64 f)
/-- DMAX (08 R187). -/
def execDmax (f : Fields) (s : State) : Res := fp64 0x75 f s (maxE .fp64 f)
/-- DCMP (08 R187, R182). -/
def execDcmp (f : Fields) (s : State) : Res :=
  fpWord 0x76 f s true (fun x l =>
    let (r, e) := cmpF .fp64 (f.m 9 4) (x.dA f l).1 (x.dB f l).1
    (wrBool f.dst l r, e ||| (x.dA f l).2 ||| (x.dB f l).2))
/-- DNEG (08 R187). -/
def execDneg (f : Fields) (s : State) : Res := fp64Raw 0x77 f s (fun a _ => a ^^^ 0x8000000000000000)
/-- DABS (08 R187). -/
def execDabs (f : Fields) (s : State) : Res := fp64Raw 0x78 f s (fun a _ => a &&& 0x7FFFFFFFFFFFFFFF)
/-- DCPSGN (08 R187). -/
def execDcpsgn (f : Fields) (s : State) : Res := fp64Raw 0x79 f s (fun a b => (a &&& 0x7FFFFFFFFFFFFFFF) ||| (b &&& 0x8000000000000000))
/-- DRINT (08 R187, R183). -/
def execDrint (f : Fields) (s : State) : Res := fp64 0x7A f s (fun a _ _ => rintF .fp64 (f.m 0 3) a)
/-- DSCALE (08 R187, R183): B is a 32-bit S32. -/
def execDscale (f : Fields) (s : State) : Res :=
  fpWord 0x7B f s true (fun x l =>
    let (r, e) := scaleF .fp64 (f.m 0 3) (x.dA f l).1 (x.scaleB f l)
    (wr64 f.dst l (BitVec.ofNat 64 r), e ||| (x.dA f l).2))
/-- DCLASS (08 R187, R184). -/
def execDclass (f : Fields) (s : State) : Res :=
  fpWord 0x7C f s true (fun x l =>
    let (a, e) := x.rdD f f.a l
    (wrClass f l (classMask .fp64 a) (x.rd f f.b l), e))
/-- DGETEXP (08 R187, R184). -/
def execDgetexp (f : Fields) (s : State) : Res :=
  fpWord 0x7D f s true (fun x l =>
    let (a, e) := x.rdD f f.a l
    (wr32 f.dst l (getExp .fp64 a), e))
/-- DRCP (08 R187, R194). -/
def execDrcp (f : Fields) (s : State) : Res := fp64 0x7E f s (fun a _ _ => rcpF .fp64 (f.m 0 3) a)
/-- DRSQ (08 R187, R194, R195). -/
def execDrsq (f : Fields) (s : State) : Res := fp64 0x7F f s (fun a _ _ => rsqF .fp64 0x7F a)

end Sys2Proof.Machine
end

