-- ==== Sys2Proof/Machine/Convert.lean ====
section
/-! DEFINITION. Conversions, block scales, BPICK and SWZH: row 0x8, and the completion of the words of rows 0x8 and 0x9
(08 R175, R188 to R193, R197; 05 R122). -/

namespace Sys2Proof.Machine

/-- The format of a code that the checks have passed. -/
def fmtOf (c : Nat) : Fmt := (Fmt.ofCode c).getD .fp32

/-- DFMT (08 R188). -/
def dfmtOf (f : Fields) : Fmt := fmtOf (f.m 3 5)
/-- AFMT (08 R188). -/
def afmtOf (f : Fields) : Fmt := fmtOf (f.m 8 5)

/-- A result code as it lands in 64 bits: a signed integer fills with its sign, any other with zeros (08 R190). -/
def landCode (t : Fmt) (c : Nat) : W64 :=
  if t.isFloat then BitVec.ofNat 64 c else BitVec.ofInt 64 (decodeI t c)

/-- One element converted under RM: its code, its exception bits and SRG after it; SR advances SRG whatever the value (08 R190,
R197; 05 R122). -/
def convNum (t : Fmt) (rm : Nat) (fin : Bool) (srg : W32) (v : Val) : Nat × Exc × W32 :=
  if rm = 4 then
    let g := srgNext srg
    let (c, e) := roundSR t fin g v
    (c, e ||| v.sigExc, g)
  else
    let (c, e) := roundV t rm fin v
    (c, e ||| v.sigExc, srg)

/-- One element converted from a code: bits of the same format pass unchanged (08 R190). [log 33: DEDUCED, unsafe] -/
def convCode (d a : Fmt) (rm : Nat) (fin : Bool) (srg : W32) (b : Nat) : Nat × Exc × W32 :=
  if d = a then (b % 2 ^ d.width, 0, if rm = 4 then srgNext srg else srg)
  else convNum d rm fin srg (decodeV a b)

/-- Element i of width w of a word of bits. -/
def elemOf (w i b : Nat) : Nat := b / 2 ^ (w * i) % 2 ^ w

/-- A word of row 0x8 whose lanes each use their SRG: results pend, SRG advances at issue (08 R175, R190, R197). -/
def convWord (op : Nat) (f : Fields) (s : State) (v : Ctx → Nat → W32 → List RegWrite × Exc × W32) : Res :=
  issueWord op f s (fun x s =>
    let ls := x.destLanes f
    let rs := ls.map (fun l => (l, v x l (match x.wv.lanes[l]? with | some y => y.srg | none => 0)))
    let s := rs.foldl (fun s r => s.modLane x.core x.wid r.1 (fun y => { y with srg := r.2.2.2 })) s
    writeLate x op f (rs.flatMap (fun r => r.2.1)) ((rs.map (fun r => r.2.2.1)).foldl (· ||| ·) 0) s)

/-- The source of a single-value conversion: element POS, or 64 bits, with what reading it sets (06 R137; 08 R190). -/
def convSrc (x : Ctx) (f : Fields) (l : Nat) : Nat × Exc :=
  let t := (afmtOf f)
  if t = .fp64 then x.rdD f f.a l
  else if t.width = 64 then ((x.rd64 f f.a l).toNat, 0)
  else (elemOf t.width (f.m 14 3) (x.rd f f.a l).toNat, 0)

/-- The writes of a result: a pair where DFMT has 64 bits. -/
def convDst (f : Fields) (l c : Nat) : List RegWrite :=
  if (dfmtOf f).width = 64 then wr64 f.dst l (landCode (dfmtOf f) c) else wr32 f.dst l ((landCode (dfmtOf f) c).setWidth 32)

/-- A single-value conversion (08 R190). -/
def convert (op : Nat) (f : Fields) (s : State) : Res :=
  convWord op f s (fun x l srg =>
    let (b, e) := convSrc x f l
    let (c, e', g) := convCode (dfmtOf f) (afmtOf f) (f.m 0 3) (f.m 13 1 == 1) srg b
    (convDst f l c, e ||| e', g))

/-- CVTF (08 R189, R190). -/
def execCvtf (f : Fields) (s : State) : Res := convert 0x80 f s
/-- CVTFI (08 R189, R190). -/
def execCvtfi (f : Fields) (s : State) : Res := convert 0x81 f s
/-- CVTIF (08 R189, R190). -/
def execCvtif (f : Fields) (s : State) : Res := convert 0x82 f s
/-- CVTII (08 R189, R190): wraps, or saturates under ISAT. -/
def execCvtii (f : Fields) (s : State) : Res :=
  convWord 0x83 f s (fun x l srg =>
    let i := decodeI (afmtOf f) (convSrc x f l).1
    let (y, e) := if f.m 17 1 = 1 then satInt (dfmtOf f).isSigned (dfmtOf f).width i else (i, 0)
    (convDst f l (encodeI (dfmtOf f) y), e, srg))
/-- CVTFW (08 R189, R190). -/
def execCvtfw (f : Fields) (s : State) : Res := convert 0x84 f s
/-- CVTIFW (08 R189, R190). -/
def execCvtifw (f : Fields) (s : State) : Res := convert 0x85 f s

/-- CVTPK2, CVTPK4 and CVTPK8 (08 R191). -/
def convPack (op : Nat) (f : Fields) (s : State) : Res :=
  convWord op f s (fun x l srg =>
    let d := (dfmtOf f)
    let fin := f.m 13 1 == 1
    let rm := f.m 0 3
    let lo := 2 * f.m 14 3
    let (c0, e0, g0) := convCode d .fp32 rm fin srg (x.rd f f.a l).toNat
    let (c1, e1, g1) := convCode d .fp32 rm fin g0 (x.rd f f.b l).toNat
    let old := (x.rd f f.c l).toNat
    let put (i : Nat) : Nat := if i = lo then c0 else if i = lo + 1 then c1 else elemOf d.width i old
    let r := (List.range (32 / d.width)).foldl (fun r i => r + put i * 2 ^ (d.width * i)) 0
    (wr32 f.dst l (BitVec.ofNat 32 r), e0 ||| e1, g1))

/-- CVTPK2 (08 R191). -/
def execCvtpk2 (f : Fields) (s : State) : Res := convPack 0x86 f s
/-- CVTPK4 (08 R191). -/
def execCvtpk4 (f : Fields) (s : State) : Res := convPack 0x87 f s
/-- CVTPK8 (08 R191). -/
def execCvtpk8 (f : Fields) (s : State) : Res := convPack 0x88 f s

/-- CVTEX2, CVTEX4 and CVTEX8 (08 R191). -/
def convExtract (op : Nat) (f : Fields) (s : State) : Res :=
  convWord op f s (fun x l srg =>
    let a := (afmtOf f)
    let w := (x.rd f f.a l).toNat
    let el (i : Nat) : Nat × Exc × W32 := convCode (dfmtOf f) a 0 false srg (elemOf a.width i w)
    let (c0, e0, _) := el (2 * f.m 14 3)
    let (c1, e1, _) := el (2 * f.m 14 3 + 1)
    (wr64 f.dst l (BitVec.ofNat 64 (c0 + 2 ^ 32 * c1)), e0 ||| e1, srg))

/-- CVTEX2 (08 R191). -/
def execCvtex2 (f : Fields) (s : State) : Res := convExtract 0x89 f s
/-- CVTEX4 (08 R191). -/
def execCvtex4 (f : Fields) (s : State) : Res := convExtract 0x8A f s
/-- CVTEX8 (08 R191). -/
def execCvtex8 (f : Fields) (s : State) : Res := convExtract 0x8B f s

/-- A value times 2^k. -/
def Val.scale (v : Val) (k : Int) : Val :=
  match v with
  | .num x => .num (x.scale k)
  | v => v

/-- CVTSC (08 R192). -/
def execCvtsc (f : Fields) (s : State) : Res :=
  convWord 0x8C f s (fun x l srg =>
    let sc := ((x.rd f f.b l).extractLsb' 0 8).toNat
    let k : Int := (sc : Int) - 127
    let v := (decodeF .fp32 (x.rd f f.a l).toNat).scale (if f.m 18 1 = 1 then -k else k)
    if sc = 255 then
      (wr32 f.dst l (BitVec.ofNat 32 Fmt.fp32.canon), excIV, if f.m 0 3 = 4 then srgNext srg else srg)
    else
      let (c, e, g) := convNum .fp32 (f.m 0 3) false srg v
      (wr32 f.dst l (BitVec.ofNat 32 c), e, g))

/-- ceil(log2(x / m)) of a positive number and a positive whole number. -/
def ceilLog2 (x : Ex) (m : Nat) : Int :=
  let q : Ex := { x with neg := false, d := x.d * m }
  let k := q.log2
  if q.same { neg := false, n := 1, d := 1, e := k } then k else k + 1

/-- The scale CVTQS computes (08 R192). -/
def quantScale (t : Fmt) (a : Nat) : Nat :=
  match decodeF .fp32 a with
  | .num x =>
    if x.n = 0 then 0x7F
    else
      let m := if t = .e4m3 then 448 else if t = .e5m2 then 57344 else 6
      (min 254 (max 0 (127 + ceilLog2 x m))).toNat
  | _ => 0xFF

/-- CVTQS (08 R192). -/
def execCvtqs (f : Fields) (s : State) : Res :=
  convWord 0x8D f s (fun x l srg => (wr32 f.dst l (BitVec.ofNat 32 (quantScale (dfmtOf f) (x.rd f f.a l).toNat)), 0, srg))

/-- One byte of BPICK (08 R193). -/
def pickByte (ab : W64) (sel : Byte) : Byte :=
  let b : Byte := ab.extractLsb' (8 * (sel.toNat % 8)) 8
  match sel.toNat / 8 % 4 with
  | 0 => b
  | 1 => 0
  | 2 => if b.getLsbD 7 then 0xFF else 0
  | _ => 0xFF

/-- BPICK on its operands. -/
def bytePick (a b c : W32) : W32 :=
  let p (n : Nat) : Byte := pickByte (b ++ a) (c.extractLsb' (8 * n) 8)
  p 3 ++ p 2 ++ (p 1 ++ p 0)

/-- BPICK (08 R193). -/
def execBpick (f : Fields) (s : State) : Res :=
  convWord 0x8E f s (fun x l srg => (wr32 f.dst l (bytePick (x.rd f f.a l) (x.rd f f.b l) (x.rd f f.c l)), 0, srg))

/-- SWZH (08 R193). -/
def execSwzh (f : Fields) (s : State) : Res :=
  convWord 0x8F f s (fun x l srg =>
    let ab : W64 := x.rd f f.b l ++ x.rd f f.a l
    let h (n : Nat) : BitVec 16 := ab.extractLsb' (16 * n) 16
    (wr32 f.dst l (h (f.m 2 2) ++ h (f.m 0 2)), 0, srg))

/-- A run of a wave is in progress whose word issued an operation: its results cannot have landed. -/
def runningWave (s : State) (c w : Nat) : Bool :=
  match (s.quarter c (quarterOf w)).run with
  | some r => r.wave == w
  | none => false

/-- CONVERSION_COMPLETE (08 R175; 09 R200): between runs of its wave, the results land, the bits are ORed and the flag falls.
-/
def execConversionComplete (core wave op : Nat) (s : State) : Res :=
  match (s.slot? core wave).bind (fun t => t.wave.op? op) with
  | none => .fault .notEnabled
  | some o =>
    if !(o.opc / 16 == 8 || o.opc / 16 == 9) || runningWave s core wave then .fault .notEnabled
    else .next (s.modWave core wave (fun w =>
      (({ w with regs := w.regs.writes o.writes }).orWstat o.exc).endOp op))

end Sys2Proof.Machine
end

