-- ==== Sys2Proof/Machine/Links.lean ====
section
/-! DEFINITION. What lies above HBM4, and the peer links: flits and how they are sent (18 R394 to R398). -/

namespace Sys2Proof.Machine

/-- Where an access goes by its system physical address (18 R394): none where it is refused as R367 refuses. -/
def targetOf (f : Nat) (l : Level) (spa : Nat) : Target :=
  if spa < hbmEnd then .hbm spa
  else if 0x3F0000000000 ≤ spa ∧ spa < 0x3F0000400000 then
    let g := (spa - 0x3F0000000000) / 65536
    if (g = f ∧ l ≠ .u) ∨ (f = 0 ∧ l = .h) then .regs g (spa % 65536) else .none
  else if 0x400000000000 ≤ spa ∧ spa < 0x600000000000 then .port 0 (spa - 0x400000000000)
  else if 0x600000000000 ≤ spa ∧ spa < 0x800000000000 then .port 1 (spa - 0x600000000000)
  else if 0x800000000000 ≤ spa ∧ spa < 0x1000000000000 then
    .peer ((spa - 0x800000000000) / 2 ^ 40) ((spa - 0x800000000000) % 2 ^ 40)
  else .none

/-- A function whose BARs a host can reach: a physical function, or an exposed virtual one (18 R390). -/
def exposed (s : State) (f : Nat) : Bool := decide (f < 2) || s.conf.vfOn.getLsbD f

/-! ## Peer requests -/

/-- The link of a node, where ROUTE names one (18 R396). -/
def linkOf (s : State) (node : Nat) : Option Nat :=
  let l := Tab.get 0xFF s.conf.route node
  if l < 16 then some l else none

/-- Why a request to node at r cannot leave: SUB of R417. -/
def peerSub (s : State) (node r : Nat) : Option Nat :=
  if node = s.conf.nodeid ∨ 2 ^ 39 ≤ r then some 1
  else
    match linkOf s node with
    | none => some 1
    | some l => if s.rdy.links.getLsbD l then none else some 4

/-- CRC-64 of some bytes, from 0, most significant bits first (18 R397). -/
def crc64 (b : List Byte) : Nat :=
  b.foldl (fun c x => (List.range 8).foldl (fun c _ =>
    if c < 2 ^ 63 then 2 * c else (2 * c - 2 ^ 64) ^^^ 0x42F0E1EBA9EA3693) (c ^^^ (x.toNat * 2 ^ 56))) 0

/-- The 120 bytes of a flit before its CRC, least significant byte of each field first (00 R6; 18 R397). -/
def flitBody (f : Flit) : BitVec 960 :=
  f.opnd2 ++ f.opnd ++ f.pad ++ BitVec.ofNat 8 f.otype ++ BitVec.ofNat 8 (f.op + 0xC0) ++ BitVec.ofNat 512 (leNat f.data) ++ f.bmask ++
  f.addr ++ f.tid ++ f.lseq ++ f.flags ++ f.dst ++ f.src ++ f.type

/-- The 128 bytes of a flit (18 R397). -/
def flitWire (f : Flit) : BitVec 1024 := BitVec.ofNat 64 (crc64 (leBytes 120 (flitBody f).toNat)) ++ flitBody f

/-- The flit of 128 bytes (18 R397). -/
def flitOf (w : BitVec 1024) : Flit :=
  { type := w.extractLsb' 0 8, src := w.extractLsb' 8 8, dst := w.extractLsb' 16 8, flags := w.extractLsb' 24 8,
    lseq := w.extractLsb' 32 32, tid := w.extractLsb' 64 64, addr := w.extractLsb' 128 64, bmask := w.extractLsb' 192 64,
    data := leBytes 64 (w.extractLsb' 256 512).toNat, op := ((w.extractLsb' 768 8).toNat + 64) % 256,
    otype := (w.extractLsb' 776 8).toNat, opnd := w.extractLsb' 832 64, opnd2 := w.extractLsb' 896 64, pad := w.extractLsb' 784 48,
    crcOk := crc64 (leBytes 120 (w.extractLsb' 0 960).toNat) == (w.extractLsb' 960 64).toNat }

/-- Sends a flit on a link with the link's next LSEQ (18 R397). -/
def sendFlit (s : State) (link : Nat) (f : Flit) : State :=
  let k := Tab.get default s.links link
  ({ s with links := Tab.put default s.links link { k with sent := k.sent + 1 } }).send (.flit link (flitWire { f with lseq := k.sent }))

/-- A flit of a type to a node, with nothing else in it. -/
def flitTo (s : State) (type node tid addr : Nat) : Flit :=
  { type := BitVec.ofNat 8 type, src := BitVec.ofNat 8 s.conf.nodeid, dst := BitVec.ofNat 8 node, flags := 0, lseq := 0,
    tid := BitVec.ofNat 64 tid, addr := BitVec.ofNat 64 addr, bmask := 0, data := List.replicate 64 0, op := 64, otype := 0,
    opnd := 0, opnd2 := 0, crcOk := true }

/-- A WRITE flit of up to a sector's bytes at r but those at positions hs (18 R397). [log 122: DEDUCED, unsafe] -/
def writeFlit (s : State) (node r : Nat) (b : List Byte) (hs : List Nat) (flags : Nat) : Flit :=
  let o := r % 64
  { flitTo s 1 node 0 (r / 64 * 64) with
    bmask := BitVec.ofNat 64 ((List.range b.length).foldl (fun m i => if hs.contains i then m else m + 2 ^ (o + i)) 0),
    data := List.replicate o 0 ++ b ++ List.replicate (64 - o - b.length) 0, flags := BitVec.ofNat 8 flags }

/-- Sends a request and keeps it until it is answered (18 R398). -/
def sendReq (s : State) (q : PeerReq) (f : Flit) : State :=
  match linkOf s q.node with
  | none => s
  | some l => sendFlit { s with peers := s.peers ++ [{ q with tid := s.nextTid, link := l, since := s.fc }],
                                nextTid := s.nextTid + 1 } l { f with tid := BitVec.ofNat 64 s.nextTid }

end Sys2Proof.Machine
end

