-- ==== Sys2Proof/Machine/Translate.lean ====
section
/-! DEFINITION. Translation: the two walks, TLBs and walk caches, owners of frames, and page requests (16 R353 to R368,
R418; 03 R61 to R66; 18 R394). -/

namespace Sys2Proof.Machine

/-- Which access (16 R356, R361): bit 0 read, bit 1 write, bit 2 execute; and whether it counts as level U. -/
structure Acc where
  bits : Nat
  u : Bool
  deriving DecidableEq, Repr, Inhabited

/-- A load or other read at a level. -/
def accR (l : Level) : Acc := { bits := 1, u := l == .u }
/-- A store at a level. -/
def accW (l : Level) : Acc := { bits := 2, u := l == .u }
/-- An atomic at a level. -/
def accRW (l : Level) : Acc := { bits := 3, u := l == .u }
/-- An instruction fetch at a level. -/
def accX (l : Level) : Acc := { bits := 4, u := l == .u }

/-- Who an owner check is made for (16 R368). -/
inductive Party where
  | fn (f : Nat) (l : Level)
  | host
  | scrub
  deriving DecidableEq, Repr

/-- The level under whose row an access of a wave is checked: H for all of a PRIV job's (16 R368; 19 R411). -/
def Wave.row (v : Wave) (l : Level) : Level := if v.priv then .h else l

/-- The owners a party may use (16 R368). -/
def Party.mayUse (p : Party) (o : Nat) : Bool :=
  match p with
  | .fn f l => o == f || (f == 0 && l == .h && o == ownHost)
  | .host => o == ownHost
  | .scrub => o == ownScrub

/-- A party may use the frame that holds an address of HBM4. -/
def State.owned (s : State) (p : Party) (a : Nat) : Bool := decide (a < hbmEnd) && p.mayUse (s.owner a)

/-- A byte of HBM4 at its controller: in the owner table, the code of the frame it stands for (16 R366). [log 102: DEDUCED, unsafe] -/
def State.byteAt (s : State) (a : Nat) : Byte :=
  if s.inOwnTable a then BitVec.ofNat 8 (Tab.get ownHost s.owners (a - s.conf.fotbase.toNat)) else memByte s.mem a

/-- n bytes of HBM4 from a. -/
def State.bytesAt (s : State) (a n : Nat) : List Byte := (List.range n).map (fun i => s.byteAt (a + i))

/-- A party's write at a system physical address is permitted (16 R366, R368). -/
def State.writable (s : State) (p : Party) (a : Nat) : Bool := s.owned p a && !s.inOwnTable a

/-- A refusal of R367: counted in the function's ownership-violation count, and logged. [log 49: DESIGN CHOICE, unsafe] -/
def refuseOwner (s : State) (f core a : Nat) : State :=
  elog (s.modErr f (fun e => { e with own := satInc64 e.own })) 2 f 0 core (BitVec.ofNat 64 a) 0

/-! ## Counter banks -/

/-- Counts n events of a code for a function in a cluster's banks (17 R387). -/
def countEvent (s : State) (cl f code n : Nat) : State :=
  if (s.cluster cl).banks.isEmpty then s
  else s.modCluster cl (fun k => { k with banks := k.banks.map (fun p =>
    (p.1, if p.2.vf = f ∨ p.2.h then
        { p.2 with counts := p.2.counts.zipIdx.map (fun q =>
            if p.2.codes.getD q.2 0 = code then q.1 + BitVec.ofNat 64 n else q.1) }
      else p.2)) })

/-! ## Table entries -/

/-- The eight-byte entry of a table at a system physical address. -/
def tableEntry (s : State) (a : Nat) : Nat := leNat (s.bytesAt a 8)

/-- Bits hi:lo of a number. -/
def bits (n hi lo : Nat) : Nat := n / 2 ^ lo % 2 ^ (hi + 1 - lo)

/-- V of an entry. -/
def pteV (e : Nat) : Bool := e.testBit 0
/-- LEAF of an entry. -/
def pteLeaf (e : Nat) : Bool := e.testBit 1

/-- An entry with a field value listed as MALFORMED at its stage and level (16 R354). -/
def pteBad (stage lvl e : Nat) : Bool :=
  let leaf := pteLeaf e
  let s1leaf := stage == 1 && leaf
  decide (bits e 63 52 ≠ 0) || decide (bits e 11 9 ≠ 0) || e.testBit 5 ||
  (stage == 2 && decide (bits e 51 48 ≠ 0)) ||
  (leaf && lvl == 1 && decide (bits e 20 12 ≠ 0)) || (leaf && lvl == 2 && decide (bits e 29 12 ≠ 0)) ||
  (e.testBit 8 && !(leaf && lvl == 0)) ||
  (e.testBit 7 && !s1leaf) || (e.testBit 6 && !s1leaf) ||
  (!leaf && (e.testBit 4 || e.testBit 3 || e.testBit 2)) || (e.testBit 3 && !e.testBit 2) ||
  (!leaf && lvl == 0) || (leaf && (lvl == 4 || lvl == 3))

/-- A leaf allows an access: R, W, X of the access and, at stage 1, U for level U (16 R356). -/
def pteAllows (stage e : Nat) (a : Acc) : Bool :=
  (!a.bits.testBit 0 || e.testBit 2) && (!a.bits.testBit 1 || e.testBit 3) && (!a.bits.testBit 2 || e.testBit 4) &&
  (stage != 1 || !a.u || e.testBit 6)

/-- ADDR of an entry, in bytes. -/
def pteAddr (e : Nat) : Nat := bits e 51 12 * 4096

/-- log2 of the page of a leaf at a level (16 R355). -/
def leafSize (lvl : Nat) : Nat := 12 + 9 * lvl

/-- How a walk ends: the address, the log2 of the leaf's page and the leaf; a request's key; or a refused read (16 R357,
R367). -/
inductive Walk where
  | page (addr size leaf : Nat)
  | fault (stage cause : Nat) (table : Bool) (gpa : Nat)
  | refused (a : Nat)
  deriving DecidableEq, Repr

/-- What a walk reads with: the cached entries (none on a fresh walk), the count of free values, and the entries read. -/
structure Walker where
  vf : Nat
  cache : List WalkEnt
  k : Nat
  deriving DecidableEq, Repr

/-- A table entry as a walk takes it: cached, or as it stands (16 R359, R360). -/
def Walker.entry (w : Walker) (s : State) (a : Nat) : Nat :=
  match w.cache.find? (fun e => e.vf == w.vf && e.spa == a) with
  | some e => e.val.toNat
  | none => tableEntry s a

/-- The entries that may translate a level-0 access, as address adjustments: the access's own, and each V, LEAF and SZ64
entry of its 64 KiB group with ADDR bits 15:12 replaced (16 R355). -/
def groupCands (w : Walker) (s : State) (tab idx : Nat) : List (Nat × Nat) :=
  (w.entry s (tab + 8 * idx), 12) ::
    ((List.range 16).map (fun j => w.entry s (tab + 8 * (idx / 16 * 16 + j)))).filterMap (fun e =>
      if pteV e && pteLeaf e && e.testBit 8 then some (e / 65536 * 65536 + idx % 16 * 4096 + e % 4096, 16) else none)

/-- The entry of a level-0 access and the log2 of its page; the choice among several is a free value (16 R355). -/
def groupPick (w : Walker) (s : State) (tab idx : Nat) : Nat × Nat :=
  match groupCands w s tab idx with
  | [c] => c
  | cs => cs.getD (Config.groupEntry (w.k * 2 ^ 52 + tab + 8 * idx) % cs.length) (0, 12)

/-- Stage 2 of R357 from table ta down: n is one more than the level. -/
def stage2From (w : Walker) (s : State) (gpa : Nat) (a : Acc) (table : Bool) : Nat → Nat → Walk
  | _, 0 => .fault 2 2 table gpa
  | ta, lvl + 1 =>
    let idx := if lvl = 3 then bits gpa 51 39 else bits gpa (9 * lvl + 20) (9 * lvl + 12)
    let at_ := ta + 8 * idx
    if s.owned .host at_ = false then .refused at_
    else
      let (e, sz) := if lvl = 0 then groupPick w s ta idx else (w.entry s at_, leafSize lvl)
      if pteV e = false then .fault 2 0 table gpa
      else if pteBad 2 lvl e then .fault 2 2 table gpa
      else if pteLeaf e then
        if pteAllows 2 e a then .page (pteAddr e + gpa % 2 ^ (if lvl = 0 then 12 else leafSize lvl)) sz e
        else .fault 2 1 table gpa
      else stage2From w s gpa a table (pteAddr e) lvl

/-- A leaf that grants everything, for the identity stage 2. -/
def identityLeaf : Nat := 0x5F

/-- Stage 2 of R357: identity below 2^48 when S2ROOT is 0. -/
def stage2 (w : Walker) (s : State) (gpa : Nat) (a : Acc) (table : Bool) : Walk :=
  let root := (s.func w.vf).s2root.toNat
  if root = 0 then (if 2 ^ 48 ≤ gpa then .fault 2 0 table gpa else .page gpa 30 identityLeaf)
  else stage2From w s gpa a table root 4

/-- Stage 1 of R357 from the guest physical table address ta down: the guest physical address, page and leaf; n is one
more than the level. -/
def stage1From (w : Walker) (s : State) (p : Party) (va : Nat) (a : Acc) : Nat → Nat → Walk
  | _, 0 => .fault 1 2 false 0
  | ta, lvl + 1 =>
    let idx := bits va (9 * lvl + 20) (9 * lvl + 12)
    match stage2 w s (ta + 8 * idx) { bits := 1, u := false } true with
    | .page at_ _ _ =>
      if s.owned p at_ = false then .refused at_
      else
        let (e, sz) := if lvl = 0 then groupPick w s (at_ - 8 * idx) idx else (w.entry s at_, leafSize lvl)
        if pteV e = false then .fault 1 0 false 0
        else if pteBad 1 lvl e then .fault 1 2 false 0
        else if pteLeaf e then
          if pteAllows 1 e a then .page (pteAddr e + va % 2 ^ (if lvl = 0 then 12 else leafSize lvl)) sz e
          else .fault 1 1 false 0
        else stage1From w s p va a (pteAddr e) lvl
    | r => r

/-- Translate of R357, with what a TLB keeps of it. -/
inductive Xlate where
  | ok (e : TlbEnt)
  | fault (stage cause : Nat) (table : Bool) (gpa : Nat)
  | refused (a : Nat)
  deriving DecidableEq, Repr

/-- A whole walk: stage 1, then stage 2. -/
def walk (w : Walker) (s : State) (p : Party) (va : Nat) (a : Acc) : Xlate :=
  match stage1From w s p va a (s.func w.vf).s1root.toNat 5 with
  | .fault st c t g => .fault st c t g
  | .refused x => .refused x
  | .page gpa z1 e1 =>
    match stage2 w s gpa a false with
    | .fault st c t g => .fault st c t g
    | .refused x => .refused x
    | .page spa z2 e2 =>
      let z := min z1 z2
      .ok { vf := w.vf, va := va - va % 2 ^ z, size := z, gpa := gpa - gpa % 2 ^ z, spa := spa - spa % 2 ^ z,
            r := e1.testBit 2 && e2.testBit 2, w := e1.testBit 3 && e2.testBit 3, x := e1.testBit 4 && e2.testBit 4,
            u := e1.testBit 6, elide := e1.testBit 7 }

/-! ## TLBs -/

/-- A TLB entry translates an address of a function. -/
def TlbEnt.hits (e : TlbEnt) (f va : Nat) : Bool := e.vf == f && va / 2 ^ e.size == e.va / 2 ^ e.size
/-- The cached permissions allow an access (16 R359). -/
def TlbEnt.allows (e : TlbEnt) (a : Acc) : Bool :=
  (!a.bits.testBit 0 || e.r) && (!a.bits.testBit 1 || e.w) && (!a.bits.testBit 2 || e.x) && (!a.u || e.u)
/-- The system physical address of an address the entry translates. -/
def TlbEnt.apply (e : TlbEnt) (va : Nat) : Nat := e.spa + va % 2 ^ e.size
/-- Puts an entry first, in place of any for its page; the oldest goes when there are more than n (16 R359). -/
def tlbPut (l : List TlbEnt) (e : TlbEnt) (n : Nat) : List TlbEnt :=
  (e :: l.filter (fun x => !(x.hits e.vf e.va || e.hits x.vf x.va))).take n

/-- Who asks: a core, by its number; a cluster's slice, as 65,536 and its number; or none for the queues and the Sieve. It picks the
TLBs and the cluster (16 R359, R363). -/
abbrev Asker := Option Nat
/-- The cluster of an asker; 128 stands for the queues and the Sieve. -/
def askCluster (c : Asker) : Nat :=
  match c with
  | some c => if c < 65536 then clusterOf c else c - 65536
  | none => 128
/-- The core of an asker that is one. -/
def askCore (c : Asker) : Option Nat := c.bind (fun c => if c < 65536 then some c else none)

/-- Keeps an entry in the asker's TLBs. -/
def tlbKeep (s : State) (c : Asker) (e : TlbEnt) : State :=
  if c.isNone then s
  else
    let s := match askCore c with
      | some c => s.modCore c (fun k => { k with tlb := tlbPut k.tlb e 256 })
      | none => s
    s.modCluster (askCluster c) (fun k => { k with tlb2 := tlbPut k.tlb2 e 4096 })

/-- The addresses of the entries that a walk may use again at a level of a table: its own, and the others of a 64 KiB group; none with V
0 and none malformed (16 R355, R359). -/
def keptEntries (w : Walker) (s : State) (stage lvl tab idx : Nat) : List Nat :=
  let group := if lvl = 0 then ((List.range 16).map (fun j => tab + 8 * (idx / 16 * 16 + j))).filter (fun a =>
      (w.entry s a).testBit 8 && pteLeaf (w.entry s a)) else []
  ((tab + 8 * idx) :: group).filter (fun a => pteV (w.entry s a) && !pteBad stage lvl (w.entry s a))

/-- Addresses of the stage-2 entries that the translation of a guest physical address reads (16 R357). -/
def stage2Addrs (w : Walker) (s : State) (gpa : Nat) : Nat → Nat → List Nat
  | _, 0 => []
  | ta, lvl + 1 =>
    let idx := if lvl = 3 then bits gpa 51 39 else bits gpa (9 * lvl + 20) (9 * lvl + 12)
    let e := w.entry s (ta + 8 * idx)
    keptEntries w s 2 lvl ta idx ++
      (if pteV e && !pteBad 2 lvl e && !pteLeaf e then stage2Addrs w s gpa (pteAddr e) lvl else [])

/-- See stage2Addrs: none where stage 2 is the identity. -/
def guestAddrs (w : Walker) (s : State) (gpa : Nat) : List Nat :=
  let root := (s.func w.vf).s2root.toNat
  if root = 0 then [] else stage2Addrs w s gpa root 4

/-- Addresses of the entries of both stages that a walk reads (16 R357, R359). -/
def walkAddrs (w : Walker) (s : State) (va : Nat) : Nat → Nat → List Nat
  | _, 0 => []
  | ta, lvl + 1 =>
    let idx := bits va (9 * lvl + 20) (9 * lvl + 12)
    match stage2 w s (ta + 8 * idx) { bits := 1, u := false } true with
    | .page at_ _ _ =>
      let e := w.entry s at_
      guestAddrs w s (ta + 8 * idx) ++ keptEntries w s 1 lvl (at_ - 8 * idx) idx ++
        (if pteV e && !pteBad 1 lvl e then
          (if pteLeaf e then guestAddrs w s (pteAddr e + va % 2 ^ (if lvl = 0 then 12 else leafSize lvl))
           else walkAddrs w s va (pteAddr e) lvl)
         else [])
    | _ => []

/-- Keeps the table entries of a walk in the cluster's walk cache (16 R359). [log 100: DEDUCED, unsafe] -/
def walkKeep (s : State) (c : Asker) (w : Walker) (va : Nat) : State :=
  if c.isNone then s
  else
    let es := (walkAddrs { w with cache := [] } s va (s.func w.vf).s1root.toNat 5).map (fun a =>
      ({ vf := w.vf, spa := a, val := BitVec.ofNat 64 (tableEntry s a) } : WalkEnt))
    s.modCluster (askCluster c) (fun k =>
      { k with walk := es ++ k.walk.filter (fun x => !es.any (fun e => e.vf == x.vf && e.spa == x.spa)) })

/-- An entry of the asker's TLBs that translates and allows an access: the core's, then its cluster's. -/
def tlbFind (s : State) (c : Asker) (f va : Nat) (a : Acc) : Option TlbEnt :=
  if c.isNone then none
  else
    match (askCore c).bind (fun c => (s.core c).tlb.find? (fun e => e.hits f va && e.allows a)) with
    | some e => some e
    | none => (s.cluster (askCluster c)).tlb2.find? (fun e => e.hits f va && e.allows a)

/-- The core's own TLB holds an entry that translates and allows an access. -/
def l1Hit (s : State) (c : Asker) (f va : Nat) (a : Acc) : Bool :=
  (askCore c).any (fun c => (s.core c).tlb.any (fun e => e.hits f va && e.allows a))

/-- A miss of a core's own TLB is counted (17 R387). -/
def l1Missed (s : State) (c : Asker) (f : Nat) : State :=
  if (askCore c).isSome then countEvent s (askCluster c) f 6 1 else s

/-- An access of function f to va for an asker: from a TLB, else by a walk that may use the walk cache, else by a walk
afresh, which alone may fault; a replay goes straight to the last (16 R357, R359, R365). -/
def translate (s : State) (c : Asker) (p : Party) (f va : Nat) (a : Acc) (fresh : Bool) : State × Xlate :=
  match (if fresh then none else tlbFind s c f va a) with
  | some e => (tlbKeep (if l1Hit s c f va a then s else l1Missed s c f) c e, .ok e)
  | none =>
    let s := countEvent (l1Missed s c f) (askCluster c) f 7 1
    let cached : Walker := { vf := f, cache := (s.cluster (askCluster c)).walk, k := s.free }
    let first := if fresh || cached.cache.isEmpty then Xlate.refused 0 else walk cached s p va a
    let w : Walker := { vf := f, cache := [], k := s.free }
    let s' := { s with free := s.free + 1 }
    match first with
    | .ok e => (tlbKeep s' c e, .ok e)
    | _ =>
      match walk w s p va a with
      | .ok e => (walkKeep (tlbKeep s' c e) c w va, .ok e)
      | r => (s', r)

/-- A guest physical address of function f through its stage 2 alone (16 R357; 18 R391). -/
def translateGpa (s : State) (f gpa : Nat) (a : Acc) : State × Walk :=
  ({ s with free := s.free + 1 }, stage2 { vf := f, cache := [], k := s.free } s gpa a false)

/-! ## Page requests -/

/-- Outstanding requests of a function and stage that have their record. -/
def outstanding (s : State) (f stage : Nat) : Nat :=
  (s.reqs.filter (fun r => r.vf == f && r.stage == stage && r.written)).length

/-- Ring entries of a function's stage. -/
def prqN (x : Func) (stage : Nat) : Nat := if stage = 1 then x.prq1n else x.prq2n

/-- INFO of a record (16 R361). -/
def PageReq.info (r : PageReq) : Nat :=
  r.stage + 4 * r.cause + (if r.table then 16 else 0) + (if r.meta_ then 32 else 0) + (if r.levelU then 64 else 0)

/-- The bytes of a record (16 R361). -/
def PageReq.bytes (r : PageReq) (seq qpos : W32) : List Byte :=
  leBytes 8 (if r.meta_ then 0 else r.va / 4096 * 4096) ++ leBytes 8 (if r.stage = 2 then r.gpa / 4096 * 4096 else 0) ++
  leBytes 3 0 ++ leBytes 1 r.acc ++ leBytes 1 r.info ++ leBytes 1 r.vf ++ leBytes 2 r.core ++
  leBytes 4 seq.toNat ++ leBytes 4 qpos.toNat

/-- A record that the part writes by itself, for function f, at a system physical address where party p may write: into HBM4, or behind a
port or a peer, which stage 2 alone governs; none where the write may not be performed (16 R418; 17 R383; 18 R394). -/
def partWrite (s : State) (p : Party) (f a : Nat) (b : List Byte) : Option State :=
  match targetOf f .u a with
  | .hbm a => if s.writable p a then some (selfWrite s partWriter a b) else none
  | .port n x => some (s.send (.hostWrite n x f b))
  | .peer node x =>
    match peerSub s node x with
    | some _ => none
    | none => some (sendReq s { tid := 0, node := node, link := 0, who := none, cmd := none, chunk := none, addr := x / 64 * 64,
                                len := b.length, since := 0, got := none } (writeFlit s node x b [] 1))
  | _ => none

/-- Where the next record of a stage goes, none where stage 2 does not permit it (16 R418). -/
def prqSlot (s : State) (r : PageReq) : Option Nat :=
  let x := s.func r.vf
  if r.stage = 1 then
    match stage2 { vf := r.vf, cache := [], k := s.free } s
        (x.prq1.toNat + 32 * (x.qpos1.toNat % x.prq1n)) { bits := 2, u := false } false with
    | .page a _ _ => some a
    | _ => none
  else some (x.prq2.toNat + 32 * (x.qpos2.toNat % x.prq2n))

/-- Advances the ring position of a stage. -/
def Func.advance (x : Func) (stage : Nat) : Func :=
  if stage = 1 then { x with qpos1 := x.qpos1 + 1 } else { x with qpos2 := x.qpos2 + 1 }

/-- Writes the record of request r, which takes the sequence counter's value; a record that may not be written is answered
as if refused, counted and logged (16 R361, R362, R418). -/
def writeRecord (s : State) (r : PageReq) : State :=
  let x := s.func r.vf
  let seq := x.seq
  let r' := { r with seq := seq, written := true }
  let qpos := (if r.stage = 1 then x.qpos1 else x.qpos2) + 1
  match (prqSlot s r).bind (fun a => partWrite s (if r.stage = 1 then .fn r.vf .u else .host) r.vf a (r.bytes seq qpos)) with
  | some s =>
    let s := { s with reqs := s.reqs.map (fun (q : PageReq) => if q.ticket = r.ticket then r' else q) }
    let s := s.modFunc r.vf (fun x => { (x.advance r.stage) with seq := x.seq + 1 })
    let s := countEvent s r.cluster r.vf 8 1
    if r.stage = 1 then msixEvent s r.vf 0 else msixEvent s 0 1
  | none =>
    let s := { s with reqs := s.reqs.filter (fun (q : PageReq) => q.ticket != r.ticket),
                      answers := s.answers.ins r.ticket (.refuse r.stage seq), free := s.free + 1 }
    let s := s.modFunc r.vf (fun x => { x with seq := x.seq + 1, err := { x.err with prq := satInc64 x.err.prq } })
    elog s 8 r.vf 0 r.core (BitVec.ofNat 64 r.va) 0

/-- Queues a page request, or joins the outstanding one of its cluster, stage, cause and page; a fault that finds the ring
full waits without a record (16 R361 to R363). The ticket names it in this model. [log 99: DEDUCED, unsafe] -/
def request (s : State) (c : Asker) (f stage cause : Nat) (table meta_ : Bool) (a : Acc) (va gpa : Nat) : State × Nat :=
  let cl := askCluster c
  let key (r : PageReq) : Nat := if r.stage = 1 then r.va / 4096 else r.gpa / 4096
  let page := if stage = 1 then va / 4096 else gpa / 4096
  match s.reqs.find? (fun r => r.vf == f && r.cluster == cl && r.stage == stage && r.cause == cause && key r == page) with
  | some r => (s, r.ticket)
  | none =>
    let r : PageReq :=
      { ticket := s.nextTicket, vf := f, stage := stage, cause := cause, table := table, meta_ := meta_, levelU := a.u,
        acc := a.bits, cluster := cl, core := (askCore c).getD 0xFFFF, va := va, gpa := gpa, seq := 0, written := false }
    let full := decide (prqN (s.func f) stage ≤ outstanding s f stage)
    let s := { s with reqs := s.reqs ++ [r], nextTicket := s.nextTicket + 1 }
    (if full then s else writeRecord s r, r.ticket)

/-- The request of a translation fault. [log 85: DEDUCED, unsafe] -/
def requestOf (s : State) (c : Asker) (f va : Nat) (a : Acc) (stage cause : Nat) (table : Bool) (gpa : Nat) : State × Nat :=
  request s c f stage cause table false (if table then { a with bits := 1 } else a) va gpa

/-- Writes records of faults that waited for a place in a ring, oldest first (16 R362). -/
def flushRequests (s : State) (f stage : Nat) : State :=
  (s.reqs.filter (fun r => r.vf == f && r.stage == stage && !r.written)).foldl (fun s r =>
    if outstanding s f stage < prqN (s.func f) stage then writeRecord s r else s) s

/-- The tickets of a list that have no answer yet. -/
def unanswered (s : State) (ts : List Nat) : List Nat := ts.filter (fun t => (s.answers.get? t).isNone)
/-- The first refusal among the answers of a list: stage and SEQ. -/
def refusalOf (s : State) (ts : List Nat) : Option (Nat × W32) :=
  ts.findSome? (fun t => match s.answers.get? t with | some (.refuse st q) => some (st, q) | _ => none)

/-! ## Addresses -/

/-- A canonical virtual address (03 R61). -/
def canonical (va : W64) : Bool := va.extractLsb' 57 7 == (if va.getLsbD 56 then 0x7F else 0)
/-- The register window (03 R63). -/
def inWindow (va : W64) : Bool := va.extractLsb' 40 24 == 0xFF0000
/-- The heap aperture (12 R281). -/
def inHeap (va : W64) : Bool := va.extractLsb' 34 30 == 0x3FC00040

end Sys2Proof.Machine
end

