-- ==== Sys2Proof/Machine/Memory.lean ====
section
/-! DEFINITION. Where bytes are: the home slices, L1 copies and write queues, the typed local buffers, poison, and the
debug ring with its records (03 R67 to R72, R83, R84; 17 R380 to R384). -/

namespace Sys2Proof.Machine

/-! ## Debug records -/

/-- A debug ring record (17 R382); fields not named by a kind are zero. -/
structure DbgRec where
  kind : Nat
  cause : Nat := 0
  core : Nat := 0
  wave : Nat := 0
  gang : Nat := 0
  eng : Nat := 0
  spo : W32 := 0
  off : Nat := 31
  skid : Nat := 0
  unit : Nat := 0xFF
  reasons : Nat := 0
  mask : Mask := 0
  addr : W64 := 0
  old : W64 := 0
  new : W64 := 0
  rseq : W32 := 0
  cmd : W32 := 0
  bmask : Nat := 0
  slice : Nat := 0
  lane : Nat := 0xFF
  lrm : Nat := 0
  deriving DecidableEq, Repr

/-- Its 64 bytes at a ring position. -/
def DbgRec.bytes (r : DbgRec) (rpos : W32) : List Byte :=
  leBytes 4 rpos.toNat ++ leBytes 1 r.kind ++ leBytes 1 r.cause ++ leBytes 2 r.core ++ leBytes 1 r.wave ++
  leBytes 1 r.gang ++ leBytes 2 r.eng ++ leBytes 4 r.spo.toNat ++ leBytes 1 r.off ++ leBytes 1 r.skid ++
  leBytes 1 r.unit ++ leBytes 1 r.reasons ++ leBytes 4 r.mask.toNat ++ leBytes 8 r.addr.toNat ++
  leBytes 8 r.old.toNat ++ leBytes 8 r.new.toNat ++ leBytes 4 r.rseq.toNat ++ leBytes 4 r.cmd.toNat ++
  leBytes 1 r.bmask ++ leBytes 1 r.slice ++ leBytes 1 r.lane ++ leBytes 1 0 ++ leBytes 2 r.lrm ++ leBytes 2 0

/-- LOST advances (17 R383, R386). -/
def dbgLost (s : State) (f : Nat) : State :=
  s.modFunc f (fun x => { x with dbg := { x.dbg with lost := satInc32 x.dbg.lost } })

/-- The trace unit bound to a function. -/
def traceUnit (s : State) (f : Nat) : Option TraceUnit := (s.tracers.find? (fun p => p.2.vf == f)).map Prod.snd

/-- A session of function f is suspended by the hypervisor (17 R386). -/
def traceSuspended (s : State) (f : Nat) : Bool := s.tracers.any (fun p => p.2.susp == some f)

/-- The ring is on (17 R376, R383). -/
def Debug.ringOn (d : Debug) : Bool := d.ringbase.toNat % 4096 == 0 && pow2In d.ringn.toNat 64 65536

/-- Places a record in function f's ring (17 R383): nothing where the ring is off; dropped with LOST where it is full, or where
the ring's page may not be written. -/
def dbgPlace (s : State) (f : Nat) (r : DbgRec) : State :=
  let d := (s.func f).dbg
  if d.ringOn = false then s
  else
    let p := d.head + 1
    if d.ringn < p - d.tail then dbgLost s f
    else
      match stage2 { vf := f, cache := [], k := s.free } s (d.ringbase.toNat + 64 * ((p - 1).toNat % d.ringn.toNat))
          { bits := 2, u := false } false with
      | .page a _ _ =>
        match partWrite s (.fn f .h) f a (r.bytes p) with
        | some s => msixEvent (s.modFunc f (fun x => { x with dbg := { x.dbg with head := p } })) f 2
        | none => dbgLost s f
      | _ => dbgLost s f

/-- A report of function f (17 R383, R386): into its ring, or function 0's while the hypervisor holds its trace unit; a
suspended session's LOST advances. -/
def debugRecord (s : State) (f : Nat) (r : DbgRec) : State :=
  let s := if traceSuspended s f && (s.func f).dbg.ringOn then dbgLost s f else s
  match traceUnit s f with
  | none => s
  | some t => dbgPlace s (if t.h then 0 else f) r

/-! ## The home slices -/

/-- The home slice of a line (03 R69). -/
def homeSlice (a : Nat) : Nat :=
  (List.range 6).foldl (fun x k => x ^^^ bits a (7 * k + 12) (7 * k + 6)) 0

/-- A lane as a writer. -/
def laneWriter (core wave gang : Nat) (spo : W32) (off lane : Nat) : Writer :=
  { core, wave, gang, spo, off, lane, kind := 0, cmd := 0 }
/-- A host or peer as a writer (17 R382). -/
def hostWriter : Writer :=
  { core := 0xFFFF, wave := 0xFF, gang := 0xFF, spo := 0xFFFFFFFF, off := 31, lane := 0xFF, kind := 3, cmd := 0 }
/-- An engine as a writer. -/
def engineWriter (b : Issuer) (core : Nat) (ordinal : W32) : Writer :=
  { core := core, wave := b.wave, gang := b.gang, spo := 0xFFFFFFFF, off := 31, lane := 0xFF, kind := 1, cmd := ordinal }

/-- The VALUE record of one aligned 8-byte part (17 R384). -/
def valueRec (w : Writer) (unit slice : Nat) (va old new : W64) (bmask : Nat) (rseq : W32) : DbgRec :=
  { kind := 4, core := w.core, wave := w.wave, gang := w.gang,
    eng := w.kind * 4096 + (if w.kind = 2 then slice else if w.kind = 3 ∨ w.core = 0xFFFF then 0 else w.core % 4096),
    spo := w.spo, off := w.off, unit := unit, addr := va, old := old, new := new, rseq := rseq, cmd := w.cmd,
    bmask := bmask, slice := slice, lane := w.lane }

/-- Changes region r of function f's debug page. -/
def State.modVtr (s : State) (f r : Nat) (g : Vtr → Vtr) : State :=
  s.modFunc f (fun x => { x with dbg := { x.dbg with vtrs := listAdj x.dbg.vtrs r g } })

/-- VALUE records of region r of function f for a write of n bytes at spa but those at positions hs, memory before and after; w
tells who wrote the bytes from one position up to another. The bytes armed are those that stood at arming (17 R384). -/
def valueRegion (s : State) (old new : List Host.Cell) (w : Nat → Nat → Writer) (spa n : Nat) (hs : List Nat) (f r : Nat) (v : Vtr) :
    State :=
  match v.pages.find? (fun p => p.1 == spa / 4096) with
  | none => s
  | some (_, vp) =>
    let sl := homeSlice spa
    let va := vp * 4096 + spa % 4096
    ((List.range 9).map (fun k => va / 8 * 8 + 8 * k)).foldl (fun s part =>
      let m := (List.range 8).foldl (fun m i =>
        if va ≤ part + i ∧ part + i < va + n ∧ v.lo ≤ part + i ∧ part + i < v.hi ∧
           hs.contains (part + i - va) = false
        then m + 2 ^ i else m) 0
      if m = 0 then s
      else
        let a := spa - va % 4096 + part % 4096
        let q := Tab.get 0 (((s.func f).dbg.vtrs.getD r default).rseq) sl
        let rec_ := valueRec (w (part - va) (part + 8 - va)) r sl (BitVec.ofNat 64 part) (BitVec.ofNat 64 (leNat (memBytes old a 8)))
          (BitVec.ofNat 64 (leNat (memBytes new a 8))) m q
        debugRecord (s.modVtr f r (fun v => { v with rseq := Tab.put 0 v.rseq sl (q + 1) })) f rec_) s

/-- VALUE records of every armed region a write touches (17 R384). -/
def valueTrace (s : State) (old new : List Host.Cell) (w : Nat → Nat → Writer) (spa n : Nat) (hs : List Nat) : State :=
  s.funcs.foldl (fun s p =>
    (p.2.dbg.vtrs.zipIdx).foldl (fun s q =>
      if q.1.pages.isEmpty then s else valueRegion s old new w spa n hs p.1 q.2 q.1) s) s

/-- VALUE records of the writes that the part made by itself, oldest first, and of those that writing a record makes (17 R384). -/
def flushSelf : Nat → State → State
  | 0, s => s
  | n + 1, s =>
    match s.selfWrites with
    | [] => s
    | x :: r => flushSelf n (valueTrace { s with selfWrites := r } x.old x.new (fun _ _ => x.wr) x.spa x.len [])

/-- Bytes of a write but those at some positions, from address a of memory up. -/
def memPutsBut (hs : List Nat) : List Host.Cell → Nat → Nat → List Byte → List Host.Cell
  | m, _, _, [] => m
  | m, a, i, b :: r => memPutsBut hs (if hs.contains i then m else memPut m (a + i) b) a (i + 1) r

/-- A write of one line performed at the home slice, in one step: the bytes but those at positions hs; one that covers the line
clears its poison (03 R64, R84; 04 R90). -/
def homeWriteBy (s : State) (w : Nat → Nat → Writer) (spa : Nat) (bytes : List Byte) (hs : List Nat) : State :=
  let before := s.mem
  let s := homeTouch s (spa / 64)
  let s := { s with mem := if hs.isEmpty then memPuts s.mem spa bytes else memPutsBut hs s.mem spa 0 bytes,
                    memPois := if bytes.length = 64 ∧ hs.isEmpty = true then setDel s.memPois (spa / 64) else s.memPois,
                    llcPois := if bytes.length = 64 ∧ hs.isEmpty = true then s.llcPois.filter (fun i => i / 16 != spa / 64)
                      else s.llcPois,
                    eccs := s.eccs.filter (fun a => !(decide (spa ≤ a ∧ a < spa + bytes.length) && !hs.contains (a - spa))) }
  valueTrace s before s.mem w spa bytes.length hs

/-- A write by one writer performed at the home slice (03 R84; 04 R90). -/
def homeWrite (s : State) (w : Writer) (spa : Nat) (bytes : List Byte) : State := homeWriteBy s (fun _ _ => w) spa bytes []

/-- Poison of the line of an address, or of a word of it in the LLC (03 R83; 18 R404). -/
def State.linePois (s : State) (spa : Nat) : Bool := s.memPois.contains (spa / 64) || s.llcPois.any (fun i => i / 16 == spa / 64)

/-- Poison of n bytes from an address: of their lines, and of their words in the LLC. -/
def State.bytePois (s : State) (a : Nat) : Bool := s.memPois.contains (a / 64) || s.llcPois.contains (a / 4)
/-- See State.bytePois. -/
def State.poisAt (s : State) (a n : Nat) : Bool := (List.range n).any (fun i => s.bytePois (a + i))
/-- The poisoned positions of n bytes from an address. -/
def State.poisIn (s : State) (a n : Nat) : List Nat := (List.range n).filter (fun i => s.bytePois (a + i))

/-- STATE of a metadata word; a word with reserved bits set counts as poisoned (03 R80). -/
def metaState (w : Nat) : Nat := if bits w 31 2 ≠ 0 then 3 else bits w 1 0

/-! ## L1 copies and write queues -/

/-- A line as a home slice delivers it. -/
def homeLine (s : State) (line : Nat) : Line :=
  { data := BitVec.ofNat 512 (leNat (s.bytesAt (64 * line) 64)), poison := s.memPois.contains line,
    words := (s.llcPois.filter (fun i => i / 16 == line)).map (· % 16) }

/-- A byte of a line is poisoned. -/
def Line.pois (l : Line) (i : Nat) : Bool := l.poison || l.words.contains (i / 4)

/-- Bytes of a line. -/
def Line.bytes (l : Line) : List Byte := (List.range 64).map (fun i => l.data.extractLsb' (8 * i) 8)
/-- The system physical address of a target in HBM4. -/
def Target.spa? : Target → Option Nat
  | .hbm a => Option.some a
  | .heap a => Option.some a
  | _ => Option.none

/-- What a target lies in, as a number for HBM4, each host port, each peer and each register block, and its address there. -/
def Target.place? : Target → Option (Nat × Nat)
  | .hbm a => Option.some (0, a)
  | .heap a => Option.some (0, a)
  | .port n a => Option.some (1 + n, a)
  | .peer n a => Option.some (3 + n, a)
  | .regs f o => Option.some (1024 + f, o)
  | _ => Option.none

/-- Entries of a core's write queue that touch a line. -/
def wqLine (k : Core) (line : Nat) : List WqEntry :=
  k.wq.filter (fun e => match e.tgt.spa? with | some a => a / 64 == line | none => false)

/-- The runs of positions below n that a list of holes leaves: first and number. -/
def runsOf (n : Nat) (hs : List Nat) : List (Nat × Nat) :=
  (List.range n).foldl (fun r i =>
    if hs.contains i then r
    else match r.getLast? with
      | some (o, k) => if o + k = i then r.dropLast ++ [(o, k + 1)] else r ++ [(i, 1)]
      | none => [(i, 1)]) []

/-- Position i of an entry carries a byte. -/
def WqEntry.has (e : WqEntry) (i : Nat) : Bool := decide (i < e.bytes.length) && !e.holes.contains i

/-- A line after an entry's bytes from offset o of it, whose poison they bring or, covering the line, clear (03 R67, R84). -/
def Line.store (l : Line) (o : Nat) (e : WqEntry) : Line :=
  let bs := (List.range 64).map (fun i =>
    if o ≤ i ∧ e.has (i - o) = true then e.bytes.getD (i - o) 0 else l.data.extractLsb' (8 * i) 8)
  { data := BitVec.ofNat 512 (leNat bs),
    poison := (l.poison && !(e.bytes.length == 64 && e.holes.isEmpty)) || !e.poison.isEmpty,
    words := if e.bytes.length == 64 && e.holes.isEmpty then [] else l.words }

/-- Drops a core's L1 copy of a line. [log 43: DESIGN CHOICE, unsafe] -/
def dropL1 (s : State) (c line : Nat) : State := s.modCore c (fun k => { k with l1 := k.l1.del line })

/-- The byte at address a of a place as a core's wave sees it, and its poison: from the newest queued store to it, else as found
(03 R67). -/
def forwardedAt (k : Core) (place a : Nat) (b : Byte × Bool) : Byte × Bool :=
  k.wq.foldl (fun b e =>
    match e.tgt.place? with
    | some (p, x) => if p = place ∧ x ≤ a ∧ e.has (a - x) = true then (e.bytes.getD (a - x) 0, e.poison.contains (a - x)) else b
    | none => b) b

/-- The byte of HBM4 at a as a core's wave sees it (03 R67). -/
def forwarded (k : Core) (a : Nat) (b : Byte × Bool) : Byte × Bool := forwardedAt k 0 a b

/-- Bytes of a place from a up as a core's waves see them over what was found there (03 R67). -/
def forwardAll (k : Core) (place a : Nat) (bs : List Byte) : List Byte :=
  bs.zipIdx.map (fun b => (forwardedAt k place (a + b.2) (b.1, false)).1)

/-- A line as it fills a core's L1: as its home slice delivers it, with the core's own queued stores to it, which the core has
already seen (03 R67; 04 R99, R100). -/
def fillLine (s : State) (c line : Nat) : Line :=
  (wqLine (s.core c) line).foldl (fun l e => match e.tgt.spa? with | some a => l.store (a % 64) e | none => l) (homeLine s line)

/-- The line a core reads: its L1 copy, or the home slice's, which fills the L1 (03 R67); misses count (17 R387). [log 137: DESIGN CHOICE, unsafe] -/
def coreLine (s : State) (c vf line : Nat) : State × Line :=
  match (s.core c).l1.get? line with
  | some l => (s, l)
  | none =>
    let l := fillLine s c line
    (countEvent ((homeTouch s line).modCore c (fun k =>
      { k with l1 := Tab.ins (if 2048 ≤ k.l1.length then k.l1.drop 1 else k.l1) line l })) (clusterOf c) vf 5 1, l)

/-- A plain read of n bytes at a by core c: each byte, and whether it is poisoned (03 R67, R84). -/
def coreBytes (s : State) (c vf a n : Nat) : State × List (Byte × Bool) :=
  let (s, l) := coreLine s c vf (a / 64)
  let k := s.core c
  (s, (List.range n).map (fun i => forwarded k (a + i) (l.data.extractLsb' (8 * ((a + i) % 64)) 8, l.pois ((a + i) % 64))))

/-- See coreBytes: the bytes, and whether any is poisoned. [log 129: DESIGN CHOICE, unsafe] -/
def coreRead (s : State) (c vf a n : Nat) : State × List Byte × Bool :=
  let (s, bs) := coreBytes s c vf a n
  (s, bs.map Prod.fst, bs.any Prod.snd)

/-- A store enters the core's write queue and updates an L1 copy (03 R67); the entry's number. -/
def enqueue (s : State) (c : Nat) (e : WqEntry) : State × Nat :=
  let id := (s.core c).nextWq
  (s.modCore c (fun k =>
    { k with
      wq := k.wq ++ [{ e with id := id }], nextWq := id + 1,
      l1 := match e.tgt.spa? with
        | some a => k.l1.adj (a / 64) (fun l => l.store (a % 64) e)
        | none => k.l1 }), id)

/-- Invalidates every line of a core's L1 (03 R68). -/
def invalidateL1 (s : State) (c : Nat) : State := s.modCore c (fun k => { k with l1 := [] })

/-- What an acquire at a scope does to the core's L1: every line at CLUS or wider, nothing below (03 R68; 04 R95). -/
def acquireAt (s : State) (c scope : Nat) : State := if 4 ≤ scope then invalidateL1 s c else s

/-- A core's write goes out to a host port, which from then on has a write its zero-length read must follow (18 R394, R395). -/
def portWrite (s : State) (c port a f : Nat) (b : List Byte) : State :=
  (s.modCore c (fun k => { k with unread := k.unread ||| (1 : BitVec 2) <<< port })).send (.hostWrite port a f b)

/-- A release at a scope need not wait for a zero-length read: at HOST and SYS each port written has had one (18 R395). -/
def portsRead (k : Core) (scope : Nat) : Bool := decide (scope < 10) || k.unread == 0

/-- A zero-length read of a host port is sent, and completes (18 R395); none where the port has no write before it. [log 142: DESIGN CHOICE, unsafe] -/
def flushPort (s : State) (c port : Nat) : Option State :=
  let k := s.core c
  if port < 2 ∧ k.unread.getLsbD port = true then
    some ((s.modCore c (fun k => { k with unread := k.unread &&& ~~~((1 : BitVec 2) <<< port) })).send (.hostRead port 0 (k.vf.getD 0) 0))
  else none

/-- A queued store may be outstanding across a release at a scope: at CLUS to WORLD those to HBM4, at HOST and SYS all
(03 R68; 04 R94). -/
def releaseWaitsFor (scope : Nat) (e : WqEntry) : Bool :=
  decide (10 ≤ scope) || (decide (4 ≤ scope) && e.tgt.spa?.isSome)

/-! ## Local buffers -/

/-- The four typed local buffers (03 R70). -/
inductive Buf where
  | g | w | x | z
  deriving DecidableEq, Repr, Inhabited

/-- Bytes of a buffer as a gang addresses it (03 R70). -/
def bufSize (s : State) (c gang : Nat) (b : Buf) : Nat :=
  match b with
  | .g => match s.gang? c gang with | some g => g.launch.gkib * 1024 | none => 0
  | .w => 0x100000
  | .x => 0x80000
  | .z => 0x80000

/-- The cells and poisoned words of a byte buffer. -/
def bufCells (s : State) (c gang : Nat) (b : Buf) : List Host.Cell × List Nat :=
  match b with
  | .g => match s.gang? c gang with | some g => (g.g, g.gpois) | none => ([], [])
  | .w => ((s.core c).w, (s.core c).wpois)
  | .x => ((s.core c).x, (s.core c).xpois)
  | .z => ([], [])

/-- n bytes of G, W or X from an offset, and whether a poisoned word is touched (03 R83, R84). -/
def locRead (s : State) (c gang : Nat) (b : Buf) (o n : Nat) : List Byte × Bool :=
  let (m, p) := bufCells s c gang b
  (memBytes m o n, (List.range ((o + n + 3) / 4 - o / 4)).any (fun k => p.contains (o / 4 + k)))

/-- Words wholly inside [o, o + n). -/
def wholeWords (o n : Nat) : List Nat :=
  (List.range ((o + n) / 4 - (o + 3) / 4)).map (fun k => (o + 3) / 4 + k)

/-- Writes bytes to G, W or X; a whole word's poison clears (03 R84). -/
def locWrite (s : State) (c gang : Nat) (b : Buf) (o : Nat) (bytes : List Byte) : State :=
  let clear (p : List Nat) : List Nat := (wholeWords o bytes.length).foldl setDel p
  match b with
  | .g => s.modGang c gang (fun g => { g with g := memPuts g.g o bytes, gpois := clear g.gpois })
  | .w => s.modCore c (fun k => { k with w := memPuts k.w o bytes, wpois := clear k.wpois })
  | .x => s.modCore c (fun k => { k with x := memPuts k.x o bytes, xpois := clear k.xpois })
  | .z => s

/-- Marks the words that receive poisoned bytes: positions ps from offset o (03 R83). -/
def locPoison (s : State) (c gang : Nat) (b : Buf) (o : Nat) (ps : List Nat) : State :=
  let mark (p : List Nat) : List Nat := ps.foldl (fun p i => setIns p ((o + i) / 4)) p
  match b with
  | .g => s.modGang c gang (fun g => { g with gpois := mark g.gpois })
  | .w => s.modCore c (fun k => { k with wpois := mark k.wpois })
  | .x => s.modCore c (fun k => { k with xpois := mark k.xpois })
  | .z => s

/-- Chunk bits of commands of a wave that the Ladle has not accepted yet: the bitmap's G offset and the number of bits (04 R108;
10 R230, R234). -/
def pendingBits (k : Core) (uid : Nat) : List (Nat × Nat) :=
  (k.ladle.filter (fun q => q.by_.uid == uid && !q.accepted && q.f.m 6 1 == 1)).filterMap (fun q =>
    let t := if q.opc = 0xD6 then q.ta else q.tb
    let n (lo len : Nat) : Nat := (t.extractLsb' lo len).toNat
    if n 253 3 = 0 then none
    else
      let off := n 0 20
      some (q.f.imm.toNat, (off + (n 216 16 - 1) * n 176 20 + n 196 20 - off / 512 * 512 + 511) / 512))

/-- Bytes read at G offset o with some chunk bits clear. -/
def clearBits (ps : List (Nat × Nat)) (o : Nat) (bs : List Byte) : List Byte :=
  if ps.isEmpty then bs
  else (bs.zipIdx).map (fun b =>
    (List.range 8).foldl (fun x j =>
      if ps.any (fun p => decide (p.1 ≤ o + b.2 ∧ (o + b.2 - p.1) * 8 + j < p.2)) then x &&& ~~~((1 : Byte) <<< j) else x) b.1)

/-- A local read by a wave: from the issue of a Ladle command it sees the command's chunk bits clear (04 R108). -/
def locReadFor (s : State) (c gang uid : Nat) (b : Buf) (o n : Nat) : List Byte × Bool :=
  let (bs, bad) := locRead s c gang b o n
  if b = .g then (clearBits (pendingBits (s.core c) uid) o bs, bad) else (bs, bad)

/-- A 32-bit word of Z. -/
def zRead (s : State) (c i : Nat) : W32 := Tab.get 0 (s.core c).z i
/-- Writes a word of Z; its poison clears. -/
def zWrite (s : State) (c i : Nat) (v : W32) : State :=
  s.modCore c (fun k => { k with z := Tab.put 0 k.z i v, zpois := setDel k.zpois i })

/-- The Z word of element offset o of a wave: o in bytes over its accumulators (03 R71); none outside them. -/
def zIndex (zmap : List Nat) (o : Int) : Option Nat :=
  if o < 0 then none
  else
    let n := o.toNat
    (zmap[n / 16384]?).map (fun slot => slot * 4096 + n % 16384 / 4)

/-! ## Names of waves -/

/-- The gang of a wave, where it is live. -/
def waveGang (s : State) (c : Nat) (w : Wave) : Option Gang := s.gang? c w.gang

/-- A poisoned read of one access of a lane: +0, and what R84 does (03 R84; 17 R387). -/
def poisonSeen (s : State) (c w l : Nat) (level : Level) (spo : W32) (off : Nat) (addr : W64) (vf : Nat) : State :=
  countEvent (notePoison s c w l { code := 12, sub := 0, spo := spo, off := off, aux := addr, aux2 := 0, level := level })
    (clusterOf c) vf 15 1

end Sys2Proof.Machine
end

