-- ==== Sys2Proof/Machine/Deckle.lean ====
section
/-! DEFINITION. The Deckle: graphs, their checks, their operators, and the back-reference decoder (10 R251 to R254). -/

namespace Sys2Proof.Machine

/-- An element of a stream: its bits, the scale byte that goes with it, whether it is poisoned, and whether a failed decoder chunk
should have produced it (10 R233, R252, R254). -/
structure El where
  v : Nat
  sc : Nat
  p : Bool
  h : Bool
  deriving DecidableEq, Repr, Inhabited

/-- An element of bits alone. -/
def El.of (v : Nat) : El := { v := v, sc := 0x7F, p := false, h := false }
/-- A result computed from two elements. -/
def El.from2 (v : Nat) (a b : El) : El := { v := v, sc := 0x7F, p := a.p || b.p, h := a.h || b.h }
/-- A result computed from one. -/
def El.from1 (v : Nat) (a : El) : El := El.from2 v a a

/-- A format code of R227. -/
def codeOk (c : Nat) : Bool := (Fmt.ofCode c).isSome || c == 30
/-- Bits of an element (05 R116; 10 R227). -/
def codeWidth (c : Nat) : Nat := if c = 30 then 8 else (fmtOf c).width
/-- A float format. -/
def codeFloat (c : Nat) : Bool := c != 30 && (fmtOf c).isFloat
/-- An integer format. -/
def codeInt (c : Nat) : Bool := c != 30 && !(fmtOf c).isFloat

/-! ## Graphs -/

/-- A node (10 R251). -/
structure GNode where
  oper : Nat
  in0 : Nat
  in1 : Nat
  fin : Nat
  fout : Nat
  p0 : Nat
  p1 : Nat
  p2 : Nat
  deriving DecidableEq, Repr, Inhabited

/-- Node n of a graph record. -/
def nodeAt (g : List Byte) (n : Nat) : GNode :=
  let o := 16 + 20 * n
  { oper := recNat g o 1, in0 := recNat g (o + 1) 1, in1 := recNat g (o + 2) 1, fin := recNat g (o + 3) 1,
    fout := recNat g (o + 4) 1, p0 := recNat g (o + 8) 4, p1 := recNat g (o + 12) 4, p2 := recNat g (o + 16) 4 }

/-- The nodes of a graph record. -/
def graphNodes (g : List Byte) : List GNode := (List.range (recNat g 0 1)).map (nodeAt g)
/-- RM of a graph. -/
def graphRm (g : List Byte) : Nat := recNat g 1 1
/-- OVM of a graph is FIN. -/
def graphFin (g : List Byte) : Bool := recNat g 2 1 == 1

/-- An input names the source, nothing, a lower node, or port 1 of a lower SPLIT (10 R251). -/
def inputOk (ns : List GNode) (n i : Nat) : Bool :=
  i == 0xFE || i == 0xFF || decide (i < n) ||
  (decide (0x10 ≤ i ∧ i - 0x10 < n) && (ns.getD (i - 0x10) default).oper == 14)

/-- The format of the stream an input names. -/
def inputFmt (ns : List GNode) (src i : Nat) : Nat :=
  if i = 0xFE then src else (ns.getD (if i < 0x10 then i else i - 0x10) default).fout

/-- Whether an operator takes a second input: never, always, or either (10 R252). -/
def inputsOk (oper in1 : Nat) : Bool :=
  if oper = 4 ∨ oper = 15 then in1 != 0xFF
  else if oper = 10 ∨ oper = 12 ∨ oper = 13 then true
  else in1 == 0xFF

/-- Parameters in range, and those the operator does not use zero (10 R252). -/
def paramsOk (n : GNode) : Bool :=
  let none1 := n.p1 == 0 && n.p2 == 0
  match n.oper with
  | 2 => decide (n.p0 ≤ 1) && none1
  | 3 => decide (1 ≤ n.p0 ∧ n.p0 ≤ 64 ∧ 1 ≤ n.p1 ∧ n.p1 ≤ 64) && n.p2 == 0
  | 4 => decide (1 ≤ n.p0 ∧ n.p0 ≤ 4096) && none1
  | 8 => none1
  | 9 => none1
  | 10 => none1 && (n.in1 == 0xFF || n.p0 == 0)
  | 11 => n.p2 == 0
  | 12 => none1 && (n.in1 == 0xFF || n.p0 == 0)
  | 13 => none1 && (n.in1 == 0xFF || n.p0 == 0)
  | 14 => decide (1 ≤ n.p0 ∧ n.p0 ≤ 4096) && none1
  | 15 => none1
  | _ => n.p0 == 0 && none1

/-- FIN and FOUT in the operator's set (10 R252). -/
def formatsOk (n : GNode) : Bool :=
  let same := n.fin == n.fout
  let arith := (codeFloat n.fin && codeFloat n.fout) || (codeInt n.fin && codeInt n.fout)
  let scaled (c : Nat) : Bool := c == 3 || c == 4 || c == 5
  match n.oper with
  | 1 => n.fin != 30 && n.fout != 30
  | 2 => if n.p0 = 0 then n.fin == 0 && scaled n.fout else scaled n.fin && n.fout == 0
  | 5 => same && n.fin == 30
  | 6 => same && n.fin == 30
  | 7 => same && n.fin == 30
  | 8 => arith
  | 9 => arith
  | 11 => same && n.fin != 30
  | 12 => arith
  | 13 => arith
  | _ => same

/-- A node's own checks, given the graph and the source's format (10 R251, R252). [log 63: DEDUCED, unsafe] -/
def nodeOk (g : List Byte) (ns : List GNode) (src k : Nat) : Bool :=
  let n := ns.getD k default
  decide (n.oper ≤ 15) && recNat g (16 + 20 * k + 5) 3 == 0 && codeOk n.fin && codeOk n.fout &&
  n.in0 != 0xFF && inputOk ns k n.in0 && inputOk ns k n.in1 && inputsOk n.oper n.in1 && paramsOk n && formatsOk n &&
  inputFmt ns src n.in0 == n.fin && (n.in1 == 0xFF || inputFmt ns src n.in1 == n.fin) &&
  (n.oper != 7 || (k == 0 && n.in0 == 0xFE))

/-- A graph passes R251 and R252 for a source format. -/
def graphOk (g : List Byte) (src : Nat) : Bool :=
  let k := recNat g 0 1
  let ns := graphNodes g
  decide (1 ≤ k ∧ k ≤ 12) && decide (graphRm g ≤ 3) && decide (recNat g 2 1 ≤ 1) &&
  ((g.drop 3).take 13).all (· == 0) && (g.drop (16 + 20 * k)).all (· == 0) &&
  (List.range k).all (nodeOk g ns src) && (ns.getD (k - 1) default).oper != 14

/-! ## The back-reference stream -/

/-- A varint of one to four bytes: its value and the rest (10 R253). -/
def varint : Nat → List Nat → Option (Nat × List Nat)
  | 0, _ => none
  | _, [] => none
  | n + 1, b :: r => if b < 128 then some (b, r) else (varint n r).map (fun p => (b % 128 + 128 * p.1, p.2))

/-- Copies n bytes one at a time from d bytes back in the output, held newest first (10 R253). -/
def backCopy (d : Nat) : Nat → List Nat → List Nat
  | 0, out => out
  | n + 1, out => backCopy d n (out.getD (d - 1) 0 :: out)

/-- The tokens of a chunk: the output of size bytes, newest first while it grows (10 R253, R254). -/
def lzTokens (size : Nat) : Nat → List Nat → List Nat → Option (List Nat)
  | _, [], out => if out.length = size then some out.reverse else none
  | 0, _ :: _, _ => none
  | k + 1, t :: r, out =>
    match (if t / 32 = 7 then (varint 4 r).map (fun p => (7 + p.1, p.2)) else some (t / 32, r)) with
    | none => none
    | some (lits, r) =>
      if r.length < lits ∨ size < out.length + lits then none
      else
        let out := (r.take lits).reverse ++ out
        match r.drop lits with
        | [] => if t % 32 ≠ 0 then none else if out.length = size then some out.reverse else none
        | r =>
          match varint 4 r with
          | none => none
          | some (d, r) =>
            match (if t % 32 = 31 then (varint 4 r).map (fun p => (34 + p.1, p.2)) else some (t % 32 + 3, r)) with
            | none => none
            | some (len, r) =>
              if d = 0 ∨ out.length < d ∨ size < out.length + len then none
              else lzTokens size k r (backCopy d len out)

/-- A malformed container header (10 R254). -/
def lzMalformed (b : List Nat) : Bool :=
  let n (o : Nat) : Nat := leNat (((b.drop o).take 4).map (BitVec.ofNat 8))
  let nch := n 0
  let cs := n 4
  decide (b.length < 16) || decide (nch < 1 ∨ 65536 < nch) || decide (cs % 512 ≠ 0 ∨ cs < 512 ∨ 1048576 < cs) ||
  decide (n 8 ≤ (nch - 1) * cs ∨ nch * cs < n 8) || decide (n 12 ≠ 0) || decide (b.length < 16 + 8 * nch)

/-- The decoder's output: elements, with failed chunks' ranges as holes, and the failed chunks (10 R254). -/
def lzDecode (src : List El) : List El × List Nat :=
  let b := src.map El.v
  let n (o : Nat) : Nat := leNat (((b.drop o).take 4).map (BitVec.ofNat 8))
  let cs := n 4
  (List.range (n 0)).foldl (fun (q : List El × List Nat) j =>
    let size := min cs (n 8 - j * cs)
    let off := n (16 + 8 * j)
    let len := n (20 + 8 * j)
    let part := (b.drop off).take len
    let bad := ((src.drop off).take len).any El.p
    match (if b.length < off + len then none else lzTokens size (len + 1) part []) with
    | some o => (q.1 ++ o.map (fun v => { (El.of v) with p := bad }), q.2)
    | none => (q.1 ++ List.replicate size { (El.of 0) with h := true }, q.2 ++ [j])) ([], [])

/-! ## Operators -/

/-- Element i of a stream, +0 beyond its end. -/
def elAt (s : List El) (i : Nat) : El := s.getD i (El.of 0)

/-- A value rounded, or an integer wrapped, to a format. -/
def toFmt (c rm : Nat) (fin : Bool) (r : Val × Exc) : Nat × Exc :=
  let (x, e) := roundV (fmtOf c) rm fin r.1
  (x, r.2 ||| e)

/-- One conversion (10 R252; 08 R190): integers wrap. -/
def cvtEl (fi fo rm : Nat) (fin : Bool) (a : El) : El × Exc :=
  if codeInt fi ∧ codeInt fo then (El.from1 (encodeI (fmtOf fo) (decodeI (fmtOf fi) a.v)) a, 0)
  else
    let (c, e, _) := convCode (fmtOf fo) (fmtOf fi) rm fin 0 a.v
    (El.from1 c a, e)

/-- Two elements combined, by an operation on values and one on integers. -/
def arithEl (fi fo rm : Nat) (fin : Bool) (fv : Val → Val → Val × Exc) (fi_ : Int → Int → Int) (a b : El) : El × Exc :=
  if codeInt fi then (El.from2 (encodeI (fmtOf fo) (fi_ (decodeI (fmtOf fi) a.v) (decodeI (fmtOf fi) b.v))) a b, 0)
  else
    let x := decodeF (fmtOf fi) a.v
    let y := decodeF (fmtOf fi) b.v
    let (c, e) := toFmt fo rm fin (fv x y)
    (El.from2 c a b, e)

/-- Maps elements and gathers bits. -/
def mapEl (s : List El) (g : El → El × Exc) : List El × Exc :=
  let r := s.map g
  (r.map Prod.fst, (r.map Prod.snd).foldl (· ||| ·) 0)

/-- TRANSPOSE: one tile's elements, column by column (10 R252). -/
def transposeTile (s : List El) (rows cols base : Nat) : List El :=
  (List.range cols).flatMap (fun c => (List.range rows).map (fun r => elAt s (base + r * cols + c)))

/-- The value of an element that MASK tests. -/
def elNonzero (c : Nat) (a : El) : Bool :=
  if codeFloat c then (match decodeF (fmtOf c) a.v with | .num x => x.n != 0 | _ => true) else a.v != 0

/-- PREFIX: running sums within segments, one rounding per step (10 R252). -/
def prefixEl (fi fo rm : Nat) (fin : Bool) (seg : Nat) : Nat → Option El → List El → List El × Exc
  | _, _, [] => ([], 0)
  | i, acc, a :: r =>
    let first := seg ≠ 0 ∧ i % seg = 0
    let (x, e) := match (if first then none else acc) with
      | none => cvtEl fi fo rm fin a
      | some q =>
        if codeInt fi then (El.from2 (encodeI (fmtOf fo) (decodeI (fmtOf fo) q.v + decodeI (fmtOf fi) a.v)) q a, 0)
        else
          let (c, e) := toFmt fo rm fin (addV rm (decodeF (fmtOf fo) q.v) (decodeF (fmtOf fi) a.v))
          (El.from2 c q a, e)
    let (xs, es) := prefixEl fi fo rm fin seg (i + 1) (some x) r
    (x :: xs, e ||| es)

/-- ELIDEX over a byte stream, by blocks (10 R252; 03 R82). A block whose metadata a failed decoder chunk should have produced is left out,
as is what comes of it (R234, R254). [log 143: DESIGN CHOICE, unsafe] -/
def elidex : Nat → List El → List El
  | 0, _ => []
  | k + 1, s =>
    if s.length < 8 then []
    else
      let w := leNat ((s.take 8).map (fun e => BitVec.ofNat 8 e.v))
      let bad := (s.take 8).any El.p
      let r := s.drop 8
      if (s.take 8).any El.h then List.replicate 256 { (El.of 0) with h := true } ++ elidex k r
      else match (if bad then 3 else metaState w) with
      | 0 => List.replicate 256 (El.of 0) ++ elidex k r
      | 1 => ((List.replicate 64 ((leBytes 4 (w / 2 ^ 32)).map (fun b => El.of b.toNat))).flatten) ++ elidex k r
      | 2 => if r.length < 256 then [] else r.take 256 ++ elidex k (r.drop 256)
      | _ => List.replicate 256 { (El.of 0) with p := true } ++ elidex k r

/-- ELIDEP of one block of 256 bytes (10 R252; 03 R82). -/
def elidepBlock (b : List El) : List El :=
  let put (n : Nat) : List El := (leBytes 8 n).map (fun x => El.of x.toNat)
  let first := leNat ((b.take 4).map (fun e => BitVec.ofNat 8 e.v))
  let h := b.any El.h
  let out :=
    if b.any El.p then put 3
    else if b.all (fun e => e.v == 0) then put 0
    else if b.map El.v == (List.replicate 64 ((leBytes 4 first).map BitVec.toNat)).flatten then put (first * 2 ^ 32 + 1)
    else put 2 ++ b
  out.map (fun e => { e with h := e.h || h })

/-- ELIDEP over a byte stream; a short last block is padded with +0. -/
def elidep : Nat → List El → List El
  | 0, _ => []
  | k + 1, s =>
    if s.isEmpty then []
    else elidepBlock (s.take 256 ++ List.replicate (256 - min 256 s.length) (El.of 0)) ++ elidep k (s.drop 256)

/-- JOIN: runs of n elements taken alternately until one runs short (10 R252). -/
def joinEl (n : Nat) : Nat → Bool → List El → List El → List El
  | 0, _, _, _ => []
  | k + 1, second, a, b =>
    let s := if second then b else a
    if s.length < n then s
    else s.take n ++ joinEl n k (!second) (if second then a else a.drop n) (if second then b.drop n else b)

/-- The scale of a block of up to 32 FP32 codes for a scaled format: 0xFF with a NaN or an infinity (10 R238; 08 R192). -/
def blockScale (t : Fmt) (b : List El) : Nat :=
  let m := (b.map (fun e => e.v % 2 ^ 31)).foldl max 0
  if 0x7F800000 ≤ m then 0xFF else quantScale t m

/-- One block of FP32 elements in a scaled format (10 R238). [log 64: DEDUCED, unsafe] -/
def quantBlock (c rm : Nat) (fin : Bool) (b : List El) : List El × Exc :=
  let s := blockScale (fmtOf c) b
  mapEl b (fun a =>
    let v := decodeF .fp32 a.v
    let (x, e) := toFmt c rm fin (if s = 0xFF then v else v.scale (127 - (s : Int)), v.sigExc)
    ({ (El.from1 x a) with sc := s }, e))

/-- QSCALE with P0 = 0, and copy-out to a scaled format (10 R238, R252). -/
def quantEl (c rm : Nat) (fin : Bool) : Nat → List El → List El × Exc
  | 0, _ => ([], 0)
  | k + 1, s =>
    if s.isEmpty then ([], 0)
    else
      let (x, e) := quantBlock c rm fin (s.take 32)
      let (y, e') := quantEl c rm fin k (s.drop 32)
      (x ++ y, e ||| e')

/-- Blocks of given lengths, each with a scale of its own (10 R238). -/
def quantRuns (c rm : Nat) (fin : Bool) : List Nat → List El → List El × Exc
  | [], _ => ([], 0)
  | n :: ns, s =>
    let (x, e) := quantBlock c rm fin (s.take n)
    let (y, e') := quantRuns c rm fin ns (s.drop n)
    (x ++ y, e ||| e')

/-- One element of a scaled format to FP32 with its scale; scale 0xFF gives NaN (10 R252; 05 R117). -/
def unscaleEl (c rm : Nat) (a : El) : El × Exc :=
  if a.sc = 0xFF then (El.from1 Fmt.fp32.canon a, excIV)
  else
    let v := decodeF (fmtOf c) a.v
    let (x, e) := toFmt 0 rm false (v.scale ((a.sc : Int) - 127), v.sigExc)
    (El.from1 x a, e)

/-- A node's output on port 0 and port 1, and its exception bits (10 R252). -/
def nodeRun (n : GNode) (rm : Nat) (fin : Bool) (a : List El) (b : Option (List El)) : List El × List El × Exc :=
  let one (r : List El × Exc) : List El × List El × Exc := (r.1, [], r.2)
  let clip (b : List El) : Nat := min a.length b.length
  let two (g : El → El → El × Exc) : List El × List El × Exc :=
    match b with
    | some b => one (let r := (List.range (clip b)).map (fun i => g (elAt a i) (elAt b i))
                     (r.map Prod.fst, (r.map Prod.snd).foldl (· ||| ·) 0))
    | none => one (mapEl a (fun x => g x (El.of (n.p0 % 2 ^ codeWidth n.fin))))
  match n.oper with
  | 1 => one (mapEl a (cvtEl n.fin n.fout rm fin))
  | 2 => one (if n.p0 = 0 then quantEl n.fout rm fin (a.length + 1) a else mapEl a (unscaleEl n.fin rm))
  | 3 =>
    let t := n.p0 * n.p1
    one ((List.range ((a.length + t - 1) / t)).flatMap (fun k => transposeTile a n.p0 n.p1 (k * t)), 0)
  | 4 =>
    match b with
    | none => ([], [], 0)
    | some b => one ((List.range (clip b)).map (fun i =>
        let x := elAt b i
        let v := if x.v % 2 ^ 32 < n.p0 then elAt a (i / n.p0 * n.p0 + x.v % 2 ^ 32) else El.of 0
        { v with p := v.p || x.p, h := v.h || x.h }), 0)
  | 5 => one (elidex a.length a, 0)
  | 6 => one (elidep a.length a, 0)
  | 7 => one ((lzDecode a).1, 0)
  | 8 => one (let r := (a.zipIdx).map (fun q =>
        if q.2 = 0 ∨ (n.p0 ≠ 0 ∧ q.2 % n.p0 = 0) then cvtEl n.fin n.fout rm fin q.1
        else arithEl n.fin n.fout rm fin (fun x y => addV rm x y.opp) (· - ·) q.1 (elAt a (q.2 - 1)))
      (r.map Prod.fst, (r.map Prod.snd).foldl (· ||| ·) 0))
  | 9 => one (prefixEl n.fin n.fout rm fin n.p0 0 none a)
  | 10 =>
    match b with
    | none => one (a.map (fun x => { x with v := x.v &&& n.p0 }), 0)
    | some b => one ((List.range (clip b)).map (fun i =>
        let x := elAt b i
        let v := if elNonzero n.fin x then elAt a i else El.of 0
        { v with p := v.p || x.p, h := v.h || x.h }), 0)
  | 11 => one (mapEl a (fun x =>
      let lo := n.p0 % 2 ^ codeWidth n.fin
      let hi := n.p1 % 2 ^ codeWidth n.fin
      if codeInt n.fin then
        let d (v : Nat) : Int := decodeI (fmtOf n.fin) v
        (El.from1 (encodeI (fmtOf n.fin) (min (max (d x.v) (d lo)) (d hi))) x, 0)
      else
        let (y, e) := minMax (fmtOf n.fin) true false x.v lo
        let (z, e') := minMax (fmtOf n.fin) false false y hi
        (El.from1 z x, e ||| e')))
  | 12 => two (arithEl n.fin n.fout rm fin (addV rm) (· + ·))
  | 13 => two (arithEl n.fin n.fout rm fin mulV (· * ·))
  | 14 =>
    let pick (k : Nat) : List El := ((a.zipIdx).filter (fun q => q.2 / n.p0 % 2 == k)).map Prod.fst
    (pick 0, pick 1, 0)
  | 15 =>
    match b with
    | none => ([], [], 0)
    | some b => one (if n.p0 = 0 then [] else joinEl n.p0 (a.length + b.length + 2) false a b, 0)
  | _ => one (a, 0)

/-- What a graph run gives: the sink's stream, exception bits, failed decoder chunks, and whether the container was malformed. -/
structure GraphOut where
  els : List El
  exc : Exc
  failed : List Nat
  malformed : Bool
  deriving DecidableEq, Repr, Inhabited

/-- The stream an input names. -/
def streamOf (outs : List (List El × List El)) (src : List El) (i : Nat) : List El :=
  if i = 0xFE then src
  else if i < 0x10 then (outs.getD i ([], [])).1
  else (outs.getD (i - 0x10) ([], [])).2

/-- Runs the nodes in order (10 R251, R252). -/
def runNodes (rm : Nat) (fin : Bool) (src : List El) : List GNode → List (List El × List El) → Exc → List (List El × List El) × Exc
  | [], outs, e => (outs, e)
  | n :: r, outs, e =>
    let (x, y, e') := nodeRun n rm fin (streamOf outs src n.in0)
      (if n.in1 = 0xFF then none else some (streamOf outs src n.in1))
    runNodes rm fin src r (outs ++ [(x, y)]) (e ||| e')

/-- Runs a graph that has passed its checks (10 R251 to R254). -/
def graphRun (g : List Byte) (src : List El) : GraphOut :=
  let ns := graphNodes g
  let lz := match ns with | n :: _ => n.oper == 7 | [] => false
  if lz && lzMalformed (src.map El.v) then { els := [], exc := 0, failed := [], malformed := true }
  else
    let (outs, e) := runNodes (graphRm g) (graphFin g) src ns [] 0
    { els := (outs.getLastD ([], [])).1, exc := e, failed := if lz then (lzDecode src).2 else [], malformed := false }

/-! ## Bytes and elements -/

/-- Elements of a byte stream in a format, with poisoned byte positions (05 R116). -/
def toEls (c : Nat) (b : List Byte) (pois : List Nat) : List El :=
  let w := codeWidth c
  if w = 4 then
    (b.zipIdx).flatMap (fun q =>
      let p := pois.contains q.2
      [{ (El.of (q.1.toNat % 16)) with p := p }, { (El.of (q.1.toNat / 16)) with p := p }])
  else
    let n := w / 8
    (List.range (b.length / n)).map (fun i =>
      { (El.of (recNat b (n * i) n)) with p := (List.range n).any (fun j => pois.contains (n * i + j)) })

/-- Bytes of elements, with the positions of poisoned bytes and of bytes left out. -/
def fromEls (c : Nat) (s : List El) : List Byte × List Nat × List Nat :=
  let w := codeWidth c
  if w = 4 then
    let n := (s.length + 1) / 2
    let two (i : Nat) : El × El := (elAt s (2 * i), elAt s (2 * i + 1))
    ((List.range n).map (fun i => BitVec.ofNat 8 ((two i).1.v % 16 + 16 * ((two i).2.v % 16))),
     (List.range n).filter (fun i => (two i).1.p || (two i).2.p), (List.range n).filter (fun i => (two i).1.h || (two i).2.h))
  else
    let n := w / 8
    let at_ (i : Nat) : El := elAt s (i / n)
    (s.flatMap (fun e => leBytes n e.v), (List.range (n * s.length)).filter (fun i => (at_ i).p),
     (List.range (n * s.length)).filter (fun i => (at_ i).h))

end Sys2Proof.Machine
end

