-- ==== Sys2Proof/Machine/Barrel.lean ====
section
/-! DEFINITION. The barrel: the vote, prologue and landing checks, safe points and stops, the end of a run, and the
reconvergence stack (01 R12 to R17; 06 R129 to R135; 07 R155 to R160; 14 R312, R315, R323; 17 R377, R378). -/

namespace Sys2Proof.Machine

/-! ## Prologues -/

/-- LEN of a header word (06 R130). -/
def hdrLen (h : W64) : Nat := (h.extractLsb' 0 5).toNat
/-- WAIT. -/
def hdrWait (h : W64) : BitVec 12 := h.extractLsb' 5 12
/-- LIVEG. -/
def hdrLiveg (h : W64) : Nat := (h.extractLsb' 25 8).toNat
/-- RECONV in bytes, as an address offset. -/
def hdrReconv (h : W64) : W64 := (h.extractLsb' 36 24).signExtend 64 <<< 4
/-- SP. -/
def hdrSP (h : W64) : Bool := h.getLsbD 62
/-- LAND bits 2:0 of a landing word (06 R131). -/
def landBit (l : W64) (n : Nat) : Bool := l.getLsbD (48 + n)
/-- SPO of a landing word. -/
def landSpo (l : W64) : W32 := l.extractLsb' 0 32
/-- LRM of a landing word. -/
def landLrm (l : W64) : Nat := (l.extractLsb' 32 16).toNat

/-- A flag field that holds 12 to 14. -/
def badFlagField (n : Nat) : Bool := decide (12 ≤ n ∧ n ≤ 14)

/-- A prologue with a field that R130 or R131 calls illegal, for a wave of vgran granules (06 R132). -/
def prologueBad (h l : W64) (vgran : Nat) : Bool :=
  !h.getLsbD 63 || h.extractLsb' 33 3 != 0 || decide (128 < hdrLiveg h) || decide (vgran < hdrLiveg h) ||
  badFlagField (flagField h true) || badFlagField (flagField h false) ||
  hdrLen h == 0 || decide (24 < hdrLen h) || l.extractLsb' 56 8 != 0 || l.extractLsb' 51 5 != 0

/-- A block as the L0 holds it; no words where the prologue is illegal. -/
structure Block where
  hdr : W64
  land : W64
  words : List W128
  deriving DecidableEq, Repr

/-- 16 bytes at an aligned address, from the L0 (06 R134); lanes at U need a line whose leaf grants U. -/
def l0Word (k : Core) (vf : Nat) (u : Bool) (a : Nat) : Option W128 :=
  (k.l0.find? (fun l => l.vf == vf && l.va == a / 64 && (!u || l.u))).map (fun l => l.data.extractLsb' (8 * (a % 64)) 128)

/-- A list all of whose elements are there. -/
def allSome {α : Type} : List (Option α) → Option (List α)
  | [] => some []
  | none :: _ => none
  | some x :: r => (allSome r).map (x :: ·)

/-- The block at a PC, when the L0 holds all of it (06 R134). -/
def l0Block (k : Core) (vf : Nat) (u : Bool) (pc : W64) (vgran : Nat) : Option Block :=
  match l0Word k vf u pc.toNat with
  | none => none
  | some p =>
    let h : W64 := p.extractLsb' 0 64
    let l : W64 := p.extractLsb' 64 64
    if prologueBad h l vgran then some { hdr := h, land := l, words := [] }
    else
      (allSome ((List.range (hdrLen h)).map (fun i => l0Word k vf u (pc + BitVec.ofNat 64 (16 + 16 * i)).toNat))).map
        (fun ws => { hdr := h, land := l, words := ws })

/-- A block's fall-through address (06 R129). -/
def fallThrough (pro h : W64) : W64 := pro + BitVec.ofNat 64 (16 + 16 * hdrLen h)

/-! ## Engine queues -/

/-- Ladle-queue, MXE-queue and Colander words (10 R225; 11 R270). -/
def ladleWord (o : Nat) : Bool := decide (0xD0 ≤ o ∧ o ≤ 0xD6) || o == 0xDE
/-- See ladleWord. -/
def mxWord (o : Nat) : Bool := decide (0xD8 ≤ o ∧ o ≤ 0xDA)
/-- See ladleWord. -/
def colWord (o : Nat) : Bool := decide (0xE8 ≤ o ∧ o ≤ 0xEA)
/-- The opcode of a raw word. -/
def rawOp (w : W128) : Nat := (w.extractLsb' 0 8).toNat
/-- Words of a block that satisfy p. -/
def countWords (ws : List W128) (p : Nat → Bool) : Nat := (ws.filter (fun w => p (rawOp w))).length

/-- Entries a core's running groups have reserved: Ladle, MXE, Colander. -/
def reserved (k : Core) : Nat × Nat × Nat :=
  k.quarters.foldl (fun a q => match q.run with
    | some r => (a.1 + r.resL, a.2.1 + r.resM, a.2.2 + r.resC)
    | none => a) (0, 0, 0)

/-- Free places of a gang's spill ring (10 R243). -/
def spillFree (k : Core) (gang : Nat) : Nat :=
  match k.gangs.get? gang with
  | some g => g.spN - (k.mx.filter (fun m => m.spilled && m.by_.gang == gang)).length
  | none => 0

/-- The engine queues have room for a block's words beyond what is reserved: for MXE words the on-chip queue, or the gang's spill
ring, has room for all of them (10 R225; 11 R270). -/
def queuesOk (k : Core) (gang : Nat) (ws : List W128) (rL rM rC : Nat) : Bool :=
  let m := countWords ws mxWord
  decide (countWords ws ladleWord + rL + k.ladle.length ≤ 256) &&
  (m == 0 || decide (m + rM + (k.mx.filter (fun q => !q.spilled)).length ≤ 64) || decide (m + rM ≤ spillFree k gang)) &&
  decide (countWords ws colWord + rC + k.col.intake.length ≤ 64)

/-! ## Gates -/

/-- The atomics (09 R211). -/
def isAtomic (o : Nat) : Bool := decide (0xC0 ≤ o ∧ o ≤ 0xCC)
/-- ORD of an atomic (04 R93). -/
def ordOf (f : Fields) : Nat := f.m 3 4
/-- An operation that later accesses of its wave wait for (04 R94 to R97; 09 R216, R218, R219; 12 R287): a release not done yet,
an acquire not done yet. [log 36: DEDUCED, unsafe] -/
def closedGate (g : Op) : Bool :=
  if g.opc = 0xCE ∨ g.opc = 0x14 ∨ g.opc = 0x16 then true
  else if isAtomic g.opc then
    let o := ordOf g.f
    o == 5 || o == 7 || o == 8 || (o == 6 && !g.released)
  else if [0x15, 0x17, 0x19, 0x1A, 0xDF, 0xE6].contains g.opc then !g.released
  else false

/-- A gate stands before what lane does under operation number id of a wave: waits of WAITCHK and BARWAIT hold back the lanes
that wait, every other gate the whole wave. -/
def gated (v : Wave) (id : Nat) (lane : Option Nat) : Bool :=
  v.ops.any (fun g => decide (g.id < id) && closedGate g &&
    ((g.opc != 0x14 && g.opc != 0x16) || (match lane with | some n => g.lanes.any (fun l => l.lane == n) | none => false)))

/-- A WAITCHK of a wave on a word and mask may read: nothing it waits behind is pending (04 R94 to R97; 09 R216). -/
def chkMay (v : Wave) (o m : W32) : Bool :=
  v.ops.all (fun g => !(g.opc == 0x14 && g.n == o.toNat && g.m == m.toNat) || !g.lanes.any (fun l => gated v g.id (some l.lane)))

/-- An arrival of the wave that has come to the gang order waits until an earlier one, held at its barrier, is applied (01 R22). -/
def Op.arrivalWaits (o : Op) : Bool := (o.opc == 0x15 || o.opc == 0x17) && o.m == 1

/-! ## Holds and the reconvergence stack -/

/-- Phase p of a barrier, at phase ph, has been passed (09 R218). -/
def phasePassed (ph p : W32) : Bool := decide ((ph - p - 1).toNat < 2 ^ 31)

/-- A hold of a lane is over (09 R215, R216, R218); a fetch's ends with the fetch that follows its RETRY (06 R134). -/
def holdOver (s : State) (c : Nat) (w : Wave) (h : Hold) : Bool :=
  match h with
  | .none => true
  | .waitf m => (List.range 12).all (fun n => !m.getLsbD n || w.flags.getD n 0 == 0)
  | .sleep d => decide (d ≤ (s.core c).clock)
  | .waitchk o m =>
    let (b, bad) := locReadFor s c w.gang w.uid .g o.toNat 4
    let v : W32 := if bad then 0 else BitVec.ofNat 32 (leNat b)
    chkMay w o m && v &&& m == m
  | .waitmx n => decide (((s.core c).mx.filter (fun x => x.by_.uid == w.uid)).length ≤ n.toNat)
  | .yield => false
  | .barwait id => (w.op? id).isNone
  | .fetch _ => false
  | .refused => false
  | .halted => false

/-- What a hold leaves behind when it is not over: a refused fetch waits for its vote. [log 15: DEDUCED, unsafe] -/
def holdNext (s : State) (h : Hold) : Hold :=
  match h with
  | .fetch ts => if (unanswered s ts).isEmpty && (refusalOf s ts).isSome then .refused else h
  | _ => h

/-- A WAITCHK that reads a poisoned word in a lane notes it, the first time or where it traps; a lane that traps waits no more (09 R216; 03
R84). -/
def chkPoison (s : State) (c w : Nat) (v : Wave) (l : Nat) (h : Hold) : State :=
  match h, v.ops.find? (fun o => o.opc == 0x14 && o.lanes.any (fun x => x.lane == l)) with
  | .waitchk a m, some o =>
    if chkMay v a m = false ∨ (locReadFor s c v.gang v.uid .g a.toNat 4).2 = false ∨ (v.wstat.getLsbD 0 = true ∧ v.wstat.getLsbD 1 = false) then s
    else
      let s := if v.wstat.getLsbD 1 then s.modWave c w (fun v => v.modOp o.id (fun o =>
          { o with lanes := o.lanes.filter (fun x => x.lane != l) })) else s
      notePoison s c w l { code := 12, sub := 0, spo := o.spo, off := o.off, aux := a.setWidth 64, aux2 := 0, level := o.level }
  | _, _ => s

/-- Poisoned words that held lanes of a wave read at a visit. -/
def chkPoisons (s : State) (c w : Nat) : State :=
  match s.slot? c w with
  | none => s
  | some t => t.wave.lanes.zipIdx.foldl (fun s x => x.1.holds.foldl (fun s h => chkPoison s c w t.wave x.2 h) s) s

/-- Tests the holds of a wave at a visit (09 R215). -/
def testHolds (s : State) (c w : Nat) : State :=
  let s := chkPoisons s c w
  match s.slot? c w with
  | none => s
  | some t =>
    s.modWave c w (fun v => { v with lanes := v.lanes.map (fun l =>
      { l with holds := (l.holds.filter (fun h => !holdOver s c t.wave h)).map (holdNext s) }) })

/-- A lane is in a trap handler: at G, or at H by a trap (07 R158; 14 R316). A lane that started at H is in none. -/
def Lane.inHandler (x : Lane) : Bool := x.level == .g || (x.level == .h && x.trh.cause != 0)

/-- A lane is held by an on-chip entry; none holds a lane in a trap handler (07 R157, R158). -/
def reconvHeld (w : Wave) (l : Nat) : Bool :=
  match w.lanes[l]? with
  | some x => !x.inHandler && w.stack.any (fun e => e.mask.getLsbD l && e.rpc == x.pc)
  | none => false

/-- The top entry completes (07 R158). -/
def topDone (w : Wave) : Bool :=
  match w.stack with
  | [] => false
  | e :: older => (maskLanes e.mask).all (fun l =>
      match w.lanes[l]? with
      | some x => x.exited || (!x.inHandler && (x.pc == e.rpc || older.any (fun o => o.mask.getLsbD l && o.rpc == x.pc)))
      | none => true)

/-- Pops the top entry; where none remains on chip while spilled ones do, a refill begins, or begins anew over what has been spilled
since, that keeps the released lanes held (07 R158, R159). -/
def popTop (w : Wave) : Wave :=
  match w.stack with
  | [] => w
  | e :: older =>
    let freed := maskOf (fun l => e.mask.getLsbD l && match w.lanes[l]? with | some x => !x.exited && x.pc == e.rpc | none => false)
    let begun : Option Refilling :=
      match w.refill with
      | some r => if r.from_ = w.spilled then some { r with freed := r.freed ||| freed }
          else some { r with tickets := [], freed := r.freed ||| freed, from_ := w.spilled }
      | none => some { tickets := [], freed := freed, from_ := w.spilled, log := .none }
    { w with stack := older, refill := if older.isEmpty && decide (0 < w.spilled) then begun else w.refill }

/-- Pops completed entries, one after another (07 R158). -/
def settle : Nat → Wave → Wave
  | 0, w => w
  | n + 1, w => if topDone w then settle n (popTop w) else w

/-- Entries on chip and spilled (07 R160). -/
def Wave.rsdepth (w : Wave) : Nat := w.stack.length + w.spilled

/-- A reconvergence entry in memory (07, "Divergence"). -/
def RsEntry.bytes (e : RsEntry) : List Byte := leBytes 8 e.rpc.toNat ++ leBytes 4 e.mask.toNat ++ leBytes 4 0
/-- See bytes. -/
def RsEntry.ofBytes (b : List Byte) : RsEntry := { rpc := BitVec.ofNat 64 (recNat b 0 8), mask := BitVec.ofNat 32 (recNat b 8 4) }

/-- Log entries a wave holds: those of its words, of its spills and of its refill (03 R85; 07 R159, R172). -/
def Wave.logEntries (w : Wave) : Nat :=
  (w.ops.filter (fun o => o.log == .entry)).length + (w.spillLog.filter (fun e => e.log == .entry)).length +
    (match w.refill with | some r => if r.log = .entry then 1 else 0 | none => 0)

/-- Entries of a quarter's log in use (03 R85). -/
def logUse (k : Core) (q : Nat) : Nat :=
  (k.waves.filter (fun p => quarterOf p.1 == q)).foldl (fun n p => n + p.2.logEntries) 0

/-- Writes spilled entry d of a wave, at level G of its function (07 R159): translated and queued as a store, logged when its
page is absent; a write that may not be performed is dropped. -/
def spillWrite (s : State) (c w : Nat) (d : Nat) (e : RsEntry) : State :=
  match s.slot? c w with
  | none => s
  | some t =>
    let f := t.wave.vf
    let va := t.wave.rsbase + BitVec.ofNat 64 (16 * d)
    match translate s (some c) (.fn f (t.wave.row .g)) f va.toNat (accW .g) false with
    | (s, .ok en) =>
      match targetOf f .g (en.apply va.toNat) with
      | .hbm a => if en.elide then s else
        (enqueue s c { id := 0, tgt := .hbm a, bytes := e.bytes, vf := f, level := .g, world := t.wave.world, who := none,
                       va := va, eng := none, wr := laneWriter c w t.wave.gang 0xFFFFFFFF 31 0xFF, poison := [],
                       priv := t.wave.priv }).1
      | _ => s
    | (s, .fault st cause tb g) =>
      let (s, k) := requestOf s (some c) f va.toNat (accW .g) st cause tb g
      let r : LogSt := if logUse (s.core c) (quarterOf w) < 64 then .entry else .port
      s.modWave c w (fun v => { v with spillLog := v.spillLog ++ [{ idx := d, entry := e, tickets := [k], log := r }] })
    | (s, .refused a) => refuseOwner s f c a

/-- Pushes an entry: over 16 on chip, the oldest is spilled first (07 R156, R159). -/
def pushEntry (s : State) (c w : Nat) (e : RsEntry) : State :=
  match s.slot? c w with
  | none => s
  | some t =>
    let v := t.wave
    if v.stack.length < 16 then s.modWave c w (fun v => { v with stack := e :: v.stack })
    else
      match v.stack.getLast? with
      | none => s
      | some old =>
        (spillWrite s c w v.spilled old).modWave c w (fun v =>
          { v with stack := e :: v.stack.dropLast, spilled := v.spilled + 1 })

/-- A push would make a 4,097th entry, or need a spill area the wave has not (07 R159, R160). [log 146: DESIGN CHOICE, unsafe] -/
def pushOverflows (v : Wave) : Bool :=
  decide (4096 ≤ v.rsdepth) || (decide (16 ≤ v.stack.length) && v.rsbase == 0)

/-! ## The end of a run -/

/-- What a lane meets at the end of its run before completion causes: its PC, and a trap of its own (07 R155, R171). -/
structure EndLane where
  pc : W64
  check : Landing
  exit : Bool
  trap : Option Trap
  halt : Bool
  deriving DecidableEq, Repr

/-- A trap of the block's last word at the end of the run. -/
def endTrap (g : Group) (cause sub : Nat) (res aux : W64) : Trap :=
  { cause := cause, sub := sub, off := g.words.length - 1, spo := spoAt g (g.words.length - 1), res := res, aux := aux, aux2 := 0 }

/-- A lane's act at the end of the run (06 R133; 07 R154, R155, R171). -/
def endAct (g : Group) (l : Nat) : EndLane :=
  let ft := fallThrough g.pro g.hdr
  match g.acts.find? (fun a => a.1 == l) with
  | none => { pc := ft, check := .none, exit := false, trap := none, halt := false }
  | some (_, .exit) => { pc := ft, check := .none, exit := true, trap := none, halt := false }
  | some (_, .rte) => { pc := ft, check := .none, exit := false, trap := none, halt := false }
  | some (_, .trap cause code _) =>
    { pc := ft, check := .none, exit := false, trap := some (endTrap g cause 0 ft code), halt := false }
  | some (_, .jump t k) =>
    if canonical t = false then
      { pc := ft, check := .none, exit := false, trap := some (endTrap g 5 1 g.pro t), halt := false }
    else if t.toNat % 16 ≠ 0 then
      { pc := ft, check := .none, exit := false, trap := some (endTrap g 5 2 g.pro t), halt := false }
    else { pc := t, check := k, exit := false, trap := none, halt := false }

/-- The cause of a trap, as a held cause keeps it. -/
def Trap.cause_ (t : Trap) (level : Level) : Cause :=
  { code := t.cause, sub := t.sub, spo := t.spo, off := t.off, aux := t.aux, aux2 := t.aux2, level := level }

/-- The lowest code among traps that fall due together, and the rest (14 R315). -/
def splitLowest : List Trap → Option (Trap × List Trap)
  | [] => none
  | t :: r =>
    match splitLowest r with
    | none => some (t, [])
    | some (u, x) => if t.cause ≤ u.cause then some (t, u :: x) else some (u, t :: x)

/-- Takes the lowest of several traps due in a lane; the others are held (14 R315). -/
def takeLowest (s : State) (c w l : Nat) (level : Level) (ts : List Trap) : State :=
  match splitLowest ts with
  | none => s
  | some (t, r) => r.foldl (fun s u => holdCause s c w l (u.cause_ level)) (takeTrap s c w l t)

/-- What is due in a lane at the end of its run (14 R315): causes of operations it issued below its present level, and every cause
of a halted lane, are held; the lowest of its own traps and of the others is taken at its present PC, and the rest are held. -/
def takeDue (s : State) (c w l : Nat) (own : List Trap) (due : List Cause) : State :=
  match (s.slot? c w).bind (fun t => t.wave.lanes[l]?) with
  | none => s
  | some x =>
    let below (k : Cause) : Bool := decide (k.level.code < x.level.code) || x.holds.contains .halted
    let s := (due.filter below).foldl (fun s k => holdCause s c w l k) s
    takeLowest s c w l x.level (own ++ (due.filter (fun k => !below k)).map (fun k => k.trap x.pc))

/-- Ends the run for lane l of a group (06 R133; 14 R315, R318). A lane that trapped or was turned back at issue has left the run. A lane that
exits takes no cause that is due. [log 149: DESIGN CHOICE, unsafe] -/
def endLane (s : State) (c w : Nat) (g : Group) (l : Nat) : State :=
  match (s.slot? c w).bind (fun t => t.wave.lanes[l]?) with
  | none => s
  | some x =>
    if x.exited then s
    else if g.gone.getLsbD l then takeDue (s.modLane c w l (fun x => { x with due := [] })) c w l [] x.due
    else
      let e := endAct g l
      if e.exit then s.modLane c w l (fun x => { x with exited := true, pc := e.pc, due := [], held := none, holds := [] })
      else
        let rte := (g.acts.find? (fun a => a.1 == l)).map Prod.snd == some .rte
        if rte then
          match s.slot? c w with
          | none => s
          | some t =>
            let (y, r, bad) := laneRte x l t.wave.regs
            if bad then
              takeDue (s.modLane c w l (fun x => { x with due := [] })) c w l [endTrap g 5 4 x.trh.res x.trh.res] x.due
            else
              takeDue (s.modWave c w (fun v => { v with regs := r, lanes := listAdj v.lanes l (fun _ => { y with due := [] }) })) c w l []
                x.due
        else
          let hs := (g.holds.filter (fun h => h.1 == l)).map Prod.snd
          takeDue (s.modLane c w l (fun x => { x with pc := e.pc, check := e.check, due := [], holds := x.holds ++ hs })) c w l
            e.trap.toList x.due

/-- A lane trapped or exited at some point of the run just ended: its PC is not the one it chose. -/
def stayed (s : State) (c w : Nat) (g : Group) (l : Nat) : Bool :=
  match (s.slot? c w).bind (fun t => t.wave.lanes[l]?) with
  | some x => g.mask.getLsbD l && !g.gone.getLsbD l && !x.exited && !x.holds.contains .halted
  | none => false

/-- Lanes of a group that neither exited nor trapped during the run, with the state before their traps: M of R156. A lane that
took a trap at the run's end stands at a vector with no landing check; it is told by its act or its due causes. -/
def groupM (before after : State) (c w : Nat) (g : Group) : Mask :=
  maskOf (fun l => stayed after c w g l && (endAct g l).trap.isNone &&
    (match (before.slot? c w).bind (fun t => t.wave.lanes[l]?) with | some x => x.due.isEmpty | none => false))

/-- The reconvergence push of a group at the end of its run (07 R156, R160). [log 139: DESIGN CHOICE, unsafe] -/
def groupPush (s : State) (c w : Nat) (g : Group) (m : Mask) : State :=
  match s.slot? c w with
  | none => s
  | some t =>
    let pcs := (maskLanes m).filterMap (fun l => (t.wave.lanes[l]?).map Lane.pc)
    let rpc := g.pro + hdrReconv g.hdr
    let same : Bool := match pcs with | [] => true | p :: r => r.all (· == p)
    let top : Bool := match t.wave.stack with | e :: _ => e.rpc == rpc && (m &&& ~~~e.mask) == 0 | [] => false
    if hdrReconv g.hdr = 0 ∨ same ∨ top then s
    else if pushOverflows t.wave then
      (maskLanes m).foldl (fun s l =>
        match (s.slot? c w).bind (fun t => t.wave.lanes[l]?) with
        | some x => takeTrap s c w l
            { cause := 15, sub := 0, off := 31, spo := landSpo g.land, res := x.pc, aux := BitVec.ofNat 64 t.wave.rsdepth, aux2 := 0 }
        | none => s) s
    else pushEntry s c w { rpc := rpc, mask := m }

/-- Debug stops of lanes that pass safe points with ordinals os (17 R378). [log 25: DEDUCED, unsafe] -/
def stopsAt (s : State) (v : Wave) (os : List W32) : BitVec 5 :=
  let d := (s.func v.vf).dbg
  if d.stopen = false ∨ os.isEmpty then 0
  else
    (if d.bps.any (fun b => b.en && b.kern == v.kern && os.contains b.spo) then 1 else 0) |||
    (if v.wstat.getLsbD 24 then 2 else 0)

/-- Makes debug stops due in a lane: its wave drains to park (17 R377). -/
def dueStop (s : State) (c w l : Nat) (b : BitVec 5) : State :=
  if b = 0 then s
  else (s.modLane c w l (fun x => { x with stops := x.stops ||| b })).modSlot c w (fun t => { t with stopping := true })

/-- Makes a stop due in every live lane of a resident wave, parked or not, when its function has STOPEN set (17 R377, R379). -/
def dueStopAll (s : State) (c w : Nat) (b : BitVec 5) : State :=
  match s.slot? c w with
  | none => s
  | some t =>
    if (s.func t.wave.vf).dbg.stopen then (maskLanes t.wave.live).foldl (fun s l => dueStop s c w l b) s else s

/-- A wave drains: for a save, or to park (14 R323; 17 R377). -/
def Slot.drains (t : Slot) : Bool := t.drain.isSome || t.stopping

/-- Safe points passed in a run: breakpoints and single steps fall due, and lanes of a draining wave stop (14 R323; 17
R378). -/
def groupStops (s : State) (c w : Nat) (g : Group) : State :=
  let s := (maskLanes g.mask).foldl (fun s l =>
    match s.slot? c w with
    | some t => dueStop s c w l (stopsAt s t.wave ((g.sps.filter (fun p => p.1 == l)).map Prod.snd))
    | none => s) s
  match s.slot? c w, g.sps.getLast? with
  | some t, some (_, o) =>
    if t.drains then
      (maskLanes g.mask).foldl (fun s l => s.modLane c w l (fun x =>
        if x.exited then x else { x with stopped := true, stopSpo := o })) s
    else s
  | _, _ => s

/-- The end of one group's part in a run: writes, flags, PCs, traps, the push (07 R153; 06 R133). -/
def endGroup (s : State) (c w : Nat) (g : Group) : State :=
  let s := s.modWave c w (fun v =>
    g.raised.foldl (fun v n => v.lower (some n)) ({ v with regs := v.regs.writes g.writes }.orWstat g.exc))
  let before := s
  let s := (maskLanes g.mask).foldl (fun s l => endLane s c w g l) s
  let m := groupM before s c w g
  let s := groupPush s c w g m
  let s := groupStops s c w g
  let taken := g.acts.filterMap (fun a => match a.2 with | .jump t _ => some t | _ => none)
  let s := match taken.getLast? with
    | some t => s.modWave c w (fun v => { v with lastBr := t })
    | none => s
  if g.detach then
    s.modWave c w (fun v => { v with detached := true, lanes := v.lanes.map (fun x =>
      { x with exited := true, due := [], held := none, holds := [] }) })
  else s

/-- The end of a run (01 R15; 06 R133). -/
def endRun (s : State) (c q : Nat) : State :=
  match (s.quarter c q).run with
  | none => s
  | some r =>
    let s := r.groups.foldl (fun s g => endGroup s c r.wave g) s
    s.modQuarter c q (fun t => { t with run := none })

/-! ## Issue slots -/

/-- The group of port p has a word at index i. -/
def Run.has (r : Run) (i p : Nat) : Bool := r.groups.any (fun g => g.port == p && decide (i < g.words.length))

/-- The issue slot after (i, p): the other port's word of the same cc, or the next index (01 R15). -/
def Run.next (r : Run) (i p : Nat) : Option (Nat × Nat) :=
  if p = 0 ∧ r.has i 1 then some (i, 1)
  else if r.has (i + 1) 0 then some (i + 1, 0)
  else if r.has (i + 1) 1 then some (i + 1, 1)
  else none

/-- What a wave's registers hold now (02 R50). -/
def Wave.snap (v : Wave) (k : Core) : Snap :=
  { uni := v.regs.uni, tile := v.regs.tile, z := k.z, zpois := k.zpois, wstat := v.wstatNow }

/-- Before a word issues: the cursor, and what the port-1 word of the same cc will read of the registers held per wave (02 R50). -/
def beginIssue (s : State) (c q : Nat) (r : Run) : State :=
  let s := { s with cur := some { core := c, quarter := q, port := r.port } }
  if r.port = 0 ∧ r.has r.idx 1 then
    match s.slot? c r.wave with
    | some t => s.modRun c q (fun r => { r with snap := some (t.wave.snap (s.core c)) })
    | none => s
  else s

/-- One issued word counts toward a pending hit's skid (17 R380). [log 28: DESIGN CHOICE, unsafe] -/
def skidStep (here : Mask) (w : PendWatch) : PendWatch :=
  if w.now then { w with now := false }
  else if w.fixed || !here.getLsbD w.lane then w
  else { w with n := w.n + 1 }

/-- After a word issues: its safe point, the skid of a watch stop, the counters, and the next slot or the end of the run (06 R131;
17 R380, R387). -/
def endIssue (s : State) (c q : Nat) : State :=
  let s := { s with cur := none }
  match (s.quarter c q).run with
  | none => s
  | some r =>
    match r.groups.find? (fun g => g.port == r.port), s.slot? c r.wave with
    | some g, some t =>
      let here := g.mask &&& ~~~g.gone
      let s := if wordS (g.words.getD r.idx 0) then
          s.modGroup c q r.port (fun g =>
            { g with sps := g.sps ++ (maskLanes here).map (fun l => (l, spoAt g (r.idx + 1))) })
        else s
      let s := if t.watches.isEmpty then s
        else s.modSlot c r.wave (fun t => { t with watches := t.watches.map (skidStep here) })
      let s := countEvent s (clusterOf c) t.wave.vf 2 1
      match r.next r.idx r.port with
      | some (i, p) => s.modRun c q (fun r => { r with idx := i, port := p, snap := if i = r.idx then r.snap else none })
      | none => endRun s c q
    | _, _ => endRun s c q

/-! ## The vote -/

/-- What the vote finds for the lanes at one PC and level. -/
inductive Found where
  /-- nothing to run: a flag of WAIT is raised, or an engine queue is full -/
  | not
  /-- the block is still on its way to the L0 -/
  | miss
  | refused
  | bad (b : Block)
  | run (b : Block)
  deriving DecidableEq, Repr

/-- Lanes that could be chosen: neither exited, stopped, held nor waiting, of a wave that does not wait for its place in the gang order (01
R12, R22; 07 R157, R159). -/
def candidate (w : Wave) (l : Nat) : Bool :=
  match w.lanes[l]? with
  | some x => !w.ops.any Op.arrivalWaits && !x.exited && !x.stopped && (x.holds.all (· == .refused)) && !reconvHeld w l &&
      (match w.refill with | some r => !r.freed.getLsbD l | none => true)
  | none => false

/-- The order of the vote: lower PCs first, and at one PC higher levels first (01 R13; 14 R312). -/
def voteKey (x : Lane) : Nat := 4 * x.pc.toNat + (2 - x.level.code)

/-- A wave's candidates by key, rising. -/
def voteSets (w : Wave) : List (Nat × Mask) :=
  let ls := (List.range 32).filter (candidate w)
  ls.foldl (fun (t : Tab Mask) l =>
    match w.lanes[l]? with
    | some x => t.ins (voteKey x) (Tab.get 0 t (voteKey x) ||| bitOf l)
    | none => t) []

/-- What the vote finds at a set's PC (01 R12; 06 R132, R134; 10 R225; 11 R270). [log 24: DEDUCED, unsafe] -/
def examine (k : Core) (w : Wave) (m : Mask) (rL rM rC : Nat) : Found :=
  match w.lanes[lowest (maskLanes m)]? with
  | none => .not
  | some x =>
    if (maskLanes m).any (fun l => match w.lanes[l]? with | some y => y.holds.contains .refused | none => false) then .refused
    else
      match l0Word k w.vf (x.level == .u) x.pc.toNat with
      | none => .miss
      | some p =>
        let h : W64 := p.extractLsb' 0 64
        if prologueBad h (p.extractLsb' 64 64) w.vgran = false ∧
            (List.range 12).any (fun n => (hdrWait h).getLsbD n && w.flags.getD n 0 != 0) = true then .not
        else
          match l0Block k w.vf (x.level == .u) x.pc w.vgran with
          | none => .miss
          | some b =>
            if b.words.isEmpty then .bad b
            else if queuesOk k w.gang b.words rL rM rC then .run b
            else .not

/-- The first two sets that are eligible, and the sets looked at that were not (01 R13). -/
def choose (k : Core) (w : Wave) (rL rM rC : Nat) : List (Nat × Mask) → List (Mask × Found) → List Mask →
    List (Mask × Found) × List Mask
  | [], got, no => (got, no)
  | (_, m) :: r, got, no =>
    if 2 ≤ got.length then (got, no)
    else
      match examine k w m rL rM rC with
      | .not => choose k w rL rM rC r got (no ++ [m])
      | .run b => choose k w (rL + countWords b.words ladleWord) (rM + countWords b.words mxWord)
          (rC + countWords b.words colWord) r (got ++ [(m, .run b)]) no
      | x => choose k w rL rM rC r (got ++ [(m, x)]) no

/-- A trap at a prologue (14 R314, R317). -/
def proTrap (cause sub : Nat) (spo : W32) (res aux : W64) (aux2 : W32) : Trap :=
  { cause := cause, sub := sub, off := 31, spo := spo, res := res, aux := aux, aux2 := aux2 }

/-- Held causes that a lane takes at its vote (14 R315): those of operations it issued at its present level or above. [log 22: DEDUCED, unsafe] -/
def heldDue (x : Lane) : Option Cause :=
  match x.held with
  | some k => if x.level.code ≤ k.level.code then some k else none
  | none => none

/-- A lane's landing check fails against LAND (07 R155; 14 R318). -/
def landFails (x : Lane) (land : W64) : Bool :=
  match x.check with
  | .none => false
  | .ind => !landBit land 0
  | .call => !landBit land 1
  | .trapret => !landBit land 2

/-- The trap that the prologue of a chosen lane gives it at the vote: a refused fetch, an illegal prologue, a failed landing check (06
R132, R134; 07 R155; 14 R318). -/
def voteTrap (s : State) (c : Nat) (v : Wave) (l : Nat) (y : Lane) (x : Found) : Option Trap :=
  match x with
  | .not => none
  | .miss => none
  | .refused =>
    let spo : W32 := match l0Word (s.core c) v.vf (y.level == .u) y.pc.toNat with
      | some p => landSpo (p.extractLsb' 64 64)
      | none => BitVec.ofNat 32 (Config.unstated 0x100 y.pc.toNat l)
    some (if y.check = .none ∨ canonical y.pc = false then proTrap 4 0 spo y.pc y.pc 0 else proTrap 5 3 spo y.pc y.pc 0)
  | .bad b => some (proTrap 3 0 (landSpo b.land) y.pc b.hdr (b.land.extractLsb' 0 32))
  | .run b => if landFails y b.land then some (proTrap 5 4 (landSpo b.land) y.pc y.pc 0) else none

/-- A chosen lane before its block: the lowest of a held cause and its prologue's trap, the other held; else a safe point at which it
stops. True when it runs. Whatever its end, this vote is the first after a RESUME (06 R132, R134; 07 R155; 14 R315, R323; 17 R378). [log 23: DEDUCED, unsafe] -/
def admitLane (s : State) (c w l : Nat) (x : Found) : State × Bool :=
  match s.slot? c w with
  | none => (s, false)
  | some t =>
    match t.wave.lanes[l]? with
    | none => (s, false)
    | some y =>
      match heldDue y, voteTrap s c t.wave l y x with
      | some k, p =>
        let s := s.modLane c w l (fun z =>
          { z with held := none, skipStop := false, holds := if x = .refused then [] else z.holds,
                   check := if p.isSome then .none else z.check })
        (takeLowest s c w l y.level (k.trap y.pc :: p.toList), false)
      | none, some p =>
        let s := s.modLane c w l (fun z =>
          { z with check := .none, skipStop := false, holds := if x = .refused then [] else z.holds })
        (takeTrap s c w l p, false)
      | none, none =>
        match x with
        | .run b =>
          let s := s.modLane c w l (fun z => { z with check := .none, skipStop := false })
          if hdrSP b.hdr = false then (s, true)
          else
            let st := if y.skipStop then 0 else stopsAt s t.wave [landSpo b.land]
            let s := dueStop s c w l st
            if st ≠ 0 ∨ t.drains then
              (s.modLane c w l (fun z => { z with stopped := true, stopSpo := landSpo b.land }), false)
            else (s, true)
        | _ => (s, false)

/-- The lanes of a chosen set that run, after every lane's checks. -/
def admitSet (s : State) (c w : Nat) (m : Mask) (x : Found) : State × Mask :=
  (maskLanes m).foldl (fun a l =>
    let (s, ok) := admitLane a.1 c w l x
    (s, if ok then a.2 ||| bitOf l else a.2)) (s, 0)

/-- A group of a run. -/
def mkGroup (port : Nat) (m : Mask) (x : Lane) (b : Block) : Group :=
  { port := port, mask := m, pro := x.pc, hdr := b.hdr, land := b.land, words := b.words, level := x.level, gone := 0,
    writes := [], acts := [], holds := [], trans := [], sps := [], detach := false, raised := [], exc := 0 }

/-- The groups of the chosen sets, in port order. -/
def joinRun (s : State) (c w : Nat) : Nat → List (Mask × Found) → List Group → State × List Group
  | _, [], gs => (s, gs)
  | p, (m, x) :: r, gs =>
    let lane := (s.slot? c w).bind (fun t => t.wave.lanes[lowest (maskLanes m)]?)
    let (s, ok) := admitSet s c w m x
    match x, lane with
    | .run b, some y => if ok = 0 then joinRun s c w p r gs else joinRun s c w (p + 1) r (gs ++ [mkGroup p ok y b])
    | _, _ => joinRun s c w p r gs

/-- Starts a run of groups (01 R15), with the engine entries its blocks reserve. -/
def startRun (s : State) (c w : Nat) (gs : List Group) : State :=
  let n (p : Nat → Bool) : Nat := (gs.map (fun g => countWords g.words p)).foldl (· + ·) 0
  s.modQuarter c (quarterOf w) (fun t =>
    { t with run := some { wave := w, groups := gs, idx := 0, port := 0, snap := none,
                           resL := n ladleWord, resM := n mxWord, resC := n colWord } })

/-- The stop ordinal of a lane that stops where it stands: that of the prologue at its PC, while the L0 holds it (17 R382). -/
def idleSpo (k : Core) (vf : Nat) (x : Lane) (l : Nat) : W32 :=
  match l0Word k vf (x.level == .u) x.pc.toNat with
  | some p => landSpo (p.extractLsb' 64 64)
  | none => BitVec.ofNat 32 (Config.unstated 0x101 x.pc.toNat l)

/-- Lanes of a draining wave that are exited, held or not eligible stop (14 R323). -/
def stopIdle (s : State) (c w : Nat) (no : List Mask) : State :=
  match s.slot? c w with
  | none => s
  | some t =>
    if t.drains = false then s
    else
      s.modWave c w (fun v => { v with lanes := v.lanes.zipIdx.map (fun p =>
        if p.1.exited || p.1.stopped then p.1
        else if !candidate t.wave p.2 || no.any (fun m => m.getLsbD p.2) then
          { p.1 with stopped := true, stopSpo := idleSpo (s.core c) t.wave.vf p.1 p.2 }
        else p.1) })

/-- YIELD is over once this visit has passed (09 R215). -/
def endYield (s : State) (c w : Nat) (who : List Nat) : State :=
  who.foldl (fun s l => s.modLane c w l (fun x => { x with holds := x.holds.filter (fun h => h != .yield) })) s

/-- The vote and the start of a run for a resident wave (01 R13, R16); no run starts while a chosen block is not in the L0 (06
R134). -/
def visitWave (s : State) (c w : Nat) : State :=
  let yielded := match s.slot? c w with
    | some t => (List.range 32).filter (fun l => match t.wave.lanes[l]? with | some x => x.holds.contains .yield | none => false)
    | none => []
  let s := testHolds s c w
  let s := s.modWave c w (settle 17)
  match s.slot? c w with
  | none => s
  | some t =>
    let k := s.core c
    let (rL, rM, rC) := reserved k
    let (got, no) := choose k t.wave rL rM rC (voteSets t.wave) [] []
    let s := stopIdle s c w no
    let (s, gs) := if got.any (fun x => x.2 == .miss) then (s, []) else joinRun s c w 0 got []
    let s := endYield s c w yielded
    if gs.isEmpty then countEvent s (clusterOf c) t.wave.vf 4 1
    else startRun (countEvent s (clusterOf c) t.wave.vf 3 1) c w gs

/-- The barrel's visit to the next slot of a quarter: skipped when vacant, idle when parked, else a vote (01 R16). -/
def visit (s : State) (c q : Nat) : State :=
  let n := (s.quarter c q).slot
  let s := s.modQuarter c q (fun t => { t with slot := (n + 1) % 16 })
  let w := 16 * q + n
  match s.slot? c w with
  | none => s
  | some t => if t.parked then countEvent s (clusterOf c) t.wave.vf 4 1 else visitWave s c w

/-- Every lane of a draining wave has stopped (14 R324; 17 R377). -/
def allStopped (w : Wave) : Bool := w.lanes.all (fun x => x.exited || x.stopped)

/-! ## Fetching a block -/

/-- A fetch of one line: in the L0, refused, or waiting on a ticket. -/
inductive Fetched where
  | ok
  | refused
  | wait (ticket : Nat)
  deriving DecidableEq, Repr

/-- Puts a line in the L0 in place of any of its function and address. -/
def l0Put (s : State) (c : Nat) (e : L0Line) : State :=
  s.modCore c (fun k => { k with l0 := e :: k.l0.filter (fun x => !(x.vf == e.vf && x.va == e.va)) })

/-- Brings the line of an address to the L0 for a level (06 R134, R135); refused at once from the window, the heap aperture,
elided pages and apertures; by a fresh walk after a RETRY (16 R365). -/
def fetchLine (s : State) (c : Nat) (v : Wave) (l : Level) (va : W64) (fresh : Bool) : State × Fetched :=
  let vf := v.vf
  if (l0Word (s.core c) vf (l == .u) (va.toNat / 16 * 16)).isSome then (s, .ok)
  else if canonical va = false ∨ inWindow va ∨ inHeap va then (s, .refused)
  else
    match translate s (some c) (.fn vf (v.row l)) vf va.toNat (accX l) fresh with
    | (s, .refused a) => (refuseOwner s vf c a, .refused)
    | (s, .fault st cause tb g) =>
      let (s, k) := requestOf s (some c) vf va.toNat (accX l) st cause tb g
      (s, .wait k)
    | (s, .ok e) =>
      let a := e.apply va.toNat
      if e.elide then (s, .refused)
      else if hbmEnd ≤ a then (s, .refused)
      else if s.owned (.fn vf (v.row l)) a = false then (refuseOwner s vf c a, .refused)
      else
        (l0Put (homeTouch s (a / 64)) c { vf := vf, va := va.toNat / 64, spa := a / 64, u := e.u, data := (homeLine s (a / 64)).data }, .ok)

/-- The result of fetching the lines of several addresses: the first refusal, or the tickets to wait on. -/
def fetchLines (s : State) (c : Nat) (v : Wave) (l : Level) (fresh : Bool) : List W64 → List Nat → State × Option (List Nat)
  | [], ts => (s, some ts)
  | a :: r, ts =>
    match fetchLine s c v l a fresh with
    | (s, .ok) => fetchLines s c v l fresh r ts
    | (s, .wait k) => fetchLines s c v l fresh r (setIns ts k)
    | (s, .refused) => (s, none)

/-- Fetches the block at a PC: its prologue first, then its words (06 R134). -/
def fetchBlock (s : State) (c : Nat) (v : Wave) (l : Level) (pc : W64) (fresh : Bool) : State × Option (List Nat) :=
  match fetchLines s c v l fresh [pc] [] with
  | (s, some []) =>
    match l0Word (s.core c) v.vf (l == .u) pc.toNat with
    | none => (s, some [])
    | some p =>
      let h : W64 := p.extractLsb' 0 64
      if prologueBad h (p.extractLsb' 64 64) v.vgran then (s, some [])
      else fetchLines s c v l fresh ((List.range (hdrLen h)).map (fun i => pc + BitVec.ofNat 64 (16 + 16 * i))) []
  | r => r

end Sys2Proof.Machine
end

