-- ==== Sys2Proof/Machine/Place.lean ====
section
/-! DEFINITION. A fresh wave and lane, and the placing of one word in a run. -/

namespace Sys2Proof.Machine

/-- A trap record that nothing has written. -/
def TrapRec.none_ : TrapRec := default

/-- A thread at a PC (01 R19; 14 R311). [log 7: DESIGN CHOICE, unsafe] -/
def freshLane (pc : W64) (level : Level) (check : Landing) : Lane :=
  { pc := pc, level := level, check := check, holds := [], exited := false, trg := default, trh := default, due := [],
    held := none, srg := 0, stopped := false, stops := 0, stopSpo := 0, skipStop := false }

/-- A run of one block of one word at 0x1000 for all lanes of a wave at level H, flags f0 and f1 selected. -/
def oneWordRun (w : W128) : Run :=
  { wave := 0, idx := 0, port := 0, snap := none, resL := 1, resM := 1, resC := 1,
    groups := [{ port := 0, mask := 0xFFFFFFFF, pro := 0x1000, hdr := 0x8000000000020001, land := 0, words := [w], level := .h,
                 gone := 0, writes := [], acts := [], holds := [], trans := [], sps := [], detach := false, raised := [], exc := 0 }] }

/-- A wave with every register a wave can have. -/
def wideWave : Wave :=
  { uid := 0, vf := 0, gang := 0, cls := 0, world := 0, kern := 0, vgran := 128, sgran := 8, tregs := 16, aregs := 32,
    regs := default, zmap := List.range 32, lanes := List.replicate 32 (freshLane 0x1000 .h .none),
    flags := List.replicate 12 0, wstat := 0, rsbase := 0, stack := [], spilled := 0, refill := none, spillLog := [], ops := [],
    nextOp := 0, bars := List.replicate 16 default, lstat := LStat.initial, mstat := default, surf := none, lastBr := 0,
    detached := false }

/-- A gang of one wave with 256 KiB of G and one ring. -/
def wideGang : Gang :=
  { (default : Gang) with
    members := [0], level0 := 1,
    launch := { (default : Launch) with gkib := 256, winit := 1, wmax := 64, vgran := 128, sgran := 8, tregs := 16, aregs := 32 },
    bars := List.replicate 16 { ph := 0, e := 1, a := 0, held := [] },
    rings := [{ xoff := 0, stageb := 512, minst := 1, maxst := 1, filln := 0, drainn := 0, consn := 0, d := 1,
                stages := [.empty], drained := [false], fills := [], drains := [], waited := false, low := false }] }

/-- Places one word as the next to issue: a wave in slot 0 of quarter 0 of core 0, in a run of that word. -/
def placeWord (s : State) (w : W128) : State :=
  let k := s.core 0
  { (s.setCore 0 { k with
      slots := k.slots.ins 0 { wave := wideWave, drain := none, parked := false, stopping := false, watches := [] },
      gangs := k.gangs.ins 0 wideGang,
      quarters := listAdj k.quarters 0 (fun q => { q with run := some (oneWordRun w) }) })
    with agenda := [.issue 0 0] }

end Sys2Proof.Machine
end

