-- ==== Sys2Proof/Machine/Lsu.lean ====
section
/-! DEFINITION. What the words of rows 0xA to 0xC share: which word does what, gates of releases and acquires, the order of a
wave's accesses, the operand log, and the issue of an access of the shared space with its checks (03 R61 to R68, R85 to R87; 04
R93 to R97, R102; 09 R198 to R200). -/

namespace Sys2Proof.Machine

/-! ## Kinds of words -/

/-- Stores to the shared space (09 R202). -/
def isStore (o : Nat) : Bool := [0xA1, 0xA3, 0xA6, 0xAB, 0xAF].contains o
/-- Loads from the shared space that write a register (09 R202). -/
def isLoad (o : Nat) : Bool := [0xA0, 0xA2, 0xA4, 0xA5, 0xAA, 0xAC, 0xAD].contains o
/-- Stores to a local buffer (09 R207). -/
def isLocalStore (o : Nat) : Bool := [0xB1, 0xB4, 0xB6, 0xB8, 0xBA, 0xBC, 0xBE].contains o
/-- Accesses a release waits for (04 R94). -/
def isWrite (o : Nat) : Bool := isAtomic o || isStore o || isLocalStore o || o == 0xE4

/-- The local buffer a word names (09 R207, R210). -/
def localBuf (o : Nat) (f : Fields) : Option Buf :=
  if [0xB0, 0xB1, 0xB9, 0xBA, 0xBE, 0xBF].contains o then some .g
  else if o = 0xB2 ∨ o = 0xBD then some .w
  else if [0xB3, 0xB4, 0xBB, 0xBC].contains o then some .x
  else if [0xB5, 0xB6, 0xB7, 0xB8].contains o then some .z
  else if isAtomic o ∧ f.m 14 1 = 1 then some .g
  else none

/-- Bytes of one lane's access (09 R199, R202, R204, R210). -/
def accSize (o : Nat) (f : Fields) : Nat :=
  if isAtomic o then (if type64 (f.m 11 3) then 8 else 4)
  else if o = 0xAD then (if f.m 3 5 ≤ 2 then 2 else 1)
  else if o = 0xAE then 1
  else if [0xAF, 0xDF, 0xE8, 0xE9].contains o then 64
  else 2 ^ f.m 0 3

/-! ## Order of a wave's accesses -/

/-- A lane's access is not performed yet. -/
def LaneOp.open_ (l : LaneOp) : Bool :=
  match l.st with
  | .known => false
  | .done => false
  | _ => true

/-- A lane of an earlier access waits on page requests in the 4 KiB region of va, or has come from there and is not performed yet
(03 R86). -/
def pendingRegion (l : LaneOp) (va : W64) : Bool :=
  l.va >>> 12 == va >>> 12 &&
  match l.st with
  | .logged _ => true
  | .behind => true
  | _ => l.past != .fresh && l.open_

/-- The 64-byte line of an address; both views of the register window name the same elements (03 R65, R77). -/
def lineVa (va : W64) : W64 := (if inWindow va then va &&& ~~~0x1000000 else va) >>> 6

/-- An access that has not been performed touches the line of va, or holds its region. -/
def holdsLine (l : LaneOp) (va : W64) : Bool :=
  match l.st, l.tgt with
  | .ready, .loc _ => false
  | .ready, _ => lineVa l.va == lineVa va || pendingRegion l va
  | .sent _, _ => lineVa l.va == lineVa va || pendingRegion l va
  | .waiting, _ => lineVa l.va == lineVa va || pendingRegion l va
  | .read _, _ => lineVa l.va == lineVa va || pendingRegion l va
  | _, _ => pendingRegion l va

/-- Operations of the shared space. -/
def isShared (o : Op) : Bool :=
  (isLoad o.opc || isStore o.opc || isAtomic o.opc || [0xDF, 0xE0, 0xE1, 0xE8, 0xE9].contains o.opc) && (localBuf o.opc o.f).isNone

/-- An earlier access of the wave to the same location must be performed first (04 R99, R100). -/
def sharedBlocked (v : Wave) (id : Nat) (va : W64) : Bool :=
  v.ops.any (fun o => decide (o.id < id) && isShared o && o.lanes.any (fun l => holdsLine l va))

/-- A lower lane of the same word comes first at the same location (03 R65; 09 R212). [log 35: DESIGN CHOICE, unsafe] -/
def laneBlocked (o : Op) (lane : Nat) (va : W64) : Bool :=
  o.lanes.any (fun l => decide (l.lane < lane) && holdsLine l va)

/-- A local access of the wave numbered below id has not been performed. -/
def localBlocked (v : Wave) (id : Nat) : Bool :=
  v.ops.any (fun o => decide (o.id < id) && ((localBuf o.opc o.f).isSome || o.opc == 0xE4) && o.lanes.any (fun l => l.st == .ready))

/-- A lane's access is performed as far as a release at a scope asks (04 R94): an atomic once it is performed, a store once it is in
the write queue or acknowledged (04 R102). -/
def laneReleased (k : Core) (scope : Nat) (atomic : Bool) (l : LaneOp) : Bool :=
  match l.st with
  | .known => true
  | .done => true
  | .queued id =>
    match k.wq.find? (fun e => e.id == id) with
    | some e => !releaseWaitsFor scope e
    | none => true
  | .sent _ => !atomic && decide (scope < 10)
  | _ => false

/-- A release at a scope, made by operation id, is done (04 R94; 18 R395): every earlier write and atomic but UNPAIRED ones, and the
reads that follow writes to host ports. -/
def releaseDone (k : Core) (v : Wave) (id scope : Nat) : Bool :=
  portsRead k scope && v.ops.all (fun o =>
    decide (id ≤ o.id) || !isWrite o.opc || (isAtomic o.opc && ordOf o.f == 0) ||
      o.lanes.all (laneReleased k scope (isAtomic o.opc)))

/-- A lane's access may be a read behind a host port or at a peer that is still out. -/
def hostRead (l : LaneOp) : Bool :=
  l.open_ &&
  match l.tgt with
  | .port _ _ => true
  | .peer _ _ => true
  | .none => true
  | _ => false

/-- An acquire at a scope, made by operation id, may be performed: at HOST and SYS it also comes after the wave's earlier reads of
hosts and peers (03 R68). -/
def acquireMay (v : Wave) (id scope : Nat) : Bool :=
  decide (scope < 10) || v.ops.all (fun o =>
    decide (id ≤ o.id) || !isShared o || isStore o.opc || !o.lanes.any hostRead)

/-- An atomic carries a release (09 R211). -/
def atomReleases (o : Op) : Bool := [6, 7, 8].contains (ordOf o.f)

/-- An ordered atomic waits for its own release, or for the reads its acquire comes after (03 R68; 04 R97). -/
def atomWaits (k : Core) (v : Wave) (o : Op) : Bool :=
  isAtomic o.opc &&
  (([5, 7, 8].contains (ordOf o.f) && !acquireMay v o.id (o.f.m 7 4)) ||
    (atomReleases o && !o.released && !releaseDone k v o.id (o.f.m 7 4)))

/-! ## Gates -/

/-- WAITCHK's bits are set, or the phase a barrier wait names has passed; `released` tells that the wait knows its phase (09 R216,
R218). -/
def gateOver (s : State) (c : Nat) (v : Wave) (g : Op) : Bool :=
  if g.opc = 0x14 then holdOver s c v (.waitchk (BitVec.ofNat 32 g.n) (BitVec.ofNat 32 g.m))
  else if g.opc = 0x16 then
    g.released && acquireMay v g.id (g.f.m 7 4) && (match s.gang? c v.gang with
      | some u => phasePassed (u.bars.getD g.n default).ph (BitVec.ofNat 32 g.m)
      | none => true)
  else false

/-- A wave after a wait of its that is over: the word has ended, and a WAITCHK's read that found its bits holds no lane any more (09 R216). -/
def Wave.endWait (v : Wave) (g : Op) : Wave :=
  let mine (h : Hold) : Bool := g.opc == 0x14 && h == .waitchk (BitVec.ofNat 32 g.n) (BitVec.ofNat 32 g.m)
  { v with lanes := v.lanes.map (fun (l : Lane) => { l with holds := l.holds.filter (fun h => !mine h) }) }.endOp g.id

/-- Removes the waits of a wave that are over; a barrier wait acquires (09 R218). -/
def openGates (s : State) (c w : Nat) : State :=
  match s.slot? c w with
  | none => s
  | some t =>
    let past := t.wave.ops.filter (gateOver s c t.wave)
    let s := past.foldl (fun s g => if g.opc = 0x16 then acquireAt s c (g.f.m 7 4) else s) s
    past.foldl (fun s g => s.modWave c w (fun v => v.endWait g)) s

/-! ## The operand log -/

/-- Some lane waits on page requests. -/
def Op.anyLogged (o : Op) : Bool :=
  o.lanes.any (fun l => match l.st with | .logged _ => true | _ => false)

/-- Gives a log entry to operation id when it has logged lanes: an entry, or the port while the log is full (03 R85). -/
def takeLog (s : State) (c w id : Nat) : State :=
  match (s.slot? c w).bind (fun t => t.wave.op? id) with
  | none => s
  | some o =>
    if !o.anyLogged || o.log != .none then s
    else
      let r : LogSt := if logUse (s.core c) (quarterOf w) < 64 then .entry else .port
      s.modWave c w (fun v => v.modOp id (fun o => { o with log := r }))

/-- What of a wave is held at its quarter's memory port for want of a log entry takes one: its oldest operation, else a spill, else its
refill; none where nothing is (03 R85). -/
def Wave.takeFreed (v : Wave) : Option Wave :=
  match v.ops.find? (fun o => o.log == .port), v.spillLog.find? (fun e => e.log == .port), v.refill with
  | some o, _, _ => some (v.modOp o.id (fun o => { o with log := .entry }))
  | none, some e, _ => some { v with spillLog := v.spillLog.map (fun (x : Spill) => if x.idx = e.idx then { x with log := .entry } else x) }
  | none, none, some r => if r.log = .port then some { v with refill := some { r with log := .entry } } else none
  | none, none, none => none

/-- An entry of a quarter's log is free again: what is held at the port takes it, of the lowest wave that has such (03 R85).  [log 130: DESIGN CHOICE, unsafe] -/
def giveFreed (s : State) (c q : Nat) : State :=
  match ((s.core c).waves.filter (fun p => quarterOf p.1 == q)).findSome? (fun p => p.2.takeFreed.map (fun v => (p.1, v))) with
  | some (w, v) => s.modWave c w (fun _ => v)
  | none => s

/-- Frees the entry of an operation without logged lanes (03 R85). -/
def freeLog (s : State) (c w id : Nat) : State :=
  match (s.slot? c w).bind (fun t => t.wave.op? id) with
  | none => s
  | some o =>
    if o.anyLogged || o.log == .none then s
    else
      let s := s.modWave c w (fun v => v.modOp id (fun o => { o with log := .none }))
      if o.log = .entry then giveFreed s c (quarterOf w) else s

/-! ## Lanes of an operation -/

/-- Changes the lane entry of an operation. -/
def Wave.modLaneOp (v : Wave) (id lane : Nat) (g : LaneOp → LaneOp) : Wave :=
  v.modOp id (fun o => { o with lanes := o.lanes.map (fun l => if l.lane = lane then g l else l) })

/-- Sets where a lane of an operation stands. -/
def setLane (s : State) (c w id lane : Nat) (st : LaneSt) : State :=
  s.modWave c w (fun v => v.modLaneOp id lane (fun l => { l with st := st }))

/-- Register writes kept in an operation for one lane. -/
def RegWrite.inLane (lane : Nat) (r : RegWrite) : Bool :=
  match r.elem with
  | .v _ l => l == lane
  | .p _ l => l == lane
  | _ => true

/-- Every lane of an operation has completed. -/
def Op.allDone (o : Op) : Bool := o.lanes.all (fun l => l.st == .done)

/-- Marks a lane of an operation completed and keeps its exception bits. -/
def Op.doneLane (o : Op) (lane : Nat) (e : Exc) : Op :=
  { o with exc := o.exc ||| e, lanes := o.lanes.map (fun (l : LaneOp) => if l.lane = lane then { l with st := .done } else l) }

/-- Lands a lane's writes: those kept in operation id, then ws. -/
def Wave.landLane (v : Wave) (id lane : Nat) (ws : List RegWrite) : Wave :=
  match v.op? id with
  | none => v
  | some o => { v with regs := v.regs.writes (o.writes.filter (RegWrite.inLane lane) ++ ws) }

/-- A lane completes: its registers are written, exception bits are kept, and with the last lane the word's bits are ORed, an
acquire it carries is done and its flag falls (02 R58; 09 R200, R419). -/
def finishLane (s : State) (c w id lane : Nat) (ws : List RegWrite) (e : Exc) : State :=
  let s := s.modWave c w (fun v => (v.landLane id lane ws).modOp id (fun o => o.doneLane lane e))
  let s := freeLog s c w id
  match (s.slot? c w).bind (fun t => t.wave.op? id) with
  | none => s
  | some o =>
    if o.allDone = false then s
    else
      let s := if isAtomic o.opc ∧ [5, 7, 8].contains (ordOf o.f) then acquireAt s c (o.f.m 7 4) else s
      s.modWave c w (fun v => (v.orWstat o.exc).endOp id)

/-- A lane ends with a completion cause and no register written (14 R315). -/
def failLane (s : State) (c w id lane code sub : Nat) (aux2 : W32) : State :=
  match (s.slot? c w).bind (fun t => t.wave.op? id) with
  | none => s
  | some o =>
    let va := match o.lanes.find? (fun l => l.lane == lane) with | some l => l.va | none => 0
    let s := s.modWave c w (fun v => v.modOp id (fun o => { o with writes := o.writes.filter (fun r => !r.inLane lane) }))
    finishLane (completionCause s c w lane
      { code := code, sub := sub, spo := o.spo, off := o.off, aux := va, aux2 := aux2, level := o.level }) c w id lane [] 0

/-! ## Issue of a shared access -/

/-- One lane's access as its word forms it. -/
structure Want where
  lane : Nat
  va : W64
  src : W128
  src2 : W64
  deriving DecidableEq, Repr

/-- What the look-up of a 4 KiB region gives its lanes (03 R64, R66). -/
inductive LaneX where
  | ok (e : TlbEnt)
  | wait (ticket : Nat)
  | refused
  deriving DecidableEq, Repr

/-- Looks a region up once (03 R64); a fault queues a page request or joins one (16 R361). -/
def lookRegion (s : State) (c f : Nat) (l : Level) (a : Acc) (va : Nat) (fresh : Bool) : State × LaneX :=
  match translate s (some c) (.fn f l) f va a fresh with
  | (s, .ok e) => (s, .ok e)
  | (s, .fault st cause tb g) =>
    let (s, k) := requestOf s (some c) f va a st cause tb g
    (s, .wait k)
  | (s, .refused a) => (refuseOwner s f c a, .refused)

/-- A function's world grant over a heap address (12 R281): the slot lies in the pool of a world that grants the function. -/
def heapReadable (s : State) (f : Nat) (va : W64) : Bool :=
  let n := (va.extractLsb' 0 34).toNat / 512
  (s.func f).valid && s.worlds.any (fun p => p.2.grants.getLsbD f && decide (p.2.sbase ≤ n ∧ n < p.2.sbase + p.2.scnt))

/-- The system physical address of a heap aperture address (12 R279). -/
def heapSpa (s : State) (va : W64) : Nat := s.conf.heapspa.toNat + (va.extractLsb' 0 34).toNat

/-- Where a lane stands after the look-up of its region: a trap, or a place (03 R66; 18 R394). -/
def placeLane (s : State) (c f : Nat) (lv : Level) (w : Want) (r : LaneX) : State × Except Nat LaneOp :=
  let mk (t : Target) (st : LaneSt) : LaneOp := { lane := w.lane, va := w.va, src := w.src, src2 := w.src2, tgt := t, st := st }
  match r with
  | .wait k => (s, .ok { mk .none (.logged [k]) with past := .logged })
  | .refused => (s, .ok (mk .none .ready))
  | .ok e =>
    let a := e.apply w.va.toNat
    if e.elide then (s, .error 9)
    else
      match targetOf f lv a with
      | .none => (refuseOwner s f c a, .ok (mk .none .ready))
      | t => (s, .ok (mk t .ready))

/-- The words whose reads of the heap aperture may be permitted: the loads of row 0xA, TEX and TEXG (12 R281). -/
def heapRead (o : Nat) : Bool := isLoad o || o == 0xE0 || o == 0xE1

/-- One lane's checks in the order of R200, and its place (09 R200). -/
def checkWant (s : State) (x : Ctx) (o n : Nat) (a : Acc) (w : Want) (seen : List (Nat × LaneX)) :
    State × List (Nat × LaneX) × Except Nat LaneOp :=
  let f := x.wv.vf
  let mk (t : Target) (st : LaneSt) : LaneOp := { lane := w.lane, va := w.va, src := w.src, src2 := w.src2, tgt := t, st := st }
  if canonical w.va = false then (s, seen, .error 6)
  else if w.va.toNat % n ≠ 0 then (s, seen, .error 7)
  else if inWindow w.va then (s, seen, .ok (mk (.window w.va.toNat) .ready))
  else if inHeap w.va then
    if heapRead o && heapReadable s f w.va then (s, seen, .ok (mk (.heap (heapSpa s w.va)) .ready))
    else (s, seen, .error 18)
  else if x.wv.ops.any (fun p => p.lanes.any (fun l => pendingRegion l w.va)) then (s, seen, .ok { mk .none .behind with past := .held })
  else
    let reg := w.va.toNat / 4096
    match seen.find? (fun p => p.1 == reg) with
    | some (_, r) =>
      let (s, l) := placeLane s x.core f x.g.level w r
      (s, seen, l)
    | none =>
      let (s, r) := lookRegion s x.core f (x.wv.row x.g.level) a w.va.toNat false
      let (s, l) := placeLane s x.core f x.g.level w r
      (s, (reg, r) :: seen, l)

/-- All lanes' checks: traps with their lanes, and the lanes that go on. -/
def checkWants (s : State) (x : Ctx) (o n : Nat) (a : Acc) :
    List Want → List (Nat × LaneX) → List (Nat × Nat × W64) → List LaneOp → State × List (Nat × Nat × W64) × List LaneOp
  | [], _, ts, ls => (s, ts, ls)
  | w :: r, seen, ts, ls =>
    match checkWant s x o n a w seen with
    | (s, seen, .error c) => checkWants s x o n a r seen (ts ++ [(w.lane, c, w.va)]) ls
    | (s, seen, .ok l) => checkWants s x o n a r seen ts (ls ++ [l])

/-- Takes the issue traps of several lanes, each with its own cause and address. -/
def laneTraps (s : State) (x : Ctx) (ts : List (Nat × Nat × W64)) : State :=
  ts.foldl (fun s t => issueTraps s x [t.1] t.2.1 0 (fun _ => t.2.2) 0) s

/-- The bytes a store word writes in a lane. -/
def storeBytes (o : Nat) (f : Fields) (src : W128) : List Byte :=
  if o = 0xAF then List.replicate 64 0 else leBytes (accSize o f) src.toNat

/-- Targets in one 64-byte line. -/
def Target.sameLine (a b : Target) : Bool :=
  match a, b with
  | .hbm x, .hbm y => x / 64 == y / 64
  | .heap x, .heap y => x / 64 == y / 64
  | .port n x, .port m y => n == m && x / 64 == y / 64
  | .peer n x, .peer m y => n == m && x / 64 == y / 64
  | _, _ => false

/-- The lanes of a store word whose bytes go to one line with lane l's (03 R64). -/
def storeMates (v : Wave) (o : Op) (l : LaneOp) : List LaneOp :=
  o.lanes.filter (fun k => k.lane == l.lane ||
    (k.st == .ready && k.tgt.sameLine l.tgt && !gated v o.id (some k.lane) && !sharedBlocked v o.id k.va))

/-- A lane of the word outside ms comes first at a location of theirs (03 R65). -/
def mateBlocked (o : Op) (ms : List LaneOp) : Bool :=
  ms.any (fun m => o.lanes.any (fun k =>
    decide (k.lane < m.lane) && ms.all (fun x => x.lane != k.lane) && holdsLine k m.va))

/-- The entry of lanes ms of a store, all in one line: its bytes with their mask, the highest lane's where several write one byte
(03 R64, R65). -/
def lineEntry (c w : Nat) (v : Wave) (o : Op) (ms : List LaneOp) : WqEntry :=
  let at_ (l : LaneOp) : Nat := l.va.toNat % 64
  let n (l : LaneOp) : Nat := (storeBytes o.opc o.f l.src).length
  let first := ms.foldl (fun a l => if at_ l < at_ a then l else a) (ms.headD default)
  let lo := at_ first
  let hi := ms.foldl (fun h l => max h (at_ l + n l)) 0
  let byte (i : Nat) : Option Byte :=
    (ms.reverse.find? (fun l => decide (at_ l ≤ lo + i ∧ lo + i < at_ l + n l))).map (fun l =>
      (storeBytes o.opc o.f l.src).getD (lo + i - at_ l) 0)
  { id := 0, tgt := first.tgt, bytes := (List.range (hi - lo)).map (fun i => (byte i).getD 0),
    holes := (List.range (hi - lo)).filter (fun i => (byte i).isNone), vf := v.vf, level := o.level, world := v.world,
    who := some (v.uid, w, o.id), lanes := ms.map (fun l => (l.lane, at_ l - lo, n l)), va := first.va, eng := none,
    wr := laneWriter c w v.gang o.spo o.off first.lane, poison := [],
    priv := v.priv }

/-- A store's lane enters the write queue, with those of its word in its line; none while something earlier holds it back (03 R64,
R67; 04 R94, R96). -/
def storeGo (s : State) (c w id lane : Nat) : Option State :=
  match s.slot? c w with
  | none => none
  | some t =>
    match t.wave.op? id with
    | none => none
    | some o =>
      match o.lanes.find? (fun l => l.lane == lane) with
      | none => none
      | some l =>
        let go := match l.st, l.tgt with
          | .ready, .none => false
          | .ready, .window _ => false
          | .ready, .loc _ => false
          | .ready, _ => true
          | _, _ => false
        let ms := storeMates t.wave o l
        if !go || gated t.wave id (some lane) || sharedBlocked t.wave id l.va || mateBlocked o ms then none
        else
          let (s, q) := enqueue s c (lineEntry c w t.wave o ms)
          some (ms.foldl (fun s m => setLane s c w id m.lane (.queued q)) s)

/-- A store's lane enters the write queue where it may. -/
def kickStore (s : State) (c w id lane : Nat) : State := (storeGo s c w id lane).getD s

/-! ## Watchpoints -/

/-- A write of n bytes at va touches a watched byte (17 R380). -/
def Watch.covers (p : Watch) (vf : Nat) (va n : Nat) : Bool :=
  p.en && p.vf == vf &&
  (List.range 16).any (fun i => p.bmask.getLsbD i &&
    decide (va ≤ p.addr.toNat / 16 * 16 + i ∧ p.addr.toNat / 16 * 16 + i < va + n))

/-- Hits of one watchpoint by the lanes of a word: a WATCH record, and the stop WATCH due in them (17 R380). With STOPEN clear no
stop falls due, and the record stands with skid 0. -/
def watchHit (s : State) (x : Ctx) (u : Nat) (ls : List LaneOp) : State :=
  match ls with
  | [] => s
  | l :: _ =>
    let m := maskOf (fun i => ls.any (fun k => k.lane == i))
    let p : PendWatch := { unit := u, spo := x.spo, off := x.idx, mask := m, addr := l.va, lane := l.lane, n := 0,
                           fixed := wordS x.word, now := true }
    if (s.func x.wv.vf).dbg.stopen then
      let s := s.modSlot x.core x.wid (fun t => { t with watches := t.watches ++ [p] })
      ls.foldl (fun s k => dueStop s x.core x.wid k.lane 4) s
    else
      debugRecord s x.wv.vf
        { kind := 2, cause := 66, core := x.core, wave := x.wid, gang := x.wv.gang, eng := x.core % 4096, spo := p.spo, off := p.off,
          unit := u, mask := m, addr := l.va }

/-- Tests a word's accesses against the core's watchpoints (17 R380). -/
def watchHits (s : State) (x : Ctx) (n : Nat) (ls : List LaneOp) : State :=
  ((s.core x.core).watch.zipIdx).foldl (fun s p =>
    watchHit s x p.2 (ls.filter (fun l => p.1.covers x.wv.vf l.va.toNat n))) s

/-- An access word of the shared space: checks, traps, the operation with its lanes, the log, watchpoints, and stores that may go
(09 R198 to R200). A lane whose result is known already needs no check. -/
def sharedWord (o : Nat) (f : Fields) (s : State) (acc : Level → Acc) (known : Ctx → List (Nat × List RegWrite))
    (wants : Ctx → List Want) : Res :=
  issueWord o f s (fun x s =>
    let n := accSize o f
    let id := x.wv.nextOp
    let (s, ts, ls) := checkWants s x o n (acc x.g.level) (wants x) [] [] []
    let s := laneTraps s x ts
    let ks := known x
    let kl : List LaneOp := ks.map (fun k => { lane := k.1, va := 0, src := 0, src2 := 0, tgt := .none, st := .known })
    if ls.isEmpty ∧ ks.isEmpty then s
    else
      let s := addOp x { x.op o f with lanes := kl ++ ls, writes := ks.flatMap Prod.snd } s
      let s := takeLog s x.core x.wid id
      let s := if isStore o ∨ (isAtomic o ∧ o ≠ 0xCB) then watchHits s x n ls else s
      if isStore o then ls.foldl (fun s l => kickStore s x.core x.wid id l.lane) s else s)

/-! ## Addresses and data -/

/-- A base plus IMM (09 R198). -/
def baseOff (x : Ctx) (f : Fields) (l : Nat) : W64 := x.rd64 f f.a l + f.imm.signExtend 64
/-- A Q-form address (09 R198). -/
def qAddr (x : Ctx) (f : Fields) (n l : Nat) : W64 := baseOff x f l + BitVec.ofNat 64 (n * l)

/-- A source of n bytes in a lane, low bytes first (09 R199). -/
def dataOf (x : Ctx) (f : Fields) (o : Opnd) (n l : Nat) : W128 :=
  if n = 16 then x.rd128 o l else if n = 8 then (x.rd64 f o l).setWidth 128 else (x.rd f o l).setWidth 128

/-- Register writes of n loaded bytes: small values fill with zeros, or with the sign under SX (09 R199). -/
def loadWrites (f : Fields) (n : Nat) (sx : Bool) (lane : Nat) (bs : List Byte) : List RegWrite :=
  let v := leNat bs
  if n = 16 then wrWide f.dst lane 4 (BitVec.ofNat 128 v)
  else if n = 8 then wr64 f.dst lane (BitVec.ofNat 64 v)
  else if sx ∧ n = 1 then wr32 f.dst lane ((BitVec.ofNat 8 v).signExtend 32)
  else if sx ∧ n = 2 then wr32 f.dst lane ((BitVec.ofNat 16 v).signExtend 32)
  else wr32 f.dst lane (BitVec.ofNat 32 v)

/-- The writes and bits of a load word in a lane (09 R199, R204). -/
def loadResult (o : Nat) (f : Fields) (lane : Nat) (bs : List Byte) : List RegWrite × Exc :=
  if o = 0xAD then
    let t : Fmt := match f.m 3 5 with | 1 => .fp16 | 2 => .bf16 | 3 => .e4m3 | _ => .e5m2
    let v := decodeF t (leNat bs)
    (wr32 f.dst lane (BitVec.ofNat 32 (roundV .fp32 1 false v).1), v.sigExc)
  else (loadWrites f (accSize o f) (f.m 3 1 == 1) lane bs, 0)

end Sys2Proof.Machine
end

