-- ==== Sys2Proof/Machine/Atomic.lean ====
section
/-! DEFINITION. What an atomic computes (09 R210, R211; 04 R104). -/

namespace Sys2Proof.Machine

/-- What an atomic does at its location: what it writes if anything, what it returns, its bits, and whether its store was
performed. -/
structure AtomRes where
  new : Option Nat
  old : Nat
  exc : Exc
  ok : Bool
  deriving DecidableEq, Repr

/-- ATFADD's sum: per element for the packed types; every NaN is the canonical one (09 R211; 08 R180). -/
def atomFadd (t rm : Nat) (a b : Nat) : Nat × Exc :=
  let one (m : Fmt) (a b : Nat) : Nat × Exc := finish m rm (addV rm (decodeF m a) (decodeF m b))
  let two (m : Fmt) : Nat × Exc :=
    let (lo, e0) := one m (a % 65536) (b % 65536)
    let (hi, e1) := one m (a / 65536) (b / 65536)
    (lo + 65536 * hi, e0 ||| e1)
  match t with
  | 4 => one .fp32 a b
  | 5 => one .fp64 a b
  | 6 => two .fp16
  | _ => two .bf16

/-- The atomic of an opcode on a location that holds old, with operands b and c of TYPE t; spec tells whether a SPECULATIVE
compare-and-swap fails without a mismatch (09 R211; 04 R104). -/
def atomOn (o t rm old b c : Nat) (spec : Bool) : AtomRes :=
  let w := if type64 t then 64 else 32
  let sg := t == 1 || t == 3
  let lt (x y : Nat) : Bool := if sg then decide ((BitVec.ofNat w x).toInt < (BitVec.ofNat w y).toInt) else decide (x < y)
  let put (v : Nat) : AtomRes := { new := some (v % 2 ^ w), old := old, exc := 0, ok := true }
  match o with
  | 0xC0 => put (old + b)
  | 0xC1 => put (if lt b old then b else old)
  | 0xC2 => put (if lt old b then b else old)
  | 0xC3 => put (old &&& b)
  | 0xC4 => put (old ||| b)
  | 0xC5 => put (old ^^^ b)
  | 0xC6 => put b
  | 0xC7 => if old = b ∧ spec = false then put c else { new := none, old := old, exc := 0, ok := false }
  | 0xC8 => put (if b ≤ old then 0 else old + 1)
  | 0xC9 => put (if old = 0 ∨ b < old then b else old - 1)
  | 0xCA =>
    let (v, e) := atomFadd t rm old b
    { (put v) with exc := e }
  | 0xCB => { new := none, old := old, exc := 0, ok := false }
  | _ => put b

/-- The register writes of an atomic in a lane: old, and ATCAS's success predicate under PSE (09 R210, R211). -/
def atomWrites (o : Nat) (f : Fields) (lane old : Nat) (ok : Bool) : List RegWrite :=
  loadWrites f (accSize o f) false lane (leBytes (accSize o f) old) ++
  (if o = 0xC7 ∧ f.m 19 1 = 1 then [⟨.p (f.m 15 4) lane, if ok then 1 else 0⟩] else [])

/-- A SPECULATIVE compare-and-swap (04 R104). -/
def isSpec (o : Op) : Bool := o.opc == 0xC7 && ordOf o.f == 4

/-- A SPECULATIVE compare-and-swap whose wave was pre-empted between its issue and its performance, which fails (04 R104). -/
def specLost (o : Op) : Bool := isSpec o && o.n == 1

/-- One free value has been taken. -/
def State.useFree (s : State) : State := { s with free := s.free + 1 }

end Sys2Proof.Machine
end

