-- ==== Sys2Proof/Machine/Window.lean ====
section
/-! DEFINITION. The register window (03 R77 to R79; 02 R46, R59, R60). -/

namespace Sys2Proof.Machine

/-- Who reaches into the window: its level, function, and, below G, its core and gang (03 R78). -/
structure WinParty where
  level : Level
  vf : Nat
  core : Nat
  gang : Nat
  deriving DecidableEq, Repr

/-- What a 32-bit word of the save-area layout is (02 R46). -/
inductive WinWord where
  | elem (e : RegElem)
  /-- predicate i, lane L in bit L -/
  | mask (i : Nat)
  /-- a word of Z -/
  | z (i : Nat)
  deriving DecidableEq, Repr

/-- The word at an offset of a class, within the wave's allocation (02 R46). -/
def winWord (v : Wave) (cls off : Nat) : Option WinWord :=
  match cls with
  | 0 => if off < v.vgran * 2048 then some (.elem (.v (off / 128) (off / 4 % 32))) else none
  | 1 => if off < v.sgran * 128 then some (.elem (.u (off / 4))) else none
  | 2 => if off < 64 then some (.mask (off / 4)) else none
  | 3 => if off < v.tregs * 32 then some (.elem (.t (off / 32) (off % 32 / 4))) else none
  | _ => if off < v.aregs * 16384 then (zIndex v.zmap off).map .z else none

/-- CORE of a window address. -/
def winCore (a : Nat) : Nat := bits a 39 31
/-- WAVE of a window address. -/
def winWave (a : Nat) : Nat := bits a 30 25
/-- The FORCE view. -/
def winForce (a : Nat) : Bool := a.testBit 24

/-- The job of a gang: function, queue and card. -/
def Gang.job (g : Gang) : Option (Nat × Nat × W32) := g.unit.map (fun u => (g.vf, u.1, u.2.1))

/-- The party's own job, or gang for a write, holds the target wave (03 R78). -/
def winOwn (s : State) (p : WinParty) (a : Nat) (v : Wave) (write : Bool) : Bool :=
  if p.core = winCore a ∧ p.gang = v.gang then true
  else if write then false
  else
    match (s.gang? p.core p.gang).bind Gang.job, (s.gang? (winCore a) v.gang).bind Gang.job with
    | some x, some y => x == y
    | _, _ => false

/-- R78's table. -/
def winAllowed (s : State) (p : WinParty) (a : Nat) (v : Wave) (write : Bool) : Bool :=
  match p.level with
  | .u => !winForce a && winOwn s p a v write
  | .g => v.vf == p.vf
  | .h => true

/-- The word a window access of 4 bytes reaches, or the refusal's cause: 1 CLASS, 2 PRIV, 3 ABSENT (03 R77 to R79). -/
def winCheck (s : State) (p : WinParty) (a : Nat) (write : Bool) : Except Nat WinWord :=
  if 4 < bits a 23 21 ∨ a.testBit 20 then .error 1
  else
    match s.slot? (winCore a) (winWave a) with
    | none => .error 3
    | some t =>
      match winWord t.wave (bits a 23 21) (bits a 19 0) with
      | none => .error 3
      | some e => if winAllowed s p a t.wave write then .ok e else .error 2

/-- A word of a wave as the window reads it, and whether it is poisoned (18 R404). -/
def winGet (s : State) (c : Nat) (v : Wave) (e : WinWord) : W32 × Bool :=
  match e with
  | .elem (.v i l) => (v.regs.read (.v i l), v.regs.vpois.contains (32 * i + l))
  | .elem (.u i) => (v.regs.read (.u i), v.regs.upois.contains i)
  | .elem (.t i w) => (v.regs.read (.t i w), v.regs.tpois.contains (8 * i + w))
  | .elem (.p i l) => (v.regs.read (.p i l), v.regs.predPois i)
  | .elem e => (v.regs.read e, false)
  | .mask i => (if i = 15 then 0xFFFFFFFF else Tab.get (0 : Mask) v.regs.pred i, v.regs.predPois i)
  | .z i => (zRead s c i, (s.core c).zpois.contains i)

/-- A write of a word of a wave; a write to p15 does nothing. -/
def winPut (s : State) (c w : Nat) (e : WinWord) (x : W32) : State :=
  match e with
  | .elem e => s.modWave c w (fun v => { v with regs := v.regs.write e x })
  | .mask i =>
    if i = 15 then s
    else s.modWave c w (fun v => { v with regs := { v.regs with
      pred := Tab.put (0 : Mask) v.regs.pred i x, ppois := v.regs.ppois.filter (fun n => n / 32 != i) } })
  | .z i => zWrite s c i x

/-- The lanes of pending replayed loads of a wave that will write an element, from the fault to their completion (02 R60):
operation and lane. -/
def replaysTo (v : Wave) (e : WinWord) : List (Nat × Nat) :=
  match e with
  | .elem e => v.ops.flatMap (fun o =>
      if isLoad o.opc then
        (o.lanes.filter (fun l => l.past == .logged && l.st != .done &&
          (destElems o.f.dst l.lane ((accSize o.opc o.f + 3) / 4)).contains e)).map (fun l => (o.id, l.lane))
      else [])
  | _ => []

/-- How a window access of one lane or engine ends. -/
inductive WinRes where
  | ok (v : W32) (poison : Bool)
  | refused (sub : Nat)
  | pending
  deriving DecidableEq, Repr

/-- Reads a window word. -/
def winRead (s : State) (p : WinParty) (a : Nat) : WinRes :=
  match winCheck s p a false, s.slot? (winCore a) (winWave a) with
  | .ok e, some t =>
    let (x, b) := winGet s (winCore a) t.wave e
    .ok x b
  | .ok _, none => .refused 3
  | .error k, _ => .refused k

/-- Writes a window word: refused while a replay will write the element, unless the FORCE view drops that replay (02 R60). -/
def winWrite (s : State) (p : WinParty) (a : Nat) (x : W32) : State × WinRes :=
  match winCheck s p a true, s.slot? (winCore a) (winWave a) with
  | .ok e, some t =>
    let rs := replaysTo t.wave e
    if rs.isEmpty then (winPut s (winCore a) (winWave a) e x, .ok 0 false)
    else if winForce a then
      let s := rs.foldl (fun s r =>
        finishLane (s.modWave (winCore a) (winWave a) (fun v => v.modOp r.1 (fun o =>
          { o with writes := o.writes.filter (fun u => !u.inLane r.2) }))) (winCore a) (winWave a) r.1 r.2 [] 0) s
      (winPut s (winCore a) (winWave a) e x, .ok 0 false)
    else (s, .pending)
  | .ok _, none => (s, .refused 3)
  | .error k, _ => (s, .refused k)

/-- A window access waits until its target wave is between two runs (02 R59). -/
def winBusy (s : State) (a : Nat) : Bool :=
  match (s.quarter (winCore a) (quarterOf (winWave a))).run with
  | some r => r.wave == winWave a
  | none => false

/-- A lane's party in the window. -/
def laneParty (c : Nat) (v : Wave) (level : Level) : WinParty := { level := level, vf := v.vf, core := c, gang := v.gang }

/-- The addresses of the 32-bit words of a window access. -/
def winWords (a n : Nat) : List Nat := (List.range (n / 4)).map (fun i => a + 4 * i)

/-- The first refusal among the words of an access. [log 39: DEDUCED, unsafe] -/
def firstRefusal (rs : List WinRes) : Option WinRes :=
  rs.find? (fun r => match r with | .ok _ _ => false | _ => true)

/-- A window load of n bytes: each word checked on its own, and nothing delivered where one is refused (03 R77). -/
def winLoad (s : State) (p : WinParty) (a n : Nat) : Except WinRes (List Byte × Bool) :=
  if n ≠ 4 ∧ n ≠ 8 then .error (.refused 1)
  else
    let rs := (winWords a n).map (winRead s p)
    match firstRefusal rs with
    | some r => .error r
    | none => .ok (rs.flatMap (fun r => match r with | .ok v _ => leBytes 4 v.toNat | _ => []),
                   rs.any (fun r => match r with | .ok _ b => b | _ => false))

/-- A window store of n bytes: each word on its own; the first refusal is the lane's (03 R77, R79). -/
def winStore (s : State) (p : WinParty) (a n : Nat) (bs : List Byte) : State × Option WinRes :=
  if n ≠ 4 ∧ n ≠ 8 then (s, some (.refused 1))
  else
    let r := (List.range (n / 4)).foldl (fun (q : State × List WinRes) i =>
      let (s, x) := winWrite q.1 p (a + 4 * i) (BitVec.ofNat 32 (recNat bs (4 * i) 4))
      (s, q.2 ++ [x])) (s, [])
    (r.1, firstRefusal r.2)

end Sys2Proof.Machine
end

