-- ==== Sys2Proof/Machine/Local.lean ====
section
/-! DEFINITION. The typed local buffers and Z: row 0xB, and the atomics on G (03 R70 to R73, R84; 09 R198, R207 to R212). -/

namespace Sys2Proof.Machine

/-- Format of the register side of a Z word (09 R208). -/
def zFmt (o : Nat) (f : Fields) : Fmt := fmtOf (if o = 0xB5 ∨ o = 0xB7 then f.m 3 5 else f.m 8 5)
/-- Elements a register holds (09 R208). -/
def zCount (o : Nat) (f : Fields) : Nat := 32 / (zFmt o f).width
/-- Bytes between a lane's elements in Z (09 R209). -/
def zStride (o : Nat) : Nat := if o = 0xB7 then 256 else 4
/-- Byte offsets of a lane's Z elements from its first (09 R209). -/
def zOffs (o : Nat) (f : Fields) (off : Int) : List Int := (List.range (zCount o f)).map (fun i => off + ((zStride o * i : Nat) : Int))

/-- A lane's local access, as a word forms it: offset computed exactly, and its sources (09 R198). -/
structure LocWant where
  lane : Nat
  off : Int
  src : W128
  src2 : W64
  deriving DecidableEq, Repr

/-- Bytes a local access must be aligned to. -/
def locAlign (o : Nat) (f : Fields) : Nat := if localBuf o f = some .z ∨ o = 0xBE then 4 else accSize o f

/-- A local access lies in its buffer; a fill of no bytes lies anywhere (03 R71). -/
def locInside (s : State) (c : Nat) (v : Wave) (o : Nat) (f : Fields) (b : Buf) (w : LocWant) : Bool :=
  let size : Int := (bufSize s c v.gang b : Nat)
  if o = 0xBE then w.src2 == 0 || (decide (0 ≤ w.off) && decide (w.off + (w.src2.toNat : Int) ≤ size))
  else if b = .z then (zOffs o f w.off).all (fun e => (zIndex v.zmap e).isSome)
  else decide (0 ≤ w.off) && decide (w.off + (accSize o f : Int) ≤ size)

/-- The check of a local access: LOCAL_RANGE, then MISALIGNED, also of a fill's length (03 R71, R72; 09 R200). [log 37: DEDUCED, unsafe] -/
def locCheck (s : State) (c : Nat) (v : Wave) (o : Nat) (f : Fields) (b : Buf) (w : LocWant) : Option Nat :=
  if locInside s c v o f b w = false then some 8
  else if w.off.emod (locAlign o f) ≠ 0 ∨ (o = 0xBE ∧ w.src2.toNat % 4 ≠ 0) then some 7
  else none

/-- What reads of a lane's access find: its context for poison. -/
structure LocAt where
  core : Nat
  wid : Nat
  level : Level
  spo : W32
  off : Nat
  /-- its wave was pre-empted since the issue, which a SPECULATIVE compare-and-swap does not survive (04 R104) -/
  lost : Bool := false
  deriving DecidableEq, Repr

/-- A poisoned local read of a lane (03 R84). -/
def locPoisonSeen (s : State) (p : LocAt) (v : Wave) (lane off : Nat) : State :=
  poisonSeen s p.core p.wid lane p.level p.spo p.off (BitVec.ofNat 64 off) v.vf

/-- A convert-load of a lane: +0 for all of it where an element is poisoned (09 R209; 03 R84). -/
def zLoads (s : State) (p : LocAt) (v : Wave) (o : Nat) (f : Fields) (lane : Nat) (off : Int) : State × List RegWrite × Exc :=
  let t := zFmt o f
  let is_ := (zOffs o f off).filterMap (zIndex v.zmap)
  if is_.any (fun i => (s.core p.core).zpois.contains i) then (locPoisonSeen s p v lane off.toNat, wr32 f.dst lane 0, 0)
  else
    let cs := is_.map (fun i => convCode t .fp32 (f.m 0 3) (f.m 13 1 == 1) 0 (zRead s p.core i).toNat)
    let val := cs.zipIdx.foldl (fun n e => n + e.1.1 * 2 ^ (t.width * e.2)) 0
    (s, wr32 f.dst lane (BitVec.ofNat 32 val), (cs.map (fun c => c.2.1)).foldl (· ||| ·) 0)

/-- What a convert-store writes to one element (09 R209). -/
def zStoreVal (o : Nat) (f : Fields) (t : Fmt) (z : W32) (x : Nat) : W32 × Exc :=
  if o = 0xB6 then
    let (c, e, _) := convCode .fp32 t 0 false 0 x
    (BitVec.ofNat 32 c, e)
  else
    let (c, e) := finish .fp32 (f.m 0 3) (addV (f.m 0 3) (decodeF .fp32 z.toNat) (decodeF t x))
    (BitVec.ofNat 32 c, e)

/-- A convert-store of a lane; CVSZ.ADD reads +0 for all of its access where an element is poisoned (09 R209; 03 R84). [log 34: DEDUCED,
unsafe] [log 34: DEDUCED, unsafe] -/
def zStores (s : State) (p : LocAt) (v : Wave) (o : Nat) (f : Fields) (lane : Nat) (off : Int) (b : Nat) : State × Exc :=
  let t := zFmt o f
  let is_ := (zOffs o f off).map (fun e => (zIndex v.zmap e).getD 0)
  let bad := o == 0xB8 && is_.any (fun i => (s.core p.core).zpois.contains i)
  let s := if bad then locPoisonSeen s p v lane off.toNat else s
  is_.zipIdx.foldl (fun (q : State × Exc) e =>
    let z : W32 := if bad then 0 else zRead q.1 p.core e.1
    let (y, x) := zStoreVal o f t z (elemOf t.width e.2 b)
    (zWrite q.1 p.core e.1 y, q.2 ||| x)) (s, 0)

/-- An atomic of a lane at the G port, which finds the chunk bits of the wave's commands clear (09 R211, R212; 04 R104, R108). -/
def gAtomic (s : State) (p : LocAt) (v : Wave) (o : Nat) (f : Fields) (l : LaneOp) (off : Nat) : State × List RegWrite × Exc :=
  let n := accSize o f
  let (bs, bad) := locReadFor s p.core v.gang v.uid .g off n
  if bad then (locPoisonSeen s p v l.lane off, atomWrites o f l.lane 0 false, 0)
  else
    let r := atomOn o (f.m 11 3) (f.m 0 3) (leNat bs) l.src.toNat l.src2.toNat (p.lost && ordOf f == 4)
    let s := match r.new with | some x => locWrite s p.core v.gang .g off (leBytes n x) | none => s
    (s, atomWrites o f l.lane r.old r.ok, r.exc)

/-- One lane's local access, performed (03 R65, R73). [log 38: DESIGN CHOICE, unsafe] -/
def localDo (s : State) (p : LocAt) (v : Wave) (o : Nat) (f : Fields) (b : Buf) (l : LaneOp) (off : Nat) :
    State × List RegWrite × Exc :=
  if isAtomic o then gAtomic s p v o f l off
  else if b = .z then
    if o = 0xB5 ∨ o = 0xB7 then zLoads s p v o f l.lane off
    else
      let (s, e) := zStores s p v o f l.lane off l.src.toNat
      (s, [], e)
  else if o = 0xBE then
    (locWrite s p.core v.gang b off ((List.replicate (l.src2.toNat / 4) (leBytes 4 l.src.toNat)).flatten), [], 0)
  else if isLocalStore o then (locWrite s p.core v.gang b off (leBytes (accSize o f) l.src.toNat), [], 0)
  else
    let n := accSize o f
    let (bs, bad) := locReadFor s p.core v.gang v.uid b off n
    if bad then (locPoisonSeen s p v l.lane off, loadWrites f n false l.lane (List.replicate n 0), 0)
    else (s, loadWrites f n (f.m 3 1 == 1) l.lane bs, 0)

/-- Performs lanes one by one, lowest first (03 R65): the state, the writes and the bits of all of them. -/
def localAll (s : State) (p : LocAt) (v : Wave) (o : Nat) (f : Fields) (b : Buf) (ls : List LaneOp) :
    State × List RegWrite × Exc :=
  ls.foldl (fun (q : State × List RegWrite × Exc) l =>
    match l.tgt with
    | .loc off =>
      let (s, ws, e) := localDo q.1 p v o f b l off
      (s, q.2.1 ++ ws, q.2.2 ||| e)
    | _ => q) (s, [], 0)

/-- Z as a group of port 1 finds it: as it stood before this cc (02 R50). -/
def zBefore (s : State) (x : Ctx) (b : Buf) : State :=
  match b, x.run.snap with
  | .z, some n => s.modCore x.core (fun k => { k with z := n.z, zpois := n.zpois })
  | _, _ => s

/-- Z after a group of port 1 that began with zBefore: the words is_ it writes, and the others as they stand (02 R50). -/
def zAfter (cur : Core) (s : State) (x : Ctx) (b : Buf) (is_ : List Nat) : State :=
  match b, x.run.snap with
  | .z, some _ =>
    s.modCore x.core (fun k => is_.foldl (fun (u : Core) i =>
      { u with z := Tab.put 0 u.z i (Tab.get 0 k.z i),
               zpois := if k.zpois.contains i then setIns u.zpois i else setDel u.zpois i })
      { k with z := cur.z, zpois := cur.zpois })
  | _, _ => s

/-- The Z words that a convert-store's lanes write. -/
def zWritten (v : Wave) (o : Nat) (f : Fields) (ls : List LaneOp) : List Nat :=
  if o = 0xB6 ∨ o = 0xB8 then
    ls.flatMap (fun l => match l.tgt with | .loc off => (zOffs o f off).filterMap (zIndex v.zmap) | _ => [])
  else []

/-- A local access word: checks and traps at issue; the accesses are performed at once unless a gate or an unperformed earlier local
access of the wave holds them (09 R200, R207; 04 R96). -/
def localWord (o : Nat) (f : Fields) (s : State) (b : Buf) (known : Ctx → List (Nat × List RegWrite))
    (wants : Ctx → List LocWant) : Res :=
  issueWord o f s (fun x s =>
    let id := x.wv.nextOp
    let rs := (wants x).map (fun w => (w, locCheck s x.core x.wv o f b w))
    let ts := rs.filterMap (fun r => r.2.map (fun c => (r.1.lane, c, BitVec.ofInt 64 r.1.off)))
    let s := laneTraps s x ts
    let ls : List LaneOp := (rs.filter (fun r => r.2.isNone)).map (fun r =>
      { lane := r.1.lane, va := BitVec.ofInt 64 r.1.off, src := r.1.src, src2 := r.1.src2, tgt := .loc r.1.off.toNat,
        st := .ready })
    let ks := known x
    let kl : List LaneOp := ks.map (fun k => { lane := k.1, va := 0, src := 0, src2 := 0, tgt := .none, st := .known })
    let op := x.op o f
    if ls.isEmpty ∧ ks.isEmpty then s
    else if ls.any (fun l => gated x.wv id (some l.lane)) || localBlocked x.wv id || (isAtomic o && decide (5 ≤ ordOf f)) then
      addOp x { op with lanes := kl ++ ls, writes := ks.flatMap Prod.snd } s
    else
      let k := s.core x.core
      let (s, ws, e) := localAll (zBefore s x b) { core := x.core, wid := x.wid, level := x.g.level, spo := x.spo, off := x.idx }
        x.wv o f b ls
      let s := zAfter k s x b (zWritten x.wv o f ls)
      addOp x { op with lanes := kl ++ ls.map (fun l => { l with st := .known }),
                        writes := ks.flatMap Prod.snd ++ ws, exc := e } s)

/-- A local offset: A plus IMM, exact (09 R198). -/
def locOff (x : Ctx) (f : Fields) (l : Nat) : Int := ((x.rd f f.a l).toNat : Int) + f.imm.toInt

/-- A local load or store with an offset in A; q for the Q forms (09 R198, R207). -/
def locAccess (o : Nat) (f : Fields) (s : State) (b : Buf) (q : Bool) : Res :=
  localWord o f s b (fun _ => []) (fun x =>
    let n := accSize o f
    (x.acting f).map (fun l =>
      { lane := l, off := locOff x f l + (if q then ((n * l : Nat) : Int) else 0), src := dataOf x f f.b n l, src2 := 0 }))

/-- LDG (09 R207). -/
def execLdg (f : Fields) (s : State) : Res := locAccess 0xB0 f s .g false
/-- STG (09 R207). -/
def execStg (f : Fields) (s : State) : Res := locAccess 0xB1 f s .g false
/-- LDW (09 R207). -/
def execLdw (f : Fields) (s : State) : Res := locAccess 0xB2 f s .w false
/-- LDX (09 R207). -/
def execLdx (f : Fields) (s : State) : Res := locAccess 0xB3 f s .x false
/-- STX (09 R207). -/
def execStx (f : Fields) (s : State) : Res := locAccess 0xB4 f s .x false
/-- LDGQ (09 R207). -/
def execLdgq (f : Fields) (s : State) : Res := locAccess 0xB9 f s .g true
/-- STGQ (09 R207). -/
def execStgq (f : Fields) (s : State) : Res := locAccess 0xBA f s .g true
/-- LDXQ (09 R207). -/
def execLdxq (f : Fields) (s : State) : Res := locAccess 0xBB f s .x true
/-- STXQ (09 R207). -/
def execStxq (f : Fields) (s : State) : Res := locAccess 0xBC f s .x true
/-- LDWQ (09 R207). -/
def execLdwq (f : Fields) (s : State) : Res := locAccess 0xBD f s .w true

/-- The first Z offset of a lane (09 R209). -/
def zFirst (o : Nat) (x : Ctx) (f : Fields) (l : Nat) : Int :=
  match f.a with
  | .acc k =>
    if o = 0xB7 then ((k.toNat * 16384 + f.imm.toNat + 4 * l : Nat) : Int)
    else ((k.toNat * 16384 + 4 * (zCount o f * l) : Nat) : Int) + f.imm.toInt
  | _ => locOff x f l

/-- A Z word (09 R209). -/
def zAccess (o : Nat) (f : Fields) (s : State) : Res :=
  localWord o f s .z (fun _ => []) (fun x =>
    (x.acting f).map (fun l => { lane := l, off := zFirst o x f l, src := (x.rd f f.b l).setWidth 128, src2 := 0 }))

/-- CVLZ (09 R209). -/
def execCvlz (f : Fields) (s : State) : Res := zAccess 0xB5 f s
/-- CVSZ (09 R209). -/
def execCvsz (f : Fields) (s : State) : Res := zAccess 0xB6 f s
/-- CVLZ.T (09 R209). -/
def execCvlzT (f : Fields) (s : State) : Res := zAccess 0xB7 f s
/-- CVSZ.ADD (09 R209). -/
def execCvszAdd (f : Fields) (s : State) : Res := zAccess 0xB8 f s

/-- GFILL (09 R207). -/
def execGfill (f : Fields) (s : State) : Res :=
  localWord 0xBE f s .g (fun _ => []) (fun x =>
    (x.acting f).map (fun l =>
      { lane := l, off := locOff x f l, src := (x.rd f f.b l).setWidth 128, src2 := (x.rd f f.c l).setWidth 64 }))

/-- A bounds-checked lane lies outside its limit (09 R204). -/
def boundsOut (x : Ctx) (f : Fields) (n l : Nat) : Bool := decide ((x.rd f f.c l).toNat < (x.rd f f.b l).toNat + n)

/-- LDGBC (09 R204, R207). -/
def execLdgbc (f : Fields) (s : State) : Res :=
  let n := accSize 0xBF f
  localWord 0xBF f s .g
    (fun x => ((x.acting f).filter (boundsOut x f n)).map (fun l => (l, loadWrites f n false l (List.replicate n 0))))
    (fun x => ((x.acting f).filter (fun l => !boundsOut x f n l)).map (fun l =>
      { lane := l, off := ((x.rd f f.a l).toNat : Int) + (x.rd f f.b l).toNat, src := 0, src2 := 0 }))

/-- The sources of an atomic in a lane. -/
def atomSrc (x : Ctx) (f : Fields) (o : Opnd) (l : Nat) : W64 :=
  if type64 (f.m 11 3) then x.rd64 f o l else (x.rd f o l).setWidth 64

/-- An atomic word: on the shared space, or at the G port (09 R210 to R212). -/
def atomWord (o : Nat) (f : Fields) (s : State) : Res :=
  if f.m 14 1 = 1 then
    localWord o f s .g (fun _ => []) (fun x => (x.acting f).map (fun l =>
      { lane := l, off := locOff x f l, src := (atomSrc x f f.b l).setWidth 128, src2 := atomSrc x f f.c l }))
  else
    sharedWord o f s accRW (fun _ => []) (fun x => (x.acting f).map (fun l =>
      { lane := l, va := baseOff x f l, src := (atomSrc x f f.b l).setWidth 128, src2 := atomSrc x f f.c l }))

/-- ATADD (09 R211). -/
def execAtadd (f : Fields) (s : State) : Res := atomWord 0xC0 f s
/-- ATMIN (09 R211). -/
def execAtmin (f : Fields) (s : State) : Res := atomWord 0xC1 f s
/-- ATMAX (09 R211). -/
def execAtmax (f : Fields) (s : State) : Res := atomWord 0xC2 f s
/-- ATAND (09 R211). -/
def execAtand (f : Fields) (s : State) : Res := atomWord 0xC3 f s
/-- ATOR (09 R211). -/
def execAtor (f : Fields) (s : State) : Res := atomWord 0xC4 f s
/-- ATXOR (09 R211). -/
def execAtxor (f : Fields) (s : State) : Res := atomWord 0xC5 f s
/-- ATXCHG (09 R211). -/
def execAtxchg (f : Fields) (s : State) : Res := atomWord 0xC6 f s
/-- ATCAS (09 R211). -/
def execAtcas (f : Fields) (s : State) : Res := atomWord 0xC7 f s
/-- ATINC (09 R211). -/
def execAtinc (f : Fields) (s : State) : Res := atomWord 0xC8 f s
/-- ATDEC (09 R211). -/
def execAtdec (f : Fields) (s : State) : Res := atomWord 0xC9 f s
/-- ATFADD (09 R211). -/
def execAtfadd (f : Fields) (s : State) : Res := atomWord 0xCA f s
/-- ATLD (09 R211). -/
def execAtld (f : Fields) (s : State) : Res := atomWord 0xCB f s
/-- ATST (09 R211). -/
def execAtst (f : Fields) (s : State) : Res := atomWord 0xCC f s

end Sys2Proof.Machine
end

