-- ==== Sys2Proof/Machine/Shared.lean ====
section
/-! DEFINITION. Loads, stores and cache words of the shared space: row 0xA (09 R201 to R206). -/

namespace Sys2Proof.Machine

/-- A plain load; q for the Q form (09 R198, R203). -/
def loadWord (o : Nat) (f : Fields) (s : State) (q : Bool) : Res :=
  sharedWord o f s accR (fun _ => []) (fun x => (x.acting f).map (fun l =>
    { lane := l, va := if q then qAddr x f (accSize o f) l else baseOff x f l, src := 0, src2 := 0 }))

/-- A plain store; q for the Q form. -/
def storeWord (o : Nat) (f : Fields) (s : State) (q : Bool) : Res :=
  sharedWord o f s accW (fun _ => []) (fun x => (x.acting f).map (fun l =>
    { lane := l, va := if q then qAddr x f (accSize o f) l else baseOff x f l,
      src := dataOf x f f.b (accSize o f) l, src2 := 0 }))

/-- LD (09 R203). -/
def execLd (f : Fields) (s : State) : Res := loadWord 0xA0 f s false
/-- ST (09 R203). -/
def execSt (f : Fields) (s : State) : Res := storeWord 0xA1 f s false
/-- LDS (09 R202). -/
def execLds (f : Fields) (s : State) : Res := loadWord 0xA2 f s false
/-- STS (09 R202). -/
def execSts (f : Fields) (s : State) : Res := storeWord 0xA3 f s false
/-- LDNC (09 R203). -/
def execLdnc (f : Fields) (s : State) : Res := loadWord 0xA4 f s false
/-- LDQ (09 R198). -/
def execLdq (f : Fields) (s : State) : Res := loadWord 0xAA f s true
/-- STQ (09 R198). -/
def execStq (f : Fields) (s : State) : Res := storeWord 0xAB f s true
/-- LDCVT (09 R204). -/
def execLdcvt (f : Fields) (s : State) : Res := loadWord 0xAD f s false
/-- STZERO (09 R202, R203). -/
def execStzero (f : Fields) (s : State) : Res := storeWord 0xAF f s false

/-- LDBC (09 R204): lanes beyond the limit read +0 and make no access. -/
def execLdbc (f : Fields) (s : State) : Res :=
  let n := accSize 0xAC f
  sharedWord 0xAC f s accR
    (fun x => ((x.acting f).filter (boundsOut x f n)).map (fun l => (l, loadWrites f n false l (List.replicate n 0))))
    (fun x => ((x.acting f).filter (fun l => !boundsOut x f n l)).map (fun l =>
      { lane := l, va := x.rd64 f f.a l + (x.rd f f.b l).setWidth 64, src := 0, src2 := 0 }))

/-- The address LDWIN and STWIN form, or none where a or b has a bit outside its part (09 R205). -/
def winAddr (a b : W32) : Option W64 :=
  if a.extractLsb' 15 17 != 0 || b.extractLsb' 25 7 != 0 then none
  else some ((0xFF0000 : W64) <<< 40 ||| (a.extractLsb' 6 9).setWidth 64 <<< 31 ||| (a.extractLsb' 0 6).setWidth 64 <<< 25 |||
    (b.extractLsb' 0 25).setWidth 64)

/-- A window word: lanes whose a or b is out of form are refused with cause CLASS at completion (09 R205). Their address stands with
bit 20 of a window address set, which the window refuses so. -/
def winWord_ (o : Nat) (f : Fields) (s : State) : Res :=
  sharedWord o f s (if o = 0xA5 then accR else accW) (fun _ => []) (fun x => (x.acting f).map (fun l =>
    { lane := l, va := (winAddr (x.rd f f.a l) (x.rd f f.b l)).getD 0xFF00000000100000,
      src := if o = 0xA6 then dataOf x f f.c (accSize o f) l else 0, src2 := 0 }))

/-- LDWIN (09 R205). -/
def execLdwin (f : Fields) (s : State) : Res := winWord_ 0xA5 f s
/-- STWIN (09 R205). -/
def execStwin (f : Fields) (s : State) : Res := winWord_ 0xA6 f s

/-- LDPRB's answer for a lane (09 R204). [log 40: DESIGN CHOICE, unsafe] -/
def probe (s : State) (x : Ctx) (va : W64) : State × Bool :=
  if canonical va = false then (s, false)
  else if inWindow va then
    -- the plain view: bit 24 clear
    (s, match winCheck s (laneParty x.core x.wv x.g.level) ((va &&& 0xFFFFFFFFFEFFFFFC).toNat) false with
        | .ok _ => true
        | .error _ => false)
  else if inHeap va then (s, heapReadable s x.wv.vf va)
  else
    match translate s (some x.core) (.fn x.wv.vf (x.wv.row x.g.level)) x.wv.vf va.toNat (accR x.g.level) false with
    | (s, .ok e) => (s, !e.elide)
    | (s, _) => (s, false)

/-- LDPRB (09 R204): no access, no page request, no trap. -/
def execLdprb (f : Fields) (s : State) : Res :=
  issueWord 0xAE f s (fun x s =>
    let ls := x.active f
    let r := ls.foldl (fun (q : State × List RegWrite) l =>
      let (s, b) := probe q.1 x (baseOff x f l)
      (s, q.2 ++ wrBool f.dst l b)) (s, [])
    if ls.isEmpty then s
    else addOp x { x.op 0xAE f with
      lanes := ls.map (fun l => { lane := l, va := 0, src := 0, src2 := 0, tgt := .none, st := .known }), writes := r.2 } r.1)

/-- PREF of a lane (09 R206): fills the L1 where a plain read could go, else is dropped; with `.KEEP` it asks only for the LLC. -/
def prefetch (s : State) (x : Ctx) (va : W64) : State :=
  if canonical va = false ∨ inWindow va ∨ inHeap va then s
  else
    match translate s (some x.core) (.fn x.wv.vf (x.wv.row x.g.level)) x.wv.vf va.toNat (accR x.g.level) false with
    | (s, .ok e) =>
      let a := e.apply va.toNat
      if e.elide || hbmEnd ≤ a || !s.owned (.fn x.wv.vf (x.wv.row x.g.level)) a then s
      else (coreLine s x.core x.wv.vf (a / 64)).1
    | (s, _) => s

/-- PREF (09 R206). -/
def execPref (f : Fields) (s : State) : Res :=
  issueWord 0xA7 f s (fun x s =>
    if f.m 4 2 = 2 then s else (x.acting f).foldl (fun s l => prefetch s x (baseOff x f l)) s)

/-- The pages of a virtual range [a, a + b), at most one more than b / 4096. -/
def rangePages (a b : Nat) : List Nat :=
  (List.range ((a % 4096 + b + 4095) / 4096)).map (fun i => (a / 4096 + i) % 2 ^ 52)

/-- The lines of HBM4 of a virtual range of a function, page by page, those of the heap aperture untranslated (12 R279); pages not
present are skipped (09 R206). -/
def rangeLines (s : State) (x : Ctx) (a b : Nat) : List Nat :=
  (rangePages a b).flatMap (fun p =>
    let lo := if p = a / 4096 then a % 4096 else 0
    let hi := min 4096 (a + b - p * 4096)
    let lines (base : Nat) : List Nat := (List.range (hi / 64 + 1)).filterMap (fun k =>
      if k * 64 < hi ∧ lo < k * 64 + 64 then some ((base + 64 * k) / 64) else none)
    let va : W64 := BitVec.ofNat 64 (p * 4096)
    if inHeap va then lines (heapSpa s va)
    else
      match (translate s (some x.core) (.fn x.wv.vf (x.wv.row x.g.level)) x.wv.vf (p * 4096) { bits := 0, u := false } false).2 with
      | .ok e => lines (e.apply (p * 4096))
      | _ => [])

/-- A cache-invalidating word acts at issue and completes as an operation without a result (09 R200, R206). -/
def cacheWord (o : Nat) (f : Fields) (s : State) (g : Ctx → Nat → Nat → State → State) : Res :=
  issueWord o f s (fun x s =>
    match (x.active f).head? with
    | none => s
    | some l =>
      addOp x { x.op o f with lanes := [{ lane := l, va := 0, src := 0, src2 := 0, tgt := .none, st := .known }] }
        (g x (x.rd64 f f.a l).toNat (x.rd f f.b l).toNat s))

/-- CINV (09 R206). -/
def execCinv (f : Fields) (s : State) : Res :=
  cacheWord 0xA8 f s (fun x a b s =>
    if b = 0 then invalidateL1 s x.core
    else
      let ls := rangeLines s x a b
      s.modCore x.core (fun k => { k with l1 := k.l1.filter (fun p => !ls.contains p.1) }))

/-- IINV (09 R206; 06 R135): the L0 lines of the issuing function that hold bytes of the range. -/
def execIinv (f : Fields) (s : State) : Res :=
  cacheWord 0xA9 f s (fun x a b s =>
    if b = 0 then s.modCore x.core (fun k => { k with l0 := [] })
    else s.modCore x.core (fun k => { k with l0 := k.l0.filter (fun l =>
      !(l.vf == x.wv.vf && decide (l.va * 64 < a + b) && decide (a < l.va * 64 + 64))) }))

end Sys2Proof.Machine
end

