-- ==== Sys2Proof/Machine/Gangs.lean ====
section
/-! DEFINITION. Gangs: placing waves, barriers and the gang order, rings (01 R18 to R24; 02 R43, R44; 03 R74 to R76; 09 R217 to
R222). -/

namespace Sys2Proof.Machine

/-! ## Waves wherever they are -/

/-- Changes the wave of a uid: in slot w of core c, or in its saved state (14 R325). -/
def modUid (s : State) (c w uid : Nat) (g : Wave → Wave) : State :=
  match s.slot? c w with
  | some t =>
    if t.wave.uid = uid then s.modWave c w g
    else { s with sched := { s.sched with saved := s.sched.saved.map (fun p =>
      if p.wave.uid = uid then { p with wave := g p.wave } else p) } }
  | none => { s with sched := { s.sched with saved := s.sched.saved.map (fun p =>
      if p.wave.uid = uid then { p with wave := g p.wave } else p) } }

/-- The wave of a uid, resident in slot w of core c or saved. -/
def findUid (s : State) (c w uid : Nat) : Option Wave :=
  match s.slot? c w with
  | some t => if t.wave.uid = uid then some t.wave else (s.sched.saved.find? (fun p => p.wave.uid == uid)).map Saved.wave
  | none => (s.sched.saved.find? (fun p => p.wave.uid == uid)).map Saved.wave

/-- The member wave of a uid of gang g on core c, resident or saved. -/
def member? (s : State) (c uid : Nat) (g : Gang) : Option Wave :=
  match g.members.findSome? (fun w => (s.slot? c w).bind (fun t => if t.wave.uid = uid then some t.wave else none)) with
  | some v => some v
  | none => (s.sched.saved.find? (fun p => p.wave.uid == uid)).map Saved.wave

/-- Changes the member waves of gang i on core c whose uid satisfies p, resident or saved. -/
def modMembers (s : State) (c i : Nat) (p : Nat → Bool) (f : Wave → Wave) : State :=
  match s.gang? c i with
  | none => s
  | some g =>
    let one (v : Wave) : Wave := if p v.uid then f v else v
    let s := g.members.foldl (fun s w => s.modWave c w one) s
    { s with sched := { s.sched with saved := s.sched.saved.map (fun x =>
      if g.savedMembers.contains x.wave.uid then { x with wave := one x.wave } else x) } }

/-- %waveid of a gang's member waves: of saved ones, the slot they were saved from. -/
def Gang.all (s : State) (g : Gang) : List Nat :=
  g.members ++ g.savedMembers.filterMap (fun u => (s.sched.saved.find? (fun p => p.wave.uid == u)).map Saved.slot)
/-- M (01 R21). -/
def Gang.m (g : Gang) : Nat := g.members.length + g.savedMembers.length

/-! ## Barriers -/

/-- Changes barrier b of gang i. -/
def State.modBar (s : State) (c i b : Nat) (f : Bar → Bar) : State :=
  s.modGang c i (fun g => { g with bars := listAdj g.bars b f })

/-- Changes the part in barrier b of the members whose uid satisfies p. -/
def modWBar (s : State) (c i b : Nat) (p : Nat → Bool) (f : Nat → WBar → WBar) : State :=
  modMembers s c i p (fun v => { v with bars := listAdj v.bars b (f v.uid) })

/-- Completes phases of barrier b while A ≥ E: PH + 1, E := M, every member owes, held arrivals apply in their order (01 R23). -/
def completePhases (s : State) (c i b : Nat) : Nat → State
  | 0 => s
  | n + 1 =>
    match s.gang? c i with
    | none => s
    | some g =>
      let k := g.bars.getD b default
      if g.m = 0 ∨ k.a < k.e then s
      else
        let s := s.modBar c i b (fun k => { k with ph := k.ph + 1, e := g.m, a := k.held.length, held := [] })
        let s := modWBar s c i b (fun _ => true) (fun uid x => { x with owes := !k.held.contains uid, holds := false })
        completePhases s c i b n

/-- The member wave of a uid arrives at barrier b (01 R22). -/
def barArrive (s : State) (c i uid b : Nat) : State :=
  match s.gang? c i with
  | none => s
  | some g =>
    let k := g.bars.getD b default
    let owes := match member? s c uid g with | some v => (v.bars.getD b default).owes | none => false
    let s :=
      if owes then
        modWBar (s.modBar c i b (fun k => { k with a := k.a + 1 })) c i b (· == uid) (fun _ x =>
          { x with owes := false, arph := k.ph, arrived := true })
      else
        modWBar (s.modBar c i b (fun k => { k with held := k.held ++ [uid] })) c i b (· == uid) (fun _ x =>
          { x with holds := true, arph := k.ph + 1, arrived := true })
    completePhases s c i b 3

/-- The wave of a uid, already out of the members, detaches from barrier b (01 R22). -/
def barDetach (s : State) (c i uid b : Nat) (owed : Bool) : State :=
  completePhases (s.modBar c i b (fun k =>
    if owed then { k with e := k.e - 1 } else { k with held := k.held.filter (· != uid) })) c i b 3

/-! ## Placing waves -/

/-- Vacant slots of a quarter, given the waves and their granules. -/
def vacantIn (occ : List (Nat × Nat)) (q : Nat) : Nat := 16 - (occ.filter (fun p => quarterOf p.1 == q)).length

/-- The slot R18 gives one more wave: in the quarter with most vacant slots, the lower on a tie, its lowest vacant slot; none where
it has no slot or not the vector granules left. -/
def pickSlot (occ : List (Nat × Nat)) (vgran : Nat) : Option Nat :=
  let q := (List.range 4).foldl (fun b q => if vacantIn occ b < vacantIn occ q then q else b) 0
  let used := ((occ.filter (fun p => quarterOf p.1 == q)).map Prod.snd).foldl (· + ·) 0
  if 128 < used + vgran then none
  else ((List.range 16).map (fun i => 16 * q + i)).find? (fun w => !occ.any (fun p => p.1 == w))

/-- Slots for n waves, one after another (01 R18). -/
def pickSlots (occ : List (Nat × Nat)) (vgran : Nat) : Nat → Option (List Nat)
  | 0 => some []
  | n + 1 =>
    match pickSlot occ vgran with
    | none => none
    | some w => (pickSlots ((w, vgran) :: occ) vgran n).map (w :: ·)

/-- The occupied slots of a core with their granules. -/
def Core.occ (k : Core) : List (Nat × Nat) := k.waves.map (fun p => (p.1, p.2.vgran))

/-- Z slots that are bound to a wave, or kept for commands of waves that ended (02 R43; 10 R242). -/
def Core.zUsed (k : Core) : List Nat := k.waves.flatMap (fun p => p.2.zmap) ++ k.zkeep.map Prod.fst
/-- Free Z slots, rising. -/
def Core.zFree (k : Core) : List Nat := (List.range 32).filter (fun z => !k.zUsed.contains z)

/-- Slots and Z slots for n waves of an allocation, none where they do not fit (01 R18; 02 R43). [log 136: DESIGN CHOICE, unsafe] -/
def roomFor (k : Core) (vgran aregs n : Nat) : Option (List Nat × List Nat) :=
  match pickSlots k.occ vgran n with
  | none => none
  | some ws => if k.zFree.length < n * aregs then none else some (ws, k.zFree.take (n * aregs))

/-- How a new wave starts (01 R19; 09 R219; 11 R268; 12 R298): entry, level, landing check, s0 to s3, whether it owes, and class. -/
structure Entry where
  pc : W64
  level : Level
  check : Landing
  s0 : W64
  s2 : W32
  s3 : W32
  owes : Bool
  deriving DecidableEq, Repr

/-- Uniform registers from a list of (index, value). -/
def uniFile (l : List (Nat × W32)) : Tab W32 := l.foldl (fun t p => Tab.put 0 t p.1 p.2) []

/-- A new wave of a gang (01 R19; 02 R44; 07 R159). [log 51: DEDUCED, unsafe] -/
def newWave (s : State) (c w : Nat) (g : Gang) (zmap : List Nat) (e : Entry) : Wave :=
  let pool := (s.func g.vf).rspool
  { uid := s.nextUid, vf := g.vf, gang := g.id, cls := g.cls, world := g.launch.wtag, kern := g.launch.addr,
    vgran := g.launch.vgran, sgran := g.launch.sgran, tregs := g.launch.tregs, aregs := g.launch.aregs,
    regs := { vec := [], uni := uniFile [(0, e.s0.setWidth 32), (1, (e.s0 >>> 32).setWidth 32), (2, e.s2), (3, e.s3)],
              pred := [], tile := [], vpois := [], upois := [], tpois := [] },
    zmap := zmap, lanes := List.replicate 32 (freshLane e.pc e.level e.check),
    flags := List.replicate 12 0, wstat := 0,
    rsbase := if pool = 0 then 0 else pool + BitVec.ofNat 64 (65536 * (64 * c + w)),
    stack := [], spilled := 0, refill := none, spillLog := [], ops := [], nextOp := 0,
    bars := List.replicate 16 { owes := e.owes, holds := false, arph := 0, arrived := false },
    lstat := LStat.initial, mstat := default, surf := none, lastBr := 0, detached := false, priv := g.priv }

/-- Reads of Z slots give +0 again (02 R44). -/
def zClear (k : Core) (zs : List Nat) : Core :=
  { k with z := k.z.filter (fun p => !zs.contains (p.1 / 4096)), zpois := k.zpois.filter (fun i => !zs.contains (i / 4096)) }

/-- Puts a new wave of gang g into slot w (01 R18). -/
def putWave (s : State) (c w : Nat) (g : Gang) (zmap : List Nat) (e : Entry) : State :=
  let v := newWave s c w g zmap e
  let s := { s with nextUid := s.nextUid + 1 }
  (s.modCore c (fun k => { (zClear k zmap) with
    slots := k.slots.ins w { wave := v, drain := none, parked := false, stopping := false, watches := [] } })).modGang
      c g.id (fun g => { g with members := setIns g.members w })

/-- SCOPE of LEVEL0 (01 R26). -/
def Launch.scope0 (l : Launch) : Nat := (l.levels.getD 0 default).scope

/-- Puts n waves of gang g into slots, each with its Z slots; entry i is e i. Each acquires at LEVEL0's scope before its first run
(01 R19; 09 R219; 11 R268). -/
def putWaves (s : State) (c : Nat) (g : Gang) (ws zs : List Nat) (e : Nat → Entry) : State :=
  acquireAt (ws.zipIdx.foldl (fun s p =>
    putWave s c p.1 g ((zs.drop (g.launch.aregs * p.2)).take g.launch.aregs) (e p.2)) s) c g.launch.scope0

/-- The slots an attach of n waves would take, none where R24 refuses it. -/
def attachRoom (s : State) (c : Nat) (g : Gang) (n : Nat) : Option (List Nat × List Nat) :=
  if g.ending ∨ g.launch.wmax < g.m + n then none else roomFor (s.core c) g.launch.vgran g.launch.aregs n

/-! ## Rings -/

/-- Changes ring r of gang i. -/
def State.modRing (s : State) (c i r : Nat) (f : Ring → Ring) : State :=
  s.modGang c i (fun g => { g with rings := listAdj g.rings r f })

/-- Stages that are FULL or DRAINING (03 R76). -/
def Ring.ready (r : Ring) : Nat := (r.stages.filter (fun t => t == .full || t == .draining)).length

/-- A consumer waits for a stage that is not FULL (03 R76). -/
def Ring.starved (r : Ring) : Bool :=
  match r.drains with
  | p :: _ => r.stage p.stage != .full
  | [] => false

/-- What the depth review will ask, brought up to date (03 R76). -/
def Ring.note (r : Ring) : Ring := { r with waited := r.waited || r.starved, low := r.low || decide (r.ready < 2) }

/-- Reserves the next fill in issue order: its stage number (09 R222). -/
def Ring.nextFill (r : Ring) : W32 := r.filln + BitVec.ofNat 32 r.fills.length
/-- Reserves the next drain in issue order. -/
def Ring.nextDrain (r : Ring) : W32 := r.consn + BitVec.ofNat 32 r.drains.length

/-- Stage n has begun to fill and is not drained. -/
def Ring.live (r : Ring) (n : W32) : Bool := decide (n - r.drainn < r.filln - r.drainn)

/-- A fill's stage becomes FULL (09 R222). -/
def Ring.fillEnd (r : Ring) (n : W32) : Ring := (r.setStage n .full).note

/-- DRAINN advances over drained stages, which become EMPTY (09 R222). -/
def Ring.sweep (r : Ring) : Nat → Ring
  | 0 => r
  | k + 1 =>
    let n := r.drainn
    if r.live n && r.stage n == .draining && r.drained.getD (r.slotOf n) false then
      Ring.sweep { (r.setStage n .empty) with drainn := n + 1, drained := listSet r.drained (r.slotOf n) false } k
    else r

/-- A draining stage is drained (09 R222). -/
def Ring.drainEnd (r : Ring) (n : W32) : Ring :=
  (Ring.sweep { r with drained := listSet r.drained (r.slotOf n) true } 16).note

/-- The depth review of a ring (03 R76). -/
def Ring.review (r : Ring) : Ring :=
  let d := if r.waited then min (r.d + 1) r.maxst else if r.low then r.d else max (r.d - 1) r.minst
  ({ r with d := d, waited := false, low := false }).note

/-- A core's clock stands at a multiple of 4,096 for which its rings have not been reviewed (03 R76). [log 52: DESIGN CHOICE, unsafe] -/
def reviewDue (k : Core) : Bool := k.clock.toNat % 4096 == 0 && k.clock != k.reviewed

/-- RING_DEPTH_REVIEW (03 R76): every ring of the core, once at each multiple of 4,096 of its clock. -/
def execRingDepthReview (core : Nat) (s : State) : Res :=
  if reviewDue (s.core core) then
    .next (s.modCore core (fun k => { k with
      reviewed := k.clock, gangs := k.gangs.map (fun p => (p.1, { p.2 with rings := p.2.rings.map Ring.review })) }))
  else .fault .notEnabled

/-- n cc may pass on a core: not past a review of its rings (03 R76). -/
def ccMay (k : Core) (n : Nat) : Bool :=
  k.gangs.all (fun p => p.2.rings.isEmpty) || (!reviewDue k && decide (n ≤ 4096 - k.clock.toNat % 4096))

/-- What a ring BEGIN delivers: the X offset and the stage number (09 R222). -/
def stageWord (r : Ring) (n : W32) : W64 := n ++ (BitVec.ofNat 32 (r.offOf n) : W32)

/-- The BEGIN word of a ring's place, or the engine command, receives its stage (09 R222; 10 R241). -/
def stageTo (s : State) (c ring : Nat) (fill : Bool) (p : Place) (v : W64) : State :=
  if p.who = 0 then
    match findUid s c p.id p.op with
    | none => s
    | some w =>
      match w.ops.find? (fun o => o.opc == (if fill then 0x1C else 0x1D) && o.n == ring && o.m == p.stage.toNat) with
      | none => s
      | some o =>
        let ws := o.lanes.flatMap (fun l => wr64 o.f.dst l.lane v)
        modUid s c p.id p.op (fun w => ({ w with regs := w.regs.writes ws }).endOp o.id)
  else if p.who = 1 then
    s.modCore c (fun k => { k with ladle := k.ladle.map (fun q =>
      if q.id = p.id then { q with began := true, stage := some p.stage } else q) })
  else
    -- the command may be away with its saved wave (14 R324)
    let give (q : MCmd) : MCmd :=
      if q.id ≠ p.id then q
      else if p.op = 0 then { q with stA := q.stA ++ [p.stage] }
      else { q with stB := q.stB ++ [p.stage] }
    let s := s.modCore c (fun k => { k with mx := k.mx.map give })
    { s with sched := { s.sched with saved := s.sched.saved.map (fun x => if x.core = c then { x with mx := x.mx.map give } else x) } }

/-- RING_STAGE_BEGIN (09 R222): the first reserved fill begins when n − DRAINN < D, the first reserved drain when its stage is
FULL. -/
def execRingStageBegin (core gang ring : Nat) (fill : Bool) (s : State) : Res :=
  match (s.gang? core gang).bind (fun g => g.rings[ring]?) with
  | none => .fault .notEnabled
  | some r =>
    if fill then
      match r.fills with
      | [] => .fault .notEnabled
      | p :: q =>
        if p.stage - r.drainn < BitVec.ofNat 32 r.d then
          let s := s.modRing core gang ring (fun r =>
            ({ (r.setStage p.stage .filling) with filln := p.stage + 1, fills := q }).note)
          .next (stageTo s core ring fill p (stageWord r p.stage))
        else .fault .notEnabled
    else
      match r.drains with
      | [] => .fault .notEnabled
      | p :: q =>
        if r.live p.stage && r.stage p.stage == .full then
          let s := s.modRing core gang ring (fun r =>
            ({ (r.setStage p.stage .draining) with consn := p.stage + 1, drains := q }).note)
          .next (stageTo s core ring fill p (stageWord r p.stage))
        else .fault .notEnabled

end Sys2Proof.Machine
end

