-- ==== Sys2Proof/Machine/Special.lean ====
section
/-! DEFINITION. Special functions, dot products and the stochastic-rounding state: row 0x9 (08 R194 to R197; 05 R126,
R128). -/

namespace Sys2Proof.Machine

/-- A word of row 0x9: results and bits pend (08 R175). -/
def lateWord (op : Nat) (f : Fields) (s : State) (v : Ctx → Nat → List RegWrite × Exc) : Res :=
  issueWord op f s (fun x s =>
    let rs := (x.destLanes f).map (v x)
    writeLate x op f (rs.flatMap Prod.fst) ((rs.map Prod.snd).foldl (· ||| ·) 0) s)

/-- A special function of A after its modifiers (08 R194). -/
def special (op : Nat) (f : Fields) (s : State) (g : Nat → Nat × Exc) : Res :=
  lateWord op f s (fun x l =>
    let (r, e) := g (x.fA f l)
    (wr32 f.dst l (BitVec.ofNat 32 r), e))

/-- FRCP (08 R194). -/
def execFrcp (f : Fields) (s : State) : Res := special 0x90 f s (rcpF .fp32 (f.m 0 3))
/-- FRSQ (08 R194, R195). -/
def execFrsq (f : Fields) (s : State) : Res := special 0x91 f s (rsqF .fp32 0x91)
/-- FSQRT (08 R194). -/
def execFsqrt (f : Fields) (s : State) : Res := special 0x92 f s (sqrtF .fp32 (f.m 0 3))
/-- FEXP2 (08 R194, R195). -/
def execFexp2 (f : Fields) (s : State) : Res := special 0x93 f s (exp2F 0x93)
/-- FLOG2 (08 R194, R195). -/
def execFlog2 (f : Fields) (s : State) : Res := special 0x94 f s (log2F 0x94)
/-- FSIN (08 R194, R195). -/
def execFsin (f : Fields) (s : State) : Res := special 0x95 f s (sinF 0x95)
/-- FCOS (08 R194, R195). -/
def execFcos (f : Fields) (s : State) : Res := special 0x96 f s (cosF 0x96)
/-- FTANH (08 R194, R195). -/
def execFtanh (f : Fields) (s : State) : Res := special 0x97 f s (tanhF 0x97)

/-- An exact dot product with an addend, rounded once (05 R128; 08 R196). -/
def dotF (t : Fmt) (rm : Nat) (c : Val) (ps : List (Val × Val)) : Nat × Exc :=
  let ms := ps.map (fun p => mulV p.1 p.2)
  let e := (ms.map Prod.snd).foldl (· ||| ·) 0
  let (v, e') := sumTerms rm (c :: ms.map Prod.fst)
  let (r, e'') := roundV t rm false v
  (r, e ||| e' ||| e'')

/-- A floating dot product over n elements of formats ta and tb (08 R196). -/
def dotWord (op : Nat) (f : Fields) (s : State) (n : Nat) (ta tb : Fmt) : Res :=
  lateWord op f s (fun x l =>
    let a := (x.rd f f.a l).toNat
    let b := (x.rd f f.b l).toNat
    let (r, e) := dotF .fp32 (f.m 0 3) (decodeF .fp32 (x.rd f f.c l).toNat)
      ((List.range n).map (fun i => (decodeF ta (elemOf ta.width i a), decodeF tb (elemOf tb.width i b))))
    (wr32 f.dst l (BitVec.ofNat 32 r), e))

/-- FDOT2H (08 R196). -/
def execFdot2h (f : Fields) (s : State) : Res := dotWord 0x98 f s 2 .fp16 .fp16
/-- FDOT2B (08 R196). -/
def execFdot2b (f : Fields) (s : State) : Res := dotWord 0x99 f s 2 .bf16 .bf16
/-- The FP8 format a bit selects (08 R196). -/
def fp8Of (n : Nat) : Fmt := if n = 1 then .e5m2 else .e4m3
/-- FDOT4E (08 R196). -/
def execFdot4e (f : Fields) (s : State) : Res := dotWord 0x9A f s 4 (fp8Of (f.m 3 1)) (fp8Of (f.m 4 1))

/-- Element i of width w, signed or not. -/
def intElem (sg : Bool) (w i b : Nat) : Int :=
  let v := elemOf w i b
  if sg && v.testBit (w - 1) then (v : Int) - 2 ^ w else v

/-- An integer dot product of elements of w bits (08 R196). -/
def intDot (op : Nat) (f : Fields) (s : State) (w : Nat) : Res :=
  lateWord op f s (fun x l =>
    let a := (x.rd f f.a l).toNat
    let b := (x.rd f f.b l).toNat
    let y := (List.range (32 / w)).foldl (fun (y : Int) i =>
      y + intElem (f.m 3 1 == 1) w i a * intElem (f.m 4 1 == 1) w i b) (x.rd f f.c l).toInt
    let (r, e) := if f.m 5 1 = 1 then satInt true 32 y else (y, 0)
    (wr32 f.dst l (BitVec.ofInt 32 r), e))

/-- IDOT4 (08 R196). -/
def execIdot4 (f : Fields) (s : State) : Res := intDot 0x9B f s 8
/-- IDOT8 (08 R196). -/
def execIdot8 (f : Fields) (s : State) : Res := intDot 0x9C f s 4

/-- DDOT2 (08 R196). -/
def execDdot2 (f : Fields) (s : State) : Res :=
  lateWord 0x9D f s (fun x l =>
    let a := x.rd128 f.a l
    let b := x.rd128 f.b l
    let el (v : W128) (i : Nat) : Val := decodeF .fp64 (v.extractLsb' (64 * i) 64).toNat
    let (r, e) := dotF .fp64 (f.m 0 3) (decodeF .fp64 (x.rd64 f f.c l).toNat) [(el a 0, el b 0), (el a 1, el b 1)]
    (wr64 f.dst l (BitVec.ofNat 64 r), e))

/-- SRSEED (08 R197): at issue. -/
def execSrseed (f : Fields) (s : State) : Res :=
  issueWord 0x9E f s (fun x s =>
    (x.active f).foldl (fun s l => s.modLane x.core x.wid l (fun y => { y with srg := x.rd f f.a l })) s)

/-- SRREAD (08 R197): SRG as it stands at issue. -/
def execSrread (f : Fields) (s : State) : Res :=
  lateWord 0x9F f s (fun x l => (wr32 f.dst l (match x.wv.lanes[l]? with | some y => y.srg | none => 0), 0))

end Sys2Proof.Machine
end

