-- ==== Sys2Proof/Machine/Waits.lean ====
section
/-! DEFINITION. Waits and holds, barriers, gang words and rings: row 0x1; and PHASE, WRED and WSCAN of row 0xC (09 R213 to
R222). -/

namespace Sys2Proof.Machine

/-! ## Holds -/

/-- Holds the active lanes from the end of the run (09 R215). -/
def holdWord (o : Nat) (f : Fields) (s : State) (h : Ctx → Nat → Hold) : Res :=
  issueWord o f s (fun x s =>
    s.modGroup x.core x.quarter x.port (fun g => { g with holds := g.holds ++ (x.active f).map (fun l => (l, h x l)) }))

/-- WAITF (09 R215). -/
def execWaitf (f : Fields) (s : State) : Res := holdWord 0x10 f s (fun x l => .waitf ((x.rd f f.a l).setWidth 12))
/-- SLEEP (09 R215). -/
def execSleep (f : Fields) (s : State) : Res := holdWord 0x11 f s (fun x l => .sleep (x.clock + (x.rd f f.a l).setWidth 64))
/-- SLEEPUNTIL (09 R215). -/
def execSleepuntil (f : Fields) (s : State) : Res := holdWord 0x12 f s (fun x l => .sleep (x.rd64 f f.a l))
/-- WAITMX (09 R215). -/
def execWaitmx (f : Fields) (s : State) : Res := holdWord 0x1E f s (fun x l => .waitmx (x.rd f f.a l))
/-- YIELD (09 R215). -/
def execYield (f : Fields) (s : State) : Res := holdWord 0x1F f s (fun _ _ => .yield)

/-- SLEEP_EXPIRY (09 R215): the clock has reached a lane's deadline. -/
def execSleepExpiry (core wave lane : Nat) (s : State) : Res :=
  let due (h : Hold) : Bool := match h with | .sleep d => decide (d ≤ (s.core core).clock) | _ => false
  match (s.slot? core wave).bind (fun t => t.wave.lanes[lane]?) with
  | none => .fault .notEnabled
  | some y =>
    if y.holds.any due then
      .next (s.modLane core wave lane (fun y => { y with holds := y.holds.filter (fun h => !due h) }))
    else .fault .notEnabled

/-- A word's access waits for an earlier release, acquire or wait of its wave (04 R94 to R97). -/
def Ctx.waits (x : Ctx) (f : Fields) : Bool := (x.active f).any (fun l => gated x.wv x.wv.nextOp (some l))

/-- A chunk-bitmap word (09 R216): traps of the active lanes, or what follows from the word read; none where the read waits (04 R96). -/
def chunkWord (o : Nat) (f : Fields) (s : State) (g : Ctx → W32 → W32 → Option W32 → State → State) : Res :=
  issueWord o f s (fun x s =>
    match (x.active f).head? with
    | none => s
    | some l =>
      let a := x.rd f f.a l
      let b := x.rd f f.b l
      if a.toNat % 4 ≠ 0 then issueTraps s x (x.active f) 7 0 (fun _ => a.setWidth 64) 0
      else if bufSize s x.core x.wv.gang .g < a.toNat + 4 then issueTraps s x (x.active f) 8 0 (fun _ => a.setWidth 64) 0
      else if x.waits f then g x a b none s
      else
        let (bs, bad) := locReadFor s x.core x.wv.gang x.wv.uid .g a.toNat 4
        let s := if bad then
            locPoisonSeen s { core := x.core, wid := x.wid, level := x.g.level, spo := x.spo, off := x.idx } x.wv l a.toNat
          else s
        g x a b (some (if bad then 0 else BitVec.ofNat 32 (leNat bs))) s)

/-- Lanes leave the run and stay at the prologue of their block, where they run it again (02 R53; 09 R216). -/
def turnBack (x : Ctx) (ls : List Nat) (s : State) : State :=
  s.modGroup x.core x.quarter x.port (fun g => { g with gone := g.gone ||| maskOf (fun l => ls.contains l) })

/-- CHKPROM (09 R216). Where its read waits for an earlier release or acquire, the lanes turn back to the prologue of its block, as they would
after its trap, and issue it again. -/
def execChkprom (f : Fields) (s : State) : Res :=
  chunkWord 0x13 f s (fun x a b v s =>
    match v with
    | none => turnBack x (x.active f) s
    | some v => if v &&& b = b then s else issueTraps s x (x.active f) 14 0 (fun _ => a.setWidth 64) b)

/-- Entries of an operation that only name lanes. -/
def nameLanes (ls : List Nat) (st : LaneSt) : List LaneOp :=
  ls.map (fun l => { lane := l, va := 0, src := 0, src2 := 0, tgt := .none, st := st })

/-- WAITCHK (09 R216; 04 R108): no further effect where the word read has the bits; else, and where its read waits, it holds the lanes, and
holds back what follows in them. -/
def execWaitchk (f : Fields) (s : State) : Res :=
  chunkWord 0x14 f s (fun x a b v s =>
    if v.any (fun v => v &&& b == b) then s
    else
      let s := addOp x { x.op 0x14 f with n := a.toNat, m := b.toNat, lanes := nameLanes (x.active f) .ready } s
      s.modGroup x.core x.quarter x.port (fun g =>
        { g with holds := g.holds ++ (x.active f).map (fun l => (l, .waitchk a b)) }))

/-! ## Barriers -/

/-- An arrival of the wave at barrier b that has not entered the gang order yet. -/
def pendingArrival (v : Wave) (b : Nat) : Bool := v.ops.any (fun o => (o.opc == 0x15 || o.opc == 0x17) && o.n == b)

/-- The issue of an arrival (09 R218). -/
def arriveOp (x : Ctx) (o : Nat) (f : Fields) (s : State) : State :=
  addOp x { x.op o f with n := f.m 0 4, lanes := nameLanes (x.active f) .ready } s

/-- The issue of a wait: with its phase where it is known; nothing to wait for is an acquire at once (09 R218). -/
def waitOp (x : Ctx) (f : Fields) (s : State) : State :=
  let b := f.m 0 4
  match s.slot? x.core x.wid with
  | none => s
  | some t =>
    let k := t.wave.bars.getD b default
    let pend := pendingArrival t.wave b
    let ph := match s.gang? x.core x.wv.gang with | some g => (g.bars.getD b default).ph | none => 0
    if !pend && (!k.arrived || phasePassed ph k.arph) then
      -- an acquire that may not be performed yet stands as a wait that is over (03 R68)
      if acquireMay t.wave t.wave.nextOp (f.m 7 4) then acquireAt s x.core (f.m 7 4)
      else addOp { x with sl := t } { x.op 0x16 f with
        n := b, m := (ph - 1).toNat, released := true, lanes := nameLanes (x.active f) .ready } s
    else
      let id := t.wave.nextOp
      let s := s.modGroup x.core x.quarter x.port (fun g =>
        { g with holds := g.holds ++ (x.active f).map (fun l => (l, .barwait id)) })
      addOp { x with sl := t } { x.op 0x16 f with
        n := b, m := k.arph.toNat, released := !pend, lanes := nameLanes (x.active f) .ready } s

/-- A word that acts once per issue in a group with an active lane. -/
def groupWord (o : Nat) (f : Fields) (s : State) (g : Ctx → State → State) : Res :=
  issueWord o f s (fun x s => if (x.active f).isEmpty then s else g x s)

/-- BARARV (09 R218). -/
def execBararv (f : Fields) (s : State) : Res := groupWord 0x15 f s (fun x s => arriveOp x 0x15 f s)
/-- BARWAIT (09 R218). -/
def execBarwait (f : Fields) (s : State) : Res := groupWord 0x16 f s (fun x s => waitOp x f s)
/-- BARSYNC (09 R218): BARARV, then BARWAIT. -/
def execBarsync (f : Fields) (s : State) : Res := groupWord 0x17 f s (fun x s => waitOp x f (arriveOp x 0x17 f s))

/-- A field of a barrier as BARINFO reads it (09 R217). -/
def barField (g : Gang) (v : Wave) (b sel : Nat) : W32 :=
  let k := g.bars.getD b default
  let w := v.bars.getD b default
  match sel with
  | 0 => k.ph
  | 1 => BitVec.ofNat 32 k.e
  | 2 => BitVec.ofNat 32 k.a
  | 3 => BitVec.ofNat 32 g.m
  | 4 => if w.owes then 1 else 0
  | _ => if w.holds then 1 else 0

/-- A word that reads its gang at issue and writes at the end of the run (09 R218, R221). [log 50: DESIGN CHOICE, unsafe] -/
def gangRead (o : Nat) (f : Fields) (s : State) (g : Ctx → Gang → State → W64) : Res :=
  issueWord o f s (fun x s =>
    match s.gang? x.core x.wv.gang with
    | none => s
    | some gg =>
      let v := g x gg s
      writeEnd x f ((x.destLanes f).flatMap (fun l =>
        if f.m 0 2 = 3 ∧ o = 0x1B then wr64 f.dst l v else wr32 f.dst l (v.setWidth 32))) s)

/-- BARINFO (09 R218). -/
def execBarinfo (f : Fields) (s : State) : Res :=
  gangRead 0x18 f s (fun x g _ => (barField g x.wv (f.m 0 4) (f.m 11 3)).setWidth 64)

/-- How many waves R18 could place on a core, up to n. -/
def placeable (k : Core) (vgran aregs : Nat) : Nat → Nat
  | 0 => 0
  | n + 1 => if (roomFor k vgran aregs (n + 1)).isSome then n + 1 else placeable k vgran aregs n

/-- GINFO (09 R221). -/
def execGinfo (f : Fields) (s : State) : Res :=
  gangRead 0x1B f s (fun x g s =>
    match f.m 0 2 with
    | 0 => BitVec.ofNat 64 g.m
    | 1 => BitVec.ofNat 64 g.launch.wmax
    | 2 => BitVec.ofNat 64 (placeable (s.core x.core) g.launch.vgran g.launch.aregs (g.launch.wmax - g.m))
    | _ => (Gang.all s g).foldl (fun m w => m ||| (1 <<< w)) 0)

/-- Gives waits behind arrival id at barrier b their phase, up to the wave's next arrival there (09 R218). -/
def bindWaits (v : Wave) (id b : Nat) (arph : W32) : Wave :=
  let next := (v.ops.find? (fun o => (o.opc == 0x15 || o.opc == 0x17) && o.n == b && decide (id < o.id))).map Op.id
  { v with ops := v.ops.map (fun o =>
      if o.opc == 0x16 && o.n == b && !o.released && decide (id < o.id) &&
          (match next with | some k => decide (o.id < k) | none => true)
      then { o with m := arph.toNat, released := true } else o) }

/-- The wave's arrivals and attaches enter the gang order in its program order (01 R22). -/
def firstOfGangOrder (v : Wave) (id : Nat) : Bool :=
  v.ops.all (fun o => decide (id ≤ o.id) || !([0x15, 0x17, 0x19].contains o.opc))

/-- The first arrival of a wave at a barrier that has not entered the gang order. -/
def Wave.arrivalAt (v : Wave) (b : Nat) : Option Op := v.ops.find? (fun o => (o.opc == 0x15 || o.opc == 0x17) && o.n == b)

/-- Whether an arrival may be applied or held: it is the wave's first in the gang order, and the wave holds none at the barrier (01 R22). -/
def arrivalMay (v : Wave) (o : Op) : Bool := firstOfGangOrder v o.id && !(v.bars.getD o.n default).holds

/-- An arrival whose release is done, but which may not be applied or held yet: later accesses wait for it no more, and a wave that holds an
arrival at the barrier waits (01 R22; 09 R218). -/
def Op.pause (v : Wave) (o : Op) : Op :=
  { o with released := true, m := if firstOfGangOrder v o.id && (v.bars.getD o.n default).holds then 1 else o.m }

/-- BARRIER_ARRIVAL (09 R218): the release is done; the arrival is applied or held, or the wave waits until the one it holds is applied. [log 135: DEDUCED, unsafe] -/
def execBarrierArrival (core wave barrier : Nat) (s : State) : Res :=
  match s.slot? core wave with
  | none => .fault .notEnabled
  | some t =>
    let v := t.wave
    match v.arrivalAt barrier with
    | none => .fault .notEnabled
    | some o =>
      if gated v o.id none || !releaseDone (s.core core) v o.id (o.f.m 7 4) then .fault .notEnabled
      else if arrivalMay v o then
        let s := barArrive s core v.gang v.uid barrier
        -- the phase the arrival counts toward was set by it
        .next (s.modWave core wave (fun w =>
          (bindWaits w o.id barrier (w.bars.getD barrier default).arph).endOp o.id))
      else if o.pause v = o then .fault .notEnabled
      else .next (s.modWave core wave (fun w => w.modOp o.id (fun p => p.pause v)))

/-! ## Gang membership -/

/-- GATTACH (09 R219): at issue it takes its operands; the attach follows its release. -/
def execGattach (f : Fields) (s : State) : Res :=
  issueWord 0x19 f s (fun x s =>
    match (x.active f).head? with
    | none => s
    | some l =>
      addOp x { x.op 0x19 f with
        n := (x.rd f f.a l).toNat, m := (x.rd f f.c l).toNat,
        lanes := (nameLanes (x.active f) .ready).map (fun k => { k with src2 := x.rd64 f f.b l }) } s)

/-- GANG_ATTACH (09 R219; 01 R24): refused or placed, in one step of the gang order; d is written and the word completes. -/
def execGangAttach (core wave op : Nat) (s : State) : Res :=
  match (s.slot? core wave).bind (fun t => (t.wave.op? op).map (fun o => (t.wave, o))) with
  | none => .fault .notEnabled
  | some (v, o) =>
    match s.gang? core v.gang with
    | none => .fault .notEnabled
    | some g =>
      if o.opc ≠ 0x19 ∨ gated v op none ∨ releaseDone (s.core core) v op 2 = false ∨ firstOfGangOrder v op = false then
        .fault .notEnabled
      else
        let room := if o.n < 1 ∨ 63 < o.n then none else attachRoom s core g o.n
        let entry := match o.lanes with | l :: _ => l.src2 | [] => 0
        let s := match room with
          | none => s
          | some (ws, zs) => putWaves s core g ws zs (fun i =>
              { pc := entry, level := if g.priv then .h else .u, check := .call, s0 := g.args,
                s2 := BitVec.ofNat 32 o.m, s3 := BitVec.ofNat 32 i, owes := false })
        let ws := o.lanes.flatMap (fun l => wrBool o.f.dst l.lane room.isSome)
        .next (s.modWave core wave (fun w => ({ w with regs := w.regs.writes ws }).endOp op))

/-- GDETACH (09 R220): every thread of the wave ends at the end of the run. -/
def execGdetach (f : Fields) (s : State) : Res :=
  groupWord 0x1A f s (fun x s => s.modGroup x.core x.quarter x.port (fun g => { g with detach := true }))

/-! ## Rings -/

/-- A ring BEGIN reserves its place in issue order (09 R222). -/
def ringBegin (o : Nat) (f : Fields) (s : State) (fill : Bool) : Res :=
  issueWord o f s (fun x s =>
    match (x.active f).head?, s.gang? x.core x.wv.gang with
    | some l, some g =>
      let r := g.rings.getD (f.m 0 3) default
      let n := if fill then r.nextFill else r.nextDrain
      let p : Place := { stage := n, who := 0, id := x.wid, op := x.wv.uid }
      let s := addOp x { x.op o f with n := f.m 0 3, m := n.toNat, lanes := nameLanes [l] .ready } s
      s.modRing x.core g.id (f.m 0 3) (fun r =>
        (if fill then { r with fills := r.fills ++ [p] } else { r with drains := r.drains ++ [p] }).note)
    | _, _ => s)

/-- A ring END (09 R222): RINGSTATE in every active lane when the stage is not in the state it ends. -/
def ringEnd (o : Nat) (f : Fields) (s : State) (fill : Bool) : Res :=
  issueWord o f s (fun x s =>
    match (x.active f).head?, s.gang? x.core x.wv.gang with
    | some l, some g =>
      let r := g.rings.getD (f.m 0 3) default
      let a := x.rd f f.a l
      let want : Stage := if fill then .filling else .draining
      if r.live a && r.stage a == want && (fill || !r.drained.getD (r.slotOf a) false) then
        s.modRing x.core g.id (f.m 0 3) (fun r => if fill then r.fillEnd a else r.drainEnd a)
      else issueTraps s x (x.active f) 16 0 (fun _ => a.setWidth 64) (BitVec.ofNat 32 (f.m 0 3))
    | _, _ => s)

/-- RINGFILL.BEGIN (09 R222). -/
def execRingfillBegin (f : Fields) (s : State) : Res := ringBegin 0x1C f s true
/-- RINGFILL.END (09 R222). -/
def execRingfillEnd (f : Fields) (s : State) : Res := ringEnd 0x1C f s true
/-- RINGDRAIN.BEGIN (09 R222). -/
def execRingdrainBegin (f : Fields) (s : State) : Res := ringBegin 0x1D f s false
/-- RINGDRAIN.END (09 R222). -/
def execRingdrainEnd (f : Fields) (s : State) : Res := ringEnd 0x1D f s false

/-! ## PHASE, WRED and WSCAN -/

/-- PHASE (09 R214; 04 R96): completes when its release and its acquire are done. -/
def execPhase (f : Fields) (s : State) : Res :=
  groupWord 0xCE f s (fun x s => addOp x { x.op 0xCE f with lanes := nameLanes ((x.active f).take 1) .ready } s)

/-- The identity of a reduction (09 R213). -/
def redIdentity (ro t : Nat) : W64 :=
  let w := if type64 t then 64 else 32
  let top : W64 := BitVec.ofNat 64 (2 ^ (w - 1))
  let ones : W64 := BitVec.ofNat 64 (2 ^ w - 1)
  let sg := t == 1 || t == 3
  match ro with
  | 1 => if sg then top - 1 else ones
  | 2 => if sg then top else 0
  | 3 => ones
  | 7 => 0x7F800000
  | 8 => 0xFF800000
  | _ => 0

/-- Two integer terms of a reduction (09 R213). -/
def redInt (ro t : Nat) (a b : W64) : W64 :=
  let w := if type64 t then 64 else 32
  let o : Nat := match ro with | 0 => 0xC0 | 1 => 0xC1 | 2 => 0xC2 | 3 => 0xC3 | 4 => 0xC4 | _ => 0xC5
  BitVec.ofNat 64 ((atomOn o t 0 (a.toNat % 2 ^ w) (b.toNat % 2 ^ w) 0 false).new.getD 0)

/-- A reduction over terms in lane order (09 R213). -/
def reduce (ro t rm : Nat) (ts : List W64) : W64 × Exc :=
  match ts with
  | [] => (redIdentity ro t, 0)
  | a :: r =>
    if ro ≤ 5 then (r.foldl (redInt ro t) a, 0)
    else if ro = 6 then
      let vs := ts.map (fun x => decodeF .fp32 x.toNat)
      let (v, e) := sumTerms rm vs
      let (c, e') := roundV .fp32 rm false v
      (BitVec.ofNat 64 c, e ||| e' ||| (vs.map Val.sigExc).foldl (· ||| ·) 0)
    else
      let s := (redIdentity ro t).toNat
      let r := ts.foldl (fun (q : Nat × Exc) x =>
        let (c, e) := minMax .fp32 (ro == 8) false q.1 x.toNat
        (c, q.2 ||| e)) (s, 0)
      -- NaN terms alone give the canonical NaN, which the identity would hide
      if ts.all (fun x => (decodeF .fp32 x.toNat).isNan) then (BitVec.ofNat 64 Fmt.fp32.canon, r.2) else (BitVec.ofNat 64 r.1, r.2)

/-- WRED and WSCAN's source in a lane. -/
def redSrc (x : Ctx) (f : Fields) (l : Nat) : W64 :=
  if type64 (f.m 11 3) then x.rd64 f f.a l else (x.rd f f.a l).setWidth 64

/-- A reduction word: sources at issue, writes and bits at the end of the run (09 R213). -/
def redWord (o : Nat) (f : Fields) (s : State) (dst : Ctx → List Nat) (terms : List Nat → Nat → List Nat) : Res :=
  issueWord o f s (fun x s =>
    let d := x.active f
    let rs := (dst x).map (fun l => (l, reduce (f.m 3 4) (f.m 11 3) (f.m 0 3) ((terms d l).map (redSrc x f))))
    let s := writeEnd x f (rs.flatMap (fun r =>
      if type64 (f.m 11 3) then wr64 f.dst r.1 r.2.1 else wr32 f.dst r.1 (r.2.1.setWidth 32))) s
    s.modGroup x.core x.quarter x.port (fun g => { g with exc := g.exc ||| (rs.map (fun r => r.2.2)).foldl (· ||| ·) 0 }))

/-- WRED (09 R213). -/
def execWred (f : Fields) (s : State) : Res := redWord 0xCD f s (fun x => x.destLanes f) (fun d _ => d)
/-- WSCAN (09 R213). -/
def execWscan (f : Fields) (s : State) : Res :=
  redWord 0xCF f s (fun x => x.active f) (fun d l => d.filter (fun j => if f.m 14 1 = 1 then j < l else j ≤ l))

end Sys2Proof.Machine
end

