-- ==== Sys2Proof/Machine/Engine.lean ====
section
/-! DEFINITION. How engines reach memory: the party a command acts for, sectors read and written with their errors, elided blocks,
peer reads, local spans and the scoreboard (03 R70 to R84; 04 R106 to R109; 10 R235; 16 R365; 18 R394 to R398). -/

namespace Sys2Proof.Machine

/-! ## The party -/

/-- For whom an engine accesses memory: its core (none for a Deckle's own runs), issuer, kind and number. -/
structure EngAt where
  core : Option Nat
  by_ : Issuer
  kind : Nat
  id : Nat
  ordinal : W32
  /-- who its translations are asked for where that is no core of its own (16 R361, R363) -/
  ask : Option Nat := none
  deriving DecidableEq, Repr

/-- Who asks for its translations. -/
def EngAt.asker (g : EngAt) : Asker := match g.core with | some c => some c | none => g.ask

/-- The party of its owner checks (16 R368; 19 R411). -/
def EngAt.party (g : EngAt) : Party := .fn g.by_.vf (if g.by_.priv then .h else g.by_.level)
/-- Its writer's identity (17 R384). -/
def EngAt.writer (g : EngAt) : Writer := engineWriter g.by_ (g.core.getD 0xFFFF) g.ordinal
/-- Its party in the register window (03 R78). -/
def EngAt.win (g : EngAt) : WinParty := { level := g.by_.level, vf := g.by_.vf, core := g.core.getD 0x1FF, gang := g.by_.gang }

/-- Page requests of a command: by page and access, the ticket. -/
abbrev Pages := List (Nat × Nat)

/-- Replaces the ticket of a key. -/
def Pages.set (p : Pages) (k t : Nat) : Pages := (k, t) :: p.filter (fun q => q.1 != k)

/-- The look-up of a page for an engine: it waits on its request, is refused by its answer, or translates; after a RETRY afresh
(16 R365). -/
def engPage (s : State) (g : EngAt) (ps : Pages) (va : Nat) (a : Acc) : State × Pages × LaneX :=
  let key := va / 4096 * 8 + a.bits
  let go (fresh : Bool) : State × Pages × LaneX :=
    match translate s g.asker g.party g.by_.vf va a fresh with
    | (s, .ok e) => (s, ps, .ok e)
    | (s, .fault st cause tb x) =>
      let (s, t) := requestOf s g.asker g.by_.vf va a st cause tb x
      (s, ps.set key t, .wait t)
    | (s, .refused x) => (refuseOwner s g.by_.vf (g.core.getD 0xFFFF) x, ps, .refused)
  match ps.find? (fun p => p.1 == key) with
  | none => go false
  | some (_, t) =>
    match s.answers.get? t with
    | none => (s, ps, .wait t)
    | some (.refuse _ _) => (s, ps, .refused)
    | some (.retry _) => go true

/-! ## Elided blocks -/

/-- Where a block's metadata lies (03 R80). -/
inductive MetaX where
  | at_ (spa : Nat)
  | wait
  | refused
  deriving DecidableEq, Repr

/-- The metadata of the block at a guest physical address: no table, a fault of its own stage 2, or its place (03 R80; 16 R351,
R361). [log 54: DEDUCED, unsafe] -/
def elideMeta (s : State) (g : EngAt) (ps : Pages) (gpa : Nat) (a : Acc) : State × Pages × MetaX :=
  let f := g.by_.vf
  let root := (s.func f).etbase.toNat
  if root = 0 then (s, ps, .refused)
  else
    let m := root + gpa / 256 * 8
    let key := 2 ^ 70 + m / 4096 * 8 + a.bits
    let go : State × Pages × MetaX :=
      match translateGpa s f m a with
      | (s, .page x _ _) =>
        if (if a.bits = 3 then s.writable g.party x else s.owned g.party x) then (s, ps, .at_ x)
        else (refuseOwner s f (g.core.getD 0xFFFF) x, ps, .refused)
      | (s, .fault st cause _ x) =>
        let (s, t) := request s g.asker f st cause false true a 0 x
        (s, ps.set key t, .wait)
      | (s, .refused x) => (refuseOwner s f (g.core.getD 0xFFFF) x, ps, .refused)
    match ps.find? (fun p => p.1 == key) with
    | none => go
    | some (_, t) =>
      match s.answers.get? t with
      | none => (s, ps, .wait)
      | some (.refuse _ _) => (s, ps, .refused)
      | some (.retry _) => go

/-- What the home slices do when they are asked for an elided block, before they answer: its lines are accessed (04 R104); reserved
bits set in its metadata are counted (R80); an error in the metadata or anywhere in the payload poisons the block, whose metadata becomes
state 11 with WORD 0, and no other (03 R80, R83). -/
def elideSettle (s : State) (f spa m : Nat) : State :=
  let w := leNat (s.bytesAt m 8)
  let s := if bits w 31 2 ≠ 0 then s.modFunc f (fun x => { x with badMeta := x.badMeta + 1 }) else s
  let s := homeTouches s m 8
  let s := if metaState w = 2 then homeTouches s spa 256 else s
  let hit (a : Nat) : Bool := a / 8 == m / 8
  let mine (a : Nat) : Bool := hit a || a / 256 == spa / 256
  let own := s.eccs.any hit
  if s.eccs.any mine || s.llcPois.any (fun i => mine (4 * i)) || (metaState w == 2 && (List.range 4).any (fun i => s.linePois (spa + 64 * i)))
  then
    let s := selfWrite s partWriter m (leBytes 8 3)
    let left := s.eccs.filter (fun a => !mine a)
    { s with eccs := left, llcPois := s.llcPois.filter (fun i => !mine (4 * i)),
             memPois := if own && !left.any (fun a => a / 64 == m / 64) then setDel s.memPois (m / 64) else s.memPois }
  else s

/-- The 256 bytes of an elided block whose payload lies at spa, and its poison (03 R82, R83). -/
def elideExpand (s : State) (spa m : Nat) : List Byte × Bool :=
  let w := leNat (s.bytesAt m 8)
  match metaState w with
  | 0 => (List.replicate 256 0, false)
  | 1 => ((List.replicate 64 (leBytes 4 (w / 2 ^ 32))).flatten, false)
  | 2 =>
    if (List.range 4).any (fun i => s.linePois (spa + 64 * i)) then (List.replicate 256 0, true)
    else (s.bytesAt spa 256, false)
  | _ => (List.replicate 256 0, true)

/-- A byte put into an elided block: its offset, the byte, the bits of it that are written, and its poison. -/
structure ElidePut where
  off : Nat
  byte : Byte
  mask : Byte := 0xFF
  pois : Bool
  deriving DecidableEq, Repr, Inhabited

/-- One update of an elided block: bytes put at offsets, each with its poison (03 R82). -/
def elideStore (s : State) (w : Writer) (spa m : Nat) (puts : List ElidePut) : State :=
  let (old, bad) := elideExpand s spa m
  let put (b : Byte × Bool) (p : ElidePut) : Byte × Bool :=
    ((p.byte &&& p.mask) ||| (b.1 &&& ~~~p.mask), p.pois || (b.2 && p.mask != 0xFF))
  let cells : Tab (Byte × Bool) := puts.foldl (fun t p =>
    t.ins p.off (put (match t.get? p.off with | some x => x | none => (old.getD p.off 0, bad)) p)) []
  let new := (old.zipIdx).map (fun b => match cells.get? b.2 with | some x => x | none => (b.1, bad))
  let bs := new.map Prod.fst
  let first := (leNat (bs.take 4))
  if new.any Prod.snd then homeWrite s w m (leBytes 8 3)
  else if bs.all (· == 0) then homeWrite s w m (leBytes 8 0)
  else if bs == (List.replicate 64 (leBytes 4 first)).flatten then homeWrite s w m (leBytes 8 (first * 2 ^ 32 + 1))
  else
    homeWrite ((List.range 4).foldl (fun s i => homeWrite s w (spa + 64 * i) ((bs.drop (64 * i)).take 64)) s) w m (leBytes 8 2)

/-! ## Reads -/

/-- What a read of part of a sector gives: bytes with the positions of poisoned ones, an error code of R235, or a wait. -/
inductive Got where
  | ok (b : List Byte) (pois : List Nat)
  | err (code : Nat)
  | wait
  deriving DecidableEq, Repr

/-- All of n bytes poisoned, or none. -/
def Got.whole (b : List Byte) (bad : Bool) : Got := .ok b (if bad then List.range b.length else [])

/-- n bytes of HBM4 for an engine: through its core's L1 and write queue (04 R107), or at the home slice. -/
def engHbm (s : State) (g : EngAt) (a n : Nat) : State × Got :=
  match g.core with
  | some c =>
    let (s, b) := coreBytes s c g.by_.vf a n
    (s, .ok (b.map Prod.fst) ((List.range n).filter (fun i => (b.getD i (0, false)).2)))
  | none => (homeTouches s a n, .ok (s.bytesAt a n) (s.poisIn a n))

/-- n bytes behind a host port, asked for by function f: free values (18 R394). -/
def portRead (s : State) (f port a n : Nat) : State × List Byte :=
  ({ s with free := s.free + 1 }.send (.hostRead port a f n), (List.range n).map (fun i => Config.hostByte s.free (2 ^ 47 * port + a + i)))

/-- n bytes behind a host port for an engine, with what its core's write queue still holds of them (03 R67; 04 R106). -/
def engPort (s : State) (g : EngAt) (port a n : Nat) : State × Got :=
  let (s, b) := portRead s g.by_.vf port a n
  match g.core with
  | none => (s, .ok b [])
  | some c =>
    let bs := (b.zipIdx).map (fun x => forwardedAt (s.core c) (1 + port) (a + x.2) (x.1, false))
    (s, .ok (bs.map Prod.fst) ((List.range n).filter (fun i => (bs.getD i (0, false)).2)))

/-- A sector of a peer for an engine command: asked for once, after the writes to that peer that its issuing wave has queued before
it, delivered or failed when it is answered (04 R106; 18 R398). -/
def engPeer (s : State) (g : EngAt) (node r n : Nat) : State × Got :=
  let me := (g.core.getD 0xFFFF, g.kind, g.id)
  match s.peers.find? (fun q => q.cmd == some me && q.chunk.isNone && q.node == node && q.addr == r / 64 * 64) with
  | some q =>
    match q.got with
    | none => (s, .wait)
    | some none => (s, .err 11)
    | some (some b) => (s, .ok ((b.drop (r % 64)).take n) [])
  | none =>
    match peerSub s node r with
    | some _ => (s, .err 11)
    | none =>
      let before := match g.core with
        | some c => (s.core c).wq.any (fun e => match e.tgt, e.who with
            | .peer m _, some (uid, _, op) => m == node && uid == g.by_.uid && decide (op < g.by_.after)
            | _, _ => false)
        | none => false
      if before then (s, .wait)
      else
        (sendReq s { tid := 0, node := node, link := 0, who := none, cmd := some me, chunk := none, addr := r / 64 * 64, len := 64,
                     since := 0, got := none } (flitTo s 2 node 0 (r / 64 * 64)), .wait)

/-- A register-window word for an engine (03 R77 to R79). -/
def engWin (s : State) (g : EngAt) (va n : Nat) : Got :=
  if va % 4 ≠ 0 ∨ n ≠ 4 then .err 6
  else if winBusy s va then .wait
  else
    match winRead s g.win va with
    | .ok v bad => .whole (leBytes 4 v.toNat) bad
    | _ => .err 6

/-- A read of n bytes at va, within one sector, or one word in the window; need asks for elided memory (10 R228, R235). [log 55: DESIGN CHOICE, unsafe] -/
def engRead (s : State) (g : EngAt) (ps : Pages) (va : W64) (n : Nat) (need : Bool) : State × Pages × Got :=
  let f := g.by_.vf
  if canonical va = false then (s, ps, .err 12)
  else if inWindow va then (s, ps, engWin s g va.toNat n)
  else if inHeap va then
    -- reads of the heap are the Ladle's alone among the engines (12 R281)
    if (g.kind = 0 ∨ g.kind = 3) ∧ heapReadable s f va = true then
      let (s, r) := engHbm s g (heapSpa s va) n
      (s, ps, r)
    else (s, ps, .err 5)
  else
    match engPage s g ps va.toNat (accR g.by_.level) with
    | (s, ps, .wait _) => (s, ps, .wait)
    | (s, ps, .refused) => (s, ps, .err 5)
    | (s, ps, .ok e) =>
      let a := e.apply va.toNat
      if e.elide then
        if g.kind ≠ 0 ∧ g.kind ≠ 3 then (s, ps, .err 9)
        else if s.owned g.party a = false then (refuseOwner s f (g.core.getD 0xFFFF) a, ps, .err 5)
        else
          match elideMeta s g ps (e.gpa + va.toNat % 2 ^ e.size) (accR g.by_.level) with
          | (s, ps, .wait) => (s, ps, .wait)
          | (s, ps, .refused) => (s, ps, .err 5)
          | (s, ps, .at_ m) =>
            let s := elideSettle s f (a / 256 * 256) m
            let (b, bad) := elideExpand s (a / 256 * 256) m
            (s, ps, .whole ((b.drop (a % 256)).take n) bad)
      else if need then (s, ps, .err 8)
      else
        match targetOf f g.by_.level a with
        | .hbm a =>
          if s.owned g.party a then
            let (s, r) := engHbm s g a n
            (s, ps, r)
          else (refuseOwner s f (g.core.getD 0xFFFF) a, ps, .err 5)
        | .port p a =>
          let (s, r) := engPort s g p a n
          (s, ps, r)
        | .peer node r =>
          let (s, r) := engPeer s g node r n
          (s, ps, r)
        | _ => (refuseOwner s f (g.core.getD 0xFFFF) a, ps, .err 5)

/-! ## Writes -/

/-- Where a write of part of a sector will go, found before anything is written. -/
inductive WTo where
  | to (t : Target)
  | elided (payload meta_ off : Nat)
  | err (code : Nat)
  | wait
  deriving DecidableEq, Repr

/-- The target of an engine write at va (10 R228, R235). -/
def engProbe (s : State) (g : EngAt) (ps : Pages) (va : W64) (n : Nat) (need : Bool) : State × Pages × WTo :=
  let f := g.by_.vf
  if canonical va = false then (s, ps, .err 12)
  else if inWindow va then
    (s, ps, if va.toNat % 4 ≠ 0 ∨ n ≠ 4 then .err 6 else if winBusy s va.toNat then .wait else .to (.window va.toNat))
  else if inHeap va then (s, ps, .err 5)
  else
    match engPage s g ps va.toNat (accW g.by_.level) with
    | (s, ps, .wait _) => (s, ps, .wait)
    | (s, ps, .refused) => (s, ps, .err 5)
    | (s, ps, .ok e) =>
      let a := e.apply va.toNat
      if e.elide then
        if g.kind ≠ 0 ∧ g.kind ≠ 3 then (s, ps, .err 9)
        else if s.writable g.party a = false then (refuseOwner s f (g.core.getD 0xFFFF) a, ps, .err 5)
        else
          match elideMeta s g ps (e.gpa + va.toNat % 2 ^ e.size) (accRW g.by_.level) with
          | (s, ps, .wait) => (s, ps, .wait)
          | (s, ps, .refused) => (s, ps, .err 5)
          | (s, ps, .at_ m) => (elideSettle s f (a / 256 * 256) m, ps, .elided (a / 256 * 256) m (a % 256))
      else if need then (s, ps, .err 8)
      else
        match targetOf f g.by_.level a with
        | .hbm a => if s.writable g.party a then (s, ps, .to (.hbm a))
            else (refuseOwner s f (g.core.getD 0xFFFF) a, ps, .err 5)
        | .port p a => (s, ps, .to (.port p a))
        | .peer node r => (s, ps, match peerSub s node r with | some _ => .err 11 | none => .to (.peer node r))
        | _ => (refuseOwner s f (g.core.getD 0xFFFF) a, ps, .err 5)

/-- An engine's write as its core's write queue holds it. -/
def EngAt.entry (g : EngAt) (t : Target) (va : W64) (b : List Byte) (hs pois : List Nat) (chunk : Nat) : WqEntry :=
  { id := 0, tgt := t, bytes := b, holes := hs, vf := g.by_.vf, level := g.by_.level, world := g.by_.world, who := none,
    va := va, eng := some (g.id, chunk), kind := g.kind, wr := g.writer, poison := pois, priv := g.by_.priv }

/-- An engine's write is made: through its core's write queue (04 R107), else at its target. -/
def engPush (s : State) (g : EngAt) (e : WqEntry) : State :=
  match g.core with
  | some c => (enqueue s c e).1
  | none =>
    match e.tgt with
    | .port p a =>
      (runsOf e.bytes.length e.holes).foldl (fun s r => s.send (.hostWrite p (a + r.1) e.vf ((e.bytes.drop r.1).take r.2))) s
    | .peer node r =>
      sendReq s { tid := 0, node := node, link := 0, who := none, cmd := some (0xFFFF, g.kind, g.id), chunk := e.eng.map Prod.snd,
                  more := e.more, addr := r / 64 * 64, len := e.bytes.length, since := 0, got := none } (writeFlit s node r e.bytes e.holes e.flags)
    | t =>
      match t.spa? with
      | some a =>
        let s := homeWriteBy s (fun _ _ => g.writer) a e.bytes e.holes
        if e.poison.isEmpty then s else { s with memPois := setIns s.memPois (a / 64) }
      | none => s

/-- A write of bytes, but those at positions hs, at a target found before, with poisoned positions: to a register of the window, or as
engPush makes it; an error code where the window refuses (03 R79; 02 R60). -/
def engWrite (s : State) (g : EngAt) (t : Target) (va : W64) (b : List Byte) (hs pois : List Nat) (chunk : Nat) :
    State × Option Nat :=
  match t with
  | .window a =>
    match winWrite s g.win a (BitVec.ofNat 32 (leNat b)) with
    | (s, .ok _ _) => (s, none)
    | (s, .pending) => (s, some 7)
    | (s, .refused _) => (s, some 6)
  | t => (engPush s g (g.entry t va b hs pois chunk), none)

/-- Writes of an engine command are on their way to their targets: in its core's write queue, or sent to a peer and not answered. -/
def cmdWriting (s : State) (c kind id : Nat) : Bool :=
  (s.core c).wq.any (fun e => e.kind == kind && e.eng.map Prod.fst == some id) ||
  s.peers.any (fun p => p.cmd == some (c, kind, id) && p.chunk.isSome)

/-- An engine read poisoned bytes of its core (03 R84; 17 R387; 18 R406). -/
def engPoison (s : State) (g : EngAt) : State :=
  match g.core with
  | some c => countEvent (s.modCore c (fun k => { k with poisonReads := satInc32 k.poisonReads })) (clusterOf c) g.by_.vf 15 1
  | none => s

/-! ## Local ranges -/

/-- Rows of a local region: buffer tag 0 G, 2 W, 3 X, 5 Z, its gang for G, and n rows of len bytes, pitch apart, from off. -/
structure Span where
  buf : Nat
  gang : Nat
  off : Nat
  pitch : Nat
  len : Nat
  rows : Nat
  deriving DecidableEq, Repr

/-- The span touches [lo, hi). -/
def Span.hits (a : Span) (lo hi : Nat) : Bool :=
  if a.rows = 0 ∨ a.len = 0 ∨ hi ≤ lo ∨ hi ≤ a.off then false
  else
    let r := if a.rows = 1 ∨ a.pitch = 0 then 0 else min (a.rows - 1) ((hi - 1 - a.off) / a.pitch)
    decide (lo < a.off + r * a.pitch + a.len)

/-- The two name the same buffer. -/
def Span.same (a b : Span) : Bool := a.buf == b.buf && (a.buf != 0 || a.gang == b.gang)

/-- Two spans overlap. -/
def Span.meets (a b : Span) : Bool :=
  a.same b && (List.range a.rows).any (fun r => b.hits (a.off + r * a.pitch) (a.off + r * a.pitch + a.len))

/-- A span of one range. -/
def Span.range (buf gang lo hi : Nat) : Span := { buf := buf, gang := gang, off := lo, pitch := 0, len := hi - lo, rows := 1 }

/-- Accumulators as Z ranges, by slot. [log 65: DEDUCED, safe] -/
def accSpans (zs : List Nat) : List Span := zs.map (fun z => Span.range 5 0 (16384 * z) (16384 * z + 16384))

/-- n bytes of Z at a wave's offset, and the poisoned positions. -/
def zBytes (s : State) (c : Nat) (zs : List Nat) (o n : Nat) : List Byte × List Nat :=
  let at_ (i : Nat) : Nat × Nat := ((zs.getD ((o + i) / 16384) 0) * 4096 + (o + i) % 16384 / 4, (o + i) % 4)
  ((List.range n).map (fun i => (zRead s c (at_ i).1).extractLsb' (8 * (at_ i).2) 8),
   (List.range n).filter (fun i => (s.core c).zpois.contains (at_ i).1))

/-- n bytes of a local buffer, and the poisoned positions. -/
def locBytes (s : State) (c gang : Nat) (zs : List Nat) (buf o n : Nat) : List Byte × List Nat :=
  if buf = 5 then zBytes s c zs o n
  else
    let b : Buf := if buf = 0 then .g else if buf = 2 then .w else .x
    let (m, p) := bufCells s c gang b
    (memBytes m o n, (List.range n).filter (fun i => p.contains ((o + i) / 4)))

/-- Writes bytes to G, W or X, with poisoned positions. -/
def locPut (s : State) (c gang buf o : Nat) (bs : List Byte) (pois : List Nat) : State :=
  let b : Buf := if buf = 0 then .g else if buf = 2 then .w else .x
  locPoison (locWrite s c gang b o bs) c gang b o pois

/-! ## Waiting for the issuing wave -/

/-- A command may begin to access memory: the gates before it are open, and every earlier write of its wave stands in the write queue
or is done (04 R94 to R96, R106). -/
def engReady (s : State) (c : Nat) (b : Issuer) : Bool :=
  match findUid s c b.wave b.uid with
  | none => true
  | some v =>
    !gated v b.after (some b.lane) && v.ops.all (fun o => decide (b.after ≤ o.id) || !isWrite o.opc ||
      o.lanes.all (fun l => match l.st with
        | .ready => false
        | .behind => false
        | .logged _ => false
        | .waiting => false
        | _ => true))

end Sys2Proof.Machine
end

