-- ==== Sys2Proof/Machine/Plan.lean ====
section
/-! DEFINITION. Descriptors and layout records, where a stream's bytes lie, the ranges commands use and the scoreboard (10 R227 to
R230, R241, R245; 04 R109). -/

namespace Sys2Proof.Machine

/-- Bits hi:lo of a tile register. -/
def tbits (t : W256) (hi lo : Nat) : Nat := (t.extractLsb' lo (hi + 1 - lo)).toNat
/-- The same as a signed number. -/
def tint (t : W256) (hi lo : Nat) : Int := (t.extractLsb' lo (hi + 1 - lo)).toInt
/-- SPACE of a descriptor (10 R229). -/
def tspace (t : W256) : Nat := tbits t 255 253

/-- One side of a command: a box of a tensor, or rows of a local region (10 R227 to R230). -/
structure Side where
  space : Nat
  fmt : Nat
  -- the local form
  ring : Nat
  rows : Nat
  rowb : Nat
  pitch : Nat
  off : Nat
  scv : Bool
  scoff : Nat
  -- the shared form
  base : W64
  dims : List Nat
  strs : List Nat
  scale : W64
  swz : Nat
  elide : Bool
  ext : List Nat
  org : List Int
  -- elements (shared) or bytes (local) per k-step
  inc : Int
  /-- the peer whose memory the tensor lies in -/
  node : Option Nat
  deriving DecidableEq, Repr, Inhabited

/-- Bits of an element. -/
def Side.w (d : Side) : Nat := codeWidth d.fmt
/-- The side is a box of a tensor. -/
def Side.shared (d : Side) : Bool := d.space == 0

/-- A layout record's checks (10 R227). -/
def recordOk (r : List Byte) : Bool :=
  let fmt := recNat r 52 1
  let nd := recNat r 53 1
  let swz := recNat r 54 1
  recNat r 55 1 ≤ 1 && swz ≤ 3 && 1 ≤ nd && nd ≤ 5 && codeOk fmt &&
  (List.range 5).all (fun k => let d := recNat r (32 + 4 * k) 4; if k < nd then d != 0 else d == 1) &&
  (recNat r 8 8 == 0 || (3 ≤ fmt && fmt ≤ 5)) && recNat r 0 8 % (if swz = 0 then 16 else 64 * 2 ^ swz) == 0

/-- A shared descriptor and its record; box says whether the descriptor's box is checked (10 R229, R245). -/
def sharedSide (t : W256) (r : List Byte) (box : Bool) : Option Side :=
  let w := codeWidth (recNat r 52 1)
  if recordOk r = false ∨ tbits t 252 240 ≠ 0 ∨ tbits t 195 192 ≠ 0 ∨ tbits t 63 0 % 64 ≠ 0 then none
  else if w = 4 ∧ (tbits t 80 80 = 1 ∨ (box = true ∧ tbits t 196 196 = 0)) then none
  else
    some { space := 0, fmt := recNat r 52 1, ring := 0, rows := 0, rowb := 0, pitch := 0, off := 0, scv := false, scoff := 0,
           base := BitVec.ofNat 64 (recNat r 0 8), dims := (List.range 5).map (fun k => recNat r (32 + 4 * k) 4),
           strs := (List.range 4).map (fun k => recNat r (16 + 4 * k) 4), scale := BitVec.ofNat 64 (recNat r 8 8),
           swz := recNat r 54 1, elide := recNat r 55 1 == 1,
           ext := [tbits t 205 196 + 1, tbits t 215 206 + 1, tbits t 223 216 + 1, tbits t 231 224 + 1, tbits t 239 232 + 1],
           org := [tint t 111 80, tint t 143 112, tint t 159 144, tint t 175 160, tint t 191 176],
           inc := tint t 79 64, node := none }

/-- A local descriptor in a gang with nring rings (10 R230, R241). -/
def localSide (t : W256) (nring : Nat) : Option Side :=
  let sp := tspace t
  let fmt := tbits t 252 248
  let rows := tbits t 231 216
  let rowb := tbits t 215 196
  let pitch := tbits t 195 176
  let ok := decide (1 ≤ sp ∧ sp ≤ 5) && codeOk fmt && tbits t 247 243 == 0 && tbits t 239 232 == 0 && rows != 0 &&
    rowb != 0 && rowb % 16 == 0 && pitch % 16 == 0 && (rows == 1 || decide (rowb ≤ pitch)) && tbits t 175 156 % 16 == 0 &&
    tbits t 155 85 == 0 && tbits t 63 20 == 0 && tbits t 19 0 % 16 == 0 &&
    (tbits t 84 84 == 0 || decide (3 ≤ fmt ∧ fmt ≤ 5)) &&
    (if sp = 4 then decide (tbits t 242 240 < nring) && tbits t 175 156 == 0 else tbits t 242 240 == 0)
  if ok then
    some { space := sp, fmt := fmt, ring := tbits t 242 240, rows := rows, rowb := rowb, pitch := pitch, off := tbits t 19 0,
           scv := tbits t 84 84 == 1, scoff := tbits t 83 64, base := 0, dims := [], strs := [], scale := 0, swz := 0,
           elide := false, ext := [], org := [], inc := tint t 175 156, node := none }
  else none

/-- Elements of the stream. -/
def Side.count (d : Side) : Nat := if d.shared then d.ext.foldl (· * ·) 1 else d.rows * d.rowb * 8 / d.w
/-- Bytes of the stream. -/
def Side.bytes (d : Side) : Nat := if d.shared then d.count * d.w / 8 else d.rows * d.rowb
/-- The side carries scales. -/
def Side.scales (d : Side) : Bool := if d.shared then d.scale != 0 else d.scv

/-- The buffer tag of a local side: 0 G, 2 W, 3 X, 5 Z. -/
def Side.buf (d : Side) : Nat := match d.space with | 1 => 0 | 2 => 2 | 5 => 5 | _ => 3

/-- Bytes from the scales of one row to the next (10 R230). [log 58: DEDUCED, unsafe] -/
def Side.scRow (d : Side) : Nat := d.pitch * 8 / d.w / 32
/-- Elements of a local row. -/
def Side.rowEls (d : Side) : Nat := d.rowb * 8 / d.w

/-- The last byte a local side, or its scales, reaches, plus one. -/
def Side.reach (d : Side) : Nat :=
  let data := d.off + (d.rows - 1) * d.pitch + d.rowb
  if d.scv then max data (d.scoff + (d.rows - 1) * d.scRow + (d.rowEls - 1) / 32 + 1) else data

/-- Bytes a local side may reach (10 R230): its buffer, the gang's region, the wave's Z slots, or a stage. -/
def sideLimit (s : State) (c gang : Nat) (nz : Nat) (d : Side) : Nat :=
  match d.space with
  | 1 => bufSize s c gang .g
  | 2 => 0x100000
  | 3 => 0x80000
  | 4 => match s.gang? c gang with | some g => (g.rings.getD d.ring default).stageb | none => 0
  | _ => nz * 16384

/-! ## Where bytes lie -/

/-- Where a byte of a stream lies: shared memory, a peer's, a local buffer by tag, outside the tensor, in the command's own stream, a byte given
or nowhere for an error. -/
inductive Loc where
  | mem (va : W64)
  | peer (node addr : Nat)
  | loc (buf off : Nat)
  | out
  | own (p : Nat)
  | val (v : Byte)
  | bad (code : Nat)
  deriving DecidableEq, Repr

/-- The coordinates of element e of a box: i0 fastest. -/
def boxCoords : List Nat → List Int → Nat → List Int
  | x :: xs, o :: os, e => (o + (e % x : Nat)) :: boxCoords xs os (e / x)
  | _, _, _ => []

/-- Coordinates lie inside a tensor (10 R228). -/
def insideDims : List Nat → List Int → Bool
  | d :: ds, c :: cs => decide (0 ≤ c) && decide (c < (d : Int)) && insideDims ds cs
  | _, _ => true

/-- The byte offset of an element inside its tensor (10 R228). -/
def Side.tensorOff (d : Side) (cs : List Int) : Nat :=
  let i (k : Nat) : Nat := (cs.getD k 0).toNat
  let o := i 0 * d.w / 8 + 16 * ((List.range 4).map (fun k => i (k + 1) * d.strs.getD k 0)).foldl (· + ·) 0
  if d.swz = 0 then o else o ^^^ (o / (64 * 2 ^ d.swz) % (4 * 2 ^ d.swz) * 16)

/-- An address of the tensor's memory. -/
def Side.place (d : Side) (a : Nat) : Loc :=
  match d.node with
  | none => .mem (BitVec.ofNat 64 a)
  | some n => .peer n (a % 2 ^ 64)

/-- Byte sub of the element at coordinates cs, and the bits of it inside the tensor (10 R228). -/
def Side.elemLoc (d : Side) (cs : List Int) (sub : Nat) : Loc × Nat :=
  if insideDims d.dims cs = false then (.out, 0xFF)
  else
    let a := d.base.toNat + d.tensorOff cs + sub
    if d.w = 4 then
      let next := match cs with | c :: r => insideDims d.dims ((c + 1) :: r) | [] => true
      (d.place a, if next then 0xFF else 0x0F)
    else (d.place a, 0xFF)

/-- Where the scale byte of the element at coordinates cs lies (10 R228). -/
def Side.elemScale (d : Side) (cs : List Int) : Loc :=
  if insideDims d.dims cs = false then .out
  else
    let i (k : Nat) : Nat := (cs.getD k 0).toNat
    let n (k : Nat) : Nat := d.dims.getD k 1
    d.place (d.scale.toNat + i 0 / 32 + (n 0 + 31) / 32 * (i 1 + n 1 * (i 2 + n 2 * (i 3 + n 3 * i 4))))

/-- Byte p of a side's stream: where it lies and which of its bits; base is the X offset of a ring stage. -/
def Side.byteLoc (d : Side) (base p : Nat) : Loc × Nat :=
  if d.shared then
    if d.w = 4 then d.elemLoc (boxCoords d.ext d.org (2 * p)) 0
    else d.elemLoc (boxCoords d.ext d.org (p / (d.w / 8))) (p % (d.w / 8))
  else (.loc d.buf (base + d.off + p / d.rowb * d.pitch + p % d.rowb), 0xFF)

/-- Where the scale byte of element e of a side's stream lies. -/
def Side.scaleLoc (d : Side) (base e : Nat) : Loc :=
  if d.shared then d.elemScale (boxCoords d.ext d.org e)
  else .loc d.buf (base + d.scoff + e / d.rowEls * d.scRow + e % d.rowEls / 32)

/-- The stream position of the byte at an offset of a local side. -/
def Side.posAt (d : Side) (o : Nat) : Option Nat :=
  if o < d.off then none
  else
    let r := if d.rows = 1 ∨ d.pitch = 0 then 0 else (o - d.off) / d.pitch
    let x := o - d.off - r * d.pitch
    if r < d.rows ∧ x < d.rowb then some (r * d.rowb + x) else none

/-! ## Ranges -/

/-- The rows of a local side as spans: rows and scales; Z by whole accumulators (04 R109). -/
def Side.spans (d : Side) (gang base : Nat) (zs : List Nat) : List Span :=
  if d.shared then []
  else if d.space = 5 then accSpans ((zs.take ((d.reach + 16383) / 16384)).drop (d.off / 16384))
  else
    { buf := d.buf, gang := gang, off := base + d.off, pitch := d.pitch, len := d.rowb, rows := d.rows } ::
      (if d.scv then [Span.range d.buf gang (base + d.scoff)
          (base + d.scoff + (d.rows - 1) * d.scRow + (d.rowEls - 1) / 32 + 1)] else [])

/-- The X offset of a stage of a ring of a gang. -/
def stageBase (s : State) (c gang ring : Nat) (n : W32) : Nat :=
  match s.gang? c gang with
  | some g => (g.rings.getD ring default).offOf n
  | none => 0

/-- Rings of a gang. -/
def nRings (s : State) (c gang : Nat) : Nat := match s.gang? c gang with | some g => g.rings.length | none => 0

/-- A side of a descriptor and record. -/
def sideOf (t : W256) (r : List Byte) (nring : Nat) (box : Bool) : Option Side :=
  if tspace t = 0 then sharedSide t r box else localSide t nring

/-! ### Ladle commands -/

/-- Side A of a Ladle command; the remote side of LRCOPY.PULL lies at the peer. -/
def LCmd.sideA (q : LCmd) (nring : Nat) : Option Side :=
  (sideOf q.ta q.recA nring true).map (fun d =>
    if q.opc = 0xD4 ∧ q.f.m 11 1 = 1 then { d with node := some q.c.toNat } else d)
/-- Side B of a Ladle command; the remote side of LRCOPY.PUSH lies at the peer. -/
def LCmd.sideB (q : LCmd) (nring : Nat) : Option Side :=
  (sideOf q.tb q.recB nring true).map (fun d =>
    if q.opc = 0xD4 ∧ q.f.m 11 1 = 0 then { d with node := some q.c.toNat } else d)

/-- The destination: A of LFILL, B of the others. -/
def LCmd.dst (q : LCmd) (nring : Nat) : Option Side := if q.opc = 0xD6 then q.sideA nring else q.sideB nring
/-- The source; LFILL has none. -/
def LCmd.src (q : LCmd) (nring : Nat) : Option Side := if q.opc = 0xD6 then none else q.sideA nring

/-- BM, where the destination is local (10 R231, R234). -/
def LCmd.bm (q : LCmd) : Bool := q.f.m 6 1 == 1
/-- The command carries ACQ. -/
def LCmd.acq (q : LCmd) : Bool := q.f.m 3 1 == 1
/-- The command carries REL. -/
def LCmd.rel (q : LCmd) : Bool := q.f.m 4 1 == 1
/-- SCOPE. -/
def LCmd.scope (q : LCmd) : Nat := q.f.m 7 4
/-- A graph is named. -/
def LCmd.hasGraph (q : LCmd) : Bool := (q.opc == 0xD0 && q.f.c != .absent) || q.opc == 0xDE
/-- The X offset of the destination's stage, once known. -/
def LCmd.dstBase (q : LCmd) (s : State) (c : Nat) (d : Side) : Nat :=
  match d.space, q.stage with
  | 4, some n => stageBase s c q.by_.gang d.ring n
  | _, _ => 0

/-- Local ranges a Ladle command reads (04 R109). -/
def LCmd.reads (q : LCmd) (s : State) (c : Nat) : List Span :=
  let g := q.by_.gang
  match q.src (nRings s c g) with
  | none => []
  | some d =>
    d.spans g 0 q.zs ++
    (if q.opc = 0xD2 ∨ q.opc = 0xD3 then
      match q.sideA (nRings s c g), q.sideB (nRings s c g) with
      | some a, some b => [Span.range 0 g q.c.toNat (q.c.toNat + 4 * (if q.opc = 0xD2 then b.rows else a.rows))]
      | _, _ => []
    else [])

/-- Local ranges a Ladle command writes; a ring's range is the stage's, once known (10 R241). -/
def LCmd.writes (q : LCmd) (s : State) (c : Nat) : List Span :=
  let g := q.by_.gang
  match q.dst (nRings s c g) with
  | none => []
  | some d =>
    if d.space = 4 then
      match q.stage with
      | some n => let b := stageBase s c g d.ring n; [Span.range 3 g b (b + (match s.gang? c g with
          | some u => (u.rings.getD d.ring default).stageb | none => 0))]
      | none => []
    else d.spans g 0 q.zs

/-- The first offset a local destination's chunks count from (10 R234). -/
def Side.chunk0 (d : Side) : Nat := d.off / 512 * 512
/-- Chunks of a local destination (10 R234). -/
def Side.nChunks (d : Side) : Nat := (d.off + (d.rows - 1) * d.pitch + d.rowb - d.chunk0 + 511) / 512

/-- Whether a Ladle command with chunk bits has finished with all of [lo, hi) of a buffer: each chunk's bit is set, and nothing else it
writes, its scale bytes, lies there (04 R109). -/
def LCmd.chunksOver (q : LCmd) (s : State) (c buf lo hi : Nat) : Bool :=
  match q.dst (nRings s c q.by_.gang) with
  | none => true
  | some d =>
    if q.bm = false ∨ d.shared ∨ d.buf ≠ buf then false
    else
      let b := q.dstBase s c d + d.chunk0
      !((d.spans q.by_.gang (q.dstBase s c d) q.zs).drop 1).any (fun w => w.hits lo hi) && (List.range d.nChunks).all (fun k =>
        decide (hi ≤ b + 512 * k ∨ b + 512 * k + 512 ≤ lo) || (q.chunks.contains k && !q.bad.contains k && !q.allBad))

/-! ### Matrix commands -/

/-- KSTEPS of a command's PARAM (10 R244). -/
def MCmd.ksteps (q : MCmd) : Nat := q.param.toNat % 65536
/-- MB. -/
def MCmd.mb (q : MCmd) : Nat := bits q.param.toNat 19 16
/-- NB. -/
def MCmd.nb (q : MCmd) : Nat := bits q.param.toNat 23 20
/-- TEAM. -/
def MCmd.isTeam (q : MCmd) : Bool := q.param.getLsbD 24

/-- Operand A or B. -/
def MCmd.side (q : MCmd) (b : Bool) (nring : Nat) : Option Side :=
  if b then sideOf q.tb q.recB nring false else sideOf q.ta q.recA nring false

/-- The rows of a local operand that a k-step reads (10 R245). -/
def MCmd.opSpan (q : MCmd) (s : State) (c : Nat) (b : Bool) (step base : Nat) : List Span :=
  match q.side b (nRings s c q.by_.gang) with
  | none => []
  | some d =>
    if d.shared then []
    else
      let rows := if b then 32 else 64 * q.mb
      let len := (if b then 64 * q.nb else 32) * d.w / 8
      [{ buf := d.buf, gang := q.by_.gang, off := (((base + d.off : Nat) : Int) + d.inc * (step : Nat)).toNat, pitch := d.pitch,
         len := len, rows := rows }]

/-- The scale offset of the byte at rel bytes from a local region's OFF: its row and element in the unshifted region (10 R245). -/
def Side.shiftScale (d : Side) (base : Nat) (rel : Int) : Nat :=
  let row := rel.fdiv d.pitch
  let el := (rel.fmod d.pitch).toNat * 8 / d.w
  (((base + d.scoff + el / 32 : Nat) : Int) + row * (d.scRow : Nat)).toNat

/-- The scale bytes that k-steps lo to hi of a local operand read (10 R245). -/
def MCmd.scaleSpan (q : MCmd) (s : State) (c : Nat) (b : Bool) (lo hi base : Nat) : List Span :=
  match q.side b (nRings s c q.by_.gang) with
  | none => []
  | some d =>
    if d.shared || !d.scv then []
    else
      let rows := if b then 32 else 64 * q.mb
      let len := (if b then 64 * q.nb else 32) * d.w / 8
      let x : Int := d.inc * (lo : Nat)
      let y : Int := d.inc * (hi : Nat)
      [Span.range d.buf q.by_.gang (d.shiftScale base (min x y))
        (d.shiftScale base (max x y + (((rows - 1) * d.pitch + len - 1 : Nat) : Int)) + 1)]

/-- A and B lie in one ring: one stage holds both for each k-step (10 R241). [log 67: DEDUCED, unsafe] -/
def MCmd.oneRing (q : MCmd) : Bool := tspace q.ta == 4 && tspace q.tb == 4 && tbits q.ta 242 240 == tbits q.tb 242 240

/-- Stages obtained for an operand. -/
def MCmd.stages (q : MCmd) (b : Bool) : List W32 := if b && !q.oneRing then q.stB else q.stA

/-- Local ranges an MXE command reads until it completes: the operands of its k-steps and their scales; of a ring, the stages it has
obtained and not drained (04 R109; 10 R241). -/
def MCmd.reads (q : MCmd) (s : State) (c : Nat) : List Span :=
  if q.opc = 0xDA then []
  else
    let one (b : Bool) : List Span :=
      match q.side b (nRings s c q.by_.gang) with
      | none => []
      | some d =>
        if d.space = 4 then
          (q.stages b).flatMap (fun n =>
            let base := stageBase s c q.by_.gang d.ring n
            q.opSpan s c b 0 base ++ q.scaleSpan s c b 0 0 base)
        else (List.range q.ksteps).flatMap (fun i => q.opSpan s c b i 0) ++ q.scaleSpan s c b 0 (q.ksteps - 1) 0
    one false ++ one true

/-- Accumulators an MXE command writes. -/
def MCmd.writes (q : MCmd) : List Span := accSpans q.zs

/-! ### The scoreboard -/

/-- The G ranges a query writes: its split queue and its result grid (04 R109; 11 R256). -/
def Query.writes (q : Query) : List Span :=
  let n (o k : Nat) : Nat := recNat q.qrec o k
  let grid := if (n 39 1).testBit 0 then
      if q.opc = 0xE9 then [Span.range 0 q.by_.gang (n 16 8) (n 16 8 + 16 * q.rays)]
      else
        let ctrl := recNat q.beam 60 4
        [{ buf := 0, gang := q.by_.gang, off := n 16 8, pitch := n 40 4, len := 16 * (bits ctrl 5 0 + 1),
           rows := bits ctrl 11 6 + 1 }]
    else []
  if q.opc = 0xE9 ∨ n 36 2 = 0 then grid
  else Span.range 0 q.by_.gang (n 32 4) (n 32 4 + 64 * n 36 2) :: grid

/-- The G ranges of a query as far as they are known: the gang's whole region until its record is read, and from RES on until its beam
record is (04 R109; 11 R270). -/
def Query.ranges (s : State) (c : Nat) (q : Query) : List Span :=
  let size := bufSize s c q.by_.gang .g
  if q.qrec = [] then [Span.range 0 q.by_.gang 0 size]
  else if q.opc = 0xE8 ∧ q.beam = [] ∧ (recNat q.qrec 39 1).testBit 0 = true then
    Span.range 0 q.by_.gang (recNat q.qrec 16 8) size :: q.writes
  else q.writes

/-- An earlier query still holds back an access of a span (04 R109). -/
def queryHeld (s : State) (c ord : Nat) (sp : Span) : Bool :=
  ((s.core c).col.intake ++ (s.core c).col.live).any (fun q => decide (q.ord < ord) && (q.ranges s c).any (fun w => w.meets sp))

/-- An earlier command still holds back a read of [lo, hi) of a buffer (04 R109). -/
def readHeld (s : State) (c ord : Nat) (sp : Span) : Bool :=
  let k := s.core c
  k.ladle.any (fun q => decide (q.ord < ord) && !q.refused && (q.writes s c).any (fun w => w.meets sp) &&
    !(List.range sp.rows).all (fun r =>
      q.chunksOver s c sp.buf (sp.off + r * sp.pitch) (sp.off + r * sp.pitch + sp.len))) ||
  k.mx.any (fun q => decide (q.ord < ord) && q.writes.any (fun w => w.meets sp)) ||
  queryHeld s c ord sp

/-- An earlier command still holds back a write of a span (04 R109). -/
def writeHeld (s : State) (c ord : Nat) (sp : Span) : Bool :=
  let k := s.core c
  readHeld s c ord sp ||
  k.ladle.any (fun q => decide (q.ord < ord) && !q.refused && (q.reads s c).any (fun w => w.meets sp)) ||
  k.mx.any (fun q => decide (q.ord < ord) && (q.reads s c).any (fun w => w.meets sp))

end Sys2Proof.Machine
end

