-- ==== Sys2Proof/Machine/Ladle.lean ====
section
/-! DEFINITION. The Ladle's streams: reading a command's source, writing its destination piece by piece, chunk bits, acceptance, and
watchpoints of engines (10 R227 to R242; 04 R106 to R109; 17 R381). -/

namespace Sys2Proof.Machine

/-! ## Pieces -/

/-- Consecutive bytes of a stream whose source lies in one sector, and whose destination does. -/
structure Piece where
  p : Nat
  n : Nat
  src : Loc
  dst : Loc
  /-- bits of the byte inside the source tensor, and inside the destination's -/
  sm : Nat
  dm : Nat
  deriving DecidableEq, Repr

/-- Location b follows n bytes after a in the same sector, or window word. -/
def Loc.follows (a : Loc) (n : Nat) (b : Loc) : Bool :=
  match a, b with
  | .mem x, .mem y => y == x + BitVec.ofNat 64 n &&
      (if inWindow x then x.toNat / 4 == y.toNat / 4 else x.toNat / 64 == y.toNat / 64)
  | .peer m x, .peer k y => m == k && y == x + n && x / 64 == y / 64
  | .loc m x, .loc k y => m == k && y == x + n && x / 64 == y / 64
  | .own p, .own q => q == p + n
  | .out, .out => true
  | .bad i, .bad j => i == j
  | _, _ => false

/-- Adds a byte to the pieces built so far, newest first. -/
def addByte (ps : List Piece) (b : Piece) : List Piece :=
  match ps with
  | q :: r =>
    if q.p + q.n = b.p ∧ q.sm = 0xFF ∧ q.dm = 0xFF ∧ b.sm = 0xFF ∧ b.dm = 0xFF ∧
       q.src.follows q.n b.src = true ∧ q.dst.follows q.n b.dst = true ∧ q.n < 64
    then { q with n := q.n + 1 } :: r
    else b :: ps
  | [] => [b]

/-- Pieces of single bytes. -/
def buildPieces (bs : List Piece) : List Piece := (bs.foldl addByte []).reverse

/-- A command run: the party, and the command as it stands. -/
structure Job where
  g : EngAt
  q : LCmd
  deriving DecidableEq, Repr

/-- Rings of the issuer's gang. -/
def Job.nring (j : Job) (s : State) : Nat := match j.g.core with | some c => nRings s c j.q.by_.gang | none => 0
/-- Core number of a job (a Deckle's own runs name no local buffer). -/
def Job.core (j : Job) : Nat := j.g.core.getD 0
/-- The job's source and destination sides. -/
def Job.src (j : Job) (s : State) : Option Side := j.q.src (j.nring s)
/-- See Job.src. -/
def Job.dst (j : Job) (s : State) : Option Side := j.q.dst (j.nring s)

/-- A sector the job has read. -/
def Job.kept (j : Job) (k : Nat × Nat) : Option KeptSector := j.q.secs.find? (fun x => x.space == k.1 && x.sector == k.2)

/-- n bytes of a local buffer as the job has read their sectors, else as they stand, and the poisoned positions (04 R89, R110). -/
def Job.locKept (j : Job) (s : State) (buf o n : Nat) : List Byte × List Nat :=
  let at_ (i : Nat) : Byte × Bool :=
    match j.kept (1 + buf, (o + i) / 64) with
    | some x => (x.bytes.getD ((o + i) % 64) 0, x.pois.contains ((o + i) % 64))
    | none =>
      let (b, p) := locBytes s j.core j.q.by_.gang j.q.zs buf (o + i) 1
      (b.headD 0, !p.isEmpty)
  ((List.range n).map (fun i => (at_ i).1), (List.range n).filter (fun i => (at_ i).2))

/-- Entry r of the index array: none outside the gang's region (10 R239). -/
def Job.index (j : Job) (s : State) (r : Nat) : Option Nat :=
  let o := j.q.c.toNat + 4 * r
  if bufSize s j.core j.q.by_.gang .g < o + 4 then none
  else some (leNat (j.locKept s 0 o 4).1)

/-- Coordinates of element e of the tensor row that local row r names (10 R239). -/
def rowCoords (d : Side) (row e : Nat) : List Int :=
  match d.org with
  | c0 :: _ :: r => (c0 + (e : Int)) :: (row : Int) :: r
  | l => l

/-- Where byte p of the command's stream comes from, and the bits of it inside the source tensor. -/
def Job.srcLoc (j : Job) (s : State) (p : Nat) : Loc × Nat :=
  if j.q.opc = 0xD6 ∨ j.q.stream.isSome then (.own p, 0xFF)
  else
    match j.src s with
    | none => (.bad 1, 0xFF)
    | some a =>
      if j.q.opc = 0xD2 then
        match j.dst s with
        | none => (.bad 1, 0xFF)
        | some b =>
          match j.index s (p / b.rowb) with
          | none => (.bad 4, 0xFF)
          | some i =>
            let x := p % b.rowb
            if a.w = 4 then a.elemLoc (rowCoords a i (2 * x)) 0
            else a.elemLoc (rowCoords a i (x / (a.w / 8))) (x % (a.w / 8))
      else a.byteLoc 0 p

/-- Where the scale byte of element e of the command's stream comes from. -/
def Job.srcScale (j : Job) (s : State) (e : Nat) : Loc :=
  match j.q.stream with
  | some st => .val (BitVec.ofNat 8 (st.scales.getD e 0x7F))
  | none =>
    match j.src s, j.dst s with
    | some a, some b =>
      let l :=
        if j.q.opc = 0xD2 then
          match j.index s (e / b.rowEls) with
          | none => .bad 4
          | some i => a.elemScale (rowCoords a i (e % b.rowEls))
        else a.scaleLoc 0 e
      if l = .out then .val 0x7F else l
    | _, _ => .bad 1

/-- Bytes of the command's own stream: the computed stream, or LFILL's value (10 R240). -/
def Job.own (j : Job) (s : State) (p n : Nat) : List Byte × List Nat :=
  match j.q.stream with
  | some st => ((st.bytes.drop p).take n, (List.range n).filter (fun i => st.pois.contains (p + i)))
  | none =>
    let w := match j.dst s with | some d => d.w | none => 32
    let unit := if w = 4 then 1 else min 4 (w / 8)
    let v := if w = 4 then j.q.c.toNat % 16 * 17 else j.q.c.toNat
    ((List.range n).map (fun i => BitVec.ofNat 8 (v / 2 ^ (8 * ((p + i) % unit)))), [])

/-- Masks the byte of a one-byte piece. -/
def Got.mask (r : Got) (m : Nat) : Got :=
  match r with
  | .ok [b] p => .ok [b &&& BitVec.ofNat 8 m] p
  | r => r

/-- The source sector a location lies in: 0 for shared memory or 1 + buffer tag, and its number; none for a window word (04 R89). -/
def Loc.sector : Loc → Option (Nat × Nat)
  | .mem va => if inWindow va then none else some (0, va.toNat / 64)
  | .loc b o => some (1 + b, o / 64)
  | _ => none

/-- Reads a source sector whole, unless the command has read it before or its page is waited for (04 R89, R110). -/
def keepSector (s : State) (j : Job) (l : Loc) : State × Job :=
  match l.sector with
  | none => (s, j)
  | some k =>
    if (j.kept k).isSome then (s, j)
    else
      let add (j : Job) (r : Got) : Job :=
        match r with
        | .ok b p => { j with q := { j.q with secs := j.q.secs ++ [{ space := k.1, sector := k.2, err := none, bytes := b, pois := p }] } }
        | .err e => { j with q := { j.q with secs := j.q.secs ++ [{ space := k.1, sector := k.2, err := some e, bytes := [], pois := [] }] } }
        | .wait => j
      if k.1 = 0 then
        let need := match j.src s with | some d => d.elide | none => false
        let (s, ps, r) := engRead s j.g j.q.waits (BitVec.ofNat 64 (64 * k.2)) 64 need
        (s, add { j with q := { j.q with waits := ps } } r)
      else
        let (b, p) := locBytes s j.core j.q.by_.gang j.q.zs (k.1 - 1) (64 * k.2) 64
        (s, add j (.ok b p))

/-- Reads the sectors of n bytes of a local buffer. -/
def keepLocal (s : State) (j : Job) (buf o n : Nat) : State × Job :=
  (List.range ((o + n + 63) / 64 - o / 64)).foldl (fun (x : State × Job) i => keepSector x.1 x.2 (.loc buf (64 * (o / 64 + i)))) (s, j)

/-- Reads the index array of LGATH or LSCRED: one entry for each row of the local side (10 R239). -/
def keepIndex (s : State) (j : Job) : State × Job :=
  match (if j.q.opc = 0xD2 then j.dst s else if j.q.opc = 0xD3 then j.src s else none) with
  | some d => keepLocal s j 0 j.q.c.toNat (4 * d.rows)
  | none => (s, j)

/-- Bytes of a kept sector. -/
def KeptSector.part (x : KeptSector) (o n : Nat) : Got :=
  match x.err with
  | some e => .err e
  | none => .ok ((x.bytes.drop o).take n) ((x.pois.filter (fun p => decide (o ≤ p ∧ p < o + n))).map (· - o))

/-- Reads a piece's source, from its sector where it lies in one. -/
def readPiece (s : State) (j : Job) (ps : Pages) (a : Piece) : State × Pages × Got :=
  let from_ (k : Nat × Nat) (o : Nat) : Got := match j.kept k with | some x => (x.part o a.n).mask a.sm | none => .wait
  match a.src with
  | .mem va => (s, ps, if inWindow va then (engWin s j.g va.toNat a.n).mask a.sm else from_ (0, va.toNat / 64) (va.toNat % 64))
  | .peer node r =>
    let (s, x) := if 127 < node then (s, Got.err 11) else
      match peerSub s node r with
      | some _ => (s, Got.err 11)
      | none => engPeer s j.g node r a.n
    (s, ps, x.mask a.sm)
  | .loc b o => (s, ps, from_ (1 + b, o / 64) (o % 64))
  | .out => (s, ps, .ok (List.replicate a.n 0) [])
  | .own p => let (b, x) := j.own s p a.n; (s, ps, .ok b x)
  | .val v => (s, ps, .ok (List.replicate a.n v) [])
  | .bad k => (s, ps, .err k)

/-- Reads the sources of several pieces, sector by sector; all are asked for before any wait ends. -/
def readPieces (s : State) (j : Job) (as : List Piece) : State × Job × List (Piece × Got) :=
  let (s, j) := as.foldl (fun (x : State × Job) a => keepSector x.1 x.2 a.src) (s, j)
  let (s, ps, rs) := as.foldl (fun (x : State × Pages × List (Piece × Got)) a =>
      let (s, ps, r) := readPiece x.1 j x.2.1 a
      (s, ps, x.2.2 ++ [(a, r)])) (s, j.q.waits, [])
  (s, { j with q := { j.q with waits := ps } }, rs)

/-- A piece with what was read for it, where it goes, and, for part of a byte, the byte it joins. -/
structure Write where
  a : Piece
  got : Got
  to_ : WTo
  old : Byte
  deriving DecidableEq, Repr

/-- Finds where a piece goes. [log 140: DEDUCED, unsafe] -/
def probePiece (s : State) (j : Job) (ps : Pages) (a : Piece) (got : Got) : State × Pages × Write :=
  match got, a.dst with
  | .ok _ _, .mem va =>
    let need := match j.dst s with | some d => d.elide | none => false
    let (s, ps, t) := engProbe s j.g ps va a.n need
    match t with
    | .to _ =>
      if a.dm = 0xFF then (s, ps, { a := a, got := got, to_ := t, old := 0 })
      else
        match engRead s j.g ps va 1 false with
        | (s, ps, .ok [b] _) => (s, ps, { a := a, got := got, to_ := t, old := b })
        | (s, ps, .wait) => (s, ps, { a := a, got := got, to_ := .wait, old := 0 })
        | (s, ps, .err k) => (s, ps, { a := a, got := got, to_ := .err k, old := 0 })
        | (s, ps, _) => (s, ps, { a := a, got := got, to_ := t, old := 0 })
    | t => (s, ps, { a := a, got := got, to_ := t, old := 0 })
  | _, .peer node r =>
    (s, ps, { a := a, got := got, old := 0,
              to_ := if 127 < node then .err 11 else
                match peerSub s node r with | some _ => .err 11 | none => .to (.peer node r) })
  | _, .bad k => (s, ps, { a := a, got := got, to_ := .err k, old := 0 })
  | _, _ => (s, ps, { a := a, got := got, to_ := .to .none, old := 0 })

/-- Finds where several pieces go. -/
def probePieces (s : State) (j : Job) (ps : Pages) (as : List (Piece × Got)) : State × Pages × List Write :=
  as.foldl (fun (x : State × Pages × List Write) a =>
    let (s, ps, w) := probePiece x.1 j x.2.1 a.1 a.2
    (s, ps, x.2.2 ++ [w])) (s, ps, [])

/-- The command's newest write to a peer leaves with some FLAGS, where it keeps one (18 R397, R399). -/
def sendLast (s : State) (j : Job) (flags : Nat) : State × Job :=
  match j.q.last with
  | none => (s, j)
  | some e => (engPush s j.g { e with flags := flags }, { j with q := { j.q with last := none } })

/-- FLAGS of a command's last flit: LAST, and REL where it carries REL (18 R397, R399). -/
def LCmd.lastFlags (q : LCmd) : Nat := if q.rel then 3 else 1

/-- Bytes for a place that one write of their sector will carry: the target of the first, its address where it has one, the bytes with
their poisoned positions. -/
structure Put where
  t : Target
  va : W64
  bytes : List Byte
  pois : List Nat
  /-- chunks of a shared destination with bytes among them -/
  cs : List Nat := []
  deriving DecidableEq, Repr, Inhabited

/-- What writing pieces has done so far: codes met and stream positions left, bytes written, what one write of each sector will carry,
sectors of shared memory written, pieces of elided blocks. -/
structure Wrote where
  codes : List Nat
  n : Nat
  bad : Bool
  left : List Nat
  pois : Bool
  puts : List Put
  sectors : List Nat
  elided : List (Nat × Nat × ElidePut)
  exc : Exc
  deriving DecidableEq, Repr, Inhabited

/-- A code met, which leaves a piece unwritten. -/
def Wrote.err (w : Wrote) (k : Nat) : Wrote := { w with codes := w.codes ++ [k], bad := true }
/-- A piece written. -/
def Wrote.more (w : Wrote) (n : Nat) (pois : List Nat) : Wrote := { w with n := w.n + n, pois := w.pois || !pois.isEmpty }

/-- The chunks of a shared destination that a piece falls in. -/
def Piece.chunks (a : Piece) : List Nat := if a.p / 512 = (a.p + a.n - 1) / 512 then [a.p / 512] else [a.p / 512, a.p / 512 + 1]

/-- Writes one piece to the window or to a local buffer; those of shared sectors and of elided blocks are gathered. -/
def writePiece (s : State) (j : Job) (k : Nat) (x : Wrote) (w : Write) : State × Wrote :=
  let fail (c : Nat) : Wrote := { (x.err c) with left := x.left ++ [w.a.p] }
  match w.got with
  | .err c => (s, fail c)
  | .wait => (s, x)
  | .ok b pois =>
    match w.to_ with
    | .err c => (s, fail c)
    | .wait => (s, x)
    | .elided pay m off =>
      (s, { (x.more b.length pois) with
              elided := x.elided ++ (b.zipIdx).map (fun y =>
                (pay, m, { off := off + y.2, byte := y.1, mask := BitVec.ofNat 8 w.a.dm, pois := pois.contains y.2 })),
              sectors := match w.a.dst with | .mem va => x.sectors ++ [va.toNat / 64] | _ => x.sectors })
    | .to t =>
      let b := match b with
        | [v] => if w.a.dm = 0xFF then [v] else [(v &&& BitVec.ofNat 8 w.a.dm) ||| (w.old &&& ~~~(BitVec.ofNat 8 w.a.dm))]
        | b => b
      match w.a.dst, t with
      | .mem va, .window _ =>
        match engWrite s j.g t va b [] pois k with
        | (s, none) => (s, { (x.more b.length pois) with sectors := x.sectors ++ [va.toNat / 64] })
        | (s, some c) => (s, { (x.err c) with left := x.left ++ [w.a.p] })
      | .mem va, t =>
        (s, { (x.more b.length pois) with puts := x.puts ++ [{ t := t, va := va, bytes := b, pois := pois, cs := w.a.chunks }],
                                          sectors := x.sectors ++ [va.toNat / 64] })
      | .peer _ _, t => (s, { (x.more b.length pois) with puts := x.puts ++ [{ t := t, va := 0, bytes := b, pois := pois,
                                                                                        cs := w.a.chunks }] })
      | .loc buf o, _ => (locPut s j.core j.q.by_.gang buf o b pois, x.more b.length pois)
      | _, _ => (s, x)

/-- The place and sector of a put, and its address there. -/
def Put.at_ (p : Put) : Nat × Nat := (p.t.place?).getD (0, 0)

/-- The write of one sector that puts make together: a later one's bytes over an earlier one's, what none brings left out; the first
position, the bytes, the positions left out and those poisoned. -/
def sectorPut (ps : List Put) : Nat × List Byte × List Nat × List Nat :=
  let cells : Tab (Byte × Bool) := ps.foldl (fun t p => (p.bytes.zipIdx).foldl (fun t b =>
    t.ins (p.at_.2 + b.2) (b.1, p.pois.contains b.2)) t) []
  let lo := (cells.head?.map Prod.fst).getD 0
  let n := (cells.getLast?.map Prod.fst).getD 0 + 1 - lo
  let at_ (i : Nat) : Option (Byte × Bool) := cells.get? (lo + i)
  (lo, (List.range n).map (fun i => ((at_ i).map Prod.fst).getD 0), (List.range n).filter (fun i => (at_ i).isNone),
   (List.range n).filter (fun i => ((at_ i).map Prod.snd).getD false))

/-- The puts by place and sector, in order of first appearance. -/
def sectorKeys (ps : List Put) : List (Nat × Nat) :=
  ps.foldl (fun l p => let k := (p.at_.1, p.at_.2 / 64); if l.contains k then l else l ++ [k]) []

/-- A target moved down to an address of its place. -/
def Target.atAddr (t : Target) (a : Nat) : Target :=
  match t with
  | .hbm _ => .hbm a
  | .heap _ => .heap a
  | .port n _ => .port n a
  | .peer n _ => .peer n a
  | .regs f _ => .regs f a
  | t => t

/-- Writes what has been gathered, one write for each sector (04 R89); the newest to a peer is kept back. -/
def writeSectors (s : State) (j : Job) (chunk : Nat) (ps : List Put) : State × Job :=
  (sectorKeys ps).foldl (fun (x : State × Job) k =>
    let mine := ps.filter (fun p => (p.at_.1, p.at_.2 / 64) == k)
    match mine with
    | [] => x
    | p :: _ =>
      let (lo, b, hs, pois) := sectorPut mine
      let e := { x.2.g.entry (p.t.atAddr lo) (p.va - BitVec.ofNat 64 p.at_.2 + BitVec.ofNat 64 lo) b hs pois chunk with
        more := (mine.flatMap Put.cs).filter (· != chunk) }
      match p.t with
      | .peer _ _ =>
        let (s, j) := sendLast x.1 x.2 0
        (s, { j with q := { j.q with last := some e } })
      | _ => (engPush x.1 x.2.g e, x.2)) (s, j)

/-- Writes gathered pieces of elided blocks, each block in one update (03 R82). [log 60: DEDUCED, unsafe] -/
def writeElided (s : State) (w : Writer) (es : List (Nat × Nat × ElidePut)) : State :=
  let blocks := es.foldl (fun (l : List (Nat × Nat)) e => if l.contains (e.1, e.2.1) then l else l ++ [(e.1, e.2.1)]) []
  blocks.foldl (fun s b =>
    elideStore s w b.1 b.2 ((es.filter (fun e => e.1 == b.1 && e.2.1 == b.2)).map (fun e => e.2.2))) s

/-! ## Watchpoints of engines and slices -/

/-- WATCHE records of a Ladle command's written sectors; the stop falls due in the issuing wave's lanes (17 R377, R381). -/
def watchLadle (s : State) (g : EngAt) (sectors : List Nat) : State :=
  match g.core with
  | none => s
  | some c =>
    let secs := sectors.foldl (fun (l : List Nat) a => if l.contains a then l else l ++ [a]) []
    ((s.core c).watch.zipIdx).foldl (fun s p =>
      if (p.1.en && p.1.eng && p.1.vf == g.by_.vf) = false then s
      else secs.foldl (fun s a =>
        if (List.range 16).any (fun i => p.1.bmask.getLsbD i && (p.1.addr.toNat / 16 * 16 + i) / 64 == a) then
          let s := debugRecord s g.by_.vf
            { kind := 3, cause := 67, core := c, wave := g.by_.wave, gang := g.by_.gang, eng := 0x1000 + c, spo := 0xFFFFFFFF,
              unit := p.2, addr := BitVec.ofNat 64 (64 * a), cmd := g.ordinal }
          match s.slot? c g.by_.wave with
          | some t => if t.wave.uid = g.by_.uid then dueStopAll s c g.by_.wave 8 else s
          | none => s
        else s) s) s

/-- WATCHE records of a home slice for an atomic on n bytes at spa by a party other than a core's own lanes (17 R381). -/
def watchSlice (s : State) (own : Option Nat) (w : Writer) (spa n : Nat) : State :=
  s.cores.foldl (fun s k =>
    if own = some k.1 then s
    else (k.2.watch.zipIdx).foldl (fun s p =>
      match p.1.spa with
      | none => s
      | some b =>
        if (p.1.en && p.1.eng && (List.range 16).any (fun i => p.1.bmask.getLsbD i && decide (spa ≤ b + i ∧ b + i < spa + n))) = false
        then s
        else debugRecord s p.1.vf
          { kind := 3, cause := 67, core := w.core, wave := w.wave, gang := w.gang, eng := 0x2000 + homeSlice spa, spo := w.spo,
            off := w.off, unit := p.2, addr := p.1.addr - p.1.addr % 4096 + BitVec.ofNat 64 (spa % 4096), cmd := w.cmd,
            slice := homeSlice spa }) s) s

/-! ## Chunk bits -/

/-- Sets or clears chunk bit i of the bitmap at a G offset (04 R108; 10 R234). [log 61: DEDUCED, unsafe] -/
def setChunkBit (s : State) (c gang bm i : Nat) (v : Bool) : State :=
  let o := bm + i / 8
  let b := memByte (bufCells s c gang .g).1 o
  let m : Byte := 1 <<< (i % 8)
  s.modGang c gang (fun g => { g with g := memPut g.g o (if v then b ||| m else b &&& ~~~m) })

/-- The bitmap a command sets bits of: its G offset. -/
def Job.bitmap (j : Job) (s : State) : Option Nat :=
  match j.dst s with
  | some d => if j.q.bm && !d.shared then some j.q.f.imm.toNat else none
  | none => none

/-! ## Acceptance -/

/-- Sectors that n bytes at va touch. -/
def sectorsOf (va n : Nat) : List (Nat × Nat) :=
  (List.range ((va % 64 + n + 63) / 64)).map (fun i =>
    let lo := max va (va / 64 * 64 + 64 * i)
    (lo, min (va + n) (va / 64 * 64 + 64 * i + 64) - lo))

/-- Reads a record: all of it, the first error, or a wait; poisoned bytes read as zero. -/
def engRecord (s : State) (g : EngAt) (ps : Pages) (va n : Nat) : State × Pages × Got :=
  (sectorsOf va n).foldl (fun (x : State × Pages × Got) a =>
    let (s, ps, r) := engRead x.1 g x.2.1 (BitVec.ofNat 64 a.1) a.2 false
    (s, ps, match x.2.2, r with
      | .wait, _ => .wait
      | _, .wait => .wait
      | .err k, _ => .err k
      | _, .err k => .err k
      | .ok b p, .ok b' p' =>
        .ok (b ++ (b'.zipIdx).map (fun y => if p'.contains y.2 then 0 else y.1)) (p ++ p'.map (· + b.length)))) (s, ps, .ok [] [])

/-- Spaces each word's sides may name (03 R70; 10 R232). -/
def roleOk (opc : Nat) (pull : Bool) (b : Bool) (sp : Nat) : Bool :=
  let src := [0, 1, 5].contains sp
  let dst := decide (sp ≤ 4)
  match opc with
  | 0xD0 => if b then dst else src
  | 0xD1 => if b then decide (sp ≤ 1) else sp == 5
  | 0xD2 => if b then decide (1 ≤ sp ∧ sp ≤ 4) else sp == 0
  | 0xD3 => if b then sp == 0 else sp == 1 || sp == 5
  | 0xD4 => if b then (if pull then dst else sp == 0) else (if pull then sp == 0 else src)
  | 0xD5 => if b then dst else src
  | 0xD6 => dst
  | _ => sp == 0

/-- NPEER, RANK and KIND of a collective record (10 R240). -/
def collFields (r : List Byte) : Nat × Nat × Nat := (recNat r 1 1, recNat r 2 1, recNat r 0 1)

/-- The formats LSCRED takes: not FP64, 8-bit or 4-bit ones (10 R239). -/
def scredFmt (c : Nat) : Bool := codeOk c && c != 6 && decide (16 ≤ codeWidth c)

/-- The op-specific checks that give BADDESC (10 R233, R237 to R240). -/
def sidesBad (q : LCmd) (a b : Side) : Bool :=
  match q.opc with
  | 0xD0 => if q.hasGraph then false else a.bytes != b.bytes || a.fmt != b.fmt || a.scales != b.scales
  | 0xD1 =>
    !((a.fmt == 0 && decide (b.fmt ≤ 5)) || (a.fmt == 16 && [16, 17, 20, 21, 22, 23, 24, 25].contains b.fmt)) ||
      a.count != b.count
  | 0xD2 => a.ext.getD 1 0 != 1 || a.ext.getD 0 0 * a.w / 8 != b.rowb || a.fmt != b.fmt || a.scales != b.scales
  | 0xD3 => b.ext.getD 1 0 != 1 || b.ext.getD 0 0 * b.w / 8 != a.rowb || a.fmt != b.fmt || !scredFmt b.fmt
  | 0xD4 => a.bytes != b.bytes || a.fmt != b.fmt || a.scales != b.scales
  | 0xD5 =>
    let (n, _, k) := collFields q.rec_
    a.fmt != b.fmt || (k != 0 && a.fmt == 30) ||
      (if k = 0 then b.bytes != n * a.bytes else if k = 1 then n * b.bytes != a.bytes else b.bytes != a.bytes)
  | _ => false

/-- A descriptor is bad whatever its layout record holds, or with the record read (10 R227 to R230, R232). -/
def descBad (q : LCmd) (nring : Nat) (b : Bool) : Bool :=
  let t := if b then q.tb else q.ta
  let r := if b then q.recB else q.recA
  let bad :=
    if tspace t = 0 then
      if r = [] then tbits t 252 240 != 0 || tbits t 195 192 != 0 || tbits t 63 0 % 64 != 0 else (sharedSide t r true).isNone
    else (localSide t nring).isNone
  bad || !roleOk q.opc (q.f.m 11 1 == 1) b (tspace t)

/-- A local side, or its scales, reaches past its buffer (10 R230). -/
def Job.localBad (j : Job) (s : State) (d : Side) : Bool :=
  !d.shared && decide (sideLimit s j.core j.q.by_.gang j.q.zs.length d < d.reach)

/-- The chunk bitmap of a local destination reaches past the gang's region (10 R231). -/
def Job.bmBad (j : Job) (s : State) (d : Side) : Bool :=
  j.q.bm && !d.shared && decide (bufSize s j.core j.q.by_.gang .g < j.q.f.imm.toNat + 4 * ((d.nChunks - 1) / 32) + 4)

/-- Two local sides overlap (10 R233). -/
def Job.overlap (j : Job) (a b : Side) : Bool :=
  !a.shared && !b.shared && (a.spans j.q.by_.gang 0 j.q.zs).any (fun x => (b.spans j.q.by_.gang 0 j.q.zs).any (fun y => x.meets y))

/-- A collective record that gives PEER: NPEER, RANK or KIND (10 R240). -/
def LCmd.peerBad (q : LCmd) : Bool :=
  let (n, rank, kind) := collFields q.rec_
  q.opc == 0xD5 && decide (n < 2 ∨ 16 < n ∨ n ≤ rank ∨ 2 < kind)

/-- Formats a source may have: its own, or all of them where its record could not be read. -/
def srcFormats (a : Option Side) : List Nat := match a with | some a => [a.fmt] | none => List.range 31

/-- A graph that fails its checks for every format the source may have, or lies misaligned; one that could not be read fails none (10
R235, R251). -/
def LCmd.graphBad (q : LCmd) (a : Option Side) : Bool :=
  q.hasGraph && (q.c.toNat % 64 != 0 || (!q.lost.contains 3 && (srcFormats a).all (fun f => !graphOk q.graph f)))

/-- The errors found at acceptance when a record could not be read, beside that read's own: those of what there is to see (10 R235). A run
record that could not be read leaves nothing to see. -/
def lostCodes (s : State) (j : Job) : List Nat :=
  let q := j.q
  let n := j.nring s
  let lost (k : Nat) : Bool := q.lost.contains k
  let a := if lost 1 then none else q.sideA n
  let b := if lost 2 || q.opc == 0xD6 then none else q.sideB n
  let dst := if q.opc = 0xD6 then a else b
  let bad (d : Option Side) (p : Side → Bool) : Bool := match d with | some d => p d | none => false
  if q.opc = 0xDE ∧ lost 0 = true then []
  else if descBad q n false || (q.opc != 0xD6 && descBad q n true) then [1]
  else if !(q.opc == 0xD5 && lost 0) && !q.peerBad && bad a (fun a => bad b (fun b => sidesBad q a b)) then [1]
  else
    (if q.peerBad && !lost 0 then [11] else []) ++ (if q.graphBad a then [2] else []) ++
    (if bad a (fun a => bad b (j.overlap a)) then [3] else []) ++
    (if bad a (j.localBad s) || bad b (j.localBad s) || bad dst (j.bmBad s) then [4] else [])

/-- The errors found at acceptance once the records are read (10 R227 to R235). [log 57: DEDUCED, unsafe] -/
def acceptCodes (s : State) (j : Job) : List Nat :=
  let q := j.q
  let n := j.nring s
  let pull := q.f.m 11 1 == 1
  if q.opc = 0xD6 then
    match q.sideA n with
    | none => [1]
    | some a => if roleOk 0xD6 pull false a.space then (if j.localBad s a || j.bmBad s a then [4] else []) else [1]
  else
    match q.sideA n, q.sideB n with
    | some a, some b =>
      if roleOk q.opc pull false a.space = false ∨ roleOk q.opc pull true b.space = false then [1]
      else if !q.peerBad && sidesBad q a b then [1]
      else
        (if q.peerBad then [11] else []) ++ (if q.graphBad (some a) then [2] else []) ++ (if j.overlap a b then [3] else []) ++
        (if j.localBad s a || j.localBad s b || j.bmBad s b then [4] else [])
    | _, _ => [1]

/-- A command refused at acceptance. -/
def LCmd.refuse (q : LCmd) (codes : List Nat) : LCmd := { q with accepted := true, refused := true, codes := q.codes ++ codes }

/-- The record a command lacks: its address and size, and where it goes: 0 the run or collective record, 1 A's layout record, 2 B's,
3 the graph. -/
def LCmd.lacks (q : LCmd) : Option (Nat × Nat × Nat) :=
  let desc (t : W256) : Bool := tspace t == 0 && tbits t 63 0 % 64 == 0
  let more (k : Nat) (r : List Byte) : Bool := r == [] && !q.lost.contains k
  if q.opc = 0xDE ∧ q.lost.contains 0 = true then none
  else if q.opc = 0xDE ∧ more 0 q.rec_ = true then some (q.c.toNat, 96, 0)
  else if q.opc = 0xD5 ∧ more 0 q.rec_ = true then some (q.c.toNat, 32, 0)
  else if desc q.ta ∧ more 1 q.recA = true then some (tbits q.ta 63 0, 64, 1)
  else if desc q.tb ∧ more 2 q.recB = true ∧ q.opc ≠ 0xD6 then some (tbits q.tb 63 0, 64, 2)
  else if q.hasGraph ∧ more 3 q.graph = true ∧ q.c.toNat % 64 = 0 then some (q.c.toNat, 256, 3)
  else none

/-- A tile descriptor in a record. -/
def recTile (r : List Byte) (o : Nat) : W256 := BitVec.ofNat 256 (recNat r o 32)

/-- Keeps a record read; a graph run record gives the descriptors and the graph's address (10 R237). -/
def LCmd.keep (q : LCmd) (k : Nat) (b : List Byte) (pois : Bool) : LCmd :=
  let q := if pois then { q with exc := q.exc ||| 1 } else q
  match k with
  | 0 =>
    if q.opc = 0xDE then
      -- a job card's graph stands in the command already
      { q with rec_ := b, ta := recTile b 8, tb := recTile b 40,
               c := if q.graph = [] then BitVec.ofNat 64 (recNat b 0 8) else 0 }
    else { q with rec_ := b }
  | 1 => { q with recA := b }
  | 2 => { q with recB := b }
  | _ => { q with graph := b }

/-- Reads the records a command lacks, one after another, up to a wait; one that cannot be read is lost, with its code, a run record with
PAGE_REFUSED (10 R235, R237). -/
def readRecords (s : State) (j : Job) : Nat → State × Job × Bool
  | 0 => (s, j, false)
  | n + 1 =>
    match j.q.lacks with
    | none => (s, j, true)
    | some (va, len, k) =>
      match engRecord s j.g j.q.waits va len with
      | (s, ps, .wait) => (s, { j with q := { j.q with waits := ps } }, false)
      | (s, ps, .err e) =>
        let e := if k = 0 ∧ j.q.opc = 0xDE then 5 else e
        readRecords s { j with q := { j.q with waits := ps, lost := j.q.lost ++ [k], codes := j.q.codes ++ [e] } } n
      | (s, ps, .ok b p) =>
        let s := if p.isEmpty then s else engPoison s j.g
        readRecords s { j with q := { j.q with waits := ps }.keep k b (!p.isEmpty) } n

/-- Takes a fill's place (09 R222; 10 R241). -/
def Ring.addFill (r : Ring) (p : Place) : Ring := Ring.note { r with fills := r.fills ++ [p] }
/-- Takes a drain's place. -/
def Ring.addDrain (r : Ring) (p : Place) : Ring := Ring.note { r with drains := r.drains ++ [p] }

/-- Acceptance proper, with every record at hand: refused, or chunk bits cleared and a ring place taken (10 R234, R241; 04 R108). -/
def acceptNow (s : State) (j : Job) : State × Job :=
  match (if j.q.lost = [] then acceptCodes s j else 0 :: lostCodes s j) with
  | 0 :: ks => (s, { j with q := j.q.refuse ks })
  | k :: ks => (s, { j with q := j.q.refuse (k :: ks) })
  | [] =>
    let c := j.core
    let gang := j.q.by_.gang
    let s := match j.bitmap s, j.dst s with
      | some bm, some d => (List.range d.nChunks).foldl (fun s i => setChunkBit s c gang bm i false) s
      | _, _ => s
    let s := match j.dst s with
      | some d =>
        if d.space = 4 then s.modRing c gang d.ring (fun (r : Ring) =>
          r.addFill { stage := r.nextFill, who := 1, id := j.q.id, op := 0 })
        else s
      | none => s
    (s, { j with q := { j.q with accepted := true } })

/-- The acquire, the records and the acceptance, as far as they can go (04 R107; 10 R227). -/
def acceptJob (s : State) (j : Job) : State × Job :=
  if j.q.accepted then (s, j)
  else
    let s := match j.g.core with
      | some c => if j.q.acq && !j.q.acquired then acquireAt s c j.q.scope else s
      | none => s
    let j := { j with q := { j.q with acquired := true } }
    match readRecords s j 8 with
    | (s, j, true) => acceptNow s j
    | (s, j, false) => (s, j)

/-! ## Streams computed from the whole source -/

/-- A stream is computed before any chunk is written: graphs, copy-out and collectives. -/
def LCmd.whole (q : LCmd) : Bool := q.hasGraph || q.opc == 0xD1 || q.opc == 0xD5

/-- The whole source as pieces. -/
def Job.sourcePieces (j : Job) (s : State) : List Piece :=
  match j.src s with
  | none => []
  | some d => buildPieces ((List.range d.bytes).map (fun p =>
      let (l, m) := d.byteLoc 0 p
      { p := p, n := 1, src := l, dst := .out, sm := m, dm := 0xFF }))

/-- The source's scale bytes as pieces, one per element. -/
def Job.scalePieces (j : Job) (s : State) : List Piece :=
  match j.src s with
  | none => []
  | some d =>
    if d.scales then (List.range d.count).map (fun e =>
      { p := e, n := 1, src := j.srcScale s e, dst := .out, sm := 0xFF, dm := 0xFF })
    else []

/-- Bytes, poisoned positions and codes of what was read; a sector of which a part failed reads as +0 (10 R233). -/
def gather (rs : List (Piece × Got)) : List Byte × List Nat × List Nat :=
  let failed : List Nat := rs.filterMap (fun r => match r.1.src, r.2 with | .mem va, .err _ => some (va.toNat / 64) | _, _ => none)
  rs.foldl (fun (x : List Byte × List Nat × List Nat) r =>
    let out := match r.1.src with | .mem va => failed.contains (va.toNat / 64) | _ => false
    match r.2 with
    | .ok b p => if out then (x.1 ++ List.replicate r.1.n 0, x.2.1, x.2.2) else (x.1 ++ b, x.2.1 ++ p.map (· + x.1.length), x.2.2)
    | .err k => (x.1 ++ List.replicate r.1.n 0, x.2.1, x.2.2 ++ [k])
    | .wait => x) ([], [], [])

/-- Some read waits. -/
def anyWait (rs : List (Piece × Got)) : Bool := rs.any (fun r => r.2 == .wait)

/-- Reads the whole source: bytes, poison, scales, codes; none while a part of it waits. -/
def readSource (s : State) (j : Job) : State × Job × Option (List Byte × List Nat × List Nat × List Nat) :=
  let (s, j, rs) := readPieces s j (j.sourcePieces s)
  let (s, j, sc) := readPieces s j (j.scalePieces s)
  if anyWait rs || anyWait sc then (s, j, none)
  else
    let (b, p, ks) := gather rs
    let (sb, _, ks') := gather sc
    (if p.isEmpty then s else engPoison s j.g, j, some (b, p, sb.map BitVec.toNat, ks ++ ks'))

/-- Lengths of the runs of equal locations. -/
def runLengths : List Loc → List Nat
  | [] => []
  | a :: r =>
    match r, runLengths r with
    | b :: _, n :: ns => if b == a then (n + 1) :: ns else 1 :: n :: ns
    | _, ns => 1 :: ns

/-- Copy-out's conversion of accumulators: with scales, block by block of the destination (05 R117; 10 R238). -/
def copyOut (a b : Side) (rm : Nat) (fin : Bool) (els : List El) : List El × Exc :=
  if a.fmt = 16 then
    mapEl els (fun x =>
      let (y, e) := satCode (fmtOf b.fmt) (decodeI .s32 x.v)
      (El.from1 y x, e))
  else if b.scales then quantRuns b.fmt rm fin (runLengths ((List.range els.length).map (b.scaleLoc 0))) els
  else mapEl els (fun x =>
    let v := decodeF .fp32 x.v
    let (y, e) := toFmt b.fmt rm fin (v, v.sigExc)
    (El.from1 y x, e))

/-- The stream of a graph or copy-out, with what it reports (10 R233, R236, R238, R254; 18 R405). -/
def computeStream (s : State) (j : Job) : State × Job :=
  match readSource s j with
  | (s, j, none) => (s, j)
  | (s, j, some (b, p, sc, ks)) =>
    match j.src s, j.dst s with
    | some a, some d =>
      let els := ((toEls a.fmt b p).zipIdx).map (fun e => { e.1 with sc := sc.getD e.2 0x7F })
      let q := j.q
      let r : GraphOut :=
        if q.hasGraph then graphRun q.graph els
        else
          let (x, e) := copyOut a d (q.f.m 0 3) (q.f.m 12 1 == 1) els
          { els := x, exc := e, failed := [], malformed := false }
      let fmt := if q.hasGraph then ((graphNodes q.graph).getLastD default).fout else d.fmt
      let (ob, op, oh) := fromEls fmt r.els
      let nf := if r.malformed then 1 else r.failed.length
      let s := if nf = 0 then s else s.modErr q.by_.vf (fun e => { e with dk := satAdd64 e.dk nf })
      let poisoned := !p.isEmpty || !op.isEmpty
      let bits : W32 := (r.exc &&& 0xFC).setWidth 32 ||| (if poisoned then 1 else 0)
      let q' : LCmd := { q with
        stream := some { bytes := ob, pois := op, holes := oh,
                         scales := if d.scales then r.els.map El.sc else [] },
        codes := q.codes ++ ks ++ (if nf = 0 then [] else [9]) ++ (if d.bytes < ob.length then [10] else []),
        allBad := !ks.isEmpty || r.malformed,
        dkidx := match r.failed with | i :: _ => BitVec.ofNat 32 i | [] => 0xFFFFFFFF,
        dkcnt := r.failed.length,
        exc := q.exc ||| bits }
      (s, { j with q := q' })
    | _, _ => (s, j)

/-! ## Chunks -/

/-- Bytes of the stream that the destination takes. -/
def Job.len (j : Job) (s : State) : Nat :=
  match j.dst s with
  | none => 0
  | some d => match j.q.stream with | some st => min st.bytes.length d.bytes | none => d.bytes

/-- Chunks of a command: of a local destination, of 512 bytes of the stream to a shared one, or rows of LSCRED (10 R234, R237,
R239). -/
def Job.nChunk (j : Job) (s : State) : Nat :=
  if j.q.refused then 0
  else if j.q.opc = 0xD3 then (match j.src s with | some a => a.rows | none => 0)
  else
    match j.dst s with
    | none => 0
    | some d => if d.shared then (j.len s + 511) / 512 else d.nChunks

/-- Stream positions whose bytes fall in chunk k. -/
def Job.base (j : Job) (s : State) (k : Nat) : List Nat :=
  match j.dst s with
  | none => []
  | some d =>
    let n := j.len s
    if d.shared then ((List.range 512).map (· + 512 * k)).filter (fun p => decide (p < n))
    else ((List.range 512).filterMap (fun i => d.posAt (d.chunk0 + 512 * k + i))).filter (fun p => decide (p < n))

/-- The unit of a destination that is written in one step: the block an elided page would hold it in, a peer's sector, a local sector
(03 R82; 04 R89). -/
def Loc.unit : Loc → Option (Nat × Nat)
  | .mem va => some (0, va.toNat / 256)
  | .peer n r => some (1 + n, r / 64)
  | .loc b o => some (1024 + b, o / 64)
  | _ => none

/-- The units of locations, each once. -/
def unitsOf (ls : List Loc) : List (Nat × Nat) :=
  ls.foldl (fun r l => match l.unit with | some u => if r.contains u then r else r ++ [u] | none => r) []

/-- What of all belongs to a step that names mine: whole units that a member of mine lies in and no member of done does, and, of what
lies in no unit, mine (04 R89). -/
def wholeUnits (at_ : Nat → Loc) (mine done all : List Nat) : List Nat :=
  let own := unitsOf (mine.map at_)
  let past := unitsOf (done.map at_)
  all.filter (fun p => match (at_ p).unit with | some u => own.contains u && !past.contains u | none => mine.contains p)

/-- Elements that positions hold. -/
def elementsAt (w : Nat) (ps : List Nat) : List Nat :=
  if w = 4 then ps.flatMap (fun p => [2 * p, 2 * p + 1])
  else
    (ps.map (fun p => p / (w / 8))).foldl (fun (l : List Nat) e => if l.getLast? = some e then l else l ++ [e]) []

/-- The last piece for each destination. -/
def lastByDst : List Piece → List Piece
  | [] => []
  | a :: r => if r.any (fun b => b.dst == a.dst) then lastByDst r else a :: lastByDst r

/-- The command writes scale bytes beside its data (10 R229). -/
def Job.scaled (j : Job) (d : Side) : Bool :=
  d.scales && j.q.opc != 0xD6 && (match j.q.stream with | some st => !st.scales.isEmpty | none => true)

/-- What the step of chunk k writes, in whole units of the destination, each once: stream positions, and elements whose scale bytes it
writes. Data and scales that share a unit are written together (00 R8; 04 R89). -/
def Job.items (j : Job) (s : State) (d : Side) (k : Nat) : List Nat × List Nat :=
  let base := j.q.dstBase s j.core d
  let holes := match j.q.stream with | some st => st.holes | none => []
  let kept (ps : List Nat) : List Nat := ps.filter (fun p => !holes.contains p)
  let scaled := j.scaled d
  if d.shared = false ∧ scaled = false then (kept (j.base s k), [])
  else
    -- 2p stands for position p, 2e + 1 for the scale byte of element e
    let all (ps : List Nat) : List Nat :=
      let ps := kept ps
      ps.map (2 * ·) ++ (if scaled then (elementsAt d.w ps).map (2 * · + 1) else [])
    let at_ (i : Nat) : Loc := if i % 2 = 0 then (d.byteLoc base (i / 2)).1 else d.scaleLoc base (i / 2)
    let is := wholeUnits at_ (all (j.base s k)) (all (j.q.chunks.flatMap (j.base s))) (all (List.range (j.len s)))
    ((is.filter (· % 2 == 0)).map (· / 2), (is.filter (· % 2 == 1)).map (· / 2))

/-- The pieces of chunk k: data, then scales. -/
def Job.pieces (j : Job) (s : State) (k : Nat) : List Piece :=
  match j.dst s with
  | none => []
  | some d =>
    let base := j.q.dstBase s j.core d
    let (ps, es) := j.items s d k
    let data := buildPieces (ps.map (fun p =>
      let (a, sm) := j.srcLoc s p
      let (b, dm) := d.byteLoc base p
      { p := p, n := 1, src := a, dst := b, sm := sm, dm := dm }))
    data ++ lastByDst (es.map (fun e =>
      { p := d.w * e / 8, n := 1, src := j.srcScale s e, dst := d.scaleLoc base e, sm := 0xFF, dm := 0xFF }))

/-- Chunk k holds positions a failed decoder chunk leaves out. -/
def Job.holed (j : Job) (s : State) (k : Nat) : Bool :=
  match j.q.stream with
  | some st => !st.holes.isEmpty && (j.base s k).any (fun p => st.holes.contains p)
  | none => false

/-- The chunks in which a stream position falls. -/
def Job.chunksAt (j : Job) (s : State) (p : Nat) : List Nat := (List.range (j.nChunk s)).filter (fun k => (j.base s k).contains p)

/-- Books a chunk as finished with: its bit is set unless a part of it is unwritten because of an error (04 R108; 10 R234). -/
def endChunk (s : State) (j : Job) (k : Nat) (w : Wrote) : State × Job :=
  let others := w.left.flatMap (j.chunksAt s)
  let bad := (w.bad && w.left.isEmpty) || others.contains k || j.q.bad.contains k || j.holed s k
  let s := match j.bitmap s with
    | some bm => if bad || j.q.allBad then s else setChunkBit s j.core j.q.by_.gang bm k true
    | none => s
  (s, { j with q := { j.q with
    chunks := setIns j.q.chunks k, bad := others.foldl setIns (if bad then setIns j.q.bad k else j.q.bad), codes := j.q.codes ++ w.codes,
    written := j.q.written + w.n, exc := if w.pois then j.q.exc ||| 1 else j.q.exc } })

/-- Counts bytes that a command of a core has written (17 R387). -/
def countLadle (s : State) (j : Job) (n : Nat) : State :=
  match j.g.core with | some c => countEvent s (clusterOf c) j.q.by_.vf 9 n | none => s

/-- Copies chunk k: sources read, destinations found, and, when nothing waits, written (10 R233 to R235). -/
def copyChunk (s : State) (j : Job) (k : Nat) : State × Job :=
  let (s, j) := keepIndex s j
  let (s, j, rs) := readPieces s j (j.pieces s k)
  if anyWait rs then (s, j)
  else
    let (s, ps, ws) := probePieces s j j.q.waits rs
    let j2 := { j with q := { j.q with waits := ps } }
    if ws.any (fun w => w.to_ == .wait) then (s, j2)
    else
      let (s, x) := ws.foldl (fun (a : State × Wrote) w => writePiece a.1 j k a.2 w) (s, default)
      let (s, j2) := writeSectors s j2 k x.puts
      let s := writeElided s j.g.writer x.elided
      let s := watchLadle s j.g x.sectors
      let s := countLadle s j x.n
      let s := if x.pois then engPoison s j.g else s
      endChunk s j2 k x

/-! ## LSCRED -/

/-- One contribution applied to an element (10 R239). -/
def scredOp (ro rm fmt old x : Nat) : Nat × Exc :=
  let t := fmtOf fmt
  if t.isFloat then
    match ro with
    | 0 => finish t rm (addV rm (decodeF t old) (decodeF t x))
    | 1 => minMax t false false old x
    | _ => minMax t true false old x
  else
    let a := decodeI t old
    let b := decodeI t x
    (encodeI t (match ro with | 0 => a + b | 1 => min a b | _ => max a b), 0)

/-- Where an element of LSCRED lies at its home slice, asked for with read and write. -/
def scredAt (s : State) (j : Job) (ps : Pages) (va : W64) (need : Bool) : State × Pages × WTo :=
  let f := j.q.by_.vf
  if canonical va = false then (s, ps, .err 12)
  else if inWindow va then (s, ps, .err 6)
  else if inHeap va then (s, ps, .err 5)
  else
    match engPage s j.g ps va.toNat (accRW j.q.by_.level) with
    | (s, ps, .wait _) => (s, ps, .wait)
    | (s, ps, .refused) => (s, ps, .err 5)
    | (s, ps, .ok e) =>
      let a := e.apply va.toNat
      if a < hbmEnd ∧ s.writable j.g.party a = false then (refuseOwner s f j.core a, ps, .err 5)
      else if e.elide then
        match elideMeta s j.g ps (e.gpa + va.toNat % 2 ^ e.size) { bits := 3, u := false } with
        | (s, ps, .wait) => (s, ps, .wait)
        | (s, ps, .refused) => (s, ps, .err 5)
        | (s, ps, .at_ m) => (elideSettle s f (a / 256 * 256) m, ps, .elided (a / 256 * 256) m (a % 256))
      else if need then (s, ps, .err 8)
      else if hbmEnd ≤ a then (match targetOf f j.q.by_.level a with
        | .peer _ _ => (s, ps, .err 11)
        | _ => (refuseOwner s f j.core a, ps, .err 5))
      else (s, ps, if (wqLine (s.core j.core) (a / 64)).isEmpty then .to (.hbm a) else .wait)

/-- Applies one element; its writer is the command (10 R239; 04 R102; 17 R381). An element on a poisoned line or block is left
(03 R84). -/
def scredDo (j : Job) (fmt : Nat) (st : State × Wrote) (t : WTo) (x : Nat) (xp : Bool) : State × Wrote :=
  let (s, w) := st
  let n := codeWidth fmt / 8
  let ro := j.q.f.m 13 3
  let rm := j.q.f.m 0 3
  let done (e : Exc) : Wrote := { (w.more n (if xp then [0] else [])) with exc := w.exc ||| e }
  match t with
  | .to (.hbm a) =>
    if s.linePois a then (s, { w with pois := true })
    else
      let (y, e) := scredOp ro rm fmt (leNat (s.bytesAt a n)) x
      let s := homeWrite (dropL1 s j.core (a / 64)) j.g.writer a (leBytes n y)
      let s := if xp then { s with memPois := setIns s.memPois (a / 64) } else s
      (watchSlice s none j.g.writer a n, done e)
  | .elided pay m off =>
    let (b, bad) := elideExpand s pay m
    if bad then (s, { w with pois := true })
    else
      let (y, e) := scredOp ro rm fmt (recNat b off n) x
      let s := elideStore s j.g.writer pay m ((leBytes n y).zipIdx.map (fun z => { off := off + z.2, byte := z.1, pois := xp }))
      (watchSlice s none j.g.writer (pay + off) n, done e)
  | .err k => (s, w.err k)
  | _ => st

/-- Row k of LSCRED: every element in order (10 R239). -/
def scredRow (s : State) (j : Job) (k : Nat) : State × Job :=
  match j.src s, j.dst s with
  | some a, some b =>
    let (s, j) := keepIndex s j
    match j.index s k with
    | none => endChunk s j k ((default : Wrote).err 4)
    | some i =>
      let n := a.w / 8
      let m := a.rowb / n
      let (s, j) := keepLocal s j a.buf (a.off + k * a.pitch) a.rowb
      let (bs, pois) := j.locKept s a.buf (a.off + k * a.pitch) a.rowb
      let els := (List.range m).filterMap (fun e =>
        match b.elemLoc (rowCoords b i e) 0 with
        | (.mem va, _) => some (va, recNat bs (n * e) n, (List.range n).any (fun x => pois.contains (n * e + x)))
        | _ => none)
      let (s, ps, ts) := els.foldl (fun (x : State × Pages × List WTo) e =>
        let (s, ps, t) := scredAt x.1 j x.2.1 e.1 b.elide
        (s, ps, x.2.2 ++ [t])) (s, j.q.waits, [])
      let j := { j with q := { j.q with waits := ps } }
      if ts.any (· == .wait) then (s, j)
      else
        let (s, w) := (els.zip ts).foldl (fun st e => scredDo j b.fmt st e.2 e.1.2.1 e.1.2.2) (s, (default : Wrote))
        let s := if w.pois then engPoison s j.g else s
        let s := countLadle s j w.n
        endChunk s { j with q := { j.q with exc := j.q.exc ||| (w.exc &&& 0xFC).setWidth 32 } } k w
  | _, _ => (s, j)

end Sys2Proof.Machine
end

