-- ==== Sys2Proof/Machine/LadleCmd.lean ====
section
/-! DEFINITION. The Ladle's words and events, LSTAT, DKRUN, collectives, and the retirement of matrix tiles (10 R225, R226, R231 to
R242, R249). -/

namespace Sys2Proof.Machine

/-! ## Tiles and stamps -/

/-- The stamp record of a command (10 R249). -/
def stampBytes (core : Nat) (seq : W32) (q : MCmd) (tout : W64) : List Byte :=
  leBytes 4 seq.toNat ++ leBytes 4 q.ordinal.toNat ++ leBytes 2 core ++ leBytes 1 q.by_.wave ++
  leBytes 1 (if q.isTeam then (match q.team with | some (_, r, _) => r | none => 0) else 0) ++ leBytes 1 q.status ++ leBytes 1 q.exc.toNat ++ leBytes 2 0 ++
  leBytes 8 q.tAcc.toNat ++ leBytes 8 q.tIn.toNat ++ leBytes 4 q.wait.toNat ++ leBytes 4 q.comp.toNat ++
  leBytes 8 q.tDone.toNat ++ leBytes 8 tout.toNat ++ leBytes 4 q.prog ++ leBytes 4 0

/-- Writes a core's first pending stamp record, unless its page is waited for; one that may not be written is lost. [log 66: DESIGN CHOICE, unsafe] -/
def stampTry (s : State) (c : Nat) : State :=
  match (s.core c).stamps with
  | [] => s
  | p :: r =>
    let g : EngAt := { core := some c, by_ := p.by_, kind := 1, id := 0, ordinal := 0 }
    match engProbe s g p.waits p.va 64 false with
    | (s, ps, .wait) => s.modCore c (fun k => { k with stamps := { p with waits := ps } :: r })
    | (s, _, .to t) =>
      let (s, e) := engWrite s g t p.va p.bytes [] [] 0
      let s := s.modCore c (fun k => { k with stamps := r })
      if e.isSome then s
      else modUid s c p.by_.wave p.by_.uid (fun w => { w with mstat := { w.mstat with stamps := w.mstat.stamps + 1 } })
    | (s, _, _) => s.modCore c (fun k => { k with stamps := r })

/-- A tile retires: with a stamp ring, its record is written (10 R249). [log 70: DEDUCED, unsafe] -/
def retireTile (s : State) (c : Nat) (q : MCmd) (tout : W64) : State :=
  let s := s.modCore c (fun k => { k with tiles := k.tiles.filter (fun t => t.cmd.id != q.id) })
  match s.gang? c q.by_.gang with
  | none => s
  | some g =>
    if g.stN = 0 then s
    else
      let p : Stamp := { by_ := q.by_, va := g.stBase + BitVec.ofNat 64 (64 * (g.stCount.toNat % g.stN)),
                         bytes := stampBytes c g.stCount q tout, waits := [] }
      let s := s.modGang c g.id (fun g => { g with stCount := g.stCount + 1 })
      let n := (s.core c).stamps.length
      let s := s.modCore c (fun k => { k with stamps := k.stamps ++ [p] })
      if n = 0 then stampTry s c else s

/-- Completed tiles that hold one of some Z slots, accepted before an order. -/
def retiredBy (k : Core) (ord : Nat) (zs : List Nat) : List TileRec :=
  k.tiles.filter (fun t => decide (t.cmd.ord < ord) && t.cmd.zs.any zs.contains)

/-- Retires them. -/
def retireSlots (s : State) (c ord : Nat) (zs : List Nat) (tout : W64) : State :=
  (retiredBy (s.core c) ord zs).foldl (fun s t => retireTile s c t.cmd tout) s

/-- Z slots kept for commands of ended waves that still live (10 R242). -/
def Core.trimKeep (k : Core) : Core :=
  { k with zkeep := k.zkeep.filter (fun z =>
      k.ladle.any (fun q => q.by_.uid == z.2 && (tspace q.ta == 5) && q.zs.contains z.1) ||
      k.mx.any (fun q => q.by_.uid == z.2 && q.zs.contains z.1)) }

/-- Commands of the spill rings return to the MXE's queue of 64 in acceptance order, as far as it has room (10 R243). -/
def Core.unspill (k : Core) : Core :=
  { k with mx := (k.mx.foldl (fun (a : Nat × List MCmd) (q : MCmd) =>
      if q.spilled && decide (a.1 < 64) then (a.1 + 1, a.2 ++ [{ q with spilled := false }]) else (a.1, a.2 ++ [q]))
    ((k.mx.filter (fun q => !q.spilled)).length, [])).2 }

/-! ## Issue -/

/-- Who issues an engine command. -/
def issuerOf (x : Ctx) (op : Nat) (f : Fields) (lane : Nat) : Issuer :=
  { uid := x.wv.uid, wave := x.wid, after := x.wv.nextOp, lane := lane, gang := x.wv.gang, vf := x.wv.vf, world := x.wv.world,
    level := x.g.level, spo := x.spo, off := x.idx, flag := x.flag op f, priv := x.wv.priv }

/-- The job of a core's Ladle command. -/
def jobOf (c : Nat) (q : LCmd) : Job := { g := { core := some c, by_ := q.by_, kind := 0, id := q.id, ordinal := q.ordinal }, q := q }

/-- Puts a job's command back into its core's queue. -/
def putJob (s : State) (c : Nat) (j : Job) : State :=
  s.modCore c (fun k => { k with ladle := k.ladle.map (fun p => if p.id = j.q.id then j.q else p) })

/-- Tries to accept a command, unless something before it in its wave holds it, or a command before it in the core's order that nothing
holds is still to be accepted (04 R109; 10 R225). [log 56: DEDUCED, unsafe] -/
def tryAccept (s : State) (c id : Nat) : State :=
  match (s.core c).ladle.find? (fun q => q.id == id) with
  | none => s
  | some q =>
    if engReady s c q.by_ && !(s.core c).ladle.any (fun p => decide (p.ord < q.ord) && !p.accepted && engReady s c p.by_) then
      let (s, j) := acceptJob s (jobOf c q)
      putJob s c j
    else s

/-- The offset check of a chunk bitmap, and DKRUN's of its record (10 R231, R237): cause and address. -/
def ladleTrap (s : State) (x : Ctx) (op : Nat) (f : Fields) (c : W64) : Option (Nat × W64) :=
  if op = 0xDE then
    if canonical c = false then some (6, c) else if c.toNat % 64 ≠ 0 then some (7, c) else none
  else if f.m 6 1 = 1 then
    let o := f.imm.toNat
    if o % 4 ≠ 0 then some (7, BitVec.ofNat 64 o)
    else if bufSize s x.core x.wv.gang .g < o + 4 then some (8, BitVec.ofNat 64 o) else none
  else none

/-- A promise: at least 8 cc after the issue, by a free value (10 R226). -/
def promiseOf (clock : W64) (k : Nat) : W64 :=
  clock + 8 + BitVec.ofNat 64 (Config.promiseExtra k % (2 ^ 64 - (clock + 8).toNat))

/-- A Ladle-queue word (10 R225, R226): one command of the leader lane, its promise written at the end of the run. -/
def ladleIssue (op : Nat) (f : Fields) (s : State) (t : Ctx → W256 × W256) (c : Ctx → Nat → W64) : Res :=
  issueWord op f s (fun x s =>
    match (x.active f).head? with
    | none => s
    | some l =>
      let cv := c x l
      match ladleTrap s x op f cv with
      | some (k, a) => issueTraps s x [l] k 0 (fun _ => a) 0
      | none =>
        let k := s.core x.core
        let (ta, tb) := t x
        let q : LCmd :=
          { id := k.nextCmd, ord := k.nextOrd, by_ := issuerOf x op f l, opc := op, f := f, ordinal := x.wv.lstat.issued,
            ta := ta, tb := tb, c := cv, zs := x.wv.zmap, recA := [], recB := [], graph := [], rec_ := [], acquired := false,
            accepted := false, refused := false, codes := [], dkidx := 0xFFFFFFFF, dkcnt := 0, exc := 0, stream := none,
            chunks := [], bad := [], allBad := false, written := 0, stage := none, began := false, waits := [] }
        let s := s.modCore x.core (fun k => { k with ladle := k.ladle ++ [q], nextCmd := k.nextCmd + 1, nextOrd := k.nextOrd + 1 })
        let s := s.modRun x.core x.quarter (fun r => { r with resL := r.resL - 1 })
        let s := s.modWave x.core x.wid (fun w =>
          ({ w with lstat := { w.lstat with issued := w.lstat.issued + 1 } }).raise q.by_.flag)
        let promise := promiseOf x.clock s.free
        let s := writePromise x (wr64 f.dst l promise) s.useFree
        tryAccept s x.core q.id)

/-- LCOPY (10 R233). -/
def execLcopy (f : Fields) (s : State) : Res :=
  ladleIssue 0xD0 f s (fun x => (x.rdT f.a, x.rdT f.b)) (fun x l => x.rd64 f f.c l)
/-- LCOPYO (10 R238). -/
def execLcopyo (f : Fields) (s : State) : Res := ladleIssue 0xD1 f s (fun x => (x.rdT f.a, x.rdT f.b)) (fun _ _ => 0)
/-- LGATH (10 R239). -/
def execLgath (f : Fields) (s : State) : Res :=
  ladleIssue 0xD2 f s (fun x => (x.rdT f.a, x.rdT f.b)) (fun x l => (x.rd f f.c l).setWidth 64)
/-- LSCRED (10 R239). -/
def execLscred (f : Fields) (s : State) : Res :=
  ladleIssue 0xD3 f s (fun x => (x.rdT f.a, x.rdT f.b)) (fun x l => (x.rd f f.c l).setWidth 64)
/-- LRCOPY.PUSH (10 R240). -/
def execLrcopyPush (f : Fields) (s : State) : Res :=
  ladleIssue 0xD4 f s (fun x => (x.rdT f.a, x.rdT f.b)) (fun x l => (x.rd f f.c l).setWidth 64)
/-- LRCOPY.PULL (10 R240). -/
def execLrcopyPull (f : Fields) (s : State) : Res :=
  ladleIssue 0xD4 f s (fun x => (x.rdT f.a, x.rdT f.b)) (fun x l => (x.rd f f.c l).setWidth 64)
/-- LCOLL (10 R240). -/
def execLcoll (f : Fields) (s : State) : Res :=
  ladleIssue 0xD5 f s (fun x => (x.rdT f.a, x.rdT f.b)) (fun x l => x.rd64 f f.c l)
/-- LFILL (10 R240). -/
def execLfill (f : Fields) (s : State) : Res :=
  ladleIssue 0xD6 f s (fun x => (x.rdT f.a, 0)) (fun x l => (x.rd f f.b l).setWidth 64)
/-- DKRUN (10 R237). -/
def execDkrun (f : Fields) (s : State) : Res := ladleIssue 0xDE f s (fun _ => (0, 0)) (fun x l => x.rd64 f f.a l)

/-- A field of the Ladle status (10 R236). -/
def LStat.field (p : LStat) : Nat → W32
  | 0 => p.err
  | 1 => p.errseq
  | 2 => p.nerr
  | 3 => p.issued
  | 4 => p.done
  | 5 => p.dkidx
  | 6 => p.dkcnt
  | _ => p.exc

/-- Fields 0, 1, 2, 5, 6 and 7 at their initial values (10 R236). -/
def LStat.clear (p : LStat) : LStat := { LStat.initial with issued := p.issued, done := p.done }

/-- LSTAT (10 R236). -/
def execLstat (f : Fields) (s : State) : Res :=
  groupWord 0xD7 f s (fun x s =>
    let s := writeEnd x f ((x.destLanes f).flatMap (fun l => wr32 f.dst l (x.wv.lstat.field (f.m 0 3)))) s
    if f.m 3 1 = 1 then s.modWave x.core x.wid (fun w => { w with lstat := w.lstat.clear }) else s)

/-! ## Chunks -/

/-- The scoreboard lets a command read its sources and write chunk k now, and a ring's stage has begun (04 R109; 10 R241). -/
def chunkFree (s : State) (c : Nat) (j : Job) (k : Nat) : Bool :=
  let q := j.q
  (q.reads s c).all (fun sp => !readHeld s c q.ord sp) &&
  (match j.dst s with
   | none => true
   | some d =>
     if d.shared then true
     else
       let b := q.dstBase s c d
       (d.space != 4 || q.began) && !writeHeld s c q.ord (Span.range d.buf q.by_.gang (b + d.chunk0 + 512 * k) (b + d.chunk0 + 512 * k + 512)) &&
       ((d.spans q.by_.gang b q.zs).drop 1).all (fun sp => !writeHeld s c q.ord sp))

/-- What DKRUN writes after its stream: the result bitmap and the status record (10 R237). -/
def tailWrites (s : State) (j : Job) : List (Nat × List Byte) :=
  let q := j.q
  let rbmp := recNat q.rec_ 72 8
  let st := recNat q.rec_ 80 8
  let len := match q.stream with | some x => x.bytes.length | none => 0
  let cap := match j.dst s with | some d => d.bytes | none => 0
  let n := (len + 511) / 512
  let set (i : Nat) : Bool := !q.refused && !q.allBad && q.chunks.contains i && !q.bad.contains i && decide (min len (512 * i + 512) ≤ cap)
  let words := (List.range ((n + 63) / 64)).map (fun w =>
    (rbmp + 8 * w, leBytes 8 ((List.range 64).foldl (fun v i => if 64 * w + i < n ∧ set (64 * w + i) then v + 2 ^ i else v) 0)))
  let status := q.codes.foldl min 255
  (if rbmp = 0 ∨ rbmp % 8 ≠ 0 then [] else words) ++
  (if st = 0 ∨ st % 16 ≠ 0 then []
   else [(st, leBytes 4 (if q.codes.isEmpty then 0 else status) ++ leBytes 4 q.dkidx.toNat ++ leBytes 4 q.dkcnt ++
              leBytes 4 q.written)])

/-- Writes the bitmap and status record once their pages are at hand and every write before them has been answered, so that they tell
what was written; k numbers them as a chunk. The last flit before them leaves first (10 R237; 18 R399). -/
def writeTail (s : State) (j : Job) (k : Nat) : State × Job :=
  let ws := tailWrites s j
  let (s, ps, ts) := ws.foldl (fun (x : State × Pages × List WTo) w =>
    let (s, ps, t) := engProbe x.1 j.g x.2.1 (BitVec.ofNat 64 w.1) w.2.length false
    (s, ps, x.2.2 ++ [t])) (s, j.q.waits, [])
  let j := { j with q := { j.q with waits := ps } }
  let toPeer := ts.any (fun t => match t with | .to (.peer _ _) => true | _ => false)
  if ts.any (· == .wait) then (s, j)
  else if j.q.last.isSome then sendLast s j (if toPeer then 0 else j.q.lastFlags)
  else if cmdWriting s (j.g.core.getD 0xFFFF) j.g.kind j.q.id then (s, j)
  else
    let zs := ws.zip ts
    let puts := zs.filterMap (fun w => match w.2 with
      | .to t => some ({ t := t, va := BitVec.ofNat 64 w.1.1, bytes := w.1.2, pois := [] } : Put)
      | _ => none)
    let elided := zs.flatMap (fun w => match w.2 with
      | .elided pay m off => (w.1.2.zipIdx).map (fun b => (pay, m, ({ off := off + b.2, byte := b.1, pois := false } : ElidePut)))
      | _ => [])
    let written := zs.filter (fun w => match w.2 with | .to _ => true | .elided _ _ _ => true | _ => false)
    let (s, j) := writeSectors s j k puts
    let s := writeElided s j.g.writer elided
    let s := watchLadle s j.g (written.map (fun w => w.1.1 / 64))
    let s := countLadle s j (written.foldl (fun n w => n + w.1.2.length) 0)
    sendLast s { j with q := { j.q with
      codes := j.q.codes ++ zs.filterMap (fun w => match w.2 with | .err e => some e | _ => none),
      chunks := setIns j.q.chunks k } } j.q.lastFlags

/-- Every chunk of the stream has been finished with. -/
def allChunks (s : State) (j : Job) : Bool :=
  (j.q.refused || !j.q.whole || j.q.stream.isSome) && (List.range (j.nChunk s)).all j.q.chunks.contains

/-- DKRUN still has its bitmap and status record to write. -/
def needsTail (s : State) (j : Job) : Bool :=
  j.q.opc == 0xDE && j.q.rec_ != [] && !j.q.chunks.contains (j.nChunk s)

/-- After a step: once nothing of the command follows, its last flit leaves (18 R397, R399). -/
def lastStep (x : State × Job) : State × Job :=
  if allChunks x.1 x.2 && !needsTail x.1 x.2 then sendLast x.1 x.2 x.2.q.lastFlags else x

/-- One step of a job on chunk k: its stream first, where it has one (10 R233, R237). None where it cannot be made. -/
def chunkStep (s : State) (j : Job) (k : Nat) : Option (State × Job) :=
  if allChunks s j && needsTail s j && k == j.nChunk s then some (writeTail s j k)
  else if j.q.refused ∨ j.q.chunks.contains k then none
  else if j.q.whole ∧ j.q.stream.isNone then (if j.q.opc = 0xD5 then none else some (lastStep (computeStream s j)))
  else if j.nChunk s ≤ k then none
  else some (lastStep (if j.q.opc = 0xD3 then scredRow s j k else copyChunk s j k))

/-- LADLE_CHUNK_DONE (04 R108; 10 R234): a chunk is written and its bit set. On a command that is not accepted yet, the acceptance;
on one whose stream must be computed first, that; and page requests where a page is waited for. -/
def execLadleChunkDone (core cmd chunk : Nat) (s : State) : Res :=
  match (s.core core).ladle.find? (fun q => q.id == cmd) with
  | none => .fault .notEnabled
  | some q =>
    if q.accepted = false then
      if engReady s core q.by_ then .next (tryAccept s core cmd) else .fault .notEnabled
    else
      let j := jobOf core q
      if q.refused = false ∧ chunkFree s core j chunk = false then .fault .notEnabled
      else
        match chunkStep s j chunk with
        | none => .fault .notEnabled
        | some (s, j) => .next (putJob s core j)

/-! ## Completion -/

/-- Reduction of one element over the ranks, in order (10 R240). -/
def collReduce (ro rm fmt : Nat) (xs : List Nat) : Nat × Exc :=
  match xs with
  | [] => (0, 0)
  | a :: r => r.foldl (fun (p : Nat × Exc) x =>
      let (y, e) := scredOp ro rm fmt p.1 x
      (y, p.2 ||| e)) (a, 0)

/-- The stream of a collective, given every rank's source bytes (10 R240). -/
def collStream (kind rank n ro rm fmt : Nat) (ms : List (List Byte)) : List El × Exc :=
  if kind = 0 then (ms.flatMap (fun b => toEls fmt b []), 0)
  else
    let els := ms.map (fun b => (toEls fmt b []).map El.v)
    let len := match els with | e :: _ => e.length | [] => 0
    let r := (List.range len).map (fun i => collReduce ro rm fmt (els.map (fun e => e.getD i 0)))
    let r := if kind = 1 then (r.drop (rank * (len / n))).take (len / n) else r
    (r.map (fun p => El.of p.1), (r.map Prod.snd).foldl (· ||| ·) 0)

/-- What a member sends to the others before its source's bytes: GEN, KIND, NPEER, RO and a zero byte (10 R240). -/
def collHeader (q : LCmd) : List Byte :=
  let (n, _, kind) := collFields q.rec_
  leBytes 4 (recNat q.rec_ 4 4) ++ leBytes 1 kind ++ leBytes 1 n ++ leBytes 1 (q.f.m 13 3) ++ leBytes 1 0

/-- Every other member of a collective can be reached (10 R240; 18 R398). -/
def collReach (s : State) (q : LCmd) : Bool :=
  let (n, rank, _) := collFields q.rec_
  (List.range n).all (fun r => r == rank || (peerSub s (recNat q.rec_ (8 + r) 1) 0).isNone)

/-- Positions of the result that hold an element made from a poisoned byte of this member's source (03 R83). -/
def collPois (kind rank n w len : Nat) (p : List Nat) : List Nat :=
  let e := max 1 (w / 8)
  let own := p.flatMap (fun i => (List.range e).map (fun k => i / e * e + k))
  if kind = 0 then p.map (· + rank * len)
  else if kind = 1 then (own.filter (fun i => decide (rank * (len / n) ≤ i ∧ i < (rank + 1) * (len / n)))).map (· - rank * (len / n))
  else own

/-- A collective whose members have answered: its result, or PEER when one cannot be reached or they do not agree (10 R240). -/
def collDone (s : State) (j : Job) (members : List (List Byte)) : State × Job :=
  match readSource s j with
  | (s, j, none) => (s, j)
  | (s, j, some (b, p, _, ks)) =>
    let (n, rank, kind) := collFields j.q.rec_
    match j.src s with
    | none => (s, j)
    | some a =>
      let heads := (List.range n).map (fun r => if r = rank then collHeader j.q else (members.getD r []).take 8)
      let ms := (List.range n).map (fun r => if r = rank then b else (members.getD r []).drop 8)
      let matched := collReach s j.q && members.length == n && heads.all (· == collHeader j.q) &&
        ms.all (fun m => m.length == b.length)
      let agree := matched && ks.isEmpty
      let (els, e) := if agree then collStream kind rank n (j.q.f.m 13 3) (j.q.f.m 0 3) a.fmt ms else ([], 0)
      let (ob, _, _) := fromEls a.fmt els
      let st : LStream := { bytes := ob, pois := collPois kind rank n a.w b.length p, holes := [], scales := [] }
      (s, { j with q := { j.q with
        stream := some st, codes := j.q.codes ++ ks ++ (if matched then [] else [11]), allBad := !agree,
        exc := j.q.exc ||| (e &&& 0xFC).setWidth 32 ||| (if p.isEmpty then 0 else 1) } })

/-- The status: the lowest code met, or 0 (10 R235). -/
def LCmd.status (q : LCmd) : Nat := if q.codes.isEmpty then 0 else q.codes.foldl min 255

/-- The update of a wave's Ladle status at a completion (10 R236). -/
def LStat.complete (p : LStat) (q : LCmd) : LStat :=
  let st := q.status
  let p := { p with done := p.done + 1, exc := p.exc ||| q.exc }
  if st = 0 then p
  else
    let p := { p with nerr := satInc32 p.nerr }
    if p.err = 0 ∨ q.ordinal < p.errseq then
      { p with err := BitVec.ofNat 32 st, errseq := q.ordinal, dkidx := q.dkidx, dkcnt := BitVec.ofNat 32 q.dkcnt }
    else p

/-- Z slots of the accumulators a command copies out. -/
def LCmd.outSlots (q : LCmd) (s : State) (c : Nat) : List Nat := ((q.reads s c).filter (fun sp => sp.buf == 5)).map (fun sp => sp.off / 16384)

/-- Every tile that a copy-out retires was done before this cc, so that its T_OUT passes its T_DONE (13 R309). -/
def outMay (s : State) (c : Nat) (q : LCmd) : Bool :=
  q.refused || (retiredBy (s.core c) q.ord (q.outSlots s c)).all (fun t => decide (t.cmd.tDone < (s.core c).clock))

/-- All of a command's writes are done, and its release (04 R107). -/
def ladleDone (s : State) (c : Nat) (j : Job) : Bool :=
  let q := j.q
  q.accepted && allChunks s j && !needsTail s j && q.last.isNone && outMay s c q &&
  !(s.peers.any (fun p => p.cmd == some (c, 0, q.id) && p.chunk.isSome)) &&
  !((s.core c).wq.any (fun e => e.kind == 0 && e.eng.map Prod.fst == some q.id && (match e.tgt with | .peer _ _ => true | _ => false))) &&
  (!q.rel || ((s.core c).wq.all (fun e => !releaseWaitsFor q.scope e) && portsRead (s.core c) q.scope)) &&
  (q.refused || (match j.dst s with | some d => d.space != 4 || q.began | none => true))

/-- Completes a command: the ring's fill ends, status and flag, tiles it copied out retire, what it kept is freed (10 R226, R236,
R241, R242, R249). -/
def ladleEnd (s : State) (c : Nat) (j : Job) : State :=
  let q := j.q
  let s := match j.dst s, q.stage with
    | some d, some n => if d.space = 4 ∧ q.refused = false then s.modRing c q.by_.gang d.ring (fun r => r.fillEnd n) else s
    | _, _ => s
  let s := modUid s c q.by_.wave q.by_.uid (fun w => ({ w with lstat := w.lstat.complete q }).lower q.by_.flag)
  let s := if q.refused then s else retireSlots s c q.ord (q.outSlots s c) (s.core c).clock
  let s := { s with peers := s.peers.filter (fun p => p.cmd != some (c, 0, q.id)) }
  s.modCore c (fun k => ({ k with ladle := k.ladle.filter (fun p => p.id != q.id) }).trimKeep)

/-- LADLE_COMPLETE (04 R107; 10 R226). members: a collective's other sources by rank, as they arrive from the peers. [log 59: DESIGN CHOICE, unsafe] -/
def execLadleComplete (core cmd : Nat) (members : List (List Byte)) (s : State) : Res :=
  match (s.core core).ladle.find? (fun q => q.id == cmd) with
  | none => .fault .notEnabled
  | some q =>
    let j := jobOf core q
    if q.accepted ∧ q.refused = false ∧ q.opc = 0xD5 ∧ q.stream.isNone then
      if (q.reads s core).any (readHeld s core q.ord) then .fault .notEnabled
      else
        let (s, j) := collDone s j members
        .next (putJob s core j)
    else if ladleDone s core j then .next (ladleEnd s core j)
    else .fault .notEnabled

end Sys2Proof.Machine
end

