-- ==== Sys2Proof/Machine/Mxe.lean ====
section
/-! DEFINITION. The matrix engine: its queue and words, acceptance, k-steps, teams and completion (05 R124 to R127; 10 R243 to R250). -/

namespace Sys2Proof.Machine

/-! ## Operands of a k-step -/

/-- An element of an operand: code and scale byte. -/
structure MxEl where
  v : Nat
  sc : Nat
  deriving DecidableEq, Repr

/-- Its value after its block scale, exact (05 R117, R126). -/
def MxEl.val (t : Fmt) (a : MxEl) : Val :=
  if a.sc = 0xFF then .nan false
  else
    match decodeV t a.v with
    | .num x => .num (x.scale ((a.sc : Int) - 127))
    | y => y

/-- What a k-step's read of an operand gives: elements row by row and whether one was poisoned, a status of R248, or a wait. -/
inductive MxGot where
  | ok (els : List MxEl) (pois : Bool)
  | err (st : Nat)
  | wait
  deriving DecidableEq, Repr

/-- The MXE status of a Ladle error code met by the tile-fetch unit (10 R248). [log 71: DEDUCED, unsafe] -/
def mxStatus (code : Nat) : Nat := if code = 12 then 8 else if code = 9 then 6 else if code = 1 then 1 else 5

/-- Elements of width w in bytes, low nibble first. -/
def splitEls (w : Nat) (b : List Byte) : List Nat :=
  if w = 4 then b.flatMap (fun x => [x.toNat % 16, x.toNat / 16])
  else (List.range (b.length / (w / 8))).map (fun i => recNat b (i * (w / 8)) (w / 8))

/-- Rows and elements of a row that a k-step reads of A, or of B (10 R245). -/
def MCmd.shape (q : MCmd) (b : Bool) : Nat × Nat := if b then (32, 64 * q.nb) else (64 * q.mb, 32)

/-- Bytes with those of poisoned words as +0, and whether there are any (05 R126). -/
def cleanBytes (r : List Byte × List Nat) : List Byte × Bool :=
  (r.1.zipIdx.map (fun b => if r.2.contains b.2 then 0 else b.1), !r.2.isEmpty)

/-- A local operand's elements at a k-step; poisoned words read as +0 (05 R126; 10 R245). -/
def mxLocal (s : State) (c gang : Nat) (d : Side) (shape : Nat × Nat) (shift : Int) (base : Nat) : MxGot :=
  let n := shape.2 * d.w / 8
  let rows := (List.range shape.1).map (fun r =>
    let rel : Int := shift + (r * d.pitch : Nat)
    let (b, p) := cleanBytes (locBytes s c gang [] d.buf (((base + d.off : Nat) : Int) + rel).toNat n)
    (((splitEls d.w b).zipIdx).map (fun e =>
      let (sb, sp) := if d.scv then cleanBytes (locBytes s c gang [] d.buf (d.shiftScale base (rel + (e.2 * d.w / 8 : Nat))) 1)
        else ([0x7F], false)
      (({ v := e.1, sc := leNat sb } : MxEl), sp)), p))
  let els := rows.flatMap Prod.fst
  .ok (els.map Prod.fst) (els.any Prod.snd || rows.any Prod.snd)

/-- A job that only reads, for an engine. -/
def readerJob (g : EngAt) : Job := { g := g, q := { (default : LCmd) with by_ := g.by_ } }

/-- A shared operand's elements at a k-step, by the tile-fetch unit (10 R228, R245). -/
def mxShared (s : State) (g : EngAt) (ps : Pages) (d : Side) (ext : List Nat) (org : List Int) : State × Pages × MxGot :=
  let n := ext.foldl (· * ·) 1
  let k := max 1 (d.w / 8)
  let at_ (e : Nat) : List Int := boxCoords ext org e
  let bytes := buildPieces ((List.range (n * k)).map (fun p =>
    { p := p, n := 1, src := (d.elemLoc (at_ (p / k)) (p % k)).1, dst := .out, sm := 0xFF, dm := 0xFF }))
  let scs := if d.scales then (List.range n).map (fun e =>
      let l := d.elemScale (at_ e)
      ({ p := e, n := 1, src := if l = .out then .val 0x7F else l, dst := .out, sm := 0xFF, dm := 0xFF } : Piece)) else []
  let j := readerJob g
  let (s, j, rs) := readPieces s { j with q := { j.q with waits := ps } } bytes
  let (s, j, ss) := readPieces s j scs
  let ps := j.q.waits
  if anyWait rs || anyWait ss then (s, ps, .wait)
  else
    let (b, p, ks) := gather rs
    let (sb, sp, ks') := gather ss
    match ks ++ ks' with
    | a :: r => (s, ps, .err ((r.map mxStatus).foldl min (mxStatus a)))
    | [] =>
      let els := (List.range n).map (fun e =>
        let v := recNat b (e * k) k
        let v := if d.w = 4 then (if ((at_ e).headD 0) % 2 = 0 then v % 16 else v / 16) else v
        let bad := (List.range k).any (fun i => p.contains (e * k + i))
        (({ v := if bad then 0 else v, sc := if d.scales then (if sp.contains e then 0 else recNat sb e 1) else 0x7F } : MxEl),
         bad || sp.contains e))
      (s, ps, .ok (els.map Prod.fst) (els.any Prod.snd))

/-- Box and origin of a shared operand at a k-step (10 R245). -/
def MCmd.boxAt (q : MCmd) (d : Side) (b : Bool) (step : Nat) : List Nat × List Int :=
  let sh : Int := d.inc * (step : Nat)
  match d.org with
  | x :: y :: r =>
    if b then ([64 * q.nb, 32, 1, 1, 1], x :: (y + sh) :: r) else ([32, 64 * q.mb, 1, 1, 1], (x + sh) :: y :: r)
  | l => ([32, 32, 1, 1, 1], l)

/-- The party of an MXE command. -/
def mxAt (c : Nat) (q : MCmd) : EngAt := { core := some c, by_ := q.by_, kind := 1, id := q.id, ordinal := q.ordinal }

/-- An operand of a k-step. -/
def mxOperand (s : State) (c : Nat) (q : MCmd) (b : Bool) : State × MCmd × MxGot :=
  match q.side b (nRings s c q.by_.gang) with
  | none => (s, q, .err 1)
  | some d =>
    if d.shared then
      let (e, o) := q.boxAt d b q.prog
      let (s, ps, r) := mxShared s (mxAt c q) q.waits d e o
      (s, { q with waits := ps }, r)
    else
      let base := match (q.stages b).head? with
        | some n => if d.space = 4 then stageBase s c q.by_.gang d.ring n else 0
        | none => 0
      (s, q, mxLocal s c q.by_.gang d (q.shape b) (d.inc * (q.prog : Nat)) base)

/-! ## Arithmetic -/

/-- What the formats of A and B accumulate into (10 R245). -/
def mxPair (a b : Nat) : Option Fmt :=
  match Fmt.ofCode a, Fmt.ofCode b with
  | some .fp64, some .fp64 => some .fp64
  | some .e4m3, some .e5m2 => some .fp32
  | some .e5m2, some .e4m3 => some .fp32
  | some x, some y =>
    if [.s8, .n8].contains x && [.s8, .n8].contains y || [.s4, .n4].contains x && [.s4, .n4].contains y then some .s32
    else if x = y ∧ [.fp32, .fp16, .bf16, .e4m3, .e5m2, .e2m1].contains x = true then some .fp32
    else none
  | _, _ => none

/-- One group: the exact sum of products rounded once, then one addition to the accumulator, both RN (05 R124 to R126). -/
def mxGroup (t : Fmt) (ps : List (Val × Exc)) (acc : Nat) : Nat × Exc :=
  let (g, e) := finish t 0 (sumTerms 0 (ps.map Prod.fst))
  let (r, e') := finish t 0 (addV 0 (decodeF t acc) (decodeF t g))
  (r, (ps.map Prod.snd).foldl (· ||| ·) (e ||| e'))

/-- Groups of four, in order (05 R125). -/
def mxFours (t : Fmt) : Nat → List (Val × Exc) → Nat → Nat × Exc
  | 0, _, acc => (acc, 0)
  | n + 1, ps, acc =>
    let (r, e) := mxGroup t (ps.take 4) acc
    let (r', e') := mxFours t n (ps.drop 4) r
    (r', e ||| e')

/-- One element's k-step (10 R246). -/
def mxElem (t fa fb : Fmt) (as bs : List MxEl) (acc : Nat) : Nat × Exc :=
  if t = .s32 then
    let sum := (List.zipWith (fun x y => decodeI fa x.v * decodeI fb y.v) as bs).foldl (· + ·) 0
    ((((acc : Int) + sum).emod (2 ^ 32)).toNat, 0)
  else
    let ps := List.zipWith (fun (x y : MxEl) => mulV (x.val fa) (y.val fb)) as bs
    if t = .fp64 then mxFours t 8 ps acc else mxGroup t ps acc

/-- The n words of a table from key i on. -/
def denseWords : Tab W32 → Nat → Nat → List W32
  | _, _, 0 => []
  | [], i, n + 1 => 0 :: denseWords [] (i + 1) n
  | (k, v) :: r, i, n + 1 => if k = i then v :: denseWords r (i + 1) n else 0 :: denseWords ((k, v) :: r) (i + 1) n

/-- The 4,096 words of a Z slot, poisoned ones as +0, and whether one was poisoned. -/
def zSlot (k : Core) (z : Nat) : List W32 × Bool :=
  let ws := denseWords (k.z.filter (fun p => decide (4096 * z ≤ p.1))) (4096 * z) 4096
  let ps := k.zpois.filter (fun i => i / 4096 == z)
  if ps.isEmpty then (ws, false) else ((ws.zipIdx).map (fun w => if ps.contains (4096 * z + w.2) then 0 else w.1), true)

/-- Replaces the words of a Z slot; their poison clears. -/
def zSetSlot (k : Core) (z : Nat) (ws : List W32) : Core :=
  let new := ((ws.zipIdx).map (fun w => (4096 * z + w.2, w.1))).filter (fun p => p.2 != 0)
  { k with z := k.z.filter (fun p => decide (p.1 < 4096 * z)) ++ new ++ k.z.filter (fun p => decide (4096 * z + 4096 ≤ p.1)),
           zpois := k.zpois.filter (fun i => i / 4096 != z) }

/-- A list in pieces of n, k of them. -/
def chunksOf {α : Type} (n : Nat) : Nat → List α → List (List α)
  | 0, _ => []
  | k + 1, l => l.take n :: chunksOf n k (l.drop n)

/-- Columns of a matrix of rows. -/
def transposed {α : Type} : Nat → List (List α) → List (List α)
  | 0, _ => []
  | n + 1, rows => rows.filterMap List.head? :: transposed n (rows.map List.tail)

/-- The blocks of a command: all, or a team member's share (10 R247). -/
def MCmd.blocks (q : MCmd) : Nat × Nat :=
  let n := q.mb * q.nb
  if q.isTeam then
    match q.team with
    | some (_, r, t) => (r * n / t, (r + 1) * n / t)
    | none => (0, n)
  else (0, n)

/-- One block's k-step: its accumulator's words before and after, and exceptions (10 R246). -/
def mxBlock (k : Core) (t fa fb : Fmt) (fresh : Bool) (zs : List Nat) (rows cols : List (List MxEl)) : Core × Exc × Bool :=
  let old := zs.map (fun z => zSlot k z)
  let lo := match old with | a :: _ => a.1 | [] => []
  let hi := match old with | _ :: b :: _ => b.1 | _ => []
  let zero := List.replicate 4096 (0 : W32)
  let lo := if fresh then zero else lo
  let hi := if fresh ∨ hi = [] then zero else hi
  let accs := List.zipWith (fun (a b : W32) => a.toNat + 2 ^ 32 * b.toNat) lo hi
  let prods := rows.flatMap (fun a => cols.map (fun b => (a, b)))
  let rs := List.zipWith (fun (x : List MxEl × List MxEl) acc => mxElem t fa fb x.1 x.2 acc) prods accs
  let k := (zs.zipIdx).foldl (fun k z => zSetSlot k z.1 (rs.map (fun r => BitVec.ofNat 32 (r.1 / 2 ^ (32 * z.2))))) k
  (k, (rs.map Prod.snd).foldl (· ||| ·) 0, !fresh && old.any Prod.snd)

/-- A k-step on a command's blocks (10 R246). -/
def mxCompute (s : State) (c : Nat) (q : MCmd) (fa fb : Nat) (as bs : List MxEl) : State × Exc × Bool :=
  match mxPair fa fb with
  | none => (s, 0, false)
  | some t =>
    let per := if t = .fp64 then 2 else 1
    let rows := chunksOf 32 (64 * q.mb) as
    let cols := transposed (64 * q.nb) (chunksOf (64 * q.nb) 32 bs)
    let (b0, b1) := q.blocks
    let fresh := q.prog = 0 ∧ q.f.m 15 1 = 1
    let (k, e, p) := (List.range (b1 - b0)).foldl (fun (x : Core × Exc × Bool) i =>
      let b := b0 + i
      let (k, e, p) := mxBlock x.1 t (fmtOf fa) (fmtOf fb) fresh ((q.zs.drop (per * i)).take per)
        ((rows.drop (64 * (b / q.nb))).take 64) ((cols.drop (64 * (b % q.nb))).take 64)
      (k, x.2.1 ||| e, x.2.2 || p)) (s.core c, (0 : Exc), false)
    (s.setCore c k, e &&& 0xFC, p)

/-! ## Acceptance -/

/-- Statuses a local operand's region meets (10 R230, R245, R248). -/
def mxRegion (s : State) (c : Nat) (q : MCmd) (b : Bool) (d : Side) : List Nat :=
  if d.shared then []
  else
    let (rows, els) := q.shape b
    if d.rows < rows ∨ d.rowEls < els then [3]
    else
      let lim : Int := sideLimit s c q.by_.gang 0 d
      let last : Int := d.inc * ((q.ksteps - 1 : Nat) : Int)
      let data : Int := ((d.off + (d.rows - 1) * d.pitch + d.rowb : Nat) : Int)
      let off : Int := d.off
      let sc (rel : Int) : Bool :=
        let r := ((d.scoff + (rel.fmod d.pitch).toNat * 8 / d.w / 32 : Nat) : Int) + rel.fdiv d.pitch * (d.scRow : Nat)
        decide (r < 0 ∨ lim ≤ r)
      if off + min last 0 < 0 ∨ lim < data + max last 0 ∨ lim < d.reach then [7]
      else if d.scv && (sc (min last 0) || sc (max last 0 + ((rows - 1) * d.pitch : Nat) + ((els * d.w / 8 - 1 : Nat) : Int)))
      then [7] else []

/-- Statuses of PARAM and of the accumulators for an accumulating format (10 R244, R247, R248). -/
def mxShape (q : MCmd) (first have_ : Nat) (t : Fmt) : List Nat :=
  let per := if t = .fp64 then 2 else 1
  let (b0, b1) := q.blocks
  let bad := q.param.extractLsb' 30 2 != 0 || q.mb == 0 || decide (6 < q.mb) || q.nb == 0 || decide (10 < q.nb) || q.ksteps == 0 ||
    (!q.isTeam && (decide (4 < q.mb) || decide (8 < q.nb))) || (q.isTeam && q.team.isNone) ||
    decide (have_ < per * (b1 - b0)) || (t == .fp64 && first % 2 == 1)
  if bad then [3] else []

/-- Statuses found at a command's acceptance, its records at hand (10 R248). -/
def mxCodes (s : State) (c : Nat) (q : MCmd) : List Nat :=
  if q.opc = 0xDA then []
  else
    let n := nRings s c q.by_.gang
    match q.side false n, q.side true n with
    | some a, some b =>
      if [1, 5].contains a.space || [1, 5].contains b.space then [1]
      else
        match mxPair a.fmt b.fmt with
        | none => [2]
        | some t =>
          mxShape q q.acc q.zs.length t ++
          (if q.mb = 0 ∨ 6 < q.mb ∨ q.nb = 0 ∨ 10 < q.nb then [] else mxRegion s c q false a ++ mxRegion s c q true b)
    | _, _ => [1]

/-- Reads the layout records a command lacks, up to a wait or an error. -/
def mxRecords (s : State) (c : Nat) (q : MCmd) : Nat → State × MCmd × Option Nat
  | 0 => (s, q, none)
  | n + 1 =>
    let need (t : W256) (r : List Byte) : Bool := q.opc != 0xDA && tspace t == 0 && tbits t 63 0 % 64 == 0 && r.isEmpty
    let go (va : Nat) (b : Bool) : State × MCmd × Option Nat :=
      match engRecord s (mxAt c q) q.waits va 64 with
      | (s, ps, .wait) => (s, { q with waits := ps }, none)
      | (s, ps, .err e) => (s, { q with waits := ps }, some (mxStatus e))
      | (s, ps, .ok r p) =>
        let s := if p.isEmpty then s else engPoison s (mxAt c q)
        let q : MCmd := { q with waits := ps, exc := if p.isEmpty then q.exc else q.exc ||| 1 }
        mxRecords s c (if b then { q with recB := r } else { q with recA := r }) n
    if need q.ta q.recA then go (tbits q.ta 63 0) false
    else if need q.tb q.recB then go (tbits q.tb 63 0) true
    else (s, q, some 0)

/-- Changes command id of a core's MXE queue. -/
def modMx (s : State) (c id : Nat) (g : MCmd → MCmd) : State :=
  s.modCore c (fun k => { k with mx := k.mx.map (fun q => if q.id = id then g q else q) })

/-- Ring places of a command that is accepted: one drain for each k-step of each ring operand, in queue order (10 R241). -/
def mxPlaces (s : State) (c : Nat) (q : MCmd) : State × MCmd :=
  let take (s : State) (ring op : Nat) : State :=
    s.modRing c q.by_.gang ring (fun (r : Ring) => (List.range q.ksteps).foldl (fun (r : Ring) _ =>
      r.addDrain { stage := r.nextDrain, who := 2, id := q.id, op := op }) r)
  let a := tspace q.ta = 4
  let b := tspace q.tb = 4 ∧ q.oneRing = false
  let s := if a then take s (tbits q.ta 242 240) 0 else s
  let s := if b then take s (tbits q.tb 242 240) 1 else s
  (s, { q with leftA := if a then q.ksteps else 0, leftB := if b then q.ksteps else 0 })

/-- What a team command's members must name alike (10 R247). -/
def MCmd.sig (q : MCmd) (n : Nat) (refused : Bool) : TeamSig :=
  let fmt (d : Option Side) : Nat := match d with | some d => d.fmt | none => 0
  { rank := match q.team with | some (_, r, _) => r | none => 0, refused := refused, ksteps := q.ksteps, mb := q.mb, nb := q.nb,
    zero := q.f.m 15 1 == 1, fmtA := fmt (q.side false n), fmtB := fmt (q.side true n), tb := q.tb }

/-- The team command of an MXE command. -/
def teamOf? (s : State) (q : MCmd) : Option TeamCmd :=
  match q.team with
  | some (t, _, _) => s.sched.teamCmds.find? (fun k => k.team == t && k.seq == q.teamSeq)
  | none => none

/-- Changes it. -/
def modTeam (s : State) (q : MCmd) (g : TeamCmd → TeamCmd) : State :=
  match q.team with
  | some (t, _, _) => { s with sched := { s.sched with teamCmds := s.sched.teamCmds.map (fun k =>
      if k.team = t ∧ k.seq = q.teamSeq then g k else k) } }
  | none => s

/-- Enters a member's command into its team command (10 R247). -/
def joinTeam (s : State) (c : Nat) (q : MCmd) (refused : Bool) : State :=
  match q.team with
  | none => s
  | some (t, r, _) =>
    let s := if (teamOf? s q).isSome then s else
      { s with sched := { s.sched with teamCmds := s.sched.teamCmds ++
        [{ team := t, seq := q.teamSeq, sigs := [], lead := none, prog := [], waits := [], steps := [] }] } }
    modTeam s q (fun k => { k with
      sigs := k.sigs ++ [q.sig (nRings s c q.by_.gang) refused],
      lead := if r = 0 then some (c, q.by_, q.recB) else k.lead,
      prog := k.prog.ins r (if refused then 65536 else 0) })

/-- The members of a team command agree; none while some have not come (10 R247). [log 69: DEDUCED, unsafe] -/
def teamAgrees (s : State) (q : MCmd) : Option Bool :=
  match teamOf? s q, q.team with
  | some k, some (_, _, t) =>
    if k.sigs.length < t then none
    else
      match k.sigs with
      | a :: r => some (!a.refused && r.all (fun b => { b with rank := a.rank } == a))
      | [] => none
  | _, _ => some true

/-- Accepts a checked command, or refuses it with a status (10 R241, R248, R249). -/
def mxAcceptNow (s : State) (c : Nat) (q : MCmd) (st : Nat) : State :=
  let clock := (s.core c).clock
  -- a command restored from its record's image has k-steps behind it (13 R309)
  let q : MCmd := { q with accepted := true, status := st, tAcc := clock, tIn := if q.prog = 0 then q.tIn else clock,
                           tDone := if q.prog = 0 then q.tDone else clock }
  if st ≠ 0 then modMx s c q.id (fun _ => { q with zs := q.zs.take (q.blocks.2 - q.blocks.1) })
  else
    let per := if q.opc = 0xDA then 1 else
      match q.side false (nRings s c q.by_.gang), q.side true (nRings s c q.by_.gang) with
      | some a, some b => if mxPair a.fmt b.fmt = some .fp64 then 2 else 1
      | _, _ => 1
    let n := if q.opc = 0xDA then q.cnt else per * (q.blocks.2 - q.blocks.1)
    let q : MCmd := { q with zs := q.zs.take n }
    let (s, q) := mxPlaces s c q
    retireSlots (modMx s c q.id (fun _ => q)) c q.ord q.zs 0

/-- A command's acceptance, as far as it can go: in queue order, which a command of another gang leaves that waits for its own wave or for
its team, after its acquire and records; a team command waits for its members (04 R107, R109; 10 R225, R243, R247). [log 68: DEDUCED, unsafe] -/
def mxAccept (s : State) (c id : Nat) : State :=
  match (s.core c).mx.find? (fun q => q.id == id) with
  | none => s
  | some q =>
    if q.accepted || !engReady s c q.by_ ||
       (s.core c).mx.any (fun p => decide (p.ord < q.ord) && !p.accepted &&
         (p.by_.gang == q.by_.gang || (!p.checked && engReady s c p.by_))) then s
    else if q.checked then
      match teamAgrees s q with
      | none => s
      | some true => mxAcceptNow s c q 0
      | some false => mxAcceptNow s c q (if q.status = 0 then 4 else q.status)
    else
      let s := if (q.f.m 3 1 == 1) && q.opc != 0xDA && !q.acquired then acquireAt s c (q.f.m 7 4) else s
      match mxRecords s c { q with acquired := true } 3 with
      | (s, q, none) => modMx s c id (fun _ => q)
      | (s, q, some e) =>
        let ks := if e = 0 then mxCodes s c q else [e]
        let st := match ks with | a :: r => r.foldl min a | [] => 0
        let q : MCmd := { q with checked := true, status := st }
        if q.isTeam ∧ q.opc ≠ 0xDA ∧ q.team.isSome then
          let s := joinTeam (modMx s c id (fun _ => q)) c q (st != 0)
          match teamAgrees s q with
          | none => s
          | some true => mxAcceptNow s c q 0
          | some false => mxAcceptNow s c q (if st = 0 then 4 else st)
        else mxAcceptNow s c q st

/-! ## Words -/

/-- An MXE-queue word: one command of the leader lane (10 R243, R244). -/
def mxIssue (op : Nat) (f : Fields) (s : State) : Res :=
  issueWord op f s (fun x s =>
    match (x.active f).head? with
    | none => s
    | some l =>
      let k := s.core x.core
      let param := if op = 0xD9 then x.rd f f.c l else if op = 0xD8 then f.imm else 0
      let first := if op = 0xD9 then bits param.toNat 29 25 else (x.rd f f.c l).toNat
      let team := (s.gang? x.core x.wv.gang).bind Gang.team
      let isTeam := op != 0xDA && param.getLsbD 24
      let q : MCmd :=
        { id := k.nextCmd, ord := k.nextOrd, by_ := issuerOf x op f l, opc := op, ordinal := x.wv.mstat.issued, f := f,
          ta := x.rdT f.a, tb := x.rdT f.b, param := param, acc := first, cnt := f.imm.toNat,
          recA := [], recB := [], acquired := false, checked := false, accepted := false, started := false, prog := 0, status := 0,
          exc := 0, spilled := decide (64 ≤ (k.mx.filter (fun m => !m.spilled)).length), zs := x.wv.zmap.drop first, waits := [],
          stA := [], stB := [], tAcc := 0, tIn := 0, tDone := 0, wait := 0, comp := 0, leftA := 0, leftB := 0, wsince := none,
          team := team, teamSeq := match s.gang? x.core x.wv.gang with | some g => g.teamN | none => 0 }
      let s := s.modCore x.core (fun k => { k with mx := k.mx ++ [q], nextCmd := k.nextCmd + 1, nextOrd := k.nextOrd + 1 })
      let s := s.modRun x.core x.quarter (fun r => { r with resM := r.resM - 1 })
      let s := if isTeam then s.modGang x.core x.wv.gang (fun g => { g with teamN := g.teamN + 1 }) else s
      let s := s.modWave x.core x.wid (fun w =>
        ({ w with mstat := { w.mstat with issued := w.mstat.issued + 1 } }).raise q.by_.flag)
      mxAccept s x.core q.id)

/-- MXLOOP (10 R244). -/
def execMxloop (f : Fields) (s : State) : Res := mxIssue 0xD8 f s
/-- MXSTEP (10 R244). -/
def execMxstep (f : Fields) (s : State) : Res := mxIssue 0xD9 f s
/-- MXZERO (10 R244). -/
def execMxzero (f : Fields) (s : State) : Res := mxIssue 0xDA f s

/-- MXTEAM (10 R250). -/
def execMxteam (f : Fields) (s : State) : Res :=
  groupWord 0xDB f s (fun x s =>
    let v : W32 := match (s.gang? x.core x.wv.gang).bind Gang.team, f.m 0 2 with
      | some (t, _, _), 0 => BitVec.ofNat 32 t
      | some (_, r, _), 1 => BitVec.ofNat 32 r
      | some (_, _, n), _ => BitVec.ofNat 32 n
      | none, 0 => 0xFFFFFFFF
      | none, 1 => 0
      | none, _ => 1
    writeEnd x f ((x.destLanes f).flatMap (fun l => wr32 f.dst l v)) s)

/-- MXSTAT (10 R250). -/
def execMxstat (f : Fields) (s : State) : Res :=
  groupWord 0xDD f s (fun x s =>
    let p := x.wv.mstat
    let v : W32 := match f.m 0 3 with
      | 0 => BitVec.ofNat 32 ((s.core x.core).mx.filter (fun q => q.by_.uid == x.wv.uid)).length
      | 1 => p.exc.setWidth 32
      | 2 => (p.errSeq <<< 8) ||| p.err.setWidth 32
      | _ => p.stamps
    let s := writeEnd x f ((x.destLanes f).flatMap (fun l => wr32 f.dst l v)) s
    if f.m 3 1 = 1 then
      s.modWave x.core x.wid (fun w => { w with mstat := { w.mstat with exc := 0, err := 0, errSeq := 0 } })
    else s)

/-- MXQSET (10 R243): the gang's spill ring, or its stamp ring. [log 72: DESIGN CHOICE, unsafe] -/
def mxqset (f : Fields) (stamp : Bool) (s : State) : Res :=
  groupWord 0xDC f s (fun x s =>
    match (x.active f).head? with
    | none => s
    | some l =>
      let base := x.rd64 f f.a l
      let n := (x.rd f f.b l).toNat
      let held := (s.core x.core).mx.any (fun q => q.spilled && q.by_.gang == x.wv.gang)
      let bad := base.toNat % 64 ≠ 0 ∨ ¬(n = 0 ∨ pow2In n 64 65536 = true)
      let st : W32 := if bad then 2 else if !stamp && held then 1 else 0
      let s := if st ≠ 0 then s
        else s.modGang x.core x.wv.gang (fun g =>
          if stamp then { g with stBase := base, stN := n } else { g with spBase := base, spN := n })
      writeEnd x f ((x.destLanes f).flatMap (fun l => wr32 f.dst l st)) s)

/-- MXQSET.CMDR (10 R243). -/
def execMxqsetCmdr (f : Fields) (s : State) : Res := mxqset f false s
/-- MXQSET.STMR (10 R243). -/
def execMxqsetStmr (f : Fields) (s : State) : Res := mxqset f true s

/-! ## Running -/

/-- The scoreboard lets a command read an operand's local range at its next k-step (04 R109). -/
def mxReadable (s : State) (c : Nat) (q : MCmd) (b : Bool) : Bool :=
  match q.side b (nRings s c q.by_.gang) with
  | none => true
  | some d =>
    if d.shared then true
    else if d.space = 4 then
      match (q.stages b).head? with
      | none => false
      | some n =>
        let base := stageBase s c q.by_.gang d.ring n
        (q.opSpan s c b 0 base ++ q.scaleSpan s c b 0 0 base).all (fun sp => !readHeld s c q.ord sp)
    else
      (q.opSpan s c b q.prog 0 ++ q.scaleSpan s c b q.prog q.prog 0).all (fun sp => !readHeld s c q.ord sp)

/-- The wave of a uid drains and every lane has stopped: its commands not started yet are not started (14 R324). -/
def quiescing (s : State) (c uid : Nat) : Bool :=
  (s.core c).slots.any (fun p => p.2.wave.uid == uid && p.2.drain.isSome && allStopped p.2.wave)

/-- MXE_COMMAND_START (04 R109; 10 R243): a command's acceptance where it waits for one, else its start, once its accumulators and
its first operands are free; T_IN is taken then. -/
def execMxeCommandStart (core cmd : Nat) (s : State) : Res :=
  match (s.core core).mx.find? (fun q => q.id == cmd) with
  | none => .fault .notEnabled
  | some q =>
    if q.accepted = false then
      let t := mxAccept s core cmd
      if engReady s core q.by_ then .next t else .fault .notEnabled
    else if q.spilled || q.started || quiescing s core q.by_.uid || q.status != 0 || q.writes.any (writeHeld s core q.ord) ||
            (q.opc != 0xDA && !(mxReadable s core q false && mxReadable s core q true)) then .fault .notEnabled
    else .next (modMx s core cmd (fun q => { q with started := true, tIn := if q.prog = 0 then (s.core core).clock else q.tIn }))

/-- Ends the drain of the first stage held for an operand (10 R241). -/
def mxDrain (s : State) (c : Nat) (q : MCmd) (b : Bool) : State × MCmd :=
  let ring := if b then tbits q.tb 242 240 else tbits q.ta 242 240
  match (if b then q.stB else q.stA) with
  | [] => (s, q)
  | n :: r =>
    (s.modRing c q.by_.gang ring (fun (g : Ring) => g.drainEnd n),
     if b then { q with stB := r, leftB := q.leftB - 1 } else { q with stA := r, leftA := q.leftA - 1 })

/-- Drains every stage a failed command holds, without reading it. -/
def mxDrainAll (s : State) (c : Nat) (q : MCmd) : Nat → State × MCmd
  | 0 => (s, q)
  | n + 1 =>
    let (s, q) := mxDrain s c q false
    let (s, q) := mxDrain s c q true
    mxDrainAll s c q n

/-- B of a team command's k-step, fetched once by rank 0's tile-fetch unit (10 R247). -/
def teamFetch (s : State) (q : MCmd) (step : Nat) : State × MxGot :=
  match teamOf? s q with
  | none => (s, .err 4)
  | some k =>
    match k.steps.find? (fun t => t.step == step), k.lead with
    | some t, _ => (s, if t.err = 0 then .ok (t.els.map (fun e => { v := e.1, sc := e.2 })) t.pois else .err t.err)
    | none, some (c, by_, rec_) =>
      match sideOf q.tb rec_ 0 false with
      | none => (s, .err 1)
      | some d =>
        let (e, o) := q.boxAt d true step
        let g : EngAt := { core := some c, by_ := by_, kind := 4, id := 65536 * k.team + k.seq, ordinal := 0 }
        let (s, ps, r) := mxShared s g k.waits d e o
        let add (t : TeamStep) : State := modTeam s q (fun k => { k with waits := ps, steps := k.steps ++ [t] })
        match r with
        | .wait => (modTeam s q (fun k => { k with waits := ps }), .wait)
        | .err st => (add { step := step, err := st, pois := false, els := [] }, .err st)
        | .ok els p => (add { step := step, err := 0, pois := p, els := els.map (fun e => (e.v, e.sc)) }, .ok els p)
    | none, none => (s, .err 4)

/-- Operand B of a k-step. -/
def mxOperandB (s : State) (c : Nat) (q : MCmd) : State × MCmd × MxGot :=
  if q.isTeam && tspace q.tb == 0 then
    let (s, r) := teamFetch s q q.prog
    (s, q, r)
  else mxOperand s c q true

/-- The least number of k-steps a member of a team command has completed. -/
def TeamCmd.least (k : TeamCmd) : Nat := (k.prog.map Prod.snd).foldl min 65536

/-- Books a member's k-steps; fetched steps that every member has consumed are let go (10 R247). -/
def teamProg (s : State) (q : MCmd) (n : Nat) : State :=
  match q.team with
  | some (_, r, _) =>
    if q.isTeam then
      modTeam s q (fun k =>
        let k := { k with prog := k.prog.ins r n }
        { k with steps := k.steps.filter (fun t => decide (k.least ≤ t.step)) })
    else s
  | none => s

/-- No member completes k-step s + 8 before every member has completed k-step s (10 R247). -/
def teamMay (s : State) (q : MCmd) : Bool :=
  if q.isTeam then match teamOf? s q with | some k => decide (q.prog < k.least + 8) | none => true else true

/-- The command waits for operands since now, where it has taken its first. -/
def MCmd.waitFrom (q : MCmd) (clock : W64) : MCmd :=
  if q.wsince.isSome ∨ q.prog = 0 then q else { q with wsince := some clock }

/-- The cc that the array took for a k-step that ends now: since the command's last one and since the last of any command of the core,
up to where it began to wait for operands; none where its team held it (17 R388). -/
def MCmd.computed (q : MCmd) (last clock : W64) : W32 :=
  let start := if q.tDone < last then last else q.tDone
  let stop := q.wsince.getD clock
  if q.prog = 0 ∨ q.teamHeld = true ∨ stop < start then 0 else (stop - start).setWidth 32

/-- A k-step with its operands (10 R246). -/
def mxDo (s : State) (c : Nat) (q : MCmd) (as bs : List MxEl) (pois : Bool) : State :=
  let n := nRings s c q.by_.gang
  let fmt (d : Option Side) : Nat := match d with | some d => d.fmt | none => 0
  let clock := (s.core c).clock
  let (s, e, p) := mxCompute s c q (fmt (q.side false n)) (fmt (q.side true n)) as bs
  let s := if pois || p then engPoison s (mxAt c q) else s
  let (s, q) := mxDrain s c q false
  let (s, q) := mxDrain s c q true
  let q : MCmd := { q with
    prog := q.prog + 1, exc := q.exc ||| e ||| (if pois || p then 1 else 0), tDone := clock, wsince := none,
    tIn := if q.prog = 0 then clock else q.tIn, comp := q.comp + q.computed (s.core c).mxLast clock,
    wait := match q.wsince with | some t => q.wait + (clock - t).setWidth 32 | none => q.wait }
  let s := countEvent s (clusterOf c) q.by_.vf 10 1
  let s := s.modCore c (fun k => { k with mxLast := clock })
  let s := teamProg s q q.prog
  let q : MCmd := { q with teamHeld := !teamMay s q }
  let s := modMx s c q.id (fun _ => q)
  if q.prog < q.ksteps ∧ ¬(mxReadable s c q false = true ∧ mxReadable s c q true = true) then
    modMx s c q.id (fun q => q.waitFrom clock)
  else s

/-- MXE_KSTEP (10 R246 to R248): the next k-step of a started command; a page it waits for stops it at the boundary; a refused fetch
ends it, and its remaining ring places are drained without reading (R241). -/
def execMxeKstep (core cmd : Nat) (s : State) : Res :=
  match (s.core core).mx.find? (fun q => q.id == cmd) with
  | none => .fault .notEnabled
  | some q =>
    if q.status ≠ 0 then
      if q.stA = [] ∧ q.stB = [] then .fault .notEnabled
      else
        let (s, q) := mxDrainAll s core q 16
        .next (modMx s core cmd (fun _ => q))
    else if !q.started || q.opc == 0xDA || decide (q.ksteps ≤ q.prog) || !teamMay s q ||
            !(mxReadable s core q false && mxReadable s core q true) then .fault .notEnabled
    else
      let (s, q, a) := mxOperand s core q false
      let (s, q, b) := mxOperandB s core q
      match a, b with
      | .ok as p, .ok bs p' => .next (mxDo s core q as bs (p || p'))
      | .err x, .err y => .next (modMx (teamProg s q 65536) core cmd (fun _ => { q with status := min x y }))
      | .err x, _ => .next (modMx (teamProg s q 65536) core cmd (fun _ => { q with status := x }))
      | _, .err y => .next (modMx (teamProg s q 65536) core cmd (fun _ => { q with status := y }))
      | _, _ => .next (modMx s core cmd (fun _ => q.waitFrom (s.core core).clock))

/-- A command has done all it will (10 R241, R248; 04 R107). -/
def mxDone (s : State) (c : Nat) (q : MCmd) : Bool :=
  q.accepted && (q.status != 0 || (q.started && (q.opc == 0xDA || decide (q.ksteps ≤ q.prog)))) &&
  q.leftA == 0 && q.leftB == 0 &&
  (q.opc == 0xDA || q.f.m 4 1 == 0 ||
    ((s.core c).wq.all (fun e => !releaseWaitsFor (q.f.m 7 4) e) && portsRead (s.core c) (q.f.m 7 4)))

/-- The wave's status after a completion (10 R250). -/
def MStat.complete (p : MStat) (q : MCmd) : MStat :=
  let p := { p with exc := p.exc ||| q.exc }
  if q.status ≠ 0 ∧ (p.err = 0 ∨ q.ordinal < p.errSeq) then
    { p with err := BitVec.ofNat 8 q.status, errSeq := q.ordinal }
  else p

/-- Completes a command: its tile stands until it retires, at once where a later accepted command names it (10 R243, R249, R250). -/
def mxEnd (s : State) (c : Nat) (q : MCmd) : State :=
  let clock := (s.core c).clock
  let s := if q.opc = 0xDA ∧ q.status = 0 then
      s.modCore c (fun k => q.zs.foldl (fun k z => zSetSlot k z []) k)
    else s
  let tin := if q.prog = 0 then clock else q.tIn
  let q : MCmd := { q with tIn := tin, tDone := if q.prog = 0 then clock else q.tDone }
  let s := teamProg s q 65536
  let s := modUid s c q.by_.wave q.by_.uid (fun w => ({ w with mstat := w.mstat.complete q }).lower q.by_.flag)
  let s := { s with peers := s.peers.filter (fun p => p.cmd != some (c, 1, q.id)) }
  let s := match teamOf? s q with
    | some k => if k.prog.all (fun p => p.2 == 65536) && q.team.any (fun (t : Nat × Nat × Nat) => k.sigs.length == t.2.2) then
        { s with sched := { s.sched with teamCmds := s.sched.teamCmds.filter (fun x => x != k) } } else s
    | none => s
  let named := (s.core c).mx.any (fun p => decide (q.ord < p.ord) && p.accepted && p.status == 0 && p.zs.any q.zs.contains)
  let s := s.modCore c (fun k =>
    ({ k with mx := k.mx.filter (fun p => p.id != q.id), tiles := k.tiles ++ [TileRec.mk q] } : Core).unspill.trimKeep)
  let gone := (findUid s c q.by_.wave q.by_.uid).isNone
  if named || gone then retireTile s c q 0 else s

/-- MXE_COMPLETE (10 R248). -/
def execMxeComplete (core cmd : Nat) (s : State) : Res :=
  match (s.core core).mx.find? (fun q => q.id == cmd) with
  | none => .fault .notEnabled
  | some q => if mxDone s core q then .next (mxEnd s core q) else .fault .notEnabled

end Sys2Proof.Machine
end

