-- ==== Sys2Proof/Machine/Trace.lean ====
section
/-! DEFINITION. The geometry of beams and rays: sub-rays, boxes, triangles and results (11 R256 to R264). -/

namespace Sys2Proof.Machine

/-! ## Exact FP32 values -/

/-- Round(e, FP32, RN) of an exact value, as its code. -/
def rnCode (x : Ex) : Nat := (roundNum .fp32 0 false x).1
/-- Its value; none where it overflows to an infinity. -/
def rn (x : Ex) : Option Ex := match decodeF .fp32 (rnCode x) with | .num y => some y | _ => none
/-- A finite FP32 code's value. -/
def fin32 (w : W32) : Option Ex := match decodeF .fp32 w.toNat with | .num y => some y | _ => none
/-- Zero. -/
def Ex.o : Ex := Ex.zero false
/-- The difference. -/
def Ex.sub (x y : Ex) : Ex := x.add y.opp
/-- The quotient by a number that is not zero. -/
def Ex.quot (x y : Ex) : Ex := { neg := xor x.neg y.neg, n := x.n * y.d, d := x.d * y.n, e := x.e - y.e }
/-- Below zero. -/
def Ex.minus (x : Ex) : Bool := x.neg && x.n != 0
/-- The magnitude. -/
def Ex.abs (x : Ex) : Ex := { x with neg := false }
/-- x ≤ y. -/
def Ex.le (x y : Ex) : Bool := !y.lt x
/-- The larger. -/
def Ex.max (x y : Ex) : Ex := if x.lt y then y else x
/-- The smaller. -/
def Ex.min (x y : Ex) : Ex := if y.lt x then y else x

/-- Element i of three numbers. -/
def at3 (v : List Ex) (i : Nat) : Ex := v.getD i Ex.o
/-! ## Records -/

/-- FP32 word at an offset of a record. -/
def recW (r : List Byte) (o : Nat) : W32 := BitVec.ofNat 32 (recNat r o 4)
/-- Three FP32 words. -/
def recV (r : List Byte) (o : Nat) : List W32 := [recW r o, recW r (o + 4), recW r (o + 8)]

/-- A query's fields (11 R256). -/
def Query.beamAt (q : Query) : Nat := recNat q.qrec 0 8
/-- See Query.beamAt. -/
def Query.root (q : Query) : W64 := BitVec.ofNat 64 (recNat q.qrec 8 8)
/-- See Query.beamAt. -/
def Query.res (q : Query) : Nat := recNat q.qrec 16 8
/-- See Query.beamAt. -/
def Query.handler (q : Query) : Nat := recNat q.qrec 24 8
/-- See Query.beamAt. -/
def Query.sqoff (q : Query) : Nat := recNat q.qrec 32 4
/-- RAYQ takes no split queue. -/
def Query.sqcap (q : Query) : Nat := if q.opc = 0xE9 then 0 else recNat q.qrec 36 2
/-- See Query.beamAt. -/
def Query.imask (q : Query) : Nat := recNat q.qrec 38 1
/-- See Query.beamAt. -/
def Query.rg (q : Query) : Bool := (recNat q.qrec 39 1).testBit 0
/-- See Query.beamAt. -/
def Query.nospawn (q : Query) : Bool := (recNat q.qrec 39 1).testBit 1
/-- See Query.beamAt. -/
def Query.rpitch (q : Query) : Nat := recNat q.qrec 40 4
/-- CTRL of the beam record (11 R257). -/
def Query.ctrl (q : Query) : Nat := recNat q.beam 60 4
/-- Grid width: of RAYQ, the ray count. -/
def Query.w (q : Query) : Nat := if q.opc = 0xE9 then q.rays else bits q.ctrl 5 0 + 1
/-- Grid height. -/
def Query.h (q : Query) : Nat := if q.opc = 0xE9 then 1 else bits q.ctrl 11 6 + 1
/-- CULL, of the beam record or of RFLAGS. -/
def Query.cull (q : Query) : Nat := if q.opc = 0xE9 then bits (recNat q.qrec 44 1) 2 1 else bits q.ctrl 23 22
/-- ANYHIT. -/
def Query.anyHit (q : Query) : Bool := if q.opc = 0xE9 then (recNat q.qrec 44 1).testBit 0 else q.ctrl.testBit 21
/-- SPOL. -/
def Query.spol (q : Query) : Nat := bits q.ctrl 25 24
/-- MAXD. -/
def Query.maxd (q : Query) : Nat := bits q.ctrl 31 28
/-- KIND is a cone. -/
def Query.cone (q : Query) : Bool := q.ctrl.testBit 20

/-- A beam record as R257 takes it. -/
def beamOk (b : List Byte) : Bool :=
  let ctrl := recNat b 60 4
  let cone := ctrl.testBit 20
  let fin (o : Nat) : Bool := (fin32 (recW b o)).isSome
  let v (o : Nat) : Ex := (fin32 (recW b o)).getD Ex.o
  let tmax := decodeF .fp32 (recNat b 16 4)
  bits ctrl 27 26 == 0 && bits ctrl 19 12 == 0 && bits ctrl 25 24 != 3 && bits ctrl 23 22 != 3 &&
  ([0, 4, 8, 12, 20, 24, 28, 32, 36, 40, 44].all fin) && (cone || [48, 52, 56].all fin) &&
  !(v 12).minus &&
  (match tmax with | .num x => !x.lt (v 12) | .inf neg => !neg | .nan _ => false) &&
  (if cone then !(v 44).minus && (List.range 12).all (fun i => recNat b (48 + i) 1 == 0)
   else (v 44).le (v 48) && (v 52).le (v 56))

/-! ## Sub-rays -/

/-- A segment: origin, direction, TMIN, TMAX (none for +∞). -/
structure Sub where
  o : List Ex
  d : List Ex
  t0 : Ex
  t1 : Option Ex
  deriving DecidableEq, Repr

/-- A segment, or none where a component is not finite or the direction is all zero (11 R258). -/
def Sub.mk' (o d : Option (List Ex)) (t0 : Ex) (t1 : Option Ex) : Option Sub :=
  match o, d with
  | some o, some d => if d.all (fun x => x.n == 0) then none else some { o := o, d := d, t0 := t0, t1 := t1 }
  | _, _ => none

/-- Sub-ray (x, y) of a beam record: whether it is present, and its segment (11 R258). -/
def beamRay (b : List Byte) (cone : Bool) (w h x y : Nat) : Bool × Option Sub :=
  let v (o : Nat) : Ex := (fin32 (recW b o)).getD Ex.o
  let axis := [v 20, v 24, v 28]
  let tu := [v 32, v 36, v 40]
  let c := v 44
  let (u0, u1, v0, v1) := if cone then (c.opp, c, c.opp, c) else (v 44, v 48, v 52, v 56)
  let cross (i j : Nat) : Option Ex := rn (((at3 axis i).mul (at3 tu j)).sub ((at3 axis j).mul (at3 tu i)))
  let frac (i n : Nat) : Ex := { neg := false, n := 2 * i + 1, d := 2 * n, e := 0 }
  let su := rn (u0.add ((u1.sub u0).mul (frac x w)))
  let sv := rn (v0.add ((v1.sub v0).mul (frac y h)))
  let present := !cone || (match su, sv with
    | some a, some e => ((a.mul a).add (e.mul e)).le (c.mul c)
    | _, _ => false)
  let d := match su, sv, allSome [cross 1 2, cross 2 0, cross 0 1] with
    | some a, some e, some vv =>
      allSome ((List.range 3).map (fun k => rn (((at3 axis k).add (a.mul (at3 tu k))).add (e.mul (at3 vv k)))))
    | _, _, _ => none
  (present, if present then Sub.mk' (some [v 0, v 4, v 8]) d (v 12) (fin32 (recW b 16)) else none)

/-- Ray record r of RAYQ (11 R258). -/
def rayOf (r : List Byte) : Option Sub :=
  let fin (ws : List W32) : Option (List Ex) := allSome (ws.map fin32)
  match fin32 (recW r 12), decodeF .fp32 (recNat r 28 4) with
  | some t0, .num t1 => if t0.minus ∨ t1.lt t0 = true then none else Sub.mk' (fin (recV r 0)) (fin (recV r 16)) t0 (some t1)
  | some t0, .inf false => if t0.minus then none else Sub.mk' (fin (recV r 0)) (fin (recV r 16)) t0 none
  | _, _ => none

/-- Cell (x, y) of a query: present, and its segment in world space. -/
def Query.ray (q : Query) (x y : Nat) : Bool × Option Sub :=
  if q.opc = 0xE9 then (true, rayOf ((q.beam.drop (32 * x)).take 32)) else beamRay q.beam q.cone q.w q.h x y

/-- A segment carried into an instance's object space; world space where no transform is named (11 R260). -/
def Sub.into (m : List W32) (r : Option Sub) : Option Sub :=
  if m = [] then r
  else
    match r, allSome (m.map fin32) with
    | some r, some m =>
      let row (k : Nat) (v : List Ex) : Ex :=
        (((at3 m (4 * k)).mul (at3 v 0)).add ((at3 m (4 * k + 1)).mul (at3 v 1))).add ((at3 m (4 * k + 2)).mul (at3 v 2))
      Sub.mk' (allSome ((List.range 3).map (fun k => rn ((row k r.o).add (at3 m (4 * k + 3))))))
              (allSome ((List.range 3).map (fun k => rn (row k r.d)))) r.t0 r.t1
    | _, _ => none

/-! ## Boxes -/

/-- A real, or an infinity: −1 below all, 1 above all. -/
def Val.leX (x y : Val) : Bool :=
  match x, y with
  | .inf a, .inf b => a || !b
  | .inf a, .num _ => a
  | .num _, .inf b => !b
  | .num a, .num b => a.le b
  | _, _ => false

/-- The parameter at which a segment's axis value reaches a bound; its direction there is not zero. -/
def slabAt (b : Val) (o d : Ex) : Val :=
  match b with
  | .num x => .num ((x.sub o).quot d)
  | .inf n => .inf (xor n d.minus)
  | v => v

/-- The range [lo, hi] of parameters that one axis leaves; none when it leaves nothing. -/
def slabCut (lo hi : Val) (o d : Ex) (r : Option (Val × Val)) : Option (Val × Val) :=
  match r with
  | none => none
  | some (a, b) =>
    if d.n = 0 then (if lo.leX (.num o) && (Val.num o).leX hi then some (a, b) else none)
    else
      let x := slabAt lo o d
      let y := slabAt hi o d
      let (x, y) := if x.leX y then (x, y) else (y, x)
      some (if a.leX x then x else a, if y.leX b then y else b)

/-- A segment meets a box, exactly (11 R259, R263): a NaN bound meets every segment. -/
def meetsBox (r : Option Sub) (box : List W32) : Bool :=
  match r with
  | none => false
  | some r =>
    let v := box.map (fun w => decodeF .fp32 w.toNat)
    if v.any Val.isNan then true
    else
      let lo (k : Nat) : Val := v.getD k default
      let hi (k : Nat) : Val := v.getD (k + 3) default
      if (List.range 3).any (fun k => !(lo k).leX (hi k)) then false
      else
        match (List.range 3).foldl (fun c k => slabCut (lo k) (hi k) (at3 r.o k) (at3 r.d k) c)
            (some (.num r.t0, match r.t1 with | some t => .num t | none => .inf false)) with
        | some (a, b) => a.leX b && a != .inf false
        | none => false

/-! ## Triangles -/

/-- The three vertices' X, Y and Z of R261, all finite. -/
def shear (r : Sub) (kx ky kz : Nat) (sx sy sz : Ex) (ps : List (List Ex)) : Option (List (List Ex)) :=
  allSome (ps.map (fun p =>
    match allSome ((List.range 3).map (fun k => rn ((at3 p k).sub (at3 r.o k)))) with
    | none => none
    | some q => allSome [rn ((at3 q kx).sub (sx.mul (at3 q kz))), rn ((at3 q ky).sub (sy.mul (at3 q kz))), rn (sz.mul (at3 q kz))]))

/-- A sub-ray's hit of a triangle, with CULL: the words T, b1 and b2 (11 R261). -/
def hitTri (r : Option Sub) (cull : Nat) (ps : List (List W32)) : Option (W32 × W32) :=
  match r, allSome (ps.map (fun p => allSome (p.map fin32))) with
  | some r, some ps =>
    let d (k : Nat) : Ex := at3 r.d k
    let kz := (List.range 3).foldl (fun b k => if (d b).abs.lt (d k).abs then k else b) 0
    let k1 := (kz + 1) % 3
    let k2 := (kz + 2) % 3
    let (kx, ky) := if (d kz).minus then (k2, k1) else (k1, k2)
    match rn ((d kx).quot (d kz)), rn ((d ky).quot (d kz)), rn ((Ex.ofInt 1).quot (d kz)) with
    | some sx, some sy, some sz =>
      match shear r kx ky kz sx sy sz ps with
      | none => none
      | some vs =>
        let x (i : Nat) : Ex := at3 (vs.getD i []) 0
        let y (i : Nat) : Ex := at3 (vs.getD i []) 1
        let z (i : Nat) : Ex := at3 (vs.getD i []) 2
        let e0 := ((x 2).mul (y 1)).sub ((y 2).mul (x 1))
        let e1 := ((x 0).mul (y 2)).sub ((y 0).mul (x 2))
        let e2 := ((x 1).mul (y 0)).sub ((y 1).mul (x 0))
        let es := [e0, e1, e2]
        if es.any Ex.minus && es.any (fun e => !e.neg && e.n != 0) then none
        else
          match rn ((e0.add e1).add e2), rn (((e0.mul (z 0)).add (e1.mul (z 1))).add (e2.mul (z 2))) with
          | some det, some num =>
            if det.n = 0 then none
            else
              match rn (num.quot det) with
              | none => none
              | some t =>
                let far := match r.t1 with | some m => m.lt t | none => false
                if t.lt r.t0 || far || (cull == 1 && det.minus) || (cull == 2 && !det.minus) then none
                else
                  let tc := if t.n = 0 then 0 else rnCode t
                  let b (e : Ex) : Nat := (roundNum .fp16 0 false (e.quot det)).1
                  some (BitVec.ofNat 32 tc, BitVec.ofNat 32 (b e1 + 65536 * b e2))
          | _, _ => none
    | _, _, _ => none
  | _, _ => none

/-! ## Results -/

/-- The words of a record of R262. -/
def missRec : List W32 := [0x7F800000, 0xFFFFFFFF, 0xFFFFFFFF, 0]
/-- See missRec. -/
def occRec : List W32 := [0xFF800000, 0xFFFFFFFF, 0xFFFFFFFF, 0]
/-- See missRec. -/
def errRec (code : Nat) : List W32 := [0x7FC00000, BitVec.ofNat 32 code, 0xFFFFFFFF, 0]
/-- The bytes of a record. -/
def recBytes (r : List W32) : List Byte := r.flatMap (fun w => leBytes 4 w.toNat)

/-- A list of numbers precedes another of its length at the first place they differ. -/
def lexLess : List Nat → List Nat → Bool
  | x :: xs, y :: ys => decide (x < y) || (x == y && lexLess xs ys)
  | _, _ => false

/-- A candidate is chosen before another: OCCLUDED, or the smaller key (t, PRIM, INST); T is never below +0, so codes compare as the
numbers do (11 R262). Among candidates of one key the smaller BARY is chosen, so that the order of visits decides nothing.  [log 131: DESIGN CHOICE, unsafe] -/
def betterRec (a b : List W32) : Bool :=
  if b = occRec then false
  else if a = occRec then true
  else lexLess (a.map BitVec.toNat) (b.map BitVec.toNat)

/-- Halves of a range of n cells from x (11 R265). -/
def halves (x n : Nat) : List (Nat × Nat) := if n ≤ 1 then [(x, n)] else [(x, (n + 1) / 2), (x + (n + 1) / 2, n / 2)]

end Sys2Proof.Machine
end

