-- ==== Sys2Proof/Machine/Colander.lean ====
section
/-! DEFINITION. The Colander: queries, continuations, traversal, split records and spawned waves (11 R265 to R276). -/

namespace Sys2Proof.Machine

/-! ## Queries and their records -/

/-- Changes a core's Colander. -/
def modCol (s : State) (c : Nat) (g : Colander → Colander) : State := s.modCore c (fun k => { k with col := g k.col })

/-- Changes a live query. -/
def modQuery (s : State) (c : Nat) (qid : W32) (g : Query → Query) : State :=
  modCol s c (fun k => { k with live := k.live.map (fun q => if q.qid = qid then g q else q) })

/-- The live query of an ordinal. -/
def query? (s : State) (c : Nat) (qid : W32) : Option Query := (s.core c).col.live.find? (fun q => q.qid == qid)

/-- The lowest code met (11 R274). -/
def Query.meet (q : Query) (code : Nat) : Query := { q with code := if q.code = 0 then code else min q.code code }

/-- The status of an engine read's or write's error (11 R274). -/
def colCode (k : Nat) : Nat := if k = 12 then 7 else if k = 9 then 6 else 5

/-- The Colander's party for a command. -/
def colAt (c : Nat) (b : Issuer) (qid : W32) : EngAt := { core := some c, by_ := b, kind := 2, id := qid.toNat, ordinal := qid }

/-- A cell's number within the grid. -/
def Query.cell (q : Query) (x y : Nat) : Nat := y * q.w + x

/-- Where a cell's result record lies (11 R262). -/
def Query.recAt (q : Query) (cell : Nat) : Nat :=
  if q.opc = 0xE9 then q.res + 16 * cell else q.res + cell / q.w * q.rpitch + 16 * (cell % q.w)

/-- A merge as its core's write queue holds it: it names its cell and its record. -/
def mergeEntry (g : EngAt) (t : Target) (q : Query) (r : Nat × List W32) : WqEntry :=
  { g.entry t (BitVec.ofNat 64 (q.recAt r.1)) (recBytes r.2) [] [] 0 with more := r.1 :: r.2.map BitVec.toNat }

/-- Merges records into the results: at the G port under RG, else written like the core's stores once every page is at hand; for each
record none where its write was made, and the code where it was refused (11 R271). None while one waits. [log 75: DEDUCED, unsafe] -/
def mergeRecs (s : State) (c : Nat) (g : EngAt) (q : Query) (ps : Pages) (rs : List (Nat × List W32)) :
    State × Pages × Option (List (Option Nat)) :=
  if q.rg then
    (rs.foldl (fun s r => locPut s c q.by_.gang 0 (q.recAt r.1) (recBytes r.2) []) s, ps, some (rs.map (fun _ => none)))
  else
    let (s, ps, ts) := rs.foldl (fun (x : State × Pages × List WTo) r =>
      let (s, ps, t) := engProbe x.1 g x.2.1 (BitVec.ofNat 64 (q.recAt r.1)) 16 false
      (s, ps, x.2.2 ++ [t])) (s, ps, [])
    if ts.any (· == .wait) then (s, ps, none)
    else
      let (s, ks) := (rs.zip ts).foldl (fun (x : State × List (Option Nat)) w =>
        match w.2 with
        | .to t => (engPush x.1 g (mergeEntry g t q w.1), x.2 ++ [none])
        | .elided _ _ _ => (x.1, x.2 ++ [some 6])
        | .err e => (x.1, x.2 ++ [some (colCode e)])
        | .wait => x) (s, [])
      (s, ps, some ks)

/-- The records of a list whose merges were made. -/
def merged (rs : List (Nat × List W32)) (ks : List (Option Nat)) : List (Nat × List W32) :=
  ((rs.zip ks).filter (fun x => x.2.isNone)).map Prod.fst

/-- The codes of the merges that were refused. -/
def refusals (ks : List (Option Nat)) : List Nat := ks.filterMap id

/-- A table of lists with a value put at the head of one of them. -/
def tabPush {α : Type} (t : Tab (List α)) (i : Nat) (a : α) : Tab (List α) := t.ins i (a :: Tab.get [] t i)

/-- A table of lists with a value taken out of one of them; no list is kept empty. -/
def tabDrop {α : Type} [BEq α] (t : Tab (List α)) (i : Nat) (a : α) : Tab (List α) :=
  match (Tab.get [] t i).erase a with
  | [] => t.filter (fun e => e.1 != i)
  | l => t.ins i l

/-- The record a query last wrote for a cell, and the code of its ERROR record. -/
def Query.bestAt (q : Query) (i : Nat) : Option (List W32) := (Tab.get [] q.best i).head?
/-- See bestAt. -/
def Query.failedAt (q : Query) (i : Nat) : Option Nat := (Tab.get [] q.failed i).head?

/-- A merge on its way to memory is refused: its cell keeps the record it held before (11 R271). -/
def dropMerge (q : Query) (more : List Nat) : Query :=
  match more with
  | i :: r =>
    { q with best := tabDrop q.best i (r.map (BitVec.ofNat 32)),
             failed := if r.headD 0 = 0x7FC00000 then tabDrop q.failed i ((r.drop 1).headD 0) else q.failed }
  | [] => q

/-- The split record's bytes (11 R266). -/
def splitBytes (q : Query) (r : SplitRec) : List Byte :=
  leBytes 4 r.seq.toNat ++ leBytes 4 q.qid.toNat ++ leBytes 8 r.node.toNat ++ leBytes 8 q.addr.toNat ++ leBytes 8 ((r.inst.map BitVec.toNat).getD 0) ++
  leBytes 1 r.x0 ++ leBytes 1 r.y0 ++ leBytes 1 r.cw ++ leBytes 1 r.ch ++ leBytes 1 r.depth ++ leBytes 1 r.state ++
  List.replicate 26 0

/-- Sets a split record's STATE, in the Colander and in G (11 R267). -/
def setRec (s : State) (c : Nat) (q : Query) (seq : W32) (g : SplitRec → SplitRec) : State :=
  match q.recs.find? (fun r => r.seq == seq) with
  | none => s
  | some r =>
    let s := modQuery s c q.qid (fun q => { q with recs := q.recs.map (fun r => if r.seq = seq then g r else r) })
    locPut s c q.by_.gang 0 (r.off + 37) (leBytes 1 (g r).state) []

/-- Records of a query that are not DONE. -/
def Query.open_ (q : Query) : Nat := (q.recs.filter (fun r => decide (r.state < 2))).length

/-- The record whose slot lies at a G offset, among a gang's live queries: the latest written there. -/
def recAt? (s : State) (c gang a : Nat) : Option (Query × SplitRec) :=
  (s.core c).col.live.findSome? (fun q =>
    if q.by_.gang = gang then (q.recs.reverse.find? (fun r => r.off == a)).map (fun r => (q, r)) else none)

/-- The live query of a gang whose split queue begins at an offset (11 R273). -/
def queueAt? (s : State) (c gang a : Nat) : Option Query :=
  (s.core c).col.live.find? (fun q => q.by_.gang == gang && q.sqcap != 0 && q.sqoff == a)

/-! ## Traversal -/

/-- Adds pending references. -/
def addBeams (s : State) (c : Nat) (bs : List Beam) : State :=
  modCol s c (fun k => { k with beams := k.beams ++ (bs.zipIdx).map (fun (b : Beam × Nat) => { b.1 with id := k.nextId + b.2, waits := [] }),
                                nextId := k.nextId + bs.length })

/-- Drops a pending reference. -/
def dropBeam (s : State) (c id : Nat) : State := modCol s c (fun k => { k with beams := k.beams.filter (fun b => b.id != id) })

/-- Keeps a pending reference that waits on page requests. -/
def waitBeam (s : State) (c id : Nat) (ps : Pages) : State :=
  modCol s c (fun k => { k with beams := k.beams.map (fun b => if b.id = id then { b with waits := ps } else b) })

/-- Cells of a beam's window that hold a present sub-ray. -/
def Beam.cells (b : Beam) (q : Query) : List (Nat × Nat) :=
  ((List.range b.ch).flatMap (fun j => (List.range b.cw).map (fun i => (b.x0 + i, b.y0 + j)))).filter (fun p => (q.ray p.1 p.2).1)

/-- Cells whose sub-rays meet, exactly, the box that holds a beam's reference: all where no box holds it. -/
def Beam.meeting (b : Beam) (q : Query) : List (Nat × Nat) :=
  match b.box with
  | none => b.cells q
  | some box => (b.cells q).filter (fun p => meetsBox (Sub.into b.boxM (q.ray p.1 p.2).2) box)

/-- Classification of the box that holds a reference (11 R264). -/
inductive Cls where
  | in_ | out | part
  deriving DecidableEq, Repr

/-- The truth, or PART where the Colander's interval arithmetic may answer so; a beam of one sub-ray is classified by truth. [log 78: DESIGN CHOICE, unsafe] -/
def Beam.classify (b : Beam) (q : Query) : Cls :=
  let all := b.cells q
  let met := b.meeting q
  let truth : Cls := if met.isEmpty then .out else if met.length = all.length then .in_ else .part
  if b.cw * b.ch = 1 then truth
  else
    match b.box with
    | none => truth
    | some box =>
      if Config.classifyPart (q.beam.map BitVec.toNat ++ [b.x0, b.y0, b.cw, b.ch]) ((box ++ b.boxM).map BitVec.toNat) then .part else truth

/-- A reference that cannot be followed: its code is met, and sub-rays that meet the box holding it get ERROR records (11 R275). [log 73: DESIGN CHOICE, unsafe] -/
def failBeam (s : State) (c : Nat) (g : EngAt) (q : Query) (b : Beam) (code : Nat) : State :=
  let cells := ((b.meeting q).map (fun p => q.cell p.1 p.2)).filter (fun i =>
    match q.failedAt i with | some k => decide (code < k) | none => true)
  let rs := cells.map (fun i => (i, errRec code))
  match mergeRecs s c g q b.waits rs with
  | (s, ps, none) => waitBeam s c b.id ps
  | (s, _, some ks) =>
    let s := modQuery s c q.qid (fun q =>
      let q := { q with failed := (merged rs ks).foldl (fun t (r : Nat × List W32) => tabPush t r.1 code) q.failed }
      (refusals ks).foldl Query.meet (q.meet code))
    dropBeam s c b.id

/-- Books poison met by a query's reads (11 R274). -/
def colPoison (s : State) (c : Nat) (g : EngAt) (qid : W32) (bad : Bool) : State :=
  if bad then modQuery (engPoison s g) c qid (fun q => { q with poison := true }) else s

/-- What the Colander's read of a record brings once every sector is answered: its bytes, poisoned ones +0; whether it met poison; the
codes met (11 R274). -/
structure ColGot where
  bytes : List Byte
  bad : Bool
  codes : List Nat
  deriving DecidableEq, Repr

/-- The lowest code of a read, 0 for none. -/
def ColGot.code (r : ColGot) : Nat := match r.codes with | k :: ks => ks.foldl min k | [] => 0

/-- The Colander reads n bytes at va, sector by sector; none while one waits (11 R265, R274). -/
def colRead (s : State) (g : EngAt) (ps : Pages) (va n : Nat) : State × Pages × Option ColGot :=
  (sectorsOf va n).foldl (fun (x : State × Pages × Option ColGot) a =>
    match engRecord x.1 g x.2.1 a.1 a.2 with
    | (s, ps, .wait) => (s, ps, none)
    | (s, ps, .err k) => (s, ps, x.2.2.map (fun r => { r with codes := r.codes ++ [colCode k] }))
    | (s, ps, .ok b p) => (s, ps, x.2.2.map (fun r => { r with bytes := r.bytes ++ b, bad := r.bad || !p.isEmpty })))
    (s, ps, some { bytes := [], bad := false, codes := [] })

/-- A leaf's triangles: every present sub-ray's hits are merged (11 R260 to R262, R265). -/
def leafVisit (s : State) (c : Nat) (g : EngAt) (q : Query) (b : Beam) (bytes : List Byte) : State :=
  let tris := (List.range (bytes.length / 64)).map (fun i => (bytes.drop (64 * i)).take 64)
  if tris.any (fun t => 1 < recNat t 40 4) then failBeam s c g q b 4
  else
    let id : W32 := if b.inst.isNone then 0xFFFFFFFF else b.instId
    let hit (r : Option Sub) (t : List Byte) : Option (List W32) :=
      (hitTri r (if recNat t 40 4 = 1 then 0 else q.cull) [recV t 0, recV t 12, recV t 24]).map (fun h =>
        if q.anyHit then occRec else [h.1, recW t 36, id, h.2])
    let new := (b.cells q).filterMap (fun p =>
      let i := q.cell p.1 p.2
      let r := Sub.into b.instM (q.ray p.1 p.2).2
      let best := (tris.filterMap (hit r)).foldl (fun (x : Option (List W32)) h =>
        match x with | none => some h | some y => if betterRec h y then some h else x) none
      match best, q.bestAt i with
      | none, _ => none
      | some h, none => some (i, h)
      | some h, some y => if betterRec h y then some (i, h) else none)
    let rs := new.filter (fun r => (q.failedAt r.1).isNone)
    match mergeRecs s c g q b.waits rs with
    | (s, ps, none) => waitBeam s c b.id ps
    | (s, _, some ks) =>
      let s := modQuery s c q.qid (fun q => (refusals ks).foldl Query.meet
        { q with best := (merged rs ks).foldl (fun t (r : Nat × List W32) => tabPush t r.1 r.2) q.best })
      dropBeam s c b.id

/-- The target of a reference: INNER 128 bytes, LEAF its triangles, INSTANCE its record. -/
def refBytes (ref : W64) : Nat :=
  match (ref.extractLsb' 4 2).toNat with
  | 1 => 128
  | 2 => 64 * ((ref.extractLsb' 0 4).toNat + 1)
  | _ => 64

/-- Children of an inner node under a beam (11 R259). -/
def innerVisit (s : State) (c : Nat) (b : Beam) (bytes : List Byte) : State :=
  let kids := (List.range 4).filterMap (fun i =>
    let ref : W64 := BitVec.ofNat 64 (recNat bytes (32 * i + 24) 8)
    if (ref &&& 0x3F) = 0 then none
    else some { b with ref := ref, box := some (recV bytes (32 * i) ++ recV bytes (32 * i + 12)), boxM := b.instM, start := false })
  addBeams (dropBeam s c b.id) c kids

/-- The instance's root, in its object space (11 R260). -/
def instVisit (s : State) (c : Nat) (q : Query) (b : Beam) (bytes : List Byte) : State :=
  if recNat bytes 60 1 &&& q.imask = 0 then dropBeam s c b.id
  else
    addBeams (dropBeam s c b.id) c [{ b with
      ref := BitVec.ofNat 64 (recNat bytes 48 8), inst := some (b.ref &&& 0xFFFFFFFFFFFFFFC0),
      instM := (List.range 12).map (fun i => recW bytes (4 * i)), instId := recW bytes 56, start := true }]

/-- Descends a reference as one beam (11 R259, R260, R265, R275). -/
def descend (s : State) (c : Nat) (g : EngAt) (q : Query) (b : Beam) : State :=
  let type := (b.ref.extractLsb' 4 2).toNat
  let cnt := (b.ref.extractLsb' 0 4).toNat
  if type ≠ 2 ∧ cnt ≠ 0 then failBeam s c g q b 4
  else if type = 0 then dropBeam s c b.id
  else if type = 3 ∧ b.inst.isSome = true then failBeam s c g q b 4
  else
    match colRead s g b.waits (b.ref.toNat / 64 * 64) (refBytes b.ref) with
    | (s, ps, none) => waitBeam s c b.id ps
    | (s, ps, some r) =>
      let s := colPoison s c g q.qid r.bad
      let b := { b with waits := ps }
      if r.code ≠ 0 then failBeam s c g q b r.code
      else
        match type with
        | 1 => innerVisit s c b r.bytes
        | 2 => leafVisit s c g q b r.bytes
        | _ => instVisit s c q b r.bytes

/-- Every sub-ray goes on from the reference alone (11 R265). -/
def asRays (s : State) (c : Nat) (q : Query) (b : Beam) : State :=
  addBeams s c ((b.cells q).map (fun p => { b with x0 := p.1, y0 := p.2, cw := 1, ch := 1 }))

/-- The slot of the next record is free (11 R267). -/
def slotFree (q : Query) : Bool :=
  let n := q.recs.length
  decide (n < q.sqcap) || (match q.recs[n - q.sqcap]? with | some r => r.state == 2 | none => true)

/-- Writes a child to a split record and spawns its wave, or traverses it as rays (11 R266 to R268). [log 74: DEDUCED, unsafe] -/
def splitChild (s : State) (c : Nat) (qid : W32) (b : Beam) : State :=
  match query? s c qid with
  | none => s
  | some q =>
    let k := s.core c
    let deg (s : State) : State := asRays (modQuery s c qid (fun q => { q with degr := q.degr + 1 })) c q b
    let total := (k.col.live.map Query.open_).foldl (· + ·) 0
    if q.sqcap = 0 ∨ slotFree q = false ∨ 4096 ≤ q.open_ ∨ 1024 ≤ total then deg s
    else
      let n := q.recs.length
      let off := q.sqoff + 64 * (n % q.sqcap)
      let r : SplitRec :=
        { seq := BitVec.ofNat 32 n, off := off, node := b.ref, inst := b.inst, x0 := b.x0, y0 := b.y0, cw := b.cw, ch := b.ch,
          depth := b.depth, box := b.box, boxM := b.boxM, state := if q.nospawn then 0 else 1, claim := s.nextUid, issued := false }
      let write (s : State) : State :=
        countEvent (modQuery (locPut s c q.by_.gang 0 off (splitBytes q r) []) c qid (fun q => { q with recs := q.recs ++ [r] }))
          (clusterOf c) q.by_.vf 11 1
      if q.nospawn then write s
      else
        match s.gang? c q.by_.gang with
        | none => deg s
        | some g =>
          match attachRoom s c g 1 with
          | none => deg s
          | some (ws, zs) =>
            putWaves (write s) c g ws zs (fun _ =>
              { pc := BitVec.ofNat 64 q.handler, level := if g.priv then .h else .u, check := .call, s0 := g.args,
                s2 := BitVec.ofNat 32 off, s3 := 0, owes := false })

/-- A beam whose reference is PART (11 R265); a child that goes to a split record does so in a step of its own (11 R268). -/
def partVisit (s : State) (c : Nat) (q : Query) (b : Beam) : State :=
  let s := dropBeam s c b.id
  if q.spol = 2 ∨ q.maxd ≤ b.depth then asRays s c q b
  else
    let kids := (halves b.y0 b.ch).flatMap (fun v => (halves b.x0 b.cw).map (fun u =>
      { b with x0 := u.1, y0 := v.1, cw := u.2, ch := v.2, depth := b.depth + 1 }))
    (kids.filter (fun k => !(k.cells q).isEmpty)).foldl (fun s k =>
      addBeams s c [{ k with child := !(k.cw * k.ch == 1 || (q.spol == 0 && decide (k.depth ≤ k.base + 3))) }]) s

/-- The Colander takes the OPEN records of an ending gang's queries and traverses them as rays (11 R268). -/
def takeOpen (s : State) (c gang : Nat) : State :=
  match s.gang? c gang with
  | none => s
  | some g =>
    if g.ending = false then s
    else
      ((s.core c).col.live.filter (fun q => q.by_.gang == gang)).foldl (fun s q =>
        (q.recs.filter (fun r => r.state == 0)).foldl (fun s r =>
          let id := (s.core c).col.nextId
          let k : Cont := { id := id, ord := 0, by_ := { q.by_ with flag := none }, f := { (default : Fields) with mod := 0 },
                            qid := q.qid, seq := r.seq, accepted := true }
          let s := setRec s c q r.seq (fun r => { r with state := 1, issued := true })
          let s := modCol s c (fun k' => { k' with nextId := k'.nextId + 1, conts := k'.conts ++ [k] })
          let s := modQuery s c q.qid (fun q => { q with degr := q.degr + 1 })
          asRays s c q { (default : Beam) with
            qid := q.qid, cont := some id, ref := r.node, box := r.box, boxM := r.boxM, x0 := r.x0, y0 := r.y0, cw := r.cw,
            ch := r.ch, depth := r.depth, base := r.depth, inst := r.inst, start := true }) s) s

/-- The issuer of the command a beam belongs to. -/
def beamIssuer (s : State) (c : Nat) (q : Query) (b : Beam) : Issuer :=
  match b.cont.bind (fun i => (s.core c).col.conts.find? (fun k => k.id == i)) with
  | some k => k.by_
  | none => q.by_

/-- COLANDER_NODE_VISIT (11 R265): a pending reference is classified and acted on. -/
def execColanderNodeVisit (core beam : Nat) (s : State) : Res :=
  match (s.core core).col.beams.find? (fun b => b.id == beam) with
  | none => .fault .notEnabled
  | some b =>
    match query? s core b.qid with
    | none => .fault .notEnabled
    | some q =>
      let g := colAt core (beamIssuer s core q b) q.qid
      let done (s : State) : Res := .next (takeOpen s core q.by_.gang)
      if (b.cells q).isEmpty then done (dropBeam s core b.id)
      else if b.child then done (splitChild (dropBeam s core b.id) core q.qid { b with child := false })
      else
        -- a continuation inside an instance reads its record again
        let (s, b, go) : State × Beam × Option Nat :=
          if b.inst.isNone = true ∨ b.instM ≠ [] then (s, b, some 0)
          else
            match colRead s g b.waits ((b.inst.map BitVec.toNat).getD 0) 64 with
            | (s, ps, none) => (waitBeam s core b.id ps, b, none)
            | (s, ps, some r) =>
              (colPoison s core g q.qid r.bad,
               { b with waits := ps, instM := (List.range 12).map (fun i => recW r.bytes (4 * i)), instId := recW r.bytes 56 }, some r.code)
        match go with
        | none => done s
        | some 0 =>
          if b.start then done (descend s core g q b)
          else
            match b.classify q with
            | .out => done (dropBeam s core b.id)
            | .in_ => done (descend s core g q b)
            | .part => done (partVisit s core q b)
        | some k => done (failBeam s core g q b k)

/-! ## Issue -/

/-- BEAMQ and RAYQ at issue (11 R270, R271): the load of the query record, a QID, and a place in the intake queue. -/
def queryIssue (op : Nat) (f : Fields) (s : State) : Res :=
  issueWord op f s (fun x s =>
    match (x.active f).head? with
    | none => s
    | some l =>
      let va := x.rd64 f f.a l
      match checkWant s x op 64 (accR x.g.level) { lane := l, va := va, src := (x.rd f f.b l).setWidth 128, src2 := 0 } [] with
      | (s, _, .error k) => issueTraps s x [l] k 0 (fun _ => va) 0
      | (s, _, .ok lo) =>
        let qid := (s.core x.core).col.nextQid
        let by_ := issuerOf x op f l
        let q : Query :=
          { qid := qid, ord := (s.core x.core).nextOrd, by_ := by_, opc := op, f := f, addr := va, qrec := [], beam := [],
            rays := (x.rd f f.b l).toNat, acquired := false, code := 0, poison := false, degr := 0, recs := [], best := [],
            failed := [], waits := [] }
        let s := s.modCore x.core (fun k => { k with
          nextOrd := k.nextOrd + 1, col := { k.col with intake := k.col.intake ++ [q], nextQid := k.col.nextQid + 1 } })
        let s := s.modRun x.core x.quarter (fun r => { r with resC := r.resC - 1 })
        let s := s.modWave x.core x.wid (fun w => w.raise by_.flag)
        let id := x.wv.nextOp
        let s := addOp x { x.op op f with flag := none, lanes := [lo], n := qid.toNat } s
        writePromise x (wr32 f.dst l qid) (takeLog s x.core x.wid id))

/-- BEAMQ (11 R271). -/
def execBeamq (f : Fields) (s : State) : Res := queryIssue 0xE8 f s
/-- RAYQ (11 R271). -/
def execRayq (f : Fields) (s : State) : Res := queryIssue 0xE9 f s

/-- The load of a query record has delivered bytes 0 to 47 (11 R271, R274). -/
def queryLoaded (s : State) (c : Nat) (qid : W32) (b : List Byte) (bad : Bool) : State :=
  modCol s c (fun k => { k with intake := k.intake.map (fun q =>
    if q.qid = qid then { q with qrec := b.take 48, poison := bad } else q) })

/-- The load was refused: no query is accepted, and the flag clears (11 R271). -/
def queryDropped (s : State) (c : Nat) (qid : W32) : State :=
  match (s.core c).col.intake.find? (fun q => q.qid == qid) with
  | none => s
  | some q =>
    modUid (modCol s c (fun k => { k with intake := k.intake.filter (fun q => q.qid != qid) })) c q.by_.wave q.by_.uid
      (fun w => w.lower q.by_.flag)

/-- An earlier command, of another live query or of another unit, still holds back a continuation's access to its record; queries that
wait in the intake queue are passed (04 R109; 11 R270). -/
def contHeld (s : State) (c ord : Nat) (qid : W32) (sp : Span) : Bool :=
  let k := s.core c
  k.ladle.any (fun q => decide (q.ord < ord) && !q.refused && (q.writes s c ++ q.reads s c).any (fun w => w.meets sp)) ||
  k.mx.any (fun q => decide (q.ord < ord) && (q.writes ++ q.reads s c).any (fun w => w.meets sp)) ||
  k.col.live.any (fun q => decide (q.ord < ord) && q.qid != qid && (q.ranges s c).any (fun w => w.meets sp))

/-- An accepted continuation begins, once its acquire may be made and its record is free (11 R270, R272). -/
def contAccept (s : State) (c id : Nat) : State :=
  match (s.core c).col.conts.find? (fun k => k.id == id) with
  | none => s
  | some k =>
    match query? s c k.qid with
    | none => s
    | some q =>
      match q.recs.find? (fun r => r.seq == k.seq) with
      | none => s
      | some r =>
        if k.accepted || !engReady s c k.by_ || contHeld s c k.ord q.qid (Span.range 0 q.by_.gang r.off (r.off + 64)) then s
        else
          let s := if k.f.m 3 1 = 1 then acquireAt s c (k.f.m 7 4) else s
          let s := modCol s c (fun u => { u with
            conts := u.conts.map (fun x => if x.id = id then { x with accepted := true } else x) })
          addBeams s c [{ (default : Beam) with
            qid := q.qid, cont := some id, ref := r.node, box := r.box, boxM := r.boxM, x0 := r.x0, y0 := r.y0, cw := r.cw,
            ch := r.ch, depth := r.depth, base := r.depth, inst := r.inst, start := true }]

/-- BEAMCONT (11 R272). -/
def execBeamcont (f : Fields) (s : State) : Res :=
  issueWord 0xEA f s (fun x s =>
    match (x.active f).head? with
    | none => s
    | some l =>
      let a := (x.rd f f.a l).toNat
      let trap (k : Nat) : State := issueTraps s x [l] k 0 (fun _ => BitVec.ofNat 64 a) 0
      if a % 64 ≠ 0 then trap 7
      else if bufSize s x.core x.wv.gang .g < a + 64 then trap 8
      else
        match recAt? s x.core x.wv.gang a with
        | none => trap 17
        | some (q, r) =>
          if r.state ≠ 1 ∨ r.claim ≠ x.wv.uid ∨ r.issued = true then trap 17
          else
            let id := (s.core x.core).col.nextId
            let k : Cont := { id := id, ord := (s.core x.core).nextOrd, by_ := issuerOf x 0xEA f l, f := f, qid := q.qid, seq := r.seq, accepted := false }
            let s := modQuery s x.core q.qid (fun q => { q with recs := q.recs.map (fun y =>
              if y.seq = r.seq then { y with issued := true } else y) })
            let s := s.modCore x.core (fun u => { u with
              nextOrd := u.nextOrd + 1, col := { u.col with conts := u.col.conts ++ [k], nextId := u.col.nextId + 1 } })
            let s := s.modRun x.core x.quarter (fun r => { r with resC := r.resC - 1 })
            let s := s.modWave x.core x.wid (fun w => w.raise k.by_.flag)
            contAccept (writePromise x (wr32 f.dst l r.seq) s) x.core id)

/-- Cells whose record is final (11 R273). -/
def finalCells (k : Colander) (q : Query) : Nat :=
  if k.beams.any (fun b => b.qid == q.qid && b.cont.isNone) then 0
  else
    let live := q.recs.filter (fun r => decide (r.state < 2))
    ((List.range (q.w * q.h)).filter (fun i =>
      !live.any (fun r => decide (r.x0 ≤ i % q.w ∧ i % q.w < r.x0 + r.cw ∧ r.y0 ≤ i / q.w ∧ i / q.w < r.y0 + r.ch)))).length

/-- SQPOP's claim for a wave, and what its DST receives (11 R273). -/
def popQueue (s : State) (c gang uid a : Nat) : State × W32 :=
  match queueAt? s c gang a with
  | none => (s, 0xFFFFFFFE)
  | some q =>
    match q.recs.find? (fun r => r.state == 0) with
    | none => (s, 0xFFFFFFFF)
    | some r => (setRec s c q r.seq (fun r => { r with state := 1, claim := uid }), BitVec.ofNat 32 r.off)

/-- What SQPEEK reads of the query whose queue begins at G offset a (11 R273). -/
def peekQueue (s : State) (c gang sel a : Nat) : W32 :=
  match queueAt? s c gang a with
  | none => 0xFFFFFFFF
  | some q => BitVec.ofNat 32 (match sel with
    | 0 => (q.recs.filter (fun r => r.state == 0)).length
    | 1 => q.open_
    | 2 => q.recs.length
    | 3 => q.degr
    | _ => finalCells (s.core c).col q)

/-- SQPOP and SQPEEK act in their run and write at its end; where they wait for an earlier release or acquire of their wave, they act once it is
done, and their flag stays raised until then (04 R96; 11 R269, R273). [log 132: DEDUCED, unsafe] -/
def queueWord (o : Nat) (f : Fields) (s : State) (act : State → Nat → Nat → Nat → Nat → State × W32) : Res :=
  groupWord o f s (fun x s =>
    let l := ((x.active f).head?).getD 0
    let a := (x.rd f f.a l).toNat
    if x.waits f then addOp x { x.op o f with n := a, lanes := nameLanes [l] .ready } s
    else
      let (s, v) := act s x.core x.wv.gang x.wv.uid a
      writeEnd x f ((x.destLanes f).flatMap (fun l => wr32 f.dst l v)) s)

/-- SQPOP (11 R273). -/
def execSqpop (f : Fields) (s : State) : Res := queueWord 0xEB f s popQueue

/-- SQPEEK (11 R273). -/
def execSqpeek (f : Fields) (s : State) : Res :=
  queueWord 0xEC f s (fun s c gang _ a => (s, peekQueue s c gang (f.m 0 3) a))

/-- A SQPOP or SQPEEK that has waited acts and completes (11 R273). -/
def queueStep (s : State) (c w id lane : Nat) (v : Wave) (o : Op) : State :=
  let (s, r) := if o.opc = 0xEB then popQueue s c v.gang v.uid o.n else (s, peekQueue s c v.gang (o.f.m 0 3) o.n)
  finishLane s c w id lane (wr32 o.f.dst lane r) 0

/-! ## Acceptance -/

/-- Codes of a query record and its beam record or ray count (11 R256, R257, R271). -/
def queryCodes (s : State) (c : Nat) (q : Query) : List Nat :=
  let n (o k : Nat) : Nat := recNat q.qrec o k
  let ray := q.opc == 0xE9
  let gsize := bufSize s c q.by_.gang .g
  let beam := if ray ∨ q.beam = [] then [] else if q.beamAt % 64 = 0 ∧ beamOk q.beam = false then [1] else []
  let bad := q.beamAt % (if ray then 32 else 64) != 0 || decide (1024 < q.sqcap) || (q.sqcap != 0 && q.sqoff % 64 != 0) ||
    (!ray && (q.handler % 16 != 0 || (q.handler == 0 && q.sqcap != 0 && !q.nospawn))) || q.res % 16 != 0 ||
    (q.rg && decide (2 ^ 32 ≤ q.res)) || decide (4 ≤ n 39 1) || (!ray && (q.rpitch % 16 != 0 || decide (q.rpitch < 16 * q.w))) ||
    (ray && (decide (8 ≤ n 44 1) || q.cull == 3 || q.rays == 0 || decide (1024 < q.rays)))
  let spans := q.writes
  let others := ((s.core c).col.live.filter (fun o => o.by_.gang == q.by_.gang && o.qid != q.qid)).flatMap Query.writes
  let self := match spans with | [a, b] => a.meets b | _ => false
  let overlap := self || spans.any (fun a => others.any a.meets)
  let range := (q.sqcap != 0 && decide (gsize < q.sqoff + 64 * q.sqcap)) ||
    (q.rg && decide (gsize < q.recAt (q.w * q.h - 1) + 16))
  beam ++ (if bad || overlap then [2] else []) ++ (if range then [3] else [])

/-- The beam record, or the ray records, of a query (11 R257, R258): none while they wait, else the lowest code met, 0 for none.
 [log 76: DEDUCED, unsafe] -/
def queryBeam (s : State) (c : Nat) (q : Query) : State × Query × Option Nat :=
  let g := colAt c q.by_ q.qid
  let n := if q.opc = 0xE9 then 32 * q.rays else 64
  let skip := q.beam != [] || q.beamAt % (if q.opc = 0xE9 then 32 else 64) != 0 || (q.opc == 0xE9 && (q.rays == 0 || decide (1024 < q.rays)))
  if skip then (s, q, some 0)
  else
    match colRead s g q.waits q.beamAt n with
    | (s, ps, none) => (s, { q with waits := ps }, none)
    | (s, ps, some r) =>
      ((if r.bad then engPoison s g else s),
       { q with waits := ps, beam := if r.code = 0 then r.bytes else [], poison := q.poison || r.bad }, some r.code)

/-- Moves a query from the intake queue to the live ones. -/
def goLive (s : State) (c : Nat) (q : Query) : State :=
  modCol s c (fun k => { k with intake := k.intake.filter (fun p => p.qid != q.qid), live := k.live ++ [q] })

/-- Keeps a query that waits in the intake queue. -/
def keepIntake (s : State) (c : Nat) (q : Query) : State :=
  modCol s c (fun k => { k with intake := k.intake.map (fun p => if p.qid = q.qid then q else p) })

/-- The starting references of a query (11 R265, R271). -/
def rootBeams (q : Query) : List Beam :=
  let b : Beam := { (default : Beam) with qid := q.qid, ref := q.root, start := true }
  if q.opc = 0xE9 then (List.range q.rays).map (fun i => { b with x0 := i, y0 := 0, cw := 1, ch := 1 })
  else [{ b with x0 := 0, y0 := 0, cw := q.w, ch := q.h }]

/-- An earlier command of another engine still holds back a query's writes; one that overlaps another query's is refused, not held (04
R109; 11 R256). -/
def gridHeld (s : State) (c : Nat) (q : Query) : Bool :=
  let k := s.core c
  q.writes.any (fun sp =>
    k.ladle.any (fun p => decide (p.ord < q.ord) && !p.refused && (p.writes s c ++ p.reads s c).any (fun w => w.meets sp)) ||
    k.mx.any (fun p => decide (p.ord < q.ord) && (p.writes ++ p.reads s c).any (fun w => w.meets sp)))

/-- Acceptance of the first query of the intake queue, as far as it can go (11 R270, R271). [log 77: DESIGN CHOICE, unsafe] -/
def queryAccept (s : State) (c : Nat) (q : Query) : State :=
  let s := if (q.f.m 3 1 == 1) && !q.acquired then acquireAt s c (q.f.m 7 4) else s
  match queryBeam s c { q with acquired := true } with
  | (s, q, none) => keepIntake s c q
  | (s, q, some k) =>
    let codes := (if k = 0 then [] else [k]) ++ queryCodes s c q
    match codes with
    | a :: r => goLive s c { q with code := r.foldl min a }
    | [] =>
      if gridHeld s c q then keepIntake s c q
      else
      match mergeRecs s c (colAt c q.by_ q.qid) q q.waits ((List.range (q.w * q.h)).map (fun i => (i, missRec))) with
      | (s, ps, none) => keepIntake s c { q with waits := ps }
      | (s, ps, some ks) => addBeams (goLive s c ((refusals ks).foldl Query.meet { q with waits := ps })) c (rootBeams q)

/-- COLANDER_ACCEPT (11 R270): a continuation that can begin, else the first query of the intake queue. -/
def execColanderAccept (core : Nat) (s : State) : Res :=
  let k := (s.core core).col
  match k.conts.findSome? (fun x =>
      if x.accepted then none else let t := contAccept s core x.id; if t = s then none else some t) with
  | some t => .next t
  | none =>
    match k.intake with
    | [] => .fault .notEnabled
    | q :: _ =>
      if q.qrec = [] ∨ 128 ≤ k.live.length ∨ engReady s core q.by_ = false then .fault .notEnabled
      else .next (queryAccept s core q)

/-! ## Completion -/

/-- Writes of a query are on their way to their targets. -/
def queryWriting (s : State) (c : Nat) (qid : W32) : Bool := cmdWriting s c 2 qid.toNat

/-- The release a command carries is done: at HOST and SYS, its writes to peers are acknowledged (04 R94, R107, R112). -/
def relDone (s : State) (c : Nat) (qid : W32) (f : Fields) : Bool :=
  f.m 4 1 == 0 || ((s.core c).wq.all (fun e => !releaseWaitsFor (f.m 7 4) e) && portsRead (s.core c) (f.m 7 4) && (decide (f.m 7 4 < 10) || !queryWriting s c qid))

/-- Bytes 48 to 63 of a query record (11 R256, R274). -/
def queryStatus (q : Query) : List Byte :=
  leBytes 4 (q.code + if q.poison then 2 ^ 31 else 0) ++ leBytes 4 q.recs.length ++ leBytes 4 q.degr ++ leBytes 4 q.failed.length

/-- QUERY_COMPLETE (11 R267, R271): traversal ended, every record DONE, the last merge performed, the release done; the status words are
written, a refused write is dropped and counted, and the flag clears. -/
def execQueryComplete (core query : Nat) (s : State) : Res :=
  let qid : W32 := BitVec.ofNat 32 query
  match query? s core qid with
  | none => .fault .notEnabled
  | some q =>
    if (s.core core).col.beams.any (fun b => b.qid == qid) || decide (q.open_ ≠ 0) || queryWriting s core qid ||
       !relDone s core qid q.f then .fault .notEnabled
    else
      let g := colAt core q.by_ qid
      let va := q.addr + 48
      match engProbe s g q.waits va 16 false with
      | (s, ps, .wait) => .next (modQuery s core qid (fun q => { q with waits := ps }))
      | (s, _, t) =>
        let lost (s : State) : State := s.modErr q.by_.vf (fun e => { e with query := satInc64 e.query })
        let s := match t with
          | .to t =>
            let (s, e) := engWrite s g t va (queryStatus q) [] [] (1 + q.by_.vf)
            if e.isSome then lost s else s
          | _ => lost s
        let s := modUid s core q.by_.wave q.by_.uid (fun w => w.lower q.by_.flag)
        let s := { s with peers := s.peers.filter (fun p => p.cmd != some (core, 2, qid.toNat)) }
        .next (modCol s core (fun k => { k with live := k.live.filter (fun p => p.qid != qid) }))

/-- BEAMCONT_COMPLETE (11 R272): the continuation's own traversal has ended and its release is done. -/
def execBeamcontComplete (core cont : Nat) (s : State) : Res :=
  match (s.core core).col.conts.find? (fun k => k.id == cont) with
  | none => .fault .notEnabled
  | some k =>
    if k.accepted = false ∨ (s.core core).col.beams.any (fun b => b.cont == some cont) = true ∨ relDone s core k.qid k.f = false then
      .fault .notEnabled
    else
      let s := match query? s core k.qid with
        | some q => setRec s core q k.seq (fun r => { r with state := 2 })
        | none => s
      let s := modUid s core k.by_.wave k.by_.uid (fun w => w.lower k.by_.flag)
      .next (modCol s core (fun u => { u with conts := u.conts.filter (fun x => x.id != cont) }))

end Sys2Proof.Machine
end

