-- ==== Sys2Proof/Machine/Queues.lean ====
section
/-! DEFINITION. Queues and cards: launch records, slots, dependence counters, beginning and completion (01 R25 to R28, R32, R33; 15
R337 to R340, R421). -/

namespace Sys2Proof.Machine

/-! ## What a function holds -/

/-- Clusters that no valid function's CLUST holds (16 R373). -/
def State.sharedClusters (s : State) : List Nat :=
  (List.range 128).filter (fun k => !s.funcs.any (fun p => p.2.valid && p.2.clust.getLsbD k))

/-- C of a function: its held clusters, or the shared ones while a time-sliced function is on (16 R370, R373). -/
def State.clustersOf (s : State) (f : Nat) : List Nat :=
  if (s.func f).ts then
    match s.sched.slice with
    | some t => if t.vf = f ∧ t.on = true then s.sharedClusters else []
    | none => []
  else (List.range 128).filter (fun k => (s.func f).clust.getLsbD k)

/-- The world set up with a tag (12 R280; 16 R372). -/
def State.world? (s : State) (tag : Nat) : Option World := (s.worlds.find? (fun p => p.2.tag == tag && tag != 0)).map Prod.snd

/-- Function f holds a grant for the world of a tag (12 R280). -/
def State.granted (s : State) (tag f : Nat) : Bool :=
  match s.world? tag with | some w => w.grants.getLsbD f && (s.func f).valid | none => false

/-! ## The queue as a party -/

/-- Queue q accesses memory for its cards as its owner (15 R421). -/
def queueAt (s : State) (q : Nat) : EngAt :=
  let k := s.queue q
  { core := none, kind := 5, id := q, ordinal := 0,
    by_ := { uid := 0, wave := 0xFF, after := 0, lane := 0, gang := 0xFF, vf := k.owner, world := 0,
             level := if k.priv then .h else .u, spo := 0xFFFFFFFF, off := 31, flag := none } }

/-- Where a place that is named by a guest physical address, or a counter, lies. -/
inductive QAt where
  | at_ (t : Target)
  | wait
  | refused
  deriving DecidableEq, Repr

/-- A system physical address as the place of a queue's access: in HBM4 where the frame's owner lets it, behind a host port, or at a peer
(16 R367; 18 R394). -/
def placeAt (s : State) (g : EngAt) (write : Bool) (spa : Nat) : State × QAt :=
  match targetOf g.by_.vf g.by_.level spa with
  | .hbm a => if (if write then s.writable g.party a else s.owned g.party a) then (s, .at_ (.hbm a))
      else (refuseOwner s g.by_.vf 0xFFFF a, .refused)
  | .port p a => (s, .at_ (.port p a))
  | .peer n r => (s, match peerSub s n r with | some _ => .refused | none => .at_ (.peer n r))
  | _ => (refuseOwner s g.by_.vf 0xFFFF spa, .refused)

/-- A ring slot, by the owner's stage 2 alone (15 R421; 16 R361). -/
def slotAt (s : State) (g : EngAt) (ps : Pages) (gpa : Nat) (a : Acc) : State × Pages × QAt :=
  let f := g.by_.vf
  let key := 2 ^ 71 + gpa / 4096 * 8 + a.bits
  let go : State × Pages × QAt :=
    match translateGpa s f gpa a with
    | (s, .page x _ _) =>
      let (s, r) := placeAt s g (a.bits.testBit 1) x
      (s, ps, r)
    | (s, .fault st cause tb x) =>
      let (s, t) := request s none f st cause tb false a 0 x
      (s, ps.set key t, .wait)
    | (s, .refused x) => (refuseOwner s f 0xFFFF x, ps, .refused)
  match ps.find? (fun p => p.1 == key) with
  | none => go
  | some (_, t) =>
    match s.answers.get? t with
    | none => (s, ps, .wait)
    | some (.refuse _ _) => (s, ps, .refused)
    | some (.retry _) => go

/-- n bytes of a place: at its home slice, behind a host port, or of a peer, whose answer it waits for (18 R394, R397). -/
def placeRead (s : State) (g : EngAt) (t : Target) (n : Nat) : State × Got :=
  match t with
  | .hbm a => (homeTouches s a n, .ok (s.bytesAt a n) (s.poisIn a n))
  | .port p a =>
    let (s, b) := portRead s g.by_.vf p a n
    (s, .ok b [])
  | .peer m r => engPeer s g m r n
  | _ => (s, .err 5)

/-- Answers of peers that a queue has used. -/
def forgetReads (s : State) (g : EngAt) : State :=
  { s with peers := s.peers.filter (fun p => !(p.cmd == some (0xFFFF, g.kind, g.id) && p.got.isSome)) }

/-- Where counter k of a queue lies, for an atomic at level U of the owner (15 R340; 16 R356), or refused. -/
def counterAt (s : State) (q k : Nat) (ps : Pages) : State × Pages × QAt :=
  let g := queueAt s q
  let va := (s.queue q).ctrbase + BitVec.ofNat 64 (4 * k)
  if canonical va = false ∨ inWindow va = true ∨ inHeap va = true then (s, ps, .refused)
  else
    match engPage s g ps va.toNat (accRW .u) with
    | (s, ps, .wait _) => (s, ps, .wait)
    | (s, ps, .refused) => (s, ps, .refused)
    | (s, ps, .ok e) =>
      if e.elide then (s, ps, .refused)
      else
        let (s, r) := placeAt s g true (e.apply va.toNat)
        (s, ps, r)

/-! ## Launch records -/

/-- A scope code contains a domain (04 R91). -/
def scopeHas (sc d : Nat) : Bool :=
  match sc with
  | 0 => d == 0
  | 1 => decide (d ≤ 1)
  | 2 => decide (d ≤ 2)
  | 3 => decide (d ≤ 2)
  | 4 => decide (d ≤ 2) || d == 4
  | 5 => decide (d ≤ 5)
  | 6 => decide (d ≤ 6)
  | _ => decide (sc ≤ 11)

/-- A domain strictly contains another (01 R27). -/
def domainHas (out d : Nat) : Bool := decide (d < out) && !(out == 4 && d == 3)

/-- The level descriptor at offset 32 + 8k of a record (01 R26). -/
def levelAt (r : List Byte) (k : Nat) : LevelD :=
  let o := 32 + 8 * k
  let d := recNat r o 1
  { domain := d % 16, scope := d / 16, ext := recNat r (o + 2) 2 * recNat r (o + 4) 2 * recNat r (o + 6) 2 }

/-- A descriptor is legal by itself (01 R26). -/
def levelOk (r : List Byte) (k : Nat) : Bool :=
  let l := levelAt r k
  decide (l.domain ≤ 7) && scopeHas l.scope l.domain && recNat r (33 + 8 * k) 1 == 0 && decide (1 ≤ l.ext)

/-- The levels of a record that names n of them are legal together (01 R27). -/
def levelsOk (ls : List LevelD) (dealt winit : Nat) : Bool :=
  let d (k : Nat) : LevelD := ls.getD k default
  let n := ls.length
  (d 0).ext == 1 && (d (n - 1)).domain == 0 && (d (n - 1)).ext == 32 && (d (n - 2)).domain == 1 && (d (n - 2)).ext == winit &&
  (List.range (n - 1)).all (fun k => domainHas (d k).domain (d (k + 1)).domain) &&
  !(ls.any (fun l => l.domain == 3) && ls.any (fun l => l.domain == 4)) &&
  decide (dealt < n) && ((d dealt).domain == 2 || (d dealt).domain == 3) &&
  ((d dealt).domain == 2 || ((d (dealt + 1)).domain == 2 && decide ((d (dealt + 1)).ext ≤ 15)))

/-- Size of the coordinates by CFMT (01 R25). -/
def coordSize (cfmt : Nat) : Nat := match cfmt with | 0 => 4 | 1 => 6 | _ => 12

/-- Ring k of a declaration table (03 R74). -/
def ringDecl (t : List Byte) (k : Nat) : RingDecl :=
  { xoff := recNat t (16 * k) 4, stageb := recNat t (16 * k + 4) 4, minst := recNat t (16 * k + 8) 1,
    maxst := recNat t (16 * k + 9) 1 }

/-- Two rings share bytes of X. -/
def RingDecl.meets (a b : RingDecl) : Bool :=
  decide (a.xoff < b.xoff + b.stageb * b.maxst) && decide (b.xoff < a.xoff + a.stageb * a.maxst)

/-- A ring declaration is legal by itself (03 R74). -/
def RingDecl.ok (r : RingDecl) : Bool :=
  decide (1 ≤ r.minst ∧ r.minst ≤ 15) && decide (r.minst ≤ r.maxst ∧ r.maxst ≤ 15) && r.stageb % 512 == 0 &&
  decide (512 ≤ r.stageb ∧ r.stageb ≤ 262144) && r.xoff % 512 == 0 && decide (r.xoff + r.stageb * r.maxst ≤ 524288)

/-- The rings of a table are legal. -/
def ringsOk (rs : List RingDecl) : Bool :=
  rs.all RingDecl.ok &&
  (rs.zipIdx).all (fun p => (rs.take p.2).all (fun r => !r.meets p.1))

/-- NRING of a record. -/
def launchRings (r : List Byte) : Nat := recNat r 26 2

/-- The fields of a launch record (01 R25). -/
def parseLaunch (addr : W64) (r t : List Byte) : Launch :=
  { addr := addr, entry := BitVec.ofNat 64 (recNat r 0 8), vgran := recNat r 8 1, sgran := recNat r 9 1, tregs := recNat r 10 1,
    aregs := recNat r 11 1, gkib := recNat r 12 2, winit := recNat r 14 1, wmax := recNat r 15 1, dealt := recNat r 17 1,
    argsz := recNat r 18 2, coord := recNat r 20 2, cfmt := recNat r 22 1, wtag := recNat r 24 2,
    levels := (List.range (recNat r 16 1)).map (levelAt r), rings := (List.range (launchRings r)).map (ringDecl t) }

/-- A launch record is legal but for its ring table (01 R25 to R27). -/
def launchOk (s : State) (f : Nat) (r : List Byte) : Bool :=
  let l := parseLaunch 0 r []
  let n := l.levels.length
  decide (launchRings r ≤ 8) && (launchRings r != 0 || recNat r 96 8 == 0) && decide (l.cfmt ≤ 2) &&
  (l.coord == 0xFFFF || decide (l.coord + coordSize l.cfmt ≤ l.argsz)) && decide (l.argsz ≤ 4096) && l.argsz % 4 == 0 &&
  decide (2 ≤ n ∧ n ≤ 8) && decide (1 ≤ l.winit ∧ l.winit ≤ 64) && decide (l.winit ≤ l.wmax ∧ l.wmax ≤ 64) &&
  decide (l.gkib ≤ 256) && decide (l.winit * l.aregs ≤ 32) && decide (l.aregs ≤ 32) && decide (l.tregs ≤ 16) &&
  decide (1 ≤ l.sgran ∧ l.sgran ≤ 8) && decide (1 ≤ l.vgran ∧ l.vgran ≤ 128) && l.entry.toNat % 16 == 0 &&
  (l.wtag == 0 || s.granted l.wtag f) && (List.range n).all (levelOk r) &&
  (List.range (8 - n)).all (fun k => recNat r (32 + 8 * (n + k)) 8 == 0) && levelsOk l.levels l.dealt l.winit &&
  (pickSlots [] l.vgran l.winit).isSome

/-- The dealt level of a launch is TEAM (01 R29). [log 144: DESIGN CHOICE, unsafe] -/
def Launch.isTeam (l : Launch) : Bool := (l.levels.getD l.dealt default).domain == 3
/-- Gangs of a unit. -/
def Launch.gangs (l : Launch) : Nat := if l.isTeam then (l.levels.getD (l.dealt + 1) default).ext else 1
/-- SCOPE of the dealt level. -/
def Launch.scopeD (l : Launch) : Nat := (l.levels.getD l.dealt default).scope

/-! ## Cards -/

/-- A card that has just entered, its fields not read yet. -/
def Card.entered (seq : W32) (bytes : List Byte) (unwritten : Bool) : Card :=
  { (default : Card) with seq := seq, bytes := bytes, unwritten := unwritten }

/-- The fields of a card's 64 bytes (01 R32; 15 R340). -/
def Card.parse (k : Card) : Card :=
  let b := k.bytes
  { k with
    entry := BitVec.ofNat 64 (recNat b 0 8), args := BitVec.ofNat 64 (recNat b 8 8), count := recNat b 16 4, stride := recNat b 20 2,
    minchunk := recNat b 22 1, divisor := recNat b 23 1, kind := recNat b 24 1, sigc := recNat b 28 2, waitc := recNat b 30 2,
    done := BitVec.ofNat 64 (recNat b 32 8), tag := BitVec.ofNat 64 (recNat b 40 8) }

/-- A card enters a queue, taking SEQ (15 R338). -/
def enterCard (s : State) (q : Nat) (g : Card → Card) (bytes : List Byte) (unwritten : Bool) : State :=
  s.modQueue q (fun k => { k with cards := k.cards ++ [g (Card.entered k.seq bytes unwritten)], seq := k.seq + 1 })

/-- SEQ − HEADSEQ = NENT (15 R338). -/
def Queue.full (k : Queue) : Bool := decide (k.nent ≤ (k.seq - k.headseq).toNat)

/-- The ring slot of a card. -/
def Queue.slotGpa (k : Queue) (n : W32) : Nat := k.ring.toNat + 64 * (n.toNat % k.nent)

/-- A ring-slot access of a queue was refused (18 R405). -/
def slotRefused (s : State) (q : Nat) : State := s.modErr (s.queue q).owner (fun e => { e with slot := satInc64 e.slot })

/-- Writes the copy of a card into its slot (09 R224; 15 R421): done, or waiting; a refusal completes the card BADCARD, and its counter
is signalled as it completes (15 R340). -/
def writeSlot (s : State) (q : Nat) (n : W32) : State :=
  match s.card? q n with
  | none => s
  | some k =>
    if k.unwritten = false then s
    else
      let g := queueAt s q
      match slotAt s g k.waits ((s.queue q).slotGpa n) (accW g.by_.level) with
      | (s, ps, .wait) => s.modCard q n (fun k => { k with waits := ps })
      | (s, ps, .at_ t) =>
        ((engWrite s g t 0 k.bytes [] [] 0).1).modCard q n (fun k => { k with unwritten := false, waits := ps })
      | (s, ps, .refused) =>
        (slotRefused s q).modCard q n (fun k => { k.parse with
          unwritten := false, read := true, begun := true, status := some 1, waits := ps })

/-- Reads a card's slot (15 R338); a refusal completes it BADCARD with no record. -/
def readSlot (s : State) (q : Nat) (n : W32) : State :=
  match s.card? q n with
  | none => s
  | some k =>
    if k.read ∨ k.unwritten then s
    else
      let g := queueAt s q
      let lost (s : State) (ps : Pages) : State := (slotRefused s q).modCard q n (fun k => { k with
        read := true, begun := true, status := some 1, signalled := true, done := 0, waits := ps })
      match slotAt s g k.waits ((s.queue q).slotGpa n) (accR g.by_.level) with
      | (s, ps, .wait) => s.modCard q n (fun k => { k with waits := ps })
      | (s, ps, .at_ t) =>
        match placeRead s g t 64 with
        | (s, .wait) => s.modCard q n (fun k => { k with waits := ps })
        | (s, .ok b bad) =>
          let b := if bad.isEmpty then b else List.replicate 64 0
          (forgetReads s g).modCard q n (fun k => { ({ k with bytes := b }).parse with read := true, waits := ps })
        | (s, .err _) => lost (forgetReads s g) ps
      | (s, ps, .refused) => lost s ps

/-! ## Dependence counters -/

/-- A half of DEPCTR names a counter of the queue (15 R340). -/
def Queue.names (k : Queue) (h : Nat) : Bool := h != 0xFFFF && decide (h < k.nctr)

/-- A half of DEPCTR is legal. -/
def Queue.halfOk (k : Queue) (h : Nat) : Bool := h == 0xFFFF || decide (h < k.nctr)

/-- How an access to a counter goes: it waits for a peer, is refused, or finds a value. -/
inductive CtrX where
  | wait
  | refused
  | old (v : Nat)
  deriving DecidableEq, Repr

/-- A queue's request for a counter at a peer, for card n: sig tells the decrement from the wait. -/
def ctrId (q : Nat) (n : W32) (sig : Bool) : Nat := (q * 2 ^ 32 + n.toNat) * 2 + (if sig then 1 else 0)

/-- The ATOMIC flit of a counter's read, or, for an expected value v other than 0, of its compare-and-swap from v to v − 1 (09 R211; 18
R397, R399). -/
def ctrFlit (s : State) (node r v : Nat) : Flit :=
  { flitTo s 4 node 0 (r / 64 * 64) with
    bmask := BitVec.ofNat 64 (15 * 2 ^ (r % 64)), flags := if v = 0 then 1 else 3, op := if v = 0 then 11 else 7, otype := 0,
    opnd := BitVec.ofNat 64 v, opnd2 := BitVec.ofNat 64 (v - 1) }

/-- Sends it; the request keeps v in its length. -/
def ctrSend (s : State) (id node r v : Nat) : State :=
  sendReq s { tid := 0, node := node, link := 0, who := none, cmd := some (0xFFFF, 7, id), chunk := none, addr := r / 64 * 64, len := v,
              since := 0, got := none } (ctrFlit s node r v)

/-- The counter at a peer of request id, once its answer is there: the value found, and the one expected. -/
def ctrGot (s : State) (id : Nat) : Option (Option (Option Nat) × Nat) :=
  (s.peers.find? (fun p => p.cmd == some (0xFFFF, 7, id))).map (fun p => (p.got.map (fun b => b.map (fun x => leNat (x.take 4))), p.len))

/-- Request id is over. -/
def ctrDrop (s : State) (id : Nat) : State := { s with peers := s.peers.filter (fun p => p.cmd != some (0xFFFF, 7, id)) }

/-- Reads a counter as an atomic would; a poisoned one reads as +0 (15 R340; 03 R84). -/
def ctrRead (s : State) (f id : Nat) (t : Target) : State × CtrX :=
  match t with
  | .hbm a => (homeTouch s (a / 64), .old (if s.linePois a then 0 else leNat (s.bytesAt a 4)))
  | .port p a =>
    let (s, b) := portRead s f p a 4
    (s, .old (leNat b))
  | .peer node r =>
    match ctrGot s id with
    | none => (ctrSend s id node r 0, .wait)
    | some (none, _) => (s, .wait)
    | some (some none, _) => (ctrDrop s id, .refused)
    | some (some (some v), _) => (ctrDrop s id, .old v)
  | _ => (s, .refused)

/-- Reads the counter a card waits on (15 R340); a refused page completes the card BADCARD. [log 89: DEDUCED, unsafe] -/
def pollCounter (s : State) (q : Nat) (n : W32) : State :=
  match s.card? q n with
  | none => s
  | some k =>
    let lost (s : State) (ps : Pages) : State := s.modCard q n (fun k => { k with begun := true, status := some 1, waits := ps })
    match counterAt s q k.waitc k.waits with
    | (s, ps, .wait) => s.modCard q n (fun k => { k with waits := ps })
    | (s, ps, .at_ t) =>
      match ctrRead s (s.queue q).owner (ctrId q n false) t with
      | (s, .wait) => s.modCard q n (fun k => { k with waits := ps })
      | (s, .refused) => lost s ps
      | (s, .old v) => s.modCard q n (fun k => { k with polled := true, depOk := v == 0, waits := ps })
    | (s, ps, .refused) => lost s ps

/-- Cards that wait on a counter read it again: what follows a decrement (15 R340). -/
def pollAgain (s : State) : State :=
  { s with sched := { s.sched with queues := s.sched.queues.map (fun p => (p.1, { p.2 with
    cards := p.2.cards.map (fun k => if k.depOk = false ∧ k.begun = false then { k with polled := false } else k) })) } }

/-- The decrement of a counter in one step, or at a peer by a read and compare-and-swaps until one finds what it expects: the state, and
the value decremented, 0 where it was 0 (15 R340; 09 R211). A poisoned counter is left alone (03 R84). -/
def ctrLower (s : State) (g : EngAt) (id : Nat) (t : Target) : State × CtrX :=
  match t with
  | .hbm a =>
    if s.linePois a then (s, .old 1)
    else
      let v := leNat (s.bytesAt a 4)
      (if v = 0 then homeTouch s (a / 64) else homeWrite s g.writer a (leBytes 4 (v - 1)), .old v)
  | .port p a =>
    let (s, b) := portRead s g.by_.vf p a 4
    let v := leNat b
    (if v = 0 then s else s.send (.hostWrite p a g.by_.vf (leBytes 4 (v - 1))), .old v)
  | .peer node r =>
    match ctrGot s id with
    | none => (ctrSend s id node r 0, .wait)
    | some (none, _) => (s, .wait)
    | some (some none, _) => (ctrDrop s id, .refused)
    | some (some (some v), e) => if v = 0 ∨ v = e then (ctrDrop s id, .old v) else (ctrSend (ctrDrop s id) id node r v, .wait)
  | _ => (s, .refused)

/-- The decrement of SIGC at a completion (15 R340). -/
def signalCounter (s : State) (q : Nat) (n : W32) : State :=
  match s.card? q n with
  | none => s
  | some k =>
    if k.signalled then s
    else if (s.queue q).names k.sigc = false then s.modCard q n (fun k => { k with signalled := true })
    else
      let lost (s : State) (ps : Pages) : State := s.modCard q n (fun k => { k with signalled := true, status := some 1, waits := ps })
      match counterAt s q k.sigc k.waits with
      | (s, ps, .wait) => s.modCard q n (fun k => { k with waits := ps })
      | (s, ps, .at_ t) =>
        match ctrLower s (queueAt s q) (ctrId q n true) t with
        | (s, .wait) => s.modCard q n (fun k => { k with waits := ps })
        | (s, .refused) => lost s ps
        | (s, .old v) =>
          let s := if v = 0 then s.modErr (s.queue q).owner (fun e => { e with dep := satInc64 e.dep }) else pollAgain s
          s.modCard q n (fun k => { k with signalled := true, waits := ps })
      | (s, ps, .refused) => lost s ps

/-! ## Completion -/

/-- The record of R33. -/
def doneRecord (tag : W64) (status finished : Nat) : List Byte := leBytes 8 tag.toNat ++ leBytes 4 status ++ leBytes 4 finished

/-- Writes bytes of an owner's space on a queue's behalf: done (a refused write is left out), or none while it waits. -/
def ownerWrite (s : State) (g : EngAt) (ps : Pages) (va : W64) (b : List Byte) : State × Pages × Bool :=
  match engProbe s g ps va b.length false with
  | (s, ps, .wait) => (s, ps, false)
  | (s, ps, .to t) =>
    ((engWrite s g t va b [] [] 0).1, ps, true)
  | (s, ps, .elided pay m off) => (elideStore s g.writer pay m ((b.zipIdx).map (fun x => { off := off + x.2, byte := x.1, pois := false })), ps, true)
  | (s, ps, .err _) => (s, ps, true)

/-- HEADSEQ advances over completed cards (15 R338). -/
def Queue.advance (k : Queue) : Nat → Queue
  | 0 => k
  | n + 1 =>
    match k.cards with
    | c :: r => if c.closed then Queue.advance { k with cards := r, headseq := c.seq + 1 } n else k
    | [] => k

/-- The deadline of a card that completes (15 R348): a miss is counted, and its window closes. -/
def meetDeadline (s : State) (q : Nat) (n : W32) : State :=
  match (s.queue q).deadline with
  | none => s
  | some (m, t) =>
    if m ≠ n then s
    else
      let s := s.modQueue q (fun k => { k with deadline := none, misses := if t < s.ticks ∧ k.misses ≠ -1 then k.misses + 1 else k.misses })
      { s with sched := { s.sched with windows := s.sched.windows.filter (· != q) } }

/-- What else ends with a card: its batch's records are free, its message is no longer open (12 R286; 15 R350). -/
def freeCard (s : State) (k : Card) : State :=
  let s := match k.batch with
    | none => s
    | some (sl, w, a, n) => s.modSlice sl (fun t => { t with rings := t.rings.map (fun r =>
        if r.world = w then { r with busy := r.busy.filter (fun b => decide (b < a ∨ a + 32 * n ≤ b)) } else r) })
  match k.mfe with
  | none => s
  | some i => { s with sched := { s.sched with filters := s.sched.filters.adj i (fun (e : Filter) => { e with openMsgs := e.openMsgs - 1 }) } }

/-- What is left of a card's completion: its signal, its record, its slot (01 R33; 15 R338, R340). -/
def finishCard (s : State) (q : Nat) (n : W32) : State :=
  if ((s.card? q n).bind (fun k => k.status)).isNone then s
  else
    let s := signalCounter s q n
    match s.card? q n with
    | none => s
    | some k =>
      match k.status with
      | none => s
      | some st =>
        if k.signalled = false ∨ k.closed then s
        else
          let (s, ps, ok) :=
            if k.done = 0 ∨ k.done.toNat % 16 ≠ 0 then (s, k.waits, true)
            else ownerWrite s (queueAt s q) k.waits k.done (doneRecord k.tag st k.finished)
          if ok = false then s.modCard q n (fun k => { k with waits := ps })
          else
            let s := freeCard (meetDeadline (forgetReads s (queueAt s q)) q n) k
            let s := s.modCard q n (fun k => { k with closed := true, waits := [] })
            s.modQueue q (fun k => Queue.advance k k.cards.length)

/-! ## Beginning -/

/-- The fields of a card that R32, R237 and R340 check. [log 141: DEDUCED, unsafe] -/
def cardOk (t : Queue) (k : Card) : Bool :=
  decide (k.kind ≤ 1) && decide (1 ≤ k.divisor ∧ k.divisor ≤ 16) && decide (1 ≤ k.minchunk) && k.stride % 4 == 0 &&
  decide (k.stride ≤ 4096) && k.args.toNat % 4 == 0 && k.done.toNat % 16 == 0 && t.halfOk k.waitc && t.halfOk k.sigc &&
  (k.kind == 0 || (k.args.toNat % 64 == 0 && k.stride % 64 == 0 && decide (128 ≤ k.stride) && k.entry.toNat % 64 == 0))

/-- Ends a card at its beginning with a status. -/
def endAtBegin (s : State) (q : Nat) (n : W32) (st : Nat) : State :=
  finishCard ((forgetReads s (queueAt s q)).modCard q n (fun k => { k with begun := true, status := some st, undealt := [] })) q n

/-- A card begins: its records lie in their pool. -/
def openCard (s : State) (q : Nat) (n : W32) (g : Card → Card) : State :=
  match s.card? q n with
  | none => s
  | some k =>
    if k.count = 0 then endAtBegin s q n 0
    else s.modCard q n (fun k => { g k with begun := true, undealt := [(0, k.count)] })

/-- Reads what a card's beginning reads, checks it, and begins or ends the card (01 R25 to R27, R32; 10 R237; 15 R339). -/
def beginCard (s : State) (q : Nat) (n : W32) : State :=
  match s.card? q n with
  | none => s
  | some k =>
    let t := s.queue q
    let g := queueAt s q
    if cardOk t k = false then endAtBegin s q n 1
    else if k.kind = 1 then
      match engRecord s g k.waits k.entry.toNat 256 with
      | (s, ps, .wait) => s.modCard q n (fun k => { k with waits := ps })
      | (s, _, .err _) => endAtBegin s q n 1
      | (s, ps, .ok b _) =>
        if (List.range 32).any (graphOk b) then
          openCard s q n (fun k => { k with graph := b, waits := ps })
        else endAtBegin s q n 1
    else if k.entry.toNat % 64 ≠ 0 then endAtBegin s q n 2
    else
      match engRecord s g k.waits k.entry.toNat 128 with
      | (s, ps, .wait) => s.modCard q n (fun k => { k with waits := ps })
      | (s, _, .err _) => endAtBegin s q n 2
      | (s, ps, .ok b _) =>
        if launchOk s t.owner b = false then endAtBegin s q n 2
        else
          let nr := launchRings b
          let (s, ps, r) := if nr = 0 then (s, ps, Got.ok [] []) else engRecord s g ps (recNat b 96 8) (16 * nr)
          match r with
          | .wait => s.modCard q n (fun k => { k with waits := ps })
          | .err _ => endAtBegin s q n 2
          | .ok rt _ =>
            let l := parseLaunch k.entry b rt
            if ringsOk l.rings = false then endAtBegin s q n 2
            else if k.stride < l.argsz then endAtBegin s q n 1
            else openCard s q n (fun k => { k with launch := some l, waits := ps })

/-- Records of a card that no unit has started: in its pool, or held (15 R339). -/
def unstarted (s : State) (q : Nat) (k : Card) : Bool :=
  k.undealt != [] ||
  s.cores.any (fun p => p.2.held.any (fun h => h.q == q && h.seq == k.seq && h.recs != [])) ||
  s.sched.deckles.any (fun p => p.2.any (fun u => u.q == q && u.seq == k.seq && u.recs != []))

/-- The card next to begin: its predecessors have begun and none of their records is left undealt (15 R339); none of a function that is not valid (16 R351). [log 79: DEDUCED, unsafe] -/
def nextCard (s : State) (q : Nat) : Option Card :=
  let t := s.queue q
  if t.paused || t.withdrawn || !(s.func t.owner).valid then none
  else
    match t.cards.find? (fun k => !k.begun) with
    | none => none
    | some k =>
      if k.reserved || (t.cards.takeWhile (fun c => c.seq != k.seq)).any (unstarted s q) then none else some k

/-- CARD_BEGIN (15 R338 to R340): the card next to begin goes as far as its pages and its counter let it. -/
def execCardBegin (q : Nat) (s : State) : Res :=
  match nextCard s q with
  | none => .fault .notEnabled
  | some k =>
    let n := k.seq
    let s := readSlot (writeSlot s q n) q n
    match s.card? q n with
    | none => .fault .notEnabled
    | some k =>
      if k.status.isSome then .next (finishCard s q n)
      else if k.read = false then .next s
      else
        let s := if (s.queue q).names k.waitc && !k.polled then pollCounter s q n else s
        match s.card? q n with
        | none => .fault .notEnabled
        | some k =>
          if k.status.isSome then .next (finishCard s q n)
          else if (s.queue q).names k.waitc && !k.depOk then .next s
          else .next (beginCard s q n)

/-- DEPCTR_POLL (15 R340): the queue reads the counter that its next card waits on. -/
def execDepctrPoll (q : Nat) (s : State) : Res :=
  match nextCard s q with
  | none => .fault .notEnabled
  | some k =>
    if k.read = true ∧ k.polled = true ∧ k.depOk = false ∧ (s.queue q).names k.waitc = true then
      let s := pollCounter s q k.seq
      .next (match s.card? q k.seq with
        | some c => if c.status.isSome then finishCard s q k.seq else s
        | none => s)
    else .fault .notEnabled

/-- The releases of R28 at the scopes of the levels from the job's outermost down to the dealt one are done: nothing of the owner's is
queued that they wait for. [log 81: DEDUCED, unsafe] -/
def jobReleased (s : State) (q : Nat) (k : Card) : Bool :=
  let scopes := match k.launch with | some l => (l.levels.take (l.dealt + 1)).map LevelD.scope | none => [7]
  s.cores.all (fun p => scopes.all (portsRead p.2) && p.2.wq.all (fun e => e.vf != (s.queue q).owner || !scopes.any (fun sc => releaseWaitsFor sc e)))

/-- A withdrawal is over once every card has completed: the queue is left paused and empty (14 R336). -/
def endWithdraw (s : State) (q : Nat) : State :=
  if (s.queue q).withdrawn && (s.queue q).cards.isEmpty then
    s.modQueue q (fun t => { t with withdrawn := false, paused := true })
  else s

/-- The last steps of a card once its units have finished, or none is left of a withdrawn one (01 R28, R33; 14 R336). [log 80: DEDUCED, unsafe] -/
def completeCard (s : State) (q : Nat) (n : W32) : State :=
  let st := if (s.queue q).withdrawn then 4 else 0
  endWithdraw (finishCard (s.modCard q n (fun k => { k with begun := true, status := some st })) q n) q

/-- JOB_COMPLETE (01 R28, R33; 15 R340): all of a card's units have finished, or its queue is withdrawn and none runs. A slot not
read yet is read for TAG and DONE. -/
def execJobComplete (q : Nat) (seq : W32) (s : State) : Res :=
  match s.card? q seq with
  | none => .fault .notEnabled
  | some k =>
    if k.closed then .fault .notEnabled
    else if k.status.isSome then .next (endWithdraw (finishCard s q seq) q)
    else
      let all := k.begun && k.live == 0 && !unstarted s q k
      let ended := (s.queue q).withdrawn && k.live == 0 && !k.reserved
      if !(all || ended) || !jobReleased s q k then .fault .notEnabled
      else
        let s := readSlot (writeSlot s q seq) q seq
        match s.card? q seq with
        | none => .fault .notEnabled
        | some k =>
          .next (if k.status.isSome then endWithdraw (finishCard s q seq) q
            else if k.read = false then s
            else completeCard s q seq)

end Sys2Proof.Machine
end

