-- ==== Sys2Proof/Machine/Deal.lean ====
section
/-! DEFINITION. From a begun card to a gang: placement, the dealer, the start of units, the Whisk and the Deckles' own runs (01 R18,
R29 to R35; 10 R237; 15 R341 to R345). -/

namespace Sys2Proof.Machine

/-! ## Ranges of records -/

/-- Number of records in ranges. -/
def rangesLen (rs : List (Nat × Nat)) : Nat := rs.foldl (fun n r => n + (r.2 - r.1)) 0
/-- The records of ranges, rising. -/
def rangesList (rs : List (Nat × Nat)) : List Nat := rs.flatMap (fun r => (List.range (r.2 - r.1)).map (r.1 + ·))
/-- The lowest n records of ranges. -/
def rangesTake : List (Nat × Nat) → Nat → List Nat
  | [], _ => []
  | r :: rs, n =>
    let k := min n (r.2 - r.1)
    (List.range k).map (r.1 + ·) ++ (if n = k then [] else rangesTake rs (n - k))
/-- Ranges without one record. -/
def rangesDrop (rs : List (Nat × Nat)) (x : Nat) : List (Nat × Nat) :=
  rs.flatMap (fun r =>
    if x < r.1 ∨ r.2 ≤ x then [r]
    else (if r.1 < x then [(r.1, x)] else []) ++ (if x + 1 < r.2 then [(x + 1, r.2)] else []))
/-- Ranges with one record more, rising. -/
def rangesAdd : List (Nat × Nat) → Nat → List (Nat × Nat)
  | [], x => [(x, x + 1)]
  | r :: rs, x =>
    if x < r.1 then (x, x + 1) :: r :: rs
    else if x < r.2 then r :: rs
    else r :: rangesAdd rs x

/-! ## Placement -/

/-- The position in C of a unit's home by its coordinates (01 R31). -/
def homeIndex (x y z n : Nat) : Nat :=
  ((x * 0x9E3779B1 % 2 ^ 32) ^^^ (y * 0x85EBCA77 % 2 ^ 32) ^^^ (z * 0xC2B2AE3D % 2 ^ 32)) * n / 2 ^ 32

/-- Coordinates in the bytes of an argument record, by CFMT (01 R25). -/
def coordsOf (cfmt : Nat) (b : List Byte) : Nat × Nat × Nat :=
  match cfmt with
  | 0 => (recNat b 0 2, recNat b 2 2, 0)
  | 1 => (recNat b 0 2, recNat b 2 2, recNat b 4 2)
  | _ => (recNat b 0 4, recNat b 4 4, recNat b 8 4)

/-- The address of record n of a card (01 R32). -/
def Card.recAt (k : Card) (n : Nat) : W64 := k.args + BitVec.ofNat 64 (n * k.stride)

/-- The cluster that record n's own coordinates name; none while its page is awaited. Coordinates that cannot be read count as
zero. -/
def ownHome (s : State) (q : Nat) (k : Card) (l : Launch) (n : Nat) : State × Card × Option Nat :=
  let c := s.clustersOf (s.queue q).owner
  let home (b : List Byte) : Option Nat :=
    let p := coordsOf l.cfmt b
    (c.drop (homeIndex p.1 p.2.1 p.2.2 c.length)).head?
  match engRecord s (queueAt s q) k.waits (k.recAt n + BitVec.ofNat 64 l.coord).toNat (coordSize l.cfmt) with
  | (s, ps, .wait) => (s, { k with waits := ps }, none)
  | (s, ps, .ok b _) => (s, { k with waits := ps }, home b)
  | (s, ps, .err _) => (s, { k with waits := ps }, home (List.replicate 12 0))

/-- A home kept inside a region of clusters: itself, or the region's cluster at its position in C (01 R31). -/
def keepIn (c : List Nat) (region : Nat → Nat) (r h : Nat) : Nat :=
  if region h = r then h
  else
    let inside := c.filter (fun x => region x == r)
    inside.getD ((c.findIdx (· == h)) % max 1 inside.length) h

/-- Records of one unit of the level of a domain above the dealt one, if the launch has it: how many argument records it spans. -/
def Launch.span (l : Launch) (dom : Nat) : Option Nat :=
  match (l.levels.zipIdx).find? (fun p => p.1.domain == dom && decide (p.2 < l.dealt)) with
  | none => none
  | some (_, k) => some (((l.levels.drop (k + 1)).take (l.dealt - k)).foldl (fun n p => n * p.ext) 1)

/-- The home cluster of record n under R31: its CLUS unit's first record gives the home of all of it; QUAD and DIE units keep to
the quadrant and die of their first record's. -/
def homeOf (s : State) (q : Nat) (k : Card) (l : Launch) (n : Nat) : State × Card × Option Nat :=
  let c := s.clustersOf (s.queue q).owner
  let first (d : Nat) : Option Nat := (l.span d).map (fun z => n / z * z)
  let base := (first 4).getD n
  let (s, k, h) := ownHome s q k l base
  let (s, k, hd) := match first 6 with | some f => ownHome s q k l f | none => (s, k, h)
  let (s, k, hq) := match first 5 with | some f => ownHome s q k l f | none => (s, k, h)
  match h, hd, hq with
  | some h, some hd, some hq =>
    let die (x : Nat) : Nat := if (first 6).isSome then keepIn c (· / 32) (hd / 32) x else x
    let quad (x : Nat) : Nat := if (first 5).isSome then keepIn c (· / 8) (die hq / 8) (die x) else die x
    (s, k, some (quad h))
  | _, _, _ => (s, k, none)

/-- The homes of a placed card's undealt records, with the page requests that reading them makes. -/
def cardHomes (s : State) (q : Nat) (k : Card) (l : Launch) : State × List (Nat × Option Nat) :=
  let (s, k', hs) := (rangesList k.undealt).foldl (fun (x : State × Card × List (Nat × Option Nat)) n =>
    let (s, k, h) := homeOf x.1 q x.2.1 l n
    (s, k, x.2.2 ++ [(n, h)])) (s, k, [])
  (s.modCard q k.seq (fun c => { c with waits := k'.waits }), hs)

/-- Records of a card's pool that a core may be dealt: all, or those homed at its cluster (01 R34). -/
def poolFor (s : State) (q : Nat) (k : Card) (l : Launch) (core : Nat) : List Nat :=
  if l.coord = 0xFFFF then rangesTake k.undealt (rangesLen k.undealt)
  else ((cardHomes s q k l).2.filter (fun p => p.2 == some (clusterOf core))).map Prod.fst

/-- A card's pool for a core is not empty. -/
def poolHas (s : State) (q : Nat) (k : Card) (l : Launch) (core : Nat) : Bool :=
  if l.coord = 0xFFFF then k.undealt != [] else poolFor s q k l core != []

/-! ## Starting a unit -/

/-- KiB of G that live gangs of a core hold. [log 31: DEDUCED, safe] -/
def Core.gUsed (k : Core) : Nat := k.gangs.foldl (fun n p => n + p.2.launch.gkib) 0

/-- A core could start one gang of a launch now: slots, registers, accumulators and G (01 R18), and no ring of it overlaps a live
gang's (03 R74). -/
def canStart (k : Core) (l : Launch) : Bool :=
  (roomFor k l.vgran l.aregs l.winit).isSome && decide (k.gUsed + l.gkib ≤ 256) &&
  !k.gangs.any (fun p => p.2.launch.rings.any (fun r => l.rings.any (fun x => r.meets x)))

/-- The lowest gang number free on a core; 64 where all are held. -/
def freeGang (s : State) (c : Nat) : Nat :=
  ((List.range 64).find? (fun i => ((s.core c).gangs.get? i).isNone &&
    !s.sched.savedGangs.any (fun g => g.core == c && g.gang.id == i))).getD 64

/-- A core could start one gang of a launch now, under a number of its own (01 R18; 02 R47). -/
def gangStarts (s : State) (c : Nat) (l : Launch) : Bool := canStart (s.core c) l && decide (freeGang s c < 64)

/-- A switch of time slices has begun and the core has not passed yet: nothing is dealt to it (16 R373). -/
def passing (s : State) (c : Nat) : Bool :=
  match s.sched.slice with | some t => t.switching && t.todo.contains c | none => false

/-- A core that serves a function and has reported ready. -/
def serves (s : State) (c f : Nat) : Bool := (s.core c).ready && (s.core c).vf == some f && !passing s c

/-- A core of a shared cluster in the off phase takes only unplaced cards of function 0 (16 R373). -/
def mayTake (s : State) (c : Nat) (l : Launch) : Bool :=
  !(s.sharedClusters.contains (clusterOf c) && (s.core c).vf == some 0 && !s.sched.slice.any TimeSlice.on) || l.coord == 0xFFFF

/-- Cores of a quadrant, rising. -/
def quadCores (c : Nat) : List Nat := (List.range 32).map (fun i => 32 * (c / 32) + i)

/-- Cores for a team led by core c: c and others of its quadrant that could start a gang each; which others, and in which ranks, is
open (01 R29). [log 53: DESIGN CHOICE, unsafe] -/
def teamCores (s : State) (c f : Nat) (l : Launch) : Option (List Nat) :=
  let ok (x : Nat) : Bool := serves s x f && mayTake s x l && gangStarts s x l
  let rest := (quadCores c).filter (fun x => x != c && ok x)
  let k := Config.chooser s.free % max 1 rest.length
  if ok c && decide (l.gangs ≤ rest.length + 1) then some (c :: ((rest.drop k ++ rest.take k).take (l.gangs - 1))) else none

/-- A unit of a launch could start from core c (01 R18, R29). -/
def unitStarts (s : State) (c f : Nat) (l : Launch) : Bool :=
  if l.isTeam then (teamCores s c f l).isSome else serves s c f && mayTake s c l && gangStarts s c l

/-! ## Dealing -/

/-- Undealt records a core holds. -/
def Core.nHeld (k : Core) : Nat := k.held.foldl (fun n h => n + h.recs.length) 0

/-- Begun cards with undealt records, of queues that a function owns, as queue and card. -/
def begunCards (s : State) (f : Nat) : List (Nat × Card) :=
  s.sched.queues.flatMap (fun p =>
    if p.2.owner ≠ f ∨ p.2.paused ∨ p.2.withdrawn then []
    else (p.2.cards.filter (fun k => k.begun && k.undealt != [])).map (fun k => (p.1, k)))

/-- The card a deadline window is open for. -/
def windowCard (s : State) (q : Nat) : Option W32 :=
  if s.sched.windows.contains q then (s.queue q).deadline.map Prod.fst else none

/-- Begun cards that have not completed, of queues that a function owns, as queue, card and launch. -/
def liveCards (s : State) (f : Nat) : List (Nat × Card × Launch) :=
  s.sched.queues.flatMap (fun p =>
    if p.2.owner ≠ f then []
    else (p.2.cards.filter (fun k => k.begun && k.status.isNone)).filterMap (fun k => k.launch.map (fun l => (p.1, k, l))))

/-- A card has a pool that includes a core, empty or not: an unplaced card's one, or that of a cluster at which records of it are or
were homed (01 R34; 15 R341). -/
def poolIncludes (s : State) (q : Nat) (k : Card) (l : Launch) (c : Nat) : Bool :=
  mayTake s c l && (l.coord == 0xFFFF || k.homes.contains (clusterOf c) || poolHas s q k l c)

/-- A core requests work (15 R341). -/
def requestsWork (s : State) (c : Nat) : Bool :=
  match (s.core c).vf with
  | none => false
  | some f =>
    let mine := (liveCards s f).filter (fun p => poolIncludes s p.1 p.2.1 p.2.2 c)
    let open_ := mine.any (fun p => windowCard s p.1 == some p.2.1.seq &&
      !(s.core c).held.any (fun h => h.q == p.1 && h.seq == p.2.1.seq && h.recs != []))
    (s.core c).ready && !passing s c && ((s.core c).nHeld == 0 || open_) && mine.any (fun p => unitStarts s c f p.2.2)

/-- Eligible consumers of a pool at a moment (01 R34): cores that request work, or for TEAM units quadrants that do. -/
def eligible (s : State) (q : Nat) (k : Card) (l : Launch) (core : Nat) : Nat :=
  let f := (s.queue q).owner
  let cs := (s.cores.map Prod.fst).filter (fun c =>
    (s.core c).vf == some f && (l.coord == 0xFFFF || clusterOf c == clusterOf core) && mayTake s c l && requestsWork s c &&
    poolHas s q k l c)
  if l.isTeam then (((List.range 16).filter (fun d => cs.any (fun c => c / 32 == d))).length) else cs.length

/-- The size of a chunk (01 R34). -/
def chunkSize (remaining minchunk divisor n : Nat) : Nat :=
  min remaining (max minchunk ((remaining + divisor * max 1 n - 1) / (divisor * max 1 n)))

/-- Of two queues of one class, the one that comes first after the queue that last served the core (15 R341). -/
def afterQ (last q : Nat) : Nat := (q + 1024 - (last + 1) % 1024) % 1024

/-- The card the dealer chooses for a consumer, by the queue that last served it (15 R341). -/
def chooseCard (s : State) (last : Nat) (cards : List (Nat × Card)) : Option (Nat × Card) :=
  let key (p : Nat × Card) : Nat × Nat × Nat :=
    ((s.queue p.1).cls, afterQ last p.1, (p.2.seq - (s.queue p.1).headseq).toNat)
  let less (a b : Nat × Nat × Nat) : Bool :=
    decide (a.1 < b.1) || (a.1 == b.1 && (decide (a.2.1 < b.2.1) || (a.2.1 == b.2.1 && decide (a.2.2 < b.2.2))))
  cards.foldl (fun m p => match m with
    | none => some p
    | some x => if less (key p) (key x) then some p else some x) none

/-- Cards with undealt records in a pool that includes a core of function f. -/
def dealable (s : State) (f c : Nat) : List (Nat × Card) :=
  (begunCards s f).filter (fun p => match p.2.launch with
    | some l => poolHas s p.1 p.2 l c && mayTake s c l
    | none => false)

/-- No core of a lower number has a request that can be served (15 R341). -/
def lowestRequest (s : State) (c : Nat) : Bool :=
  s.cores.all (fun p => decide (c ≤ p.1) || !requestsWork s p.1 || (match p.2.vf with | some f => dealable s f p.1 == [] | none => true))

/-- CORE_WORK_REQUEST (15 R341; 01 R34): the dealer chooses a card for the core and cuts it a chunk, lower cores first. A request that
finds no record it may take, because coordinates are still awaited, leaves their page requests. -/
def execCoreWorkRequest (core : Nat) (s : State) : Res :=
  match (s.core core).vf with
  | none => .fault .notEnabled
  | some f =>
    if (s.core core).ready = false then .fault .notEnabled
    else
      let s := (begunCards s f).foldl (fun s p => match p.2.launch with
        | some l => if l.coord = 0xFFFF then s else (cardHomes s p.1 p.2 l).1
        | none => s) s
      if requestsWork s core = false ∨ lowestRequest s core = false then
        (if s.reqs.any (fun r => r.cluster == 128) then .next s else .fault .notEnabled)
      else
        match chooseCard s (s.core core).lastQ (dealable s f core) with
        | none => .fault .notEnabled
        | some (q, k) =>
          match k.launch with
          | none => .fault .notEnabled
          | some l =>
            let pool := poolFor s q k l core
            let n := chunkSize pool.length k.minchunk k.divisor (eligible s q k l core)
            let rs := pool.take n
            let s := s.modCard q k.seq (fun c => { c with
              undealt := rs.foldl rangesDrop c.undealt, homes := if l.coord = 0xFFFF then c.homes else setIns c.homes (clusterOf core) })
            .next (s.modCore core (fun x => { x with
              lastQ := q, held := x.held ++ [{ q := q, seq := k.seq, cls := (s.queue q).cls, recs := rs }] }))

/-! ## Creating gangs -/

/-- Held records of a core in the order in which they start (15 R342): class, SEQ, index, with their launches. [log 82: DEDUCED, unsafe] -/
def startOrder (s : State) (c : Nat) : List (Chunk × Nat × Launch) :=
  let all := (s.core c).held.flatMap (fun h =>
    match (s.card? h.q h.seq).bind (fun k => k.launch) with
    | some l => h.recs.map (fun r => (h, r, l))
    | none => [])
  let key (x : Chunk × Nat × Launch) : Nat :=
    (x.1.cls * 2 ^ 32 + x.1.seq.toNat) * 2 ^ 42 + x.1.q * 2 ^ 32 + x.2.1
  all.mergeSort (fun a b => decide (key a ≤ key b))

/-- A ring as a gang starts with it (03 R75). -/
def RingDecl.start (r : RingDecl) : Ring :=
  { xoff := r.xoff, stageb := r.stageb, minst := r.minst, maxst := r.maxst, filln := 0, drainn := 0, consn := 0, d := r.minst,
    stages := List.replicate r.maxst .empty, drained := List.replicate r.maxst false, fills := [], drains := [],
    waited := false, low := true }

/-- A new gang of a unit (01 R18, R21). -/
def newGang (s : State) (c : Nat) (q : Nat) (k : Card) (l : Launch) (r : Nat) (team : Option (Nat × Nat × Nat)) : Gang :=
  { (default : Gang) with
    id := freeGang s c, vf := (s.queue q).owner, cls := (s.queue q).cls, launch := l, unit := some (q, k.seq, r),
    args := k.recAt r, priv := (s.queue q).priv, team := team, level0 := l.winit,
    bars := List.replicate 16 { ph := 0, e := l.winit, a := 0, held := [] }, rings := l.rings.map RingDecl.start }

/-- One gang of a unit starts on a core: G and its WINIT waves (01 R18, R19). -/
def startGang (s : State) (c : Nat) (q : Nat) (k : Card) (l : Launch) (r : Nat) (team : Option (Nat × Nat × Nat)) : State :=
  match roomFor (s.core c) l.vgran l.aregs l.winit with
  | none => s
  | some (ws, zs) =>
    let g := newGang s c q k l r team
    let s := s.modCore c (fun x => { x with gangs := x.gangs.ins g.id g })
    putWaves s c g ws zs (fun i =>
      { pc := l.entry, level := if g.priv then .h else .u, check := .none, s0 := k.recAt r, s2 := BitVec.ofNat 32 r,
        s3 := BitVec.ofNat 32 i, owes := true })

/-- A deadline's window closes when its card has no record left that has not started (15 R348). -/
def closeWindow (s : State) (q : Nat) : State :=
  match windowCard s q with
  | none => s
  | some n =>
    match s.card? q n with
    | none => s
    | some k =>
      if k.begun && !unstarted s q k then
        { s with sched := { s.sched with windows := s.sched.windows.filter (· != q) } }
      else s

/-- A record leaves a core's held chunks. -/
def takeHeld (s : State) (c q : Nat) (n : W32) (r : Nat) : State :=
  s.modCore c (fun k => { k with
    held := (k.held.map (fun h => if h.q = q ∧ h.seq = n then { h with recs := h.recs.filter (· != r) } else h)).filter
      (fun h => h.recs != []) })

/-- A unit of a queue's card has started on some cores: an open window may ask them again (15 R348). -/
def unitStarted (s : State) (q : Nat) (cs : List Nat) : State :=
  { s with sched := { s.sched with asked := s.sched.asked.filter (fun a => !(a.1 == q && cs.contains a.2.1)) } }

/-- GANG_CREATE (01 R18, R19, R29; 15 R342): the core starts the first held unit that can be started. -/
def execGangCreate (core : Nat) (s : State) : Res :=
  match (s.core core).vf with
  | none => .fault .notEnabled
  | some f =>
    match (startOrder s core).find? (fun x => unitStarts s core f x.2.2) with
    | none => .fault .notEnabled
    | some (h, r, l) =>
      match s.card? h.q h.seq with
      | none => .fault .notEnabled
      | some k =>
        let s := (takeHeld s core h.q h.seq r).modCard h.q h.seq (fun k => { k with live := k.live + 1 })
        let s := if l.isTeam then
            match teamCores s core f l with
            | none => s
            | some cs =>
              let t := s.sched.teams
              let s := { s with sched := { s.sched with teams := t + 1 }, free := s.free + 1 }
              unitStarted ((cs.zipIdx).foldl (fun s p => startGang s p.1 h.q k l r (some (t, p.2, cs.length))) s) h.q cs
          else unitStarted (startGang s core h.q k l r none) h.q [core]
        .next (closeWindow s h.q)

/-- A unit of a card finishes (01 R28). -/
def unitDone (s : State) (q : Nat) (n : W32) : State :=
  s.modCard q n (fun k => { k with finished := k.finished + 1, live := k.live - 1 })

/-! ## The Whisk -/

/-- Lowest class among a core's held records; 3 when none is held (15 R343). -/
def Core.hclass (k : Core) : Nat := k.held.foldl (fun m h => if h.recs = [] then m else min m h.cls) 3

/-- A core's entry of the occupancy vector (15 R343). -/
def occupancyOf (s : State) (c : Nat) : W32 :=
  let k := s.core c
  BitVec.ofNat 32 ((64 - k.slots.length) + (if requestsWork s c then 128 else 0) + 256 * min 65535 k.nHeld + 2 ^ 24 * k.hclass)

/-- A card's pool includes a core: the job's function, and for a placed card the source's cluster (01 R35). -/
def movesTo (s : State) (src dst : Nat) (h : Chunk) : Bool :=
  (s.core dst).vf == (s.core src).vf && (s.core dst).vf.isSome &&
  (match (s.card? h.q h.seq).bind (fun k => k.launch) with
   | some l => (l.coord == 0xFFFF || clusterOf src == clusterOf dst) && mayTake s dst l
   | none => false)

/-- An entry of the vector; a core without an entry has 64 vacant slots and nothing else. -/
def entryOf (v : Tab W32) (c : Nat) : Nat := ((v.get? c).getD 0x03000040).toNat

/-- A pair of cores between which records may move, by one vector (15 R344). -/
def mayMigrate (s : State) (v : Tab W32) (src dst : Nat) : Bool :=
  let e (c : Nat) : Nat := entryOf v c
  src != dst && (e dst).testBit 7 && bits (e dst) 23 8 == 0 &&
  (s.core src).held.any (fun h => h.cls == bits (e src) 25 24 && movesTo s src dst h &&
    decide (2 ≤ (((s.core src).held.filter (fun x => x.q == h.q && x.seq == h.seq)).flatMap Chunk.recs).length))

/-- The source a destination takes: of those of a class, the one with the largest HELD, the lower number on a tie (15 R344). -/
def bestSource (s : State) (v : Tab W32) (cls dst : Nat) (used : List Nat) : Option Nat :=
  ((List.range 512).filter (fun c => !used.contains c && bits (entryOf v c) 25 24 == cls && mayMigrate s v c dst)).foldl
    (fun m c => match m with
      | none => some c
      | some b => if bits (entryOf v b) 23 8 < bits (entryOf v c) 23 8 then some c else some b) none

/-- The migration commands of one vector: source, destination, count (15 R344). [log 83: DEDUCED, unsafe] -/
def migrations (s : State) (v : Tab W32) : List (Nat × Nat × Nat) :=
  let goal := (List.range 4).flatMap (fun h => (List.range 512).map (fun d => (h, d)))
  (goal.foldl (fun (x : List (Nat × Nat × Nat) × List Nat) p =>
    if x.2.contains p.2 then x
    else
      match bestSource s v p.1 p.2 x.2 with
      | none => x
      | some c => (x.1 ++ [(c, p.2, bits (entryOf v c) 23 8 / 2)], c :: p.2 :: x.2)) ([], [])).1

/-- WHISK_PERIOD (15 R343, R344): the Whisk reads the vector and issues its commands. -/
def execWhiskPeriod (s : State) : Res :=
  if s.rdy.whisk = false ∨ s.fc < s.sched.whiskFc + 4096 then .fault .notEnabled
  else
    let v : Tab W32 := s.cores.map (fun p => (p.1, occupancyOf s p.1))
    let s := { s with sched := { s.sched with occupancy := v, whiskFc := s.sched.whiskFc + 4096 } }
    .next ((migrations s v).foldl (fun s m => s.modCore m.1 (fun k => { k with migrate := some m.2 })) s)

/-- The held chunk a command takes from: lowest class, then lowest SEQ, of the cards it may move (15 R345). -/
def migrateFrom (s : State) (src dst : Nat) : Option Chunk :=
  ((startOrder s src).find? (fun x => movesTo s src dst x.1)).map (fun x => x.1)

/-- WHISK_MIGRATE (15 R345): the source applies its command in one step. -/
def execWhiskMigrate (source : Nat) (s : State) : Res :=
  match (s.core source).migrate with
  | none => .fault .notEnabled
  | some (dst, n) =>
    let s := s.modCore source (fun k => { k with migrate := none })
    match migrateFrom s source dst with
    | none => .next s
    | some h =>
      let all := ((s.core source).held.filter (fun x => x.q == h.q && x.seq == h.seq)).flatMap Chunk.recs
      let rs := (all.mergeSort (fun a b => decide (b ≤ a))).take n
      if rs = [] then .next s
      else
        let s := rs.foldl (fun s r => takeHeld s source h.q h.seq r) s
        .next (s.modCore dst (fun k => { k with held := k.held ++ [{ h with recs := rs.reverse }] }))

/-! ## Deckles -/

/-- The quadrant's Deckle, its units. -/
def State.deckle (s : State) (d : Nat) : List DkUnit := (s.sched.deckles.get? d).getD []
/-- Replaces the units of a Deckle. -/
def State.setDeckle (s : State) (d : Nat) (us : List DkUnit) : State :=
  { s with sched := { s.sched with deckles := if us = [] then s.sched.deckles.del d else s.sched.deckles.ins d us } }

/-- A Deckle of a quadrant that holds a cluster of a function (10 R237). -/
def deckleServes (s : State) (d f : Nat) : Bool := s.rdy.deckles.getLsbD d && (s.clustersOf f).any (fun c => c / 8 == d)

/-- Begun cards of KIND 1 with undealt records that a Deckle may take. [log 84: DEDUCED, unsafe] -/
def deckleCards (s : State) (d : Nat) : List (Nat × Card) :=
  s.sched.queues.flatMap (fun p =>
    if p.2.paused || p.2.withdrawn || !deckleServes s d p.2.owner then []
    else (p.2.cards.filter (fun k => k.begun && k.kind == 1 && k.undealt != [])).map (fun k => (p.1, k)))

/-- A DKRUN word's fields with ACQ and REL at PKG. -/
def deckleFields : Fields :=
  { guard := 15, gneg := false, sf := false, ru := 0, t := false, s := false, dst := .absent, a := .absent, b := .absent,
    c := .absent, mod := 0x398, imm := 0 }

/-- The command of one record's run (10 R237). -/
def deckleCmd (s : State) (q : Nat) (k : Card) (r : Nat) : LCmd :=
  { (default : LCmd) with id := s.nextUid, by_ := (queueAt s q).by_, opc := 0xDE, f := deckleFields, c := k.recAt r,
                          graph := k.graph, dkidx := 0xFFFFFFFF }

/-- A Deckle's run as a job. -/
def deckleJob (q : LCmd) : Job := { g := { core := none, by_ := q.by_, kind := 3, id := q.id, ordinal := 0 }, q := q }

/-- One step of a Deckle's run: acceptance, the lowest chunk left, or its end: none where it waits. [log 62: DEDUCED, unsafe] -/
def deckleStep (s : State) (q : LCmd) : Option (State × Option LCmd) :=
  let j := deckleJob q
  if q.accepted = false then
    let (s, j) := acceptJob s j
    some (s, some j.q)
  else if allChunks s j && !needsTail s j then
    if cmdWriting s 0xFFFF 3 q.id then none
    else some ({ s with peers := s.peers.filter (fun p => p.cmd != some (0xFFFF, 3, q.id)) }, none)
  else
    match (List.range (j.nChunk s + 1)).findSome? (fun k => chunkStep s j k) with
    | none => none
    | some (s, j) => some (s, some j.q)

/-- DECKLE_WORK_REQUEST (10 R237; 01 R34): the Deckle goes on with its run, starts its next record, or is dealt a chunk. -/
def execDeckleWorkRequest (quadrant : Nat) (s : State) : Res :=
  match s.deckle quadrant with
  | u :: us =>
    match u.run with
    | some c =>
      match deckleStep s c with
      | none => .fault .notEnabled
      | some (s, some c) => .next (s.setDeckle quadrant ({ u with run := some c } :: us))
      | some (s, none) =>
        let s := s.setDeckle quadrant (if u.recs = [] then us else { u with run := none } :: us)
        .next (unitDone s u.q u.seq)
    | none =>
      match u.recs, s.card? u.q u.seq with
      | r :: rs, some k =>
        let c := deckleCmd s u.q k r
        let s := { s with nextUid := s.nextUid + 1 }
        let s := s.modCard u.q u.seq (fun k => { k with live := k.live + 1 })
        .next (s.setDeckle quadrant ({ u with recs := rs, run := some c } :: us))
      | _, _ => .next (s.setDeckle quadrant us)
  | [] =>
    match chooseCard s 1023 (deckleCards s quadrant) with
    | none => .fault .notEnabled
    | some (q, k) =>
      let n := ((List.range 16).filter (fun d => deckleServes s d (s.queue q).owner && s.deckle d == [])).length
      let m := rangesLen k.undealt
      let rs := rangesTake k.undealt (chunkSize m k.minchunk k.divisor n)
      let s := s.modCard q k.seq (fun c => { c with undealt := rs.foldl rangesDrop c.undealt })
      .next (s.setDeckle quadrant [{ q := q, seq := k.seq, recs := rs, run := none }])

end Sys2Proof.Machine
end

