-- ==== Sys2Proof/Machine/Sieve.lean ====
section
/-! DEFINITION. The Sieve's mailbox and its requests for queues, filters, deadlines and the save pool; doorbells, JOBPOST and posts
between tenants (09 R223, R224; 15 R338, R346 to R350; 18 R392). -/

namespace Sys2Proof.Machine

/-! ## The mailbox -/

/-- A write to SUBMIT by a party at level H or not: the request is copied and queued, or ignored and counted (18 R392). -/
def submitAt (s : State) (f : Nat) (h : Bool) (token : W32) : State :=
  let m := (s.func f).mbox
  if m.pending then s.modErr f (fun e => { e with mbox := satInc64 e.mbox })
  else s.modFunc f (fun x => { x with mbox := { m with pending := true, token := token, req := some (m.code, m.args, h) } })

/-- SUBMIT (18 R392), by the host: level H through PF 0, else G. -/
def execSubmit (vf : Nat) (token : W32) (s : State) : Res :=
  if exposed s vf then .next (submitAt s vf (vf == 0) token) else .fault .notEnabled

/-- The reply of a request: RSTAT, then RTOKEN, then PENDING clear, and the vector (18 R392, R393). -/
def mailReply (s : State) (f status : Nat) : State :=
  msixEvent (s.modFunc f (fun x => { x with mbox :=
    { x.mbox with rstat := BitVec.ofNat 32 status, rtoken := x.mbox.token, pending := false, req := none } })) f 3

/-- Codes of R347, R352 and R385. -/
def requestCode (c : Nat) : Bool := decide (1 ≤ c ∧ c ≤ 8)

/-- Executes the pending request of function f, if its code is the one named: argument k is a k, h tells level H. The answer gives
the state and the status. Before START every request is BUSY (18 R408); a code not assigned, which the first event to run finds,
is BADARG. [log 86: DEDUCED, unsafe] -/
def mailRequest (s : State) (f code : Nat) (body : (Nat → W64) → Bool → State × Nat) : Res :=
  match (s.func f).mbox.req with
  | none => .fault .notEnabled
  | some (c, args, h) =>
    if s.rdy.sieve = false then .fault .notEnabled
    else if requestCode c.toNat = false then .next (mailReply s f 2)
    else if c.toNat ≠ code then .fault .notEnabled
    else if s.conf.startst ≠ 1 then .next (mailReply s f 3)
    else
      let (t, st) := body (fun k => args.getD k 0) h
      .next (mailReply t f st)

/-- n bytes of a table in HOST-owned frames; none where a frame is another's. [log 106: DEDUCED, unsafe] -/
def hostTable (s : State) (a n : Nat) : Option (List Byte) := if s.owned .host a then some (s.bytesAt a n) else none

/-! ## Queues -/

/-- A queue entry is legal (15 R337). -/
def queueEntryOk (b : List Byte) : Bool :=
  recNat b 0 8 % 4096 == 0 && pow2In (recNat b 8 4) 16 65536 && decide (recNat b 12 1 ≤ 63) && decide (recNat b 13 1 ≤ 3) &&
  !((recNat b 14 1).testBit 1 && recNat b 12 1 != 0) && decide (recNat b 48 4 ≤ 65535) &&
  (recNat b 48 4 == 0 || recNat b 40 8 % 4 == 0)

/-- The queue that an entry describes, with SEQ and HEADSEQ 0 (15 R337, R347). -/
def queueOf (old : Queue) (b : List Byte) : Queue :=
  { (default : Queue) with
    owner := recNat b 12 1, enabled := (recNat b 14 1).testBit 0, priv := (recNat b 14 1).testBit 1,
    hostq := (recNat b 14 1).testBit 2, cls := recNat b 13 1, ring := BitVec.ofNat 64 (recNat b 0 8), nent := recNat b 8 4,
    ctrbase := BitVec.ofNat 64 (recNat b 40 8), nctr := recNat b 48 4, need := BitVec.ofNat 128 (recNat b 24 16),
    lead := recNat b 16 4, withdrawals := old.withdrawals, misses := old.misses }

/-- Queues that function f owns with ENABLED set, but for queue q (16 R371). -/
def ownedQueues (s : State) (f q : Nat) : Nat :=
  (s.sched.queues.filter (fun p => p.1 != q && p.2.owner == f && p.2.enabled)).length

/-- QSET (15 R347): reads entry q, checks it and sets the queue up. -/
def execQset (vf : Nat) (s : State) : Res :=
  mailRequest s vf 1 (fun a h =>
    let q := (a 0).toNat
    if vf ≠ 0 ∨ h = false then (s, 1)
    else if 1024 ≤ q then (s, 2)
    else if (s.queue q).cards ≠ [] then (s, 3)
    else
      match hostTable s (s.conf.qtbase.toNat + 64 * q) 64 with
      | none => (s, 2)
      | some b =>
        let n := queueOf (s.queue q) b
        if queueEntryOk b = false then (s, 2)
        else if n.enabled ∧ (s.func n.owner).maxq < ownedQueues s n.owner q + 1 then (s, 2)
        else ({ (s.modQueue q (fun _ => n)) with
                sched := { (s.modQueue q (fun _ => n)).sched with windows := s.sched.windows.filter (· != q) } }, 0))

/-- A filter entry from its bytes (15 R349). [log 152: DESIGN CHOICE, unsafe] -/
def filterOf (old : Filter) (b : List Byte) : Filter :=
  let mcap := recNat b 22 2
  { valid := (recNat b 18 1).testBit 0 && decide (recNat b 19 1 ≤ 63) && decide (recNat b 20 2 < 1024) && pow2In mcap 1 4096 &&
             recNat b 8 8 % 16 == 0,
    src := recNat b 19 1, dq := recNat b 20 2, mcap := mcap, mring := BitVec.ofNat 64 (recNat b 8 8),
    entry := BitVec.ofNat 64 (recNat b 0 8), count := 0, openMsgs := old.openMsgs }

/-- FILTER (15 R347, R349): reloads entry i. -/
def execFilter (vf : Nat) (s : State) : Res :=
  mailRequest s vf 2 (fun a h =>
    let i := (a 0).toNat
    if vf ≠ 0 ∨ h = false then (s, 1)
    else if 4096 ≤ i then (s, 2)
    else
      match hostTable s (s.conf.mftbase.toNat + 32 * i) 32 with
      | none => (s, 2)
      | some b =>
        let old := (s.sched.filters.get? i).getD default
        ({ s with sched := { s.sched with filters := s.sched.filters.ins i (filterOf old b) } }, 0))

/-- DEADLINE (15 R347): of the oldest card not completed, or of the next to enter; a queue never set up has no CLASS 0. -/
def execDeadline (vf : Nat) (s : State) : Res :=
  mailRequest s vf 3 (fun a h =>
    let q := (a 0).toNat
    if 1024 ≤ q then (s, if h then 2 else 1)
    else if h = false ∧ (s.queue q).owner ≠ vf then (s, 1)
    else if (s.queue q).nent = 0 ∨ (s.queue q).cls ≠ 0 then (s, 2)
    else
      let t := s.queue q
      let n := match t.cards.find? (fun k => !k.closed) with | some k => k.seq | none => t.seq
      let d := s.ticks + ((a 1).toNat % 2 ^ 32 + 9) / 10
      let s := s.modQueue q (fun t => { t with deadline := some (n, d) })
      ({ s with sched := { s.sched with windows := s.sched.windows.filter (· != q) } }, 0))

/-- SAVEPOOL (15 R347): the frames that receive save records. -/
def execSavepool (vf : Nat) (s : State) : Res :=
  mailRequest s vf 4 (fun a h =>
    let base := (a 0).toNat
    let n := (a 1).toNat
    if vf ≠ 0 ∨ h = false then (s, 1)
    else if base % 65536 ≠ 0 ∨ hbmEnd < base + 65536 * n then (s, 2)
    else if (List.range n).any (fun i => s.owner (base + 65536 * i) != ownHost) then (s, 2)
    else ({ s with sched := { s.sched with pool := some (base, n) } }, 0))

/-- DEADLINE_WINDOW_OPEN (15 R348): the Sieve counter has reached deadline − LEAD. -/
def execDeadlineWindowOpen (q : Nat) (s : State) : Res :=
  match (s.queue q).deadline with
  | none => .fault .notEnabled
  | some (n, t) =>
    if s.sched.windows.contains q ∨ s.ticks + (s.queue q).lead < t then .fault .notEnabled
    else if (match s.card? q n with | some k => k.begun && !unstarted s q k | none => false) then .fault .notEnabled
    else .next { s with sched := { s.sched with windows := setIns s.sched.windows q,
                                                   asked := s.sched.asked.filter (fun a => a.1 != q) } }

/-! ## Doorbells -/

/-- A write of V to the doorbell of queue q in function f's block (15 R338; 18 R391): cards SEQ to V − 1 enter, or it is ignored and
counted. Before START it is ignored (18 R408). -/
def ring (s : State) (f q : Nat) (v : W32) : State :=
  let t := s.queue q
  if s.conf.startst ≠ 1 then s
  else if 1024 ≤ q ∨ t.owner ≠ f ∨ t.enabled = false ∨ t.hostq = false ∨ t.nent < (v - t.headseq).toNat ∨
     2 ^ 31 ≤ (v - t.seq).toNat then
    s.modErr f (fun e => { e with bell := satInc64 e.bell })
  else (List.range (v - t.seq).toNat).foldl (fun s _ => enterCard s q id [] false) s

/-- DOORBELL (15 R338). -/
def execDoorbell (vf q : Nat) (value : W32) (s : State) : Res :=
  if exposed s vf then .next (ring s vf q value) else .fault .notEnabled

/-! ## JOBPOST -/

/-- JOBPOST (09 R223): its leader lane reads the card. -/
def execJobpost (f : Fields) (s : State) : Res :=
  sharedWord 0xDF f s accR (fun _ => []) (fun x => (x.active f).take 1 |>.map (fun l =>
    { lane := l, va := x.rd64 f f.a l, src := (x.rd f f.b l).setWidth 128, src2 := 0 }))

/-- SCOPE of the release of R36, from a card and the LEVEL0 descriptor at its ENTRY + 32 (09 R224). -/
def postScope (b : List Byte) : Nat :=
  if b.length < 72 then 7
  else
    let d := recNat b 64 1
    if d % 16 ≤ 7 ∧ scopeHas (d / 16) (d % 16) = true ∧ recNat b 65 1 = 0 ∧ recNat b 66 2 ≠ 0 ∧ recNat b 68 2 ≠ 0 ∧
       recNat b 70 2 ≠ 0 then d / 16
    else 7

/-- The valid filter entry of lowest index by which a poster may post to a queue of another owner (15 R349, R350). -/
def filterFor (s : State) (poster q : Nat) : Option (Nat × Filter) :=
  s.sched.filters.find? (fun p => p.2.valid && p.2.src == poster && p.2.dq == q)

/-- The entry of a card into queue b for a poster: the status, and the card's number (09 R224; 15 R338, R349, R350). [log 87: DEDUCED, unsafe] -/
def postCard (s : State) (vf : Nat) (level : Level) (b : Nat) (card : List Byte) : State × Nat × W32 :=
  let t := s.queue b
  let own := t.owner == vf
  if 1024 ≤ b ∨ t.enabled = false ∨ t.hostq = true ∨ (own = false ∧ filterFor s vf b = none) then (s, 2, 0)
  else if t.full then (s, 1, 0)
  else if own then (writeSlot (enterCard s b id card true) b t.seq, 0, t.seq)
  else
    let s := enterCard s b (fun k => { k with reserved := true }) [] false
    ({ s with sched := { s.sched with posts := s.sched.posts ++
      [{ q := b, seq := t.seq, poster := vf, level := level, card := card, withdrawals := t.withdrawals, verdict := none,
         waits := [] }] } }, 0, t.seq)

/-- What JOBPOST's lane has read: the card, and with KIND 0 the descriptor, which it reads next (09 R224). The operation's m counts
its steps: 0 card, 1 descriptor, 2 release and entry, 3 + 4 SEQ its slot is being written. [log 45: DEDUCED, unsafe] -/
def jobpostGot (s : State) (c w id lane : Nat) (b : List Byte) : State :=
  match (s.slot? c w).bind (fun t => t.wave.op? id) with
  | none => s
  | some o =>
    let all := o.bytes ++ b
    let more := o.m == 0 && recNat all 24 1 == 0
    s.modWave c w (fun v => v.modOp id (fun o =>
      { o with bytes := all, m := if more then 1 else 2, lanes := o.lanes.map (fun (l : LaneOp) =>
        if l.lane ≠ lane then l
        else if more then { l with va := BitVec.ofNat 64 (recNat all 0 8 + 32), tgt := .none, st := .behind }
        else { l with st := .known }) }))

/-- The status of a JOBPOST is written (09 R224). -/
def jobpostEnd (s : State) (c w id lane st : Nat) (n : W32) : State :=
  match (s.slot? c w).bind (fun t => t.wave.op? id) with
  | none => s
  | some o => finishLane s c w id lane (wr64 o.f.dst lane (n ++ (BitVec.ofNat 32 st : W32))) 0

/-- JOBPOST after its reads: the release, the entry, the write of the slot; none while it waits (09 R224). -/
def jobpostStep (s : State) (c w id lane : Nat) : Option State :=
  match s.slot? c w with
  | none => none
  | some t =>
    match t.wave.op? id with
    | none => none
    | some o =>
      let q := match o.lanes with | l :: _ => l.src.toNat | [] => 0
      if o.m = 2 then
        if releaseDone (s.core c) t.wave id (postScope o.bytes) = false then none
        else
          let s := s.modWave c w (fun v => v.modOp id (fun o => { o with released := true }))
          let (s, st, n) := postCard s t.wave.vf o.level q (o.bytes.take 64)
          if st = 0 ∧ (match s.card? q n with | some k => k.unwritten | none => false) = true then
            some (s.modWave c w (fun v => v.modOp id (fun o => { o with m := 3 + 4 * n.toNat })))
          else some (jobpostEnd (if st = 0 then finishCard s q n else s) c w id lane st n)
      else
        let n := BitVec.ofNat 32 (o.m / 4)
        let s := writeSlot s q n
        if (match s.card? q n with | some k => k.unwritten | none => false) = true then some s
        else some (jobpostEnd (finishCard s q n) c w id lane 0 n)

/-! ## Posts between tenants -/

/-- A poster's space (15 R350). -/
def posterAt (p : Post) : EngAt :=
  { core := none, kind := 5, id := 1024 + p.q, ordinal := 0,
    by_ := { uid := 0, wave := 0xFF, after := 0, lane := 0, gang := 0xFF, vf := p.poster, world := 0, level := p.level,
             spo := 0xFFFFFFFF, off := 31, flag := none } }

/-- The message of an admitted post (15 R350). -/
def messageOf (tag : Nat) (poster m : Nat) : List Byte := leBytes 8 tag ++ leBytes 2 poster ++ leBytes 2 0 ++ leBytes 4 m

/-- The card the Sieve places for an admitted post (15 R350). -/
def admittedCard (e : Filter) (msg : W64) (tag : Nat) : List Byte :=
  leBytes 8 e.entry.toNat ++ leBytes 8 msg.toNat ++ leBytes 4 1 ++ leBytes 2 16 ++ leBytes 1 1 ++ leBytes 1 1 ++ leBytes 4 0 ++
  leBytes 4 0xFFFFFFFF ++ leBytes 8 0 ++ leBytes 8 tag ++ List.replicate 16 0

/-- Replaces the post under examination. -/
def putPost (s : State) (p : Option Post) : State :=
  { s with sched := { s.sched with posts := p.toList ++ s.sched.posts.drop 1 } }

/-- The message of a post is written, and its card takes the reserved slot: the verdict, or a wait (15 R350). A message that may not
be written denies the post. -/
def placeMessage (s : State) (p : Post) (i : Nat) (e : Filter) : State × Post :=
  let msg := e.mring + BitVec.ofNat 64 (16 * (e.count % e.mcap))
  let tag := recNat p.card 40 8
  let g := queueAt s p.q
  match engProbe s g p.waits msg 16 false with
  | (s, ps, .wait) => (s, { p with waits := ps })
  | (s, _, .err _) => (s, { p with waits := [], verdict := some false })
  | (s, ps, _) =>
    let (s, _, _) := ownerWrite s g ps msg (messageOf tag p.poster e.count)
    let s := { s with sched := { s.sched with
      filters := s.sched.filters.adj i (fun (e : Filter) => { e with count := e.count + 1, openMsgs := e.openMsgs + 1 }) } }
    let s := s.modCard p.q p.seq (fun k =>
      { k with reserved := false, unwritten := true, bytes := admittedCard e msg tag, mfe := some i })
    (s, { p with waits := [], verdict := some true })

/-- A denied post's card completes at once without running (15 R350). -/
def denyPost (s : State) (p : Post) : State :=
  endWithdraw (finishCard (s.modCard p.q p.seq (fun k =>
    { k with reserved := false, read := true, begun := true, signalled := true, status := some 3, done := 0 })) p.q p.seq) p.q

/-- The poster's completion record; the post is done with once it is written (15 R350). -/
def posterRecord (s : State) (p : Post) (ok : Bool) : State :=
  let d := recNat p.card 32 8
  if d = 0 ∨ d % 16 ≠ 0 then putPost s none
  else
    match ownerWrite s (posterAt p) p.waits (BitVec.ofNat 64 d)
        (doneRecord (BitVec.ofNat 64 (recNat p.card 40 8)) (if ok then 0 else 3) (if ok then 1 else 0)) with
    | (s, _, true) => putPost s none
    | (s, ps, false) => putPost s (some { p with waits := ps })

/-- The rest of an admitted post: its card's slot is written, then the poster's record, in that order (15 R350). -/
def finishPost (s : State) (p : Post) : State :=
  let s := writeSlot s p.q p.seq
  if (match s.card? p.q p.seq with | some k => k.unwritten | none => false) then s else posterRecord s p true

/-- SIEVE_POST_EXAMINE (15 R350): the oldest reserved post is decided, and the poster's record written. [log 151: DESIGN CHOICE, unsafe] -/
def execSievePostExamine (s : State) : Res :=
  match s.sched.posts with
  | [] => .fault .notEnabled
  | p :: _ =>
    if s.rdy.sieve = false then .fault .notEnabled
    else
      match p.verdict with
      | some ok => .next (if ok then finishPost s p else posterRecord s p ok)
      | none =>
        let e := filterFor s p.poster p.q
        let go : Option (Nat × Filter) := match e with
          | some (i, e) => if e.mcap ≤ e.openMsgs ∨ (s.queue p.q).withdrawals ≠ p.withdrawals then none else some (i, e)
          | none => none
        match go with
        | none =>
          let p := { p with verdict := some false }
          .next (posterRecord (denyPost (putPost s (some p)) p) p false)
        | some (i, e) =>
          let (s, p) := placeMessage s p i e
          match p.verdict with
          | none => .next (putPost s (some p))
          | some true => .next (finishPost (putPost s (some p)) p)
          | some false => .next (posterRecord (denyPost (putPost s (some p)) p) p false)

end Sys2Proof.Machine
end

