-- ==== Sys2Proof/Machine/Stockpot.lean ====
section
/-! DEFINITION. The Stockpot: lookups, fills, drops, wakes, invalidation and ageing, eviction, and shading records with their batches
(12 R277 to R289, R420; 04 R111). -/

namespace Sys2Proof.Machine

/-! ## Keys and entries -/

/-- The hash of a key (12 R279). -/
def keyHash (k : W64) : W64 := k * 0x9E3779B97F4A7C15
/-- The home slice of a key. -/
def keySlice (k : W64) : Nat := (keyHash k).toNat / 2 ^ 57
/-- The set of a key. -/
def keySet (k : W64) : Nat := (keyHash k).toNat / 2 ^ 43 % 2 ^ 14
/-- The bucket of a key's object (12 R280). -/
def keyBucket (k : W64) : Nat := k.toNat % 4096
/-- An invalid entry. -/
def TagEnt.empty : TagEnt := default

/-- Entry n of a slice: 16 × set + way. -/
def Slice.tag (t : Slice) (n : Nat) : TagEnt := Tab.get TagEnt.empty t.tags n
/-- Replaces an entry. -/
def Slice.setTag (t : Slice) (n : Nat) (e : TagEnt) : Slice := { t with tags := Tab.put TagEnt.empty t.tags n e }
/-- The ways of a set. -/
def waysOf (set : Nat) : List Nat := (List.range 16).map (16 * set + ·)

/-- The entry that a key and a world match (12 R278). -/
def Slice.match? (t : Slice) (k : W64) (world : Nat) : Option Nat :=
  (waysOf (keySet k)).find? (fun n => (t.tag n).state != 0 && (t.tag n).key == k && (t.tag n).world == world)

/-- The generation of a bucket of a world. -/
def World.genOf (w : World) (b : Nat) : BitVec 16 := Tab.get 0 w.gen b

/-- Changes the world of a tag. -/
def State.modWorld (s : State) (tag : Nat) (g : World → World) : State :=
  { s with worlds := s.worlds.map (fun p => if p.2.tag = tag then (p.1, g p.2) else p) }

/-- How a candidate for eviction ranks, the least first: another generation, then oldness, then distance from the hand (12 R289). -/
def evictKey (s : State) (e : TagEnt) (pos hand size : Nat) : Nat :=
  let w := (s.world? e.world).getD default
  let d := (pos + size - hand % size) % size
  (if e.gen ≠ w.genOf (keyBucket e.key) then 0 else 2 ^ 48) + 2 ^ 32 * (255 - (w.wage - e.age).toNat) + d

/-- The victim among VALID candidates (12 R289): entry and position. -/
def victim (s : State) (t : Slice) (cs : List (Nat × Nat)) (hand size : Nat) : Option (Nat × Nat) :=
  (cs.filter (fun c => (t.tag c.1).state == 2)).foldl (fun m c => match m with
    | none => some c
    | some b => if evictKey s (t.tag c.1) c.2 hand size < evictKey s (t.tag b.1) b.2 hand size then some c else some b) none

/-- Pool slots of a world in a slice, rising (12 R280). -/
def poolSlots (w : World) (slice : Nat) : List Nat := (List.range (w.scnt / 128)).map (fun i => w.sbase + slice + 128 * i)

/-- Entries of a world that hold a slot, in a slice. -/
def worldEnts (t : Slice) (tag : Nat) : List Nat := (t.tags.filter (fun p => p.2.state != 0 && p.2.world == tag)).map Prod.fst

/-- Where a new entry can lie: its way, the way's victim, its slot, the slot's victim; none where it cannot (12 R283, R289). Which
invalid way and which free slot is open. -/
structure Room where
  way : Nat
  wayVictim : Option (Nat × Nat)
  slot : Nat
  slotVictim : Option (Nat × Nat)
  deriving DecidableEq, Repr

/-- An element of a list chosen by a free value. -/
def pick (l : List Nat) (k : Nat) : Option Nat := l[k % max 1 l.length]?

/-- See Room. -/
def roomIn (s : State) (slice : Nat) (w : World) (set : Nat) : Option Room :=
  let t := s.slice slice
  let ws := waysOf set
  let wv := victim s t (ws.zipIdx) (Tab.get 0 t.wayHand set) 16
  let way : Option (Nat × Option (Nat × Nat)) := match pick (ws.filter (fun n => (t.tag n).state == 0)) (Config.freeSlot slice (2 * s.free)) with
    | some n => some (n, none)
    | none => wv.map (fun (v : Nat × Nat) => (v.1, some v))
  match way with
  | none => none
  | some (way, wayV) =>
    let gone (n : Nat) : Bool := match wayV with | some v => v.1 == n | none => false
    let ents := (worldEnts t w.tag).filter (fun n => !gone n)
    let used := ents.map (fun n => (t.tag n).slot)
    let pool := poolSlots w slice
    match pick (pool.filter (fun n => !used.contains n)) (Config.freeSlot slice (2 * s.free + 1)) with
    | some n => some { way := way, wayVictim := wayV, slot := n, slotVictim := none }
    | none =>
      match victim s t (ents.map (fun n => (n, ((t.tag n).slot - w.sbase) / 128))) (Tab.get 0 t.slotHand w.tag) (max 1 pool.length) with
      | none => none
      | some v => some { way := way, wayVictim := wayV, slot := (t.tag v.1).slot, slotVictim := some v }

/-- Makes an entry INVALID; its slot is free. -/
def dropTag (s : State) (slice n : Nat) : State := s.modSlice slice (fun t => t.setTag n TagEnt.empty)

/-! ## Answers and wakes -/

/-- Drops a core's L1 lines of a heap slot: the acquire of R111. -/
def acquireSlot (s : State) (c slot : Nat) : State :=
  (List.range 8).foldl (fun s i => dropL1 s c ((s.conf.heapspa.toNat + 512 * slot) / 64 + i)) s

/-- The flags of an STK operation as its lanes stand: the answer flag falls once every lane is answered, the wake flag once every
lane is woken too (12 R284). -/
def stkSettle (v : Wave) (id : Nat) : Wave :=
  match v.op? id with
  | none => v
  | some o =>
    let v := if !o.released && o.lanes.all (fun l => l.st != .ready) then
        (v.lower o.flag).modOp id (fun o => { o with released := true, flag := none })
      else v
    if o.lanes.all (fun l => l.st == .done) then
      { v with ops := v.ops.filter (fun p => p.id != id) }.lower o.wake
    else v

/-- Writes an answer or a wake into a lane's pair, and moves the lane on (12 R284, R419). -/
def stkAnswer (v : Wave) (id lane : Nat) (code : Nat) (d : W32) (st : LaneSt) : Wave :=
  match v.op? id with
  | none => v
  | some o =>
    let v := { v with regs := v.regs.writes (wr64 o.f.dst lane ((BitVec.ofNat 32 code : W32) ++ d)) }
    stkSettle (v.modOp id (fun o => { o with lanes := o.lanes.map (fun (l : LaneOp) =>
      if l.lane = lane then { l with st := st } else l) })) id

/-- Wakes one waiter with FILLED or DROPPED (12 R284, R285). -/
def wakeOne (s : State) (w : Waiter) (filled : Bool) (slot : Nat) : State :=
  let s := if filled then acquireSlot s w.core slot else s
  modUid s w.core w.wave w.uid (fun v =>
    stkAnswer v w.op w.lane (if filled then 5 else 6) (if filled then BitVec.ofNat 32 slot else 0xFFFFFFFF) .done)

/-- Wakes the waiters of a slice that p selects. -/
def wakeSome (s : State) (slice : Nat) (p : Waiter → Bool) (filled : Bool) (slot : Nat) : State :=
  let ws := (s.slice slice).waiters.filter p
  let s := s.modSlice slice (fun t => { t with waiters := t.waiters.filter (fun w => !p w) })
  ws.foldl (fun s w => wakeOne s w filled slot) s

/-- Drops an entry as STKDROP does (12 R285). -/
def dropEntry (s : State) (slice n : Nat) : State :=
  wakeSome (dropTag s slice n) slice (fun w => w.ent == n) false 0

/-! ## Shading records -/

/-- The slice's sub-ring of a world, at the world's own ring when a batch is to begin there (12 R286; 16 R372). -/
def subRing (s : State) (slice : Nat) (w : World) : SubRing :=
  let base := w.ring.toNat + 32 * w.rcap * slice
  match (s.slice slice).rings.find? (fun r => r.world == w.tag) with
  | none => { (default : SubRing) with world := w.tag, base := base, rcap := w.rcap }
  | some r => if r.open_.isNone && r.waits.isEmpty && r.restart then { r with base := base, rcap := w.rcap, pos := 0, restart := false }
      else r

/-- Replaces a slice's sub-ring. -/
def putRing (s : State) (slice : Nat) (r : SubRing) : State :=
  s.modSlice slice (fun t => { t with rings := r :: t.rings.filter (fun x => x.world != r.world) })

/-- The address of the next record. -/
def SubRing.next (r : SubRing) : Nat := r.base + 32 * (r.pos % max 1 r.rcap)

/-- Closes the open batch (12 R286, R420). -/
def SubRing.close (r : SubRing) : SubRing := { r with closed := r.closed ++ r.open_.toList, open_ := none }

/-- A record is written: it joins the open batch, or begins one; the batch closes at 32 records or at the ring's end (12 R286). -/
def SubRing.wrote (r : SubRing) (addr shq : Nat) (tmpl : List Byte) (fc : Nat) : SubRing :=
  let b := match r.open_ with
    | some b => { b with count := b.count + 1 }
    | none => { addr := addr, count := 1, since := fc, shq := shq, tmpl := tmpl }
  let r := { r with open_ := some b, pos := r.pos + 1, seq := r.seq + 1, busy := setIns r.busy addr }
  if b.count = 32 ∨ r.pos % max 1 r.rcap = 0 then r.close else r

/-- The bytes of a shading record (12 R286). -/
def shadingBytes (k : W64) (slot world vf slice : Nat) (seq : W32) : List Byte :=
  leBytes 8 k.toNat ++ leBytes 8 (0xFF00010000000000 + 512 * slot) ++ leBytes 4 slot ++ leBytes 2 world ++ leBytes 2 vf ++
  leBytes 4 seq.toNat ++ leBytes 1 slice ++ leBytes 3 0

/-- A page request of a record was answered with REFUSE. -/
def pageRefused (s : State) (ps : Pages) : Bool :=
  ps.any (fun p => match s.answers.get? p.2 with | some (.refuse _ _) => true | _ => false)

/-- Writes a record as an access of SHQ's owner: it joins its batch, waits for its page, or is refused, which drops the entry and
closes the batch before it; a refusal by the reply is counted as one of the frame's owner is, with the record's address (12 R420; 16
R367). -/
def writeShading (s : State) (slice : Nat) (r : SubRing) (q : ShRec) : State :=
  let g := { queueAt s q.shq with kind := 6, id := slice, ask := some (65536 + slice) }
  match engProbe s g q.pages (BitVec.ofNat 64 q.addr) 32 false with
  | (s, ps, .wait) => putRing s slice { r with waits := [{ q with pages := ps }] }
  | (s, _, .err _) =>
    let s := if pageRefused s q.pages then refuseOwner s g.by_.vf 0xFFFF q.addr else s
    dropEntry (putRing s slice { r.close with waits := [] }) slice q.ent
  | (s, ps, _) =>
    let (s, _, _) := ownerWrite s g ps (BitVec.ofNat 64 q.addr) q.bytes
    putRing s slice ({ r with waits := [] }.wrote q.addr q.shq q.tmpl s.fc)

/-- The card of a batch (12 R286). -/
def batchCard (b : Batch) : List Byte :=
  (b.tmpl.take 8) ++ leBytes 8 b.addr ++ leBytes 4 b.count ++ leBytes 2 32 ++ ((b.tmpl.drop 22).take 6) ++ leBytes 4 0xFFFFFFFF ++
  leBytes 8 0 ++ (b.tmpl.drop 40)

/-- SHADING_BATCH_POST (12 R286, R420): a record that waited is tried again; the open batch closes after 512 fc; the oldest closed
batch is posted into SHQ. -/
def execShadingBatchPost (slice world : Nat) (s : State) : Res :=
  match (s.slice slice).rings.find? (fun r => r.world == world) with
  | none => .fault .notEnabled
  | some r =>
    match r.waits with
    | q :: _ => .next (writeShading s slice r q)
    | [] =>
      let r := match r.open_ with | some b => if b.since + 512 ≤ s.fc then r.close else r | none => r
      match r.closed with
      | [] => .fault .notEnabled
      | b :: bs =>
        let t := s.queue b.shq
        if t.enabled = false ∨ t.full then .fault .notEnabled
        else
          let s := putRing s slice { r with closed := bs }
          let s := enterCard s b.shq (fun k => { k with batch := some (slice, world, b.addr, b.count) }) (batchCard b) true
          .next (finishCard (writeSlot s b.shq t.seq) b.shq t.seq)

/-! ## Lookups -/

/-- A lane's lookup (12 R283), at the key's home slice. -/
structure Look where
  core : Nat
  wave : Nat
  uid : Nat
  op : Nat
  lane : Nat
  vf : Nat
  world : Nat
  key : W64
  post : Bool
  notouch : Bool
  deriving DecidableEq, Repr

/-- What a lookup answers (12 R283, R284): code and slot. -/
structure Answered where
  code : Nat
  slot : W32
  deriving DecidableEq, Repr

/-- BUSY, or DENIED, without a slot. -/
def Answered.no (code : Nat) : Answered := { code := code, slot := 0xFFFFFFFF }

/-- Adds a waiter for an entry, unless the slice holds 16,384. -/
def addWaiter (s : State) (slice n : Nat) (k : Look) (slot : Nat) : State × Answered :=
  if 16384 ≤ (s.slice slice).waiters.length then (s, .no 4)
  else
    (s.modSlice slice (fun t => { t with waiters := t.waiters ++
      [{ ent := n, core := k.core, wave := k.wave, uid := k.uid, op := k.op, lane := k.lane, vf := k.vf }] }),
     { code := 1, slot := BitVec.ofNat 32 slot })

/-- A lookup that matches no entry (12 R283); a shading record that joins an open batch is the batch's queue's (16 R372). [log 90: DEDUCED, unsafe] -/
def lookMiss (s : State) (slice : Nat) (w : World) (k : Look) : State × Answered :=
  match roomIn s slice w (keySet k.key) with
  | none => (s, .no 4)
  | some m =>
    let r := subRing s slice w
    if k.post && (r.busy.contains r.next || decide (16384 ≤ (s.slice slice).waiters.length) ||
       !(s.queue w.shq).enabled || !(s.queue ((r.open_.map Batch.shq).getD w.shq)).enabled) then (s, .no 4)
    else
      let s := { s with free := s.free + 1 }
      let s := match m.wayVictim with
        | some v => (dropTag s slice v.1).modSlice slice (fun t => { t with wayHand := Tab.put 0 t.wayHand (keySet k.key) ((v.2 + 1) % 16) })
        | none => s
      let s := match m.slotVictim with
        | some v => (dropTag s slice v.1).modSlice slice (fun t =>
            { t with slotHand := Tab.put 0 t.slotHand w.tag ((v.2 + 1) % max 1 (poolSlots w slice).length) })
        | none => s
      let e : TagEnt := { key := k.key, world := w.tag, gen := w.genOf (keyBucket k.key), age := w.wage, state := 1, slot := m.slot }
      let s := s.modSlice slice (fun t => t.setTag m.way e)
      if k.post = false then (s, { code := 2, slot := BitVec.ofNat 32 m.slot })
      else
        let (s, a) := addWaiter s slice m.way k m.slot
        (putRing s slice { r with waits :=
          [{ addr := r.next, bytes := shadingBytes k.key m.slot w.tag k.vf slice r.seq, ent := m.way,
             shq := (r.open_.map Batch.shq).getD w.shq, tmpl := (r.open_.map Batch.tmpl).getD w.tmpl, pages := [] }] }, a)

/-- A lookup (12 R283). -/
def lookup (s : State) (k : Look) : State × Answered :=
  match s.world? k.world with
  | none => (s, .no 3)
  | some w =>
    if s.granted k.world k.vf = false then (s, .no 3)
    else
      let slice := keySlice k.key
      match (s.slice slice).match? k.key k.world with
      | none => lookMiss s slice w k
      | some n =>
        let e := (s.slice slice).tag n
        if e.state = 2 ∧ e.gen ≠ w.genOf (keyBucket k.key) then lookMiss (dropTag s slice n) slice w k
        else if e.state = 2 then
          (if k.notouch then s else s.modSlice slice (fun t => t.setTag n { e with age := w.wage }),
           { code := 0, slot := BitVec.ofNat 32 e.slot })
        else if e.state = 1 then addWaiter s slice n k e.slot
        else (s, .no 4)

/-- A lookup's answer counts in the asking core's cluster (17 R387): HIT, INFLIGHT, MISS and posts. -/
def lookCounts (s : State) (c vf code : Nat) (posted : Bool) : State :=
  let s := if code ≤ 2 then countEvent s (clusterOf c) vf (12 + code) 1 else s
  if posted then countEvent s (clusterOf c) vf 14 1 else s

/-- STK (12 R282, R283): a lookup per lane; the answer flag by SF, the wake flag by the other field. -/
def execStk (f : Fields) (s : State) : Res :=
  issueWord 0xE3 f s (fun x s =>
    let ls := (x.acting f).map (fun l =>
      ({ lane := l, va := x.rd64 f f.a l, src := 0, src2 := 0, tgt := .none, st := .ready } : LaneOp))
    if ls.isEmpty then s
    else addOp x { x.op 0xE3 f with wake := flagOf x.g.hdr (!f.sf), lanes := ls } s)

/-- Stockpot slices of START and their self-tests (18 R409). -/
def sliceReady (s : State) (k : W64) : Bool := (s.slice (keySlice k)).ready

/-- STK_LOOKUP (12 R283): lanes of one word that name the same key go in lane order. A lookup with POST waits behind a shading record
of its sub-ring that waits for its page. -/
def execStkLookup (core wave op lane : Nat) (s : State) : Res :=
  match s.slot? core wave with
  | none => .fault .notEnabled
  | some t =>
    match t.wave.op? op with
    | none => .fault .notEnabled
    | some o =>
      match o.lanes.find? (fun l => l.lane == lane) with
      | none => .fault .notEnabled
      | some l =>
        let post := o.f.m 0 1 == 1
        let busy := post && (s.slice (keySlice l.va)).rings.any (fun r => r.world == t.wave.world && !r.waits.isEmpty)
        if o.opc ≠ 0xE3 ∨ l.st ≠ .ready ∨ gated t.wave op (some lane) = true ∨ sliceReady s l.va = false ∨ busy = true ∨
           o.lanes.any (fun k => decide (k.lane < lane) && k.st == .ready && k.va == l.va) = true then .fault .notEnabled
        else
          let k : Look := { core := core, wave := wave, uid := t.wave.uid, op := op, lane := lane, vf := t.wave.vf,
                            world := t.wave.world, key := l.va, post := post, notouch := o.f.m 1 1 == 1 }
          let (s, a) := lookup s k
          let posted := post && (s.slice (keySlice l.va)).rings.any (fun r => r.world == k.world && !r.waits.isEmpty)
          let s := lookCounts s core t.wave.vf a.code posted
          let s := if a.code = 0 then acquireSlot s core a.slot.toNat else s
          let s := s.modWave core wave (fun v => stkAnswer v op lane a.code a.slot (if a.code = 1 then .waiting else .done))
          .next (match (s.slice (keySlice l.va)).rings.find? (fun r => r.world == k.world && !r.waits.isEmpty) with
            | some r => (match r.waits with
              | q :: _ => if q.pages = [] ∧ post = true then writeShading s (keySlice l.va) r q else s
              | [] => s)
            | none => s)

/-! ## Fills and drops -/

/-- The 512 bytes a fill reads at the G port, and a byte whose bits tell its poisoned lines (12 R285). [log 91: DEDUCED, unsafe] -/
def fillRead (s : State) (c gang uid o : Nat) : List Byte :=
  let line (i : Nat) : List Byte × Bool := locReadFor s c gang uid .g (o + 64 * i) 64
  (List.range 8).flatMap (fun i => (line i).1) ++
  leBytes 1 ((List.range 8).foldl (fun v i => if (line i).2 then v + 2 ^ i else v) 0)

/-- The check of a fill's G range: MISALIGNED, then LOCAL_RANGE (12 R285). -/
def fillCheck (s : State) (c gang o : Nat) : Option Nat :=
  if o % 64 ≠ 0 then some 7 else if bufSize s c gang .g < o + 512 then some 8 else none

/-- Lanes whose G data is read now: each entry's src2 is its place in the operation's bytes. -/
def fillLoad (s : State) (c gang uid : Nat) (ls : List LaneOp) : List LaneOp × List Byte :=
  ls.foldl (fun (p : List LaneOp × List Byte) l =>
    (p.1 ++ [{ l with st := .waiting, src2 := BitVec.ofNat 64 p.2.length }],
     p.2 ++ fillRead s c gang uid (l.src.toNat / 2 ^ 32))) ([], [])

/-- STKFILL (12 R285): the G range is read as a local read at its place in the wave's order. -/
def execStkfill (f : Fields) (s : State) : Res :=
  issueWord 0xE4 f s (fun x s =>
    let rs := (x.acting f).map (fun l =>
      let o := (x.rd f f.c l).toNat
      (({ lane := l, va := x.rd64 f f.a l, src := BitVec.ofNat 128 ((x.rd f f.b l).toNat + 2 ^ 32 * o), src2 := 0, tgt := .none,
          st := .ready } : LaneOp), fillCheck s x.core x.wv.gang o))
    let s := laneTraps s x (rs.filterMap (fun r => r.2.map (fun c => (r.1.lane, c, BitVec.ofNat 64 (r.1.src.toNat / 2 ^ 32)))))
    let ls := (rs.filter (fun r => r.2.isNone)).map Prod.fst
    if ls.isEmpty then s
    else if ls.any (fun l => gated x.wv x.wv.nextOp (some l.lane)) || localBlocked x.wv x.wv.nextOp then
      addOp x { x.op 0xE4 f with lanes := ls } s
    else
      let (ls, bs) := fillLoad s x.core x.wv.gang x.wv.uid ls
      addOp x { x.op 0xE4 f with lanes := ls, bytes := bs } s)

/-- STKDROP (12 R285). -/
def execStkdrop (f : Fields) (s : State) : Res :=
  issueWord 0xE5 f s (fun x s =>
    let ls := (x.acting f).map (fun l =>
      ({ lane := l, va := x.rd64 f f.a l, src := (x.rd f f.b l).setWidth 128, src2 := 0, tgt := .none, st := .waiting } : LaneOp))
    if ls.isEmpty then s else addOp x { x.op 0xE5 f with lanes := ls } s)

/-- Writes a slot's 512 bytes at their home slices, with the lines its source poisons (12 R285; 03 R83). -/
def fillSlot (s : State) (w : Writer) (slot : Nat) (b : List Byte) : State :=
  let bad := (b.getD 512 0).toNat
  (List.range 8).foldl (fun s i =>
    let a := s.conf.heapspa.toNat + 512 * slot + 64 * i
    if s.writable .host a = false then refuseOwner s 0 0xFFFF a
    else
      let s := homeWrite s w a ((b.drop (64 * i)).take 64)
      if bad.testBit i then { s with memPois := setIns s.memPois (a / 64) } else s) s

/-- A fill or a drop at the key's home slice: the state and the status (12 R285). -/
def fillAt (s : State) (c vf world : Nat) (w : Writer) (k : W64) (slot : Nat) (data : Option (List Byte)) : State × Nat :=
  if s.granted world vf = false then (s, 2)
  else
    let slice := keySlice k
    let t := s.slice slice
    match t.match? k world with
    | none => (s, 1)
    | some n =>
      let e := t.tag n
      if (e.state ≠ 1 ∧ e.state ≠ 3) ∨ e.slot ≠ slot then (s, 1)
      else
        match data with
        | none => (dropEntry s slice n, 0)
        | some b =>
          let s := acquireSlot (fillSlot s w slot b) c slot
          let s := if e.state = 1 then
              s.modSlice slice (fun t => t.setTag n { e with state := 2, age := ((s.world? world).getD default).wage })
            else dropTag s slice n
          (wakeSome s slice (fun w => w.ent == n) true slot, 0)

/-- STK_FILL_PERFORM (12 R285): one lane of a STKFILL or STKDROP; lanes that name the same key go in lane order. -/
def execStkFillPerform (core wave op lane : Nat) (s : State) : Res :=
  match s.slot? core wave with
  | none => .fault .notEnabled
  | some t =>
    match t.wave.op? op with
    | none => .fault .notEnabled
    | some o =>
      match o.lanes.find? (fun l => l.lane == lane) with
      | none => .fault .notEnabled
      | some l =>
        if (o.opc ≠ 0xE4 ∧ o.opc ≠ 0xE5) ∨ l.st = .done ∨ gated t.wave op (some lane) = true ∨ sliceReady s l.va = false ∨
           o.lanes.any (fun k => decide (k.lane < lane) && k.st != .done && k.va == l.va) = true then .fault .notEnabled
        else if l.st = .ready then
          if localBlocked t.wave op then .fault .notEnabled
          else
            let (ls, bs) := fillLoad s core t.wave.gang t.wave.uid o.lanes
            .next (s.modWave core wave (fun v => v.modOp op (fun o => { o with lanes := ls, bytes := bs })))
        else
          let data := if o.opc = 0xE4 then some ((o.bytes.drop l.src2.toNat).take 513) else none
          let (s, st) := fillAt s core t.wave.vf t.wave.world (laneWriter core wave t.wave.gang o.spo o.off lane) l.va
            (l.src.toNat % 2 ^ 32) data
          .next (finishLane s core wave op lane (if o.f.dst = .absent then [] else wr32 o.f.dst lane (BitVec.ofNat 32 st)) 0)

/-! ## Invalidation and ageing -/

/-- A word that acts once, with two operands kept for its completion. -/
def onceWord (o : Nat) (f : Fields) (s : State) (a : Ctx → Nat → W64) (b : Ctx → Nat → W64) : Res :=
  issueWord o f s (fun x s =>
    match x.active f with
    | [] => s
    | l :: _ => addOp x { x.op o f with
        lanes := [{ lane := l, va := a x l, src := (b x l).setWidth 128, src2 := 0, tgt := .none, st := .known }] } s)

/-- STKINV (12 R287): first object and count. -/
def execStkinv (f : Fields) (s : State) : Res :=
  onceWord 0xE6 f s (fun x l => (x.rd f f.a l).setWidth 64) (fun x l => (x.rd f f.b l).setWidth 64)

/-- STKAGE (12 R288). -/
def execStkage (f : Fields) (s : State) : Res :=
  onceWord 0xE7 f s (fun x l => (x.rd f f.a l).setWidth 64) (fun _ _ => 0)

/-- The touched buckets of STKINV (12 R287). -/
def bucketsOf (a b : Nat) : List Nat :=
  let n := if b = 0 then 2 ^ 32 else b
  if 4096 ≤ n then List.range 4096 else (List.range n).map (fun i => (a + i) % 4096)

/-- An entry of the world under an invalidation of buckets whose generations are new (12 R287). -/
def TagEnt.invalidated (e : TagEnt) (w : World) (bs : List Nat) : TagEnt :=
  if e.world ≠ w.tag ∨ bs.contains (keyBucket e.key) = false then e
  else if e.state = 1 then { e with state := 3 }
  else if e.state = 2 ∧ w.genOf (keyBucket e.key) = 0 then TagEnt.empty
  else e

/-- Changes every entry of every slice. -/
def mapTags (s : State) (g : TagEnt → TagEnt) : State :=
  { s with slices := s.slices.map (fun p => (p.1, { p.2 with
    tags := p.2.tags.filterMap (fun q => let e := g q.2; if e = TagEnt.empty then none else some (q.1, e)) })) }

/-- STKINV at every slice (12 R287). [log 92: DESIGN CHOICE, unsafe] -/
def invalidateObjects (s : State) (vf world a b : Nat) : State :=
  if s.granted world vf = false then s
  else
    let bs := bucketsOf a b
    let s := s.modWorld world (fun w => { w with gen := bs.foldl (fun g k => Tab.put 0 g k (Tab.get 0 g k + 1)) w.gen })
    mapTags s (fun e => e.invalidated ((s.world? world).getD default) bs)

/-- STKAGE at every slice: the state and d (12 R288). -/
def ageWorld (s : State) (vf world n : Nat) : State × W32 :=
  if s.granted world vf = false then (s, 0xFFFFFFFF)
  else
    let w := (s.world? world).getD default
    let now : BitVec 8 := w.wage + BitVec.ofNat 8 n
    let s := s.modWorld world (fun w => { w with wage := now })
    let s := mapTags s (fun e =>
      if e.world = world ∧ e.state = 2 ∧ 255 < (w.wage - e.age).toNat + n then { e with age := now + 1 } else e)
    (s, now.setWidth 32)

/-- What MEMORY_OP_COMPLETE does for STKINV and STKAGE: none while the release waits (12 R287, R288). -/
def stkOnce (s : State) (c w id lane : Nat) (v : Wave) (o : Op) (l : LaneOp) : Option State :=
  if o.opc = 0xE6 then
    if releaseDone (s.core c) v id 9 then
      some (finishLane (invalidateObjects s v.vf v.world l.va.toNat l.src.toNat) c w id lane [] 0)
    else none
  else
    let (s, d) := ageWorld s v.vf v.world (l.va.toNat % 256)
    some (finishLane s c w id lane (if o.f.dst = .absent then [] else wr32 o.f.dst lane d) 0)

/-! ## Ends of waiters -/

/-- The pending wakes of a wave that ends are discarded (12 R284). -/
def dropWaiters (s : State) (uid : Nat) : State :=
  { s with slices := s.slices.map (fun p => (p.1, { p.2 with waiters := p.2.waiters.filter (fun w => w.uid != uid) })) }

/-- A world is withdrawn: its entries become INVALID and their waiters are woken DROPPED; batches that wait are gone; hands start
afresh (12 R289, R420; 16 R372). [log 148: DESIGN CHOICE, unsafe] -/
def withdrawWorld (s : State) (tag : Nat) : State :=
  (s.slices.map Prod.fst).foldl (fun s n =>
    let s := (worldEnts (s.slice n) tag).foldl (fun s e => dropEntry s n e) s
    s.modSlice n (fun t => { t with
      slotHand := t.slotHand.del tag, rings := t.rings.map (fun r =>
        if r.world = tag then
          { r with busy := r.busy.filter (fun a => !((r.open_.toList ++ r.closed).any (fun b =>
                     decide (b.addr ≤ a ∧ a < b.addr + 32 * b.count)))),
                   open_ := none, closed := [], waits := [], restart := true }
        else r) })) s

/-- A function's grant is cleared: its waiters of the world are woken DROPPED (12 R280). -/
def clearGrant (s : State) (tag f : Nat) : State :=
  (s.slices.map Prod.fst).foldl (fun s n =>
    wakeSome s n (fun w => w.vf == f && ((s.slice n).tag w.ent).world == tag) false 0) s

end Sys2Proof.Machine
end

