-- ==== Sys2Proof/Machine/Texture.lean ====
section
/-! DEFINITION. The texture unit: descriptors, texel formats and layouts, filtering, TEX, TEXG and TEXQ (12 R290 to R294). -/

namespace Sys2Proof.Machine

/-! ## Descriptors and texels -/

/-- A texture descriptor's fields (12 R290). -/
structure Tex where
  fmt : Nat
  kind : Nat
  lvls : Nat
  lin : Bool
  w : Nat
  h : Nat
  d : Nat
  modes : Nat
  magL : Bool
  minL : Bool
  mip : Bool
  bord : Nat
  pitch : Nat
  base : Nat
  deriving DecidableEq, Repr

/-- Bytes per texel (12 R291). -/
def texBytes (fmt : Nat) : Nat := [1, 2, 4, 4, 4, 2, 4, 8, 4, 8, 16, 4].getD fmt 4
/-- Channels of a format (12 R291). -/
def texChans (fmt : Nat) : Nat := [1, 2, 4, 4, 2, 1, 2, 4, 1, 2, 4, 1].getD fmt 1

/-- The fields of a tile value (12 R290). -/
def Tex.of (t : Nat) : Tex :=
  { fmt := bits t 252 248, kind := bits t 247 246, lvls := bits t 245 242, lin := t.testBit 241, w := bits t 239 226 + 1,
    h := bits t 225 212 + 1, d := bits t 211 201 + 1, modes := bits t 200 192, magL := t.testBit 191, minL := t.testBit 190,
    mip := t.testBit 189, bord := bits t 129 128, pitch := bits t 95 64, base := bits t 63 0 }

/-- The largest dimension: the depth counts for 3D. -/
def Tex.largest (x : Tex) : Nat := max (max x.w x.h) (if x.kind = 2 then x.d else 1)

/-- A legal texture descriptor (12 R290). [log 93: DEDUCED, unsafe] -/
def texLegal (t : Nat) : Bool :=
  let x := Tex.of t
  bits t 255 253 == 6 && decide (x.fmt ≤ 11) && x.kind != 3 && decide (x.lvls ≤ x.largest.log2) &&
  (!x.lin || (x.lvls == 0 && x.kind == 0)) && !t.testBit 240 && (x.kind != 0 || x.d == 1) &&
  decide (bits x.modes 2 0 ≤ 3 ∧ bits x.modes 5 3 ≤ 3 ∧ bits x.modes 8 6 ≤ 3) &&
  bits t 188 130 == 0 && x.bord != 3 && bits t 127 96 == 0 &&
  (if x.lin then x.pitch % 16 == 0 && decide (x.w * texBytes x.fmt ≤ x.pitch) && x.base % 16 == 0
   else x.pitch == 0 && x.base % 4096 == 0)

/-- Width of level l (12 R292). -/
def Tex.wl (x : Tex) (l : Nat) : Nat := max 1 (x.w / 2 ^ l)
/-- Height of level l. -/
def Tex.hl (x : Tex) (l : Nat) : Nat := max 1 (x.h / 2 ^ l)
/-- Slices of level l. -/
def Tex.dl (x : Tex) (l : Nat) : Nat := if x.kind = 2 then max 1 (x.d / 2 ^ l) else x.d

/-- log2 of a tile's width and height by bytes per texel (12 R292). -/
def tileLogs (n : Nat) : Nat × Nat :=
  match n with
  | 1 => (6, 6) | 2 => (6, 5) | 4 => (5, 5) | 8 => (5, 4) | _ => (4, 4)

/-- Bytes of the tiles of level l. -/
def Tex.levelBytes (x : Tex) (l : Nat) : Nat :=
  let (tw, th) := tileLogs (texBytes x.fmt)
  4096 * ((x.wl l + 2 ^ tw - 1) / 2 ^ tw) * ((x.hl l + 2 ^ th - 1) / 2 ^ th) * x.dl l

/-- The place of a texel within its tile: the bits of x and y interleaved (12 R292). -/
def tileIndex (tw th x y : Nat) : Nat :=
  let i := (List.range th).foldl (fun i q => i + bits x q q * 2 ^ (2 * q) + bits y q q * 2 ^ (2 * q + 1)) 0
  if tw = th + 1 then i + bits x th th * 2 ^ (2 * th) else i

/-- The address of texel (x, y) of slice k of level l (12 R292). -/
def Tex.addr (t : Tex) (l x y k : Nat) : W64 :=
  let n := texBytes t.fmt
  if t.lin then BitVec.ofNat 64 (t.base + y * t.pitch + n * x)
  else
    let (tw, th) := tileLogs n
    let lb := (List.range l).foldl (fun a j => a + t.levelBytes j) t.base
    let tile := (k * ((t.hl l + 2 ^ th - 1) / 2 ^ th) + y / 2 ^ th) * ((t.wl l + 2 ^ tw - 1) / 2 ^ tw) + x / 2 ^ tw
    BitVec.ofNat 64 (lb + 4096 * tile + n * tileIndex tw th (x % 2 ^ tw) (y % 2 ^ th))

/-- The exact quotient of an integer by a positive number. -/
def ratio (i : Int) (d : Nat) : Val := .num { Ex.ofInt i with d := d }

/-- Channel c of a texel as an exact value (12 R291). -/
def texChan (fmt : Nat) (b : List Byte) (c : Nat) : Val :=
  let m := texChans fmt
  let n := texBytes fmt / m
  if m ≤ c then .num (Ex.ofInt (if c = 3 then 1 else 0))
  else
    let v := recNat b (n * c) n
    match fmt with
    | 0 | 1 | 2 => ratio v 255
    | 3 => ratio (max ((BitVec.ofNat 8 v).toInt) (-127)) 127
    | 4 => ratio v 65535
    | 5 | 6 | 7 => decodeF .fp16 v
    | _ => decodeF .fp32 v

/-- Channel c of the border value (12 R290). -/
def bordChan (bord c : Nat) : Val := .num (Ex.ofInt (if bord = 2 ∨ (bord = 1 ∧ c = 3) then 1 else 0))

/-! ## Footprints -/

/-- One coordinate as an integer in units of 2^-160; NaN and infinities read as 0 (12 R294). -/
def texFix (b : W32) : Int :=
  match decodeF .fp32 b.toNat with
  | .num x => (if x.neg then -1 else 1) * ((x.n * 2 ^ (x.e + 160).toNat : Nat) : Int)
  | _ => 0

/-- The unit of texFix. -/
def texOne : Int := 2 ^ 160

/-- q(y) in 256ths (12 R294). -/
def texQ (y : Int) : Int := (256 * y + texOne / 2) / texOne

/-- An index through its addressing mode; none reads the border (12 R294). -/
def texWrap (mode n : Nat) (i : Int) : Option Nat :=
  match mode with
  | 0 => some (i.emod n).toNat
  | 1 => let m := (i.emod (2 * n)).toNat; some (if m < n then m else 2 * n - 1 - m)
  | 2 => some (min (max i 0) ((n : Int) - 1)).toNat
  | _ => if 0 ≤ i ∧ i < n then some i.toNat else none

/-- The indices of one axis with their weights in 256ths, weight 0 dropped (12 R294). -/
def texAxis (linear : Bool) (mode n : Nat) (c : Int) : List (Option Nat × Nat) :=
  if linear then
    let x := c * n - texOne / 2
    let i := x / texOne
    let a := (texQ (x - i * texOne)).toNat
    (if a < 256 then [(texWrap mode n i, 256 - a)] else []) ++ (if 0 < a then [(texWrap mode n (i + 1), a)] else [])
  else [(texWrap mode n (c * n / texOne), 256)]

/-- One texel of a footprint: its address, none for the border, and its weight in 2^-32. -/
structure Tap where
  at_ : Option W64
  weight : Nat
  deriving DecidableEq, Repr

/-- The slice of an array texture (12 R294). -/
def Tex.layer (t : Tex) (w : Int) : Nat := (min (max ((w + texOne / 2) / texOne) 0) ((t.d : Int) - 1)).toNat

/-- The taps of one level with weight lw in 256ths. -/
def Tex.levelTaps (t : Tex) (linear : Bool) (u v w : Int) (l lw : Nat) : List Tap :=
  let zs : List (Option Nat × Nat) :=
    if t.kind = 2 then texAxis linear (bits t.modes 8 6) (t.dl l) w
    else [(some (if t.kind = 1 then t.layer w else 0), 256)]
  (texAxis linear (bits t.modes 2 0) (t.wl l) u).flatMap (fun a =>
    (texAxis linear (bits t.modes 5 3) (t.hl l) v).flatMap (fun b =>
      zs.map (fun z =>
        { at_ := match a.1, b.1, z.1 with
            | some x, some y, some k => some (t.addr l x y k)
            | _, _, _ => none
          weight := lw * a.2 * b.2 * z.2 })))

/-- The lod within the levels. -/
def Tex.clampLod (t : Tex) (lod : Int) : Int := min (max lod 0) (t.lvls * texOne)

/-- The footprint of TEX (12 R294). -/
def Tex.taps (t : Tex) (u v w lod : Int) : List Tap :=
  let raw := t.fmt == 11
  let linear := !raw && (if lod ≤ 0 then t.magL else t.minL)
  let y := t.clampLod lod
  if t.mip && !raw then
    let l := y / texOne
    let a := (texQ (y - l * texOne)).toNat
    (if a < 256 then t.levelTaps linear u v w l.toNat (256 - a) else []) ++
    (if 0 < a then t.levelTaps linear u v w (l + 1).toNat a else [])
  else t.levelTaps linear u v w ((y + texOne / 2) / texOne).toNat 256

/-- The four texels of TEXG in their order (12 R294): k is the slice of a 3D texture, which the manual does not state. -/
def Tex.gather (t : Tex) (u v w lod : Int) (k : Nat) : List Tap :=
  let l := ((t.clampLod lod + texOne / 2) / texOne).toNat
  let fix (c : Int) (n : Nat) : Int := (c * n - texOne / 2) / texOne
  let i := fix u (t.wl l)
  let j := fix v (t.hl l)
  let z := if t.kind = 2 then k % t.dl l else if t.kind = 1 then t.layer w else 0
  [(i, j), (i + 1, j), (i, j + 1), (i + 1, j + 1)].map (fun p =>
    { at_ := match texWrap (bits t.modes 2 0) (t.wl l) p.1, texWrap (bits t.modes 5 3) (t.hl l) p.2 with
        | some x, some y => some (t.addr l x y z)
        | _, _ => none
      weight := 2 ^ 32 })

/-- The distinct texels of a footprint, each read once (12 R294). -/
def tapReads (ts : List Tap) : List W64 := (ts.filterMap Tap.at_).dedup

/-! ## Results -/

/-- A texel's bytes among those read; none for the border. -/
def tapBytes (got : List (W64 × List Byte)) (t : Tap) : Option (List Byte) :=
  t.at_.map (fun a => ((got.find? (fun p => p.1 == a)).map Prod.snd).getD [])

/-- Channel c of a tap. -/
def Tex.chan (t : Tex) (got : List (W64 × List Byte)) (p : Tap) (c : Nat) : Val :=
  match tapBytes got p with
  | some b => texChan t.fmt b c
  | none => bordChan t.bord c

/-- A value rounded to FP32 under RN. -/
def toFp32 (v : Val) : W32 := BitVec.ofNat 32 (roundV .fp32 0 false v).1

/-- A value rounded to FP32 under RN, with the bits of its rounding (05 R119, R123). -/
def toFp32E (v : Val) : W32 × Exc :=
  let (c, e) := roundV .fp32 0 false v
  (BitVec.ofNat 32 c, e)

/-- The raw bits an N32X1 texture gives in channel c: the texel's word, 0, 0 and 1.0 (12 R294). -/
def Tex.rawChan (t : Tex) (got : List (W64 × List Byte)) (p : Tap) (c : Nat) : W32 :=
  if c = 0 then (match tapBytes got p with | some b => BitVec.ofNat 32 (recNat b 0 4) | none => toFp32 (bordChan t.bord 0))
  else toFp32 (.num (Ex.ofInt (if c = 3 then 1 else 0)))

/-- The filtered value of channel c, the exact weighted sum rounded once, and its bits (12 R294; 05 R123, R126). -/
def Tex.filtered (t : Tex) (got : List (W64 × List Byte)) (ts : List Tap) (c : Nat) : W32 × Exc :=
  if t.fmt = 11 then ((match ts with | p :: _ => t.rawChan got p c | [] => 0), 0)
  else
    let xs := ts.map (fun p => mulV (.num { Ex.ofInt p.weight with e := -32 }) (t.chan got p c))
    let (v, e) := sumTerms 0 (xs.map Prod.fst)
    let (r, e') := toFp32E v
    (r, e ||| e' ||| (xs.map Prod.snd).foldl (· ||| ·) 0 ||| (ts.map (fun p => (t.chan got p c).sigExc)).foldl (· ||| ·) 0)

/-- The four results of a lane with their bits: TEX's channels, or one channel of TEXG's four texels. -/
def Tex.result (t : Tex) (gather : Option Nat) (got : List (W64 × List Byte)) (ts : List Tap) : List (W32 × Exc) :=
  match gather with
  | none => (List.range 4).map (t.filtered got ts)
  | some c => ts.map (fun p =>
      if t.fmt = 11 then (t.rawChan got p c, 0)
      else
        let v := t.chan got p c
        let (r, e) := toFp32E v
        (r, e ||| v.sigExc))

/-! ## The words -/

/-- The lane entry of texel t of lane L in an operation of the texture unit; texel 31 stands for a lane that reads none. -/
def texLane (lane t : Nat) : Nat := 32 + 32 * lane + t
/-- The lane of such an entry. -/
def texOwner (n : Nat) : Nat := n / 32 - 1

/-- The footprint of a lane, from the descriptor and the four coordinates. -/
def texTaps (o : Nat) (t : Tex) (b : List W32) (k : Nat) : List Tap :=
  let c (i : Nat) : Int := texFix (b.getD i 0)
  if o = 0xE0 then t.taps (c 0) (c 1) (c 2) (c 3) else t.gather (c 0) (c 1) (c 2) (c 3) k

/-- What an operation keeps: the descriptor, and 16 bytes of coordinates for each lane. -/
def texKeep (t : W256) (b : Nat → W128) : List Byte :=
  leBytes 32 t.toNat ++ (List.range 32).flatMap (fun l => leBytes 16 (b l).toNat)

/-- The descriptor an operation keeps. -/
def Op.tex (o : Op) : Tex := Tex.of (recNat o.bytes 0 32)
/-- The footprint of a lane of an operation. -/
def Op.taps (o : Op) (lane : Nat) : List Tap :=
  texTaps o.opc o.tex ((List.range 4).map (fun i => BitVec.ofNat 32 (recNat o.bytes (32 + 16 * lane + 4 * i) 4))) o.m

/-- A texel read has been performed: its bytes are kept. -/
def LaneOp.texel (l : LaneOp) (b : List Byte) (poison : Bool) : LaneOp :=
  { l with src := BitVec.ofNat 128 (leNat b), src2 := if poison then 1 else 0, st := .known }

/-- The entries of a lane in an operation of the texture unit. -/
def Op.texels (o : Op) (lane : Nat) : List LaneOp := o.lanes.filter (fun l => texOwner l.lane == lane)

/-- All of a lane's texels are read: its four registers are written, +0 where a texel was poisoned, and the bits of their rounding
kept for the word's completion (12 R293; 03 R84; 05 R123). -/
def texFinish (s : State) (c w id lane : Nat) : State :=
  match s.slot? c w with
  | none => s
  | some t =>
    match t.wave.op? id with
    | none => s
    | some o =>
      let ls := o.texels lane
      if ls.isEmpty || !ls.all (fun l => l.st == .known) then s
      else
        let bad := ls.find? (fun l => l.src2 != 0)
        let n := texBytes o.tex.fmt
        let got := ls.map (fun l => (l.va, leBytes n l.src.toNat))
        let vs : List (W32 × Exc) := if bad.isSome then List.replicate 4 (0, 0)
          else o.tex.result (if o.opc = 0xE1 then some (o.f.m 0 2) else none) got (o.taps lane)
        let ws := ((destElems o.f.dst lane 4).zip vs).map (fun p => (⟨p.1, p.2.1⟩ : RegWrite))
        let s := match bad with
          | some l => poisonSeen s c w lane o.level o.spo o.off l.va t.wave.vf
          | none => s
        let s := s.modWave c w (fun v => { v with regs := v.regs.writes ws })
        let e : Exc := (vs.map Prod.snd).foldl (· ||| ·) 0
        ls.foldl (fun s l => finishLane s c w id l.lane [] e) s

/-- A texel read is refused: its lane ends with the cause and no register written (12 R293; 14 R315). [log 94: DESIGN CHOICE, unsafe] -/
def texFail (s : State) (c w id lane code sub : Nat) (va : W64) (aux2 : W32) : State :=
  match (s.slot? c w).bind (fun t => t.wave.op? id) with
  | none => s
  | some o =>
    let s := completionCause s c w lane
      { code := code, sub := sub, spo := o.spo, off := o.off, aux := va, aux2 := aux2, level := o.level }
    (o.texels lane).foldl (fun s l => if l.st = .done then s else finishLane s c w id l.lane [] 0) s

/-- The texel reads of a word: per lane its reads, or the entry of a lane that reads none. -/
def texWants (o : Nat) (t : Tex) (k : Nat) (x : Ctx) (f : Fields) : List Want × List LaneOp :=
  let per := (x.active f).map (fun l =>
    let b := x.rd128 f.b l
    (l, tapReads (texTaps o t ((List.range 4).map (fun i => b.extractLsb' (32 * i) 32)) k)))
  (per.flatMap (fun p => p.2.zipIdx.map (fun a => { lane := texLane p.1 a.2, va := a.1, src := 0, src2 := 0 })),
   (per.filter (fun p => p.2.isEmpty)).map (fun p =>
     { lane := texLane p.1 31, va := 0, src := 0, src2 := 0, tgt := .none, st := .known }))

/-- The trap of each lane with a refused texel: the lowest cause, with its address. -/
def texTraps (ts : List (Nat × Nat × W64)) : List (Nat × Nat × W64) :=
  (List.range 32).filterMap (fun l =>
    (ts.filter (fun t => texOwner t.1 == l)).foldl (fun (r : Option (Nat × Nat × W64)) t =>
      match r with
      | some b => if t.2.1 < b.2.1 then some (l, t.2) else r
      | none => some (l, t.2)) none)

/-- TEX and TEXG (12 R293, R294). -/
def texWord (o : Nat) (f : Fields) (s : State) : Res :=
  issueWord o f s (fun x s =>
    let d := x.rdT f.a
    if texLegal d.toNat = false then issueTraps s x (x.active f) 19 0 (fun _ => 0) 0
    else
      let t := Tex.of d.toNat
      let k := Config.unstated 0xE1 d.toNat s.free
      let (ws, ks) := texWants o t k x f
      let id := x.wv.nextOp
      let (s, ts, ls) := checkWants { s with free := s.free + 1 } x o (texBytes t.fmt) (accR x.g.level) ws [] [] []
      let ts := texTraps ts
      let s := laneTraps s x ts
      let ls := ks ++ ls.filter (fun l => !ts.any (fun p => p.1 == texOwner l.lane))
      if ls.isEmpty then s
      else
        let s := addOp x { x.op o f with lanes := ls, m := k, bytes := texKeep d (x.rd128 f.b) } s
        takeLog s x.core x.wid id)

/-- TEX (12 R293, R294). -/
def execTex (f : Fields) (s : State) : Res := texWord 0xE0 f s
/-- TEXG (12 R293, R294). -/
def execTexg (f : Fields) (s : State) : Res := texWord 0xE1 f s

/-- What TEXQ tells of level l (12 R293). -/
def Tex.query (t : Tex) (sel l : Nat) : Nat :=
  if sel = 3 then t.lvls + 1
  else if t.lvls < l then 0
  else match sel with
    | 0 => t.wl l
    | 1 => t.hl l
    | _ => t.dl l

/-- TEXQ (12 R293). -/
def execTexq (f : Fields) (s : State) : Res :=
  issueWord 0xE2 f s (fun x s =>
    let d := (x.rdT f.a).toNat
    let lanes := if isOnce f.dst then (x.active f).take 1 else x.acting f
    if texLegal d = false then issueTraps s x (x.active f) 19 0 (fun _ => 0) 0
    else if lanes.isEmpty then s
    else
      let ls : List LaneOp := lanes.map (fun l => { lane := l, va := 0, src := 0, src2 := 0, tgt := .none, st := .known })
      addOp x { x.op 0xE2 f with
        lanes := ls,
        writes := lanes.flatMap (fun l =>
          wr32 f.dst l (BitVec.ofNat 32 ((Tex.of d).query (f.m 0 2) (x.rd f f.b l).toNat))) } s)

end Sys2Proof.Machine
end

