-- ==== Sys2Proof/Machine/Raster.lean ====
section
/-! DEFINITION. The raster pipeline: passes and draws, export words, rasterising, surface waves, application of fragments and the end of
a pass (12 R295 to R302). -/

namespace Sys2Proof.Machine

/-! ## Records -/

/-- The front end or a back end of a core, if it is one's, at work for a function: the core's faults are those of its cluster (12 R295;
16 R361, R363). -/
def rasterAt (ask : Option Nat) (vf : Nat) (level : Level) : EngAt :=
  { core := none, kind := 6, id := 65536 + ask.getD 65535, ordinal := 0, ask := ask,
    by_ := { uid := 0, wave := 0xFF, after := 0, lane := 0, gang := 0xFF, vf := vf, world := 0, level := level,
             spo := 0xFFFFFFFF, off := 31, flag := none } }

/-- A multiple of 16. -/
def by16 (n : Nat) : Bool := n % 16 == 0

/-- A pass record's fields are legal (12 R295). -/
def passOk (b : List Byte) : Bool :=
  by16 (recNat b 56 8) && by16 (recNat b 52 4) && by16 (recNat b 48 4) && by16 (recNat b 40 8) &&
  [2, 7, 10].contains (recNat b 32 1) && decide (1 ≤ recNat b 28 4 ∧ recNat b 28 4 ≤ 65535) &&
  decide (1 ≤ recNat b 24 4 ∧ recNat b 24 4 ≤ 16384) && decide (1 ≤ recNat b 20 4 ∧ recNat b 20 4 ≤ 16384)

/-- A pass as its record opens it (12 R295). [log 96: DEDUCED, unsafe] -/
def openedPass (id vf : Nat) (level : Level) (addr : W64) (b : List Byte) : Pass :=
  { (default : Pass) with
    id := id, vf := vf, level := level, addr := addr, width := recNat b 20 4, height := recNat b 24 4, ndraw := recNat b 28 4,
    cfmt := recNat b 32 1, colb := BitVec.ofNat 64 (recNat b 40 8), cpitch := recNat b 48 4,
    depthb := BitVec.ofNat 64 (recNat b 56 8), dpitch := recNat b 52 4, done := BitVec.ofNat 64 (recNat b 8 8),
    tag := BitVec.ofNat 64 (recNat b 0 8), status := if passOk b then 0 else 5, bad := !passOk b }

/-- A draw record's STATE is legal (12 R295). -/
def stateOk (st : Nat) : Bool := bits st 2 0 != 7 && decide (bits st 6 4 ≤ 4) && bits st 8 7 != 3 && bits st 31 9 == 0

/-- A draw as its record gives it, in a pass of so many draws. -/
def Draw.of (addr : W64) (b : List Byte) (ndraw : Nat) : Draw :=
  { addr := addr, didx := recNat b 28 4, nunit := recNat b 32 4, state := BitVec.ofNat 32 (recNat b 36 4),
    user := BitVec.ofNat 64 (recNat b 8 8), surfAddr := BitVec.ofNat 64 (recNat b 0 8), surf := none, surfBad := false, ended := [],
    bad := !(stateOk (recNat b 36 4) && decide (1 ≤ recNat b 32 4 ∧ recNat b 32 4 ≤ 2 ^ 28) && decide (recNat b 28 4 < ndraw)) }

/-- The open pass of a number. -/
def State.pass? (s : State) (id : Nat) : Option Pass := s.passes.find? (fun p => p.id == id)
/-- Changes an open pass. -/
def State.modPass (s : State) (id : Nat) (g : Pass → Pass) : State :=
  { s with passes := s.passes.map (fun p => if p.id = id then g p else p) }
/-- The draw of a pass whose record lies at an address. -/
def Pass.draw? (p : Pass) (addr : Nat) : Option Draw := p.draws.find? (fun d => d.addr.toNat == addr)
/-- Changes a draw of a pass. -/
def Pass.modDraw (p : Pass) (addr : Nat) (g : Draw → Draw) : Pass :=
  { p with draws := p.draws.map (fun d => if d.addr.toNat = addr then g d else d) }

/-- The lowest code met (12 R302); 0 stands for none. -/
def lowerCode (a b : Nat) : Nat := if a = 0 then b else if b = 0 then a else min a b
/-- A pass meets a status code. -/
def Pass.meet (p : Pass) (code : Nat) : Pass := { p with status := lowerCode p.status code }

/-- Every unit of a draw has ENDed (12 R296). -/
def Draw.finished (d : Draw) : Bool := decide (d.nunit ≤ d.ended.length)
/-- Draws of a pass with an index below n have all finished. -/
def Pass.finishedBelow (p : Pass) (n : Nat) : Bool :=
  let ds := p.draws.filter (fun d => decide (d.didx < n))
  ds.all Draw.finished && decide (n ≤ ((ds.map Draw.didx).dedup).length)

/-! ## Opening draws and passes -/

/-- How a look-up of a draw ends. -/
inductive DrawX where
  | found (pass : Nat)
  /-- no pass for it: its primitives are discarded -/
  | dropped
  | wait
  deriving DecidableEq, Repr

/-- The pass of the draw record at addr for function vf, read and opened where it is not open yet (12 R295). -/
def findDraw (s : State) (c vf : Nat) (level : Level) (ps : Pages) (addr : W64) : State × Pages × DrawX :=
  match s.passes.find? (fun p => p.vf == vf && (p.draw? addr.toNat).isSome) with
  | some p => (s, ps, .found p.id)
  | none =>
    let g := rasterAt (some c) vf level
    if addr.toNat % 64 ≠ 0 then (s, ps, .dropped)
    else
      match engRecord s g ps addr.toNat 64 with
      | (s, ps, .wait) => (s, ps, .wait)
      | (s, ps, .err _) => (s, ps, .dropped)
      | (s, ps, .ok b _) =>
        let pa : W64 := BitVec.ofNat 64 (recNat b 16 8)
        let add (s : State) (id : Nat) : State :=
          s.modPass id (fun p =>
            let d := Draw.of addr b p.ndraw
            { p with draws := p.draws ++ [d], status := if d.bad then lowerCode p.status 5 else p.status })
        if pa.toNat % 64 ≠ 0 then (s, ps, .dropped)
        else
          match s.passes.find? (fun p => p.vf == vf && p.addr == pa) with
          | some p => (add s p.id, ps, .found p.id)
          | none =>
            if 16 ≤ (s.passes.filter (fun p => p.vf == vf)).length then (s, ps, .wait)
            else
              match engRecord s g ps pa.toNat 64 with
              | (s, ps, .wait) => (s, ps, .wait)
              | (s, ps, .err _) => (s, ps, .dropped)
              | (s, ps, .ok q _) =>
                let id := s.nextPass
                (add { s with passes := s.passes ++ [openedPass id vf level pa q], nextPass := id + 1 } id, ps, .found id)

/-! ## Issue of the export words -/

/-- EXPORTSTATE in the lanes a test names, and the others (12 R296, R299). -/
def exportTraps (s : State) (x : Ctx) (ls : List Nat) (bad : Nat → Bool) : State × List Nat :=
  (issueTraps s x (ls.filter bad) 20 0 (fun _ => 0) 0, ls.filter (fun l => !bad l))

/-- An export operation with its lanes, numbered in the core's order of issue (12 R296). [log 95: DEDUCED, unsafe] -/
def exportOp (x : Ctx) (o : Nat) (f : Fields) (ls : List LaneOp) (bytes : List Byte) (s : State) : State :=
  if ls.isEmpty then s
  else
    let n := (s.core x.core).nextOrd
    addOp x { x.op o f with lanes := ls, n := n, bytes := bytes } (s.modCore x.core (fun k => { k with nextOrd := n + 1 }))

/-- The bytes of a vertex: position, then attributes. -/
def Vertex.toBytes (v : Vertex) : List Byte := (v.pos ++ v.attr).flatMap (fun w => leBytes 4 w.toNat)
/-- n words of bytes from an offset. -/
def wordsAt (b : List Byte) (o n : Nat) : List W32 := (List.range n).map (fun i => BitVec.ofNat 32 (recNat b (o + 4 * i) 4))
/-- A vertex from 32 bytes. -/
def Vertex.ofBytes (b : List Byte) : Vertex := { pos := wordsAt b 0 4, attr := wordsAt b 16 4 }
/-- A vertex that nothing has written. -/
def Vertex.zero : Vertex := { pos := [0, 0, 0, 0], attr := [0, 0, 0, 0] }

/-- A lane entry of an export. -/
def exportLane (lane : Nat) (va : W64) (src : W128) (src2 : W64) : LaneOp :=
  { lane := lane, va := va, src := src, src2 := src2, tgt := .none, st := .ready }

/-- EXPVTX (12 R296). -/
def execExpvtx (f : Fields) (s : State) : Res :=
  issueWord 0xED f s (fun x s =>
    let (s, ls) := exportTraps s x (x.active f) (fun l => decide (256 ≤ (x.rd f f.c l).toNat))
    exportOp x 0xED f (ls.map (fun l => exportLane l 0 (x.rd128 f.a l) ((x.rd f f.c l).setWidth 64)))
      (ls.flatMap (fun l => leBytes 16 (x.rd128 f.b l).toNat)) s)

/-- EXPPRIM (12 R296): each lane's triangle takes its ordinal here, since exports are accepted in the order of issue. -/
def execExpprim (f : Fields) (s : State) : Res :=
  issueWord 0xEE f s (fun x s =>
    let n := ((s.gang? x.core x.wv.gang).map Gang.prims).getD 0
    let (s, ls) := exportTraps s x (x.active f) (fun l => x.rd f f.a l >>> 24 != 0)
    let (s, ls) := (ls.zipIdx).foldl (fun (r : State × List (Nat × Nat)) p =>
      if n + p.2 < 4096 then (r.1, r.2 ++ [(p.1, n + p.2)])
      else (issueTraps r.1 x [p.1] 20 0 (fun _ => 0) 0, r.2)) (s, [])
    let s := s.modGang x.core x.wv.gang (fun g => { g with prims := n + ls.length })
    exportOp x 0xEE f (ls.map (fun p =>
      exportLane p.1 (x.rd64 f f.b p.1) ((x.rd f f.a p.1).setWidth 128) (BitVec.ofNat 64 p.2))) [] s)

/-- EXPPRIM.END (12 R296): it acts once. -/
def execExpprimEnd (f : Fields) (s : State) : Res :=
  issueWord 0xEE f s (fun x s =>
    exportOp x 0xEE f (((x.active f).take 1).map (fun l => exportLane l (x.rd64 f f.a l) 0 0)) [] s)

/-- EXPFRAG (12 R299). -/
def execExpfrag (f : Fields) (s : State) : Res :=
  issueWord 0xEF f s (fun x s =>
    let frag (l : Nat) : Bool := match x.wv.surf with
      | some u => decide (l < u.px.length) && !u.exported.getLsbD l
      | none => false
    let (s, ls) := exportTraps s x (x.active f) (fun l => !frag l)
    let depth (l : Nat) : W32 := if f.b = .absent then ((x.wv.surf.map (fun u => u.depth.getD l 0)).getD 0) else x.rd f f.b l
    let s := s.modWave x.core x.wid (fun v => { v with surf := v.surf.map (fun u =>
      { u with exported := u.exported ||| maskOf (fun l => ls.contains l) }) })
    exportOp x 0xEF f (ls.map (fun l => exportLane l 0 (x.rd128 f.a l) ((depth l).setWidth 64))) [] s)

/-! ## Acceptance -/

/-- An export of the core with a lower number has not been accepted (12 R296; 04 R109). -/
def exportWaitsFor (s : State) (c n : Nat) : Bool :=
  let earlier (v : Wave) : Bool := v.ops.any (fun o => decide (0xED ≤ o.opc ∧ o.opc ≤ 0xEF) && decide (o.n < n))
  (s.core c).waves.any (fun p => earlier p.2) || s.sched.saved.any (fun p => p.core == c && earlier p.wave)

/-- The unit's record index: a gang of no dealt unit has none (12 R296). -/
def Gang.uidx? (g : Gang) : Option Nat := g.unit.map (fun u => u.2.2)

/-- One primitive is emitted into a pass, or discarded there (12 R295, R296). -/
def emitPrim (p : Pass) (addr : Nat) (g : Gang) (ix ord : Nat) : Pass :=
  match p.draw? addr, g.uidx? with
  | some d, some u =>
    if p.bad || d.bad then p.meet 5
    else if d.nunit ≤ u then p.meet 5
    else
      let vert (i : Nat) : Vertex := (g.verts.get? i).getD Vertex.zero
      { p with prims := p.prims ++ [{ draw := addr, pseq := d.didx * 2 ^ 40 + u * 2 ^ 12 + ord, uidx := u, cls := g.cls,
                                      verts := [vert (bits ix 7 0), vert (bits ix 15 8), vert (bits ix 23 16)] }] }
  | _, _ => p.meet 5

/-- The unit of a gang has finished its exports to a draw (12 R296). -/
def endDraw (s : State) (pass addr : Nat) (u : Option Nat) : State :=
  match u with
  | none => s
  | some u => s.modPass pass (fun p => p.modDraw addr (fun d =>
      if u < d.nunit then { d with ended := setIns d.ended u } else d))

/-- What an accepted EXPVTX does: rising lanes, so that the highest lane's values stay. -/
def acceptVertices (s : State) (c gang : Nat) (o : Op) : State :=
  (o.lanes.zipIdx).foldl (fun s p =>
    let v : Vertex := { pos := (List.range 4).map (fun i => p.1.src.extractLsb' (32 * i) 32), attr := wordsAt o.bytes (16 * p.2) 4 }
    s.modGang c gang (fun g => { g with verts := Tab.put Vertex.zero g.verts p.1.src2.toNat v })) s

/-- What an accepted EXPFRAG does: the fragments have their colour and depth (12 R299). -/
def acceptFrags (s : State) (v : Wave) (o : Op) : State :=
  match v.surf with
  | none => s
  | some u => o.lanes.foldl (fun s l =>
      match u.px[l.lane]? with
      | none => s
      | some (x, y) => s.modPass u.pass (fun p => { p with frags := p.frags.map (fun q =>
          if q.pseq = u.pseq ∧ q.draw = u.draw ∧ q.x = x ∧ q.y = y then
            { q with export_ := some ((List.range 4).map (fun i => l.src.extractLsb' (32 * i) 32), l.src2.setWidth 32) }
          else q) })) s

/-- Every lane of an export completes. -/
def finishExport (s : State) (c w id : Nat) (o : Op) : State := o.lanes.foldl (fun s l => finishLane s c w id l.lane [] 0) s

/-- An export is accepted, or waits: none where it must wait for an earlier one (12 R295, R296, R299). -/
def exportStep (s : State) (c w id : Nat) (v : Wave) (o : Op) : Option State :=
  if exportWaitsFor s c o.n then none
  else if o.opc = 0xED then some (finishExport (acceptVertices s c v.gang o) c w id o)
  else if o.opc = 0xEF then some (finishExport (acceptFrags s v o) c w id o)
  else
    match s.gang? c v.gang, o.lanes with
    | some g, l :: _ =>
      let level : Level := if g.priv then .h else .u
      match findDraw s c v.vf level (s.core c).exportWaits l.va with
      | (s, ps, .wait) => some (s.modCore c (fun k => { k with exportWaits := ps }))
      | (s, _, .dropped) => some (finishExport (s.modCore c (fun k => { k with exportWaits := [] })) c w id o)
      | (s, _, .found p) =>
        let s := s.modCore c (fun k => { k with exportWaits := [] })
        let s := s.modGang c v.gang (fun g => { g with draws := if g.draws.contains (p, l.va.toNat) then g.draws
          else g.draws ++ [(p, l.va.toNat)] })
        let s := if o.f.m 0 1 = 1 then endDraw s p l.va.toNat g.uidx?
          else o.lanes.foldl (fun s l => s.modPass p (fun p => emitPrim p l.va.toNat g l.src.toNat l.src2.toNat)) s
        some (finishExport s c w id o)
    | _, _ => some (finishExport s c w id o)

/-- A gang that ends has ENDed every draw it exported to (12 R296). -/
def endDraws (s : State) (g : Gang) : State := g.draws.foldl (fun s d => endDraw s d.1 d.2 g.uidx?) s

/-! ## The front end -/

/-- The exact quotient of two values, the divisor a positive number. -/
def divV (x w : Val) : Val :=
  match x, w with
  | .num a, .num b => if b.n = 0 then .nan false else .num { neg := a.neg, n := a.n * b.d, d := a.d * b.n, e := a.e - b.e }
  | v, _ => v

/-- rn: a value rounded to FP32 (05 R118). -/
def rnV (v : Val) : Val := decodeF .fp32 (toFp32 v).toNat
/-- An integer as a value. -/
def intV (i : Int) : Val := .num (Ex.ofInt i)
/-- The sum of two values. -/
def sumV (a b : Val) : Val := (addV 0 a b).1
/-- The product of two values. -/
def prodV (a b : Val) : Val := (mulV a b).1
/-- The value of a vertex word. -/
def wordV (v : Vertex) (i : Nat) : Val := decodeF .fp32 ((v.pos.getD i 0).toNat)

/-- A vertex that the front end discards: w not above 0, or a coordinate not finite (12 R297). -/
def vertexOut (v : Vertex) : Bool :=
  (List.range 4).any (fun i => match wordV v i with | .num _ => false | _ => true) ||
  !ltV false (intV 0) (wordV v 3)

/-- A snapped coordinate: v is rn(x / w) or its opposite, over n pixels, in 1/256 pixel (12 R297). -/
def snap (v : Val) (n : Nat) : Int :=
  let half : Val := .num { neg := false, n := 1, d := 2, e := 0 }
  let p := rnV (prodV (prodV (sumV v (intV 1)) half) (intV n))
  ((BitVec.ofNat 32 (roundV .s32 0 false (prodV p (intV 256))).1)).toInt

/-- A snapped vertex (12 R297). -/
def snapVertex (v : Vertex) (w h : Nat) : Int × Int :=
  (snap (rnV (divV (wordV v 0) (wordV v 3))) w, snap (rnV (divV (wordV v 1) (wordV v 3))).opp h)

/-- Twice the signed area of three points (12 R297). -/
def area2 (a b c : Int × Int) : Int := (b.1 - a.1) * (c.2 - a.2) - (c.1 - a.1) * (b.2 - a.2)

/-- An edge covers a centre: its function is positive, or zero on an edge of the right direction (12 R297). -/
def edgeIn (a b p : Int × Int) : Bool :=
  let e := area2 a b p
  decide (0 < e) || (e == 0 && (decide (0 < b.2 - a.2) || (b.2 == a.2 && decide (b.1 < a.1))))

/-- The three points cover a centre; their area is positive. -/
def centreIn (a b c p : Int × Int) : Bool := edgeIn a b p && edgeIn b c p && edgeIn c a p

/-- The centre of a pixel. -/
def centre (x y : Nat) : Int × Int := (256 * x + 128, 256 * y + 128)

/-- Pixels of one axis whose centres lie between two coordinates. -/
def pixelRange (lo hi : Int) (n : Nat) : List Nat :=
  let a := (max 0 ((lo + 127) / 256)).toNat
  let b := (min (n : Int) ((hi + 128) / 256 + 1)).toNat
  (List.range (b - a)).map (a + ·)

/-- The pixels a triangle covers, in row-major order (12 R297). -/
def coveredPixels (p0 p1 p2 : Int × Int) (w h : Nat) : List (Nat × Nat) :=
  let (a, b, c) := if 0 < area2 p0 p1 p2 then (p0, p1, p2) else (p0, p2, p1)
  let lo (f : Int × Int → Int) : Int := min (f p0) (min (f p1) (f p2))
  let hi (f : Int × Int → Int) : Int := max (f p0) (max (f p1) (f p2))
  (pixelRange (lo Prod.snd) (hi Prod.snd) h).flatMap (fun y =>
    ((pixelRange (lo Prod.fst) (hi Prod.fst) w).filter (fun x => centreIn a b c (centre x y))).map (fun x => (x, y)))

/-- An exact ratio of integers, the divisor not 0. -/
def ratV (n d : Int) : Val := .num { neg := decide (n ≠ 0) && (decide (n < 0) != decide (d < 0)), n := n.natAbs, d := d.natAbs, e := 0 }

/-- The values of the fragment at a pixel: depth, b1 and b2 (12 R297). -/
def fragValues (vs : List Vertex) (ps : List (Int × Int)) (x y : Nat) : List Nat :=
  let q (i : Nat) : Int × Int := ps.getD i (0, 0)
  let v (i : Nat) : Vertex := vs.getD i Vertex.zero
  let a := area2 (q 0) (q 1) (q 2)
  let c := centre x y
  let lam (i : Nat) : Val := ratV (area2 (q ((i + 1) % 3)) (q ((i + 2) % 3)) c) a
  let sum (g : Nat → Val) : Val := (sumTerms 0 [g 0, g 1, g 2]).1
  let over_ (i : Nat) : Val := divV (lam i) (wordV (v i) 3)
  let depth := sum (fun i => prodV (lam i) (rnV (divV (wordV (v i) 2) (wordV (v i) 3))))
  let tot := sum over_
  [(toFp32 depth).toNat, (toFp32 (divV (over_ 1) tot)).toNat, (toFp32 (divV (over_ 2) tot)).toNat]

/-- The home core of a screen tile (12 R297); none while the function has no cluster. -/
def tileHome (s : State) (vf tx ty : Nat) : Option Nat :=
  let c := s.clustersOf vf
  ((c.drop (homeIndex tx ty 0 c.length)).head?).map (fun k => 4 * k + (tx + ty) % 4)

/-- The fragments of a primitive; none where it is discarded (12 R297). -/
def fragsOf (p : Pass) (d : Draw) (q : Prim) : Option (List (List Nat)) :=
  let ps := q.verts.map (fun v => snapVertex v p.width p.height)
  let a := area2 (ps.getD 0 (0, 0)) (ps.getD 1 (0, 0)) (ps.getD 2 (0, 0))
  let cull := bits d.state.toNat 8 7
  if q.verts.any vertexOut || a == 0 || (cull == 1 && decide (a < 0)) || (cull == 2 && decide (0 < a)) then none
  else some ((coveredPixels (ps.getD 0 (0, 0)) (ps.getD 1 (0, 0)) (ps.getD 2 (0, 0)) p.width p.height).map (fun xy =>
    [xy.1, xy.2] ++ fragValues q.verts ps xy.1 xy.2))

/-- Screen tile of a fragment. -/
def fragTile (g : List Nat) : Nat × Nat := (g.getD 0 0 / 32, g.getD 1 0 / 32)

/-- Sends a tile's share of a primitive to its home core. -/
def sendShare (s : State) (p : Pass) (q : Prim) (frags : List (List Nat)) (t : Nat × Nat) : State :=
  match tileHome s p.vf t.1 t.2 with
  | none => s
  | some c => s.modCore c (fun k => { k with shares := k.shares ++
      [{ pass := p.id, draw := q.draw, pseq := q.pseq, cls := q.cls, frags := frags.filter (fun g => fragTile g == t),
         attrs := q.verts.flatMap Vertex.attr }] })

/-- PRIMITIVE_RASTERISE (12 R297): the first primitive emitted. -/
def execPrimitiveRasterise (pass : Nat) (s : State) : Res :=
  match s.pass? pass with
  | none => .fault .notEnabled
  | some p =>
    match p.prims with
    | [] => .fault .notEnabled
    | q :: r =>
      match p.draw? q.draw with
      | none => .fault .notEnabled
      | some d =>
        let drop (culled : Bool) : State := s.modPass pass (fun p =>
          { p with prims := r, culled := if culled then p.culled + 1 else p.culled })
        match fragsOf p d q with
        | none => .next (drop (q.verts.any vertexOut))
        | some fs =>
          if fs != [] && (tileHome s p.vf 0 0).isNone then .fault .notEnabled
          else
            let s := (drop false).modPass pass (fun p => { p with frags := p.frags ++ fs.map (fun g =>
              { draw := q.draw, uidx := q.uidx, pseq := q.pseq, x := g.getD 0 0, y := g.getD 1 0,
                core := (tileHome s p.vf (fragTile g).1 (fragTile g).2).getD 0, export_ := none }) })
            .next (((fs.map fragTile).dedup).foldl (fun s t => sendShare s p q fs t) s)

/-! ## Surface waves -/

/-- Discards the fragments of a share (12 R298). -/
def dropShare (s : State) (t : TileShare) (ps : List (List Nat)) : State :=
  s.modPass t.pass (fun p => { p with frags := p.frags.filter (fun q =>
    !(q.draw == t.draw && q.pseq == t.pseq && ps.any (fun g => g.getD 0 0 == q.x && g.getD 1 0 == q.y))) })

/-- Reads and checks SURF for a draw (12 R298): done, or waiting. [log 97: DEDUCED, unsafe] -/
def readSurf (s : State) (c : Nat) (p : Pass) (d : Draw) : State :=
  let g := rasterAt (some c) p.vf p.level
  let put (s : State) (ps : Pages) (l : Option Launch) : State := s.modPass p.id (fun p =>
    { (p.modDraw d.addr.toNat (fun d => { d with surf := l, surfBad := l.isNone })) with
      waits := ps, status := if l.isNone then lowerCode p.status 2 else p.status })
  if d.surfAddr.toNat % 64 ≠ 0 then put s p.waits none
  else
    match engRecord s g p.waits d.surfAddr.toNat 128 with
    | (s, ps, .wait) => s.modPass p.id (fun p => { p with waits := ps })
    | (s, ps, .err _) => put s ps none
    | (s, ps, .ok b _) =>
      if launchOk s p.vf b = false ∨ recNat b 14 1 ≠ 1 then put s ps none
      else
        let n := launchRings b
        match (if n = 0 then (s, ps, Got.ok [] []) else engRecord s g ps (recNat b 96 8) (16 * n)) with
        | (s, ps, .wait) => s.modPass p.id (fun p => { p with waits := ps })
        | (s, ps, .err _) => put s ps none
        | (s, ps, .ok t _) =>
          let l := parseLaunch d.surfAddr b t
          put s ps (if ringsOk l.rings then some l else none)

/-- Registers of a surface wave beyond s3 (12 R298). -/
def surfRegs (r : Regs) (attrs : List W32) (fs : List (List Nat)) : Regs :=
  let u := (attrs.take 12).zipIdx.map (fun p => (⟨.u (4 + p.2), p.1⟩ : RegWrite))
  let v := fs.zipIdx.flatMap (fun p =>
    let n (i : Nat) : Nat := p.1.getD i 0
    [(⟨.v 0 p.2, BitVec.ofNat 32 (n 0 + 65536 * n 1)⟩ : RegWrite), ⟨.v 1 p.2, BitVec.ofNat 32 (n 2)⟩,
     ⟨.v 2 p.2, BitVec.ofNat 32 (n 3)⟩, ⟨.v 3 p.2, BitVec.ofNat 32 (n 4)⟩])
  r.writes (u ++ v)

/-- A surface wave starts: a gang of one wave (12 R298; 01 R18). -/
def startSurface (s : State) (c : Nat) (p : Pass) (d : Draw) (l : Launch) (t : TileShare) (fs : List (List Nat)) : State :=
  match roomFor (s.core c) l.vgran l.aregs 1 with
  | some (w :: _, zs) =>
    let g : Gang := { (default : Gang) with
      id := freeGang s c, vf := p.vf, cls := t.cls, launch := l, priv := p.level == .h, level0 := 1,
      bars := List.replicate 16 { ph := 0, e := 1, a := 0, held := [] }, rings := l.rings.map RingDecl.start }
    let s := s.modCore c (fun x => { x with gangs := x.gangs.ins g.id g })
    let s := putWaves s c g [w] zs (fun _ =>
      { pc := l.entry, level := if g.priv then .h else .u, check := .none, s0 := d.addr,
        s2 := BitVec.ofNat 32 t.pseq, s3 := BitVec.ofNat 32 (t.pseq / 2 ^ 32), owes := true })
    s.modWave c w (fun v => { v with
      regs := surfRegs v.regs t.attrs fs,
      lanes := v.lanes.zipIdx.map (fun (x : Lane × Nat) => if x.2 < fs.length then x.1 else { x.1 with exited := true }),
      surf := some { pass := p.id, draw := t.draw, pseq := t.pseq, px := fs.map (fun g => (g.getD 0 0, g.getD 1 0)),
                     depth := fs.map (fun g => BitVec.ofNat 32 (g.getD 2 0)), exported := 0 } })
  | _ => s

/-- SURFACE_WAVE_CREATE (12 R298): for up to 32 fragments of the core's first share; SURF is read first. -/
def execSurfaceWaveCreate (core : Nat) (s : State) : Res :=
  match (s.core core).shares with
  | [] => .fault .notEnabled
  | t :: r =>
    match (s.pass? t.pass).bind (fun p => (p.draw? t.draw).map (fun d => (p, d))) with
    | none => .next (s.modCore core (fun k => { k with shares := r }))
    | some (p, d) =>
      match d.surf with
      | none =>
        if d.surfBad then .next (dropShare (s.modCore core (fun k => { k with shares := r })) t t.frags)
        else .next (readSurf s core p d)
      | some l =>
        if (s.core core).ready = false ∨ gangStarts s core l = false then .fault .notEnabled
        else
          let rest := t.frags.drop 32
          let s := s.modCore core (fun k => { k with shares := (if rest = [] then [] else [{ t with frags := rest }]) ++ r })
          .next (startSurface s core p d l t (t.frags.take 32))

/-! ## Application -/

/-- A fragment that can export no more: no share holds it, and no thread of a surface wave that may still export it (12 R299). -/
def fragLost (s : State) (pass : Nat) (q : Frag) : Bool :=
  let inShare (t : TileShare) : Bool :=
    t.pass == pass && t.draw == q.draw && t.pseq == q.pseq && t.frags.any (fun g => g.getD 0 0 == q.x && g.getD 1 0 == q.y)
  let holds (v : Wave) : Bool := match v.surf with
    | none => false
    | some u => u.pass == pass && u.draw == q.draw && u.pseq == q.pseq && (u.px.zipIdx).any (fun p =>
        p.1 == (q.x, q.y) && (u.exported.getLsbD p.2 || !((v.lanes.getD p.2 default).exited)))
  !(s.cores.any (fun c => c.2.shares.any inShare || c.2.waves.any (fun w => holds w.2)) || s.sched.saved.any (fun w => holds w.wave))

/-- The fragment of a pixel that is next in the order of PSEQ, once what R300 asks before it has happened. -/
def nextFrag (p : Pass) (x y : Nat) : Option Frag :=
  match (p.frags.filter (fun q => q.x == x && q.y == y)).foldl (fun (m : Option Frag) q => match m with
      | none => some q
      | some b => if q.pseq < b.pseq then some q else some b) none with
  | none => none
  | some q =>
    match p.draw? q.draw with
    | none => none
    | some d =>
      if p.finishedBelow d.didx && (d.ended.filter (fun u => decide (u < q.uidx))).length == q.uidx &&
         !p.prims.any (fun r => decide (r.pseq < q.pseq)) then some q else none

/-- The depth test: DFUNC's relation of z to zd (12 R295, R300). -/
def depthPasses (dfunc : Nat) (z zd : Val) : Bool :=
  match dfunc with
  | 0 => false
  | 1 => ltV false z zd
  | 2 => ltV false z zd || eqV z zd
  | 3 => eqV z zd
  | 4 => ltV false zd z || eqV z zd
  | 5 => ltV false zd z
  | _ => true

/-- The smaller or larger of two values, a NaN giving way (08 R181). -/
def pickV (isMax : Bool) (a b : Val) : Val :=
  match a.isNan, b.isNan with
  | true, true => .nan false
  | true, false => b
  | false, true => a
  | false, false => if ltV true a b = isMax then b else a

/-- A value kept between 0 and 1. -/
def clamp01 (v : Val) : Val := pickV false (pickV true v (intV 0)) (intV 1)

/-- One channel blended (12 R301). -/
def blendV (blend : Nat) (s alpha cd : Val) : Val :=
  match blend with
  | 0 => s
  | 1 => (sumTerms 0 [prodV s alpha, prodV cd (sumV (intV 1) alpha.opp)]).1
  | 2 => (sumTerms 0 [s, cd]).1
  | 3 => pickV false s cd
  | _ => pickV true s cd

/-- A channel rounded into CFMT (12 R301). -/
def colourCode (cfmt : Nat) (v : Val) : List Byte :=
  match cfmt with
  | 2 => leBytes 1 (if v.isNan then 0 else (roundV .n8 0 false (prodV (clamp01 v) (intV 255))).1)
  | 7 => leBytes 2 (roundV .fp16 0 false v).1
  | _ => leBytes 4 (roundV .fp32 0 false v).1

/-- The new colour bytes of a pixel (12 R301). -/
def blendPixel (cfmt blend : Nat) (c : List W32) (old : List Byte) : List Byte :=
  let s (i : Nat) : Val := decodeF .fp32 ((c.getD i 0).toNat)
  let alpha := clamp01 (s 3)
  (List.range 4).flatMap (fun i => colourCode cfmt (blendV blend (s i) alpha (texChan cfmt old i)))

/-- Where a pixel's depth and colour lie. -/
def Pass.depthAt (p : Pass) (x y : Nat) : W64 := p.depthb + BitVec.ofNat 64 (y * p.dpitch + 4 * x)
/-- See depthAt. -/
def Pass.colourAt (p : Pass) (x y : Nat) : W64 := p.colb + BitVec.ofNat 64 (y * p.cpitch + texBytes p.cfmt * x)

/-- A back end's read of a target: its bytes, zeros where it is refused or poisoned; none while it waits. -/
def targetRead (s : State) (g : EngAt) (ps : Pages) (va : W64) (n : Nat) : State × Pages × Option (List Byte) :=
  match engRead s g ps va n false with
  | (s, ps, .wait) => (s, ps, none)
  | (s, ps, .err _) => (s, ps, some (List.replicate n 0))
  | (s, ps, .ok b bad) => (s, ps, some (if bad = [] then b else List.replicate n 0))

/-- Whether a back end's write can go: its target is known, or refused; a target in elided memory is refused. -/
def targetProbe (s : State) (g : EngAt) (ps : Pages) (va : W64) (n : Nat) : State × Pages × Option (Option Target) :=
  match engProbe s g ps va n false with
  | (s, ps, .wait) => (s, ps, none)
  | (s, ps, .to t) => (s, ps, some (some t))
  | (s, ps, _) => (s, ps, some none)

/-- Writes bytes at va, whose target was probed; a refused write is left out. -/
def targetWrite (s : State) (g : EngAt) (t : Option Target) (va : W64) (b : List Byte) : State :=
  match t with
  | some t => engPush s g (g.entry t va b [] [] 0)
  | none => s

/-- What a back end read from peers for a fragment is forgotten as the fragment is done: the next one reads again (12 R300). -/
def dropReads (s : State) (g : EngAt) : State :=
  { s with peers := s.peers.filter (fun q => !(q.cmd == some (g.core.getD 0xFFFF, g.kind, g.id) && q.chunk.isNone && q.got.isSome)) }

/-- A fragment leaves its pass; applied counts it. -/
def leaveFrag (s : State) (p : Pass) (q : Frag) (applied : Bool) : State :=
  s.modPass p.id (fun p => { p with frags := p.frags.filter (· != q), applied := if applied then p.applied + 1 else p.applied })

/-- Applies an exported fragment with legal depth (12 R300, R301). [log 98: DEDUCED, unsafe] -/
def applyFrag (s : State) (p : Pass) (d : Draw) (q : Frag) (c : List W32) (z : W32) : State :=
  let g := rasterAt (some q.core) p.vf p.level
  let st := d.state.toNat
  let n := texBytes p.cfmt
  let (da, ca) := (p.depthAt q.x q.y, p.colourAt q.x q.y)
  let wait (s : State) (ps : Pages) : State := s.modPass p.id (fun p => { p with waits := ps })
  match targetRead s g p.waits da 4 with
  | (s, ps, none) => wait s ps
  | (s, ps, some zb) =>
    if depthPasses (bits st 2 0) (decodeF .fp32 z.toNat) (decodeF .fp32 (leNat zb)) = false then leaveFrag (dropReads (wait s ps) g) p q true
    else
      match targetRead s g ps ca n with
      | (s, ps, none) => wait s ps
      | (s, ps, some cb) =>
        match (if st.testBit 3 then targetProbe s g ps da 4 else (s, ps, some none)) with
        | (s, ps, none) => wait s ps
        | (s, ps, some td) =>
          match targetProbe s g ps ca n with
          | (s, ps, none) => wait s ps
          | (s, ps, some tc) =>
            let s := targetWrite s g td da (leBytes 4 z.toNat)
            let s := targetWrite s g tc ca (blendPixel p.cfmt (bits st 6 4) c cb)
            leaveFrag (dropReads (wait s ps) g) p q true

/-- FRAGMENT_APPLY (12 R299 to R301): the next fragment of a pixel is applied or discarded. -/
def execFragmentApply (pass x y : Nat) (s : State) : Res :=
  match s.pass? pass with
  | none => .fault .notEnabled
  | some p =>
    match nextFrag p x y with
    | none => .fault .notEnabled
    | some q =>
      match q.export_, p.draw? q.draw with
      | some (c, z), some d =>
        let v := decodeF .fp32 z.toNat
        if v.isNan || ltV false v (intV 0) || ltV false (intV 1) v then .next (leaveFrag s p q false)
        else .next (applyFrag s p d q c z)
      | _, _ => if fragLost s pass q then .next (leaveFrag s p q false) else .fault .notEnabled

/-- PASS_COMPLETE (12 R302): the record is written and the pass closes. -/
def execPassComplete (pass : Nat) (s : State) : Res :=
  match s.pass? pass with
  | none => .fault .notEnabled
  | some p =>
    if p.prims != [] || p.frags != [] || !p.finishedBelow p.ndraw then .fault .notEnabled
    else
      let (s, ps, ok) :=
        if p.done.toNat % 16 ≠ 0 then (s, p.waits, true)
        else ownerWrite s (rasterAt none p.vf p.level) p.waits p.done (doneRecord p.tag p.status p.applied.toNat)
      .next (if ok then { s with passes := s.passes.filter (fun q => q.id != pass) }
        else s.modPass pass (fun p => { p with waits := ps }))

end Sys2Proof.Machine
end

