-- ==== Sys2Proof/Machine/Save.lean ====
section
/-! DEFINITION. Save records, quiescing and restoring of waves, pre-emption requests (14 R323 to R330; 15 R348; 16 R373). -/

namespace Sys2Proof.Machine

/-! ## The record -/

/-- n rounded up to a multiple of k. -/
def alignUp (n k : Nat) : Nat := (n + k - 1) / k * k

/-- Offsets of a wave save record: its register areas, its end (14 R327; 02 R46). -/
structure RecMap where
  log : Nat
  vec : Nat
  uni : Nat
  pred : Nat
  tile : Nat
  acc : Nat
  stop : Nat
  deriving DecidableEq, Repr

/-- The layout of a record with so many MXE images and log entries and an allocation (14 R327). -/
def recMap (nmx nlog vgran sgran tregs aregs : Nat) : RecMap :=
  let log := 0x1700 + 128 * nmx
  let vec := alignUp (log + 1024 * nlog) 64
  let uni := vec + 2048 * vgran
  let pred := uni + 128 * sgran
  let tile := pred + 64
  let acc := alignUp (tile + 32 * tregs) 64
  { log := log, vec := vec, uni := uni, pred := pred, tile := tile, acc := acc, stop := acc + 16384 * aregs }

/-- The hold of a lane as the record shows it: its code and value (14 R328). -/
def holdCode (v : Wave) (l : Nat) (x : Lane) : Nat × Nat :=
  if x.holds.contains .halted then (9, 0)
  else match x.holds with
    | .waitf m :: _ => (1, m.toNat)
    | .sleep d :: _ => (2, d.toNat)
    | .waitchk o m :: _ => (3, o.toNat + m.toNat * 2 ^ 32)
    | .waitmx n :: _ => (4, n.toNat)
    | .yield :: _ => (5, 0)
    | .barwait id :: _ => (6, match v.op? id with | some o => o.n % 16 + o.m * 2 ^ 32 | none => 0)
    | .fetch _ :: _ => (8, 0)
    | .refused :: _ => (8, 0)
    | _ => (if reconvHeld v l then 7 else 0, 0)

/-- The code of a landing check. -/
def Landing.code : Landing → Nat
  | .none => 0
  | .ind => 1
  | .call => 2
  | .trapret => 3

/-- The 48 bytes of a trap record (14 R328). -/
def TrapRec.toBytes (t : TrapRec) : List Byte :=
  leBytes 4 t.cause.toNat ++ leBytes 4 t.spo.toNat ++ leBytes 8 t.res.toNat ++ leBytes 8 t.aux.toNat ++ leBytes 4 t.aux2.toNat ++
  leBytes 4 t.kp.toNat ++ leBytes 4 t.k0.toNat ++ leBytes 4 t.k1.toNat ++ leBytes 4 t.k2.toNat ++ leBytes 4 t.k3.toNat

/-- A trap record from its bytes. -/
def TrapRec.ofBytes (b : List Byte) : TrapRec :=
  let w (o : Nat) : W32 := BitVec.ofNat 32 (recNat b o 4)
  { cause := w 0, spo := w 4, res := BitVec.ofNat 64 (recNat b 8 8), aux := BitVec.ofNat 64 (recNat b 16 8), aux2 := w 24,
    kp := w 28, k0 := w 32, k1 := w 36, k2 := w 40, k3 := w 44 }

/-- The 160 bytes of a lane entry (14 R328). -/
def laneBytes (v : Wave) (l : Nat) (x : Lane) : List Byte :=
  let (h, hv) := holdCode v l x
  let (ha, hc, hs) : Nat × Nat × Nat := match x.held with
    | some k => (k.aux.toNat, (causeWord false k.level k.off k.sub k.code).toNat, k.spo.toNat)
    | none => (0, 0, 0)
  leBytes 8 x.pc.toNat ++ leBytes 4 (x.level.code + 4 * x.check.code + 16 * h) ++ leBytes 4 x.srg.toNat ++ leBytes 8 hv ++
  leBytes 8 ha ++ leBytes 4 hc ++ leBytes 4 hs ++ x.trg.toBytes ++ x.trh.toBytes ++ leBytes 24 0

/-- A lane from its entry, but for its hold (14 R328). -/
def laneOf (b : List Byte) (exited : Bool) : Lane :=
  let st := recNat b 8 4
  let hc : W32 := BitVec.ofNat 32 (recNat b 32 4)
  { pc := BitVec.ofNat 64 (recNat b 0 8), level := Level.ofCode (st % 4),
    check := match bits st 3 2 with | 0 => .none | 1 => .ind | 2 => .call | _ => .trapret,
    holds := [], exited := exited, trg := TrapRec.ofBytes (b.drop 40), trh := TrapRec.ofBytes (b.drop 88), due := [],
    held := if hc = 0 then none else some
      { code := hc.toNat % 256, sub := bits hc.toNat 15 8, spo := BitVec.ofNat 32 (recNat b 36 4), off := bits hc.toNat 21 17,
        aux := BitVec.ofNat 64 (recNat b 24 8), aux2 := 0, level := Level.ofCode (bits hc.toNat 23 22) },
    srg := BitVec.ofNat 32 (recNat b 12 4), stopped := false, stops := 0, stopSpo := 0, skipStop := false }

/-- The 128 bytes of an MXE image (14 R328). -/
def mxImage (q : MCmd) : List Byte :=
  let (t, r) : Nat × Nat := match q.team with | some (t, r, _) => (t, r) | none => (0, 0)
  leBytes 16 (packWord q.opc q.f).toNat ++ leBytes 4 q.param.toNat ++ leBytes 4 q.prog ++ leBytes 4 q.ordinal.toNat ++
  leBytes 4 q.status ++ leBytes 32 q.ta.toNat ++ leBytes 32 q.tb.toNat ++ leBytes 4 t ++ leBytes 4 r ++ leBytes 24 0

/-- The lane that an entry of an operation belongs to: texel reads belong to the lane that asked. -/
def LaneOp.real (l : LaneOp) : Nat := if l.lane < 32 then l.lane else texOwner l.lane

/-- Lanes of an access that a log entry holds: logged, or held back by something earlier of the wave (03 R85, R86; 04 R105; 14
R324). -/
def Op.logLanes (o : Op) : List LaneOp :=
  if isShared o ∨ (localBuf o.opc o.f).isSome then o.lanes.filter (fun l => match l.st with | .logged _ => true | .behind => true | .ready => true | _ => false)
  else []

/-- The tickets an operation waits on. -/
def Op.tickets (o : Op) : List Nat :=
  (o.lanes.flatMap (fun l => match l.st with | .logged ts => ts | _ => [])).dedup

/-- The tickets of an operation's log entry: its own, else those of the earlier operations it waits behind; 32 at most (14 R328). -/
def Wave.entryTickets (v : Wave) (o : Op) : List Nat :=
  (if o.tickets = [] then ((v.ops.filter (fun p => decide (p.id < o.id))).flatMap Op.tickets).dedup else o.tickets).take 32

/-- The operations of a wave that its record has log entries of, in log order (14 R324, R328). -/
def Wave.entries (v : Wave) : List Op := v.ops.filter (fun o => o.logLanes != [])

/-- The 1,024 bytes of a log entry, with its requests as ticket and SEQ; one that waits on none shows one request, number 0, answered.
A texel's source is its lane's coordinates (14 R328). -/
def logBytes (s : State) (o : Op) (rs : List (Nat × W32)) : List Byte :=
  let ls := o.logLanes
  let find (i : Nat) : Option LaneOp := ls.find? (fun l => l.real == i)
  let flag (p : Answer → Bool) : Nat := (rs.zipIdx).foldl (fun n r =>
    match s.answers.get? r.1.1 with | some a => if p a then n + 2 ^ r.2 else n | none => n) 0
  let rs := rs.take 32
  let head := leBytes 16 (packWord o.opc o.f).toNat ++
    leBytes 4 (maskOf (fun i => (find i).isSome)).toNat ++ leBytes 4 (if rs = [] then 1 else flag (fun _ => true)) ++
    leBytes 4 (flag (fun a => match a with | .refuse _ _ => true | .retry _ => false)) ++ leBytes 4 (max 1 rs.length) ++
    rs.flatMap (fun r => leBytes 4 r.2.toNat)
  let src (l : LaneOp) : Nat := if o.opc = 0xE0 ∨ o.opc = 0xE1 then recNat o.bytes (32 + 16 * l.real) 16 else if isAtomic o.opc then l.src.toNat % 2 ^ 64 + l.src2.toNat * 2 ^ 64 else l.src.toNat
  head ++ leBytes (256 - head.length) 0 ++
  (List.range 32).flatMap (fun i => leBytes 8 (match find i with | some l => l.va.toNat | none => 0)) ++
  (List.range 32).flatMap (fun i => leBytes 16 (match find i with | some l => src l | none => 0))

/-- The 1,024 bytes of a log entry of a spill or a refill (07 R159): a zero word and no lanes; its place, and a spill's entry or the lanes a
refill frees, stand first among the addresses and sources. -/
def spillBytes (s : State) (v : Wave) (i : Nat) (rs : List (Nat × W32)) : List Byte :=
  let ans := rs.map (fun r => s.answers.get? r.1)
  let mask (p : Answer → Bool) : Nat := (ans.zipIdx).foldl (fun n a => match a.1 with
    | some x => if p x then n + 2 ^ a.2 else n | none => n) 0
  let at_ := if i = 65536 then v.spilled else i
  let e := match v.spillLog.find? (fun e => e.idx == i) with
    | some e => e.entry.bytes
    | none => leBytes 16 (match v.refill with | some r => r.freed.toNat | none => 0)
  leBytes 20 0 ++ leBytes 4 (mask (fun _ => true)) ++
    leBytes 4 (mask (fun a => match a with | .refuse _ _ => true | .retry _ => false)) ++ leBytes 4 rs.length ++
    rs.flatMap (fun r => leBytes 4 r.2.toNat) ++ leBytes (224 - 4 * rs.length) 0 ++
    leBytes 8 (v.rsbase.toNat + 16 * at_) ++ leBytes 248 0 ++ e ++ leBytes 496 0

/-- Bytes of a register area kept as 32-bit words. -/
def areaBytes (t : Tab W32) (n : Nat) : List Byte := (denseWords t 0 n).flatMap (fun w => leBytes 4 w.toNat)

/-- The register areas (02 R46). -/
def regBytes (p : Saved) : List Byte :=
  let v := p.wave
  let m := recMap 0 0 v.vgran v.sgran v.tregs v.aregs
  let tiles := (List.range v.tregs).flatMap (fun i => leBytes 32 (Tab.get (0 : W256) v.regs.tile i).toNat)
  areaBytes v.regs.vec (512 * v.vgran) ++ areaBytes v.regs.uni (32 * v.sgran) ++
  (List.range 16).flatMap (fun i => leBytes 4 (if i = 15 then 2 ^ 32 - 1 else (Tab.get (0 : Mask) v.regs.pred i).toNat)) ++
  tiles ++ leBytes (m.acc - m.tile - tiles.length) 0 ++ areaBytes p.acc (4096 * v.aregs)

/-- Operations of a saved wave that have a log entry, in log order. -/
def Saved.logged (p : Saved) : List (Op × List (Nat × W32)) :=
  p.reqs.filterMap (fun r => (p.wave.op? r.1).map (fun o => (o, r.2)))

/-- Commands of a saved wave that its record holds images of: 64 at most; the rest stay in its gang's spill ring (10 R243; 14 R327). -/
def Saved.images (p : Saved) : List MCmd := p.mx.take 64

/-- The layout of a saved wave's record. -/
def Saved.map (p : Saved) : RecMap := recMap p.images.length (p.reqs.length + p.spillReqs.length) p.wave.vgran p.wave.sgran p.wave.tregs p.wave.aregs

/-- Bytes of a gang record (14 R329). -/
def Launch.recSize (l : Launch) : Nat := 0x400 + 1024 * l.gkib + l.rings.foldl (fun n r => n + r.stageb * r.maxst) 0

/-- SIZE of a saved wave's record (14 R327). -/
def Saved.size (p : Saved) (l : Launch) : Nat :=
  if p.grec then alignUp p.map.stop 4096 + l.recSize else p.map.stop

/-- The bytes of a wave save record up to its registers' end (14 R327). -/
def saveBytes (s : State) (p : Saved) (size : Nat) : List Byte :=
  let v := p.wave
  let z (k : Nat) : Nat := match v.zmap[k]? with | some z => z | none => 0xFF
  let exited := maskOf (fun l => match v.lanes[l]? with | some x => x.exited | none => true)
  let head := leBytes 4 1 ++ leBytes 2 p.core ++ leBytes 1 p.slot ++ leBytes 1 v.gang ++ leBytes 1 v.vgran ++ leBytes 1 v.sgran ++
    leBytes 1 v.tregs ++ leBytes 1 v.aregs ++ leBytes 4 v.wstatNow.toNat ++ leBytes 4 exited.toNat ++ leBytes 1 v.stack.length ++
    leBytes 1 p.images.length ++ leBytes 1 (p.reqs.length + p.spillReqs.length) ++ leBytes 1 (if p.grec then 1 else 0) ++ leBytes 4 v.spilled ++ leBytes 4 0 ++
    leBytes 8 v.rsbase.toNat ++ leBytes 8 size ++ (List.range 12).flatMap (fun n => leBytes 4 (v.flags.getD n 0)) ++
    (List.range 8).flatMap (fun i => leBytes 4 (v.lstat.field i).toNat) ++ leBytes 32 0 ++
    (List.range 32).flatMap (fun k => leBytes 1 (z k)) ++ leBytes 64 0
  let lanes := (v.lanes.zipIdx).flatMap (fun x => laneBytes v x.2 x.1)
  let stack := v.stack.reverse.flatMap RsEntry.bytes
  let bars := v.bars.flatMap (fun b =>
    leBytes 4 ((if b.owes then 1 else 0) + (if b.holds then 2 else 0)) ++ leBytes 4 b.arph.toNat)
  let logs := p.logged.flatMap (fun q => logBytes s q.1 q.2) ++ p.spillReqs.flatMap (fun q => spillBytes s v q.1 q.2)
  let body := head ++ lanes ++ stack ++ leBytes (256 - stack.length) 0 ++ bars ++ leBytes 128 0 ++ p.images.flatMap mxImage ++ logs
  body ++ leBytes (p.map.vec - body.length) 0 ++ regBytes p

/-- A ring's 32 bytes in a gang record (14 R329). -/
def ringBytes (r : Ring) : List Byte :=
  let code : Stage → Nat := fun t => match t with | .empty => 0 | .filling => 1 | .full => 2 | .draining => 3
  let st := (r.stages.zipIdx).foldl (fun n p => n + code p.1 * 4 ^ p.2) 0
  leBytes 4 r.filln.toNat ++ leBytes 4 r.drainn.toNat ++ leBytes 4 r.consn.toNat ++ leBytes 4 r.d ++ leBytes 16 st

/-- The bytes of a gang record (14 R329). -/
def gangBytes (s : State) (c : Nat) (g : Gang) : List Byte :=
  let mask := ((Gang.all s g).dedup).foldl (fun n w => n + 2 ^ w) 0
  let rings := g.rings.flatMap ringBytes
  let head := leBytes 4 1 ++ leBytes 1 g.m ++ leBytes 1 0 ++ leBytes 1 g.rings.length ++ leBytes 1 0 ++ leBytes 2 g.launch.gkib ++
    leBytes 6 0 ++ leBytes 8 g.args.toNat ++ leBytes 8 mask ++
    g.bars.flatMap (fun b => leBytes 4 b.ph.toNat ++ leBytes 4 b.e ++ leBytes 4 b.a ++ leBytes 4 0) ++
    rings ++ leBytes (256 - rings.length) 0 ++
    leBytes 8 g.spBase.toNat ++ leBytes 4 g.spN ++ leBytes 8 g.stBase.toNat ++ leBytes 4 g.stN ++ leBytes 4 g.stCount.toNat ++ leBytes 4 0
  head ++ leBytes (0x400 - head.length) 0 ++ memBytes g.g 0 (1024 * g.launch.gkib) ++
  g.launch.rings.flatMap (fun r => memBytes (s.core c).x r.xoff (r.stageb * r.maxst))

/-- Every frame of [a, a + n) lies in HBM4 and is HOST's. -/
def hostFrames (s : State) (a n : Nat) : Bool :=
  decide (a + n ≤ hbmEnd) && (List.range ((a + n + 65535) / 65536 - a / 65536)).all (fun i => s.owner (65536 * (a / 65536 + i)) == ownHost)

/-- [a, a + n) has no byte of the frame ownership table, which nothing but its controllers writes (16 R366). -/
def besideTable (s : State) (a n : Nat) : Bool :=
  s.conf.startst != 1 || decide (a + n ≤ s.conf.fotbase.toNat) || decide (s.conf.fotbase.toNat + 0x800000 ≤ a)

/-- Writes bytes of a record; a write into the frame ownership table is refused (16 R366). -/
def putRecord (s : State) (a : Nat) (b : List Byte) : State :=
  if besideTable s a b.length then selfWrite s partWriter a b else refuseOwner s 0 0xFFFF a

/-! ## Saved waves while they are away -/

/-- Words of a saved wave's accumulators whose slots are still kept for its commands (10 R242; 14 R325). -/
def syncAcc (k : Core) (p : Saved) : Saved :=
  let kept := (p.wave.zmap.zipIdx).filter (fun z => k.zkeep.contains (z.1, p.wave.uid))
  kept.foldl (fun p z =>
    let ws := (k.z.filter (fun e => e.1 / 4096 == z.1)).map (fun e => (4096 * z.2 + e.1 % 4096, e.2))
    { p with
      acc := (ws.foldl (fun t e => t.ins e.1 e.2) (p.acc.filter (fun e => e.1 / 4096 != z.2))),
      accPois := p.accPois.filter (fun i => i / 4096 != z.2) ++
        (k.zpois.filter (fun i => i / 4096 == z.1)).map (fun i => 4096 * z.2 + i % 4096) }) p

/-- The aligned 8-byte parts in which two lists of bytes differ, from an offset up: the offset and the second's bytes. -/
def diffParts : Nat → Nat → List Byte → List Byte → List (Nat × List Byte)
  | 0, _, _, _ => []
  | n + 1, o, a, b =>
    let r := diffParts n (o + 8) (a.drop 8) (b.drop 8)
    if a.take 8 = b.take 8 then r else (o, b.take 8) :: r

/-- Writes the parts of a record that a completion has changed (14 R325). -/
def syncRecord (before after : State) (old new : Saved) : State :=
  let size := recNat (memBytes after.mem (old.addr + 0x28) 8) 0 8
  let b := saveBytes after new size
  (diffParts ((b.length + 7) / 8) 0 (saveBytes before old size) b).foldl (fun s x => selfWrite s partWriter (new.addr + x.1) x.2) after

/-- Completions of saved waves stand in their records (14 R325). -/
def syncRecords (before after : State) : State :=
  if before.sched.saved.isEmpty then after
  else
    let after := { after with sched := { after.sched with saved := after.sched.saved.map (fun (p : Saved) =>
      syncAcc { after.core p.core with zkeep := (before.core p.core).zkeep } p) } }
    after.sched.saved.foldl (fun (s : State) (p : Saved) =>
      match before.sched.saved.find? (fun (q : Saved) => q.wave.uid == p.wave.uid) with
      | some q => if q = p ∧ before.answers = after.answers then s else syncRecord before s q p
      | none => s) after

/-- After a step: completions of saved waves stand in their records, and the part's own writes have their VALUE records (14 R325; 17
R384). The number bounds the records that all rings together take. -/
def syncSaved (before after : State) : State :=
  let t := syncRecords before after
  if t.selfWrites.isEmpty then t else flushSelf 0x800000 t

/-! ## Quiescing -/

/-- A lane's access that has issued waits for something earlier of its own wave: a gate, a location, a region, its own release (03 R65,
R86; 04 R96, R97, R99, R105). -/
def heldBack (k : Core) (v : Wave) (o : Op) (l : LaneOp) : Bool :=
  match l.st with
  | .behind => v.ops.any (fun p => decide (p.id < o.id) && p.lanes.any (fun k => pendingRegion k l.va))
  | .ready =>
    gated v o.id (some l.lane) || atomWaits k v o ||
      (if isShared o then sharedBlocked v o.id l.va || laneBlocked o l.lane l.va else localBlocked v o.id)
  | _ => false

/-- An operation that may stay pending while its wave is saved (14 R324): an access once every lane has completed, is logged, or is held
back with its release, which its log entry holds (04 R105); no word of rows 0x7 to 0x9; anything else. -/
def savable (k : Core) (v : Wave) (o : Op) : Bool :=
  if 7 ≤ o.opc / 16 ∧ o.opc / 16 ≤ 9 then false
  else if o.opc = 0xE3 then o.lanes.all (fun l => l.st == .done || l.st == .waiting)
  else if isShared o ∨ (localBuf o.opc o.f).isSome ∨ o.opc = 0xE4 ∨ o.opc = 0xE5 then o.lanes.all (fun l => match l.st with
    | .done => true
    | .logged _ => true
    | .known => o.opc == 0xDF || decide (32 ≤ l.lane)
    | _ => heldBack k v o l)
  else true

/-- A page request is not answered yet. -/
def openWaits (s : State) (ps : List (Nat × Nat)) : Bool := ps.any (fun p => (s.answers.get? p.2).isNone)

/-- A command of a team is stopped at a fault: its fetch of B waits, or a member's own command does, resident or saved (10 R247,
R248). -/
def teamStopped (s : State) (q : MCmd) : Bool :=
  let mate (p : MCmd) : Bool := p.isTeam && p.team.map Prod.fst == q.team.map Prod.fst && p.teamSeq == q.teamSeq
  q.isTeam &&
  (openWaits s (((teamOf? s q).map TeamCmd.waits).getD []) ||
    s.cores.any (fun k => k.2.mx.any (fun p => mate p && openWaits s p.waits)) ||
    s.sched.saved.any (fun p => p.mx.any mate))

/-- An MXE command has started and goes on without waiting for a page (10 R248). -/
def mxRunning (s : State) (q : MCmd) : Bool := q.started && !openWaits s q.waits && !teamStopped s q

/-- Log entries of a wave's spills and of its refill (07 R159). -/
def Wave.logSpills (v : Wave) : Nat := v.spillLog.length + (if v.refill.isSome then 1 else 0)

/-- A wave has quiesced (14 R324). [log 111: DESIGN CHOICE, unsafe] -/
def quiesced (s : State) (c w : Nat) (t : Slot) : Bool :=
  let v := t.wave
  !t.stopping && !t.parked && allStopped v && t.watches.isEmpty &&
  (match (s.quarter c (quarterOf w)).run with | some r => r.wave != w | none => true) &&
  v.ops.all (savable (s.core c) v) && (match v.refill with | some r => r.log != .none | none => true) && decide (v.entries.length + v.logSpills ≤ 64) &&
  !(s.core c).mx.any (fun q => q.by_.uid == v.uid && mxRunning s q)

/-- SEQ of a request by its ticket; 0 where its record is not written yet. -/
def seqOf (s : State) (t : Nat) : W32 :=
  match s.answers.get? t with
  | some (.retry q) => q
  | some (.refuse _ q) => q
  | none => match s.reqs.find? (fun r => r.ticket == t) with | some r => r.seq | none => 0

/-- A wave as it is saved at a record address (14 R324, R327). -/
def savedOf (s : State) (c w : Nat) (t : Slot) (addr reason : Nat) (grec : Bool) : Saved :=
  let v := t.wave
  let k := s.core c
  let acc := (v.zmap.zipIdx).flatMap (fun z =>
    (k.z.filter (fun e => e.1 / 4096 == z.1)).map (fun e => (4096 * z.2 + e.1 % 4096, e.2)))
  let seqs (ts : List Nat) : List (Nat × W32) := ts.map (fun t => (t, seqOf s t))
  { wave := { v with
      lanes := v.lanes.map (fun x => { x with stopped := false, stops := 0 }),
      ops := v.ops.map (fun o => if isSpec o && !o.allDone then { o with n := 1 } else o) }, core := c, slot := w, addr := addr,
    reason := reason, acc := acc.foldl (fun (m : Tab W32) e => m.ins e.1 e.2) [],
    accPois := (v.zmap.zipIdx).flatMap (fun z => (k.zpois.filter (fun i => i / 4096 == z.1)).map (fun i => 4096 * z.2 + i % 4096)),
    mx := k.mx.filter (fun q => q.by_.uid == v.uid),
    reqs := v.entries.map (fun o => (o.id, seqs (v.entryTickets o))),
    spillReqs := v.spillLog.map (fun e => (e.idx, seqs (e.tickets.take 32))) ++
      (match v.refill with | some r => if r.log = .none then [] else [(65536, seqs (r.tickets.take 32))] | none => []),
    grec := grec }

/-- Completes a word that acts once, of a wave resident or saved (14 R325, R331). -/
def finishUid (s : State) (c w uid id lane : Nat) (ws : List RegWrite) : State :=
  modUid s c w uid (fun v => (v.landLane id lane ws).endOp id)

/-- The status of a word that acts once. -/
def statusWr (f : Fields) (lane st : Nat) : List RegWrite :=
  if f.dst = .absent then [] else wr32 f.dst lane (BitVec.ofNat 32 st)

/-- Completes the CTXSV that asked for a save (14 R332). -/
def answerSave (s : State) (req : Option (Nat × Nat × Nat)) (st : Nat) : State :=
  match req with
  | none => s
  | some (c, uid, id) =>
    let w := (((s.core c).byUid? uid).map Prod.fst).getD 0
    match findUid s c w uid with
    | none => s
    | some v =>
      match v.op? id with
      | none => s
      | some o => match o.lanes with
        | l :: _ => finishUid s c w uid id l.lane (statusWr o.f l.lane st)
        | [] => s

/-- Removes a saved wave from its slot: Z slots of live Ladle commands stay kept (10 R242; 14 R324). -/
def vacate (s : State) (c w : Nat) (v : Wave) : State :=
  s.modCore c (fun k => ({ k with
    slots := k.slots.del w, mx := k.mx.filter (fun q => q.by_.uid != v.uid),
    zkeep := k.zkeep ++ v.zmap.map (fun z => (z, v.uid)) } : Core).unspill.trimKeep)

/-- The frames of the save pool that a record held are free again. -/
def freePool (s : State) (p : Saved) (size : Nat) : State :=
  if p.reason = 0 then s
  else { s with sched := { s.sched with poolUsed := s.sched.poolUsed.filter (fun f =>
    decide (f < p.addr / 65536 ∨ (p.addr + size + 65535) / 65536 ≤ f)) } }

/-- A save that finds a frame of its record that is not HOST's changes nothing: the wave goes on, or is parked again, and CTXSV answers
BADREC (14 R332). -/
def cancelSave (s : State) (c w : Nat) (d : Drain) : State :=
  answerSave (s.modSlot c w (fun t => { t with
    drain := none, parked := d.parked,
    wave := if d.parked then t.wave else
      { t.wave with lanes := t.wave.lanes.map (fun (x : Lane) => { x with stopped := false }) } })) d.req 2

/-- Saves a quiesced wave: its record, and, for the last one of its gang, the gang record (14 R324, R327, R329). -/
def saveWave (s : State) (c w : Nat) (t : Slot) (d : Drain) (addr : Nat) (grec : Bool) : State :=
  let p := savedOf s c w t addr d.reason grec
  let g := s.gang? c t.wave.gang
  let size := p.size ((g.map Gang.launch).getD default)
  if hostFrames s addr size = false then cancelSave (freePool s p size) c w d else
  let s := putRecord s addr (saveBytes s p size)
  let s := match grec, g with
    | true, some g => putRecord s (addr + alignUp p.map.stop 4096) (gangBytes s c g)
    | _, _ => s
  let s := vacate s c w t.wave
  let s := s.modGang c t.wave.gang (fun g => { g with
    members := g.members.filter (· != w), savedMembers := g.savedMembers ++ [t.wave.uid] })
  let s := { s with sched := { s.sched with saved := s.sched.saved ++ [p] } }
  let s := match grec, s.gang? c t.wave.gang with
    | true, some g => { s.modCore c (fun k => { k with gangs := k.gangs.del g.id }) with
        sched := { s.sched with savedGangs := s.sched.savedGangs ++ [{ core := c, gang := g }] } }
    | _, _ => s
  answerSave s d.req 0

/-- A descriptor names G, X or an X ring (10 R229). -/
def namesGang (t : W256) : Bool := [1, 3, 4].contains (tspace t)

/-- A live command of a gang names G or X: its descriptors, its index array or its chunk bitmap; a query as far as its ranges are known;
an MXE command of a wave that has ended, for the saved wave's own go with it (14 R324, R329). -/
def gangBusy (s : State) (c gang uid : Nat) : Bool :=
  let k := s.core c
  k.ladle.any (fun q => q.by_.gang == gang && (namesGang q.ta || (q.opc != 0xD6 && namesGang q.tb) || q.opc == 0xD2 || q.opc == 0xD3 ||
    (q.bm && tspace (if q.opc = 0xD6 then q.ta else q.tb) != 0))) ||
  k.mx.any (fun q => q.by_.gang == gang && q.by_.uid != uid && q.opc != 0xDA && (namesGang q.ta || namesGang q.tb)) ||
  (k.col.intake ++ k.col.live).any (fun q => q.by_.gang == gang && (q.ranges s c) != []) || k.stamps.any (fun p => p.by_.gang == gang)

/-- The last resident wave of its gang, which is saved with the gang record. -/
def lastOfGang (s : State) (c w gang : Nat) : Bool :=
  match s.gang? c gang with | some g => g.members == [w] | none => false

/-- The save of a wave may be written: it has quiesced, and no engine uses what its gang record holds (14 R324, R329). -/
def saveReady (s : State) (c w : Nat) : Bool :=
  match s.slot? c w with
  | none => false
  | some t => (t.drain.bind Drain.addr).isSome && quiesced s c w t && !(lastOfGang s c w t.wave.gang && gangBusy s c t.wave.gang t.wave.uid)

/-- The wave whose record its quarter writes next: of those that are ready, the lowest slot (14 R326). -/
def saveNext (s : State) (c w : Nat) : Bool :=
  saveReady s c w && (List.range w).all (fun i => quarterOf i != quarterOf w || !saveReady s c i)

/-- The save of the wave in a slot. -/
def saveSlot (s : State) (c w : Nat) (grec : Bool) : Res :=
  match s.slot? c w with
  | none => .fault .notEnabled
  | some t =>
    match t.drain with
    | none => .fault .notEnabled
    | some d =>
      match d.addr with
      | none => .fault .notEnabled
      | some a =>
        if saveNext s c w && lastOfGang s c w t.wave.gang == grec then .next (saveWave s c w t d a grec) else .fault .notEnabled

/-- WAVE_QUIESCE (14 R324): a wave that is not the last resident one of its gang. -/
def execWaveQuiesce (core wave : Nat) (s : State) : Res := saveSlot s core wave false

/-- GANG_RECORD_SAVE (14 R329): the save of a gang's last resident wave, with the gang record. -/
def execGangRecordSave (core gang : Nat) (s : State) : Res :=
  match (s.gang? core gang).map Gang.members with
  | some [w] => saveSlot s core w true
  | _ => .fault .notEnabled

/-! ## Restoring -/

/-- A header field. -/
def hdrNat (s : State) (a o n : Nat) : Nat := leNat (s.bytesAt (a + o) n)

/-- The header is legal (14 R327). -/
def headerOk (s : State) (a : Nat) : Bool :=
  let b (o : Nat) : Nat := hdrNat s a o 1
  hdrNat s a 0 4 == 1 && decide (b 0x17 ≤ 1) && decide (b 0x16 ≤ 64) && decide (b 0x15 ≤ 64) && decide (b 0x14 ≤ 16) &&
  decide (1 ≤ b 8 ∧ b 8 ≤ 128) && decide (1 ≤ b 9 ∧ b 9 ≤ 8) && decide (b 10 ≤ 16) && decide (b 11 ≤ 32) &&
  (List.range 32).all (fun k => if k < b 11 then decide (b (0xA0 + k) < 32) else b (0xA0 + k) == 0xFF)

/-- The layout of the record at a. -/
def mapAt (s : State) (a : Nat) : RecMap :=
  let b (o : Nat) : Nat := hdrNat s a o 1
  recMap (b 0x15) (b 0x16) (b 8) (b 9) (b 10) (b 11)

/-- n 32-bit words at an address, as a sparse file. -/
def wordTab (s : State) (a n : Nat) : Tab W32 :=
  (List.range n).foldl (fun t i =>
    let w : W32 := BitVec.ofNat 32 (leNat (s.bytesAt (a + 4 * i) 4))
    if w = 0 then t else t ++ [(i, w)]) []

/-- The registers of a record; poison marks stay those of the save (14 R330). -/
def loadRegs (s : State) (a : Nat) (m : RecMap) (old : Regs) : Regs :=
  let b (o : Nat) : Nat := hdrNat s a o 1
  { old with
    vec := wordTab s (a + m.vec) (512 * b 8), uni := wordTab s (a + m.uni) (32 * b 9),
    pred := (wordTab s (a + m.pred) 15),
    tile := (List.range (b 10)).foldl (fun (t : Tab W256) i =>
      let w : W256 := BitVec.ofNat 256 (hdrNat s a (m.tile + 32 * i) 32)
      if w = 0 then t else t ++ [(i, w)]) [] }

/-- The hold that a changed lane entry names. -/
def holdOf (v : Wave) (b : List Byte) : List Hold :=
  let hv := recNat b 16 8
  match bits (recNat b 8 4) 7 4 with
  | 1 => [.waitf (BitVec.ofNat 12 hv)]
  | 2 => [.sleep (BitVec.ofNat 64 hv)]
  | 3 => [.waitchk (BitVec.ofNat 32 hv) (BitVec.ofNat 32 (hv / 2 ^ 32))]
  | 4 => [.waitmx (BitVec.ofNat 32 hv)]
  | 5 => [.yield]
  | 6 => match v.ops.find? (fun o => o.opc == 0x16 && o.n % 16 == hv % 16 && o.m == hv / 2 ^ 32) with
    | some o => [.barwait o.id]
    | none => []
  | 9 => [.halted]
  | _ => []

/-- The lanes of a record: an entry unchanged since the save gives the lane as it was saved (14 R330). -/
def loadLanes (s : State) (a : Nat) (v : Wave) : List Lane :=
  let ex := hdrNat s a 0x10 4
  (v.lanes.zipIdx).map (fun x =>
    let b := s.bytesAt (a + 0x100 + 160 * x.2) 160
    if b = laneBytes v x.2 x.1 then
      { x.1 with exited := ex.testBit x.2, holds := x.1.holds.filter (fun h => match h with | .fetch _ => false | .refused => false | _ => true) }
    else { laneOf b (ex.testBit x.2) with holds := holdOf v b })

/-- The wave of a record over what the machine still knows of it (14 R330). [log 109: DEDUCED, unsafe] -/
def loadWave (s : State) (a : Nat) (m : RecMap) (v : Wave) : Wave :=
  let b (o : Nat) : Nat := hdrNat s a o 1
  let w32 (o : Nat) : W32 := BitVec.ofNat 32 (hdrNat s a o 4)
  { v with
    vgran := b 8, sgran := b 9, tregs := b 10, aregs := b 11, regs := loadRegs s a m v.regs,
    zmap := (List.range (b 11)).map (fun k => b (0xA0 + k)), lanes := loadLanes s a v,
    flags := (List.range 12).map (fun n => hdrNat s a (0x30 + 4 * n) 4), wstat := w32 0xC &&& 0x010001FF,
    rsbase := BitVec.ofNat 64 (hdrNat s a 0x20 8), spilled := hdrNat s a 0x18 4,
    stack := ((List.range (b 0x14)).map (fun i => RsEntry.ofBytes (s.bytesAt (a + 0x1500 + 16 * i) 16))).reverse,
    bars := (v.bars.zipIdx).map (fun x =>
      let n := hdrNat s a (0x1600 + 8 * x.2) 4
      { x.1 with owes := n.testBit 0, holds := n.testBit 1, arph := w32 (0x1604 + 8 * x.2) }),
    lstat := { err := w32 0x60, errseq := w32 0x64, nerr := w32 0x68, issued := w32 0x6C, done := w32 0x70, dkidx := w32 0x74,
               dkcnt := w32 0x78, exc := w32 0x7C } }

/-- A ring of a gang record over the ring as it was saved. -/
def loadRing (b : List Byte) (r : Ring) : Ring :=
  let w (o : Nat) : W32 := BitVec.ofNat 32 (recNat b o 4)
  let st := recNat b 16 16
  { r with filln := w 0, drainn := w 4, consn := w 8, d := recNat b 12 4,
           stages := (List.range r.maxst).map (fun i => match st / 4 ^ i % 4 with
             | 0 => .empty | 1 => .filling | 2 => .full | _ => .draining) }

/-- Bytes as sparse cells from address 0. -/
def bytesCells (b : List Byte) : List Host.Cell :=
  (b.zipIdx).foldl (fun t x => if x.1 = 0 then t else t ++ [(x.2, x.1)]) []

/-- The gang of a gang record at an address over the gang as it was saved (14 R329, R330). -/
def loadGang (s : State) (a : Nat) (g : Gang) : Gang :=
  let n (o k : Nat) : Nat := hdrNat s a o k
  { g with
    args := BitVec.ofNat 64 (n 0x10 8),
    bars := (g.bars.zipIdx).map (fun x =>
      { x.1 with ph := BitVec.ofNat 32 (n (0x20 + 16 * x.2) 4), e := n (0x24 + 16 * x.2) 4, a := n (0x28 + 16 * x.2) 4 }),
    rings := (g.rings.zipIdx).map (fun x => loadRing (s.bytesAt (a + 0x120 + 32 * x.2) 32) x.1),
    spBase := BitVec.ofNat 64 (n 0x220 8), spN := n 0x228 4, stBase := BitVec.ofNat 64 (n 0x22C 8), stN := n 0x234 4,
    stCount := BitVec.ofNat 32 (n 0x238 4), g := bytesCells (s.bytesAt (a + 0x400) (1024 * g.launch.gkib)) }

/-- The X bytes of a gang's rings come back from its record (14 R330). -/
def loadRingsX (s : State) (c a : Nat) (l : Launch) : State :=
  (l.rings.foldl (fun (r : State × Nat) d =>
    let n := d.stageb * d.maxst
    (r.1.modCore c (fun k => { k with x := memPuts k.x d.xoff (s.bytesAt (a + r.2) n) }), r.2 + n))
    (s, 0x400 + 1024 * l.gkib)).1

/-- A wave that the machine does not know, of a resident gang. [log 110: DESIGN CHOICE, unsafe] -/
def forgedWave (s : State) (c w : Nat) (g : Gang) : Wave :=
  newWave s c w g [] { pc := 0, level := .u, check := .none, s0 := 0, s2 := 0, s3 := 0, owes := false }

/-- What stands behind a record: the save at its address, or one of its wave. -/
def behindRecord (s : State) (a c w gang : Nat) : Option Saved :=
  match s.sched.saved.find? (fun p => p.addr == a) with
  | some p => some p
  | none => s.sched.saved.find? (fun p => p.core == c && p.slot == w && p.wave.gang == gang)

/-- The gang behind a gang record: the one saved from its core under its number, or one with its argument record and its sizes. -/
def behindGang (s : State) (c gi ga : Nat) : Option SavedGang :=
  match s.sched.savedGangs.find? (fun g => g.core == c && g.gang.id == gi) with
  | some g => some g
  | none => s.sched.savedGangs.find? (fun g =>
    g.gang.args == BitVec.ofNat 64 (hdrNat s ga 0x10 8) && g.gang.launch.gkib == hdrNat s ga 8 2 && g.gang.rings.length == hdrNat s ga 6 1)

/-- A gang that the machine does not know, from its record alone, which gives neither its queue nor the places and sizes of its rings;
its members come with their own records. -/
def forgedGang (s : State) (a c gi ga : Nat) : Gang :=
  let b (o : Nat) : Nat := hdrNat s a o 1
  let n := hdrNat s ga 6 1
  let l : Launch := { (default : Launch) with
    vgran := b 8, sgran := b 9, tregs := b 10, aregs := b 11, gkib := hdrNat s ga 8 2, winit := hdrNat s ga 4 1,
    rings := List.replicate n { xoff := 0, stageb := 0, minst := 0, maxst := 0 } }
  { (default : Gang) with
    id := gi, vf := ((s.core c).vf).getD 0, launch := l, bars := List.replicate 16 { ph := 0, e := 0, a := 0, held := [] },
    rings := l.rings.map RingDecl.start, level0 := l.winit }

/-- The ticket of a request a log entry names by its SEQ: with ANSW clear the one still open, else a new one, with the answer that ANSW
and REFUSED show; the stage of a refusal is the known one's, or 1 (14 R330). -/
def seqTicket (s : State) (f : Nat) (q : W32) (answered refused : Bool) : State × Nat :=
  match s.reqs.find? (fun r => r.vf == f && r.written && r.seq == q && (s.answers.get? r.ticket).isNone), answered with
  | some r, false => (s, r.ticket)
  | _, false => ({ s with nextTicket := s.nextTicket + 1 }, s.nextTicket)
  | _, true =>
    let stage := (s.answers.findSome? (fun a => match a.2 with | .refuse g n => if n = q then some g else none | .retry _ => none)).getD 1
    ({ s with nextTicket := s.nextTicket + 1,
              answers := s.answers.ins s.nextTicket (if refused then .refuse stage q else .retry q) }, s.nextTicket)

/-- The flag of something restored from a record, which does not name it: the lowest whose count is above what is attached to it.
 -/
def spareFlag (v : Wave) (used : List (Option Nat)) : Option Nat :=
  (List.range 12).find? (fun n => decide (used.count (some n) < v.flags.getD n 0))

/-- The tickets of a log entry's requests. -/
def entryReqs (s : State) (f : Nat) (b : List Byte) : State × List Nat :=
  (List.range (min 32 (recNat b 28 4))).foldl (fun (r : State × List Nat) i =>
    let (s, t) := seqTicket r.1 f (BitVec.ofNat 32 (recNat b (32 + 4 * i) 4)) ((recNat b 20 4).testBit i) ((recNat b 24 4).testBit i)
    (s, r.2 ++ [t])) (s, [])

/-- The lanes of a log entry's mask. -/
def entryMask (b : List Byte) : List Nat := (List.range 32).filter (fun i => (recNat b 16 4).testBit i)

/-- The lanes of an access from its log entry: an access of the shared space waits on the requests, a local one may be performed. -/
def entryLanes (o : Op) (b : List Byte) (ts : List Nat) : List LaneOp :=
  let local_ := (localBuf o.opc o.f).isSome
  (entryMask b).map (fun i =>
    { lane := i, va := BitVec.ofNat 64 (recNat b (256 + 8 * i) 8),
      src := BitVec.ofNat 128 (recNat b (512 + 16 * i) (if isAtomic o.opc then 8 else 16)),
      src2 := if isAtomic o.opc then BitVec.ofNat 64 (recNat b (520 + 16 * i) 8) else 0, tgt := .none,
      st := if local_ then .ready else .logged ts, past := if local_ then .fresh else .logged })

/-- TEX or TEXG from a log entry: the descriptor in the wave's tile register, the coordinates among the sources; every texel is read
again (12 R293, R294; 14 R330). -/
def entryTexels (s : State) (v : Wave) (o : Op) (b : List Byte) (ts : List Nat) : State × Op :=
  let t : W256 := match o.f.a with | .tile n => Tab.get 0 v.regs.tile n.toNat | _ => 0
  let co (i : Nat) : W128 := BitVec.ofNat 128 (recNat b (512 + 16 * i) 16)
  let o := { o with m := Config.unstated 0xE1 t.toNat s.free, bytes := texKeep t co }
  ({ s with free := s.free + 1 },
   { o with lanes := (entryMask b).flatMap (fun i =>
      match tapReads (o.taps i) with
      | [] => [{ lane := texLane i 31, va := 0, src := 0, src2 := 0, tgt := .none, st := .known }]
      | as => as.zipIdx.map (fun a =>
          { lane := texLane i a.2, va := a.1, src := 0, src2 := 0, tgt := .none, st := .logged ts, past := .logged })) })

/-- A restored wave's command as its issuer: what the record does not hold is filled in. -/
def entryIssuer (v : Wave) (w : Nat) (fl : Option Nat) (lane : Nat) : Issuer :=
  { uid := v.uid, wave := w, after := v.nextOp, lane := lane, gang := v.gang, vf := v.vf, world := v.world,
    level := ((v.lanes[0]?).getD default).level, spo := 0, off := 0, flag := fl, priv := v.priv }

/-- BEAMQ or RAYQ from a log entry that no query in the intake queue stands behind: a new query, with the ray count among the sources
(11 R270, R271; 14 R330). -/
def entryQuery (s : State) (c w : Nat) (v : Wave) (o : Op) : State × Op :=
  match o.lanes with
  | [] => (s, o)
  | l :: _ =>
    let qid := (s.core c).col.nextQid
    let q : Query :=
      { qid := qid, ord := (s.core c).nextOrd, by_ := entryIssuer v w o.flag l.lane, opc := o.opc, f := o.f, addr := l.va, qrec := [],
        beam := [], rays := l.src.toNat, acquired := false, code := 0, poison := false, degr := 0, recs := [], best := [], failed := [],
        waits := [] }
    (s.modCore c (fun k => { k with
       nextOrd := k.nextOrd + 1, col := { k.col with intake := k.col.intake ++ [q], nextQid := k.col.nextQid + 1 } }),
     { o with n := qid.toNat, flag := none })

/-- The operation of a log entry whose word stood behind another of its wave, or behind none; none where the word is no access. Its block
and the levels of its lanes are not in the entry (14 R328, R330). -/
def entryOp (s : State) (c w : Nat) (v : Wave) (id : Nat) (fl : Option Nat) (old : Option Op) (b : List Byte) : State × Option Op :=
  let x : W128 := BitVec.ofNat 128 (recNat b 0 16)
  match unpack x with
  | none => (s, none)
  | some f =>
    let opc := Sys2Proof.opOf x
    let (s, ts) := entryReqs s v.vf b
    let fresh : Op :=
      { id := id, opc := opc, f := f, off := 0, spo := 0, level := ((v.lanes[0]?).getD default).level,
        flag := if raisesFlag opc f then fl else none, wake := none, lanes := [], log := .entry, released := false, writes := [], exc := 0,
        n := 0, m := 0, bytes := [] }
    let known := old.filter (fun o => o.opc == opc)
    let o : Op := { (known.getD fresh) with f := f }
    let o := { o with lanes := entryLanes o b ts }
    if o.lanes = [] ∨ (isShared o = false ∧ (localBuf opc f).isNone = true) then (s, none)
    else if opc = 0xE0 ∨ opc = 0xE1 then
      let (s, o) := entryTexels s v o b ts
      (s, some o)
    else if (opc = 0xE8 ∨ opc = 0xE9) ∧ known.isNone = true then
      let (s, o) := entryQuery s c w v o
      (s, some o)
    else (s, some o)

/-- The operations of a restored wave: an entry unchanged since the save gives the operation as it was saved (14 R330). -/
def loadOps (s : State) (c w a : Nat) (m : RecMap) (p : Option Saved) (v : Wave) : State × Wave :=
  let olds : List (Op × List (Nat × W32)) := (p.map Saved.logged).getD []
  let rest := v.ops.filter (fun o => !olds.any (fun x => x.1.id == o.id))
  let (s, os) := (List.range (hdrNat s a 0x16 1)).foldl (fun (r : State × List Op) k =>
    let b := r.1.bytesAt (a + m.log + 1024 * k) 1024
    match olds[k]? with
    | some (o, rs) =>
      if logBytes r.1 o rs = b then (r.1, r.2 ++ [o])
      else
        let (s, n) := entryOp r.1 c w v o.id o.flag (some o) b
        (s, r.2 ++ n.toList)
    | none =>
      let (s, n) := entryOp r.1 c w v (v.nextOp + k) (spareFlag v ((rest ++ r.2).flatMap (fun o => [o.flag, o.wake]))) none b
      (s, r.2 ++ n.toList)) (s, [])
  (s, { v with ops := (rest ++ os).mergeSort (fun x y => decide (x.id ≤ y.id)), nextOp := v.nextOp + 64 })

/-- A log entry is a spill's or a refill's: its word is zero. -/
def isSpillEntry (b : List Byte) : Bool := recNat b 0 16 == 0

/-- The spills and the refill of a restored wave: an entry unchanged since the save gives what was saved; else a place below RSSPILL is a
spill's, and RSSPILL itself the refill's (07 R159; 14 R330). -/
def loadSpills (s : State) (a : Nat) (m : RecMap) (p : Option Saved) (v : Wave) : State × Wave :=
  (List.range (hdrNat s a 0x16 1)).foldl (fun (r : State × Wave) k =>
    let b := r.1.bytesAt (a + m.log + 1024 * k) 1024
    if isSpillEntry b = false then r
    else
      match p.bind (fun p => p.spillReqs.find? (fun x => spillBytes r.1 p.wave x.1 x.2 == b)), p with
      | some x, some p =>
        if x.1 = 65536 then (r.1, { r.2 with refill := p.wave.refill })
        else (r.1, { r.2 with spillLog := r.2.spillLog ++ p.wave.spillLog.filter (fun e => e.idx == x.1) })
      | _, _ =>
        let (s, ts) := entryReqs r.1 v.vf b
        let i := (recNat b 256 8 - v.rsbase.toNat) / 16
        if v.spilled ≤ i then
          (s, { r.2 with refill := some { tickets := ts, freed := BitVec.ofNat 32 (recNat b 512 4), from_ := v.spilled, log := .entry } })
        else
          (s, { r.2 with spillLog := r.2.spillLog ++
                  [{ idx := i, entry := RsEntry.ofBytes ((b.drop 512).take 16), tickets := ts, log := .entry }] }))
    (s, { v with spillLog := [], refill := (v.refill.filter (fun r => r.log == .none)) })

/-- An MXE command from its image; it makes its checks of acceptance anew and goes on from its `%mxprog` (14 R328, R330).
 -/
def imageCmd (w : Nat) (v : Wave) (g : Gang) (fl : Option Nat) (b : List Byte) : Option MCmd :=
  let x : W128 := BitVec.ofNat 128 (recNat b 0 16)
  (unpack x).map (fun f =>
    let opc := Sys2Proof.opOf x
    let param : W32 := BitVec.ofNat 32 (recNat b 16 4)
    let st := recNat b 28 4
    let first := if opc = 0xD9 then bits param.toNat 29 25 else match f.c with | .uni n => (Tab.get (0 : W32) v.regs.uni n.toNat).toNat | _ => f.imm.toNat
    { id := 0, ord := 0,
      by_ := entryIssuer v w fl 0,
      opc := opc, ordinal := BitVec.ofNat 32 (recNat b 24 4), f := f, ta := BitVec.ofNat 256 (recNat b 32 32),
      tb := BitVec.ofNat 256 (recNat b 64 32), param := param, acc := first, cnt := f.imm.toNat, recA := [], recB := [],
      acquired := false, checked := decide (st ≠ 0), accepted := decide (st ≠ 0), started := false, prog := recNat b 20 4, status := st,
      exc := 0, spilled := false, zs := v.zmap.drop first, waits := [], stA := [], stB := [], tAcc := 0, tIn := 0, tDone := 0, wait := 0,
      comp := 0, leftA := 0, leftB := 0, wsince := none,
      team := g.team.map (fun t => (recNat b 96 4, recNat b 100 4, t.2.2)), teamSeq := g.teamN })

/-- The MXE commands of a record: an image unchanged since the save gives the command as it was saved; those that stayed in the gang's
spill ring follow (10 R243; 14 R330). -/
def loadMx (s : State) (a w : Nat) (p : Option Saved) (v : Wave) (g : Gang) : List MCmd :=
  let flags (qs : List MCmd) : List (Option Nat) := v.ops.flatMap (fun o => [o.flag, o.wake]) ++ qs.map (fun q => q.by_.flag)
  (List.range (hdrNat s a 0x15 1)).foldl (fun (qs : List MCmd) k =>
    let b := s.bytesAt (a + 0x1700 + 128 * k) 128
    match ((p.map Saved.images).getD [])[k]? with
    | some q => if mxImage q = b then qs ++ [q] else qs ++ (imageCmd w v g q.by_.flag b).toList
    | none => qs ++ (imageCmd w v g (spareFlag v (flags qs)) b).toList) [] ++ ((p.map Saved.mx).getD []).drop 64

/-- Room for a restored wave: its slot, its granules and its Z slots (14 R330). -/
def restoreRoom (s : State) (c w vgran : Nat) (zs : List Nat) (uid : Nat) : Bool :=
  let k := s.core c
  decide (c < 512) && decide (w < 64) && (s.slot? c w).isNone &&
  decide (((k.occ.filter (fun p => quarterOf p.1 == quarterOf w)).foldl (fun n p => n + p.2) 0) + vgran ≤ 128) &&
  zs.all (fun z => !(k.waves.flatMap (fun p => p.2.zmap)).contains z && !k.zkeep.any (fun p => p.1 == z && p.2 != uid)) &&
  decide (zs.dedup.length = zs.length)

/-- Z takes the accumulators of a record back (14 R330). -/
def loadAcc (s : State) (c a : Nat) (m : RecMap) (zs : List Nat) (uid : Nat) (pois : List Nat) : State :=
  let s := s.modCore c (fun k => { zClear k zs with zkeep := k.zkeep.filter (fun p => p.2 != uid) })
  (zs.zipIdx).foldl (fun s z =>
    s.modCore c (fun k => { k with
      z := (wordTab s (a + m.acc + 16384 * z.2) 4096).foldl (fun t e => Tab.ins t (4096 * z.1 + e.1) e.2) k.z,
      zpois := k.zpois ++ (pois.filter (fun i => i / 4096 == z.2)).map (fun i => 4096 * z.1 + i % 4096) })) s

/-- MXE commands re-enter their core's queue in order, as far as it has room (10 R243; 14 R330). -/
def requeueMx (s : State) (c : Nat) (qs : List MCmd) : State :=
  qs.foldl (fun s q =>
    s.modCore c (fun k => { k with
      mx := k.mx ++ [{ q with id := if q.id = 0 ∨ k.mx.any (fun p => p.id == q.id) then k.nextCmd else q.id, ord := k.nextOrd,
                              spilled := decide (64 ≤ (k.mx.filter (fun m => !m.spilled)).length) }],
      nextOrd := k.nextOrd + 1, nextCmd := k.nextCmd + 1 })) s

/-- The gang of a record, which becomes resident (14 R330). -/
def restoreGang (s : State) (a c gi ga : Nat) : State :=
  let sg := behindGang s c gi ga
  let g := { loadGang s ga ((sg.map SavedGang.gang).getD (forgedGang s a c gi ga)) with id := gi }
  let s := loadRingsX (s.modCore c (fun k => { k with gangs := k.gangs.ins gi g })) c ga g.launch
  { s with sched := { s.sched with savedGangs := s.sched.savedGangs.filter (fun x => some x != sg) } }

/-- A gang's X ranges and G meet nothing of the core's (14 R330). -/
def gangRoom (s : State) (c : Nat) (l : Launch) : Bool :=
  !(s.core c).gangs.any (fun x => x.2.launch.rings.any (fun r => l.rings.any (fun y => r.meets y))) &&
  decide ((s.core c).gUsed + l.gkib ≤ 256)

/-- The wave of a record becomes resident in its slot (14 R330). -/
def restoreWave (s : State) (a c w gi : Nat) (m : RecMap) (g : Gang) (p : Option Saved) (size : Nat) : State :=
  let zs := (List.range (hdrNat s a 11 1)).map (fun k => hdrNat s a (0xA0 + k) 1)
  let uid := match p with | some p => p.wave.uid | none => s.nextUid
  let base := match p with | some p => p.wave | none => forgedWave s c w g
  let v := { loadWave s a m base with uid := uid, gang := gi }
  let (s, v) := loadOps s c w a m p v
  let (s, v) := loadSpills s a m p v
  let qs := loadMx s a w p v g
  let s := { s with nextUid := if p.isNone then s.nextUid + 1 else s.nextUid }
  let s := loadAcc s c a m zs uid ((p.map Saved.accPois).getD [])
  let t : Slot := { wave := v, drain := none, parked := false, stopping := false, watches := [] }
  let s := s.modCore c (fun k => { k with slots := k.slots.ins w t })
  let s := s.modGang c gi (fun g => { g with
    members := setIns g.members w, savedMembers := g.savedMembers.filter (· != uid) })
  let s := requeueMx s c qs
  match p with
  | none => s
  | some p =>
    let s := freePool s p size
    { s with sched := { s.sched with saved := s.sched.saved.filter (fun q => q.wave.uid != uid) } }

/-- A restore (14 R330, R332): the state and its status. -/
def restoreRecord (s : State) (a : Nat) : State × Nat :=
  if a % 4096 ≠ 0 ∨ hostFrames s a 0x1700 = false ∨ headerOk s a = false then (s, 2)
  else
    let m := mapAt s a
    let c := hdrNat s a 4 2
    let w := hdrNat s a 6 1
    let gi := hdrNat s a 7 1
    let grec := hdrNat s a 0x17 1 == 1
    let p := behindRecord s a c w gi
    let live := s.gang? c gi
    let zs := (List.range (hdrNat s a 11 1)).map (fun k => hdrNat s a (0xA0 + k) 1)
    let uid := match p with | some p => p.wave.uid | none => s.nextUid
    let ga := a + alignUp m.stop 4096
    let l := match behindGang s c gi ga with | some g => g.gang.launch | none => (forgedGang s a c gi ga).launch
    let size := alignUp m.stop 4096 + (if grec then l.recSize else 0)
    if hostFrames s a m.stop = false ∨ (grec = true ∧ hostFrames s a size = false) then (s, 2)
    else if live.isNone ∧ grec = false then (s, 4)
    else if restoreRoom s c w (hdrNat s a 8 1) zs uid = false then (s, 3)
    else if live.isNone ∧ gangRoom s c l = false then (s, 3)
    else
      let s := if live.isNone then restoreGang s a c gi ga else s
      match s.gang? c gi with
      | none => (s, 3)
      | some g => (restoreWave s a c w gi m g p size, 0)

/-! ## Requests -/

/-- The largest record a save of a wave may need, with its gang's (14 R327, R329). -/
def largestRecord (s : State) (c : Nat) (v : Wave) : Nat :=
  alignUp (recMap 64 64 v.vgran v.sgran v.tregs v.aregs).stop 4096 +
    (match s.gang? c v.gang with | some g => g.launch.recSize | none => 0)

/-- Makes a pre-emption request for a wave (14 R323); a parked wave is no longer parked (17 R377). -/
def requestSave (s : State) (c w : Nat) (d : Drain) : State :=
  s.modSlot c w (fun t => { t with drain := some { d with parked := t.parked }, parked := false })

/-- The first run of n free frames of the save pool. [log 112: DESIGN CHOICE, unsafe] -/
def poolRoom (s : State) (n : Nat) : Option Nat :=
  match s.sched.pool with
  | none => none
  | some (base, count) =>
    ((List.range (count + 1 - n)).map (base / 65536 + ·)).find? (fun f =>
      (List.range n).all (fun i => !s.sched.poolUsed.contains (f + i)))

/-- A request of the Sieve with a record from the save pool (15 R348); none where the pool has no room. -/
def poolRequest (s : State) (c w : Nat) (t : Slot) (reason q : Nat) : Option State :=
  let n := (largestRecord s c t.wave + 65535) / 65536
  (poolRoom s n).map (fun f =>
    let s := { s with sched := { s.sched with poolUsed := s.sched.poolUsed ++ (List.range n).map (f + ·) } }
    requestSave s c w { addr := some (65536 * f), req := none, reason := reason, q := q })

/-- Cores of a cluster hold undealt records of a card; those of a placed card are at home there (01 R34, R35). -/
def clusterHolds (s : State) (q : Nat) (k : Card) (cl : Nat) : Bool :=
  (List.range 4).any (fun i => (s.core (4 * cl + i)).held.any (fun h => h.q == q && h.seq == k.seq && h.recs != []))

/-- A cluster still has undealt or held records of a card (15 R348). -/
def clusterHas (s : State) (q : Nat) (k : Card) (l : Launch) (cl : Nat) : Bool :=
  poolHas s q k l (4 * cl) || clusterHolds s q k cl

/-- Clusters a card needs under a deadline: those of NEED that its owner holds, or the default where there is none (15 R337, R348). -/
def neededClusters (s : State) (q : Nat) (k : Card) (l : Launch) : List Nat :=
  let t := s.queue q
  let cs := s.clustersOf t.owner
  let need := cs.filter (fun c => t.need.getLsbD c)
  if need ≠ [] then need
  else if l.coord = 0xFFFF then cs
  else cs.filter (fun c => (cardHomes s q k l).2.any (fun h => h.2 == some c) || clusterHolds s q k c)

/-- A core without some of its waves. -/
def Core.without (k : Core) (ws : List Nat) : Core := { k with slots := k.slots.filter (fun p => !ws.contains p.1) }

/-- The class-3 waves a deadline takes from a core: the fewest, from the highest number down, whose going lets one unit start; none
where no number of them does (15 R348). [log 150: DESIGN CHOICE, unsafe] -/
def deadlineWaves (k : Core) (l : Launch) : List Nat :=
  let ws := ((k.waves.filter (fun p => p.2.cls == 3)).map Prod.fst).reverse
  match ((List.range (ws.length + 1)).find? (fun n => canStart (k.without (ws.take n)) l)) with
  | some n => ws.take n
  | none => []

/-- The waves of a core that an open window has still to ask for: what is left of its request, or a new one; waves that have gone, or that
a save was asked of, are left out (15 R348). -/
def windowTodo (s : State) (q c : Nat) (l : Launch) : List Nat :=
  (match s.sched.asked.find? (fun (a : Nat × Nat × List Nat) => a.1 == q && a.2.1 == c) with
   | some a => a.2.2
   | none => deadlineWaves (s.core c) l).filter (fun w =>
    match s.slot? c w with | some t => t.wave.cls == 3 && t.drain.isNone | none => false)

/-- An open window asked for wave w of a core: the rest follows, and no new request until a unit of its card has started there
(15 R348). -/
def noteAsked (s : State) (q c w : Nat) (l : Launch) : State :=
  { s with sched := { s.sched with
      asked := (q, c, (windowTodo s q c l).filter (· != w)) :: s.sched.asked.filter (fun (a : Nat × Nat × List Nat) => !(a.1 == q && a.2.1 == c)) } }

/-- An open window asks for wave w of core c next: the queue that asks, and its card's launch (15 R348). -/
def windowAsks (s : State) (c w : Nat) : Option (Nat × Launch) :=
  s.sched.windows.findSome? (fun q =>
    ((windowCard s q).bind (fun n => s.card? q n)).bind (fun k => k.launch.bind (fun l =>
      if serves s c (s.queue q).owner && (neededClusters s q k l).contains (clusterOf c) && clusterHas s q k l (clusterOf c) &&
         (windowTodo s q c l).head? == some w then some (q, l) else none)))

/-- A switch of time slices asks for wave w of core c (16 R373). -/
def sliceAsks (s : State) (c w : Nat) : Bool :=
  match s.sched.slice, s.slot? c w with
  | some t, some x => t.switching && t.todo.contains c && (s.core c).vf == some x.wave.vf
  | _, _ => false

/-- PREEMPT_REQUEST (14 R323; 15 R348; 16 R373): the Sieve's request for a wave. A window's request that finds no room in the pool is
only counted. -/
def execPreemptRequest (core wave : Nat) (s : State) : Res :=
  match s.slot? core wave with
  | none => .fault .notEnabled
  | some t =>
    if t.drain.isSome then .fault .notEnabled
    else if sliceAsks s core wave then
      match poolRequest s core wave t 2 0 with
      | some s => .next s
      | none => .fault .notEnabled
    else
      match windowAsks s core wave with
      | none => .fault .notEnabled
      | some (q, l) =>
        match poolRequest (noteAsked s q core wave l) core wave t 1 q with
        | some s => .next s
        | none => .next (elog (sieveCount s 0) 7 t.wave.vf 0 core 0 0)

/-- The saved waves of the Sieve that are next to be restored: the first deadline save, and the first of each function's slice
(15 R348; 16 R373). -/
def nextRestores (s : State) : List Saved :=
  ((s.sched.saved.filter (fun p => p.reason == 1)).take 1) ++
  (match s.sched.slice with
   | none => []
   | some t =>
     let f := if t.on then t.vf else 0
     if t.switching then [] else (s.sched.saved.filter (fun p => p.reason == 2 && p.wave.vf == f)).take 1)

/-- The Sieve restores a saved wave of its pool (15 R348; 16 R373). -/
def restoreMove (s : State) (uid : Nat) : Res :=
  match (nextRestores s).find? (fun p => p.wave.uid == uid) with
  | none => .fault .notEnabled
  | some p =>
    if serves s p.core p.wave.vf = false then .fault .notEnabled
    else
      match restoreRecord s p.addr with
      | (s, 0) => .next s
      | _ => .fault .notEnabled

end Sys2Proof.Machine
end

