-- ==== Sys2Proof/Machine/Priv.lean ====
section
/-! DEFINITION. The privileged words: special registers, context save and restore, TLB invalidation, frame owners, watchpoints
and queues (14 R320 to R322, R331 to R336; 16 R366, R369). -/

namespace Sys2Proof.Machine

/-! ## Special registers -/

/-- The records' words of R320 in a lane: TRC, TRSPO, TRRES, TRAUX, TRAUX2 by number. -/
def TrapRec.reg (t : TrapRec) (n : Nat) : W64 :=
  match n with
  | 0 => t.cause.setWidth 64
  | 1 => t.spo.setWidth 64
  | 2 => t.res
  | 3 => t.aux
  | _ => t.aux2.setWidth 64

/-- A special register of the issuing wave, as lane l reads it (14 R320). [log 19: DEDUCED, unsafe] -/
def privReg (s : State) (x : Ctx) (n l : Nat) : W64 :=
  let y := (x.wv.lanes[l]?).getD default
  let f := s.func x.wv.vf
  if n ≤ 4 then y.trg.reg n
  else if n = 5 then BitVec.ofNat 64 y.level.code
  else if n = 6 then x.wstat.setWidth 64
  else if n = 7 then x.wv.rsbase
  else if n = 8 then f.tvecg
  else if n = 9 then f.troute.setWidth 64
  else if n = 10 then y.trg.k0.setWidth 64
  else if n = 11 then y.trg.k1.setWidth 64
  else if n = 12 then y.trg.k2.setWidth 64
  else if n = 13 then y.trg.k3.setWidth 64
  else if n = 14 then y.trg.kp.setWidth 64
  else if n = 15 then f.rspool
  else if n ≤ 20 then y.trh.reg (n - 16)
  else s.tvech

/-- PSRN whose reads need H, and whose writes do (14 R320). -/
def psrReadH (n : Nat) : Bool := decide (16 ≤ n)
/-- See psrReadH. -/
def psrWriteH (n : Nat) : Bool := n == 8 || n == 9 || decide (16 ≤ n)

/-- PSRD (14 R320, R322). -/
def execPsrd (f : Fields) (s : State) : Res :=
  issueWord 0xF5 f s (fun x s =>
    let n := f.m 0 8
    if psrReadH n && x.g.level != .h then privTrap s x 0xF5
    else writeEnd x f ((x.destLanes f).flatMap (fun l =>
      let v := privReg s x n l
      if psr64 n then wr64 f.dst l v else wr32 f.dst l (v.setWidth 32))) s)

/-- A record with the written bits of TRC or TRRES replaced (14 R320). -/
def TrapRec.setReg (t : TrapRec) (n : Nat) (v : W64) : TrapRec :=
  match n with
  | 0 => { t with cause := (t.cause &&& ~~~(0x40000000 : W32)) ||| (v.setWidth 32 &&& 0x40000000) }
  | 2 => { t with res := v &&& ~~~(0xF : W64) }
  | _ => t

/-- A write of a register held per wave, function or package (14 R320). -/
def privPut (s : State) (x : Ctx) (n : Nat) (v : W64) : State :=
  let vf := x.wv.vf
  match n with
  | 6 => s.modWave x.core x.wid (fun w =>
      { w with wstat := (w.wstat &&& ~~~(0x01000100 : W32)) ||| (v.setWidth 32 &&& 0x01000100) })
  | 7 => s.modWave x.core x.wid (fun w => { w with rsbase := v &&& ~~~(0xF : W64) })
  | 8 => s.modFunc vf (fun f => { f with tvecg := v &&& ~~~(0xF : W64) })
  | 9 => s.modFunc vf (fun f => { f with troute := v.setWidth 32 &&& ~~~(1 : W32) })
  | 15 => s.modFunc vf (fun f => { f with rspool := v &&& ~~~(0xFFFF : W64) })
  | 21 => { s with tvech := v &&& ~~~(0xF : W64) }
  | _ => s

/-- PSWR (14 R320, R322): per-lane registers in every active lane, the others once. -/
def execPswr (f : Fields) (s : State) : Res :=
  issueWord 0xF6 f s (fun x s =>
    let n := f.m 0 8
    if psrWriteH n && x.g.level != .h then privTrap s x 0xF6
    else
      let val (l : Nat) : W64 := if psr64 n then x.rd64 f f.a l else (x.rd f f.a l).setWidth 64
      if n = 0 ∨ n = 2 then
        (x.active f).foldl (fun s l => s.modLane x.core x.wid l (fun y => { y with trg := y.trg.setReg n (val l) })) s
      else if n = 16 ∨ n = 18 then
        (x.active f).foldl (fun s l => s.modLane x.core x.wid l (fun y => { y with trh := y.trh.setReg (n - 16) (val l) })) s
      else
        match x.active f with
        | [] => s
        | l :: _ => privPut s x n (val l))

/-! ## The words that act once -/

/-- A 32-bit operand of the leader lane as 64 bits. -/
def opn32 (o : Fields → Opnd) (f : Fields) (x : Ctx) (l : Nat) : W64 := (x.rd f (o f) l).setWidth 64

/-- CTXSV (14 R332). -/
def execCtxsv (f : Fields) (s : State) : Res := onceWord 0xF7 f s (fun x l => x.rd64 f f.a l) (opn32 Fields.b f)
/-- CTXLD (14 R332). -/
def execCtxld (f : Fields) (s : State) : Res := onceWord 0xF8 f s (fun x l => x.rd64 f f.a l) (fun _ _ => 0)
/-- TLBINV (14 R333). -/
def execTlbinv (f : Fields) (s : State) : Res := onceWord 0xF9 f s (fun x l => x.rd64 f f.a l) (opn32 Fields.b f)
/-- TLBINVA (14 R333). -/
def execTlbinva (f : Fields) (s : State) : Res := onceWord 0xFA f s (fun x l => x.rd64 f f.a l) (opn32 Fields.b f)
/-- OWNSET (14 R334; 16 R369). -/
def execOwnset (f : Fields) (s : State) : Res := onceWord 0xFB f s (fun x l => x.rd64 f f.a l) (opn32 Fields.b f)
/-- OWNGET (14 R334). -/
def execOwnget (f : Fields) (s : State) : Res := onceWord 0xFC f s (fun x l => x.rd64 f f.a l) (fun _ _ => 0)
/-- HALTQ.PAUSE (14 R336). -/
def execHaltqPause (f : Fields) (s : State) : Res := onceWord 0xFE f s (opn32 Fields.a f) (fun _ _ => 0)
/-- HALTQ.RESUME (14 R336). -/
def execHaltqResume (f : Fields) (s : State) : Res := onceWord 0xFE f s (opn32 Fields.a f) (fun _ _ => 0)
/-- HALTQ.WITHDRAW (14 R336). -/
def execHaltqWithdraw (f : Fields) (s : State) : Res := onceWord 0xFE f s (opn32 Fields.a f) (fun _ _ => 0)
/-- SCRUB (14 R334; 16 R369). -/
def execScrub (f : Fields) (s : State) : Res := onceWord 0xFF f s (fun x l => x.rd64 f f.a l) (opn32 Fields.b f)

/-! ## Invalidation -/

/-- Which translations an invalidation selects (14 R333): of one function or of all, by a virtual or a guest physical range. -/
structure TlbSel where
  vf : Option Nat
  va : Option (Nat × Nat)
  gpa : Option (Nat × Nat)
  deriving DecidableEq, Repr

/-- A range [lo, hi) meets the n bytes at a. -/
def meets (r : Option (Nat × Nat)) (a n : Nat) : Bool :=
  match r with
  | none => true
  | some (lo, hi) => decide (lo < hi) && decide (a < hi) && decide (lo < a + n)

/-- The selection takes a cached entry. -/
def TlbSel.takes (t : TlbSel) (e : TlbEnt) : Bool :=
  (match t.vf with | some f => e.vf == f | none => true) && meets t.va e.va (2 ^ e.size) && meets t.gpa e.gpa (2 ^ e.size)

/-- An access to a virtual address may have used a selected translation. -/
def TlbSel.touches (t : TlbSel) (f va : Nat) : Bool :=
  (match t.vf with | some g => f == g | none => true) && meets t.va va 64

/-- The selection of TLBINV (14 R333). -/
def selRange (f : Nat) (a : W64) (pages : Nat) : TlbSel :=
  { vf := some f, va := if pages = 0 then none else some (a.toNat, a.toNat + 4096 * pages), gpa := none }

/-- The selection of TLBINVA (14 R333). -/
def selAll (sel f : Nat) (a : W64) (pages : Nat) : TlbSel :=
  match sel with
  | 0 => { vf := some f, va := none, gpa := none }
  | 1 => { vf := some f, va := none, gpa := some (a.toNat, a.toNat + 4096 * pages) }
  | _ => { vf := none, va := none, gpa := none }

/-- A lane's access that stands translated and not performed gives its translation up: it translates again before it is
performed. -/
def LaneOp.forget (l : LaneOp) : LaneOp :=
  match l.st, l.tgt with
  | .ready, .hbm _ => { l with tgt := .none, st := .behind }
  | .ready, .port _ _ => { l with tgt := .none, st := .behind }
  | .ready, .peer _ _ => { l with tgt := .none, st := .behind }
  | .ready, .regs _ _ => { l with tgt := .none, st := .behind }
  | _, _ => l

/-- A wave's accesses give selected translations up. -/
def Wave.forget (v : Wave) (t : TlbSel) : Wave :=
  { v with ops := v.ops.map (fun (o : Op) =>
      if isShared o then { o with lanes := o.lanes.map (fun (l : LaneOp) => if t.touches v.vf l.va.toNat then l.forget else l) }
      else o) }

/-- Removes selected entries from every TLB, and the walk caches' entries of the functions concerned; accesses not performed
translate afresh (14 R333; 16 R360). -/
def flushTlbs (s : State) (t : TlbSel) : State :=
  { s with
    cores := s.cores.map (fun p => (p.1, { p.2 with
      tlb := p.2.tlb.filter (fun e => !t.takes e),
      slots := p.2.slots.map (fun q => (q.1, { q.2 with wave := q.2.wave.forget t })) })),
    clusters := s.clusters.map (fun p => (p.1, { p.2 with
      tlb2 := p.2.tlb2.filter (fun e => !t.takes e),
      walk := p.2.walk.filter (fun e => match t.vf with | some f => e.vf != f | none => false) })) }

/-- Write-queue entries that used a selected translation, by core (14 R333). -/
def wqUsing (s : State) (t : TlbSel) : List (Nat × Nat) :=
  s.cores.flatMap (fun p => (p.2.wq.filter (fun e => t.touches e.vf e.va.toNat)).map (fun e => (p.1, e.id)))

/-- A wave's access stands translated by a selected entry where its translation is not made again: an add its cluster gathers (04 R103), a
compare-and-swap that has read (04 R104). -/
def heldUsing (s : State) (t : TlbSel) : Bool :=
  s.cores.any (fun p => p.2.slots.any (fun q => q.2.wave.ops.any (fun o => isShared o && o.lanes.any (fun l =>
    t.touches q.2.wave.vf l.va.toNat && (match l.st with | .read _ => true | .waiting => true | _ => false)))))

/-- Peer transfers of functions a selection concerns. -/
def peersUsing (s : State) (t : TlbSel) : List Nat :=
  (s.peers.filter (fun p =>
    let c := match p.who, p.cmd with | some w, _ => w.1 | none, some d => d.1 | none, none => 0xFFFF
    match t.vf with | some f => c == 0xFFFF || (s.core c).vf == some f | none => true)).map PeerReq.tid

/-! ## Frame owners -/

/-- Sets the owner of n frames from frame f, in the controllers and in the table (16 R366). -/
def setOwners (s : State) (f n code : Nat) : State :=
  { s with owners := (List.range n).foldl (fun o i => Tab.put ownHost o (f + i) code) s.owners }

/-- The frames from a are aligned and end within HBM4 (14 R334). -/
def framesOk (a n : Nat) : Bool := decide (a % 65536 = 0) && decide (a + 65536 * n ≤ hbmEnd)

/-- The channel group of a frame (16 R353). -/
def groupOf (frame : Nat) : Nat := frame / 131072

/-- A frame may not go to an owner: its group is not held by the new owner, or is held by a function while HOST takes it
(16 R369). -/
def overQuota (s : State) (own frame : Nat) : Bool :=
  if own < 64 then !(s.func own).chgrp.getLsbD (groupOf frame)
  else if own = ownHost then s.funcs.any (fun p => p.2.valid && p.2.chgrp.getLsbD (groupOf frame))
  else false

/-- OWNSET's status and effect (14 R334; 16 R369). -/
def ownSet (s : State) (a n own : Nat) : State × Nat :=
  let fs := (List.range n).map (a / 65536 + ·)
  if framesOk a n = false then (s, 2)
  else if fs.any (fun f => s.owner (65536 * f) != ownFree) then (s, 1)
  else if fs.any (overQuota s own) then (s, 3)
  else (setOwners s (a / 65536) n own, 0)

/-- VALUE records of the zeroing of n frames from a, page by page of the armed ones, memory before and after (17 R384). -/
def scrubTrace (s : State) (old : List Host.Cell) (w : Writer) (a n : Nat) : State :=
  let new := s.mem
  let pages := ((s.funcs.flatMap (fun p => p.2.dbg.vtrs.flatMap (fun v => v.pages.map Prod.fst))).dedup).filter
    (fun p => decide (a / 4096 ≤ p ∧ p < a / 4096 + 16 * n))
  (pages.flatMap (fun p => (List.range 64).map (fun i => 4096 * p + 64 * i))).foldl (fun s x =>
    valueTrace s old new (fun _ _ => w) x 64 []) s

/-- SCRUB's status and effect: zeroed frames, no L1 copy, FREE; the word's lane wrote (14 R334; 16 R369; 17 R384). -/
def scrub (s : State) (w : Writer) (a n : Nat) : State × Nat :=
  if framesOk a n = false then (s, 2)
  else
    let stop := a + 65536 * n
    let old := s.mem
    let s := { homeTouches s a (65536 * n) with
      mem := s.mem.filter (fun p => !(decide (a ≤ p.1) && decide (p.1 < stop))),
      memPois := s.memPois.filter (fun l => !(decide (a ≤ 64 * l) && decide (64 * l < stop))),
      llcPois := s.llcPois.filter (fun i => !(decide (a ≤ 4 * i) && decide (4 * i < stop))),
      eccs := s.eccs.filter (fun e => !(decide (a ≤ e) && decide (e < stop))),
      cores := s.cores.map (fun p => (p.1, { p.2 with
        l1 := p.2.l1.filter (fun l => !(decide (a ≤ 64 * l.1) && decide (64 * l.1 < stop))) })) }
    (setOwners (scrubTrace s old w a n) (a / 65536) n ownFree, 0)

/-- The answer of OWNGET (14 R334). -/
def ownGet (s : State) (a : Nat) : W32 := if hbmEnd ≤ a then 0xFFFFFFFF else BitVec.ofNat 32 (s.owner a)

/-! ## Watchpoints -/

/-- The slice address of a watched page, armed under ENG when the page is present at both stages (17 R381). [log 48: DESIGN CHOICE, unsafe] -/
def watchSpa (s : State) (x : Ctx) (va : W64) : State × Option Nat :=
  if canonical va = false ∨ inWindow va = true ∨ inHeap va = true then (s, none)
  else
    match translate s (some x.core) (.fn x.wv.vf (x.wv.row x.g.level)) x.wv.vf va.toNat { bits := 0, u := false } true with
    | (s, .ok e) => (s, if e.apply va.toNat < hbmEnd then some (e.apply va.toNat / 16 * 16) else none)
    | (s, _) => (s, none)

/-- A watchpoint as WPSET sets it (14 R335). -/
def wpSet (s : State) (x : Ctx) (n : Nat) (a : W64) (b : W32) : State :=
  let old := (s.core x.core).watch.getD n Watch.off
  let en := b.getLsbD 16
  if b.extractLsb' 18 14 ≠ 0 ∨ (en = true ∧ b.setWidth 16 = (0 : BitVec 16)) then s
  else if x.g.level = .g ∧ old.en = true ∧ old.vf ≠ x.wv.vf then s
  else
    let (s, spa) := if en = true ∧ b.getLsbD 17 = true then watchSpa s x a else (s, none)
    let p : Watch := { en := true, eng := b.getLsbD 17, vf := x.wv.vf, addr := a &&& ~~~(0xF : W64), bmask := b.setWidth 16,
                       spa := spa, gang := x.wv.gang }
    let p := if en then p else Watch.off
    s.modCore x.core (fun k => { k with watch := listSet k.watch n p })

/-- WPSET (14 R335): it takes effect in the cc of issue. -/
def execWpset (f : Fields) (s : State) : Res :=
  issueWord 0xFD f s (fun x s =>
    match x.active f with
    | [] => s
    | l :: _ =>
      addOp x { x.op 0xFD f with lanes := [{ lane := l, va := 0, src := 0, src2 := 0, tgt := .none, st := .known }] }
        (wpSet s x (f.m 0 2) (x.rd64 f f.a l) (x.rd f f.b l)))

/-! ## Queues -/

/-- Undealt records of a queue's cards are discarded wherever they are held (14 R336). -/
def discardRecs (s : State) (q : Nat) : State :=
  let s := s.modQueue q (fun t => { t with cards := t.cards.map (fun k => { k with undealt := [] }) })
  let left (us : List DkUnit) : List DkUnit :=
    (us.map (fun (u : DkUnit) => if u.q = q then { u with recs := [] } else u)).filter (fun u => u.recs != [] || u.run.isSome)
  let ds : Tab (List DkUnit) := (s.sched.deckles.map (fun p => (p.1, left p.2))).filter (fun p => p.2 != [])
  { s with
    cores := s.cores.map (fun p => (p.1, { p.2 with held := p.2.held.filter (fun h => h.q != q) })),
    sched := { s.sched with deckles := ds } }

/-- WITHDRAW begins (14 R336). [log 88: DEDUCED, unsafe] -/
def withdrawQueue (s : State) (q : Nat) : State :=
  endWithdraw ((discardRecs s q).modQueue q (fun t =>
    { t with withdrawn := true, paused := true, withdrawals := t.withdrawals + 1 })) q

/-! ## Completion -/

/-- Marks the once-acting operation as having made its request. -/
def markAsked (s : State) (c w id : Nat) : State :=
  s.modWave c w (fun v => v.modOp id (fun o => { o with released := true }))

/-- CTXSV begins: its status at once, or a drain it waits for; the frames past the least record are looked at as it is written (14 R332). [log 113: DEDUCED, unsafe] -/
def ctxsvStep (s : State) (c w id lane : Nat) (v : Wave) (o : Op) (l : LaneOp) : State :=
  let fin (s : State) (st : Nat) : State := finishLane s c w id lane (statusWr o.f lane st) 0
  let b := l.src.toNat
  let tc := b / 64 % 512
  let tw := b % 64
  match s.slot? tc tw with
  | none => fin s 1
  | some t =>
    if 32768 ≤ b then fin s 1
    else if l.va.toNat % 4096 ≠ 0 ∨ hostFrames s l.va.toNat (recMap 0 0 t.wave.vgran t.wave.sgran t.wave.tregs t.wave.aregs).stop = false then fin s 2
    else if t.drain.isSome then fin s 3
    else
      let s := setLane (markAsked s c w id) c w id lane .waiting
      requestSave s tc tw { addr := some l.va.toNat, req := some (c, v.uid, id), reason := 0, q := 0 }

/-- HALTQ: its request, and its end when the queue is in the state it selects (14 R336). -/
def haltqStep (s : State) (c w id lane : Nat) (o : Op) (l : LaneOp) : Option State :=
  let q := l.va.toNat
  let fin (s : State) (st : Nat) : State := finishLane s c w id lane (statusWr o.f lane st) 0
  if 1024 ≤ q then some (fin s 1)
  else
    match o.f.m 0 2 with
    | 0 => some (fin (s.modQueue q (fun t => { t with paused := true })) 0)
    | 1 => if (s.queue q).withdrawn then none else some (fin (s.modQueue q (fun t => { t with paused := false })) 0)
    | _ =>
      if o.released then (if (s.queue q).withdrawn then none else some (fin s 0))
      else some (markAsked (withdrawQueue s q) c w id)

/-- An invalidation completes once no queued write, gathered add or peer transfer that used a selected entry is left (14 R333). [log 101: DESIGN CHOICE, unsafe] -/
def invStep (s : State) (c w id lane : Nat) (o : Op) (t : TlbSel) : Option State :=
  if (wqUsing s t).isEmpty && (peersUsing s t).isEmpty && !heldUsing s t then
    some (finishLane (flushTlbs s t) c w id lane (statusWr o.f lane 0) 0)
  else none

/-- The next step of a privileged word that acts once, in its leader lane; none while it waits (14 R331 to R336). -/
def privOnce (s : State) (c w id lane : Nat) (v : Wave) (o : Op) (l : LaneOp) : Option State :=
  let fin (r : State × Nat) : Option State := some (finishLane r.1 c w id lane (statusWr o.f lane r.2) 0)
  let a := l.va.toNat
  let n := l.src.toNat
  match o.opc with
  | 0xF7 => some (ctxsvStep s c w id lane v o l)
  | 0xF8 => fin (restoreRecord s a)
  | 0xF9 => invStep s c w id lane o (selRange v.vf l.va n)
  | 0xFA => invStep s c w id lane o (selAll (o.f.m 6 2) (o.f.m 0 6) l.va n)
  | 0xFB => fin (ownSet s a n (o.f.m 0 7))
  | 0xFC => fin (s, (ownGet s a).toNat)
  | 0xFE => haltqStep s c w id lane o l
  | 0xFF => fin (scrub s (laneWriter c w v.gang o.spo o.off lane) a n)
  | _ => some (finishLane s c w id lane [] 0)

end Sys2Proof.Machine
end

