-- ==== Sys2Proof/Machine/Parts.lean ====
section
/-! DEFINITION. Partitions: function entries, clusters that pass from one function to another, time slices, worlds, START, and the
sessions of counter banks and trace units (16 R351, R352, R370 to R373; 17 R385, R386; 18 R408). -/

namespace Sys2Proof.Machine

/-! ## Cores that pass -/

/-- The function a cluster serves now, if any (16 R370, R373). -/
def servedBy (s : State) (cl : Nat) : Option Nat :=
  match s.funcs.find? (fun p => p.2.valid && p.2.clust.getLsbD cl) with
  | some (f, _) => some f
  | none => s.sched.slice.map (fun t => if t.on then t.vf else 0)

/-- Undealt records that a core holds return to their pools, unstarted (01 R35; 16 R373). -/
def returnHeld (s : State) (c : Nat) : State :=
  let s := (s.core c).held.foldl (fun (s : State) (h : Chunk) =>
    s.modCard h.q h.seq (fun k => { k with undealt := h.recs.foldl rangesAdd k.undealt })) s
  s.modCore c (fun k => { k with held := [] })

/-- A core passes to a function: L0, L1, TLBs, its cluster's second-level TLB and walk cache, and its buffers (16 R370; 03 R72). [log 105: DESIGN CHOICE, unsafe] -/
def passCore (s : State) (c f : Nat) : State :=
  ((returnHeld s c).modCore c (fun k =>
    { k with vf := some f, l0 := [], l1 := [], tlb := [], w := [], wpois := [], x := [], xpois := [], z := [], zpois := [] })).modCluster
    (clusterOf c) (fun k => { k with tlb2 := [], walk := [] })

/-- Cores whose cluster now serves another function pass to it; a switch of slices passes its own (16 R370, R373). -/
def settleCores (s : State) : State :=
  (s.cores.map Prod.fst).foldl (fun s c =>
    if (s.core c).ready = false ∨ passing s c = true then s
    else
      match servedBy s (clusterOf c) with
      | some f => if (s.core c).vf = some f then s else passCore s c f
      | none => (returnHeld s c).modCore c (fun k => { k with vf := none })) s

/-- A core still has work of the function it serves (16 R370). -/
def coreBusy (k : Core) : Bool :=
  k.slots != [] || k.held != [] || k.ladle != [] || k.mx != [] || k.col.intake != [] || k.col.live != [] || k.col.conts != [] ||
  k.shares != []

/-! ## Function entries -/

/-- The function an entry describes, over what the function keeps (16 R351). -/
def funcOf (old : Func) (b : List Byte) : Func :=
  { old with
    s1root := BitVec.ofNat 64 (recNat b 0 8), s2root := BitVec.ofNat 64 (recNat b 8 8), etbase := BitVec.ofNat 64 (recNat b 16 8),
    prq1 := BitVec.ofNat 64 (recNat b 24 8), prq2 := BitVec.ofNat 64 (recNat b 32 8), clust := BitVec.ofNat 128 (recNat b 40 16),
    chgrp := BitVec.ofNat 64 (recNat b 56 8), tson := recNat b 64 4, tsoff := recNat b 68 4, prq1n := recNat b 72 2,
    prq2n := recNat b 74 2, maxq := recNat b 76 2, maxw := recNat b 78 1, valid := (recNat b 79 1).testBit 0,
    ts := (recNat b 79 1).testBit 1 }

/-- A value of entry f that R351 lists as BADARG is met. [log 104: DEDUCED, unsafe] -/
def funcBad (s : State) (f : Nat) (x : Func) : Bool :=
  let others := s.funcs.filter (fun p => p.1 != f && p.2.valid)
  let heap := s.conf.heapspa.toNat / 2 ^ 33
  (x.ts && (x.clust != 0 || others.any (fun p => p.2.ts) || decide (x.tson < 1000) || decide (x.tsoff < 1000))) ||
  decide (64 < x.maxw) || decide (1024 < x.maxq) || !pow2In x.prq1n 16 4096 || !pow2In x.prq2n 16 4096 ||
  others.any (fun p => p.2.chgrp &&& x.chgrp != 0 || p.2.clust &&& x.clust != 0) ||
  x.chgrp.getLsbD heap || x.chgrp.getLsbD (heap + 1) ||
  decide (x.prq2.toNat % 4096 ≠ 0) || !hostFrames s x.prq2.toNat (32 * x.prq2n) || decide (x.prq1.toNat % 4096 ≠ 0) ||
  decide (x.etbase.toNat % 8 ≠ 0) || decide (x.s2root.toNat % 65536 ≠ 0) || decide (x.s1root.toNat % 4096 ≠ 0)

/-- Clusters and channel groups a function holds. -/
def Func.held (x : Func) : BitVec 128 × BitVec 64 := if x.valid then (x.clust, x.chgrp) else (0, 0)

/-- An FSET that replaces function f by x is BUSY (16 R370, R373). -/
def funcBusy (s : State) (f : Nat) (x : Func) : Bool :=
  let o := s.func f
  let lost := o.held.1 &&& ~~~x.held.1
  let groups := o.held.2 &&& ~~~x.held.2
  let onCluster (p : Nat × Core) : Bool := lost.getLsbD (clusterOf p.1) && coreBusy p.2
  let frees := o.valid && o.ts && !(x.valid && x.ts)
  let shared (c : Nat) : Bool := s.sharedClusters.contains (clusterOf c)
  let gained := x.held.1 &&& ~~~o.held.1
  -- a cluster that f takes may serve another function under R373
  let taken (p : Nat × Core) : Bool :=
    gained.getLsbD (clusterOf p.1) && (coreBusy p.2 || s.passes.any (fun q => some q.vf == p.2.vf))
  s.cores.any onCluster || s.cores.any taken || (lost != 0 && s.passes.any (fun p => p.vf == f)) ||
  s.owners.any (fun p => p.2 == f && groups.getLsbD (groupOf p.1)) ||
  (frees && (s.cores.any (fun p => shared p.1 &&
      (p.2.slots.any (fun t => t.2.wave.vf == f) || (p.2.vf == some f && coreBusy p.2))) ||
    s.sched.saved.any (fun p => p.wave.vf == f && shared p.core)))

/-- Switch 0 opens, or the slice ends, with the TS bit of f (16 R373). -/
def sliceFor (s : State) (f : Nat) : State :=
  let x := s.func f
  match s.sched.slice with
  | none =>
    if x.valid && x.ts then
      let todo := (s.cores.map Prod.fst).filter (fun c => (s.core c).ready && s.sharedClusters.contains (clusterOf c))
      { s with sched := { s.sched with slice := some { vf := f, on := true, began := s.ticks, todo := todo, switching := todo != [] } } }
    else s
  | some t => if t.vf = f ∧ (x.valid && x.ts) = false then { s with sched := { s.sched with slice := none } } else s

/-- Applies function entry f: registers of a function that becomes valid, clusters, slices (14 R321; 16 R352, R370, R373). -/
def applyFunc (s : State) (f : Nat) (x : Func) : State :=
  let x := if x.valid && !(s.func f).valid then
      { x with seq := 0, qpos1 := 0, qpos2 := 0, tvecg := 0, troute := 0, rspool := 0 } else x
  settleCores (sliceFor (s.modFunc f (fun _ => x)) f)

/-- FSET (16 R351, R352). -/
def execFset (vf : Nat) (s : State) : Res :=
  mailRequest s vf 5 (fun a h =>
    let f := (a 0).toNat
    if vf ≠ 0 ∨ h = false then (s, 1)
    else if 64 ≤ f then (s, 2)
    else
      match hostTable s (s.conf.ftbase.toNat + 128 * f) 128 with
      | none => (s, 2)
      | some b =>
        let x := funcOf (s.func f) b
        if funcBad s f x then (s, 2)
        else if funcBusy s f x then (s, 3)
        else (applyFunc s f x, 0))

/-! ## Time slices -/

/-- TIMESLICE_SWITCH (16 R373): a phase has lasted its time and the last switch has ended; dealing to the shared cores stops. -/
def execTimesliceSwitch (s : State) : Res :=
  match s.sched.slice with
  | none => .fault .notEnabled
  | some t =>
    let x := s.func t.vf
    if t.switching ∨ s.ticks < t.began + (if t.on then x.tson else x.tsoff) then .fault .notEnabled
    else
      let todo := (s.cores.map Prod.fst).filter (fun c => (s.core c).ready && s.sharedClusters.contains (clusterOf c))
      let s := todo.foldl returnHeld s
      let u : TimeSlice := { t with on := !t.on, began := s.ticks, todo := todo, switching := todo != [] }
      .next { s with sched := { s.sched with slice := some u } }

/-- TIMESLICE_CORE_PASS (16 R373): the outgoing function's waves have left the core and none of their commands is live. -/
def execTimesliceCorePass (core : Nat) (s : State) : Res :=
  match s.sched.slice with
  | none => .fault .notEnabled
  | some t =>
    if passing s core = false ∨ coreBusy (s.core core) = true then .fault .notEnabled
    else
      let todo := t.todo.filter (· != core)
      let s := passCore s core (if t.on then t.vf else 0)
      .next { s with sched := { s.sched with slice := some { t with todo := todo, switching := todo != [] } } }

/-! ## Worlds -/

/-- The template card of an entry, read by the Sieve in the space of SHQ's owner, from its frames or HOST's; none where it cannot be
read at once. A queue that was never set up has no owner: the bytes kept are free values. -/
def templateAt (s : State) (shq : Nat) (va : W64) : Option (List Byte) :=
  match s.sched.queues.get? shq with
  | none => some ((List.range 64).map (fun i => BitVec.ofNat 8 (Config.unstated 0x107 shq i)))
  | some k =>
    let level : Level := if k.priv then .h else .g
    let party : Party := .fn k.owner level
    if canonical va = false then none
    else
      match (translate s none party k.owner va.toNat (accR level) false).2 with
      | .ok e =>
        let a := e.apply va.toNat
        if e.elide ∨ (s.owned party a = false ∧ s.owned .host a = false) then none
        else some (if s.linePois a then List.replicate 64 0 else s.bytesAt a 64)
      | _ => none

/-- The world that entry bytes and a card describe, over what the entry kept (16 R372). -/
def worldOf (old : Option World) (b card : List Byte) : World :=
  let w : World :=
    { tag := recNat b 0 2, shq := recNat b 2 2, rcap := recNat b 4 2, sbase := recNat b 8 4, scnt := recNat b 12 4,
      grants := BitVec.ofNat 64 (recNat b 16 8), ring := BitVec.ofNat 64 (recNat b 24 8),
      tmplAddr := BitVec.ofNat 64 (recNat b 32 8), tmpl := card, wage := 0, gen := [] }
  match old with
  | some o => if o.tag = w.tag ∧ o.sbase = w.sbase ∧ o.scnt = w.scnt then { w with wage := o.wage, gen := o.gen } else w
  | none => w

/-- A value of world entry i that R371 or R372 lists as BADARG is met; an unused entry meets none. [log 153: DESIGN CHOICE, unsafe] -/
def worldBad (s : State) (i : Nat) (w : World) : Bool :=
  let others := s.worlds.filter (fun p => p.1 != i)
  let fs := (List.range 64).filter (fun f => w.grants.getLsbD f)
  decide (1024 ≤ w.shq) || !pow2In w.rcap 32 4096 || decide (w.sbase % 128 ≠ 0) || decide (w.scnt % 128 ≠ 0) || decide (w.scnt = 0) ||
  decide (2 ^ 25 < w.sbase + w.scnt) || decide (w.ring.toNat % 4096 ≠ 0) || decide (w.tmplAddr.toNat % 64 ≠ 0) ||
  others.any (fun p => p.2.tag == w.tag ||
    (decide (w.sbase < p.2.sbase + p.2.scnt) && decide (p.2.sbase < w.sbase + w.scnt))) ||
  fs.any (fun f => !(s.func f).valid ||
    decide ((s.func f).maxw < (others.filter (fun p => p.2.grants.getLsbD f)).length + 1))

/-- New sub-rings start with the next batch (16 R372). -/
def restartRings (s : State) (tag : Nat) : State :=
  (s.slices.map Prod.fst).foldl (fun s n => s.modSlice n (fun t => { t with
    rings := t.rings.map (fun (r : SubRing) => if r.world = tag then { r with restart := true } else r) })) s

/-- Replaces world entry i: a withdrawn old world, cleared grants, new sub-rings (16 R372). -/
def applyWorld (s : State) (i : Nat) (w : World) : State :=
  let s := match s.worlds.get? i with
    | none => s
    | some o =>
      if o.tag ≠ w.tag ∨ o.sbase ≠ w.sbase ∨ o.scnt ≠ w.scnt then withdrawWorld s o.tag
      else
        let s := ((List.range 64).filter (fun f => o.grants.getLsbD f && !w.grants.getLsbD f)).foldl (fun s f => clearGrant s o.tag f) s
        if o.ring ≠ w.ring ∨ o.rcap ≠ w.rcap then restartRings s o.tag else s
  { s with worlds := if w.tag = 0 then s.worlds.del i else s.worlds.ins i w }

/-- WSET (16 R352, R372). -/
def execWset (vf : Nat) (s : State) : Res :=
  mailRequest s vf 6 (fun a h =>
    let i := (a 0).toNat
    if vf ≠ 0 ∨ h = false then (s, 1)
    else if 64 ≤ i then (s, 2)
    else
      match hostTable s (s.conf.wtbase.toNat + 64 * i) 64 with
      | none => (s, 2)
      | some b =>
        let w := worldOf (s.worlds.get? i) b []
        if w.tag = 0 then (applyWorld s i w, 0)
        else if worldBad s i w then (s, 2)
        else
          match templateAt s w.shq w.tmplAddr with
          | none => (s, 2)
          | some card => (applyWorld s i { w with tmpl := card }, 0))

/-! ## Counter banks and trace units -/

/-- Function f and cluster c of a claim are ones a bank may be bound to (17 R385). -/
def claimBad (s : State) (kind f c slot : Nat) (codes : List Nat) : Bool :=
  decide (1 < kind) || decide (64 ≤ f) || !(s.func f).valid ||
  (kind == 0 && (decide (128 ≤ c) || servedBy s c != some f || decide (16 ≤ slot) || codes.any (fun k => decide (15 < k))))

/-- The slot of a page is in use by a bank of the function, or of a session of the hypervisor (17 R376, R385). -/
def slotUsed (s : State) (f : Nat) (h : Bool) (slot : Nat) : Bool :=
  s.clusters.any (fun p => (p.2.banks ++ p.2.susp).any (fun b => b.2.h == h && (h || b.2.vf == f) && b.2.slot == slot))

/-- A claim of a bank of a cluster: a free one, or for the hypervisor one of a function, which is suspended (17 R386). [log 107: DEDUCED, unsafe] -/
def claimBank (s : State) (f : Nat) (h : Bool) (c slot : Nat) (codes : List Nat) : State × Nat :=
  let b : Bank := { vf := f, h := h, slot := slot, codes := codes, counts := List.replicate 8 0 }
  let k := s.cluster c
  if slotUsed s f h slot then (s, 3)
  else
    match (List.range 4).find? (fun i => (k.banks.get? i).isNone), k.banks.find? (fun p => !p.2.h) with
    | some i, _ => (s.modCluster c (fun k => { k with banks := k.banks.ins i b }), 0)
    | none, some (i, old) =>
      if h then (s.modCluster c (fun k => { k with banks := k.banks.ins i b, susp := k.susp.ins i old }), 0) else (s, 3)
    | none, none => (s, 3)

/-- A claim of a trace unit for a function, which holds at most one (17 R385, R386). -/
def claimUnit (s : State) (f : Nat) (h : Bool) : State × Nat :=
  let put (i : Nat) (u : TraceUnit) : State × Nat := ({ s with tracers := s.tracers.ins i u }, 0)
  match s.tracers.find? (fun p => p.2.vf == f || p.2.susp == some f) with
  | some (i, u) => if h && !u.h then put i { vf := f, h := true, susp := some f } else (s, 3)
  | none =>
    match (List.range 16).find? (fun i => (s.tracers.get? i).isNone), s.tracers.find? (fun p => !p.2.h) with
    | some i, _ => put i { vf := f, h := h, susp := none }
    | none, some (i, u) => if h then put i { vf := f, h := true, susp := some u.vf } else (s, 3)
    | none, none => (s, 3)

/-- DBGCLAIM (17 R385, R386). -/
def execDbgclaim (vf : Nat) (s : State) : Res :=
  mailRequest s vf 7 (fun a h =>
    let f := (a 1).toNat
    let codes := (leBytes 8 (a 4).toNat).map (fun b => b.toNat)
    -- only the port-A function's level H is the hypervisor's
    let h := h && vf == 0
    if h = false ∧ f ≠ vf then (s, 1)
    else if claimBad s (a 0).toNat f (a 2).toNat (a 3).toNat codes then (s, 2)
    else if (a 0).toNat = 0 then claimBank s f h (a 2).toNat (a 3).toNat codes
    else claimUnit s f h)

/-- Releases a bank of a cluster: the hypervisor's, whose suspended session goes on; a function's, suspended or not (17 R386). -/
def freeBank (s : State) (f : Nat) (h : Bool) (c slot : Nat) : State × Nat :=
  let k := s.cluster c
  let mine (p : Nat × Bank) : Bool := p.2.vf == f && p.2.h == h && p.2.slot == slot
  match k.banks.find? mine, k.susp.find? mine with
  | some (i, _), _ =>
    (s.modCluster c (fun k =>
      match k.susp.get? i with
      | some old => { k with banks := k.banks.ins i old, susp := k.susp.del i }
      | none => { k with banks := k.banks.del i }), 0)
  | none, some (i, _) => (s.modCluster c (fun k => { k with susp := k.susp.del i }), 0)
  | none, none => (s, 1)

/-- Releases a trace unit (17 R386). -/
def freeUnit (s : State) (f : Nat) (h : Bool) : State × Nat :=
  if h then
    match s.tracers.find? (fun p => p.2.vf == f && p.2.h) with
    | some (i, u) =>
      ({ s with tracers := match u.susp with
          | some g => s.tracers.ins i { vf := g, h := false, susp := none }
          | none => s.tracers.del i }, 0)
    | none => (s, 1)
  else
    match s.tracers.find? (fun p => p.2.vf == f && !p.2.h), s.tracers.find? (fun p => p.2.susp == some f) with
    | some (i, _), _ => ({ s with tracers := s.tracers.del i }, 0)
    | none, some (i, u) => ({ s with tracers := s.tracers.ins i { u with susp := none } }, 0)
    | none, none => (s, 1)

/-- DBGFREE (17 R385, R386). -/
def execDbgfree (vf : Nat) (s : State) : Res :=
  mailRequest s vf 8 (fun a h =>
    let f := (a 1).toNat
    -- only the port-A function's level H is the hypervisor's
    let h := h && vf == 0
    if h = false ∧ f ≠ vf then (s, 1)
    else if 1 < (a 0).toNat ∨ 64 ≤ f then (s, 2)
    else if (a 0).toNat = 0 then freeBank s f h (a 2).toNat (a 3).toNat
    else freeUnit s f h)

/-! ## START -/

/-- The bases START checks (18 R407). -/
def basesOk (k : ConfPage) : Bool :=
  k.ftbase.toNat % 4096 == 0 && k.qtbase.toNat % 4096 == 0 && k.mftbase.toNat % 4096 == 0 && k.wtbase.toNat % 4096 == 0 &&
  k.fotbase.toNat % 0x800000 == 0 && k.heapspa.toNat % 2 ^ 33 == 0 && decide (k.heapspa.toNat ≤ 0x7C00000000)

/-- A write of 1 to START once all stacks are ready (18 R408): refused, or every frame HOST, entry 0 applied, started. From then
on the owner table's bytes are read from the owners themselves. -/
def startWith (s : State) : State :=
  let s : State := { s with conf := { s.conf with startWait := false } }
  let no : State := { s with conf := { s.conf with startst := 2 } }
  match hostTable s s.conf.ftbase.toNat 128 with
  | none => no
  | some b =>
    let b0 := s.conf.fotbase.toNat
    let t : State := { s with owners := [], mem := s.mem.filter (fun p => !(decide (b0 ≤ p.1) && decide (p.1 < b0 + 0x800000))) }
    let x := funcOf (s.func 0) b
    if basesOk s.conf = false ∨ funcBad t 0 x = true then no
    else applyFunc { t with conf := { t.conf with startst := 1 } } 0 x

/-- A write to START (18 R407, R408): values other than 1, and a start when started, are ignored; it waits for all eight stacks. [log 108: DEDUCED, unsafe] -/
def startPut (s : State) (value : W32) : State :=
  if value ≠ 1 ∨ s.conf.startst = 1 then s
  else if s.rdy.hbm ≠ (0xFF : BitVec 8) then { s with conf := { s.conf with startWait := true } }
  else startWith s

/-- START (18 R407, R408). -/
def execStart (value : W32) (s : State) : Res := .next (startPut s value)

end Sys2Proof.Machine
end

