-- ==== Sys2Proof/Machine/Debug.lean ====
section
/-! DEFINITION. Debug pages, stops and parks, and value-trace regions (17 R375 to R379, R382, R384). -/

namespace Sys2Proof.Machine

/-! ## Parking -/

/-- LRM of the block at a PC: from the L0 or memory, without a page request; a free value where the block cannot be read (17
R375, R382). -/
def lrmAt (s : State) (c : Nat) (v : Wave) (x : Lane) : Nat :=
  match l0Word (s.core c) v.vf false x.pc.toNat with
  | some p => landLrm (p.extractLsb' 64 64)
  | none =>
    match fetchLine s c v x.level x.pc false with
    | (t, .ok) =>
      match l0Word (t.core c) v.vf false x.pc.toNat with
      | some p => landLrm (p.extractLsb' 64 64)
      | none => Config.unstated 0x102 x.pc.toNat s.free % 65536
    | _ => Config.unstated 0x102 x.pc.toNat s.free % 65536

/-- The WATCH record of a hit whose skid is known (17 R380, R382). -/
def watchRec (c w : Nat) (v : Wave) (p : PendWatch) : DbgRec :=
  { kind := 2, cause := 66, core := c, wave := w, gang := v.gang, eng := c % 4096, spo := p.spo, off := p.off, skid := p.n % 256,
    unit := p.unit, mask := p.mask, addr := p.addr }

/-- The STOP record of a wave whose lanes have all stopped (17 R382). -/
def stopRec (s : State) (c w : Nat) (t : Slot) : DbgRec :=
  let v := t.wave
  let due := v.lanes.foldl (fun (m : BitVec 5) x => m ||| x.stops) 0
  let low := (v.lanes[lowest (maskLanes v.live)]?).getD default
  let code := ((List.range 5).find? (fun k => due.getLsbD k)).getD 0
  { kind := 1, cause := 64 + code, core := c, wave := w, gang := v.gang, eng := c % 4096, spo := low.stopSpo, off := 31,
    skid := (match t.watches with | p :: _ => p.n % 256 | [] => 0), unit := 0xFF, reasons := due.toNat, mask := v.live,
    lrm := lrmAt s c v low }

/-- Writes the WATCH records of a wave's hits, oldest first. -/
def flushWatches (s : State) (c w : Nat) (t : Slot) : State :=
  (t.watches.foldl (fun s p => debugRecord s t.wave.vf (watchRec c w t.wave p)) s).modSlot c w (fun t => { t with watches := [] })

/-- WAVE_PARK (17 R377): every lane of a wave with a due stop has stopped. A drain that waits ends the park at once. -/
def execWavePark (core wave : Nat) (s : State) : Res :=
  match s.slot? core wave with
  | none => .fault .notEnabled
  | some t =>
    let busy := match (s.quarter core (quarterOf wave)).run with | some r => r.wave == wave | none => false
    if t.stopping = false ∨ t.parked = true ∨ allStopped t.wave = false ∨ t.wave.live = 0 ∨ busy = true then .fault .notEnabled
    else
      let s := debugRecord (flushWatches s core wave t) t.wave.vf (stopRec s core wave t)
      .next (s.modSlot core wave (fun t => { t with
        stopping := false, parked := t.drain.isNone,
        wave := { t.wave with lanes := t.wave.lanes.map (fun x => { x with stops := 0 }) } }))

/-- The wave a STOPREQ or RESUME value names, if it is function f's (17 R379). -/
def namedWave (s : State) (f : Nat) (v : W64) : Option (Nat × Nat × Slot) :=
  let c := (v.extractLsb' 6 9).toNat
  let w := (v.extractLsb' 0 6).toNat
  match s.slot? c w with
  | some t => if t.wave.vf = f then some (c, w, t) else none
  | none => none

/-- A write to STOPREQ (17 R376, R379): HALTREQ falls due in every lane. [log 29: DESIGN CHOICE, unsafe] -/
def stopReq (s : State) (f : Nat) (v : W64) : State :=
  if v.extractLsb' 15 49 ≠ 0 then s
  else match namedWave s f v with
    | some (c, w, _) => dueStopAll s c w 16
    | none => s

/-- A write to RESUME; stops that fell due while the wave was parked park it again (17 R376 to R379). -/
def resumeReq (s : State) (f : Nat) (v : W64) : State :=
  if v.getLsbD 15 ∨ v.extractLsb' 17 47 ≠ 0 then s
  else match namedWave s f v with
    | some (c, w, t) =>
      if t.parked = false then s
      else
        s.modSlot c w (fun t => { t with
          parked := false,
          wave := { t.wave with
            wstat := (t.wave.wstat &&& ~~~(0x01000000 : W32)) ||| (if v.getLsbD 16 then 0x01000000 else 0),
            lanes := t.wave.lanes.map (fun x => { x with stopped := false, skipStop := true }) } })
    | none => s

/-- STOPREQ (17 R379). -/
def execStopreq (vf : Nat) (value : W64) (s : State) : Res := .next (stopReq s vf value)
/-- RESUME (17 R379). -/
def execResume (vf : Nat) (value : W64) (s : State) : Res := .next (resumeReq s vf value)
/-- A write to LOST clears it (17 R376). -/
def clearLost (s : State) (f : Nat) : State := s.modFunc f (fun x => { x with dbg := { x.dbg with lost := 0 } })
/-- LOST (17 R376). -/
def execLost (vf : Nat) (s : State) : Res := .next (clearLost s vf)

/-! ## Value-trace regions -/

/-- The system physical page of a region's virtual page when it is present for writes under both stages (17 R384). [log 121: DEDUCED, unsafe] -/
def armPage (s : State) (f vp : Nat) : Option (Nat × Nat) :=
  if canonical (BitVec.ofNat 64 (4096 * vp)) = false then none
  else
    match walk { vf := f, cache := [], k := s.free } s (.fn f (if f = 0 then .h else .g)) (4096 * vp) { bits := 2, u := false } with
    | .ok e => if e.apply (4096 * vp) < hbmEnd then some (e.apply (4096 * vp) / 4096, vp) else none
    | _ => none

/-- Arms region r of function f, or finds it illegal: then nothing is armed (17 R384). -/
def armVtr (s : State) (f r : Nat) : State :=
  s.modVtr f r (fun v =>
    let b := v.base.toNat
    let n := v.len.toNat
    let ps := if b % 8 ≠ 0 ∨ n % 8 ≠ 0 ∨ n < 8 ∨ 0x200000 < n then []
      else ((List.range ((b + n + 4095) / 4096 - b / 4096)).map (b / 4096 + ·)).filterMap (armPage s f)
    { v with en := true, pages := ps, armed := BitVec.ofNat 32 ps.length, lo := b, hi := b + n, rseq := [] })

/-- VTR_ARM (17 R384): EN := 1 of a region. -/
def execVtrArm (vf region : Nat) (s : State) : Res := .next (if region < 8 then armVtr s vf region else s)

/-! ## The page -/

/-- Low or high half of a 64-bit register. -/
def half64 (v : W64) (hi : Bool) : W32 := if hi then v.extractLsb' 32 32 else v.extractLsb' 0 32
/-- A 64-bit register with one half replaced. -/
def setHalf64 (v : W64) (hi : Bool) (w : W32) : W64 := if hi then w ++ v.extractLsb' 0 32 else v.extractLsb' 32 32 ++ w

/-- The bank of slot n of function f's page, its cluster, and whether it is suspended (17 R376, R385, R386). -/
def bankOf (s : State) (f n : Nat) : Option (Nat × Bank × Bool) :=
  let mine (b : Bank) : Bool := b.slot == n && ((b.h && f == 0) || (!b.h && b.vf == f))
  s.clusters.findSome? (fun p =>
    match p.2.banks.find? (fun b => mine b.2), p.2.susp.find? (fun b => mine b.2) with
    | some b, _ => some (p.1, b.2, false)
    | none, some b => some (p.1, b.2, true)
    | none, none => none)

/-- A word of a debug page as read (17 R376). -/
def dbgWord (s : State) (f off : Nat) : W32 :=
  let d := (s.func f).dbg
  if off = 0 then (if d.stopen then 1 else 0)
  else if off = 0x008 ∨ off = 0x00C then half64 d.ringbase (off == 0x00C)
  else if off = 0x010 then d.ringn
  else if off = 0x014 then d.tail
  else if off = 0x018 then d.head
  else if off = 0x01C then d.lost
  else if 0x040 ≤ off ∧ off < 0x140 then
    let b := d.bps.getD ((off - 0x40) / 16) default
    match (off - 0x40) % 16 with
    | 0 => half64 b.kern false
    | 4 => half64 b.kern true
    | 8 => b.spo
    | _ => if b.en then 1 else 0
  else if 0x140 ≤ off ∧ off < 0x240 then
    let v := d.vtrs.getD ((off - 0x140) / 32) default
    match (off - 0x140) % 32 with
    | 0 => half64 v.base false
    | 4 => half64 v.base true
    | 8 => v.len
    | 12 => if v.en then 1 else 0
    | 16 => v.armed
    | _ => 0
  else if 0x400 ≤ off ∧ off < 0x800 then
    match bankOf s f ((off - 0x400) / 64) with
    | some (_, b, _) => half64 (b.counts.getD ((off - 0x400) % 64 / 8) 0) (off % 8 == 4)
    | none => 0
  else if 0x800 ≤ off ∧ off < 0x840 then
    match bankOf s f ((off - 0x800) / 4) with
    | some (c, _, held) => BitVec.ofNat 32 (c * 256 + if held then 2 else 1)
    | none => 0
  else 0

/-- Changes a debug page. -/
def State.modDbg (s : State) (f : Nat) (g : Debug → Debug) : State := s.modFunc f (fun x => { x with dbg := g x.dbg })

/-- A write of one word of a debug page, but for STOPREQ and RESUME (17 R376). -/
def dbgPut (s : State) (f off : Nat) (w : W32) : State :=
  if off = 0 then s.modDbg f (fun d => { d with stopen := w.getLsbD 0 })
  else if off = 0x008 ∨ off = 0x00C then s.modDbg f (fun d => { d with ringbase := setHalf64 d.ringbase (off == 0x00C) w })
  else if off = 0x010 then s.modDbg f (fun d => { d with ringn := w })
  else if off = 0x014 then s.modDbg f (fun d => { d with tail := w })
  else if off = 0x01C then clearLost s f
  else if 0x040 ≤ off ∧ off < 0x140 then
    s.modDbg f (fun d => { d with bps := listAdj d.bps ((off - 0x40) / 16) (fun b =>
      match (off - 0x40) % 16 with
      | 0 => { b with kern := setHalf64 b.kern false w }
      | 4 => { b with kern := setHalf64 b.kern true w }
      | 8 => { b with spo := w }
      | _ => { b with en := w.getLsbD 0 }) })
  else if 0x140 ≤ off ∧ off < 0x240 then
    let r := (off - 0x140) / 32
    match (off - 0x140) % 32 with
    | 0 => s.modVtr f r (fun v => { v with base := setHalf64 v.base false w })
    | 4 => s.modVtr f r (fun v => { v with base := setHalf64 v.base true w })
    | 8 => s.modVtr f r (fun v => { v with len := w })
    | 12 => if w.getLsbD 0 then armVtr s f r else s.modVtr f r (fun v => { v with en := false, pages := [], armed := 0 })
    | _ => s
  else s

end Sys2Proof.Machine
end

