-- ==== Sys2Proof/Machine/Alarm.lean ====
section
/-! DEFINITION. Security and errors: firmware, keys, SPDM, alarms, ECC; and bring-up, power and reset (18 R400 to R410). -/

namespace Sys2Proof.Machine

/-! ## Alarms -/

/-- The policy of a source: 0 COUNT, 1 ALARM, 2 ERASE (18 R403). -/
def alarmPolicy (p : W32) (src : Nat) : Nat := (p.extractLsb' (2 * src) 2).toNat

/-- A source fires under its policy: counted; logged; the keys erased (18 R403). -/
def fireAlarm (s : State) (src : Nat) : State :=
  let p := alarmPolicy s.conf.alarmpol src
  let s := { s with conf := { s.conf with alarmcnt := listAdj s.conf.alarmcnt src satInc32 } }
  let s := if 1 ≤ p then elog s 3 0xFF src 0xFFFF 0 0 else s
  if p = 2 then { s with conf := { s.conf with keygone := true } } else s

/-- VGLITCH (18 R403). -/
def execVglitch (s : State) : Res := .next (fireAlarm s 0)
/-- CGLITCH (18 R403). -/
def execCglitch (s : State) : Res := .next (fireAlarm s 1)
/-- LID (18 R403). -/
def execLid (s : State) : Res := .next (fireAlarm s 2)
/-- THERM (18 R403, R410). -/
def execTherm (s : State) : Res := .next (fireAlarm s 5)

/-- One source's policy under a write: 3 leaves it; under LOCK it is only raised (18 R403). -/
def newPolicy (lock : Bool) (old new : Nat) : Nat :=
  if new = 3 then old else if lock && decide (new < old) then old else new

/-- ALARMPOL after a write (18 R403). -/
def alarmPolPut (old w : W32) : W32 :=
  let lock := old.getLsbD 31
  BitVec.ofNat 32 ((List.range 6).foldl (fun n k => n + newPolicy lock (alarmPolicy old k) (alarmPolicy w k) * 4 ^ k) 0) |||
    (if lock || w.getLsbD 31 then 0x80000000 else 0)

/-- A write to ALARMPOL. -/
def putAlarmPol (s : State) (w : W32) : State := { s with conf := { s.conf with alarmpol := alarmPolPut s.conf.alarmpol w } }
/-- ALARMPOL_WRITE (18 R403). -/
def execAlarmpolWrite (value : W32) (s : State) : Res := .next (putAlarmPol s value)

/-! ## Firmware -/

/-- The bytes of an ECDSA P-384 signature, r then s. -/
def ecdsaLen : Nat := 96
/-- The bytes of an HSS signature of two levels of LMS_SHA256_M24_H20 with LMOTS_SHA256_N24_W4 (18 R400): the level count, a
signature of 1,740 bytes on a public key of 48, that key, and a signature of 1,740. -/
def hssLen : Nat := 4 + 1740 + 48 + 1740

/-- The image at FWADDR: 0 staged, 2 a signature refused, 3 its version refused (18 R400). Its header holds the magic, the length
and the version in its first three words; the two signatures follow the payload at once, in their standards' sizes.
 [log 115: PRESUMED, unsafe] -/
def imageVerdict (s : State) : Nat :=
  let a := s.conf.fwaddr.toNat
  let n := leNat (s.bytesAt (a + 4) 4)
  if hostFrames s a 64 = false ∨ hostFrames s a (64 + n + ecdsaLen + hssLen) = false then 2
  else if leNat (s.bytesAt a 4) ≠ 0x4B465435 ∨ Config.imageVerifies (s.bytesAt a (64 + n + ecdsaLen + hssLen)) = false then 2
  else if leNat (s.bytesAt (a + 8) 4) < Config.fusedVersion then 3
  else 1

/-- A write to FWCOMMIT: 1 checks and stages the image; other values do nothing (18 R400). -/
def fwCommit (s : State) (w : W32) : State :=
  if w ≠ 1 then s
  else
    let v := imageVerdict s
    let s := { s with conf := { s.conf with fwstat := v } }
    if v = 1 then { s with sec := { s.sec with staged := some s.conf.fwaddr } } else fireAlarm s 4
/-- FWCOMMIT (18 R400). -/
def execFwcommit (value : W32) (s : State) : Res := .next (fwCommit s value)

/-! ## SPDM -/

/-- DOE mailboxes are those of PF 0 and PF 1 (18 R402). -/
def onDoe (pf : Nat) (t : State) : Res := if pf < 2 then .next t else .fault .notEnabled

/-- An SPDM response on a PF's DOE mailbox. Its codes are SPDM's, and an error's body its one code. -/
def spdmSend (s : State) (pf code : Nat) (body : List Nat) : State :=
  ({ s with free := s.free + 1 }).send (.spdm pf code body)
/-- An SPDM ERROR response (18 R402). -/
def spdmError (s : State) (pf code : Nat) : State := s.send (.spdm pf 0x7F [code])

/-- n bytes whose values the manual does not give. Each response's length is SPDM 1.3's, the model's choice.
 -/
def spdmFree (s : State) (n : Nat) : List Nat := (List.range n).map (Config.spdmByte s.free)

/-- Some bytes as numbers. -/
def nats (b : List Byte) : List Nat := b.map BitVec.toNat

/-- A SHA-384 digest. -/
def digest (b : List Nat) : List Nat := (List.range 48).map (Config.sha384 b)

/-- A certificate: its body with an ECDSA and an HSS signature (00 R9). -/
def certificate (b : List Nat) : List Nat := b ++ Config.certEcdsa b ++ Config.certHss b

/-- Slot 0: its length, the digest of the root, and the chain (18 R402). [log 116: PRESUMED, unsafe] -/
def certChain : List Nat :=
  let certs := (Config.certBodies.map certificate).flatten
  nats (leBytes 2 (52 + certs.length)) ++ [0, 0] ++ digest ((Config.certBodies.map certificate).headD []) ++ certs

/-- What measurement i measures (18 R402). -/
def measured (s : State) (i : Nat) : List Nat :=
  let k := s.conf
  if i ≤ 3 then Config.measured i s.sec.fwGen
  else if i = 4 then nats (leBytes 4 k.alarmpol.toNat)
  else if i = 5 then
    nats ([k.ftbase, k.qtbase, k.mftbase, k.wtbase, k.fotbase, k.heapspa, k.elogbase].flatMap (fun b => leBytes 8 b.toNat) ++ leBytes 4 k.startst)
  else nats (leBytes 8 (2 ^ 40 - s.sec.hssUsed))

/-- A measurement block: index, specification, size, kind, size of the value, and a digest. -/
def measureBlock (s : State) (i : Nat) : List Nat :=
  [i, 1, 51, 0, if i = 1 then 0 else if i ≤ 3 then 1 else 3, 48, 0] ++ digest (measured s i)

/-- The measurements an index names: all, one, or none but their number. -/
def measureRecord (s : State) (index : Nat) : List Nat :=
  (if index = 0 then [] else if index = 0xFF then [1, 2, 3, 4, 5, 6] else [index]).flatMap (measureBlock s)

/-- OpaqueData (18 R402): one element, 6 bytes of vendor ID, id and length before it, that holds the HSS signature by key state
h. -/
def opaqueData (s : State) (h : Nat) : List Nat :=
  [1, 0, 0, 0] ++ (List.range 6).map (fun k => Config.spdmByte s.free (65536 + k)) ++ (List.range hssLen).map (Config.hssByte h) ++
    [0, 0]

/-- A signed response's body: its own bytes, OpaqueData with the HSS signature, the requester's 8 bytes of context, and the ECDSA
signature: both of 00 R9 (18 R402). -/
def signedBody (s : State) (h : Nat) (b : List Nat) : List Nat :=
  b ++ opaqueData s h ++ (List.range 8).map (fun k => Config.spdmByte s.free (131072 + k)) ++
    (List.range ecdsaLen).map (Config.ecdsaByte s.free)

/-- A response that needs a negotiation on its mailbox first: without one, ERROR UnexpectedRequest. -/
def spdmAfter (s : State) (pf : Nat) (t : State) : State := if s.sec.negotiated.getLsbD pf then t else spdmError s pf 4

/-- A signed response over some bytes: ERROR Unspecified once the keys are gone or the HSS state is exhausted; else the HSS state
advances before the response leaves with both signatures (18 R401 to R403). -/
def spdmSigned (s : State) (pf code : Nat) (b : List Nat) : State :=
  if s.conf.keygone ∨ 2 ^ 40 ≤ s.sec.hssUsed then spdmError s pf 5
  else spdmSend { s with sec := { s.sec with hssUsed := s.sec.hssUsed + 1 } } pf code (signedBody s s.sec.hssUsed b)

/-- GET_VERSION (18 R402): 1.3 only; a negotiation starts over. -/
def execGetVersion (pf : Nat) (s : State) : Res :=
  onDoe pf (({ s with sec := { s.sec with negotiated := s.sec.negotiated &&& ~~~((1 : BitVec 2) <<< pf) } }).send (.spdm pf 0x04 [0x13]))
/-- The 20 bytes of CAPABILITIES: certificates, challenges and signed measurements; what sizes and times it names are not given. -/
def capabilities (s : State) : List Nat := [0x13, 0x61, 0, 0, 0] ++ spdmFree s 1 ++ [0, 0, 0x16, 0, 0, 0] ++ spdmFree s 8

/-- The 52 bytes of ALGORITHMS: measurements of SHA-384, ECDSA P-384 with SHA-384, and no key exchange, AEAD or requester signature. -/
def algorithms : List Nat :=
  [0x13, 0x63, 4, 0, 52, 0, 1, 2, 4, 0, 0, 0, 0x80, 0, 0, 0, 2, 0, 0, 0] ++ List.replicate 16 0 ++
    [2, 0x20, 0, 0, 3, 0x20, 0, 0, 4, 0x20, 0, 0, 5, 0x20, 0, 0]

/-- GET_CAPABILITIES (18 R402). -/
def execGetCapabilities (pf : Nat) (s : State) : Res := onDoe pf (spdmSend s pf 0x61 (capabilities s))
/-- NEGOTIATE_ALGORITHMS (18 R402). -/
def execNegotiateAlgorithms (pf : Nat) (s : State) : Res :=
  onDoe pf (spdmSend { s with sec := { s.sec with negotiated := s.sec.negotiated ||| 1 <<< pf } } pf 0x63 algorithms)
/-- GET_DIGESTS (18 R402): of slot 0. -/
def execGetDigests (pf : Nat) (s : State) : Res := onDoe pf (spdmAfter s pf (spdmSend s pf 0x01 ([0x13, 0x01, 1, 1] ++ digest certChain)))
/-- GET_CERTIFICATE (18 R402): of slot 0 only, as many bytes from an offset as are asked for and there. -/
def execGetCertificate (pf slot offset length : Nat) (s : State) : Res :=
  let part := (certChain.drop offset).take length
  onDoe pf (spdmAfter s pf (if slot ≠ 0 ∨ certChain.length ≤ offset then spdmError s pf 1
    else spdmSend s pf 0x02 ([0x13, 0x02, 0, 0] ++ nats (leBytes 2 part.length) ++ nats (leBytes 2 (certChain.length - offset - part.length)) ++
      part)))

/-- The 134 bytes before OpaqueData of CHALLENGE_AUTH: the digest of the chain, a nonce and the digest of all measurements. -/
def challengeAuth (s : State) : List Nat :=
  [0x13, 0x03, 0, 1] ++ digest certChain ++ spdmFree s 32 ++ digest (measureRecord s 0xFF) ++ nats (leBytes 2 (12 + hssLen))

/-- CHALLENGE (18 R402): of slot 0, signed. -/
def execChallenge (pf slot _nonce : Nat) (s : State) : Res :=
  onDoe pf (spdmAfter s pf (if slot ≠ 0 then spdmError s pf 1 else spdmSigned s pf 0x03 (challengeAuth s)))

/-- The bytes of a MEASUREMENTS response before OpaqueData of o bytes: the number of measurements where that is asked for, the record and
a nonce. -/
def measurements (s : State) (index o : Nat) : List Nat :=
  let r := measureRecord s index
  [0x13, 0x60, if index = 0 then 6 else 0, 0, r.length / 55] ++ nats (leBytes 3 r.length) ++ r ++ spdmFree s 32 ++ nats (leBytes 2 o)

/-- GET_MEASUREMENTS (18 R402): one of six, all, or their number. -/
def execGetMeasurements (pf index : Nat) (signed : Bool) (_nonce : Nat) (s : State) : Res :=
  onDoe pf (spdmAfter s pf
    (if 6 < index ∧ index ≠ 0xFF then spdmError s pf 1
      else if signed then spdmSigned s pf 0x60 (measurements s index (12 + hssLen))
      else spdmSend s pf 0x60 (measurements s index 0 ++ (List.range 8).map (fun k => Config.spdmByte s.free (131072 + k)))))

/-- Any other request on a DOE mailbox (18 R402): ERROR UnsupportedRequest. None for the requests that are supported. -/
def spdmOther (s : State) (pf code : Nat) : Res :=
  if [0x84, 0xE1, 0xE3, 0x81, 0x82, 0x83, 0xE0].contains code then .fault .notEnabled else onDoe pf (spdmError s pf 7)

/-- DEBUG_UNLOCK_CHALLENGE (18 R403): the fourth failure in a row fires DBGAUTH. [log 117: DEDUCED, unsafe] -/
def execDebugUnlockChallenge (ok : Bool) (s : State) : Res :=
  let n := if ok then 0 else s.sec.dbgFails + 1
  let s := { s with sec := { s.sec with dbgFails := n } }
  .next (if n = 4 then fireAlarm s 3 else s)

/-- DOE_DISCOVERY (18 R390): protocol 0, discovery, and protocol 1, SPDM, of vendor 1. -/
def execDoeDiscovery (pf index : Nat) (s : State) : Res :=
  onDoe pf (s.send (.spdm pf 0 (if index = 0 then [1, 0, 1] else if index = 1 then [1, 1, 0] else [0xFFFF, 0, 0])))

/-! ## ECC -/

/-- Where the metadata of a block of a function lies, by its block number (03 R80). -/
def metaSpa (s : State) (f block : Nat) : Option Nat :=
  match stage2 { vf := f, cache := [], k := s.free } s ((s.func f).etbase.toNat + 8 * block) { bits := 0, u := false } true with
  | .page x _ _ => some x
  | _ => none

/-- The metadata word of the elided block that an address of HBM4 belongs to, by its payload or its metadata, as the TLBs know elided
pages (03 R80, R83). [log 120: DEDUCED, unsafe] -/
def elidedMeta (s : State) (spa : Nat) : Option Nat :=
  let es := (s.cores.flatMap (fun p => p.2.tlb) ++ s.clusters.flatMap (fun p => p.2.tlb2)).filter (fun e => e.elide)
  es.findSome? (fun e =>
    if e.spa ≤ spa ∧ spa < e.spa + 2 ^ e.size then metaSpa s e.vf ((e.gpa + (spa - e.spa)) / 256)
    else
      ((List.range (2 ^ e.size / 256)).findSome? (fun i =>
        match metaSpa s e.vf (e.gpa / 256 + i) with
        | some x => if x = spa / 8 * 8 then some x else none
        | none => none)))

/-- Counts an ECC error of a stack (18 R404, R407). -/
def stackCount (s : State) (n : Nat) (bad : Bool) : State :=
  { s with conf := { s.conf with stackcnt := listAdj s.conf.stackcnt n (fun c => if bad then (c.1, satInc64 c.2) else (satInc64 c.1, c.2)) } }

/-- HBM_ECC_ERROR (18 R404; 03 R83). -/
def execHbmEccError (spa : Nat) (uncorrectable : Bool) (s : State) : Res :=
  if hbmEnd ≤ spa then .fault .notEnabled
  else
    let n := spa / 2 ^ 36
    let s := stackCount s n uncorrectable
    if uncorrectable = false then .next s
    else
      let s := match elidedMeta s spa with
        | some m => selfWrite s partWriter m (leBytes 8 3)
        | none => { s with memPois := setIns s.memPois (spa / 64), eccs := setIns s.eccs spa }
      .next (elog s 5 0xFF n 0xFFFF (BitVec.ofNat 64 (64 * (spa / 64))) 0)

/-- Counts an SRAM error of a core (18 R404, R406). -/
def coreEcc (s : State) (c : Nat) (bad : Bool) : State :=
  s.modCore c (fun k => if bad then { k with uncorr := satInc32 k.uncorr } else { k with corr := satInc32 k.corr })

/-- Poisons a register word of a wave by its class and word number in its area (02 R46; 18 R404); p15 is no stored word, and an
accumulator's word lies in Z. -/
def poisonReg (s : State) (c w cls i : Nat) : State :=
  match cls with
  | 0 => s.modWave c w (fun v => { v with regs := { v.regs with vpois := setIns v.regs.vpois i } })
  | 1 => s.modWave c w (fun v => { v with regs := { v.regs with upois := setIns v.regs.upois i } })
  | 2 =>
    if i = 15 then s
    else s.modWave c w (fun v => { v with regs := { v.regs with
      ppois := (List.range 32).foldl (fun p l => setIns p (32 * i + l)) v.regs.ppois } })
  | 3 => s.modWave c w (fun v => { v with regs := { v.regs with tpois := setIns v.regs.tpois i } })
  | 4 =>
    match (s.slot? c w).bind (fun t => t.wave.zmap[i / 4096]?) with
    | some z => s.modCore c (fun k => { k with zpois := setIns k.zpois (4096 * z + i % 4096) })
    | none => s
  | _ => s

/-- Zeroes a poisoned register word, as every reader takes it (03 R84). [log 17: DEDUCED, unsafe] -/
def zeroReg (s : State) (c w cls i : Nat) : State :=
  s.modWave c w (fun v => { v with regs := match cls with
    | 0 => v.regs.write (.v (i / 32) (i % 32)) 0
    | 1 => v.regs.write (.u i) 0
    | 2 => if i = 15 then v.regs else { v.regs with pred := Tab.put (0 : Mask) v.regs.pred i 0 }
    | 3 => v.regs.write (.t (i / 8) (i % 8)) 0
    | _ => v.regs })

/-- Poisons a local word: 0 G, 1 W, 2 X, 3 Z (03 R83; 18 R404). -/
def poisonLocal (s : State) (c buf gang w : Nat) : State :=
  match buf with
  | 0 => s.modGang c gang (fun g => { g with gpois := setIns g.gpois w })
  | 1 => s.modCore c (fun k => { k with wpois := setIns k.wpois w })
  | 2 => s.modCore c (fun k => { k with xpois := setIns k.xpois w })
  | _ => s.modCore c (fun k => { k with zpois := setIns k.zpois w })

/-- Counts an LLC or tag-store error (18 R404). -/
def llcEcc (s : State) (bad : Bool) : State :=
  { s with llcCnt := if bad then (s.llcCnt.1, satInc64 s.llcCnt.2) else (satInc64 s.llcCnt.1, s.llcCnt.2) }

/-- SRAM_ECC_ERROR (18 R404). -/
def execSramEccError (site : SramSite) (uncorrectable : Bool) (s : State) : Res :=
  match site, uncorrectable with
  | .register c _ _ _, false => .next (coreEcc s c false)
  | .localWord c _ _ _, false => .next (coreEcc s c false)
  | .llc _, false => .next (llcEcc s false)
  | .tag _ _ _, false => .next (llcEcc s false)
  | .register c w cls i, true =>
    .next (elog (coreEcc (poisonReg (zeroReg s c w cls i) c w cls i) c true) 6 0xFF 0 c 0 0)
  | .localWord c buf g w, true => .next (elog (coreEcc (poisonLocal s c buf g w) c true) 6 0xFF 0 c (BitVec.ofNat 64 (4 * w)) 0)
  | .llc spa, true =>
    .next (elog (llcEcc { s with llcPois := setIns s.llcPois (spa / 4) } true) 6 0xFF 0 0xFFFF (BitVec.ofNat 64 spa) 0)
  | .tag n set_ way, true => .next (elog (llcEcc (dropEntry s n (16 * set_ + way)) true) 6 0xFF n 0xFFFF 0 0)

/-! ## Bring-up -/

/-- A readiness bit changed (18 R393, R409). -/
def readyEvent (s : State) : State := msixEvent s 0 5

/-- STACK_TRAINED (18 R408): zero in all of the stack's memory. A START that waited for the last one is performed. -/
def execStackTrained (stack : Nat) (s : State) : Res :=
  if 8 ≤ stack ∨ s.rdy.hbm.getLsbD stack = true then .fault .notEnabled
  else
    let here (a : Nat) : Bool := decide (a / 2 ^ 36 = stack)
    let t := readyEvent { s with
      mem := s.mem.filter (fun p => !here p.1), memPois := s.memPois.filter (fun l => !here (64 * l)),
      rdy := { s.rdy with hbm := s.rdy.hbm ||| (1 <<< stack) } }
    .next (if t.conf.startWait = true ∧ t.rdy.hbm = (0xFF : BitVec 8) then startWith t else t)

/-- A core reports: registers and local buffers zero; it serves its cluster's function; its clock counts on from its reset (00 R3; 16
R370; 18 R408). [log 133: DEDUCED, unsafe] -/
def coreReady (s : State) (c : Nat) : State :=
  let k := s.core c
  s.setCore c { Core.idle with
    ready := true, vf := servedBy s (clusterOf c), clock := k.clock + s.bootCc, reviewed := k.reviewed + s.bootCc }

/-- UNIT_READY (18 R408, R409): slices, cores, Deckles and the Whisk after START; the Sieve once its firmware verified. [log 127: DEDUCED, unsafe] -/
def execUnitReady (unit : ReadyUnit) (s : State) : Res :=
  let ok (t : State) : Res := .next (readyEvent t)
  match unit with
  | .port n =>
    if n = 0 ∧ s.rdy.portA = false then ok { s with rdy := { s.rdy with portA := true } }
    else if n = 1 ∧ s.rdy.portB = false then ok { s with rdy := { s.rdy with portB := true } }
    else .fault .notEnabled
  | .sieve =>
    if s.rdy.sieve = false ∧ s.sec.fwOk = true then ok { s with rdy := { s.rdy with sieve := true } } else .fault .notEnabled
  | .whisk => if s.conf.startst ≠ 1 ∨ s.rdy.whisk = true then .fault .notEnabled else ok { s with rdy := { s.rdy with whisk := true } }
  | .deckle d =>
    if 16 ≤ d ∨ s.conf.startst ≠ 1 ∨ s.rdy.deckles.getLsbD d = true then .fault .notEnabled
    else ok { s with rdy := { s.rdy with deckles := s.rdy.deckles ||| (1 <<< d) } }
  | .slice n =>
    if 128 ≤ n ∨ s.conf.startst ≠ 1 ∨ (s.slice n).ready = true then .fault .notEnabled
    else ok (s.modSlice n (fun _ => { Slice.idle with ready := true }))
  | .core c =>
    if 512 ≤ c ∨ s.conf.startst ≠ 1 ∨ (s.core c).ready = true then .fault .notEnabled else ok (coreReady s c)

/-! ## Reset and power -/

/-- What outlives a reset and a loss of power: signatures used, the staged image, the loss of the keys; and what is the model's own. -/
def keepOver (s : State) (r : State) : State :=
  { r with
    sec := { r.sec with hssUsed := s.sec.hssUsed, staged := s.sec.staged, fwGen := s.sec.fwGen },
    conf := { r.conf with keygone := s.conf.keygone },
    outbox := s.outbox, agenda := s.agenda, free := s.free + 1 }

/-- RESET (18 R400, R408): every register at its reset state; a staged image takes effect. Not while the module holds the package in
reset after an overtemperature (18 R410). [log 114: DEDUCED, unsafe] -/
def execReset (s : State) : Res :=
  if s.sec.overtemp then .fault .notEnabled
  else
    let t := keepOver s State.reset
    .next { t with sec := { t.sec with staged := none, fwGen := s.sec.fwGen + (if s.sec.staged.isSome then 1 else 0), fwOk := s.sec.staged.isSome || Config.bootVerifies s.free } }

/-- OVERTEMP_SHUTDOWN (18 R410): power is removed until the supply is cycled. -/
def execOvertempShutdown (s : State) : Res :=
  let t := keepOver s State.reset
  .next (({ t with powered := false, sec := { t.sec with overtemp := true } }).send .powerOff)

/-- POWER_LOSS (18 R401, R410): what is volatile is lost. -/
def execPowerLoss (s : State) : Res :=
  let t := keepOver s State.reset
  .next { t with powered := false }

end Sys2Proof.Machine
end

