-- ==== Sys2Proof/Machine/Control.lean ====
section
/-! DEFINITION. Transfers, EXIT, TRAP, BRK, RTE, and the wave status words SRD and SWR (07 R154, R155, R171 to R173; 14
R318). -/

namespace Sys2Proof.Machine

/-- What each active lane does at the end of the run (06 R133). -/
def actAtEnd (x : Ctx) (f : Fields) (a : Nat → EndAct) (s : State) : State :=
  s.modGroup x.core x.quarter x.port (fun g => { g with acts := g.acts ++ (x.active f).map (fun l => (l, a l)) })

/-- The target of a direct transfer (07, "Transfers"). -/
def directTarget (x : Ctx) (f : Fields) : W64 := x.g.pro + (f.imm.signExtend 64 <<< 4)

/-- The link of CALL and CALLX: the block's fall-through address (07 R154). -/
def writeLink (x : Ctx) (f : Fields) (s : State) : State :=
  writeEnd x f ((x.destLanes f).flatMap (fun l => wr64 f.dst l (fallThrough x.g.pro x.g.hdr))) s

/-- NOP (07 R154). -/
def execNop (f : Fields) (s : State) : Res := issueWord 0x00 f s (fun _ s => s)

/-- BRA (07 R154). -/
def execBra (f : Fields) (s : State) : Res :=
  issueWord 0x01 f s (fun x s => actAtEnd x f (fun _ => .jump (directTarget x f) .none) s)

/-- BRX (07 R154, R155). -/
def execBrx (f : Fields) (s : State) : Res :=
  issueWord 0x02 f s (fun x s => actAtEnd x f (fun l => .jump (x.rd64 f f.a l) .ind) s)

/-- CALL (07 R154, R155). -/
def execCall (f : Fields) (s : State) : Res :=
  issueWord 0x03 f s (fun x s => writeLink x f (actAtEnd x f (fun _ => .jump (directTarget x f) .call) s))

/-- CALLX (07 R154, R155). -/
def execCallx (f : Fields) (s : State) : Res :=
  issueWord 0x04 f s (fun x s => writeLink x f (actAtEnd x f (fun l => .jump (x.rd64 f f.a l) .call) s))

/-- RET (07 R154, R155). -/
def execRet (f : Fields) (s : State) : Res :=
  issueWord 0x05 f s (fun x s => actAtEnd x f (fun l => .jump (x.rd64 f f.a l) .none) s)

/-- EXIT (07 R154; 01 R11). -/
def execExit (f : Fields) (s : State) : Res := issueWord 0x06 f s (fun x s => actAtEnd x f (fun _ => .exit) s)

/-- TRAP (07 R171): cause USER. -/
def execTrap (f : Fields) (s : State) : Res :=
  issueWord 0xF0 f s (fun x s => actAtEnd x f (fun _ => .trap 21 (f.imm.setWidth 64) x.idx) s)

/-- BRK (07 R171): cause BREAK while BRKEN is set, else nothing. -/
def execBrk (f : Fields) (s : State) : Res :=
  issueWord 0xF1 f s (fun x s =>
    if x.wv.wstat.getLsbD 8 then actAtEnd x f (fun _ => .trap 22 (f.imm.setWidth 64) x.idx) s else s)

/-- RTE (14 R318). -/
def execRte (f : Fields) (s : State) : Res := issueWord 0xF4 f s (fun x s => actAtEnd x f (fun _ => .rte) s)

/-- LOGUSE: operand-log entries the wave holds (07 R172). -/
def Wave.loguse (w : Wave) : Nat := w.logEntries

/-- A user special register (07 R172). -/
def userReg (x : Ctx) (srn : Nat) : W32 :=
  match srn with
  | 0 => x.wstat
  | 1 => BitVec.ofNat 32 x.wv.rsdepth
  | _ => BitVec.ofNat 32 x.wv.loguse

/-- SRD (07 R172). -/
def execSrd (f : Fields) (s : State) : Res :=
  issueWord 0xF2 f s (fun x s => writeEnd x f ((x.destLanes f).flatMap (fun l => wr32 f.dst l (userReg x (f.m 0 8)))) s)

/-- SWR: WSTAT bits 7:0 become g of the bits as they stand and the source, when any lane is active; of two words of one cc port 1's acts
on what port 0's left (07 R173). -/
def swr (f : Fields) (s : State) (g : BitVec 8 → BitVec 8 → BitVec 8) : Res :=
  issueWord 0xF3 f s (fun x s =>
    match x.active f with
    | [] => s
    | l :: _ =>
      let a := (x.rd f f.a l).setWidth 8
      s.modWave x.core x.wid (fun w =>
        { w with wstat := (w.wstat &&& 0xFFFFFF00) ||| (g (w.wstat.setWidth 8) a).setWidth 32 }))

/-- SWR with WOP WRITE (07 R173). -/
def execSwrWrite (f : Fields) (s : State) : Res := swr f s (fun _ a => a)
/-- SWR with WOP SET (07 R173). -/
def execSwrSet (f : Fields) (s : State) : Res := swr f s (fun o a => o ||| a)
/-- SWR with WOP CLEAR (07 R173). -/
def execSwrClear (f : Fields) (s : State) : Res := swr f s (fun o a => o &&& ~~~a)

end Sys2Proof.Machine
end

