-- ==== Sys2Proof/Machine/IntAlu.lean ====
section
/-! DEFINITION. Integer arithmetic and logic, shifts and fields, compares, selects, moves and predicate words: rows 0x2, 0x3
and 0x4 (07 R163 to R170). -/

namespace Sys2Proof.Machine

/-! ## Row 0x2 -/

/-- IADD (07 R163). -/
def execIadd (f : Fields) (s : State) : Res := alu32 0x20 f s (fun x l => x.rd f f.a l + x.rd f f.b l)
/-- ISUB (07 R163). -/
def execIsub (f : Fields) (s : State) : Res := alu32 0x21 f s (fun x l => x.rd f f.a l - x.rd f f.b l)

/-- IADDC and ISUBB: the 32-bit result, and the carry or borrow into predicate PCO (07 R163). -/
def carryWord (op : Nat) (f : Fields) (s : State) (g : Int → Int → Int → Int) (c : Int → Bool) : Res :=
  issueWord op f s (fun x s =>
    let t (l : Nat) : Int := g (x.rd f f.a l).toNat (x.rd f f.b l).toNat (if x.rdP f.c l then 1 else 0)
    let s := writeNow x f ((x.destLanes f).flatMap (fun l => wr32 f.dst l (BitVec.ofInt 32 (t l)))) s
    writeFile x ((x.destLanes f).map (fun l => ⟨.p (f.m 0 4) l, if c (t l) then 1 else 0⟩)) s)

/-- IADDC (07 R163). -/
def execIaddc (f : Fields) (s : State) : Res :=
  carryWord 0x22 f s (fun a b c => a + b + c) (fun t => decide (2 ^ 32 ≤ t))
/-- ISUBB (07 R163). -/
def execIsubb (f : Fields) (s : State) : Res :=
  carryWord 0x23 f s (fun a b c => a - b - c) (fun t => decide (t < 0))

/-- IADDS and ISUBS: Sat to S32 or N32, which sets SAT when it changes the value (07 R163; 05 R121). -/
def satWord (op : Nat) (f : Fields) (s : State) (g : Int → Int → Int) : Res :=
  issueWord op f s (fun x s =>
    let r (l : Nat) : Int × Exc := satInt (f.m 0 1 == 0) 32 (g (ns32 (f.m 0 1) (x.rd f f.a l)) (ns32 (f.m 0 1) (x.rd f f.b l)))
    let ls := x.destLanes f
    orExc x ((ls.map (fun l => (r l).2)).foldl (· ||| ·) 0)
      (writeNow x f (ls.flatMap (fun l => wr32 f.dst l (BitVec.ofInt 32 (r l).1))) s))

/-- IADDS (07 R163). -/
def execIadds (f : Fields) (s : State) : Res := satWord 0x24 f s (· + ·)
/-- ISUBS (07 R163). -/
def execIsubs (f : Fields) (s : State) : Res := satWord 0x25 f s (· - ·)
/-- ISUM3 (07 R163). -/
def execIsum3 (f : Fields) (s : State) : Res := alu32 0x26 f s (fun x l => x.rd f f.a l + x.rd f f.b l + x.rd f f.c l)
/-- INEG (07 R163). -/
def execIneg (f : Fields) (s : State) : Res := alu32 0x27 f s (fun x l => 0 - x.rd f f.a l)
/-- IABS (07 R163). -/
def execIabs (f : Fields) (s : State) : Res :=
  alu32 0x28 f s (fun x l => let a := x.rd f f.a l; if a.msb then 0 - a else a)
/-- IABSD (07 R163). -/
def execIabsd (f : Fields) (s : State) : Res :=
  alu32 0x29 f s (fun x l =>
    let d := ns32 (f.m 0 1) (x.rd f f.a l) - ns32 (f.m 0 1) (x.rd f f.b l)
    BitVec.ofNat 32 d.natAbs + x.rd f f.c l)
/-- IXADD (07 R163). -/
def execIxadd (f : Fields) (s : State) : Res :=
  alu64 0x2A f s (fun x l =>
    let a := x.rd f f.a l
    let e : W64 := if f.m 3 1 = 1 then a.signExtend 64 else a.setWidth 64
    x.rd64 f f.b l + (e <<< f.m 0 3))
/-- AND (07 R163). -/
def execAnd (f : Fields) (s : State) : Res := alu32 0x2B f s (fun x l => x.rd f f.a l &&& x.rd f f.b l)
/-- OR (07 R163). -/
def execOr (f : Fields) (s : State) : Res := alu32 0x2C f s (fun x l => x.rd f f.a l ||| x.rd f f.b l)
/-- XOR (07 R163). -/
def execXor (f : Fields) (s : State) : Res := alu32 0x2D f s (fun x l => x.rd f f.a l ^^^ x.rd f f.b l)
/-- NOT (07 R163). -/
def execNot (f : Fields) (s : State) : Res := alu32 0x2E f s (fun x l => ~~~(x.rd f f.a l))

/-- A 32-bit word from its bits. -/
def ofBits32 (g : Nat → Bool) : W32 := (List.range 32).foldl (fun v n => if g n then v ||| (1 <<< n) else v) 0

/-- BLUT3 (07 R163). -/
def execBlut3 (f : Fields) (s : State) : Res :=
  alu32 0x2F f s (fun x l =>
    let a := x.rd f f.a l
    let b := x.rd f f.b l
    let c := x.rd f f.c l
    ofBits32 (fun n => lut3 f.imm (a.getLsbD n) (b.getLsbD n) (c.getLsbD n)))

/-! ## Row 0x3 -/

/-- IMUL (07 R164). -/
def execImul (f : Fields) (s : State) : Res := alu32 0x30 f s (fun x l => x.rd f f.a l * x.rd f f.b l)
/-- IMULHI (07 R164). -/
def execImulhi (f : Fields) (s : State) : Res :=
  alu32 0x31 f s (fun x l =>
    BitVec.ofInt 32 ((ns32 (f.m 0 1) (x.rd f f.a l) * ns32 (f.m 0 1) (x.rd f f.b l)) / 2 ^ 32))
/-- IMAD (07 R164). -/
def execImad (f : Fields) (s : State) : Res :=
  alu32 0x32 f s (fun x l => x.rd f f.a l * x.rd f f.b l + x.rd f f.c l)
/-- IMADW (07 R164). -/
def execImadw (f : Fields) (s : State) : Res :=
  alu64 0x33 f s (fun x l =>
    BitVec.ofInt 64 (ns32 (f.m 0 1) (x.rd f f.a l) * ns32 (f.m 0 1) (x.rd f f.b l)) + x.rd64 f f.c l)

/-- The shift amount of SHL, SHR and SAR: b mod 32, or b under CLAMP, where 32 stands for anything above (07 R165). -/
def shiftAmount (f : Fields) (b : W32) : Nat := if f.m 0 1 = 0 then b.toNat % 32 else min b.toNat 32

/-- SHL (07 R164, R165). -/
def execShl (f : Fields) (s : State) : Res := alu32 0x34 f s (fun x l => x.rd f f.a l <<< shiftAmount f (x.rd f f.b l))
/-- SHR (07 R164, R165). -/
def execShr (f : Fields) (s : State) : Res := alu32 0x35 f s (fun x l => x.rd f f.a l >>> shiftAmount f (x.rd f f.b l))
/-- SAR (07 R164, R165). -/
def execSar (f : Fields) (s : State) : Res :=
  alu32 0x36 f s (fun x l => (x.rd f f.a l).sshiftRight (shiftAmount f (x.rd f f.b l)))
/-- ROTL (07 R164). -/
def execRotl (f : Fields) (s : State) : Res :=
  alu32 0x37 f s (fun x l => (x.rd f f.a l).rotateLeft ((x.rd f f.b l).toNat % 32))
/-- ROTR (07 R164). -/
def execRotr (f : Fields) (s : State) : Res :=
  alu32 0x38 f s (fun x l => (x.rd f f.a l).rotateRight ((x.rd f f.b l).toNat % 32))
/-- FUNNEL (07 R164). -/
def execFunnel (f : Fields) (s : State) : Res :=
  alu32 0x39 f s (fun x l =>
    (((x.rd f f.b l ++ x.rd f f.a l) : W64) >>> ((x.rd f f.c l).toNat % 64)).setWidth 32)

/-- A bit field of a 32-bit value, zero- or sign-extended (07 R166). -/
def bitField (ns : Nat) (a : W32) (pos len : Nat) : W32 :=
  if len = 0 ∨ 32 ≤ pos then 0
  else
    let w := min len (32 - pos)
    let v := a.toNat / 2 ^ pos % 2 ^ w
    if ns = 0 ∧ 2 ^ (w - 1) ≤ v then BitVec.ofInt 32 ((v : Int) - 2 ^ w) else BitVec.ofNat 32 v

/-- BFE (07 R166). -/
def execBfe (f : Fields) (s : State) : Res :=
  alu32 0x3A f s (fun x l =>
    bitField (f.m 0 1) (x.rd f f.a l) ((x.rd f f.b l).toNat % 256) ((x.rd f f.c l).toNat % 256))

/-- BFI (07 R166). -/
def execBfi (f : Fields) (s : State) : Res :=
  alu32 0x3B f s (fun x l =>
    let pos := (f.imm.extractLsb' 0 8).toNat
    let len := (f.imm.extractLsb' 8 8).toNat
    let m : W32 := BitVec.ofNat 32 ((2 ^ len - 1) * 2 ^ pos)
    (x.rd f f.b l &&& ~~~m) ||| ((x.rd f f.a l <<< pos) &&& m))

/-- POPC (07 R164). -/
def execPopc (f : Fields) (s : State) : Res :=
  alu32 0x3C f s (fun x l => BitVec.ofNat 32 (popcount 32 (x.rd f f.a l).toNat))
/-- CLZ (07 R164). -/
def execClz (f : Fields) (s : State) : Res :=
  alu32 0x3D f s (fun x l =>
    let a := (x.rd f f.a l).toNat
    BitVec.ofNat 32 (if a = 0 then 32 else 31 - a.log2))
/-- BREV (07 R164). -/
def execBrev (f : Fields) (s : State) : Res :=
  alu32 0x3E f s (fun x l => let a := x.rd f f.a l; ofBits32 (fun n => a.getLsbD (31 - n)))
/-- FFS (07 R164). -/
def execFfs (f : Fields) (s : State) : Res :=
  alu32 0x3F f s (fun x l => BitVec.ofNat 32 (lowestBit 32 (x.rd f f.a l).toNat))

/-! ## Row 0x4 -/

/-- ICMP (07 R167). -/
def execIcmp (f : Fields) (s : State) : Res :=
  aluB 0x40 f s (fun x l =>
    combine (f.m 4 2) (intRel (f.m 1 3) (ns32 (f.m 0 1) (x.rd f f.a l)) (ns32 (f.m 0 1) (x.rd f f.b l))) (x.rdP f.c l))
/-- ICMPW (07 R167). -/
def execIcmpw (f : Fields) (s : State) : Res :=
  aluB 0x41 f s (fun x l =>
    combine (f.m 4 2) (intRel (f.m 1 3) (ns64 (f.m 0 1) (x.rd64 f f.a l)) (ns64 (f.m 0 1) (x.rd64 f f.b l))) (x.rdP f.c l))
/-- SEL (07 R168). -/
def execSel (f : Fields) (s : State) : Res :=
  alu32 0x42 f s (fun x l => if x.rdP f.c l then x.rd f f.a l else x.rd f f.b l)
/-- SELW (07 R168). -/
def execSelw (f : Fields) (s : State) : Res :=
  alu64 0x43 f s (fun x l => if x.rdP f.c l then x.rd64 f f.a l else x.rd64 f f.b l)
/-- IMIN (07 R168). -/
def execImin (f : Fields) (s : State) : Res :=
  alu32 0x44 f s (fun x l => let a := x.rd f f.a l; let b := x.rd f f.b l
    if ns32 (f.m 0 1) a ≤ ns32 (f.m 0 1) b then a else b)
/-- IMAX (07 R168). -/
def execImax (f : Fields) (s : State) : Res :=
  alu32 0x45 f s (fun x l => let a := x.rd f f.a l; let b := x.rd f f.b l
    if ns32 (f.m 0 1) a ≤ ns32 (f.m 0 1) b then b else a)
/-- IMINW (07 R168). -/
def execIminw (f : Fields) (s : State) : Res :=
  alu64 0x46 f s (fun x l => let a := x.rd64 f f.a l; let b := x.rd64 f f.b l
    if ns64 (f.m 0 1) a ≤ ns64 (f.m 0 1) b then a else b)
/-- IMAXW (07 R168). -/
def execImaxw (f : Fields) (s : State) : Res :=
  alu64 0x47 f s (fun x l => let a := x.rd64 f f.a l; let b := x.rd64 f f.b l
    if ns64 (f.m 0 1) a ≤ ns64 (f.m 0 1) b then b else a)
/-- ICLAMP (07 R168). -/
def execIclamp (f : Fields) (s : State) : Res :=
  alu32 0x48 f s (fun x l =>
    let v := ns32 (f.m 0 1)
    BitVec.ofInt 32 (min (max (v (x.rd f f.a l)) (v (x.rd f f.b l))) (v (x.rd f f.c l))))
/-- MOV (07 R169). -/
def execMov (f : Fields) (s : State) : Res := alu32 0x49 f s (fun x l => x.rd f f.a l)
/-- MOVW (07 R169). -/
def execMovw (f : Fields) (s : State) : Res := alu64 0x4A f s (fun x l => x.rd64 f f.a l)

/-- Writes of a whole tile. -/
def wrTile (o : Opnd) (v : W256) : List RegWrite :=
  match o with
  | .tile i => (List.range 8).map (fun w => ⟨.t i.toNat w, tileWord v w⟩)
  | _ => []

/-- MOVT (07 R169): a tile copied, one word of a tile written, or one word read. -/
def execMovt (f : Fields) (s : State) : Res :=
  issueWord 0x4B f s (fun x s =>
    let ws (l : Nat) : List RegWrite :=
      match f.m 0 2, f.dst with
      | 0, d => wrTile d (x.rdT f.a)
      | 1, .tile i => [⟨.t i.toNat (f.m 2 3), x.rd f f.a l⟩]
      | _, d => wr32 d l (tileWord (x.rdT f.a) (f.m 2 3))
    writeNow x f ((x.destLanes f).flatMap ws) s)

/-- PMOV (07 R169). -/
def execPmov (f : Fields) (s : State) : Res :=
  aluB 0x4C f s (fun x l => match f.a with | .pred _ => x.rdP f.a l | _ => x.rd f f.a l != 0)
/-- PLUT3 (07 R170). -/
def execPlut3 (f : Fields) (s : State) : Res :=
  aluB 0x4D f s (fun x l => lut3 f.imm (x.rdP f.a l) (x.rdP f.b l) (x.rdP f.c l))
/-- P2S (07 R170). -/
def execP2s (f : Fields) (s : State) : Res :=
  alu32 0x4E f s (fun x l =>
    let a := x.rd f f.a l
    ofBits32 (fun n => if decide (n < 16) && f.mod.getLsbD n then (x.readE (.p n l)).getLsbD 0 else a.getLsbD n))
/-- S2P (07 R170): predicates of MASK below 15 take bits of a, in the active lanes. -/
def execS2p (f : Fields) (s : State) : Res :=
  issueWord 0x4F f s (fun x s =>
    writeFile x ((x.active f).flatMap (fun l =>
      let a := x.rd f f.a l
      ((List.range 15).filter (fun n => f.mod.getLsbD n)).map (fun n =>
        ⟨.p n l, if a.getLsbD n then 1 else 0⟩))) s)

end Sys2Proof.Machine
end

