-- ==== Sys2Proof/Machine/Lanes.lean ====
section
/-! DEFINITION. Votes and lane exchange (07 R161, R162). -/

namespace Sys2Proof.Machine

/-- Fill (05 R121): the value in lane j of EXEC, else the fill of lane l. -/
def fillFrom (x : Ctx) (rd : Nat → W64) (j : Option Nat) (fill : W64) : W64 :=
  match j with
  | some j => if decide (j < 32) && x.exec.getLsbD j then rd j else fill
  | none => fill

/-- The truth value of a vote, written per lane to a predicate or once to a uniform register (07 R161). -/
def vote (op : Nat) (f : Fields) (s : State) (g : List Bool → Bool) : Res :=
  issueWord op f s (fun x s =>
    let r := g ((x.active f).map (fun l => x.rdP f.a l))
    writeEnd x f ((x.destLanes f).flatMap (fun l => wrBool f.dst l r)) s)

/-- VALL (07 R161). -/
def execVall (f : Fields) (s : State) : Res := vote 0x07 f s (fun bs => bs.all id)
/-- VANY (07 R161). -/
def execVany (f : Fields) (s : State) : Res := vote 0x08 f s (fun bs => bs.any id)

/-- VBALLOT (07 R161). -/
def execVballot (f : Fields) (s : State) : Res :=
  issueWord 0x09 f s (fun x s =>
    let m := maskOf (fun l => (x.active f).contains l && x.rdP f.a l)
    writeEnd x f ((x.destLanes f).flatMap (fun l => wr32 f.dst l m)) s)

/-- VMATCH (07 R161): W compares pairs. -/
def execVmatch (f : Fields) (s : State) : Res :=
  issueWord 0x0A f s (fun x s =>
    let v (l : Nat) : W64 := if f.m 0 1 = 1 then x.rd64 f f.a l else (x.rd f f.a l).setWidth 64
    let d := x.active f
    writeEnd x f (d.flatMap (fun l => wr32 f.dst l (maskOf (fun j => d.contains j && v j == v l)))) s)

/-- A lane exchange (07 R162): the lane each active lane reads, or none. -/
def exchange (op : Nat) (f : Fields) (s : State) (src : Nat → Nat → W32 → Option Nat) : Res :=
  issueWord op f s (fun x s =>
    let w := decide (f.m 0 1 = 1)
    let rd (l : Nat) : W64 := if w then x.rd64 f f.a l else (x.rd f f.a l).setWidth 64
    let fill (l : Nat) : W64 := if w then x.rd64 f f.c l else (x.rd f f.c l).setWidth 64
    let v (l : Nat) : W64 := fillFrom x rd (src (2 ^ f.m 1 3) l (x.rd f f.b l)) (fill l)
    writeEnd x f ((x.active f).flatMap (fun l =>
      if w then wr64 f.dst l (v l) else wr32 f.dst l ((v l).setWidth 32))) s)

/-- LXPICK (07 R162). -/
def execLxpick (f : Fields) (s : State) : Res :=
  exchange 0x0B f s (fun n l b => if b.toNat < n then some (l - l % n + b.toNat) else none)

/-- LXSHIFT (07 R162). -/
def execLxshift (f : Fields) (s : State) : Res :=
  exchange 0x0C f s (fun n l b =>
    let j : Int := (l : Int) - b.toInt
    let base : Int := ((l - l % n : Nat) : Int)
    if base ≤ j ∧ j < base + n then some j.toNat else none)

/-- LXROT (07 R162). -/
def execLxrot (f : Fields) (s : State) : Res :=
  exchange 0x0D f s (fun n l b => some (l - l % n + (((l % n : Nat) : Int) - b.toNat).emod n |>.toNat))

/-- LXSWAP (07 R162). -/
def execLxswap (f : Fields) (s : State) : Res :=
  exchange 0x0E f s (fun n l b => if b.toNat < n then some (l ^^^ b.toNat) else none)

/-- RDLANE (07 R162). -/
def execRdlane (f : Fields) (s : State) : Res :=
  issueWord 0x0F f s (fun x s =>
    let w := decide (f.m 0 1 = 1)
    let rd (l : Nat) : W64 := if w then x.rd64 f f.a l else (x.rd f f.a l).setWidth 64
    writeEnd x f ((x.destLanes f).flatMap (fun l =>
      let fill : W64 := if w then x.rd64 f f.c l else (x.rd f f.c l).setWidth 64
      let v := fillFrom x rd (some (x.rd f f.b l).toNat) fill
      if w then wr64 f.dst l v else wr32 f.dst l (v.setWidth 32))) s)

end Sys2Proof.Machine
end

