-- ==== Sys2Proof/Machine/Regs.lean ====
section
/-! DEFINITION. Register blocks as hosts and lanes reach them, page-request replies, and host accesses through the BARs (16 R364,
R365; 18 R390 to R395, R405 to R409, R411). -/

namespace Sys2Proof.Machine

/-! ## Replies to page requests -/

/-- A reply for function f's request of a stage and SEQ: answered, or stray (16 R364, R365). Work that waited on it finds the answer
when it goes on; a place in a full ring is free again. -/
def reply (s : State) (f stage : Nat) (seq : W32) (refuse : Bool) : State :=
  if 64 ≤ f then s.modErr 0 (fun e => { e with stray := satInc64 e.stray })
  else
    match s.reqs.find? (fun r => r.vf == f && r.stage == stage && r.written && r.seq == seq) with
    | none => s.modErr f (fun e => { e with stray := satInc64 e.stray })
    | some r =>
      let s := { s with
        reqs := s.reqs.filter (fun q => q.ticket != r.ticket),
        answers := s.answers.ins r.ticket (if refuse then .refuse stage seq else .retry seq) }
      flushRequests s f stage

/-- STAGE1_REPLY_RETRY (16 R365). -/
def execStage1ReplyRetry (vf : Nat) (seq : W32) (s : State) : Res := .next (reply s vf 1 seq false)
/-- STAGE1_REPLY_REFUSE (16 R365). -/
def execStage1ReplyRefuse (vf : Nat) (seq : W32) (s : State) : Res := .next (reply s vf 1 seq true)
/-- STAGE2_REPLY_RETRY (16 R365). -/
def execStage2ReplyRetry (vf : Nat) (seq : W32) (s : State) : Res := .next (reply s vf 2 seq false)
/-- STAGE2_REPLY_REFUSE (16 R365). -/
def execStage2ReplyRefuse (vf : Nat) (seq : W32) (s : State) : Res := .next (reply s vf 2 seq true)

/-- The 16 bytes of a reply register of function f's block, once the last is written (16 R364). -/
def replyBytes (s : State) (f stage : Nat) (b : List Byte) : State :=
  let g := if stage = 1 then f else recNat b 5 1
  if recNat b 4 1 ≠ stage ∨ 1 < recNat b 0 4 then
    s.modErr (if 64 ≤ g then 0 else g) (fun e => { e with stray := satInc64 e.stray })
  else reply s g stage (BitVec.ofNat 32 (recNat b 8 4)) (recNat b 0 4 == 1)

/-! ## The invalidation register -/

/-- A write of the page count performs TLBINV for the function; BUSY stands for the accesses that used a selected entry (14 R333;
18 R391). -/
def invRegister (s : State) (f : Nat) (pages : W32) : State :=
  let t := selRange f (s.func f).mbox.invVa pages.toNat
  let left := wqUsing s t
  let tids := peersUsing s t
  (flushTlbs s t).modFunc f (fun x => { x with mbox := { x.mbox with invPages := pages, invLeft := left, invTids := tids } })

/-- BUSY of the invalidation register. -/
def invBusy (s : State) (f : Nat) : Bool :=
  let m := (s.func f).mbox
  m.invLeft.any (fun p => (s.core p.1).wq.any (fun e => e.id == p.2)) || m.invTids.any (fun t => s.peers.any (fun q => q.tid == t))

/-- INVALIDATION_REGISTER (18 R391). -/
def execInvalidationRegister (vf : Nat) (va : W64) (pages : W32) (s : State) : Res :=
  .next (invRegister (s.modFunc vf (fun x => { x with mbox := { x.mbox with invVa := va } })) vf pages)

/-! ## Reading a block -/

/-- A word of a 64-bit counter list at a byte offset. -/
def cntWord (l : List W64) (off : Nat) : W32 := half64 (l.getD (off / 8) 0) (off % 8 == 4)

/-- Byte k of READY (18 R409). -/
def readyByte (s : State) (k : Nat) : Nat :=
  let bitsOf (p : Nat → Bool) : Nat := (List.range 8).foldl (fun n i => if p i then n + 2 ^ i else n) 0
  let r := s.rdy
  if k = 0 then bitsOf (fun i => (i == 0 && r.portA) || (i == 1 && r.portB) || (i == 2 && r.sieve) || (i == 3 && r.whisk))
  else if k = 1 then r.hbm.toNat
  else if k < 4 then bitsOf (fun i => r.links.getLsbD (8 * (k - 2) + i))
  else if k < 6 then bitsOf (fun i => r.deckles.getLsbD (8 * (k - 4) + i))
  else if 8 ≤ k ∧ k < 24 then bitsOf (fun i => (s.slice (8 * (k - 8) + i)).ready)
  else if 24 ≤ k ∧ k < 88 then bitsOf (fun i => (s.core (8 * (k - 24) + i)).ready)
  else 0

/-- Four bytes as a word. -/
def word4 (b : Nat → Nat) (off : Nat) : W32 := BitVec.ofNat 32 (b off + 256 * b (off + 1) + 65536 * b (off + 2) + 16777216 * b (off + 3))

/-- A word of function 0's configuration page (18 R407). -/
def confWord (s : State) (off : Nat) : W32 :=
  let k := s.conf
  if off < 0x038 then cntWord [k.ftbase, k.qtbase, k.mftbase, k.wtbase, k.fotbase, k.heapspa, k.elogbase] off
  else if off = 0x038 then k.elogn
  else if off = 0x03C then k.elogtail
  else if off = 0x044 then BitVec.ofNat 32 k.startst
  else if off = 0x048 then BitVec.ofNat 32 k.nodeid
  else if off = 0x050 ∨ off = 0x054 then half64 k.fwaddr (off == 0x054)
  else if off = 0x05C then BitVec.ofNat 32 k.fwstat
  else if off = 0x060 ∨ off = 0x064 then half64 k.vfport (off == 0x064)
  else if off = 0x080 then k.alarmpol
  else if off = 0x084 then (if k.keygone then 1 else 0)
  else if 0x088 ≤ off ∧ off < 0x0A0 then k.alarmcnt.getD ((off - 0x088) / 4) 0
  else if 0x100 ≤ off ∧ off < 0x180 then word4 (fun n => Tab.get 0xFF k.route n) (off - 0x100)
  else if 0x180 ≤ off ∧ off < 0x200 then word4 (fun n => Tab.get 0xFF k.inb n) (off - 0x180)
  else if 0x200 ≤ off ∧ off < 0x260 then word4 (readyByte s) (off - 0x200)
  else if 0x300 ≤ off ∧ off < 0x380 then cntWord (k.stackcnt.flatMap (fun c => [c.1, c.2])) (off - 0x300)
  else if 0x380 ≤ off ∧ off < 0x3A0 then cntWord k.sievecnt (off - 0x380)
  else 0

/-- A word of a function's error counters (18 R405). -/
def errWord (s : State) (f off : Nat) : W32 :=
  let e := (s.func f).err
  let miss (q : Nat) : Nat := if (s.queue q).owner = f then (s.queue q).misses.toNat else 0
  if off < 0x48 then cntWord [e.own, e.stray, e.dep, e.bell, e.dk, e.query, e.mbox, e.slot, e.prq] off
  else if 0x400 ≤ off ∧ off < 0xC00 then
    let q := (off - 0x400) / 2
    BitVec.ofNat 32 (miss q + 65536 * miss (q + 1))
  else 0

/-- A word of a core's counters (18 R406). -/
def coreWord (s : State) (off : Nat) : W32 :=
  let k := s.core (off / 16)
  match off % 16 with
  | 0 => k.poisonReads
  | 4 => k.trapLoss
  | 8 => k.corr
  | _ => k.uncorr

/-- A word of function f's register block (18 R391); offsets not listed read 0. -/
def blockWord (s : State) (f off : Nat) : W32 :=
  let m := (s.func f).mbox
  if off = 0x0000 then m.code
  else if 0x0008 ≤ off ∧ off < 0x0038 then cntWord m.args (off - 0x0008)
  else if off = 0x003C then (if m.pending then 1 else 0)
  else if off = 0x0040 then m.rtoken
  else if off = 0x0044 then m.rstat
  else if off = 0x1040 ∨ off = 0x1044 then half64 m.invVa (off == 0x1044)
  else if off = 0x1048 then m.invPages
  else if off = 0x104C then (if invBusy s f then 1 else 0)
  else if 0x2000 ≤ off ∧ off < 0x3000 then dbgWord s f (off - 0x2000)
  else if 0x4000 ≤ off ∧ off < 0x4C00 then errWord s f (off - 0x4000)
  else if 0x5000 ≤ off ∧ off < 0x5080 then m.msix.getD ((off - 0x5000) / 4) 0
  else if off = 0x5800 then m.pba.setWidth 32
  else if f = 0 ∧ 0x8000 ≤ off ∧ off < 0x9000 then confWord s (off - 0x8000)
  else if f = 0 ∧ 0xA000 ≤ off ∧ off < 0xC000 then coreWord s (off - 0xA000)
  else 0

/-- A register access is 4 or 8 bytes, aligned (18 R391); a reply may be written as 16 (16 R364). -/
def regAccessOk (off n : Nat) (write : Bool) : Bool :=
  (n == 4 || n == 8 || (write && n == 16 && (off == 0x1000 || off == 0x1010))) && decide (off % n = 0) && decide (off + n ≤ 65536)

/-- The bytes of a register read. -/
def regRead (s : State) (f off n : Nat) : List Byte :=
  (List.range (n / 4)).flatMap (fun i => leBytes 4 (blockWord s f (off + 4 * i)).toNat)

/-! ## Writing a block -/

/-- Element k of a table of bytes: values lo to 254 stand as 0xFF (18 R407). -/
def bytePut (t : Tab Nat) (lo k v : Nat) : Tab Nat := Tab.put 0xFF t k (if lo ≤ v then 0xFF else v)

/-- The four bytes of a word into a table of bytes. -/
def wordPut (t : Tab Nat) (lo k : Nat) (w : W32) : Tab Nat :=
  (List.range 4).foldl (fun t i => bytePut t lo (k + i) (w.extractLsb' (8 * i) 8).toNat) t

/-- A write of one word of the configuration page (18 R407). -/
def confPut (s : State) (off : Nat) (w : W32) : State :=
  let k := s.conf
  let put (g : ConfPage → ConfPage) : State := { s with conf := g k }
  let hi := off % 8 == 4
  let fixed := k.startst == 1
  if off < 0x038 then
    if fixed then s
    else match off / 8 with
      | 0 => put (fun k => { k with ftbase := setHalf64 k.ftbase hi w })
      | 1 => put (fun k => { k with qtbase := setHalf64 k.qtbase hi w })
      | 2 => put (fun k => { k with mftbase := setHalf64 k.mftbase hi w })
      | 3 => put (fun k => { k with wtbase := setHalf64 k.wtbase hi w })
      | 4 => put (fun k => { k with fotbase := setHalf64 k.fotbase hi w })
      | 5 => put (fun k => { k with heapspa := setHalf64 k.heapspa hi w })
      | _ => put (fun k => { k with elogbase := setHalf64 k.elogbase hi w })
  else if off = 0x038 then put (fun k => { k with elogn := w })
  else if off = 0x03C then put (fun k => { k with elogtail := w })
  else if off = 0x040 then startPut s w
  else if off = 0x048 then put (fun k => { k with nodeid := (w.extractLsb' 0 7).toNat })
  else if off = 0x050 ∨ off = 0x054 then put (fun k => { k with fwaddr := setHalf64 k.fwaddr hi w })
  else if off = 0x058 then fwCommit s w
  else if off = 0x060 ∨ off = 0x064 then (if fixed then s else put (fun k => { k with vfport := setHalf64 k.vfport hi w }))
  else if off = 0x080 then putAlarmPol s w
  else if 0x100 ≤ off ∧ off < 0x180 then put (fun k => { k with route := wordPut k.route 16 (off - 0x100) w })
  else if 0x180 ≤ off ∧ off < 0x200 then put (fun k => { k with inb := wordPut k.inb 64 (off - 0x180) w })
  else s

/-- A write of one word of an MSI-X table; a vector unmasked with its pending bit set is sent (18 R393). -/
def msixPut (s : State) (f off : Nat) (w : W32) : State :=
  let v := off / 16
  let was := vecMasked (s.func f).mbox v
  let s := s.modFunc f (fun x => { x with mbox := { x.mbox with msix := listSet x.mbox.msix (off / 4) w } })
  let m := (s.func f).mbox
  if was && !vecMasked m v && m.pba.getLsbD v then
    msixEvent (s.modFunc f (fun x => { x with mbox := { x.mbox with pba := x.mbox.pba &&& ~~~((1 : BitVec 8) <<< v) } })) f v
  else s

/-- Vectors with a pending bit that no mask holds any longer are sent (18 R393). -/
def msixFlush (s : State) (f : Nat) : State :=
  (List.range 8).foldl (fun s v =>
    let m := (s.func f).mbox
    if !vecMasked m v && m.pba.getLsbD v then
      msixEvent (s.modFunc f (fun x => { x with mbox := { x.mbox with pba := x.mbox.pba &&& ~~~((1 : BitVec 8) <<< v) } })) f v
    else s) s

/-- A host writes Message Control of function f's MSI-X capability: Enable and Function Mask (18 R393). -/
def msixControl (s : State) (f : Nat) (en mask : Bool) : State :=
  if exposed s f then
    msixFlush (s.modFunc f (fun x => { x with mbox := { x.mbox with msixEn := en, msixMask := mask } })) f
  else s

/-- Changes a mailbox. -/
def State.modMbox (s : State) (f : Nat) (g : Mailbox → Mailbox) : State := s.modFunc f (fun x => { x with mbox := g x.mbox })

/-- A write of one word of function f's block, by a party at level H or not (18 R391); offsets not listed ignore it. STOPREQ, RESUME and
the reply registers take their bytes elsewhere. -/
def blockPut (s : State) (f : Nat) (h : Bool) (off : Nat) (w : W32) : State :=
  if off = 0x0000 then s.modMbox f (fun m => { m with code := w })
  else if 0x0008 ≤ off ∧ off < 0x0038 then
    s.modMbox f (fun m => { m with args := listAdj m.args ((off - 0x0008) / 8) (fun v => setHalf64 v (off % 8 == 4) w) })
  else if off = 0x0038 then submitAt s f h w
  else if off = 0x1040 ∨ off = 0x1044 then s.modMbox f (fun m => { m with invVa := setHalf64 m.invVa (off == 0x1044) w })
  else if off = 0x1048 then invRegister s f w
  else if 0x2000 ≤ off ∧ off < 0x3000 then dbgPut s f (off - 0x2000) w
  else if 0x3000 ≤ off ∧ off < 0x4000 then ring s f ((off - 0x3000) / 4) w
  else if 0x5000 ≤ off ∧ off < 0x5080 then msixPut s f (off - 0x5000) w
  else if f = 0 ∧ 0x8000 ≤ off ∧ off < 0x9000 then confPut s (off - 0x8000) w
  else s

/-- Bytes into the reply registers; the last byte of one makes the reply (16 R364; 18 R391). [log 118: DEDUCED, unsafe] -/
def replyPut (s : State) (f off : Nat) (b : List Byte) : State :=
  let o := off - 0x1000
  let r := (s.func f).mbox.reply
  let r := r.take o ++ b ++ r.drop (o + b.length)
  let s := s.modMbox f (fun m => { m with reply := r })
  if (o + b.length) % 16 ≠ 0 then s
  else replyBytes s f (if o < 16 then 1 else 2) ((r.drop (o / 16 * 16)).take 16)

/-- A legal write of function f's block (18 R391). -/
def regWrite (s : State) (f : Nat) (h : Bool) (off : Nat) (b : List Byte) : State :=
  if 0x1000 ≤ off ∧ off < (if f = 0 then 0x1020 else 0x1010) then replyPut s f off b
  else if off = 0x2020 then stopReq s f (BitVec.ofNat 64 (leNat b))
  else if off = 0x2028 then resumeReq s f (BitVec.ofNat 64 (leNat b))
  else
    (List.range (b.length / 4)).foldl (fun s i =>
      blockPut s f h (off + 4 * i) (BitVec.ofNat 32 (leNat ((b.drop (4 * i)).take 4)))) s

/-- REGISTER_WRITE (18 R391), by a host through the BAR of function f: level H for function 0. An access that is refused writes
nothing. -/
def execRegisterWrite (vf off : Nat) (bytes : List Byte) (s : State) : Res :=
  if exposed s vf = false then .fault .notEnabled
  else .next (if regAccessOk off bytes.length true then regWrite s vf (vf == 0) off bytes
    else refuseOwner s vf 0xFFFF (0x3F0000000000 + 65536 * vf + off))

/-! ## BAR 2 -/

/-- Where a host access at an offset of a function's BAR 2 goes: in HBM4 with what the host may use, or refused (18 R391, R408,
R411). [log 119: DEDUCED, unsafe] -/
def bar2At (s : State) (f addr bits : Nat) : State × Option Nat :=
  if s.conf.startst ≠ 1 then
    (s, if f = 0 ∧ s.rdy.hbm.getLsbD (addr / 2 ^ 36) = true ∧ addr < hbmEnd then some addr else none)
  else if addr ≥ 2 ^ 39 then (s, none)
  else
    match translateGpa s f addr { bits := bits, u := false } with
    | (s, .page a _ _) =>
      let ok := if bits = 2 then s.writable (.fn f (if f = 0 then .h else .g)) a else s.owned (.fn f (if f = 0 then .h else .g)) a
      if ok then (s, some a) else (refuseOwner s f 0xFFFF a, none)
    | (s, .refused a) => (refuseOwner s f 0xFFFF a, none)
    | (s, _) => (s, none)

/-- Pieces of n bytes from a, none across a line: offset and length. -/
def linePieces (a n : Nat) : List (Nat × Nat) :=
  (List.range (n / 64 + 2)).filterMap (fun i =>
    let lo := max a ((a / 64 + i) * 64)
    let hi := min (a + n) ((a / 64 + i + 1) * 64)
    if lo < hi then some (lo - a, hi - lo) else none)

/-- HOST_WRITE (18 R391, R395): performed at the home slice, line by line; a refused part is left. An aligned write of 4 or 8 bytes is an
atomic there (17 R381). -/
def execHostWrite (vf addr : Nat) (bytes : List Byte) (s : State) : Res :=
  if exposed s vf = false then .fault .notEnabled
  else .next ((linePieces addr bytes.length).foldl (fun s p =>
    match bar2At s vf (addr + p.1) 2 with
    | (s, some a) =>
      let s := homeWrite s hostWriter a ((bytes.drop p.1).take p.2)
      if (bytes.length = 4 ∨ bytes.length = 8) ∧ addr % bytes.length = 0 then watchSlice s none hostWriter a bytes.length else s
    | (s, none) => s) s)

/-- A part of a host read: memory's bytes, +0 from a poisoned line; free bytes where it is refused. -/
def hostPart (s : State) (f a n : Nat) : State × List Byte :=
  match bar2At s f a 1 with
  | (s, some x) => (homeTouches s x n, if s.poisAt x n then List.replicate n 0 else s.bytesAt x n)
  | (s, none) => ({ s with free := s.free + 1 }, (List.range n).map (fun i => BitVec.ofNat 8 (Config.unstated 0x103 s.free i)))

/-- HOST_READ (18 R391, R395): a register, or memory at its home slice. -/
def execHostRead (bar vf addr n : Nat) (s : State) : Res :=
  if exposed s vf = false then .fault .notEnabled
  else if bar = 0 then
    if regAccessOk addr n false then .next (s.send (.hostData vf addr (regRead s vf addr n)))
    else .next (refuseOwner s vf 0xFFFF (0x3F0000000000 + 65536 * vf + addr))
  else
    let (s, b) := (linePieces addr n).foldl (fun (st : State × List Byte) p =>
      let (s, b) := hostPart st.1 vf (addr + p.1) p.2
      (s, st.2 ++ b)) (s, [])
    .next (s.send (.hostData vf addr b))

/-! ## Interrupts and virtual functions -/

/-- MSIX_INTERVAL_END (18 R393): 1,024 fc after an interval began, an event of it is sent, and a new interval begins; or none runs any
more. -/
def execMsixIntervalEnd (vf vector : Nat) (s : State) : Res :=
  let m := (s.func vf).mbox
  if m.open_.getLsbD vector = false ∨ s.fc < m.since.getD vector 0 + 1024 then .fault .notEnabled
  else
    let t := s.modMbox vf (fun m => { m with open_ := m.open_ &&& ~~~((1 : BitVec 8) <<< vector), pend := m.pend &&& ~~~((1 : BitVec 8) <<< vector) })
    .next (if m.pend.getLsbD vector then msixEvent t vf vector else t)

/-- Virtual functions of a physical function (18 R390). -/
def vfsOf (s : State) (pf : Nat) : List Nat :=
  (List.range 64).filter (fun f => decide (2 ≤ f) && s.conf.vfport.getLsbD f == (pf == 1))

/-- VF_ENABLE (18 R390): NumVFs must be the number of the PF's virtual functions. -/
def execVfEnable (pf numVFs : Nat) (s : State) : Res :=
  let fs := vfsOf s pf
  if 2 ≤ pf then .fault .notEnabled
  else if numVFs = fs.length then
    .next (({ s with conf := { s.conf with vfOn := fs.foldl (fun m f => m ||| (1 <<< f)) s.conf.vfOn } }).send (.vfEnabled pf numVFs true))
  else .next (s.send (.vfEnabled pf numVFs false))

end Sys2Proof.Machine
end

