-- ==== Sys2Proof/Machine/Drain.lean ====
section
/-! DEFINITION. The write queue: how an entry reaches its home slice, a host port, a peer or a register block, and what its
acknowledgement ends (03 R67, R68; 04 R94, R107; 16 R367; 18 R391 to R399, R417). -/

namespace Sys2Proof.Machine

/-! ## Ends of an access -/

/-- A lane's access of any operation ends with a cause: a texel read ends its whole lane, a query's load drops the query (11 R271;
12 R293; 14 R315). -/
def failAccess (s : State) (c w id lane code sub : Nat) (aux2 : W32) : State :=
  match (s.slot? c w).bind (fun t => t.wave.op? id) with
  | none => s
  | some o =>
    if o.opc = 0xE0 ∨ o.opc = 0xE1 then
      let va := match o.lanes.find? (fun l => l.lane == lane) with | some l => l.va | none => 0
      texFail s c w id (texOwner lane) code sub va aux2
    else
      let t := failLane s c w id lane code sub aux2
      if o.opc = 0xE8 ∨ o.opc = 0xE9 then queryDropped t c (BitVec.ofNat 32 o.n) else t

/-- The wave, operation and lanes of a write-queue entry, while its wave is resident. -/
def WqEntry.op? (s : State) (c : Nat) (e : WqEntry) : Option (Nat × Nat × List Nat) :=
  match e.who with
  | none => none
  | some (uid, w, id) =>
    match s.slot? c w with
    | some t => if t.wave.uid = uid then some (w, id, e.lanes.map Prod.fst) else none
    | none => none

/-- Who wrote the bytes of an entry from one position up to another: the highest lane contributing (17 R382). -/
def WqEntry.writer (e : WqEntry) (lo hi : Nat) : Writer :=
  match (e.lanes.filter (fun p => decide (p.2.1 < hi ∧ lo < p.2.1 + p.2.2))).getLast? with
  | some p => { e.wr with lane := p.1 }
  | none => e.wr

/-- An engine command met an error in a chunk whose writes were on their way: a Ladle command's code, a merge's PAGE_REFUSED, or a
query's status words, which are lost and counted (10 R235; 11 R271, R274; 18 R398, R405). -/
def engFailed (s : State) (c kind cmd chunk : Nat) (more : List Nat) (code : Nat) : State :=
  let hit (q : LCmd) : LCmd := if q.id = cmd then { q with codes := q.codes ++ [code], bad := (chunk :: more).foldl setIns q.bad } else q
  if kind = 0 then s.modCore c (fun k => { k with ladle := k.ladle.map hit })
  else if kind = 2 then
    match chunk with
    | 0 => modQuery s c (BitVec.ofNat 32 cmd) (fun q => (dropMerge q more).meet 5)
    | f + 1 => s.modErr f (fun e => { e with query := satInc64 e.query })
  else if kind = 3 then
    { s with sched := { s.sched with deckles := s.sched.deckles.map (fun p => (p.1, p.2.map (fun (u : DkUnit) =>
      { u with run := u.run.map hit }))) } }
  else s

/-- A write is acknowledged: its lanes complete (09 R200). -/
def ackWrite (s : State) (c : Nat) (e : WqEntry) : State :=
  match e.op? s c with
  | some (w, id, ls) => ls.foldl (fun s l => finishLane s c w id l [] 0) s
  | none => s

/-- A write is refused or cannot be carried: its lanes' cause, or its command's code; else it is dropped. The core's copy of the line
goes with it (16 R367; 18 R417). -/
def failWrite (s : State) (c : Nat) (e : WqEntry) (code sub engCode : Nat) (aux2 : W32) : State :=
  let s := match e.tgt.spa? with | some a => dropL1 s c (a / 64) | none => s
  let s := match e.eng with | some (cmd, chunk) => engFailed s c e.kind cmd chunk e.more engCode | none => s
  match e.op? s c with
  | some (w, id, ls) => ls.foldl (fun s l => failAccess s c w id l code sub aux2) s
  | none => s

/-! ## Draining -/

/-- Two targets must keep their order: one line of HBM4, one port, one peer, one register block. -/
def Target.orders (a b : Target) : Bool :=
  match a, b with
  | .port n _, .port m _ => n == m
  | .peer n _, .peer m _ => n == m
  | .regs f _, .regs g _ => f == g
  | a, b => match a.spa?, b.spa? with | some x, some y => x / 64 == y / 64 | _, _ => false

/-- The first entries of a list up to one satisfying p are all different from it in order. [log 47: DEDUCED, unsafe] -/
def firstOf (q : List WqEntry) (e : WqEntry) : Bool :=
  match q with
  | [] => false
  | x :: r => if x.id = e.id then true else !x.tgt.orders e.tgt && firstOf r e

/-- Poison of the bytes a write carries: its line (03 R83). -/
def carryPoison (s : State) (a : Nat) (p : List Nat) : State :=
  if p.isEmpty then s else { s with memPois := setIns s.memPois (a / 64) }

/-- The party of an entry's owner check (16 R368; 19 R411). -/
def WqEntry.party (e : WqEntry) : Party := .fn e.vf (if e.priv then .h else e.level)

/-- An entry that has left the queue is performed at its target. -/
def performWrite (s : State) (c : Nat) (e : WqEntry) : State :=
  match e.tgt with
  | .hbm a =>
    if s.writable (e.party) a then
      ackWrite (carryPoison (homeWriteBy s e.writer a e.bytes e.holes) a e.poison) c e
    else failWrite (refuseOwner s e.vf c a) c e 11 2 5 0xFFFFFFFF
  | .port p a =>
    ackWrite ((runsOf e.bytes.length e.holes).foldl (fun s r => portWrite s c p (a + r.1) e.vf ((e.bytes.drop r.1).take r.2)) s) c e
  | .peer node r =>
    match peerSub s node r with
    | some k => failWrite s c e 23 k 11 0
    | none =>
      let tid := s.nextTid
      let who := (e.op? s c).map (fun l => (c, l.1, (e.who.map Prod.fst).getD 0, l.2.1, l.2.2.headD 0))
      let s := sendReq s { tid := 0, node := node, link := 0, who := who, cmd := e.eng.map (fun x => (c, e.kind, x.1)),
                           chunk := e.eng.map Prod.snd, more := e.more, addr := r / 64 * 64, len := e.bytes.length, since := 0, got := none }
        (writeFlit s node r e.bytes e.holes e.flags)
      match e.op? s c with
      | some (w, id, ls) => ls.foldl (fun s l => setLane s c w id l (.sent tid)) s
      | none => s
  | .regs f off =>
    if regAccessOk off e.bytes.length true then ackWrite (regWrite s f (e.level == .h) off e.bytes) c e
    else failWrite (refuseOwner s e.vf c (0x3F0000000000 + 65536 * f + off)) c e 11 2 5 0xFFFFFFFF
  | _ => ackWrite s c e

/-- An entry of a core's write queue reaches its target, after those it must follow; none where it may not yet (03 R67). -/
def drainStep (s : State) (c id : Nat) : Option State :=
  match (s.core c).wq.find? (fun e => e.id == id) with
  | none => none
  | some e =>
    if firstOf (s.core c).wq e = false then none
    else some (performWrite (s.modCore c (fun k => { k with wq := k.wq.filter (fun x => x.id != id) })) c e)

end Sys2Proof.Machine
end

