-- ==== Sys2Proof/Machine/Perform.lean ====
section
/-! DEFINITION. How a lane's access is performed once it has issued: loads, stores, atomics, local accesses, replays, and the gathered
QUANTUM adds (03 R64 to R68, R73, R77 to R79, R84 to R87; 04 R94 to R104; 09 R200 to R214; 16 R365, R367; 18 R391 to R398, R417). -/

namespace Sys2Proof.Machine

/-! ## Delivery -/

/-- Bytes a lane of an operation reads. -/
def readSize (o : Op) : Nat :=
  if o.opc = 0xE0 ∨ o.opc = 0xE1 then texBytes o.tex.fmt
  else if o.opc = 0xDF ∧ o.m = 1 then 8
  else accSize o.opc o.f

/-- Keeps what a lane's performed access writes until it completes. -/
def keepLane (s : State) (c w id lane : Nat) (ws : List RegWrite) (e : Exc) : State :=
  s.modWave c w (fun v => v.modOp id (fun o =>
    { o with writes := o.writes ++ ws, exc := o.exc ||| e,
             lanes := o.lanes.map (fun (l : LaneOp) => if l.lane = lane then { l with st := .known } else l) }))

/-- A lane's read has its bytes: +0 for the whole access where one is poisoned (03 R84). -/
def deliver (s : State) (c w id : Nat) (o : Op) (l : LaneOp) (vf : Nat) (b : List Byte) (bad : Bool) : State :=
  let seen (s : State) : State := if bad then poisonSeen s c w l.lane o.level o.spo o.off l.va vf else s
  let b := if bad then List.replicate b.length 0 else b
  if o.opc = 0xE0 ∨ o.opc = 0xE1 then s.modWave c w (fun v => v.modLaneOp id l.lane (fun l => l.texel b bad))
  else if o.opc = 0xDF then jobpostGot (seen s) c w id l.lane b
  else if o.opc = 0xE8 ∨ o.opc = 0xE9 then
    keepLane (queryLoaded (seen s) c (BitVec.ofNat 32 o.n) b bad) c w id l.lane [] 0
  else if bad then keepLane (seen s) c w id l.lane (loadWrites o.f b.length false l.lane b) 0
  else
    let (ws, e) := loadResult o.opc o.f l.lane b
    keepLane s c w id l.lane ws e

/-- Ends a lane whose result stands in its operation: at once, or with the last texel of its lane; JOBPOST goes on by itself. -/
def settleLane (s : State) (c w id lane : Nat) : State :=
  match (s.slot? c w).bind (fun t => t.wave.op? id) with
  | none => s
  | some o =>
    match o.lanes.find? (fun l => l.lane == lane) with
    | none => s
    | some l =>
      if l.st ≠ .known ∨ o.opc = 0xDF then s
      else if o.opc = 0xE0 ∨ o.opc = 0xE1 then texFinish s c w id (texOwner lane)
      else finishLane s c w id lane [] 0

/-! ## Loads -/

/-- The owner refuses an access at its delivery (16 R367). -/
def refuseAt (s : State) (c w id lane vf a : Nat) : State := failAccess (refuseOwner s vf c a) c w id lane 11 2 0xFFFFFFFF

/-- Targets whose reads by one word are one request: one line, or one line of a register block or of the window (03 R64, R65). -/
def Target.sameRead (a b : Target) : Bool :=
  match a, b with
  | .regs f x, .regs g y => f == g && x / 64 == y / 64
  | .window x, .window y => x / 64 == y / 64
  | a, b => a.sameLine b

/-- The lanes of a word that share a lane's request for a line (03 R64). [log 41: DESIGN CHOICE, unsafe] -/
def lineMates (v : Wave) (o : Op) (l : LaneOp) : List LaneOp :=
  o.lanes.filter (fun k => k.lane == l.lane ||
    (k.st == .ready && k.tgt.sameRead l.tgt && !gated v o.id (some k.real) && !sharedBlocked v o.id k.va))

/-- The address of a lane's bytes in HBM4, behind the heap aperture too. -/
def Target.spaOr (t : Target) (a : Nat) : Nat :=
  match t with
  | .hbm x => x
  | .heap x => x
  | _ => a

/-- A load of lane l from HBM4 or the heap; none while LDNC waits for the core's own stores to the line (03 R67, R84; 09 R203; 12
R281; 16 R367). -/
def loadHbm (s : State) (c w id : Nat) (v : Wave) (o : Op) (l : LaneOp) (a : Nat) (heap : Bool) : Option State :=
  let k := s.core c
  let n := readSize o
  if heap && !heapReadable s v.vf l.va then some (failAccess s c w id l.lane 18 0 0)
  else if !heap && ((k.l1.get? (a / 64)).isNone || o.opc == 0xA4) && !s.owned (.fn v.vf (v.row o.level)) a then
    some (refuseAt s c w id l.lane v.vf a)
  else if o.opc = 0xA4 then
    if (wqLine k (a / 64)).isEmpty = false then none
    else
      let t := (lineMates v o l).foldl (fun t m =>
        deliver t c w id o m v.vf (s.bytesAt (m.tgt.spaOr a) n) (s.poisAt (m.tgt.spaOr a) n))
        (homeTouch (dropL1 s c (a / 64)) (a / 64))
      some (settleLane t c w id l.lane)
  else
    let s := (lineMates v o l).foldl (fun s m =>
      let (s, b, bad) := coreRead s c v.vf (m.tgt.spaOr a) n
      deliver s c w id o m v.vf b bad) s
    some (settleLane s c w id l.lane)

/-- A load from a host port: one request of the line, free bytes but those the core's write queue still holds (18 R394; 03 R67). -/
def loadPort (s : State) (c w id : Nat) (v : Wave) (o : Op) (l : LaneOp) (port : Nat) : State :=
  let t := (lineMates v o l).foldl (fun t m =>
    match m.tgt with
    | .port _ a => deliver t c w id o m v.vf (forwardAll (s.core c) (1 + port) a (portRead s v.vf port a (readSize o)).2) false
    | _ => t) (portRead s v.vf port (match l.tgt with | .port _ a => a / 64 * 64 | _ => 0) 64).1
  settleLane t c w id l.lane

/-- A load from a peer: one READ for the line (18 R397, R417); none while the core's writes to that peer stand in the queue. -/
def loadPeer (s : State) (c w id : Nat) (v : Wave) (o : Op) (l : LaneOp) (node r : Nat) : Option State :=
  match peerSub s node r with
  | some k => some (failAccess s c w id l.lane 23 k 0)
  | none =>
    if (s.core c).wq.any (fun e => e.tgt.orders l.tgt) then none
    else
      let tid := s.nextTid
      let s := sendReq s { tid := 0, node := node, link := 0, who := some (c, w, v.uid, id, l.lane), cmd := none, chunk := none,
                           addr := r / 64 * 64, len := 64, since := 0, got := none } (flitTo s 2 node 0 (r / 64 * 64))
      some ((lineMates v o l).foldl (fun s m => setLane s c w id m.lane (.sent tid)) s)

/-- A load from a register block, with the lanes of its line; none while the core's own writes to the block stand in the queue
(18 R391; 03 R67). -/
def loadBlock (s : State) (c w id : Nat) (v : Wave) (o : Op) (l : LaneOp) (f : Nat) : Option State :=
  let n := readSize o
  if (s.core c).wq.any (fun e => e.tgt.orders l.tgt) then none
  else
    let t := (lineMates v o l).foldl (fun t m =>
      match m.tgt with
      | .regs _ off =>
        if regAccessOk off n false then deliver t c w id o m v.vf (regRead s f off n) false
        else refuseAt t c w id m.lane v.vf (0x3F0000000000 + 65536 * f + off)
      | _ => t) s
    some (settleLane t c w id l.lane)

/-- A refused window access: WINDOW_REFUSED with its SUB, or DEST_PENDING (02 R60; 03 R79). -/
def failWindow (s : State) (c w id lane : Nat) (r : WinRes) : State :=
  match r with
  | .refused k => failAccess s c w id lane 10 k 0
  | .pending => failAccess s c w id lane 13 0 0
  | .ok _ _ => s

/-- A load from the register window, with the lanes of its word that read the same line of it, between two runs of the target wave
(03 R65, R77 to R79; 02 R59). -/
def loadWindow (s : State) (c w id : Nat) (v : Wave) (o : Op) (l : LaneOp) (a : Nat) : Option State :=
  if isLoad o.opc = false ∧ o.opc ≠ 0xDF then some (failAccess s c w id l.lane 10 1 0)
  else if winBusy s a then none
  else
    let t := (lineMates v o l).foldl (fun t m =>
      match m.tgt with
      | .window x =>
        match winLoad s (laneParty c v o.level) x (readSize o) with
        | .error r => failWindow t c w id m.lane r
        | .ok (b, bad) => deliver t c w id o m v.vf b bad
      | _ => t) s
    some (settleLane t c w id l.lane)

/-- A lane's load is performed, with those that share its line. -/
def loadStep (s : State) (c w id : Nat) (v : Wave) (o : Op) (l : LaneOp) : Option State :=
  match l.tgt with
  | .hbm a => loadHbm s c w id v o l a false
  | .heap a => loadHbm s c w id v o l a true
  | .port p _ => some (loadPort s c w id v o l p)
  | .peer node r => loadPeer s c w id v o l node r
  | .regs f _ => loadBlock s c w id v o l f
  | .window a => loadWindow s c w id v o l a
  | _ => some (failAccess s c w id l.lane 11 2 0xFFFFFFFF)

/-! ## Stores -/

/-- A store of a lane: into the window, refused, or into the write queue; none while it waits (03 R67, R79). -/
def storeStep (s : State) (c w id : Nat) (v : Wave) (o : Op) (l : LaneOp) : Option State :=
  match l.tgt with
  | .none => if laneBlocked o l.lane l.va then none else some (failAccess s c w id l.lane 11 2 0xFFFFFFFF)
  | .window a =>
    if laneBlocked o l.lane l.va || winBusy s a then none
    else
      match winStore s (laneParty c v o.level) a (accSize o.opc o.f) (storeBytes o.opc o.f l.src) with
      | (s, some r) => some (failWindow s c w id l.lane r)
      | (s, none) => some (finishLane s c w id l.lane [] 0)
  | _ => storeGo s c w id l.lane

/-! ## Atomics -/

/-- The result of a lane's atomic on old, in its registers and bits (09 R211). [log 126: DEDUCED, unsafe] -/
def atomEnd (s : State) (c w id : Nat) (o : Op) (l : LaneOp) (r : AtomRes) : State :=
  finishLane s c w id l.lane (atomWrites o.opc o.f l.lane r.old r.ok) r.exc

/-- What a lane's atomic does at old (09 R211). -/
def atomAt (o : Op) (l : LaneOp) (old : Nat) : AtomRes :=
  atomOn o.opc (o.f.m 11 3) (o.f.m 0 3) old l.src.toNat l.src2.toNat (specLost o)

/-- An atomic on a poisoned location: not performed, +0 (03 R84). -/
def atomPoisoned (s : State) (c w id : Nat) (v : Wave) (o : Op) (l : LaneOp) : State :=
  finishLane (poisonSeen s c w l.lane o.level o.spo o.off l.va v.vf) c w id l.lane (atomWrites o.opc o.f l.lane 0 false) 0

/-- A QUANTUM add that its cluster gathers (04 R103). -/
def gathers (o : Op) (l : LaneOp) : Bool := ordOf o.f == 3 && decide (l.src.toNat ≤ 65535)

/-- A SPECULATIVE compare-and-swap has read its location (04 R104). -/
def specBegin (s : State) (c w : Nat) (v : Wave) (o : Op) (l : LaneOp) (a old : Nat) : State :=
  setLane { s with specs := s.specs ++ [{ core := c, wave := w, uid := v.uid, op := o.id, lane := l.lane, line := a / 64,
                                          broken := false }] } c w o.id l.lane (.read (BitVec.ofNat 64 old))

/-- A SPECULATIVE compare-and-swap that has read old writes, or fails: without a mismatch only where another access to its line was
performed at the home slice since its read (04 R104; 16 R367). -/
def specEnd (s : State) (c w id : Nat) (v : Wave) (o : Op) (l : LaneOp) (old : Nat) : State :=
  let mine (r : SpecRead) : Bool := r.core == c && r.wave == w && r.uid == v.uid && r.op == id && r.lane == l.lane
  let broken := s.specs.any (fun r => mine r && r.broken)
  let s := { s with specs := s.specs.filter (fun r => !mine r) }
  match l.tgt with
  | .hbm a =>
    if s.writable (.fn v.vf (v.row o.level)) a = false then refuseAt s c w id l.lane v.vf a
    else
      let n := accSize o.opc o.f
      let r := atomOn o.opc (o.f.m 11 3) (o.f.m 0 3) old l.src.toNat l.src2.toNat broken
      let wr := laneWriter c w v.gang o.spo o.off l.lane
      let s := match r.new with | some x => homeWrite s wr a (leBytes n x) | none => s
      atomEnd (watchSlice s (some c) wr a n) c w id o l r
  | _ => s

/-- An atomic of a lane on HBM4 (03 R69, R84; 04 R97, R103; 16 R367; 17 R381). -/
def atomHbm (s : State) (c w id : Nat) (v : Wave) (o : Op) (l : LaneOp) (a : Nat) : Option State :=
  let party : Party := .fn v.vf (v.row o.level)
  let may := if o.opc = 0xCB then s.owned party a else s.writable party a
  if may = false then some (refuseAt s c w id l.lane v.vf a)
  else if (wqLine (s.core c) (a / 64)).isEmpty = false then none
  else if gathers o l then
    let q : QuantAdd := { core := c, wave := w, op := id, lane := l.lane, spa := a, n64 := type64 (o.f.m 11 3), amount := l.src.toNat }
    some (setLane (s.modCluster (clusterOf c) (fun k => { k with quant := k.quant ++ [q] })) c w id l.lane .waiting)
  else if s.linePois a then some (atomPoisoned s c w id v o l)
  else
    let n := accSize o.opc o.f
    let old := leNat (s.bytesAt a n)
    let s := homeTouch (dropL1 s c (a / 64)) (a / 64)
    if isSpec o && !specLost o then some (specBegin s c w v o l a old)
    else
      let r := atomAt o l old
      let wr := laneWriter c w v.gang o.spo o.off l.lane
      let s := match r.new with | some x => homeWrite s wr a (leBytes n x) | none => s
      some (atomEnd (watchSlice s (some c) wr a n) c w id o l r)

/-- An atomic of a lane behind a host port: the value it finds is free (18 R394). [log 44: DESIGN CHOICE, unsafe] -/
def atomPort (s : State) (c w id : Nat) (v : Wave) (o : Op) (l : LaneOp) (port a : Nat) : Option State :=
  if (s.core c).wq.any (fun e => e.tgt.orders l.tgt) then none
  else
    let n := accSize o.opc o.f
    let (t, b) := portRead s v.vf port a n
    let r := atomAt o l (leNat b)
    let t := match r.new with | some x => portWrite t c port a v.vf (leBytes n x) | none => t
    some (atomEnd t c w id o l r)

/-- The ATOMIC flit of a lane (18 R397, R399): the location by BMASK, REL under a releasing ordering. -/
def atomFlit (s : State) (o : Op) (l : LaneOp) (node r : Nat) : Flit :=
  { flitTo s 4 node 0 (r / 64 * 64) with
    bmask := BitVec.ofNat 64 ((2 ^ accSize o.opc o.f - 1) * 2 ^ (r % 64)), flags := if atomReleases o then 3 else 1,
    op := o.opc - 0xC0, otype := o.f.m 11 3, opnd := l.src.setWidth 64, opnd2 := l.src2 }

/-- An atomic of a lane on a peer (18 R397, R417). -/
def atomPeer (s : State) (c w id : Nat) (v : Wave) (o : Op) (l : LaneOp) (node r : Nat) : Option State :=
  match peerSub s node r with
  | some k => some (failAccess s c w id l.lane 23 k 0)
  | none =>
    if (s.core c).wq.any (fun e => e.tgt.orders l.tgt) then none
    else
      let tid := s.nextTid
      let s := sendReq s { tid := 0, node := node, link := 0, who := some (c, w, v.uid, id, l.lane), cmd := none, chunk := none,
                           addr := r / 64 * 64, len := accSize o.opc o.f, since := 0, got := none } (atomFlit s o l node r)
      some (setLane s c w id l.lane (.sent tid))

/-- An atomic of a lane on a register block, as a read and a write of the register (18 R391). -/
def atomRegs (s : State) (c w id : Nat) (v : Wave) (o : Op) (l : LaneOp) (f off : Nat) : State :=
  let n := accSize o.opc o.f
  if regAccessOk off n true then
    let r := atomAt o l (leNat (regRead s f off n))
    let s := match r.new with | some x => regWrite s f (o.level == .h) off (leBytes n x) | none => s
    atomEnd s c w id o l r
  else refuseAt s c w id l.lane v.vf (0x3F0000000000 + 65536 * f + off)

/-- A lane's atomic of the shared space is performed; none while it waits. A gathered add needs no place among its own word's
lanes. -/
def atomStep (s : State) (c w id : Nat) (v : Wave) (o : Op) (l : LaneOp) : Option State :=
  if ordOf o.f ≠ 3 ∧ laneBlocked o l.lane l.va then none
  else
    match l.tgt with
    | .hbm a => atomHbm s c w id v o l a
    | .port p a => atomPort s c w id v o l p a
    | .peer node r => atomPeer s c w id v o l node r
    | .regs f off => if (s.core c).wq.any (fun e => e.tgt.orders l.tgt) then none else some (atomRegs s c w id v o l f off)
    | .window _ => some (failAccess s c w id l.lane 10 1 0)
    | _ => some (failAccess s c w id l.lane 11 2 0xFFFFFFFF)

/-! ## Local accesses -/

/-- A local word's lanes are performed, lowest first (03 R65, R73). -/
def localStep (s : State) (c w id lane : Nat) (v : Wave) (o : Op) (b : Buf) : Option State :=
  let ls := o.lanes.filter (fun l => l.st == .ready)
  if localBlocked v id || ls.any (fun l => gated v id (some l.lane)) then none
  else
    let (s, ws, e) := localAll s { core := c, wid := w, level := o.level, spo := o.spo, off := o.off, lost := o.n == 1 } v o.opc o.f b ls
    let s := s.modWave c w (fun v => v.modOp id (fun o =>
      { o with writes := o.writes ++ ws, exc := o.exc ||| e,
               lanes := o.lanes.map (fun (l : LaneOp) => if l.st = .ready then { l with st := .known } else l) }))
    some (finishLane s c w id lane [] 0)

/-! ## Replays -/

/-- The access a word makes (09 R198): the accesses of atomics ask to read and to write. -/
def accOf (o : Op) : Acc := if isAtomic o.opc then accRW o.level else if isStore o.opc then accW o.level else accR o.level

/-- Looks an access up again: its place, or a cause of R200 (03 R66; 16 R365). -/
def relook (s : State) (c : Nat) (v : Wave) (o : Op) (l : LaneOp) (fresh : Bool) : State × Except Nat LaneOp :=
  let wt : Want := { lane := l.lane, va := l.va, src := l.src, src2 := l.src2 }
  let past : Past := if l.past = .fresh then .held else l.past
  let mk (t : Target) : LaneOp := { l with tgt := t, st := .ready, past := past }
  if canonical l.va = false then (s, .error 6)
  -- JOBPOST's second read has had no check yet (09 R224)
  else if o.opc = 0xDF ∧ l.va.toNat % readSize o ≠ 0 then (s, .error 7)
  else if inWindow l.va then (s, .ok (mk (.window l.va.toNat)))
  else if inHeap l.va then
    if !heapRead o.opc || !heapReadable s v.vf l.va then (s, .error 18) else (s, .ok (mk (.heap (heapSpa s l.va))))
  else
    let (s, r) := lookRegion s c v.vf (v.row o.level) (accOf o) l.va.toNat fresh
    match placeLane s c v.vf o.level wt r with
    | (s, .ok n) => (s, .ok { n with past := if n.past = .logged then .logged else past })
    | (s, .error k) => (s, .error k)

/-- A lane takes the place a new look-up gives it. -/
def replace (s : State) (c w id : Nat) (v : Wave) (o : Op) (l : LaneOp) (fresh : Bool) : State :=
  match relook s c v o l fresh with
  | (s, .error k) => freeLog (failAccess s c w id l.lane k 0 0) c w id
  | (s, .ok n) =>
    let s := s.modWave c w (fun v => v.modLaneOp id l.lane (fun _ => n))
    let s := takeLog (freeLog s c w id) c w id
    if isStore o.opc then kickStore s c w id l.lane else s

/-- One logged lane of an entry whose requests are all answered: PAGE_REFUSED, or its replay (03 R87; 16 R365). -/
def replayLane (s : State) (c w id lane : Nat) : State :=
  match (s.slot? c w).bind (fun t => (t.wave.op? id).map (fun o => (t.wave, o))) with
  | none => s
  | some (v, o) =>
    match o.lanes.find? (fun l => l.lane == lane) with
    | none => s
    | some l =>
      match l.st with
      | .logged ts =>
        match refusalOf s ts with
        | some (st, q) => failAccess s c w id lane 11 st q
        | none => replace s c w id v o l true
      | _ => s

/-- Lanes of an operation that wait on page requests, and the requests. -/
def Op.loggedLanes (o : Op) : List (Nat × List Nat) :=
  o.lanes.filterMap (fun l => match l.st with | .logged ts => some (l.lane, ts) | _ => none)

/-- A log entry whose requests are all answered replays its lanes; none while one is open (03 R86, R87; 16 R365). [log 42: DESIGN CHOICE, unsafe] -/
def replayStep (s : State) (c w id : Nat) (o : Op) : Option State :=
  if (unanswered s (o.loggedLanes.flatMap Prod.snd)).isEmpty = false then none
  else some (o.loggedLanes.foldl (fun s p => replayLane s c w id p.1) s)

/-- A lane behind an earlier access of its region goes on once that one is no longer pending (03 R86). -/
def behindStep (s : State) (c w id : Nat) (v : Wave) (o : Op) (l : LaneOp) : Option State :=
  if v.ops.any (fun p => decide (p.id < id) && p.lanes.any (fun k => pendingRegion k l.va)) then none
  else some (replace s c w id v o l false)

/-! ## MEMORY_OP_COMPLETE -/

/-- A lane's result is known: the word's own last steps (02 R58; 09 R224; 12 R287; 14 R331). -/
def knownStep (s : State) (c w id lane : Nat) (v : Wave) (o : Op) (l : LaneOp) : Option State :=
  if o.opc = 0xDF then (if gated v id (some lane) then none else jobpostStep s c w id lane)
  else if o.opc = 0xE0 ∨ o.opc = 0xE1 then
    if (o.texels (texOwner lane)).all (fun l => l.st == .known) then some (texFinish s c w id (texOwner lane)) else none
  else if o.opc = 0xE6 ∨ o.opc = 0xE7 then (if gated v id (some lane) then none else stkOnce s c w id lane v o l)
  else if 0xF7 ≤ o.opc then (if gated v id (some lane) then none else privOnce s c w id lane v o l)
  else some (finishLane s c w id lane [] 0)

/-- The release an ordered atomic carries: marked done once it is (04 R97). One that acquires at HOST or SYS also waits for the
wave's earlier reads of hosts and peers (03 R68). -/
def atomRelease (s : State) (c w id : Nat) (v : Wave) (o : Op) : Option State :=
  if atomWaits (s.core c) v o then none
  else if isAtomic o.opc && atomReleases o && !o.released then
    some (s.modWave c w (fun v => v.modOp id (fun o => { o with released := true })))
  else some s

/-- A lane that has issued and is not performed: its access at its target (04 R94 to R97; 09 R200). -/
def readyStep (s : State) (c w id lane : Nat) (v : Wave) (o : Op) (l : LaneOp) : Option State :=
  if gated v id (some l.real) then none
  else if o.opc = 0xCE then
    if releaseDone (s.core c) v id (o.f.m 7 4) && acquireMay v id (o.f.m 7 4)
    then some (finishLane (acquireAt s c (o.f.m 7 4)) c w id lane [] 0) else none
  else if [0xED, 0xEE, 0xEF].contains o.opc then exportStep s c w id v o
  else if o.opc = 0xEB ∨ o.opc = 0xEC then some (queueStep s c w id lane v o)
  else
    match localBuf o.opc o.f with
    | some b => (atomRelease s c w id v o).bind (fun s => localStep s c w id lane v o b)
    | none =>
      if isShared o = false ∨ sharedBlocked v id l.va = true then none
      else if isAtomic o.opc then (atomRelease s c w id v o).bind (fun s => atomStep s c w id v o l)
      else if isStore o.opc then storeStep s c w id v o l
      else loadStep s c w id v o l

/-- What comes next for a lane of an operation; none where it only waits. -/
def laneStep (s : State) (c w id lane : Nat) (v : Wave) (o : Op) (l : LaneOp) : Option State :=
  match l.st with
  | .done => none
  | .waiting => none
  | .sent _ => none
  | .read x => some (specEnd s c w id v o l x.toNat)
  | .known => knownStep s c w id lane v o l
  | .logged _ => replayStep s c w id o
  | .behind => behindStep s c w id v o l
  | .queued e => drainStep s c e
  | .ready => readyStep s c w id lane v o l

/-- MEMORY_OP_COMPLETE (09 R200): the next step of a lane of a long-latency operation, up to its completion. -/
def execMemoryOpComplete (core wave op lane : Nat) (s : State) : Res :=
  let s := openGates s core wave
  match s.slot? core wave with
  | none => .fault .notEnabled
  | some t =>
    match t.wave.op? op with
    | none => .fault .notEnabled
    | some o =>
      match o.lanes.find? (fun l => l.lane == lane) with
      | none => .fault .notEnabled
      | some l =>
        match laneStep s core wave op lane t.wave o l with
        | some s => .next s
        | none => .fault .notEnabled

/-! ## QUANTUM adds -/

/-- A gathered add whose wave may still write the location (16 R367); the others end refused. -/
def quantMay (s : State) (q : QuantAdd) : Bool :=
  match (s.slot? q.core q.wave).bind (fun t => (t.wave.op? q.op).map (fun o => (t.wave, o))) with
  | some (v, o) => s.writable (.fn v.vf (v.row o.level)) q.spa
  | none => false

/-- Ends a gathered add with its base (04 R103). -/
def quantEnd (s : State) (q : QuantAdd) (base : Nat) : State :=
  match (s.slot? q.core q.wave).bind (fun t => t.wave.op? q.op) with
  | none => s
  | some o => finishLane s q.core q.wave q.op q.lane (atomWrites o.opc o.f q.lane (base % (if q.n64 then 2 ^ 64 else 2 ^ 32)) true) 0

/-- A gathered add on a poisoned line (03 R84). -/
def quantPoisoned (s : State) (q : QuantAdd) : State :=
  match (s.slot? q.core q.wave).bind (fun t => (t.wave.op? q.op).map (fun o => (t.wave, o))) with
  | some (v, o) =>
    match o.lanes.find? (fun l => l.lane == q.lane) with
    | some l => atomPoisoned s q.core q.wave q.op v o l
    | none => s
  | none => s

/-- The bases of adds from V up, one after another. -/
def quantBases : List QuantAdd → Nat → List (QuantAdd × Nat)
  | [], _ => []
  | q :: r, v => (q, v) :: quantBases r (v + q.amount)

/-- The writer of a quantum's one add. -/
def quantWriter (s : State) (q : QuantAdd) : Writer :=
  match (s.slot? q.core q.wave).bind (fun t => (t.wave.op? q.op).map (fun o => (t.wave, o))) with
  | some (v, o) => laneWriter q.core q.wave v.gang o.spo o.off q.lane
  | none => laneWriter q.core q.wave 0 0 0 q.lane

/-- One add of the total at the home slice, and a sub-range for each lane in an order that nothing fixes (04 R103). [log 46: DESIGN CHOICE, unsafe] -/
def quantDo (s : State) (qs : List QuantAdd) (q : QuantAdd) : State :=
  let n := if q.n64 then 8 else 4
  let k := s.free
  let order := ((qs.zipIdx).mergeSort (fun a b => decide (Config.quantumOrder k a.2 ≤ Config.quantumOrder k b.2))).map Prod.fst
  let v := leNat (s.bytesAt q.spa n)
  let total := qs.foldl (fun t x => t + x.amount) 0
  let s := { s with free := s.free + 1 }
  let s := qs.foldl (fun s x => dropL1 s x.core (q.spa / 64)) s
  let wr := quantWriter s q
  let s := homeWrite s wr q.spa (leBytes n ((v + total) % 2 ^ (8 * n)))
  let s := watchSlice s (if qs.all (fun x => x.core == q.core) then some q.core else none) wr q.spa n
  (quantBases order v).foldl (fun s p => quantEnd s p.1 p.2) s

/-- QUANTUM_GATHER (04 R103): the adds gathered for the oldest one's location, performed by one add of their total. -/
def execQuantumGather (cluster : Nat) (s : State) : Res :=
  match (s.cluster cluster).quant with
  | [] => .fault .notEnabled
  | q :: _ =>
    let mine (x : QuantAdd) : Bool := x.spa == q.spa && x.n64 == q.n64
    let all := (s.cluster cluster).quant.filter mine
    let s := s.modCluster cluster (fun k => { k with quant := k.quant.filter (fun x => !mine x) })
    let qs := all.filter (quantMay s)
    let s := (all.filter (fun x => !quantMay s x)).foldl (fun s x =>
      refuseAt s x.core x.wave x.op x.lane (((s.slot? x.core x.wave).map (fun t => t.wave.vf)).getD 0) x.spa) s
    match qs with
    | [] => .next s
    | q :: _ => .next (if s.linePois q.spa then qs.foldl quantPoisoned s else quantDo s qs q)

end Sys2Proof.Machine
end

