-- ==== Sys2Proof/Machine/Peers.lean ====
section
/-! DEFINITION. Flits received from peers: replay and forwarding, inbound accesses, answers, failures (18 R395 to R399, R417). -/

namespace Sys2Proof.Machine

/-! ## Outstanding requests -/

/-- The operation of a lane's request, while its wave is resident. -/
def PeerReq.op? (s : State) (q : PeerReq) : Option (Nat × Nat × Wave × Op) :=
  match q.who with
  | none => none
  | some (c, w, uid, id, _) =>
    match s.slot? c w with
    | none => none
    | some t => if t.wave.uid = uid then (t.wave.op? id).map (fun o => (c, w, t.wave, o)) else none

/-- The type of a request's flit: 1 WRITE, 2 READ, 4 ATOMIC. -/
def PeerReq.kind (s : State) (q : PeerReq) : Nat :=
  match q.op? s with
  | some (_, _, _, o) => if isAtomic o.opc then 4 else if isStore o.opc then 1 else 2
  | none => if q.cmd.any (fun k => k.2.1 == 7) then 4 else if q.chunk.isSome then 1 else 2

/-- The outstanding request a response of a node answers. -/
def State.peer? (s : State) (tid : W64) (src : Byte) (kind : Nat) : Option PeerReq :=
  s.peers.find? (fun q => q.tid == tid.toNat && q.node == src.toNat && q.got.isNone && q.kind s == kind)

/-- Removes a request. -/
def dropReq (s : State) (q : PeerReq) : State := { s with peers := s.peers.filter (fun p => p.tid != q.tid) }

/-- Lanes of an operation that wait for a transaction. -/
def sentLanes (o : Op) (tid : Nat) : List LaneOp := o.lanes.filter (fun l => l.st == .sent tid)

/-- A request fails (18 R398, R417): its lanes take PEER with a SUB, its engine sector fails. -/
def failReq (s : State) (q : PeerReq) (sub : Nat) : State :=
  match q.op? s with
  | some (c, w, _, o) => (sentLanes o q.tid).foldl (fun s l => failAccess s c w o.id l.lane 23 sub 0) (dropReq s q)
  | none =>
    match q.cmd, q.chunk with
    | some (c, kind, cmd), some k => engFailed (dropReq s q) c kind cmd k q.more 11
    | some _, none => { s with peers := s.peers.map (fun (p : PeerReq) => if p.tid = q.tid then { p with got := some none } else p) }
    | none, _ => dropReq s q

/-! ## Links -/

/-- A link's readiness bit changes (18 R409). -/
def setLink (s : State) (link : Nat) (up : Bool) : State :=
  let b : BitVec 16 := (1 : BitVec 16) <<< link
  msixEvent { s with rdy := { s.rdy with links := if up then s.rdy.links ||| b else s.rdy.links &&& ~~~b } } 0 5

/-- A link goes down after 16 replays (18 R398): its requests fail with LINKDOWN. [log 125: DEDUCED, unsafe] -/
def linkDown (s : State) (link : Nat) : State :=
  let s := elog (setLink s link false) 4 0xFF link 0xFFFF 0 0
  (s.peers.filter (fun q => q.link == link && q.got.isNone)).foldl (fun s q => failReq s q 4) s

/-- A CRC mismatch: a replay is asked for from the first LSEQ not received (18 R398). -/
def askReplay (s : State) (link : Nat) : State :=
  let k := Tab.get default s.links link
  let s := (sieveCount s 3).send (.replayAsk link k.expect)
  let n := k.replays + 1
  let s := { s with links := Tab.put default s.links link { k with replays := if n < 16 then n else 0 } }
  if n < 16 then s else linkDown s link

/-- LINK_RETRAINED (18 R398, R409). -/
def execLinkRetrained (link : Nat) (s : State) : Res :=
  if 16 ≤ link ∨ s.rdy.links.getLsbD link = true then .fault .notEnabled else .next (setLink s link true)

/-- Sends a flit to a node on the link ROUTE names, where it names one that is up. -/
def sendTo (s : State) (f : Flit) : State :=
  match linkOf s f.dst.toNat with
  | some l => if s.rdy.links.getLsbD l then sendFlit s l f else s
  | none => s

/-- The NAK of a request (18 R398). -/
def nak (s : State) (f : Flit) : State := sendTo s { flitTo s 7 f.src.toNat 0 0 with tid := f.tid, addr := f.addr }

/-- A flit for another node is forwarded on ROUTE[DST]; a request that cannot be carried is answered with NAK (18 R398). -/
def forward (s : State) (f : Flit) : State :=
  match linkOf s f.dst.toNat with
  | some l => if s.rdy.links.getLsbD l then sendFlit s l f
      else if [1, 2, 4].contains f.type.toNat then nak s f else s
  | none => if [1, 2, 4].contains f.type.toNat then nak s f else s

/-- What arrives on a link as a flit of a type (18 R397, R398): replayed, discarded and counted, forwarded, or acted on. [log 123: DEDUCED, unsafe] -/
def receive (link : Nat) (f : Flit) (type : Nat) (s : State) (act : State → State) : Res :=
  let k := Tab.get default s.links link
  if 16 ≤ link ∨ s.rdy.links.getLsbD link = false then .fault .notEnabled
  else if f.crcOk = false then .next (askReplay s link)
  -- between a mismatch and its replay, later flits are received again
  else if 0 < k.replays ∧ f.lseq ≠ k.expect then .next s
  else
    let s := { s with links := Tab.put default s.links link { k with expect := f.lseq + 1, replays := 0 } }
    if f.flags.toNat / 4 ≠ 0 ∨ f.type.toNat = 0 ∨ 7 < f.type.toNat then .next (sieveCount s 2)
    else if f.type.toNat ≠ type then .fault .notEnabled
    else .next (if f.dst.toNat = s.conf.nodeid then act s else forward s f)

/-! ## Inbound accesses -/

/-- The function an inbound access acts for, where its address may be used (18 R396). [log 124: DEDUCED, unsafe] -/
def inbound (s : State) (f : Flit) (write : Bool) : State × Option Nat :=
  let vf := Tab.get 0xFF s.conf.inb f.src.toNat
  let a := f.addr.toNat
  if 64 ≤ vf ∨ a % 64 ≠ 0 ∨ hbmEnd ≤ a then (s, none)
  else if (if write then s.writable (.fn vf .u) a else s.owned (.fn vf .u) a) then (s, some vf)
  else (refuseOwner s vf 0xFFFF a, none)

/-- Runs of set bits of BMASK, as offset and length. -/
def maskRuns (m : W64) : List (Nat × Nat) :=
  (List.range 64).foldl (fun r i =>
    if m.getLsbD i = false then r
    else match r.getLast? with
      | some (o, n) => if o + n = i then r.dropLast ++ [(o, n + 1)] else r ++ [(i, 1)]
      | none => [(i, 1)]) []

/-- The answer of a request to its source. -/
def answerTo (s : State) (f : Flit) (type : Nat) : Flit := { flitTo s type f.src.toNat 0 0 with tid := f.tid, addr := f.addr }

/-- An inbound WRITE (18 R396, R399): performed at the home slice, acknowledged by a CREDIT with its TID. -/
def inWrite (s : State) (f : Flit) : State :=
  match inbound s f true with
  | (s, none) => nak s f
  | (s, some _) =>
    let s := (maskRuns f.bmask).foldl (fun s r => homeWrite s hostWriter (f.addr.toNat + r.1) ((f.data.drop r.1).take r.2)) s
    sendTo s (answerTo s f 6)

/-- An inbound READ (18 R396): 64 bytes; +0 from a poisoned line (03 R84). -/
def inRead (s : State) (f : Flit) : State :=
  match inbound s f false with
  | (s, none) => nak s f
  | (s, some _) =>
    let a := f.addr.toNat
    let s := homeTouch s (a / 64)
    sendTo s { answerTo s f 3 with data := if s.linePois a then List.replicate 64 0 else s.bytesAt a 64 }

/-- TYPE values an atomic takes (09 R211). -/
def atomType (o t : Nat) : Bool :=
  if o = 0xCA then decide (4 ≤ t ∧ t ≤ 7) else if o = 0xC8 ∨ o = 0xC9 then t == 0 || t == 2 else decide (t ≤ 3)

/-- An inbound ATOMIC (18 R396, R397): BMASK names the location, OPND the operation; the flit carries no rounding mode. -/
def inAtomic (s : State) (f : Flit) : State :=
  let o := 0xC0 + f.op
  let n := if type64 f.otype then 8 else 4
  let off := match maskRuns f.bmask with | r :: _ => r.1 | [] => 0
  match inbound s f (o != 0xCB) with
  | (s, none) => nak s f
  | (s, some _) =>
    if 0xCC < o ∨ atomType o f.otype = false ∨ off % n ≠ 0 then nak s f
    else
      let a := f.addr.toNat + off
      let done (s : State) (old : Nat) : State := sendTo s { answerTo s f 5 with opnd := BitVec.ofNat 64 old }
      if s.linePois a then done s 0
      else
        let r := atomOn o f.otype (Config.unstated 0x105 s.free 0 % 4) (leNat (s.bytesAt a n)) f.opnd.toNat f.opnd2.toNat false
        let s := homeTouch s.useFree (a / 64)
        let s := match r.new with | some x => homeWrite s hostWriter a (leBytes n x) | none => s
        done (watchSlice s none hostWriter a n) r.old

/-! ## Answers -/

/-- A read response (18 R397): to the lanes of the line, or to the engine that asked. -/
def readAnswer (s : State) (f : Flit) : State :=
  match s.peer? f.tid f.src 2 with
  | none => s
  | some q =>
    match q.op? s with
    | some (c, w, v, o) =>
      (sentLanes o q.tid).foldl (fun s l =>
        settleLane (deliver s c w o.id o l v.vf ((f.data.drop (l.va.toNat % 64)).take (readSize o)) false) c w o.id l.lane) (dropReq s q)
    | none => { s with peers := s.peers.map (fun (p : PeerReq) => if p.tid = q.tid then { p with got := some (some f.data) } else p) }

/-- An atomic response (18 R397): the value found, to its lanes or to the queue that asked for its counter. -/
def atomAnswer (s : State) (f : Flit) : State :=
  match s.peer? f.tid f.src 4 with
  | none => s
  | some q =>
    match q.op? s with
    | some (c, w, _, o) =>
      (sentLanes o q.tid).foldl (fun s l =>
        atomEnd s c w o.id o l (atomOn o.opc (o.f.m 11 3) (o.f.m 0 3) (f.opnd.toNat % 2 ^ (8 * accSize o.opc o.f))
          l.src.toNat l.src2.toNat false)) (dropReq s q)
    | none =>
      if q.cmd.isSome then { s with peers := s.peers.map (fun (p : PeerReq) =>
        if p.tid = q.tid then { p with got := some (some (leBytes 8 f.opnd.toNat)) } else p) }
      else dropReq s q

/-- A credit (18 R397): returned to its link, and the acknowledgement of the write it names. -/
def creditAnswer (s : State) (link : Nat) (f : Flit) : State :=
  let k := Tab.get default s.links link
  let s := { s with links := Tab.put default s.links link { k with credits := k.credits + 1 } }
  match s.peer? f.tid f.src 1 with
  | none => s
  | some q =>
    match q.op? s with
    | some (c, w, _, o) => (sentLanes o q.tid).foldl (fun s l => finishLane s c w o.id l.lane [] 0) (dropReq s q)
    | none => dropReq s q

/-- A NAK, of the target or of a node on the way, fails the request it names (18 R398, R417). -/
def nakAnswer (s : State) (f : Flit) : State :=
  match s.peers.find? (fun q => q.tid == f.tid.toNat && q.got.isNone) with
  | some q => failReq s q 2
  | none => s

/-! ## Events -/

/-- FLIT_WRITE (18 R397, R399). -/
def execFlitWrite (link : Nat) (flit : BitVec 1024) (s : State) : Res :=
  receive link (flitOf flit) 1 s (fun s => inWrite s (flitOf flit))
/-- FLIT_READ (18 R397). -/
def execFlitRead (link : Nat) (flit : BitVec 1024) (s : State) : Res :=
  receive link (flitOf flit) 2 s (fun s => inRead s (flitOf flit))
/-- FLIT_READRSP (18 R397). -/
def execFlitReadrsp (link : Nat) (flit : BitVec 1024) (s : State) : Res :=
  receive link (flitOf flit) 3 s (fun s => readAnswer s (flitOf flit))
/-- FLIT_ATOMIC (18 R397). -/
def execFlitAtomic (link : Nat) (flit : BitVec 1024) (s : State) : Res :=
  receive link (flitOf flit) 4 s (fun s => inAtomic s (flitOf flit))
/-- FLIT_ATOMRSP (18 R397). -/
def execFlitAtomrsp (link : Nat) (flit : BitVec 1024) (s : State) : Res :=
  receive link (flitOf flit) 5 s (fun s => atomAnswer s (flitOf flit))
/-- FLIT_CREDIT (18 R397). -/
def execFlitCredit (link : Nat) (flit : BitVec 1024) (s : State) : Res :=
  receive link (flitOf flit) 6 s (fun s => creditAnswer s link (flitOf flit))
/-- FLIT_NAK (18 R398, R417). -/
def execFlitNak (link : Nat) (flit : BitVec 1024) (s : State) : Res :=
  receive link (flitOf flit) 7 s (fun s => nakAnswer s (flitOf flit))

/-- PEER_TIMEOUT (18 R398, R417). -/
def execPeerTimeout (tid : Nat) (s : State) : Res :=
  match s.peers.find? (fun q => q.tid == tid && q.got.isNone) with
  | none => .fault .notEnabled
  | some q => if s.fc < q.since + 2 ^ 24 then .fault .notEnabled else .next (failReq s q 3)

end Sys2Proof.Machine
end

