-- ==== Sys2Proof/Machine/Leave.lean ====
section
/-! DEFINITION. The barrel's events, block fetches, spills and refills of the reconvergence stack, and the end of a wave and of its
gang (01 R16, R20 to R24, R28; 06 R134; 07 R158, R159; 09 R220; 10 R242, R249; 12 R284, R296; 14 R332). -/

namespace Sys2Proof.Machine

/-! ## Spills and refills -/

/-- Removes a spill from the log; its entry is free (07 R159; 03 R85). -/
def dropSpill (s : State) (c w : Nat) (e : Spill) : State :=
  let s := s.modWave c w (fun v => { v with spillLog := v.spillLog.filter (fun x => x.idx != e.idx) })
  if e.log = .entry then giveFreed s c (quarterOf w) else s

/-- Logged spill writes whose requests are all answered are made again, or dropped where a page was refused (07 R159). -/
def replaySpills (s : State) (c w : Nat) : State :=
  match s.slot? c w with
  | none => s
  | some t =>
    (t.wave.spillLog.filter (fun e => (unanswered s e.tickets).isEmpty)).foldl (fun s e =>
      let s := dropSpill s c w e
      match refusalOf s e.tickets with
      | some _ => s
      | none => spillWrite s c w e.idx e.entry) s

/-- How the read of a spilled entry went. -/
inductive Refill where
  | got (e : RsEntry)
  | wait (ticket : Nat)
  | refused
  deriving DecidableEq, Repr

/-- Reads spilled entry d of a wave at level G of its function (07 R159); a poisoned one reads as zeros (03 R83). [log 27: DESIGN CHOICE, unsafe] -/
def refillRead (s : State) (c w : Nat) (v : Wave) (lane d : Nat) (fresh : Bool) : State × Refill :=
  let f := v.vf
  let va := v.rsbase + BitVec.ofNat 64 (16 * d)
  match translate s (some c) (.fn f (v.row .g)) f va.toNat (accR .g) fresh with
  | (s, .fault st cause tb g) =>
    let (s, k) := requestOf s (some c) f va.toNat (accR .g) st cause tb g
    (s, .wait k)
  | (s, .refused a) => (refuseOwner s f c a, .refused)
  | (s, .ok en) =>
    match en.elide, targetOf f .g (en.apply va.toNat) with
    | false, .hbm a =>
      if s.owned (.fn f (v.row .g)) a = false then (refuseOwner s f c a, .refused)
      else
        let (s, b, bad) := coreRead s c f a 16
        if bad then
          (poisonSeen s c w lane .g (BitVec.ofNat 32 (Config.unstated 0x106 d s.free)) 31 va f, .got { rpc := 0, mask := 0 })
        else (s, .got (RsEntry.ofBytes b))
    | _, _ => (s, .refused)

/-- Reads the entries ds: all of them, or the requests to wait on, or the first address refused. -/
def refillReads (s : State) (c w : Nat) (v : Wave) (lane : Nat) (fresh : Bool) : List Nat → List RsEntry → List Nat →
    State × Except Nat (List RsEntry × List Nat)
  | [], es, ts => (s, .ok (es, ts))
  | d :: r, es, ts =>
    match refillRead s c w v lane d fresh with
    | (s, .got e) => refillReads s c w v lane fresh r (es ++ [e]) ts
    | (s, .wait k) => refillReads s c w v lane fresh r es (setIns ts k)
    | (s, .refused) => (s, .error d)

/-- The refill of a wave is over, or waits on new requests: its log entry goes with it, or it takes one (07 R159; 03 R85). -/
def setRefill (s : State) (c w : Nat) (old : Refilling) (new : Option Refilling) : State :=
  match new with
  | none =>
    let s := s.modWave c w (fun v => { v with refill := none })
    if old.log = .entry then giveFreed s c (quarterOf w) else s
  | some r =>
    let l : LogSt := if old.log ≠ .none then old.log else if logUse (s.core c) (quarterOf w) < 64 then .entry else .port
    s.modWave c w (fun v => { v with refill := some { r with log := l } })

/-- The lanes a refused refill released take PAGE_REFUSED (07 R159; 03 R87). -/
def refillRefused (s : State) (c w : Nat) (v : Wave) (r : Refilling) (d sub : Nat) (seq : W32) : State :=
  let s := setRefill s c w r none
  (maskLanes r.freed).foldl (fun s l =>
    match v.lanes[l]? with
    | some x =>
      if x.exited then s
      else completionCause s c w l
        { code := 11, sub := sub, spo := BitVec.ofNat 32 (Config.unstated 0x106 d l), off := 31,
          aux := v.rsbase + BitVec.ofNat 64 (16 * d), aux2 := seq, level := x.level }
    | none => s) s

/-- Entries read back go below those pushed meanwhile, as many as there is room for on chip; none where others have been spilled
since (07 R159). -/
def Wave.refilled (v : Wave) (r : Refilling) (es : List RsEntry) : Wave :=
  let n := if v.spilled = r.from_ then min es.length (16 - v.stack.length) else 0
  { v with stack := v.stack ++ es.take n, spilled := v.spilled - n }

/-- A refill in progress goes on: the newest min(8, spilled) entries, newest on top; none while a request is open, or while the
write of one of them is still logged (07 R159). -/
def refillStep (s : State) (c w : Nat) : Option State :=
  match (s.slot? c w).map Slot.wave with
  | none => none
  | some v =>
    match v.refill with
    | none => none
    | some r =>
      let n := min 8 r.from_
      let first := r.from_ - n
      if (unanswered s r.tickets).isEmpty = false then none
      else
        match refusalOf s r.tickets with
        | some (st, q) => some (refillRefused s c w v r (r.from_ - 1) st q)
        | none =>
          if v.spillLog.any (fun e => decide (first ≤ e.idx ∧ e.idx < r.from_)) then none
          else
            match refillReads s c w v (lowest (maskLanes r.freed)) (!r.tickets.isEmpty)
                ((List.range n).map (fun i => r.from_ - 1 - i)) [] [] with
            | (s, .error d) => some (refillRefused s c w v r d 2 0xFFFFFFFF)
            | (s, .ok (es, [])) => some ((setRefill s c w r none).modWave c w (fun v => v.refilled r es))
            | (s, .ok (_, ts)) => some (setRefill s c w r (some { r with tickets := ts }))

/-- RECONV_REFILL_COMPLETE (07 R158, R159): logged spill writes that were answered, and the refill in progress. -/
def execReconvRefillComplete (core wave : Nat) (s : State) : Res :=
  let t := replaySpills s core wave
  match refillStep t core wave with
  | some u => .next u
  | none =>
    match s.slot? core wave with
    | some x => if x.wave.spillLog.any (fun e => (unanswered s e.tickets).isEmpty) then .next t else .fault .notEnabled
    | none => .fault .notEnabled

/-! ## The barrel -/

/-- BARREL_VISIT (01 R16): a quarter between runs visits its next slot. -/
def execBarrelVisit (core quarter : Nat) (s : State) : Res :=
  if 4 ≤ quarter ∨ (s.quarter core quarter).run.isSome = true then .fault .notEnabled
  else
    let w := 16 * quarter + (s.quarter core quarter).slot
    .next (visit (replaySpills (openGates s core w) core w) core quarter)

/-- A fetch's requests have all been answered with RETRY: its block is fetched afresh (06 R134; 16 R365). -/
def Hold.retried (s : State) (h : Hold) : Bool :=
  match h with
  | .fetch ts => (unanswered s ts).isEmpty && (refusalOf s ts).isNone
  | _ => false

/-- A lane without its fetch's hold. -/
def Lane.unfetch (x : Lane) : Lane := { x with holds := x.holds.filter (fun h => match h with | .fetch _ => false | _ => true) }

/-- Lanes of a wave whose block at a PC a quarter fetches: those nothing holds but a fetch that was answered (06 R134). -/
def fetchLanes (s : State) (v : Wave) (pc : W64) (lv : Level) : List Nat :=
  (List.range 32).filter (fun l =>
    (match v.lanes[l]? with | some x => x.pc == pc && x.level == lv && x.holds.all (Hold.retried s) | none => false) &&
      candidate { v with lanes := listAdj v.lanes l Lane.unfetch } l)

/-- Some of a list of lanes waited for a fetch that was answered. -/
def anyRetried (v : Wave) (ls : List Nat) : Bool :=
  ls.any (fun l => match v.lanes[l]? with | some x => !x.holds.isEmpty | none => false)

/-- Fetches the block for the lanes of one level: in the L0, refused, or held until page requests are answered; after a RETRY, afresh (06
R134; 16 R365). -/
def fetchFor (s : State) (c w : Nat) (v : Wave) (pc : W64) (lv : Level) : State :=
  let ls := fetchLanes s v pc lv
  let hold (s : State) (h : List Hold) : State :=
    ls.foldl (fun s l => s.modLane c w l (fun x => { x.unfetch with holds := x.unfetch.holds ++ h })) s
  if ls.isEmpty then s
  else
    match fetchBlock s c v lv pc (anyRetried v ls) with
    | (s, none) => hold s [.refused]
    | (s, some []) => hold s []
    | (s, some ts) => hold s [.fetch ts]

/-- BLOCK_FETCH_COMPLETE (06 R134, R135; 03 R61): the block at a PC of a wave. -/
def execBlockFetchComplete (core wave : Nat) (pc : W64) (s : State) : Res :=
  match s.slot? core wave with
  | none => .fault .notEnabled
  | some t =>
    if [Level.u, .g, .h].all (fun lv => (fetchLanes s t.wave pc lv).isEmpty) then .fault .notEnabled
    else .next ([Level.u, .g, .h].foldl (fun s lv => fetchFor s core wave t.wave pc lv) s)

/-! ## The end of a wave -/

/-- A pending operation that a wave's end waits for (09 R220): all but waits, ring places and Stockpot wakes. -/
def Op.blocksLeave (o : Op) : Bool :=
  decide (0x70 ≤ o.opc ∧ o.opc ≤ 0xCF) ||
  [0x15, 0x17, 0x19, 0xDF, 0xE0, 0xE1, 0xE2, 0xE4, 0xE5, 0xE6, 0xE7, 0xE8, 0xE9, 0xEB, 0xEC, 0xED, 0xEE, 0xEF].contains o.opc ||
  (o.opc == 0xE3 && o.lanes.any (fun l => l.st == .ready)) ||
  (decide (0xF0 ≤ o.opc) && !(o.opc == 0xF7 && o.released))

/-- Scopes of a launch's levels of the domains from lo to hi. -/
def Launch.scopesOf (l : Launch) (lo hi : Nat) : List Nat :=
  (l.levels.filter (fun d => decide (lo ≤ d.domain ∧ d.domain ≤ hi))).map LevelD.scope

/-- Writes of a core's queue that satisfy p are released at all of some scopes (01 R28; 04 R94). -/
def wqReleased (k : Core) (scopes : List Nat) (p : WqEntry → Bool) : Bool :=
  scopes.all (portsRead k) && k.wq.all (fun e => !p e || !scopes.any (fun sc => releaseWaitsFor sc e))

/-- The writes of a wave are released at the scopes of its threads' level and of its own (01 R28). -/
def waveReleased (s : State) (c w : Nat) (v : Wave) : Bool :=
  match s.gang? c v.gang with
  | some g => wqReleased (s.core c) (g.launch.scopesOf 0 1) (fun e => e.wr.wave == w && e.wr.gang == v.gang && e.vf == v.vf)
  | none => true

/-- A wave all of whose threads have exited has nothing left to wait for (01 R20, R28; 09 R220). [log 26: DESIGN CHOICE, unsafe] -/
def mayLeave (s : State) (c w : Nat) (v : Wave) : Bool :=
  v.live == 0 && (match (s.quarter c (quarterOf w)).run with | some r => r.wave != w | none => true) &&
  !v.ops.any Op.blocksLeave && v.spillLog.isEmpty && v.refill.isNone && waveReleased s c w v

/-- No engine command of a gang is live, no stamp record of its waits, and its writes are released at the scopes of its own level and of
the dealt one (01 R20, R28; 10 R242; 13 R310). -/
def gangQuiet (s : State) (c : Nat) (g : Gang) : Bool :=
  let k := s.core c
  let mine (b : Issuer) : Bool := b.gang == g.id && b.vf == g.vf
  !k.ladle.any (fun q => mine q.by_) && !k.mx.any (fun q => mine q.by_) &&
  !(k.col.intake ++ k.col.live).any (fun q => mine q.by_) && !k.col.conts.any (fun q => mine q.by_) && !k.stamps.any (fun q => mine q.by_) &&
  wqReleased k (g.launch.scopeD :: g.launch.scopesOf 2 2) (fun e => e.wr.gang == g.id && e.vf == g.vf)

/-- A save that a wave was to make is answered: it has ended (14 R332); what the pool kept for it is free. -/
def dropSave (s : State) (c : Nat) (v : Wave) (d : Option Drain) : State :=
  match d with
  | none => s
  | some d =>
    let n := (largestRecord s c v + 65535) / 65536
    let s := match d.reason, d.addr with
      | 0, _ => s
      | _, none => s
      | _, some a => { s with sched := { s.sched with poolUsed := s.sched.poolUsed.filter (fun f =>
          decide (f < a / 65536 ∨ a / 65536 + n ≤ f)) } }
    answerSave s d.req 1

/-- Tiles of a wave retire at its end (10 R249). -/
def retireAll (s : State) (c uid : Nat) : State :=
  ((s.core c).tiles.filter (fun t => t.cmd.by_.uid == uid)).foldl (fun s t => retireTile s c t.cmd 0) s

/-- The wave leaves its slot; Z slots that live commands name stay kept (02 R45; 10 R242). -/
def freeSlot (s : State) (c w : Nat) (v : Wave) : State :=
  s.modCore c (fun k => ({ k with slots := k.slots.del w, zkeep := k.zkeep ++ v.zmap.map (fun z => (z, v.uid)) } : Core).trimKeep)

/-- The other gangs of a team are over. -/
def teamOver (s : State) (team : Nat) : Bool :=
  let is (g : Gang) : Bool := g.team.map Prod.fst == some team
  !s.cores.any (fun p => p.2.gangs.any (fun x => is x.2)) && !s.sched.savedGangs.any (fun x => is x.gang)

/-- A gang without members ends: its draws, its G region and barriers, and its unit, a team's with its last gang (01 R20, R28; 12
R296). -/
def endGang (s : State) (c : Nat) (g : Gang) : State :=
  let s := endDraws s g
  let s := s.modCore c (fun k => { k with gangs := k.gangs.del g.id })
  let over_ := match g.team with | some (t, _, _) => teamOver s t | none => true
  let s := match g.team with
    | some (t, _, _) => if over_ then { s with sched := { s.sched with teamCmds := s.sched.teamCmds.filter (fun k => k.team != t) } } else s
    | none => s
  match g.unit with
  | some (q, n, _) => if over_ then unitDone s q n else s
  | none => s

/-- The wave is out of its gang: every barrier sees it detach (01 R22). -/
def detachAll (s : State) (c w : Nat) (g : Gang) (v : Wave) : State :=
  let s := s.modGang c g.id (fun g => { g with members := g.members.filter (· != w) })
  v.bars.zipIdx.foldl (fun s b => barDetach s c g.id v.uid b.2 b.1.owes) s

/-- What ends with a wave whoever else is in its gang. -/
def endWave (s : State) (c w : Nat) (t : Slot) : State :=
  let s := flushWatches s c w t
  let s := dropWaiters s t.wave.uid
  let s := retireAll s c t.wave.uid
  freeSlot (dropSave s c t.wave t.drain) c w t.wave

/-- GANG_LEAVE (01 R20, R22): a wave whose threads have all exited leaves its gang; with the last one, once its engine commands are
over and its writes released, the gang ends. -/
def execGangLeave (core wave : Nat) (s : State) : Res :=
  match s.slot? core wave with
  | none => .fault .notEnabled
  | some t =>
    if mayLeave s core wave t.wave = false then .fault .notEnabled
    else
      match s.gang? core t.wave.gang with
      | none => .next (endWave s core wave t)
      | some g =>
        if g.m ≠ 1 then .next (endWave (detachAll s core wave g t.wave) core wave t)
        else if gangQuiet s core g then
          let s := endWave s core wave t
          .next (endGang s core g)
        else if g.ending then .fault .notEnabled
        else .next (takeOpen (s.modGang core g.id (fun g => { g with ending := true })) core g.id)

end Sys2Proof.Machine
end

