-- ==== Sys2Proof/Machine/Dispatch.lean ====
section
/-! DEFINITION. One arm per constructor of Instr, in the order of spec/opcode_table.json. -/

namespace Sys2Proof.Machine

/-- The meaning of a step. -/
def exec (i : Instr) (s : State) : Host.Outcome State Fault Refusal :=
  match i with
  | .reset => Sys2Proof.Machine.execReset s
  | .stackTrained stack => Sys2Proof.Machine.execStackTrained stack s
  | .unitReady unit => Sys2Proof.Machine.execUnitReady unit s
  | .start value => Sys2Proof.Machine.execStart value s
  | .fwcommit value => Sys2Proof.Machine.execFwcommit value s
  | .alarmpolWrite value => Sys2Proof.Machine.execAlarmpolWrite value s
  | .vglitch => Sys2Proof.Machine.execVglitch s
  | .cglitch => Sys2Proof.Machine.execCglitch s
  | .lid => Sys2Proof.Machine.execLid s
  | .therm => Sys2Proof.Machine.execTherm s
  | .overtempShutdown => Sys2Proof.Machine.execOvertempShutdown s
  | .hbmEccError spa uncorrectable => Sys2Proof.Machine.execHbmEccError spa uncorrectable s
  | .sramEccError site uncorrectable => Sys2Proof.Machine.execSramEccError site uncorrectable s
  | .msixIntervalEnd vf vector => Sys2Proof.Machine.execMsixIntervalEnd vf vector s
  | .vfEnable pf numVFs => Sys2Proof.Machine.execVfEnable pf numVFs s
  | .hostWrite vf addr bytes => Sys2Proof.Machine.execHostWrite vf addr bytes s
  | .hostRead bar vf addr n => Sys2Proof.Machine.execHostRead bar vf addr n s
  | .registerWrite vf off bytes => Sys2Proof.Machine.execRegisterWrite vf off bytes s
  | .doorbell vf q value => Sys2Proof.Machine.execDoorbell vf q value s
  | .invalidationRegister vf va pages => Sys2Proof.Machine.execInvalidationRegister vf va pages s
  | .stage1ReplyRetry vf seq => Sys2Proof.Machine.execStage1ReplyRetry vf seq s
  | .stage1ReplyRefuse vf seq => Sys2Proof.Machine.execStage1ReplyRefuse vf seq s
  | .stage2ReplyRetry vf seq => Sys2Proof.Machine.execStage2ReplyRetry vf seq s
  | .stage2ReplyRefuse vf seq => Sys2Proof.Machine.execStage2ReplyRefuse vf seq s
  | .stopreq vf value => Sys2Proof.Machine.execStopreq vf value s
  | .resume vf value => Sys2Proof.Machine.execResume vf value s
  | .lost vf => Sys2Proof.Machine.execLost vf s
  | .vtrArm vf region => Sys2Proof.Machine.execVtrArm vf region s
  | .qset vf => Sys2Proof.Machine.execQset vf s
  | .filter vf => Sys2Proof.Machine.execFilter vf s
  | .deadline vf => Sys2Proof.Machine.execDeadline vf s
  | .savepool vf => Sys2Proof.Machine.execSavepool vf s
  | .fset vf => Sys2Proof.Machine.execFset vf s
  | .wset vf => Sys2Proof.Machine.execWset vf s
  | .dbgclaim vf => Sys2Proof.Machine.execDbgclaim vf s
  | .dbgfree vf => Sys2Proof.Machine.execDbgfree vf s
  | .getVersion pf => Sys2Proof.Machine.execGetVersion pf s
  | .getCapabilities pf => Sys2Proof.Machine.execGetCapabilities pf s
  | .negotiateAlgorithms pf => Sys2Proof.Machine.execNegotiateAlgorithms pf s
  | .getDigests pf => Sys2Proof.Machine.execGetDigests pf s
  | .getCertificate pf slot offset length => Sys2Proof.Machine.execGetCertificate pf slot offset length s
  | .challenge pf slot nonce => Sys2Proof.Machine.execChallenge pf slot nonce s
  | .getMeasurements pf index signed nonce => Sys2Proof.Machine.execGetMeasurements pf index signed nonce s
  | .debugUnlockChallenge ok => Sys2Proof.Machine.execDebugUnlockChallenge ok s
  | .flitWrite link flit => Sys2Proof.Machine.execFlitWrite link flit s
  | .flitRead link flit => Sys2Proof.Machine.execFlitRead link flit s
  | .flitReadrsp link flit => Sys2Proof.Machine.execFlitReadrsp link flit s
  | .flitAtomic link flit => Sys2Proof.Machine.execFlitAtomic link flit s
  | .flitAtomrsp link flit => Sys2Proof.Machine.execFlitAtomrsp link flit s
  | .flitCredit link flit => Sys2Proof.Machine.execFlitCredit link flit s
  | .flitNak link flit => Sys2Proof.Machine.execFlitNak link flit s
  | .linkRetrained link => Sys2Proof.Machine.execLinkRetrained link s
  | .peerTimeout tid => Sys2Proof.Machine.execPeerTimeout tid s
  | .barrelVisit core quarter => Sys2Proof.Machine.execBarrelVisit core quarter s
  | .reconvRefillComplete core wave => Sys2Proof.Machine.execReconvRefillComplete core wave s
  | .blockFetchComplete core wave pc => Sys2Proof.Machine.execBlockFetchComplete core wave pc s
  | .sleepExpiry core wave lane => Sys2Proof.Machine.execSleepExpiry core wave lane s
  | .memoryOpComplete core wave op lane => Sys2Proof.Machine.execMemoryOpComplete core wave op lane s
  | .conversionComplete core wave op => Sys2Proof.Machine.execConversionComplete core wave op s
  | .quantumGather cluster => Sys2Proof.Machine.execQuantumGather cluster s
  | .gangCreate core => Sys2Proof.Machine.execGangCreate core s
  | .gangAttach core wave op => Sys2Proof.Machine.execGangAttach core wave op s
  | .gangLeave core wave => Sys2Proof.Machine.execGangLeave core wave s
  | .barrierArrival core wave barrier => Sys2Proof.Machine.execBarrierArrival core wave barrier s
  | .ringStageBegin core gang ring fill => Sys2Proof.Machine.execRingStageBegin core gang ring fill s
  | .ringDepthReview core => Sys2Proof.Machine.execRingDepthReview core s
  | .coreWorkRequest core => Sys2Proof.Machine.execCoreWorkRequest core s
  | .cardBegin q => Sys2Proof.Machine.execCardBegin q s
  | .depctrPoll q => Sys2Proof.Machine.execDepctrPoll q s
  | .jobComplete q seq => Sys2Proof.Machine.execJobComplete q seq s
  | .sievePostExamine => Sys2Proof.Machine.execSievePostExamine s
  | .whiskPeriod => Sys2Proof.Machine.execWhiskPeriod s
  | .whiskMigrate source => Sys2Proof.Machine.execWhiskMigrate source s
  | .deadlineWindowOpen q => Sys2Proof.Machine.execDeadlineWindowOpen q s
  | .timesliceSwitch => Sys2Proof.Machine.execTimesliceSwitch s
  | .timesliceCorePass core => Sys2Proof.Machine.execTimesliceCorePass core s
  | .preemptRequest core wave => Sys2Proof.Machine.execPreemptRequest core wave s
  | .waveQuiesce core wave => Sys2Proof.Machine.execWaveQuiesce core wave s
  | .gangRecordSave core gang => Sys2Proof.Machine.execGangRecordSave core gang s
  | .wavePark core wave => Sys2Proof.Machine.execWavePark core wave s
  | .ladleChunkDone core cmd chunk => Sys2Proof.Machine.execLadleChunkDone core cmd chunk s
  | .ladleComplete core cmd members => Sys2Proof.Machine.execLadleComplete core cmd members s
  | .mxeCommandStart core cmd => Sys2Proof.Machine.execMxeCommandStart core cmd s
  | .mxeKstep core cmd => Sys2Proof.Machine.execMxeKstep core cmd s
  | .mxeComplete core cmd => Sys2Proof.Machine.execMxeComplete core cmd s
  | .colanderAccept core => Sys2Proof.Machine.execColanderAccept core s
  | .colanderNodeVisit core beam => Sys2Proof.Machine.execColanderNodeVisit core beam s
  | .queryComplete core qid => Sys2Proof.Machine.execQueryComplete core qid s
  | .beamcontComplete core cont => Sys2Proof.Machine.execBeamcontComplete core cont s
  | .stkLookup core wave op lane => Sys2Proof.Machine.execStkLookup core wave op lane s
  | .shadingBatchPost slice world => Sys2Proof.Machine.execShadingBatchPost slice world s
  | .stkFillPerform core wave op lane => Sys2Proof.Machine.execStkFillPerform core wave op lane s
  | .primitiveRasterise pass => Sys2Proof.Machine.execPrimitiveRasterise pass s
  | .surfaceWaveCreate core => Sys2Proof.Machine.execSurfaceWaveCreate core s
  | .fragmentApply pass x y => Sys2Proof.Machine.execFragmentApply pass x y s
  | .passComplete pass => Sys2Proof.Machine.execPassComplete pass s
  | .nop f => Sys2Proof.Machine.execNop f s
  | .bra f => Sys2Proof.Machine.execBra f s
  | .brx f => Sys2Proof.Machine.execBrx f s
  | .call f => Sys2Proof.Machine.execCall f s
  | .callx f => Sys2Proof.Machine.execCallx f s
  | .ret f => Sys2Proof.Machine.execRet f s
  | .exit f => Sys2Proof.Machine.execExit f s
  | .vall f => Sys2Proof.Machine.execVall f s
  | .vany f => Sys2Proof.Machine.execVany f s
  | .vballot f => Sys2Proof.Machine.execVballot f s
  | .vmatch f => Sys2Proof.Machine.execVmatch f s
  | .lxpick f => Sys2Proof.Machine.execLxpick f s
  | .lxshift f => Sys2Proof.Machine.execLxshift f s
  | .lxrot f => Sys2Proof.Machine.execLxrot f s
  | .lxswap f => Sys2Proof.Machine.execLxswap f s
  | .rdlane f => Sys2Proof.Machine.execRdlane f s
  | .waitf f => Sys2Proof.Machine.execWaitf f s
  | .sleep f => Sys2Proof.Machine.execSleep f s
  | .sleepuntil f => Sys2Proof.Machine.execSleepuntil f s
  | .chkprom f => Sys2Proof.Machine.execChkprom f s
  | .waitchk f => Sys2Proof.Machine.execWaitchk f s
  | .bararv f => Sys2Proof.Machine.execBararv f s
  | .barwait f => Sys2Proof.Machine.execBarwait f s
  | .barsync f => Sys2Proof.Machine.execBarsync f s
  | .barinfo f => Sys2Proof.Machine.execBarinfo f s
  | .gattach f => Sys2Proof.Machine.execGattach f s
  | .gdetach f => Sys2Proof.Machine.execGdetach f s
  | .ginfo f => Sys2Proof.Machine.execGinfo f s
  | .ringfillBegin f => Sys2Proof.Machine.execRingfillBegin f s
  | .ringfillEnd f => Sys2Proof.Machine.execRingfillEnd f s
  | .ringdrainBegin f => Sys2Proof.Machine.execRingdrainBegin f s
  | .ringdrainEnd f => Sys2Proof.Machine.execRingdrainEnd f s
  | .waitmx f => Sys2Proof.Machine.execWaitmx f s
  | .yield f => Sys2Proof.Machine.execYield f s
  | .iadd f => Sys2Proof.Machine.execIadd f s
  | .isub f => Sys2Proof.Machine.execIsub f s
  | .iaddc f => Sys2Proof.Machine.execIaddc f s
  | .isubb f => Sys2Proof.Machine.execIsubb f s
  | .iadds f => Sys2Proof.Machine.execIadds f s
  | .isubs f => Sys2Proof.Machine.execIsubs f s
  | .isum3 f => Sys2Proof.Machine.execIsum3 f s
  | .ineg f => Sys2Proof.Machine.execIneg f s
  | .iabs f => Sys2Proof.Machine.execIabs f s
  | .iabsd f => Sys2Proof.Machine.execIabsd f s
  | .ixadd f => Sys2Proof.Machine.execIxadd f s
  | .and f => Sys2Proof.Machine.execAnd f s
  | .or f => Sys2Proof.Machine.execOr f s
  | .xor f => Sys2Proof.Machine.execXor f s
  | .not f => Sys2Proof.Machine.execNot f s
  | .blut3 f => Sys2Proof.Machine.execBlut3 f s
  | .imul f => Sys2Proof.Machine.execImul f s
  | .imulhi f => Sys2Proof.Machine.execImulhi f s
  | .imad f => Sys2Proof.Machine.execImad f s
  | .imadw f => Sys2Proof.Machine.execImadw f s
  | .shl f => Sys2Proof.Machine.execShl f s
  | .shr f => Sys2Proof.Machine.execShr f s
  | .sar f => Sys2Proof.Machine.execSar f s
  | .rotl f => Sys2Proof.Machine.execRotl f s
  | .rotr f => Sys2Proof.Machine.execRotr f s
  | .funnel f => Sys2Proof.Machine.execFunnel f s
  | .bfe f => Sys2Proof.Machine.execBfe f s
  | .bfi f => Sys2Proof.Machine.execBfi f s
  | .popc f => Sys2Proof.Machine.execPopc f s
  | .clz f => Sys2Proof.Machine.execClz f s
  | .brev f => Sys2Proof.Machine.execBrev f s
  | .ffs f => Sys2Proof.Machine.execFfs f s
  | .icmp f => Sys2Proof.Machine.execIcmp f s
  | .icmpw f => Sys2Proof.Machine.execIcmpw f s
  | .sel f => Sys2Proof.Machine.execSel f s
  | .selw f => Sys2Proof.Machine.execSelw f s
  | .imin f => Sys2Proof.Machine.execImin f s
  | .imax f => Sys2Proof.Machine.execImax f s
  | .iminw f => Sys2Proof.Machine.execIminw f s
  | .imaxw f => Sys2Proof.Machine.execImaxw f s
  | .iclamp f => Sys2Proof.Machine.execIclamp f s
  | .mov f => Sys2Proof.Machine.execMov f s
  | .movw f => Sys2Proof.Machine.execMovw f s
  | .movt f => Sys2Proof.Machine.execMovt f s
  | .pmov f => Sys2Proof.Machine.execPmov f s
  | .plut3 f => Sys2Proof.Machine.execPlut3 f s
  | .p2s f => Sys2Proof.Machine.execP2s f s
  | .s2p f => Sys2Proof.Machine.execS2p f s
  | .fadd f => Sys2Proof.Machine.execFadd f s
  | .fsub f => Sys2Proof.Machine.execFsub f s
  | .fmul f => Sys2Proof.Machine.execFmul f s
  | .ffma f => Sys2Proof.Machine.execFfma f s
  | .fmin f => Sys2Proof.Machine.execFmin f s
  | .fmax f => Sys2Proof.Machine.execFmax f s
  | .fmed3 f => Sys2Proof.Machine.execFmed3 f s
  | .fcmp f => Sys2Proof.Machine.execFcmp f s
  | .fneg f => Sys2Proof.Machine.execFneg f s
  | .fabs f => Sys2Proof.Machine.execFabs f s
  | .fcpsgn f => Sys2Proof.Machine.execFcpsgn f s
  | .frint f => Sys2Proof.Machine.execFrint f s
  | .fscale f => Sys2Proof.Machine.execFscale f s
  | .fclass f => Sys2Proof.Machine.execFclass f s
  | .fgetexp f => Sys2Proof.Machine.execFgetexp f s
  | .ffrc f => Sys2Proof.Machine.execFfrc f s
  | .hadd2 f => Sys2Proof.Machine.execHadd2 f s
  | .hsub2 f => Sys2Proof.Machine.execHsub2 f s
  | .hmul2 f => Sys2Proof.Machine.execHmul2 f s
  | .hfma2 f => Sys2Proof.Machine.execHfma2 f s
  | .hmin2 f => Sys2Proof.Machine.execHmin2 f s
  | .hmax2 f => Sys2Proof.Machine.execHmax2 f s
  | .hcmp2 f => Sys2Proof.Machine.execHcmp2 f s
  | .hneg2 f => Sys2Proof.Machine.execHneg2 f s
  | .habs2 f => Sys2Proof.Machine.execHabs2 f s
  | .badd2 f => Sys2Proof.Machine.execBadd2 f s
  | .bsub2 f => Sys2Proof.Machine.execBsub2 f s
  | .bmul2 f => Sys2Proof.Machine.execBmul2 f s
  | .bfma2 f => Sys2Proof.Machine.execBfma2 f s
  | .bmin2 f => Sys2Proof.Machine.execBmin2 f s
  | .bmax2 f => Sys2Proof.Machine.execBmax2 f s
  | .bcmp2 f => Sys2Proof.Machine.execBcmp2 f s
  | .dadd f => Sys2Proof.Machine.execDadd f s
  | .dsub f => Sys2Proof.Machine.execDsub f s
  | .dmul f => Sys2Proof.Machine.execDmul f s
  | .dfma f => Sys2Proof.Machine.execDfma f s
  | .dmin f => Sys2Proof.Machine.execDmin f s
  | .dmax f => Sys2Proof.Machine.execDmax f s
  | .dcmp f => Sys2Proof.Machine.execDcmp f s
  | .dneg f => Sys2Proof.Machine.execDneg f s
  | .dabs f => Sys2Proof.Machine.execDabs f s
  | .dcpsgn f => Sys2Proof.Machine.execDcpsgn f s
  | .drint f => Sys2Proof.Machine.execDrint f s
  | .dscale f => Sys2Proof.Machine.execDscale f s
  | .dclass f => Sys2Proof.Machine.execDclass f s
  | .dgetexp f => Sys2Proof.Machine.execDgetexp f s
  | .drcp f => Sys2Proof.Machine.execDrcp f s
  | .drsq f => Sys2Proof.Machine.execDrsq f s
  | .cvtf f => Sys2Proof.Machine.execCvtf f s
  | .cvtfi f => Sys2Proof.Machine.execCvtfi f s
  | .cvtif f => Sys2Proof.Machine.execCvtif f s
  | .cvtii f => Sys2Proof.Machine.execCvtii f s
  | .cvtfw f => Sys2Proof.Machine.execCvtfw f s
  | .cvtifw f => Sys2Proof.Machine.execCvtifw f s
  | .cvtpk2 f => Sys2Proof.Machine.execCvtpk2 f s
  | .cvtpk4 f => Sys2Proof.Machine.execCvtpk4 f s
  | .cvtpk8 f => Sys2Proof.Machine.execCvtpk8 f s
  | .cvtex2 f => Sys2Proof.Machine.execCvtex2 f s
  | .cvtex4 f => Sys2Proof.Machine.execCvtex4 f s
  | .cvtex8 f => Sys2Proof.Machine.execCvtex8 f s
  | .cvtsc f => Sys2Proof.Machine.execCvtsc f s
  | .cvtqs f => Sys2Proof.Machine.execCvtqs f s
  | .bpick f => Sys2Proof.Machine.execBpick f s
  | .swzh f => Sys2Proof.Machine.execSwzh f s
  | .frcp f => Sys2Proof.Machine.execFrcp f s
  | .frsq f => Sys2Proof.Machine.execFrsq f s
  | .fsqrt f => Sys2Proof.Machine.execFsqrt f s
  | .fexp2 f => Sys2Proof.Machine.execFexp2 f s
  | .flog2 f => Sys2Proof.Machine.execFlog2 f s
  | .fsin f => Sys2Proof.Machine.execFsin f s
  | .fcos f => Sys2Proof.Machine.execFcos f s
  | .ftanh f => Sys2Proof.Machine.execFtanh f s
  | .fdot2h f => Sys2Proof.Machine.execFdot2h f s
  | .fdot2b f => Sys2Proof.Machine.execFdot2b f s
  | .fdot4e f => Sys2Proof.Machine.execFdot4e f s
  | .idot4 f => Sys2Proof.Machine.execIdot4 f s
  | .idot8 f => Sys2Proof.Machine.execIdot8 f s
  | .ddot2 f => Sys2Proof.Machine.execDdot2 f s
  | .srseed f => Sys2Proof.Machine.execSrseed f s
  | .srread f => Sys2Proof.Machine.execSrread f s
  | .ld f => Sys2Proof.Machine.execLd f s
  | .st f => Sys2Proof.Machine.execSt f s
  | .lds f => Sys2Proof.Machine.execLds f s
  | .sts f => Sys2Proof.Machine.execSts f s
  | .ldnc f => Sys2Proof.Machine.execLdnc f s
  | .ldwin f => Sys2Proof.Machine.execLdwin f s
  | .stwin f => Sys2Proof.Machine.execStwin f s
  | .pref f => Sys2Proof.Machine.execPref f s
  | .cinv f => Sys2Proof.Machine.execCinv f s
  | .iinv f => Sys2Proof.Machine.execIinv f s
  | .ldq f => Sys2Proof.Machine.execLdq f s
  | .stq f => Sys2Proof.Machine.execStq f s
  | .ldbc f => Sys2Proof.Machine.execLdbc f s
  | .ldcvt f => Sys2Proof.Machine.execLdcvt f s
  | .ldprb f => Sys2Proof.Machine.execLdprb f s
  | .stzero f => Sys2Proof.Machine.execStzero f s
  | .ldg f => Sys2Proof.Machine.execLdg f s
  | .stg f => Sys2Proof.Machine.execStg f s
  | .ldw f => Sys2Proof.Machine.execLdw f s
  | .ldx f => Sys2Proof.Machine.execLdx f s
  | .stx f => Sys2Proof.Machine.execStx f s
  | .cvlz f => Sys2Proof.Machine.execCvlz f s
  | .cvsz f => Sys2Proof.Machine.execCvsz f s
  | .cvlzT f => Sys2Proof.Machine.execCvlzT f s
  | .cvszAdd f => Sys2Proof.Machine.execCvszAdd f s
  | .ldgq f => Sys2Proof.Machine.execLdgq f s
  | .stgq f => Sys2Proof.Machine.execStgq f s
  | .ldxq f => Sys2Proof.Machine.execLdxq f s
  | .stxq f => Sys2Proof.Machine.execStxq f s
  | .ldwq f => Sys2Proof.Machine.execLdwq f s
  | .gfill f => Sys2Proof.Machine.execGfill f s
  | .ldgbc f => Sys2Proof.Machine.execLdgbc f s
  | .atadd f => Sys2Proof.Machine.execAtadd f s
  | .atmin f => Sys2Proof.Machine.execAtmin f s
  | .atmax f => Sys2Proof.Machine.execAtmax f s
  | .atand f => Sys2Proof.Machine.execAtand f s
  | .ator f => Sys2Proof.Machine.execAtor f s
  | .atxor f => Sys2Proof.Machine.execAtxor f s
  | .atxchg f => Sys2Proof.Machine.execAtxchg f s
  | .atcas f => Sys2Proof.Machine.execAtcas f s
  | .atinc f => Sys2Proof.Machine.execAtinc f s
  | .atdec f => Sys2Proof.Machine.execAtdec f s
  | .atfadd f => Sys2Proof.Machine.execAtfadd f s
  | .atld f => Sys2Proof.Machine.execAtld f s
  | .atst f => Sys2Proof.Machine.execAtst f s
  | .wred f => Sys2Proof.Machine.execWred f s
  | .phase f => Sys2Proof.Machine.execPhase f s
  | .wscan f => Sys2Proof.Machine.execWscan f s
  | .lcopy f => Sys2Proof.Machine.execLcopy f s
  | .lcopyo f => Sys2Proof.Machine.execLcopyo f s
  | .lgath f => Sys2Proof.Machine.execLgath f s
  | .lscred f => Sys2Proof.Machine.execLscred f s
  | .lrcopyPush f => Sys2Proof.Machine.execLrcopyPush f s
  | .lrcopyPull f => Sys2Proof.Machine.execLrcopyPull f s
  | .lcoll f => Sys2Proof.Machine.execLcoll f s
  | .lfill f => Sys2Proof.Machine.execLfill f s
  | .lstat f => Sys2Proof.Machine.execLstat f s
  | .mxloop f => Sys2Proof.Machine.execMxloop f s
  | .mxstep f => Sys2Proof.Machine.execMxstep f s
  | .mxzero f => Sys2Proof.Machine.execMxzero f s
  | .mxteam f => Sys2Proof.Machine.execMxteam f s
  | .mxqsetCmdr f => Sys2Proof.Machine.execMxqsetCmdr f s
  | .mxqsetStmr f => Sys2Proof.Machine.execMxqsetStmr f s
  | .mxstat f => Sys2Proof.Machine.execMxstat f s
  | .dkrun f => Sys2Proof.Machine.execDkrun f s
  | .jobpost f => Sys2Proof.Machine.execJobpost f s
  | .tex f => Sys2Proof.Machine.execTex f s
  | .texg f => Sys2Proof.Machine.execTexg f s
  | .texq f => Sys2Proof.Machine.execTexq f s
  | .stk f => Sys2Proof.Machine.execStk f s
  | .stkfill f => Sys2Proof.Machine.execStkfill f s
  | .stkdrop f => Sys2Proof.Machine.execStkdrop f s
  | .stkinv f => Sys2Proof.Machine.execStkinv f s
  | .stkage f => Sys2Proof.Machine.execStkage f s
  | .beamq f => Sys2Proof.Machine.execBeamq f s
  | .rayq f => Sys2Proof.Machine.execRayq f s
  | .beamcont f => Sys2Proof.Machine.execBeamcont f s
  | .sqpop f => Sys2Proof.Machine.execSqpop f s
  | .sqpeek f => Sys2Proof.Machine.execSqpeek f s
  | .expvtx f => Sys2Proof.Machine.execExpvtx f s
  | .expprim f => Sys2Proof.Machine.execExpprim f s
  | .expprimEnd f => Sys2Proof.Machine.execExpprimEnd f s
  | .expfrag f => Sys2Proof.Machine.execExpfrag f s
  | .trap f => Sys2Proof.Machine.execTrap f s
  | .brk f => Sys2Proof.Machine.execBrk f s
  | .srd f => Sys2Proof.Machine.execSrd f s
  | .swrWrite f => Sys2Proof.Machine.execSwrWrite f s
  | .swrSet f => Sys2Proof.Machine.execSwrSet f s
  | .swrClear f => Sys2Proof.Machine.execSwrClear f s
  | .rte f => Sys2Proof.Machine.execRte f s
  | .psrd f => Sys2Proof.Machine.execPsrd f s
  | .pswr f => Sys2Proof.Machine.execPswr f s
  | .ctxsv f => Sys2Proof.Machine.execCtxsv f s
  | .ctxld f => Sys2Proof.Machine.execCtxld f s
  | .tlbinv f => Sys2Proof.Machine.execTlbinv f s
  | .tlbinva f => Sys2Proof.Machine.execTlbinva f s
  | .ownset f => Sys2Proof.Machine.execOwnset f s
  | .ownget f => Sys2Proof.Machine.execOwnget f s
  | .wpset f => Sys2Proof.Machine.execWpset f s
  | .haltqPause f => Sys2Proof.Machine.execHaltqPause f s
  | .haltqResume f => Sys2Proof.Machine.execHaltqResume f s
  | .haltqWithdraw f => Sys2Proof.Machine.execHaltqWithdraw f s
  | .scrub f => Sys2Proof.Machine.execScrub f s
  | .submit vf token => Sys2Proof.Machine.execSubmit vf token s
  | .deckleWorkRequest quadrant => Sys2Proof.Machine.execDeckleWorkRequest quadrant s
  | .powerLoss => Sys2Proof.Machine.execPowerLoss s
  | .doeDiscovery pf index => Sys2Proof.Machine.execDoeDiscovery pf index s

end Sys2Proof.Machine
end

