-- ==== Sys2Proof/Machine/Run.lean ====
section
/-! DEFINITION. What happens next: issue slots, the moves of the memory system and of time, and a default schedule that the
model's step follows when its agenda names nothing. -/

namespace Sys2Proof.Machine

/-! ## Moves -/

/-- The next word of a quarter's run issues: decoded, run as its meaning, and the run moves on (01 R15; 06 R143). -/
noncomputable def issueMove (s : State) (c q : Nat) : Res :=
  match (s.quarter c q).run with
  | none => .fault .notEnabled
  | some r =>
    let s := beginIssue s c q r
    match s.issue? with
    | none => .fault .notEnabled
    | some x =>
      match decode x.word with
      | .error _ => .next (endIssue (illegalTrap s x) c q)
      | .ok i =>
        match exec i s with
        | .next t => .next (endIssue t c q)
        | r => r

/-- A move that may not happen in every state. -/
def moveIf (t : Option State) : Res := match t with | some s => .next s | none => .fault .notEnabled

/-- Time passes on a core: its clock, and the counters of cc (17 R387). [log 12: DESIGN CHOICE, unsafe] -/
def passClock (s : State) (c n : Nat) : State :=
  let s := s.modCore c (fun k => { k with clock := k.clock + BitVec.ofNat 64 n })
  match (s.core c).vf with
  | some f => countEvent s (clusterOf c) f 1 n
  | none => s

/-- A move by itself. -/
noncomputable def doMove (s : State) (m : Move) : Res :=
  match m with
  | .event i => exec i s
  | .issue c q => issueMove s c q
  | .drain c id => moveIf (drainStep s c id)
  | .evictL1 c line => .next (dropL1 s c line)
  | .evictL0 c => .next (s.modCore c (fun k => { k with l0 := [] }))
  | .evictTlb c n => .next (s.modCore c (fun k => { k with tlb := k.tlb.eraseIdx n }))
  | .evictTlb2 c n => .next (s.modCluster c (fun k => { k with tlb2 := k.tlb2.eraseIdx n }))
  | .evictWalk c n => .next (s.modCluster c (fun k => { k with walk := k.walk.eraseIdx n }))
  | .cc c n => if ccMay (s.core c) n then .next (passClock s c n) else .fault .notEnabled
  | .fc n => .next { s with fc := s.fc + n }
  | .ticks n => .next { s with ticks := s.ticks + n }
  | .stamp c => if (s.core c).stamps.isEmpty then .fault .notEnabled else .next (stampTry s c)
  | .restore uid => restoreMove s uid
  | .flushPort c p => moveIf (flushPort s c p)
  | .msixControl f en mask => if exposed s f then .next (msixControl s f en mask) else .fault .notEnabled
  | .spdmOther pf code => spdmOther s pf code

/-- One move, after which saved waves' records hold what completed meanwhile (14 R325). -/
noncomputable def runMove (s : State) (m : Move) : Res :=
  match doMove s m with
  | .next t => .next (syncSaved s t)
  | r => r

/-- Moves that may happen without power (18 R408, R410). -/
def Move.unpowered : Move → Bool
  | .event .reset => true
  | .event .powerLoss => true
  | _ => false

/-! ## The default schedule -/

/-- Events as moves. -/
def evs (l : List Instr) : List Move := l.map Move.event

/-- What may happen next for an operation of a wave, by its opcode. -/
noncomputable def opMoves (c w : Nat) (o : Op) : List Instr :=
  let lanes : List Nat := (o.lanes.filter (fun l => l.st != .done)).map LaneOp.lane
  if o.opc = 0x14 ∨ o.opc = 0x16 ∨ o.opc = 0x1C ∨ o.opc = 0x1D then []
  else if o.opc = 0x15 ∨ o.opc = 0x17 then [Instr.barrierArrival c w o.n]
  else if o.opc = 0x19 then [Instr.gangAttach c w o.id]
  else if o.opc / 16 = 8 ∨ o.opc / 16 = 9 then [Instr.conversionComplete c w o.id]
  else if o.opc = 0xE3 then lanes.map (Instr.stkLookup c w o.id)
  else if o.opc = 0xE4 ∨ o.opc = 0xE5 then lanes.map (Instr.stkFillPerform c w o.id)
  else lanes.map (Instr.memoryOpComplete c w o.id)

/-- What may happen next for a resident wave outside its runs. -/
noncomputable def waveMoves (s : State) (c : Nat) (p : Nat × Slot) : List Instr :=
  let v := p.2.wave
  let ends : List Instr := [Instr.reconvRefillComplete c p.1, Instr.gangLeave c p.1, Instr.wavePark c p.1,
    Instr.waveQuiesce c p.1]
  let fetches : List Instr :=
    (v.lanes.filter (fun x => !x.exited && x.holds.all (Hold.retried s))).map (fun x => Instr.blockFetchComplete c p.1 x.pc)
  [v.ops.flatMap (opMoves c p.1), ends, fetches].flatten

/-- What may happen next for a gang of a core. -/
noncomputable def gangMoves (c : Nat) (p : Nat × Gang) : List Instr :=
  let rings : List Instr := (List.range p.2.rings.length).flatMap (fun r =>
    [Instr.ringStageBegin c p.1 r true, Instr.ringStageBegin c p.1 r false])
  Instr.gangRecordSave c p.1 :: rings

/-- What may happen next for a core's engines; a collective's members bring their data from outside. -/
noncomputable def engineMoves (s : State) (c : Nat) (k : Core) : List Instr :=
  let chunks (q : LCmd) : List Instr := (List.range ((jobOf c q).nChunk s)).map (Instr.ladleChunkDone c q.id)
  let ends : List Instr := (k.ladle.filter (fun q => q.opc != 0xD5)).map (fun q => Instr.ladleComplete c q.id [])
  let mxe : List Instr := k.mx.flatMap (fun q =>
    [Instr.mxeCommandStart c q.id, Instr.mxeKstep c q.id, Instr.mxeComplete c q.id])
  let beams : List Instr := k.col.beams.map (fun b => Instr.colanderNodeVisit c b.id)
  let queries : List Instr := k.col.live.map (fun q => Instr.queryComplete c q.qid.toNat)
  let conts : List Instr := k.col.conts.map (fun q => Instr.beamcontComplete c q.id)
  [k.ladle.flatMap chunks, ends, mxe, [Instr.colanderAccept c], beams, queries, conts].flatten

/-- What may happen next on a core. -/
noncomputable def coreMoves (s : State) (p : Nat × Core) : List Move :=
  let c := p.1
  let k := p.2
  let drains : List Move := (k.wq.take 1).map (fun e => Move.drain c e.id)
  let deals : List Instr := [Instr.gangCreate c, Instr.surfaceWaveCreate c, Instr.coreWorkRequest c, Instr.whiskMigrate c,
    Instr.timesliceCorePass c]
  let events : List Instr := [k.slots.flatMap (waveMoves s c), k.gangs.flatMap (gangMoves c), engineMoves s c k, deals].flatten
  let reads : List Move := ((List.range 2).filter (fun p => k.unread.getLsbD p)).map (Move.flushPort c)
  drains ++ reads ++ Move.stamp c :: evs events

/-- What may happen next in the queues, the Sieve, the Stockpot and the raster pipeline. -/
noncomputable def partMoves (s : State) : List Move :=
  let quanta : List Instr := s.clusters.map (fun p => Instr.quantumGather p.1)
  let cards (p : Nat × Queue) : List Instr := p.2.cards.map (fun k => Instr.jobComplete p.1 k.seq)
  let queues : List Instr := s.sched.queues.flatMap (fun p =>
    Instr.cardBegin p.1 :: Instr.deadlineWindowOpen p.1 :: cards p)
  let deckles : List Instr := (List.range 16).map Instr.deckleWorkRequest
  let asks (f : Nat) : List Instr := [Instr.qset f, Instr.filter f, Instr.deadline f, Instr.savepool f, Instr.fset f,
    Instr.wset f, Instr.dbgclaim f, Instr.dbgfree f]
  let mail : List Instr := (s.funcs.filter (fun p => p.2.mbox.req.isSome)).flatMap (fun p => asks p.1)
  let posts : List Instr := s.slices.flatMap (fun p => p.2.rings.map (fun r => Instr.shadingBatchPost p.1 r.world))
  let frags (p : Pass) : List Instr := p.frags.map (fun q => Instr.fragmentApply p.id q.x q.y)
  let passes : List Instr := s.passes.flatMap (fun p => Instr.primitiveRasterise p.id :: Instr.passComplete p.id :: frags p)
  let peers : List Instr := s.peers.map (fun q => Instr.peerTimeout q.tid)
  let events : List Instr :=
    [quanta, queues, deckles, [Instr.sievePostExamine, Instr.timesliceSwitch], mail, posts, passes, peers].flatten
  let restores : List Move := (nextRestores s).map (fun p => Move.restore p.wave.uid)
  evs events ++ restores

/-- Units that report (18 R408, R409). -/
noncomputable def readyMoves : List Move :=
  let units : List (List ReadyUnit) := [[.port 0, .port 1, .sieve, .whisk], (List.range 16).map ReadyUnit.deckle,
    (List.range 128).map ReadyUnit.slice, (List.range 512).map ReadyUnit.core]
  evs ((List.range 8).map Instr.stackTrained) ++ evs (units.flatten.map Instr.unitReady)

/-- Every quarter of a core that has no run turns to its next slot. -/
noncomputable def turnBarrels (s : State) (c : Nat) : State :=
  (List.range 4).foldl (fun s q => match execBarrelVisit c q s with | .next t => t | _ => s) s

/-- What a period of time ends: the Whisk's, the rings', the waits on counters and the vectors', and what asks for a save (03 R76;
14 R322; 15 R340, R343; 18 R393). -/
noncomputable def periods (s : State) : State :=
  let try_ (s : State) (r : Res) : State := match r with | .next t => t | _ => s
  let asks (s : State) (c : Nat) : State :=
    ((s.core c).slots.map Prod.fst).foldl (fun s w => try_ s (execPreemptRequest c w s)) s
  let s := try_ s (execWhiskPeriod s)
  let s := (s.cores.map Prod.fst).foldl (fun s c => try_ s (execRingDepthReview c s)) s
  let s := if s.fc % 4096 = 0 then
      (s.sched.queues.map Prod.fst).foldl (fun s q => try_ s (execDepctrPoll q s)) s
    else s
  let s := if s.fc % 512 = 0 then (s.cores.map Prod.fst).foldl asks s else s
  ((s.funcs.filter (fun p => p.2.mbox.open_ != 0)).map Prod.fst).foldl (fun s f =>
    (List.range 8).foldl (fun s n => try_ s (execMsixIntervalEnd f n s)) s) s

/-- Nothing else is left to do: time passes by one cc of every core, of those that have not reported together, one fc and one Sieve tick, and the barrels turn. [log 4: DESIGN CHOICE, unsafe] -/
noncomputable def tick (s : State) : State :=
  let s := ((s.cores.filter (fun p => p.2.ready)).map Prod.fst).foldl (fun s c => passClock (turnBarrels s c) c 1) s
  periods { s with fc := s.fc + 1, ticks := s.ticks + 1, bootCc := s.bootCc + 1 }

/-- The first of some moves that changes the state. -/
noncomputable def firstMove (s : State) : List Move → Option State
  | [] => none
  | m :: r =>
    match runMove s m with
    | .next t => if t = s then firstMove s r else some t
    | _ => firstMove s r

/-- The first quarter with a run in progress. -/
def runningQuarter (s : State) : Option (Nat × Nat) :=
  s.cores.findSome? (fun p => (p.2.quarters.zipIdx).findSome? (fun q => if q.1.run.isSome then some (p.1, q.2) else none))

/-- The default schedule: runs first, then whatever can go on, then units that report, and else time. -/
noncomputable def autoStep (s : State) : Res :=
  match runningQuarter s with
  | some (c, q) => runMove s (.issue c q)
  | none =>
    match firstMove s (s.cores.flatMap (coreMoves s) ++ partMoves s ++ readyMoves) with
    | some t => .next t
    | none => .next (syncSaved s (tick s))

/-- The next move: the head of the agenda, or the default schedule's. Without power only a reset or the loss of power itself
happens (18 R408, R410). -/
noncomputable def nextMove (s : State) : Res :=
  match s.agenda with
  | m :: r =>
    if s.powered = false ∧ m.unpowered = false then .fault .powerOff else runMove { s with agenda := r } m
  | [] => if s.powered = false then .fault .powerOff else autoStep s

end Sys2Proof.Machine
end

