-- ==== Sys2Proof/Machine/Step.lean ====
section
/-! DEFINITION. One step of the machine, and the placing of one instruction where the step fetches next. -/

namespace Sys2Proof.Machine

/-- One step: the move that the agenda, or the default schedule, names. -/
noncomputable def step (s : State) : Host.Outcome State Fault Refusal := nextMove s

/-- s with the instruction word w as the one word of a run about to issue on core 0, quarter 0. [log 10: DESIGN CHOICE, unsafe] -/
def State.withFetchWord (s : State) (_nbits w : Nat) : State := placeWord s (BitVec.ofNat 128 w)

end Sys2Proof.Machine
end

