-- ==== Sys2Proof/Safety.lean ====
section
/-! DEFINITION. The terms that statements about this machine are made in: the memory's canonical form, when a word issues, what a
word may change, and what it has written. -/

namespace Sys2Proof.Machine

/-- Memory's canonical form: addresses strictly rising and no byte listed that an unlisted address reads as (zero). -/
def Memory.wf (m : List Host.Cell) : Bool := Tab.wf (0 : Byte) m

/-- A step does not stop. -/
def Safe (s : State) : Prop := ∃ t, step s = .next t

/-- The invariant of HBM4's bytes. -/
def MemInv (s : State) : Prop := Memory.wf s.mem = true

/-- The word of opcode op with fields f issues in x and has its own effect: no pattern of R143 matches it, its lanes are at a level
that may run it (06 R142), and the wave holds no poisoned register (03 R84). -/
structure Issues (op : Nat) (f : Fields) (s : State) (x : Ctx) : Prop where
  here : s.issue? = some x
  legal : check op f = none
  place : x.placeOk op f (ringCount s x) = true
  level : levelOf op ≤ x.g.level.code
  clean : x.wv.regs.vpois = [] ∧ x.wv.regs.upois = [] ∧ x.wv.regs.tpois = [] ∧ x.wv.regs.ppois = []

/-- Nothing differs between s and t but wave w of core c and quarter q of that core: every byte of memory, every other wave, gang,
engine, function, queue and register of the part is as it was. -/
structure OnlyWave (s t : State) (c q w : Nat) : Prop where
  rest : t = { s with cores := t.cores }
  cores : ∀ k, k ≠ c → t.core k = s.core k
  core : t.core c = { s.core c with slots := (t.core c).slots, quarters := (t.core c).quarters }
  slots : ∀ v, v ≠ w → t.slot? c v = s.slot? c v
  quarters : ∀ p, p ≠ q → t.quarter c p = s.quarter c p

/-- An element that a register of a lane has. -/
def RegElem.real : RegElem → Prop
  | .v _ l => l < 32
  | .t _ w => w < 8
  | _ => True

/-- The register file of regs after ws: each element written holds its value, but p15, which reads true; all others are as they
were (02 R42, R50). -/
def Landed (before after : Regs) (ws : List RegWrite) : Prop :=
  (∀ w, w ∈ ws → w.elem.isP15 = false → after.read w.elem = w.val) ∧
  (∀ e : RegElem, e.real → (∀ w, w ∈ ws → w.elem ≠ e) → after.read e = before.read e)

/-- A word in x has written ws at its issue, and y is the group after it. With T the values stand in the bypass alone, for this group
(02 R51); without it they stand in the file, and pending writes and bypassed values of those elements are gone (02 R52; 08 R177), those of
local loads among them: the model's reading, log 16.
Of the wave nothing else has changed but the bits e of WSTAT; of the run, nothing else. -/
structure WroteNow (t : Bool) (x y : Ctx) (ws : List RegWrite) (e : Exc) : Prop where
  bypass : t = true → y.wv.regs = x.wv.regs ∧ (∀ w, w ∈ ws → w.elem.isP15 = false → y.readE w.elem = w.val) ∧
    (∀ d : RegElem, (∀ w, w ∈ ws → w.elem ≠ d) → y.readE d = x.readE d) ∧ y.wv.ops = x.wv.ops ∧ y.g.writes = x.g.writes
  file : t = false → Landed x.wv.regs y.wv.regs ws ∧
    y.wv.ops = x.wv.ops.map (fun o => { o with writes := dropElems (ws.map RegWrite.elem) o.writes }) ∧
    y.g.writes = dropElems (ws.map RegWrite.elem) x.g.writes ∧
    y.g.trans = x.g.trans.filter (fun u => !(ws.map RegWrite.elem).contains u.elem)
  wave : y.sl = { x.sl with wave := { x.wv with regs := y.wv.regs, ops := y.wv.ops, wstat := y.wv.wstat } }
  wstat : y.wv.wstat = x.wv.wstat ||| e.setWidth 32
  group : y.g = { x.g with writes := y.g.writes, trans := y.g.trans }
  place : y = { x with sl := y.sl, run := y.run, g := y.g }
  run : y.run = { x.run with groups := y.run.groups }

/-- Whenever the word issues, exec answers a next state in which it has written the given values at once and changed nothing
else. -/
def WritesAtIssue (op : Nat) (mk : Fields → Instr) (ws : Fields → Ctx → List RegWrite) (e : Fields → Ctx → Exc) : Prop :=
  ∀ (f : Fields) (s : State) (x : Ctx), Issues op f s x → ∃ t y, exec (mk f) s = .next t ∧ t.issue? = some y ∧
    OnlyWave s t x.core x.quarter x.wid ∧ WroteNow f.t x y (ws f x) (e f x)

/-- The same for a word with one 32-bit value per destination lane (07 R152, R153). -/
def Gives32 (op : Nat) (mk : Fields → Instr) (v : Fields → Ctx → Nat → W32) : Prop :=
  WritesAtIssue op mk (fun f x => (x.destLanes f).flatMap (fun l => wr32 f.dst l (v f x l))) (fun _ _ => 0)

/-- The same for a word with one 64-bit value. -/
def Gives64 (op : Nat) (mk : Fields → Instr) (v : Fields → Ctx → Nat → W64) : Prop :=
  WritesAtIssue op mk (fun f x => (x.destLanes f).flatMap (fun l => wr64 f.dst l (v f x l))) (fun _ _ => 0)

/-- The same for a word with a truth value: a predicate, or all ones and zero in a register (07 R161, R167). -/
def GivesBool (op : Nat) (mk : Fields → Instr) (v : Fields → Ctx → Nat → Bool) : Prop :=
  WritesAtIssue op mk (fun f x => (x.destLanes f).flatMap (fun l => wrBool f.dst l (v f x l))) (fun _ _ => 0)

/-- The same for a word that also sets bits of WSTAT: values and bits of each destination lane (05 R121, R123). -/
def GivesExc (op : Nat) (mk : Fields → Instr) (v : Fields → Ctx → Nat → List RegWrite × Exc) : Prop :=
  WritesAtIssue op mk (fun f x => (x.destLanes f).flatMap (fun l => (v f x l).1))
    (fun f x => ((x.destLanes f).map (fun l => (v f x l).2)).foldl (· ||| ·) 0)

/-- A word whose destination is written at the end of its run (07 R153): the writes stand among the group's pending ones, earlier
pending writes of those elements are gone (of local loads too: the model's reading, log 16), its flag is raised until then, the register
file is as it was. -/
structure WroteEnd (fl : Option Nat) (x y : Ctx) (ws : List RegWrite) (e : Exc) : Prop where
  writes : y.g.writes = dropElems (ws.map RegWrite.elem) x.g.writes ++ ws
  raised : y.g.raised = x.g.raised ++ fl.toList
  group : y.g = { x.g with writes := y.g.writes, raised := y.g.raised }
  ops : y.wv.ops = x.wv.ops.map (fun o => { o with writes := dropElems (ws.map RegWrite.elem) o.writes })
  flags : y.wv.flags = match fl with | some n => listAdj x.wv.flags n (· + 1) | none => x.wv.flags
  wave : y.sl = { x.sl with wave := { x.wv with flags := y.wv.flags, ops := y.wv.ops, wstat := x.wv.wstat ||| e.setWidth 32 } }
  place : y = { x with sl := y.sl, run := y.run, g := y.g }
  run : y.run = { x.run with groups := y.run.groups }

/-- Where the word issues and hyp holds, exec answers a next state in which its writes are pending for the end of its run and nothing
else has changed but the bits e of WSTAT. -/
def WritesAtEnd (op : Nat) (mk : Fields → Instr) (hyp : Fields → State → Ctx → Prop) (ws : Fields → State → Ctx → List RegWrite)
    (e : Fields → Ctx → Exc) : Prop :=
  ∀ (f : Fields) (s : State) (x : Ctx), Issues op f s x → hyp f s x → ∃ t y, exec (mk f) s = .next t ∧ t.issue? = some y ∧
    OnlyWave s t x.core x.quarter x.wid ∧ WroteEnd (flagOf x.g.hdr f.sf) x y (ws f s x) (e f x)

/-- No condition. -/
def Always (_ : Fields) (_ : State) (_ : Ctx) : Prop := True

/-- Some lane is active. -/
def SomeActive (f : Fields) (_ : State) (x : Ctx) : Prop := x.active f ≠ []

/-- A word of rows 0x8 and 0x9 (08 R175): one operation more, of this word, holds the writes and exception bits that land at its
completion; its flag is raised; earlier pending writes of those elements are gone (of local loads too: the model's reading, log 16); the
register file is as it was. -/
structure WroteLate (op : Nat) (f : Fields) (x y : Ctx) (ws : List RegWrite) (e : Exc) : Prop where
  ops : y.wv.ops = x.wv.ops.map (fun o => { o with writes := dropElems (ws.map RegWrite.elem) o.writes }) ++
    [{ x.op op f with writes := ws, exc := e }]
  nextOp : y.wv.nextOp = x.wv.nextOp + 1
  flags : y.wv.flags = match x.flag op f with | some n => listAdj x.wv.flags n (· + 1) | none => x.wv.flags
  wave : y.sl = { x.sl with wave := { x.wv with flags := y.wv.flags, ops := y.wv.ops, nextOp := y.wv.nextOp, lanes := y.wv.lanes } }
  group : y.g = { x.g with writes := dropElems (ws.map RegWrite.elem) x.g.writes }
  run : y.run = { x.run with groups := y.run.groups }

/-- Whenever the word issues, exec answers a next state in which its writes are pending for its completion; of the lanes only the
generator state SRG differs, and it is srg. -/
def WritesLate (op : Nat) (mk : Fields → Instr) (ws : Fields → Ctx → List RegWrite) (e : Fields → Ctx → Exc)
    (srg : Fields → Ctx → List Lane) : Prop :=
  ∀ (f : Fields) (s : State) (x : Ctx), Issues op f s x → ∃ t y, exec (mk f) s = .next t ∧ t.issue? = some y ∧
    OnlyWave s t x.core x.quarter x.wid ∧ WroteLate op f x y (ws f x) (e f x) ∧ y.wv.lanes = srg f x

/-- The counts of flags once an operation is attached to flag n (02 R58). -/
def bumpFlag (fl : List Nat) (n : Option Nat) : List Nat :=
  match n with
  | some k => listAdj fl k (· + 1)
  | none => fl

/-- y is x with operation o attached to its wave under the wave's next number; no register, run or group has changed. -/
structure Attached (x y : Ctx) (o : Op) : Prop where
  wave : y.sl = { x.sl with wave := { x.wv with
    flags := bumpFlag (bumpFlag x.wv.flags o.flag) o.wake, ops := x.wv.ops ++ [{ o with id := x.wv.nextOp }], nextOp := x.wv.nextOp + 1 } }
  place : y = { x with sl := y.sl }

/-- Where the word issues and hyp holds, exec answers a next state in which the given operation is attached to the wave and nothing
else has changed. -/
def Attaches (op : Nat) (mk : Fields → Instr) (hyp : Fields → State → Ctx → Prop) (o : Fields → Ctx → Op) : Prop :=
  ∀ (f : Fields) (s : State) (x : Ctx), Issues op f s x → hyp f s x → ∃ t y, exec (mk f) s = .next t ∧ t.issue? = some y ∧
    OnlyWave s t x.core x.quarter x.wid ∧ Attached x y (o f x)

/-- y is x whose group's lanes also act at the end of the run as listed (06 R133). -/
structure Acted (x y : Ctx) (acts : List (Nat × EndAct)) : Prop where
  group : y.g = { x.g with acts := x.g.acts ++ acts }
  run : y.run = { x.run with groups := y.run.groups }
  place : y = { x with g := y.g, run := y.run }

/-- Whenever the word issues and hyp holds, exec answers a next state in which each active lane acts at the end of the run as a says,
and nothing else has changed. -/
def ActsAtEnd (op : Nat) (mk : Fields → Instr) (hyp : Fields → State → Ctx → Prop) (a : Fields → Ctx → Nat → EndAct) : Prop :=
  ∀ (f : Fields) (s : State) (x : Ctx), Issues op f s x → hyp f s x → ∃ t y, exec (mk f) s = .next t ∧ t.issue? = some y ∧
    OnlyWave s t x.core x.quarter x.wid ∧ Acted x y ((x.active f).map (fun l => (l, a f x l)))

/-- The same for a word that also writes a link for the end of the run (07 R154). -/
def Links (op : Nat) (mk : Fields → Instr) (a : Fields → Ctx → Nat → EndAct) : Prop :=
  ∀ (f : Fields) (s : State) (x : Ctx), Issues op f s x → ∃ t y z, exec (mk f) s = .next t ∧ t.issue? = some z ∧
    OnlyWave s t x.core x.quarter x.wid ∧ Acted x y ((x.active f).map (fun l => (l, a f x l))) ∧
    WroteEnd (flagOf x.g.hdr f.sf) y z ((x.destLanes f).flatMap (fun l => wr64 f.dst l (fallThrough x.g.pro x.g.hdr))) 0

/-- Whenever the word issues, exec answers a next state in which each active lane is held from the end of the run (09 R215), and
nothing else has changed. -/
def HoldsLanes (op : Nat) (mk : Fields → Instr) (h : Fields → Ctx → Nat → Hold) : Prop :=
  ∀ (f : Fields) (s : State) (x : Ctx), Issues op f s x → ∃ t y, exec (mk f) s = .next t ∧ t.issue? = some y ∧
    OnlyWave s t x.core x.quarter x.wid ∧ y.g = { x.g with holds := x.g.holds ++ (x.active f).map (fun l => (l, h f x l)) } ∧
    y.run = { x.run with groups := y.run.groups } ∧ y = { x with g := y.g, run := y.run }

/-- An access to va meets no trap and no wait: a canonical address aligned to n, outside the register window and the heap aperture,
which region entry e translates without a walk to HBM4 or a port this lane may reach, and which holds no elided page (03 R64 to R66;
09 R200). -/
structure Reaches (s : State) (x : Ctx) (n : Nat) (a : Acc) (va : W64) (e : TlbEnt) : Prop where
  form : canonical va = true
  aligned : va.toNat % n = 0
  plain : inWindow va = false ∧ inHeap va = false
  hit : translate s (some x.core) (.fn x.wv.vf (x.wv.row x.g.level)) x.wv.vf va.toNat a false = (s, .ok e)
  stored : e.elide = false
  there : targetOf x.wv.vf x.g.level (e.apply va.toNat) ≠ .none

/-- The operation of a word of the shared space whose lanes ls access va l, all through region entry e. -/
def sharedOp (op : Nat) (f : Fields) (x : Ctx) (e : TlbEnt) (ls : List Nat) (va : Nat → W64) (src : Nat → W128)
    (src2 : Nat → W64) : Op :=
  { x.op op f with lanes := ls.map (fun l =>
      { lane := l, va := va l, src := src l, src2 := src2 l,
        tgt := targetOf x.wv.vf x.g.level (e.apply (va l).toNat), st := .ready }) }

/-- What an access word of the shared space needs to go straight to its operation: no operation of its wave pending, no watchpoint
armed on its core, and lanes ls, at least one, that all reach one 4 KiB region r by entry e. -/
structure Straight (s : State) (x : Ctx) (n : Nat) (a : Acc) (e : TlbEnt) (r : Nat) (ls : List Nat) (va : Nat → W64) : Prop where
  some : ls ≠ []
  alone : x.wv.ops = []
  unwatched : ∀ p, p ∈ (s.core x.core).watch → p.en = false
  reach : ∀ l, l ∈ ls → Reaches s x n a (va l) e
  region : ∀ l, l ∈ ls → (va l).toNat / 4096 = r

/-- Where a word of the shared space issues and goes straight to its operation, exec answers a next state in which that operation
with all its lanes is attached to the wave, and nothing else has changed: no register, no byte of memory. -/
def AccessesShared (op : Nat) (mk : Fields → Instr) (form : Fields → Prop) (acc : Level → Acc) (ls : Fields → Ctx → List Nat)
    (va : Fields → Ctx → Nat → W64) (src : Fields → Ctx → Nat → W128) (src2 : Fields → Ctx → Nat → W64) : Prop :=
  ∀ (f : Fields) (s : State) (x : Ctx) (e : TlbEnt) (r : Nat), Issues op f s x → form f →
    Straight s x (accSize op f) (acc x.g.level) e r (ls f x) (va f x) →
    ∃ t y, exec (mk f) s = .next t ∧ t.issue? = some y ∧ OnlyWave s t x.core x.quarter x.wid ∧
      Attached x y (sharedOp op f x e (ls f x) (va f x) (src f x) (src2 f x))

/-- Lanes ls of a store by the line their bytes go to, in the order of their first lanes: one request each (03 R64). -/
def storeLines (x : Ctx) (e : TlbEnt) (ls : List Nat) (va : Nat → W64) : List (List Nat) :=
  let to_ (l : Nat) : Target := targetOf x.wv.vf x.g.level (e.apply (va l).toNat)
  ls.foldl (fun gs l => if gs.any (fun g => g.contains l) then gs else gs ++ [ls.filter (fun k => k == l || (to_ k).sameLine (to_ l))]) []

/-- Entry q, number n, of the write queue is what lanes g of a store put there, all in one line: it starts at their lowest address; where
several write one byte the highest lane's stands; bytes that none writes are holes of its mask (03 R64, R65). -/
structure LineStored (op : Nat) (f : Fields) (x : Ctx) (e : TlbEnt) (va : Nat → W64) (src : Nat → W128) (n : Nat) (g : List Nat)
    (q : WqEntry) : Prop where
  id : q.id = n
  first : ∃ l, l ∈ g ∧ (∀ k, k ∈ g → (va l).toNat % 64 ≤ (va k).toNat % 64) ∧ q.va = va l ∧
    q.tgt = targetOf x.wv.vf x.g.level (e.apply (va l).toNat) ∧ q.wr = laneWriter x.core x.wid x.wv.gang x.spo x.idx l
  issuer : q.vf = x.wv.vf ∧ q.level = x.g.level ∧ q.world = x.wv.world ∧ q.who = some (x.wv.uid, x.wid, x.wv.nextOp) ∧ q.eng = none ∧
    q.poison = [] ∧ q.priv = x.wv.priv
  lanes : q.lanes = g.map (fun l => (l, (va l).toNat % 64 - q.va.toNat % 64, accSize op f))
  bytes : ∀ l, l ∈ g → (∀ k, k ∈ g → l < k → va k ≠ va l) → ∀ i, i < accSize op f →
    q.bytes[(va l).toNat % 64 - q.va.toNat % 64 + i]? = (storeBytes op f (src l))[i]? ∧
    (va l).toNat % 64 - q.va.toNat % 64 + i ∉ q.holes
  holes : ∀ i, i < q.bytes.length → (∀ l, l ∈ g → q.va.toNat % 64 + i < (va l).toNat % 64 ∨
    (va l).toNat % 64 + accSize op f ≤ q.va.toNat % 64 + i) → i ∈ q.holes

/-- Where a store of the shared space issues and goes straight to its operation, exec answers a next state in which every line the lanes
write has one entry in the core's write queue behind what it held, the operation waits for them, and nothing else has changed but the
core's own L1 copies: no register, no byte of memory, no other core (03 R64, R67). -/
def StoresShared (op : Nat) (mk : Fields → Instr) (va : Fields → Ctx → Nat → W64) (src : Fields → Ctx → Nat → W128) : Prop :=
  ∀ (f : Fields) (s : State) (x : Ctx) (e : TlbEnt) (r : Nat), Issues op f s x →
    Straight s x (accSize op f) (accW x.g.level) e r (x.acting f) (va f x) →
    let gs := storeLines x e (x.acting f) (va f x)
    let n := (s.core x.core).nextWq
    ∃ t y qs, exec (mk f) s = .next t ∧ t.issue? = some y ∧ t = { s with cores := t.cores } ∧
      (∀ k, k ≠ x.core → t.core k = s.core k) ∧ (∀ v, v ≠ x.wid → t.slot? x.core v = s.slot? x.core v) ∧
      t.core x.core = { s.core x.core with
        slots := (t.core x.core).slots, l1 := (t.core x.core).l1, nextWq := n + gs.length, wq := (s.core x.core).wq ++ qs } ∧
      qs.length = gs.length ∧
      (∀ i g q, gs[i]? = some g → qs[i]? = some q → LineStored op f x e (va f x) (src f x) (n + i) g q) ∧
      Attached x y { x.op op f with lanes := (x.acting f).map (fun l =>
        { lane := l, va := va f x l, src := src f x l, src2 := 0,
          tgt := targetOf x.wv.vf x.g.level (e.apply (va f x l).toNat),
          st := .queued (n + gs.findIdx (fun g => g.contains l)) }) }

/-- Byte o of a local buffer as a gang of a core addresses it. -/
def locByte (s : State) (c gang : Nat) (b : Buf) (o : Nat) : Byte := memByte (bufCells s c gang b).1 o

/-- Lanes ls of a local word access n bytes each at offset off l, aligned to m and inside the buffer, in a wave with no operation
pending, where no chunk bit of the wave awaits its command and no word touched is poisoned (03 R71, R72). -/
structure InBuffer (s : State) (x : Ctx) (b : Buf) (m n : Nat) (ls : List Nat) (off : Nat → Int) : Prop where
  some : ls ≠ []
  alone : x.wv.ops = []
  bits : pendingBits (s.core x.core) x.wv.uid = []
  aligned : ∀ l, l ∈ ls → (off l).emod m = 0
  inside : ∀ l, l ∈ ls → 0 ≤ off l ∧ off l + n ≤ (bufSize s x.core x.wv.gang b : Nat)
  clean : ∀ l, l ∈ ls → (locRead s x.core x.wv.gang b (off l).toNat n).2 = false

/-- A lane of an operation at offset off of a local buffer, performed. -/
def locLane (l : Nat) (off : Int) (src : W128) (src2 : W64) : LaneOp :=
  { lane := l, va := BitVec.ofInt 64 off, src := src, src2 := src2, tgt := .loc off.toNat, st := .known }

/-- Where a local load issues inside its buffer, exec answers a next state in which its operation holds, for its completion, the
writes of the bytes each lane reads, and nothing else has changed: no register, no byte of a buffer or of memory (09 R207). -/
def LoadsLocal (op : Nat) (mk : Fields → Instr) (b : Buf) (q : Bool) : Prop :=
  ∀ (f : Fields) (s : State) (x : Ctx), Issues op f s x →
    let off := fun l => locOff x f l + (if q then ((accSize op f * l : Nat) : Int) else 0)
    InBuffer s x b (accSize op f) (accSize op f) (x.acting f) off →
    ∃ t y, exec (mk f) s = .next t ∧ t.issue? = some y ∧ OnlyWave s t x.core x.quarter x.wid ∧
      Attached x y { x.op op f with
        lanes := (x.acting f).map (fun l => locLane l (off l) (dataOf x f f.b (accSize op f) l) 0),
        writes := (x.acting f).flatMap (fun l => loadWrites f (accSize op f) (f.m 3 1 == 1) l
          ((List.range (accSize op f)).map (fun k => locByte s x.core x.wv.gang b ((off l).toNat + k)))) }

/-- t differs from s in the bytes of buffer b of a core and gang, their poison, and one wave of that core, at most. -/
structure OnlyBuffer (s t : State) (c gang w : Nat) (b : Buf) : Prop where
  rest : t = { s with cores := t.cores }
  cores : ∀ k, k ≠ c → t.core k = s.core k
  slots : ∀ v, v ≠ w → t.slot? c v = s.slot? c v
  core : t.core c = { s.core c with
    slots := (t.core c).slots,
    gangs := if b = .g then (t.core c).gangs else (s.core c).gangs,
    w := if b = .w then (t.core c).w else (s.core c).w, wpois := if b = .w then (t.core c).wpois else (s.core c).wpois,
    x := if b = .x then (t.core c).x else (s.core c).x, xpois := if b = .x then (t.core c).xpois else (s.core c).xpois,
    z := if b = .z then (t.core c).z else (s.core c).z, zpois := if b = .z then (t.core c).zpois else (s.core c).zpois }
  gangs : ∀ k, k ≠ gang → t.gang? c k = s.gang? c k
  gang : t.gang? c gang = (s.gang? c gang).map (fun u => match t.gang? c gang with
    | some v => { u with g := v.g, gpois := v.gpois }
    | none => u)

/-- The lane of ls that last writes byte o, when lane l writes the n l bytes from off l: the highest whose range holds it. -/
def lastAt (ls : List Nat) (off : Nat → Int) (n : Nat → Nat) (o : Nat) : Option Nat :=
  (ls.filter (fun l => decide ((off l).toNat ≤ o ∧ o < (off l).toNat + n l))).getLast?

/-- Where a local store issues inside its buffer, exec answers a next state in which each byte that lanes store to holds the byte of
the highest of them, every other byte of the buffer is as it was, the operation waits to complete, and nothing else has changed
(03 R65; 09 R207). -/
def StoresLocal (op : Nat) (mk : Fields → Instr) (b : Buf) (m : Nat → Nat) (off : Fields → Ctx → Nat → Int)
    (n : Fields → Ctx → Nat → Nat) (src : Fields → Ctx → Nat → W128) (src2 : Fields → Ctx → Nat → W64)
    (byte : Fields → Ctx → Nat → Nat → Byte) : Prop :=
  ∀ (f : Fields) (s : State) (x : Ctx), Issues op f s x → x.acting f ≠ [] → x.wv.ops = [] →
    (∀ l, l ∈ x.acting f → (off f x l).emod (m (accSize op f)) = 0 ∧ n f x l % m (accSize op f) = 0 ∧
      (n f x l = 0 ∨ (0 ≤ off f x l ∧ off f x l + n f x l ≤ (bufSize s x.core x.wv.gang b : Nat)))) →
    ∃ t y, exec (mk f) s = .next t ∧ t.issue? = some y ∧ OnlyBuffer s t x.core x.wv.gang x.wid b ∧
      Attached x y { x.op op f with lanes := (x.acting f).map (fun l => locLane l (off f x l) (src f x l) (src2 f x l)) } ∧
      ∀ o, locByte t x.core x.wv.gang b o = match lastAt (x.acting f) (off f x) (n f x) o with
        | some l => byte f x l (o - (off f x l).toNat)
        | none => locByte s x.core x.wv.gang b o

end Sys2Proof.Machine
end

