-- ==== Sys2Proof/WellFormed.lean ====
section
/-! DEFINITION. Well-formed instructions: words that no pattern of R143 decidable from the word alone matches and that build
back to themselves, and events whose agents exist. -/

namespace Sys2Proof

/-- No pattern of 06 R143 that the word alone decides matches. -/
def Instr.legal (i : Instr) : Bool :=
  match i.word with
  | some (op, f) => (check op f).isNone
  | none => true

/-- The word's MOD field selects the constructor it is written with (06 R140). -/
def Instr.Same (i : Instr) : Prop :=
  match i.word with
  | some (op, f) => build op f = i
  | none => True

/-- A well-formed instruction. -/
def Instr.WF (i : Instr) : Prop := i.legal = true ∧ i.Same

end Sys2Proof
end

