-- ==== Sys2Proof/Certificates/Slice0/Obligations.lean ====
section
/-! DEFINITION. The statements about this machine, and the terms they alone use: values of the words row by row. -/

open Sys2Proof Sys2Proof.Machine

namespace Sys2Proof.Machine

/-- The unsigned 32-bit source of a lane. -/
def Ctx.na (x : Ctx) (f : Fields) (o : Opnd) (l : Nat) : Nat := (x.rd f o l).toNat

/-- Writes of an FP32 result and its exception bits, from the operands after their modifiers (08 R178). -/
def fp32Value (g : Fields → Nat → Nat → Nat → Nat × Exc) (f : Fields) (x : Ctx) (l : Nat) : List RegWrite × Exc :=
  let r := g f (x.fA f l) (x.fB f l) (x.fC f l)
  (wr32 f.dst l (BitVec.ofNat 32 r.1), r.2)

/-- Half h of an operand of a packed word. -/
def Ctx.half (x : Ctx) (f : Fields) (o : Opnd) (l h : Nat) : Nat := x.na f o l / 2 ^ (16 * h) % 65536

/-- Writes of a packed word: the operation on both halves (08 R185). -/
def packedValue (g : Fields → Nat → Nat → Nat → Nat × Exc) (f : Fields) (x : Ctx) (l : Nat) : List RegWrite × Exc :=
  let r := fun h => g f (modA .fp16 f (x.half f f.a l h)) (modB .fp16 f (x.half f f.b l h)) (modC .fp16 f (x.half f f.c l h))
  (wr32 f.dst l (BitVec.ofNat 32 ((r 0).1 + 65536 * (r 1).1)), (r 0).2 ||| (r 1).2)

/-- Writes of a packed compare (08 R186). -/
def packedCmpValue (t : Fmt) (f : Fields) (x : Ctx) (l : Nat) : List RegWrite × Exc :=
  let r := fun h => cmpF t (f.m 9 4) (modA t f (x.half f f.a l h)) (modB t f (x.half f f.b l h))
  (match f.dst with
    | .pred _ => wrBool f.dst l (match f.m 13 2 with
      | 0 => (r 0).1
      | 1 => (r 1).1
      | 2 => (r 0).1 && (r 1).1
      | _ => (r 0).1 || (r 1).1)
    | _ => wr32 f.dst l ((if (r 0).1 then 0xFFFF else 0) ||| (if (r 1).1 then 0xFFFF0000 else 0)), (r 0).2 ||| (r 1).2)

/-- Writes of an FP64 word (08 R187). -/
def fp64Writes (g : Fields → Nat → Nat → Nat → Nat × Exc) (f : Fields) (x : Ctx) (l : Nat) : List RegWrite :=
  wr64 f.dst l (BitVec.ofNat 64 (g f (x.dA f l).1 (x.dB f l).1 (x.dC f l).1).1)

/-- Its exception bits. -/
def fp64Exc (g : Fields → Nat → Nat → Nat → Nat × Exc) (f : Fields) (x : Ctx) (l : Nat) : Exc :=
  (g f (x.dA f l).1 (x.dB f l).1 (x.dC f l).1).2 ||| (x.dA f l).2 ||| (x.dB f l).2 ||| (x.dC f l).2

/-- The bits of all destination lanes together. -/
def excOf (e : Fields → Ctx → Nat → Exc) (f : Fields) (x : Ctx) : Exc := ((x.destLanes f).map (e f x)).foldl (· ||| ·) 0

/-- The writes of all destination lanes. -/
def writesOf (v : Fields → Ctx → Nat → List RegWrite) (f : Fields) (x : Ctx) : List RegWrite := (x.destLanes f).flatMap (v f x)

/-- A word that writes v for the end of its run and sets the bits e at issue, whenever it issues. -/
def EndsWith (op : Nat) (mk : Fields → Instr) (v : Fields → Ctx → Nat → List RegWrite) (e : Fields → Ctx → Nat → Exc) : Prop :=
  WritesAtEnd op mk Always (fun f _ x => writesOf v f x) (fun f x => excOf e f x)

/-- No exception bits. -/
def noExc (_ : Fields) (_ : Ctx) (_ : Nat) : Exc := 0

/-- An FP64 word. -/
def Gives64Exc (op : Nat) (mk : Fields → Instr) (g : Fields → Nat → Nat → Nat → Nat × Exc) : Prop :=
  EndsWith op mk (fp64Writes g) (fp64Exc g)

/-- A word of row 0x8: per destination lane the writes, exception bits and the generator state that v gives from the lane's
generator state; they land at its completion, but the generator state at issue (08 R175, R197). -/
def Converts (op : Nat) (mk : Fields → Instr) (v : Fields → Ctx → Nat → W32 → List RegWrite × Exc × W32) : Prop :=
  WritesLate op mk
    (fun f x => (x.destLanes f).flatMap (fun l => (v f x l (((x.wv.lanes[l]?).map Lane.srg).getD 0)).1))
    (fun f x => ((x.destLanes f).map (fun l => (v f x l (((x.wv.lanes[l]?).map Lane.srg).getD 0)).2.1)).foldl (· ||| ·) 0)
    (fun f x => x.wv.lanes.zipIdx.map (fun p =>
      if p.2 ∈ x.destLanes f then { p.1 with srg := (v f x p.2 p.1.srg).2.2 } else p.1))

/-- A word of row 0x9 that leaves the generator states alone. -/
def Computes (op : Nat) (mk : Fields → Instr) (v : Fields → Ctx → Nat → List RegWrite × Exc) : Prop :=
  WritesLate op mk (fun f x => (x.destLanes f).flatMap (fun l => (v f x l).1))
    (fun f x => ((x.destLanes f).map (fun l => (v f x l).2)).foldl (· ||| ·) 0) (fun _ x => x.wv.lanes)

/-- One value converted (08 R190). -/
def cvtValue (f : Fields) (x : Ctx) (l : Nat) (srg : W32) : List RegWrite × Exc × W32 :=
  let r := convCode (dfmtOf f) (afmtOf f) (f.m 0 3) (f.m 13 1 == 1) srg (convSrc x f l).1
  (convDst f l r.1, (convSrc x f l).2 ||| r.2.1, r.2.2)

/-- An integer narrowed or widened (08 R190): it wraps, or saturates under ISAT. -/
def cvtIntValue (f : Fields) (x : Ctx) (l : Nat) (srg : W32) : List RegWrite × Exc × W32 :=
  let i := decodeI (afmtOf f) (convSrc x f l).1
  let r := if f.m 17 1 = 1 then satInt (dfmtOf f).isSigned (dfmtOf f).width i else (i, 0)
  (convDst f l (encodeI (dfmtOf f) r.1), r.2, srg)

/-- Two values packed into a word beside its other elements (08 R191). -/
def cvtPackValue (f : Fields) (x : Ctx) (l : Nat) (srg : W32) : List RegWrite × Exc × W32 :=
  let d := dfmtOf f
  let r0 := convCode d .fp32 (f.m 0 3) (f.m 13 1 == 1) srg (x.na f f.a l)
  let r1 := convCode d .fp32 (f.m 0 3) (f.m 13 1 == 1) r0.2.2 (x.na f f.b l)
  let el := fun i => if i = 2 * f.m 14 3 then r0.1 else if i = 2 * f.m 14 3 + 1 then r1.1 else elemOf d.width i (x.na f f.c l)
  (wr32 f.dst l (BitVec.ofNat 32 ((List.range (32 / d.width)).foldl (fun r i => r + el i * 2 ^ (d.width * i)) 0)),
    r0.2.1 ||| r1.2.1, r1.2.2)

/-- Two elements of a word widened (08 R191). -/
def cvtExtractValue (f : Fields) (x : Ctx) (l : Nat) (srg : W32) : List RegWrite × Exc × W32 :=
  let a := afmtOf f
  let r := fun i => convCode (dfmtOf f) a 0 false srg (elemOf a.width i (x.na f f.a l))
  (wr64 f.dst l (BitVec.ofNat 64 ((r (2 * f.m 14 3)).1 + 2 ^ 32 * (r (2 * f.m 14 3 + 1)).1)),
    (r (2 * f.m 14 3)).2.1 ||| (r (2 * f.m 14 3 + 1)).2.1, srg)

/-- A value times or over a block scale (08 R192). -/
def cvtScaleValue (f : Fields) (x : Ctx) (l : Nat) (srg : W32) : List RegWrite × Exc × W32 :=
  let sc := x.na f f.b l % 256
  let k : Int := (sc : Int) - 127
  if sc = 255 then (wr32 f.dst l 0x7FC00000, excIV, if f.m 0 3 = 4 then srgNext srg else srg)
  else
    let r := convNum .fp32 (f.m 0 3) false srg ((decodeF .fp32 (x.na f f.a l)).scale (if f.m 18 1 = 1 then -k else k))
    (wr32 f.dst l (BitVec.ofNat 32 r.1), r.2.1, r.2.2)

/-- A special function's writes and bits (08 R194). -/
def specialValue (g : Fields → Nat → Nat × Exc) (f : Fields) (x : Ctx) (l : Nat) : List RegWrite × Exc :=
  (wr32 f.dst l (BitVec.ofNat 32 (g f (x.fA f l)).1), (g f (x.fA f l)).2)

/-- A floating dot product of n elements (08 R196). -/
def dotValue (n : Nat) (ta tb : Fields → Fmt) (f : Fields) (x : Ctx) (l : Nat) : List RegWrite × Exc :=
  let r := dotF .fp32 (f.m 0 3) (decodeF .fp32 (x.na f f.c l)) ((List.range n).map (fun i =>
    (decodeF (ta f) (elemOf (ta f).width i (x.na f f.a l)), decodeF (tb f) (elemOf (tb f).width i (x.na f f.b l)))))
  (wr32 f.dst l (BitVec.ofNat 32 r.1), r.2)

/-- An integer dot product of elements of w bits (08 R196). -/
def intDotValue (w : Nat) (f : Fields) (x : Ctx) (l : Nat) : List RegWrite × Exc :=
  let y := (List.range (32 / w)).foldl (fun (y : Int) i =>
    y + intElem (f.m 3 1 == 1) w i (x.na f f.a l) * intElem (f.m 4 1 == 1) w i (x.na f f.b l)) (x.rd f f.c l).toInt
  let r := if f.m 5 1 = 1 then satInt true 32 y else (y, 0)
  (wr32 f.dst l (BitVec.ofInt 32 r.1), r.2)

/-- IADDC and ISUBB: d as other words write it, then the carry of each destination lane in predicate PCO of the file. -/
def Carries (op : Nat) (mk : Fields → Instr) (g : Int → Int → Int → Int) (c : Int → Bool) : Prop :=
  ∀ (f : Fields) (s : State) (x : Ctx), Issues op f s x →
    let t := fun l => g (x.na f f.a l) (x.na f f.b l) (if x.rdP f.c l then 1 else 0)
    ∃ u y z, exec (mk f) s = .next u ∧ u.issue? = some z ∧ OnlyWave s u x.core x.quarter x.wid ∧
      WroteNow f.t x y ((x.destLanes f).flatMap (fun l => wr32 f.dst l (BitVec.ofInt 32 (t l)))) 0 ∧
      WroteNow false y z ((x.destLanes f).map (fun l => ⟨.p (f.m 0 4) l, if c (t l) then 1 else 0⟩)) 0

/-- IADDS and ISUBS. -/
def Saturates (op : Nat) (mk : Fields → Instr) (g : Int → Int → Int) : Prop :=
  GivesExc op mk (fun f x l =>
    let r := satInt (f.m 0 1 == 0) 32 (g (ns32 (f.m 0 1) (x.rd f f.a l)) (ns32 (f.m 0 1) (x.rd f f.b l)))
    (wr32 f.dst l (BitVec.ofInt 32 r.1), r.2))

end Sys2Proof.Machine

/-! ## Encoding and decoding -/

/-- The word of a well-formed instruction decodes to that instruction, whatever its operands: no bit of an encoding is dropped
(06 R136, R140). -/
def Obligations.DecodeEncodeRoundTrip : Prop :=
  ∀ i : Instr, i.WF → ∀ w, encode i = some w → decode w = .ok i

/-- A word that decodes encodes back to itself: two words never stand for one instruction (06 R136). -/
def Obligations.EncodeDecodeRoundTrip : Prop := ∀ (w : W128) (i : Instr), decode w = .ok i → encode i = some w

/-- Words of nine opcodes, each field written out from R136, decode to what they stand for: IADD v3, v1, v2; (!p2) MOV.T v1, #7;
FADD s4, s2, s3 with a rounding mode; LD v4, [v2:v3 + 16] under SF; BRA -2 with S; ISUM3 with all reuse bits; SEL by p6; PSWR.TVECG;
SWR.WSTAT.SET #1. -/
def Obligations.WrittenWordsDecode : Prop :=
  let w := fun (hi lo : Nat) => BitVec.ofNat 128 (hi * 2 ^ 64 + lo)
  let f0 : Fields := { guard := 15, gneg := false, sf := false, ru := 0, t := false, s := false, dst := .absent, a := .absent,
                       b := .absent, c := .absent, mod := 0, imm := 0 }
  let lo := fun (op s t ru sf g n d dc a ac b bc c0 : Nat) =>
    op + s * 2 ^ 8 + t * 2 ^ 9 + ru * 2 ^ 10 + sf * 2 ^ 13 + g * 2 ^ 14 + n * 2 ^ 18 + d * 2 ^ 19 + dc * 2 ^ 30 + a * 2 ^ 33 +
      ac * 2 ^ 44 + b * 2 ^ 47 + bc * 2 ^ 58 + c0 * 2 ^ 61
  -- bits 63:61 are the low three of C's index; bits 71:64 its others, bits 74:72 its class, bits 95:75 MOD, bits 127:96 IMM
  let hi := fun (cc mod imm : Nat) => cc * 2 ^ 8 + mod * 2 ^ 11 + imm * 2 ^ 32
  decode (w (hi 7 0 0) (lo 0x20 0 0 0 0 15 0 3 0 1 0 2 0 0)) =
    .ok (.iadd { f0 with dst := .vec 3, a := .vec 1, b := .vec 2 }) ∧
  decode (w (hi 7 0 7) (lo 0x49 0 1 0 0 2 1 1 0 0 5 0 7 0)) =
    .ok (.mov { f0 with guard := 2, gneg := true, t := true, dst := .vec 1, a := .imm, imm := 7 }) ∧
  decode (w (hi 7 1 0) (lo 0x50 0 0 0 0 15 0 4 1 2 1 3 1 0)) =
    .ok (.fadd { f0 with dst := .uni 4, a := .uni 2, b := .uni 3, mod := 1 }) ∧
  decode (w (hi 7 2 16) (lo 0xA0 0 0 0 1 15 0 4 0 2 0 0 7 0)) =
    .ok (.ld { f0 with sf := true, dst := .vec 4, a := .vec 2, mod := 2, imm := 16 }) ∧
  decode (w (hi 7 0 0xFFFFFFFE) (lo 0x01 1 0 0 0 15 0 0 7 0 7 0 7 0)) =
    .ok (.bra { f0 with s := true, imm := 0xFFFFFFFE }) ∧
  decode (w (hi 0 0 0) (lo 0x26 0 0 7 0 15 0 9 0 4 0 5 0 6)) =
    .ok (.isum3 { f0 with ru := 7, dst := .vec 9, a := .vec 4, b := .vec 5, c := .vec 6 }) ∧
  decode (w (hi 2 0 0) (lo 0x42 0 0 0 0 15 0 9 0 4 0 5 0 6)) =
    .ok (.sel { f0 with dst := .vec 9, a := .vec 4, b := .vec 5, c := .pred 6 }) ∧
  decode (w (hi 7 8 0) (lo 0xF6 0 0 0 0 15 0 0 7 2 1 0 7 0)) = .ok (.pswr { f0 with a := .uni 2, mod := 8 }) ∧
  decode (w (hi 7 0x100 1) (lo 0xF3 0 0 0 0 15 0 0 7 0 5 0 7 0)) = .ok (.swrSet { f0 with a := .imm, mod := 0x100, imm := 1 })

/-- Words that a pattern of R143 matches are refused by its name, whatever else they hold: an index beside class 101 or 111
of a source, or beside an absent DST; immediates in two of A, B and C; SF on a word of rows 0x2 to 0x6; an immediate or special DST; S with
T; an RU bit of A, B or C beside an operand that is no vector. -/
def Obligations.ReservedEncodingsRefused : Prop :=
  (∀ w : W128, (field w 44 3 = 5 ∨ field w 44 3 = 7) → field w 33 11 ≠ 0 → decode w = .error .operand) ∧
  (∀ w : W128, (field w 58 3 = 5 ∨ field w 58 3 = 7) → field w 47 11 ≠ 0 → decode w = .error .operand) ∧
  (∀ w : W128, (field w 72 3 = 5 ∨ field w 72 3 = 7) → field w 61 11 ≠ 0 → decode w = .error .operand) ∧
  (∀ w : W128, field w 30 3 = 7 → field w 19 11 ≠ 0 → decode w = .error .operand) ∧
  (∀ w : W128, (field w 30 3 = 5 ∨ field w 30 3 = 6) → ∀ i, decode w ≠ .ok i) ∧
  (∀ w : W128, field w 44 3 = 5 → field w 58 3 = 5 → ∀ i, decode w ≠ .ok i) ∧
  (∀ w : W128, field w 44 3 = 5 → field w 72 3 = 5 → ∀ i, decode w ≠ .ok i) ∧
  (∀ w : W128, field w 58 3 = 5 → field w 72 3 = 5 → ∀ i, decode w ≠ .ok i) ∧
  (∀ w : W128, 0x20 ≤ opOf w → opOf w < 0x70 → w.getLsbD 13 = true → ∀ i, decode w ≠ .ok i) ∧
  (∀ w : W128, w.getLsbD 8 = true → w.getLsbD 9 = true → ∀ i, decode w ≠ .ok i) ∧
  (∀ w : W128, w.getLsbD 10 = true → field w 44 3 ≠ 0 → ∀ i, decode w ≠ .ok i) ∧
  (∀ w : W128, w.getLsbD 11 = true → field w 58 3 ≠ 0 → ∀ i, decode w ≠ .ok i) ∧
  (∀ w : W128, w.getLsbD 12 = true → field w 72 3 ≠ 0 → ∀ i, decode w ≠ .ok i)

/-! ## Rows 0x2 to 0x4 -/

/-- Row 0x2 (07 R163): each word's value in every destination lane, the carry of IADDC and ISUBB, the saturation of IADDS and ISUBS;
nothing else changes. [model choice: log 13, 16] -/
def Obligations.IntegerRow2Results : Prop :=
  Gives32 0x20 .iadd (fun f x l => BitVec.ofNat 32 (x.na f f.a l + x.na f f.b l)) ∧
  Gives32 0x21 .isub (fun f x l => BitVec.ofInt 32 ((x.na f f.a l : Int) - x.na f f.b l)) ∧
  Carries 0x22 .iaddc (fun a b c => a + b + c) (fun t => decide (2 ^ 32 ≤ t)) ∧
  Carries 0x23 .isubb (fun a b c => a - b - c) (fun t => decide (t < 0)) ∧
  Saturates 0x24 .iadds (· + ·) ∧
  Saturates 0x25 .isubs (· - ·) ∧
  Gives32 0x26 .isum3 (fun f x l => BitVec.ofNat 32 (x.na f f.a l + x.na f f.b l + x.na f f.c l)) ∧
  Gives32 0x27 .ineg (fun f x l => BitVec.ofInt 32 (-(x.na f f.a l : Int))) ∧
  Gives32 0x28 .iabs (fun f x l => BitVec.ofNat 32 (x.rd f f.a l).toInt.natAbs) ∧
  Gives32 0x29 .iabsd (fun f x l =>
    BitVec.ofNat 32 ((ns32 (f.m 0 1) (x.rd f f.a l) - ns32 (f.m 0 1) (x.rd f f.b l)).natAbs + x.na f f.c l)) ∧
  Gives64 0x2A .ixadd (fun f x l =>
    BitVec.ofInt 64 ((x.rd64 f f.b l).toNat + (if f.m 3 1 = 1 then (x.rd f f.a l).toInt else x.na f f.a l) * 2 ^ f.m 0 3)) ∧
  Gives32 0x2B .and (fun f x l => x.rd f f.a l &&& x.rd f f.b l) ∧
  Gives32 0x2C .or (fun f x l => x.rd f f.a l ||| x.rd f f.b l) ∧
  Gives32 0x2D .xor (fun f x l => x.rd f f.a l ^^^ x.rd f f.b l) ∧
  Gives32 0x2E .not (fun f x l => ~~~(x.rd f f.a l)) ∧
  (∃ v : Fields → Ctx → Nat → W32, Gives32 0x2F .blut3 v ∧ ∀ f x l n, n < 32 →
    (v f x l).getLsbD n = f.imm.getLsbD (((x.rd f f.a l).getLsbD n).toNat + 2 * ((x.rd f f.b l).getLsbD n).toNat +
      4 * ((x.rd f f.c l).getLsbD n).toNat))

/-- The shift amount of SHL, SHR and SAR (07 R165). -/
def Sys2Proof.Machine.Ctx.amount (x : Ctx) (f : Fields) (l : Nat) : Nat :=
  if f.m 0 1 = 0 then x.na f f.b l % 32 else x.na f f.b l

/-- Row 0x3 (07 R164 to R166): products, shifts, rotations, fields and counts; nothing else changes. [model choice: log 16] -/
def Obligations.IntegerRow3Results : Prop :=
  Gives32 0x30 .imul (fun f x l => BitVec.ofNat 32 (x.na f f.a l * x.na f f.b l)) ∧
  Gives32 0x31 .imulhi (fun f x l =>
    BitVec.ofInt 32 ((ns32 (f.m 0 1) (x.rd f f.a l) * ns32 (f.m 0 1) (x.rd f f.b l)).fdiv (2 ^ 32))) ∧
  Gives32 0x32 .imad (fun f x l => BitVec.ofNat 32 (x.na f f.a l * x.na f f.b l + x.na f f.c l)) ∧
  Gives64 0x33 .imadw (fun f x l =>
    BitVec.ofInt 64 (ns32 (f.m 0 1) (x.rd f f.a l) * ns32 (f.m 0 1) (x.rd f f.b l) + (x.rd64 f f.c l).toNat)) ∧
  Gives32 0x34 .shl (fun f x l => BitVec.ofNat 32 (x.na f f.a l * 2 ^ x.amount f l)) ∧
  Gives32 0x35 .shr (fun f x l => BitVec.ofNat 32 (x.na f f.a l / 2 ^ x.amount f l)) ∧
  Gives32 0x36 .sar (fun f x l => BitVec.ofInt 32 ((x.rd f f.a l).toInt.fdiv (2 ^ x.amount f l))) ∧
  (∃ v : Fields → Ctx → Nat → W32, Gives32 0x37 .rotl v ∧
    ∀ f x l n, n < 32 → (v f x l).getLsbD ((n + x.na f f.b l) % 32) = (x.rd f f.a l).getLsbD n) ∧
  (∃ v : Fields → Ctx → Nat → W32, Gives32 0x38 .rotr v ∧
    ∀ f x l n, n < 32 → (v f x l).getLsbD n = (x.rd f f.a l).getLsbD ((n + x.na f f.b l) % 32)) ∧
  Gives32 0x39 .funnel (fun f x l =>
    BitVec.ofNat 32 ((x.na f f.b l * 2 ^ 32 + x.na f f.a l) / 2 ^ (x.na f f.c l % 64))) ∧
  (∃ v : Fields → Ctx → Nat → W32, Gives32 0x3A .bfe v ∧ ∀ f x l,
    let pos := x.na f f.b l % 256
    let len := x.na f f.c l % 256
    let w := min len (32 - pos)
    v f x l = if len = 0 ∨ 32 ≤ pos then 0
      else if f.m 0 1 = 1 then BitVec.ofNat 32 (x.na f f.a l / 2 ^ pos % 2 ^ w)
      else ((BitVec.ofNat w (x.na f f.a l / 2 ^ pos)).signExtend 32)) ∧
  (∃ v : Fields → Ctx → Nat → W32, Gives32 0x3B .bfi v ∧ ∀ f x l n, n < 32 →
    let pos := f.imm.toNat % 256
    let len := f.imm.toNat / 256 % 256
    (v f x l).getLsbD n = if pos ≤ n ∧ n < pos + len then (x.rd f f.a l).getLsbD (n - pos) else (x.rd f f.b l).getLsbD n) ∧
  Gives32 0x3C .popc (fun f x l => BitVec.ofNat 32 ((List.range 32).countP (fun n => (x.rd f f.a l).getLsbD n))) ∧
  (∃ v : Fields → Ctx → Nat → W32, Gives32 0x3D .clz v ∧ ∀ f x l,
    (v f x l).toNat ≤ 32 ∧ (∀ n, n < (v f x l).toNat → (x.rd f f.a l).getLsbD (31 - n) = false) ∧
    ((v f x l).toNat < 32 → (x.rd f f.a l).getLsbD (31 - (v f x l).toNat) = true)) ∧
  (∃ v : Fields → Ctx → Nat → W32, Gives32 0x3E .brev v ∧
    ∀ f x l n, n < 32 → (v f x l).getLsbD n = (x.rd f f.a l).getLsbD (31 - n)) ∧
  (∃ v : Fields → Ctx → Nat → W32, Gives32 0x3F .ffs v ∧ ∀ f x l,
    (v f x l).toNat ≤ 32 ∧ (∀ n, n < (v f x l).toNat → (x.rd f f.a l).getLsbD n = false) ∧
    ((v f x l).toNat < 32 → (x.rd f f.a l).getLsbD (v f x l).toNat = true))

/-- Row 0x4 but MOVT and S2P (07 R167 to R170): compares, selects, minima, maxima, the clamp, moves and predicate words; nothing else
changes. -/
def Sys2Proof.Machine.SaysCompareSelectMoveResults : Prop :=
  GivesBool 0x40 .icmp (fun f x l =>
    combine (f.m 4 2) (intRel (f.m 1 3) (ns32 (f.m 0 1) (x.rd f f.a l)) (ns32 (f.m 0 1) (x.rd f f.b l))) (x.rdP f.c l)) ∧
  GivesBool 0x41 .icmpw (fun f x l =>
    combine (f.m 4 2) (intRel (f.m 1 3) (ns64 (f.m 0 1) (x.rd64 f f.a l)) (ns64 (f.m 0 1) (x.rd64 f f.b l))) (x.rdP f.c l)) ∧
  Gives32 0x42 .sel (fun f x l => if x.rdP f.c l then x.rd f f.a l else x.rd f f.b l) ∧
  Gives64 0x43 .selw (fun f x l => if x.rdP f.c l then x.rd64 f f.a l else x.rd64 f f.b l) ∧
  Gives32 0x44 .imin (fun f x l => BitVec.ofInt 32 (min (ns32 (f.m 0 1) (x.rd f f.a l)) (ns32 (f.m 0 1) (x.rd f f.b l)))) ∧
  Gives32 0x45 .imax (fun f x l => BitVec.ofInt 32 (max (ns32 (f.m 0 1) (x.rd f f.a l)) (ns32 (f.m 0 1) (x.rd f f.b l)))) ∧
  Gives64 0x46 .iminw (fun f x l => BitVec.ofInt 64 (min (ns64 (f.m 0 1) (x.rd64 f f.a l)) (ns64 (f.m 0 1) (x.rd64 f f.b l)))) ∧
  Gives64 0x47 .imaxw (fun f x l => BitVec.ofInt 64 (max (ns64 (f.m 0 1) (x.rd64 f f.a l)) (ns64 (f.m 0 1) (x.rd64 f f.b l)))) ∧
  Gives32 0x48 .iclamp (fun f x l => BitVec.ofInt 32 (min (max (ns32 (f.m 0 1) (x.rd f f.a l)) (ns32 (f.m 0 1) (x.rd f f.b l)))
    (ns32 (f.m 0 1) (x.rd f f.c l)))) ∧
  Gives32 0x49 .mov (fun f x l => x.rd f f.a l) ∧
  Gives64 0x4A .movw (fun f x l => x.rd64 f f.a l) ∧
  GivesBool 0x4C .pmov (fun f x l => if f.a.code.1 = 2 then x.rdP f.a l else decide (x.rd f f.a l ≠ 0)) ∧
  GivesBool 0x4D .plut3 (fun f x l => f.imm.getLsbD ((x.rdP f.a l).toNat + 2 * (x.rdP f.b l).toNat + 4 * (x.rdP f.c l).toNat)) ∧
  (∃ v : Fields → Ctx → Nat → W32, Gives32 0x4E .p2s v ∧ ∀ f x l n, n < 32 →
    (v f x l).getLsbD n = if n < 16 ∧ f.mod.getLsbD n then (x.readE (.p n l)).getLsbD 0 else (x.rd f f.a l).getLsbD n)

/-- MOVT and S2P (07 R169, R170): a tile, one word of it, or a uniform register from one word; the predicates named in MASK but
p15. -/
def Sys2Proof.Machine.SaysTileMoveAndPredicateUnpack : Prop :=
  WritesAtIssue 0x4B .movt (fun f x => (x.destLanes f).flatMap (fun l =>
    match f.m 0 2, f.dst with
    | 0, .tile i => (List.range 8).map (fun w => ⟨.t i.toNat w, (x.rdT f.a).extractLsb' (32 * w) 32⟩)
    | 1, .tile i => [⟨.t i.toNat (f.m 2 3), x.rd f f.a l⟩]
    | 2, .uni i => [⟨.u i.toNat, (x.rdT f.a).extractLsb' (32 * f.m 2 3) 32⟩]
    | _, _ => [])) (fun _ _ => 0) ∧
  (∀ (f : Fields) (s : State) (x : Ctx), Issues 0x4F f s x → ∃ t y, exec (.s2p f) s = .next t ∧ t.issue? = some y ∧
    OnlyWave s t x.core x.quarter x.wid ∧
    WroteNow false x y ((x.active f).flatMap (fun l => ((List.range 15).filter (fun n => f.mod.getLsbD n)).map (fun n =>
      ⟨.p n l, if (x.rd f f.a l).getLsbD n then 1 else 0⟩))) 0)

/-- Row 0x4 (07 R167 to R170). [model choice: log 16] -/
def Obligations.CompareSelectMoveResults : Prop := SaysCompareSelectMoveResults ∧ SaysTileMoveAndPredicateUnpack

/-! ## Rows 0x5 to 0x9 -/

/-- Row 0x5 (08 R178 to R184): FP32 results and the exception bits they set; nothing else changes. [model choice: log 32, 16] -/
def Obligations.SingleFloatResults : Prop :=
  GivesExc 0x50 .fadd (fp32Value (addE .fp32)) ∧ GivesExc 0x51 .fsub (fp32Value (subE .fp32)) ∧
  GivesExc 0x52 .fmul (fp32Value (mulE .fp32)) ∧ GivesExc 0x53 .ffma (fp32Value (fmaE .fp32)) ∧
  GivesExc 0x54 .fmin (fp32Value (minE .fp32)) ∧ GivesExc 0x55 .fmax (fp32Value (maxE .fp32)) ∧
  GivesExc 0x56 .fmed3 (fp32Value (med3E .fp32)) ∧
  GivesExc 0x57 .fcmp (fun f x l =>
    (wrBool f.dst l (cmpF .fp32 (f.m 9 4) (x.fA f l) (x.fB f l)).1, (cmpF .fp32 (f.m 9 4) (x.fA f l) (x.fB f l)).2)) ∧
  GivesExc 0x58 .fneg (fun f x l => (wr32 f.dst l (x.rd f f.a l ^^^ 0x80000000), 0)) ∧
  GivesExc 0x59 .fabs (fun f x l => (wr32 f.dst l (x.rd f f.a l &&& 0x7FFFFFFF), 0)) ∧
  GivesExc 0x5A .fcpsgn (fun f x l => (wr32 f.dst l ((x.rd f f.a l &&& 0x7FFFFFFF) ||| (x.rd f f.b l &&& 0x80000000)), 0)) ∧
  GivesExc 0x5B .frint (fp32Value (fun f a _ _ => rintF .fp32 (f.m 0 3) a)) ∧
  GivesExc 0x5C .fscale (fun f x l => let r := scaleF .fp32 (f.m 0 3) (x.fA f l) (x.scaleB f l)
    (wr32 f.dst l (BitVec.ofNat 32 r.1), r.2)) ∧
  GivesExc 0x5D .fclass (fun f x l => (wrClass f l (classMask .fp32 (x.na f f.a l)) (x.rd f f.b l), 0)) ∧
  GivesExc 0x5E .fgetexp (fun f x l => (wr32 f.dst l (getExp .fp32 (x.na f f.a l)), 0)) ∧
  GivesExc 0x5F .ffrc (fp32Value (fun f a _ _ => frcF .fp32 (f.m 0 3) a))

/-- Row 0x6 (08 R185, R186): the packed operations on both halves; nothing else changes. [model choice: log 16] -/
def Obligations.PackedFloatResults : Prop :=
  GivesExc 0x60 .hadd2 (packedValue (addE .fp16)) ∧ GivesExc 0x61 .hsub2 (packedValue (subE .fp16)) ∧
  GivesExc 0x62 .hmul2 (packedValue (mulE .fp16)) ∧ GivesExc 0x63 .hfma2 (packedValue (fmaE .fp16)) ∧
  GivesExc 0x64 .hmin2 (packedValue (minE .fp16)) ∧ GivesExc 0x65 .hmax2 (packedValue (maxE .fp16)) ∧
  GivesExc 0x66 .hcmp2 (packedCmpValue .fp16) ∧
  GivesExc 0x67 .hneg2 (fun f x l => (wr32 f.dst l (x.rd f f.a l ^^^ 0x80008000), 0)) ∧
  GivesExc 0x68 .habs2 (fun f x l => (wr32 f.dst l (x.rd f f.a l &&& 0x7FFF7FFF), 0)) ∧
  GivesExc 0x69 .badd2 (packedValue (addE .bf16)) ∧ GivesExc 0x6A .bsub2 (packedValue (subE .bf16)) ∧
  GivesExc 0x6B .bmul2 (packedValue (mulE .bf16)) ∧ GivesExc 0x6C .bfma2 (packedValue (fmaE .bf16)) ∧
  GivesExc 0x6D .bmin2 (packedValue (minE .bf16)) ∧ GivesExc 0x6E .bmax2 (packedValue (maxE .bf16)) ∧
  GivesExc 0x6F .bcmp2 (packedCmpValue .bf16)

/-- Row 0x7 (08 R187): FP64 results, written at the end of the run, and their exception bits; nothing else changes. [model choice: log 1, 16] -/
def Obligations.DoubleFloatResults : Prop :=
  Gives64Exc 0x70 .dadd (addE .fp64) ∧ Gives64Exc 0x71 .dsub (subE .fp64) ∧ Gives64Exc 0x72 .dmul (mulE .fp64) ∧
  Gives64Exc 0x73 .dfma (fmaE .fp64) ∧ Gives64Exc 0x74 .dmin (minE .fp64) ∧ Gives64Exc 0x75 .dmax (maxE .fp64) ∧
  EndsWith 0x76 .dcmp (fun f x l => wrBool f.dst l (cmpF .fp64 (f.m 9 4) (x.dA f l).1 (x.dB f l).1).1)
    (fun f x l => (cmpF .fp64 (f.m 9 4) (x.dA f l).1 (x.dB f l).1).2 ||| (x.dA f l).2 ||| (x.dB f l).2) ∧
  EndsWith 0x77 .dneg (fun f x l => wr64 f.dst l (BitVec.ofNat 64 (x.rdD f f.a l).1 ^^^ 0x8000000000000000))
    (fun f x l => (x.rdD f f.a l).2 ||| (x.rdD f f.b l).2) ∧
  EndsWith 0x78 .dabs (fun f x l => wr64 f.dst l (BitVec.ofNat 64 (x.rdD f f.a l).1 &&& 0x7FFFFFFFFFFFFFFF))
    (fun f x l => (x.rdD f f.a l).2 ||| (x.rdD f f.b l).2) ∧
  EndsWith 0x79 .dcpsgn (fun f x l => wr64 f.dst l ((BitVec.ofNat 64 (x.rdD f f.a l).1 &&& 0x7FFFFFFFFFFFFFFF) |||
    (BitVec.ofNat 64 (x.rdD f f.b l).1 &&& 0x8000000000000000))) (fun f x l => (x.rdD f f.a l).2 ||| (x.rdD f f.b l).2) ∧
  Gives64Exc 0x7A .drint (fun f a _ _ => rintF .fp64 (f.m 0 3) a) ∧
  EndsWith 0x7B .dscale (fun f x l =>
    wr64 f.dst l (BitVec.ofNat 64 (scaleF .fp64 (f.m 0 3) (x.dA f l).1 (x.scaleB f l)).1))
    (fun f x l => (scaleF .fp64 (f.m 0 3) (x.dA f l).1 (x.scaleB f l)).2 ||| (x.dA f l).2) ∧
  EndsWith 0x7C .dclass (fun f x l => wrClass f l (classMask .fp64 (x.rdD f f.a l).1) (x.rd f f.b l))
    (fun f x l => (x.rdD f f.a l).2) ∧
  EndsWith 0x7D .dgetexp (fun f x l => wr32 f.dst l (getExp .fp64 (x.rdD f f.a l).1)) (fun f x l => (x.rdD f f.a l).2) ∧
  Gives64Exc 0x7E .drcp (fun f a _ _ => rcpF .fp64 (f.m 0 3) a) ∧ Gives64Exc 0x7F .drsq (fun _ a _ _ => rsqF .fp64 0x7F a)

/-- Row 0x8 (08 R188 to R193, R197): conversions, block scales, BPICK and SWZH: what pends for their completion, and the generator
state at issue; nothing else changes. [model choice: log 33, 138, 16] -/
def Obligations.ConversionResults : Prop :=
  Converts 0x80 .cvtf cvtValue ∧ Converts 0x81 .cvtfi cvtValue ∧ Converts 0x82 .cvtif cvtValue ∧
  Converts 0x83 .cvtii cvtIntValue ∧ Converts 0x84 .cvtfw cvtValue ∧ Converts 0x85 .cvtifw cvtValue ∧
  Converts 0x86 .cvtpk2 cvtPackValue ∧ Converts 0x87 .cvtpk4 cvtPackValue ∧ Converts 0x88 .cvtpk8 cvtPackValue ∧
  Converts 0x89 .cvtex2 cvtExtractValue ∧ Converts 0x8A .cvtex4 cvtExtractValue ∧ Converts 0x8B .cvtex8 cvtExtractValue ∧
  Converts 0x8C .cvtsc cvtScaleValue ∧
  Converts 0x8D .cvtqs (fun f x l g => (wr32 f.dst l (BitVec.ofNat 32 (quantScale (dfmtOf f) (x.na f f.a l))), 0, g)) ∧
  Converts 0x8E .bpick (fun f x l g => (wr32 f.dst l (bytePick (x.rd f f.a l) (x.rd f f.b l) (x.rd f f.c l)), 0, g)) ∧
  Converts 0x8F .swzh (fun f x l g =>
    let ab : W64 := x.rd f f.b l ++ x.rd f f.a l
    (wr32 f.dst l (ab.extractLsb' (16 * f.m 2 2) 16 ++ ab.extractLsb' (16 * f.m 0 2) 16), 0, g))

/-- Row 0x9 (08 R194 to R197): special functions, dot products, SRREAD; and SRSEED, which sets the generator state of the active lanes
at issue; nothing else changes. [model choice: log 1, 16] -/
def Obligations.SpecialFunctionResults : Prop :=
  Computes 0x90 .frcp (specialValue (fun f => rcpF .fp32 (f.m 0 3))) ∧ Computes 0x91 .frsq (specialValue (fun _ => rsqF .fp32 0x91)) ∧
  Computes 0x92 .fsqrt (specialValue (fun f => sqrtF .fp32 (f.m 0 3))) ∧ Computes 0x93 .fexp2 (specialValue (fun _ => exp2F 0x93)) ∧
  Computes 0x94 .flog2 (specialValue (fun _ => log2F 0x94)) ∧ Computes 0x95 .fsin (specialValue (fun _ => sinF 0x95)) ∧
  Computes 0x96 .fcos (specialValue (fun _ => cosF 0x96)) ∧ Computes 0x97 .ftanh (specialValue (fun _ => tanhF 0x97)) ∧
  Computes 0x98 .fdot2h (dotValue 2 (fun _ => .fp16) (fun _ => .fp16)) ∧
  Computes 0x99 .fdot2b (dotValue 2 (fun _ => .bf16) (fun _ => .bf16)) ∧
  Computes 0x9A .fdot4e (dotValue 4 (fun f => fp8Of (f.m 3 1)) (fun f => fp8Of (f.m 4 1))) ∧
  Computes 0x9B .idot4 (intDotValue 8) ∧ Computes 0x9C .idot8 (intDotValue 4) ∧
  Computes 0x9D .ddot2 (fun f x l =>
    let el := fun (v : W128) (i : Nat) => decodeF .fp64 (v.extractLsb' (64 * i) 64).toNat
    let r := dotF .fp64 (f.m 0 3) (decodeF .fp64 (x.rd64 f f.c l).toNat)
      [(el (x.rd128 f.a l) 0, el (x.rd128 f.b l) 0), (el (x.rd128 f.a l) 1, el (x.rd128 f.b l) 1)]
    (wr64 f.dst l (BitVec.ofNat 64 r.1), r.2)) ∧
  (∀ (f : Fields) (s : State) (x : Ctx), Issues 0x9E f s x → ∃ t y, exec (.srseed f) s = .next t ∧ t.issue? = some y ∧
    OnlyWave s t x.core x.quarter x.wid ∧
    let seeded := x.wv.lanes.zipIdx.map (fun p => if p.2 ∈ x.active f then { p.1 with srg := x.rd f f.a p.2 } else p.1)
    y = { x with sl := { x.sl with wave := { x.wv with lanes := seeded } } }) ∧
  Computes 0x9F .srread (fun f x l => (wr32 f.dst l (((x.wv.lanes[l]?).map Lane.srg).getD 0), 0))

/-! ## Rows 0x0 and 0x1, and the user words of row 0xF -/

/-- Transfers and ends of threads (07 R154, R171; 14 R318): NOP changes nothing; each active lane of BRA, BRX, RET, EXIT, TRAP, RTE,
and of BRK while BRKEN is set, acts so at the end of the run; BRK with BRKEN clear changes nothing. Nothing else changes. -/
def Sys2Proof.Machine.SaysTransfersActAtEndOfRun : Prop :=
  (∀ (f : Fields) (s : State) (x : Ctx), Issues 0x00 f s x → exec (.nop f) s = .next s) ∧
  ActsAtEnd 0x01 .bra Always (fun f x _ => .jump (x.g.pro + f.imm.signExtend 64 * 16) .none) ∧
  ActsAtEnd 0x02 .brx Always (fun f x l => .jump (x.rd64 f f.a l) .ind) ∧
  ActsAtEnd 0x05 .ret Always (fun f x l => .jump (x.rd64 f f.a l) .none) ∧
  ActsAtEnd 0x06 .exit Always (fun _ _ _ => .exit) ∧
  ActsAtEnd 0xF0 .trap Always (fun f x _ => .trap 21 (f.imm.setWidth 64) x.idx) ∧
  ActsAtEnd 0xF1 .brk (fun _ _ x => x.wv.wstat.getLsbD 8 = true) (fun f x _ => .trap 22 (f.imm.setWidth 64) x.idx) ∧
  (∀ (f : Fields) (s : State) (x : Ctx), Issues 0xF1 f s x → x.wv.wstat.getLsbD 8 = false → exec (.brk f) s = .next s) ∧
  ActsAtEnd 0xF4 .rte Always (fun _ _ _ => .rte)

/-- CALL and CALLX (07 R154, R155): the active lanes transfer at the end of the run, and the block's fall-through address is written
for the end of the run. -/
def Sys2Proof.Machine.SaysCallsTransferAndLink : Prop :=
  Links 0x03 .call (fun f x _ => .jump (x.g.pro + f.imm.signExtend 64 * 16) .call) ∧
  Links 0x04 .callx (fun f x l => .jump (x.rd64 f f.a l) .call)

/-- Rows 0x0 and 0xF's transfers, ends of threads, traps by word, and calls (07 R154, R155, R171; 14 R318). [model choice: log 16] -/
def Obligations.TransfersAndCalls : Prop := SaysTransfersActAtEndOfRun ∧ SaysCallsTransferAndLink

/-- The vote words (07 R161): over the lanes with LaneActive, written for the end of the run. [model choice: log 16] -/
def Obligations.VotesOverActiveLanes : Prop :=
  EndsWith 0x07 .vall (fun f x l => wrBool f.dst l (decide (∀ j, j ∈ x.active f → x.rdP f.a j = true))) noExc ∧
  EndsWith 0x08 .vany (fun f x l => wrBool f.dst l (decide (∃ j, j ∈ x.active f ∧ x.rdP f.a j = true))) noExc ∧
  (∃ v : Fields → Ctx → W32, EndsWith 0x09 .vballot (fun f x l => wr32 f.dst l (v f x)) noExc ∧ ∀ f x n, n < 32 →
    (v f x).getLsbD n = decide (n ∈ x.active f ∧ x.rdP f.a n = true)) ∧
  (∃ v : Fields → Ctx → Nat → W32,
    WritesAtEnd 0x0A .vmatch Always (fun f _ x => (x.active f).flatMap (fun l => wr32 f.dst l (v f x l))) (fun _ _ => 0) ∧
    ∀ f x l n, n < 32 → (v f x l).getLsbD n = decide (n ∈ x.active f ∧
      if f.m 0 1 = 1 then x.rd64 f f.a n = x.rd64 f f.a l else x.rd f f.a n = x.rd f f.a l))

/-- A lane exchange whose lane l reads lane src S b l, or the fill C where src names none or names a lane outside EXEC: with W in
pairs, else in single registers. -/
def Sys2Proof.Machine.Exchanges (op : Nat) (mk : Fields → Instr) (src : Nat → W32 → Nat → Option Nat) : Prop :=
  ∀ v : Fields → Ctx → Nat → Option Nat, (∀ f x l, v f x l =
      (src (2 ^ f.m 1 3) (x.rd f f.b l) l).filter (fun j => decide (j < 32) && x.exec.getLsbD j)) →
  WritesAtEnd op mk Always (fun f _ x => (x.active f).flatMap (fun l =>
    if f.m 0 1 = 1 then wr64 f.dst l (match v f x l with | some j => x.rd64 f f.a j | none => x.rd64 f f.c l)
    else wr32 f.dst l (match v f x l with | some j => x.rd f f.a j | none => x.rd f f.c l))) (fun _ _ => 0)

/-- The lane exchanges (07 R162): within segments of 2^LOGW lanes, from the values before the word. [model choice: log 16] -/
def Obligations.LaneExchangesReadBefore : Prop :=
  Exchanges 0x0B .lxpick (fun n b l => if b.toNat < n then some (l - l % n + b.toNat) else none) ∧
  Exchanges 0x0C .lxshift (fun n b l =>
    if ((l - l % n : Nat) : Int) ≤ l - b.toInt ∧ l - b.toInt < ((l - l % n : Nat) : Int) + n then some (l - b.toInt).toNat else none) ∧
  Exchanges 0x0D .lxrot (fun n b l =>
    some (l - l % n + (((l : Int) - ((l - l % n : Nat) : Int) - b.toNat).emod n).toNat)) ∧
  Exchanges 0x0E .lxswap (fun n b l => if b.toNat < n then some (l ^^^ b.toNat) else none) ∧
  WritesAtEnd 0x0F .rdlane Always (fun f _ x => writesOf (fun f x l =>
    let here := decide (x.na f f.b l < 32) && x.exec.getLsbD (x.na f f.b l)
    if f.m 0 1 = 1 then wr64 f.dst l (if here then x.rd64 f f.a (x.na f f.b l) else x.rd64 f f.c l)
    else wr32 f.dst l (if here then x.rd f f.a (x.na f f.b l) else x.rd f f.c l)) f x) (fun _ _ => 0)

/-- SRD and SWR (02 R50; 07 R172, R173): WSTAT as it stood before this cc, RSDEPTH, LOGUSE; and bits 7:0 of WSTAT written, set or cleared at issue by the
lowest active lane's source, its other bits kept. Nothing else changes. [model choice: log 16] -/
def Obligations.StatusWordReadAndWritten : Prop :=
  EndsWith 0xF2 .srd (fun f x l => wr32 f.dst l (match f.m 0 8 with
    | 0 => match x.run.snap with | some n => n.wstat | none => x.wv.wstatNow
    | 1 => BitVec.ofNat 32 (x.wv.stack.length + x.wv.spilled)
    | _ => BitVec.ofNat 32 ((x.wv.ops.filter (fun o => o.log == .entry)).length + (x.wv.spillLog.filter (fun e => e.log == .entry)).length +
        (match x.wv.refill with | some r => if r.log = .entry then 1 else 0 | none => 0)))) noExc ∧
  (∀ (f : Fields) (s : State) (x : Ctx) (l : Nat), Issues 0xF3 f s x → (x.active f).head? = some l →
    ∀ (mk : Fields → Instr) (g : BitVec 8 → BitVec 8 → BitVec 8),
      (mk = .swrWrite ∧ g = fun _ a => a) ∨ (mk = .swrSet ∧ g = fun o a => o ||| a) ∨ (mk = .swrClear ∧ g = fun o a => o &&& ~~~a) →
      ∃ t y, exec (mk f) s = .next t ∧ t.issue? = some y ∧ OnlyWave s t x.core x.quarter x.wid ∧
        y = { x with sl := { x.sl with wave := { x.wv with
          wstat := x.wv.wstat.extractLsb' 8 24 ++ g (x.wv.wstat.extractLsb' 0 8) ((x.rd f f.a l).extractLsb' 0 8) } } }) ∧
  (∀ (f : Fields) (s : State) (x : Ctx), Issues 0xF3 f s x → x.active f = [] →
    exec (.swrWrite f) s = .next s ∧ exec (.swrSet f) s = .next s ∧ exec (.swrClear f) s = .next s)

/-- The waiting words (09 R215): their active lanes are held from the end of the run; nothing else changes. -/
def Sys2Proof.Machine.SaysWaitsHoldLanes : Prop :=
  HoldsLanes 0x10 .waitf (fun f x l => .waitf ((x.rd f f.a l).extractLsb' 0 12)) ∧
  HoldsLanes 0x11 .sleep (fun f x l => .sleep (x.clock + (x.rd f f.a l).setWidth 64)) ∧
  HoldsLanes 0x12 .sleepuntil (fun f x l => .sleep (x.rd64 f f.a l)) ∧
  HoldsLanes 0x1E .waitmx (fun f x l => .waitmx (x.rd f f.a l)) ∧
  HoldsLanes 0x1F .yield (fun _ _ _ => .yield)

/-- CHKPROM and WAITCHK (09 R216), for a leader lane l whose word of the bitmap lies aligned in G: with every bit of the mask set they
change nothing; with one clear, the active lanes of CHKPROM leave the run, and WAITCHK attaches its operation and holds them. Where
the word waits for an earlier release or acquire of its wave (04 R94 to R97), the lanes of CHKPROM turn back to the prologue of their
block and WAITCHK holds its own: the model's choice, log 132. -/
def Sys2Proof.Machine.SaysChunkBitsCheckedAndAwaited : Prop :=
  ∀ (f : Fields) (s : State) (x : Ctx) (l : Nat), (x.active f).head? = some l → (x.rd f f.a l).toNat % 4 = 0 →
    (x.rd f f.a l).toNat + 4 ≤ bufSize s x.core x.wv.gang .g →
    (locRead s x.core x.wv.gang .g (x.rd f f.a l).toNat 4).2 = false →
    let word := BitVec.ofNat 32 (leNat (locReadFor s x.core x.wv.gang x.wv.uid .g (x.rd f f.a l).toNat 4).1)
    (Issues 0x13 f s x → x.waits f = false → word &&& x.rd f f.b l = x.rd f f.b l → exec (.chkprom f) s = .next s) ∧
    (Issues 0x13 f s x → x.waits f = false → word &&& x.rd f f.b l ≠ x.rd f f.b l →
      exec (.chkprom f) s = .next (issueTraps s x (x.active f) 14 0 (fun _ => (x.rd f f.a l).setWidth 64) (x.rd f f.b l))) ∧
    (Issues 0x13 f s x → x.waits f = true → ∃ t y, exec (.chkprom f) s = .next t ∧ t.issue? = some y ∧
      OnlyWave s t x.core x.quarter x.wid ∧ y.g = { x.g with gone := y.g.gone } ∧ y = { x with g := y.g, run := y.run } ∧
      ∀ k, k < 32 → y.g.gone.getLsbD k = (x.g.gone.getLsbD k || decide (k ∈ x.active f))) ∧
    (Issues 0x14 f s x → x.waits f = false → word &&& x.rd f f.b l = x.rd f f.b l → exec (.waitchk f) s = .next s) ∧
    (Issues 0x14 f s x → (x.waits f = true ∨ word &&& x.rd f f.b l ≠ x.rd f f.b l) → ∃ t y z, exec (.waitchk f) s = .next t ∧ t.issue? = some z ∧ OnlyWave s t x.core x.quarter x.wid ∧
      Attached x y { x.op 0x14 f with
        n := (x.rd f f.a l).toNat, m := (x.rd f f.b l).toNat, lanes := nameLanes (x.active f) .ready } ∧
      z.g = { x.g with holds := x.g.holds ++ (x.active f).map (fun k => (k, .waitchk (x.rd f f.a l) (x.rd f f.b l))) } ∧
      z.sl = y.sl)

/-- The waiting words, CHKPROM and WAITCHK (09 R215, R216). [model choice: log 132] -/
def Obligations.WaitsAndChunkBits : Prop := SaysWaitsHoldLanes ∧ SaysChunkBitsCheckedAndAwaited

/-- Barrier words (09 R218): BARARV attaches an arrival; BARWAIT, with an arrival pending or a phase not passed, attaches a wait that
holds its active lanes; BARSYNC does both. Nothing else changes. -/
def Obligations.BarrierWordsAttach : Prop :=
  let arrival := fun (o : Nat) (f : Fields) (x : Ctx) =>
    { x.op o f with n := f.m 0 4, lanes := nameLanes (x.active f) .ready }
  let wait := fun (f : Fields) (x : Ctx) (pend : Bool) =>
    { x.op 0x16 f with n := f.m 0 4, m := (x.wv.bars.getD (f.m 0 4) default).arph.toNat, released := !pend,
                       lanes := nameLanes (x.active f) .ready }
  Attaches 0x15 .bararv SomeActive (arrival 0x15) ∧
  (∀ (f : Fields) (s : State) (x : Ctx) (g : Gang), Issues 0x16 f s x → x.active f ≠ [] → s.gang? x.core x.wv.gang = some g →
    (pendingArrival x.wv (f.m 0 4) = true ∨ ((x.wv.bars.getD (f.m 0 4) default).arrived = true ∧
      phasePassed (g.bars.getD (f.m 0 4) default).ph (x.wv.bars.getD (f.m 0 4) default).arph = false)) →
    ∃ t y z, exec (.barwait f) s = .next t ∧ t.issue? = some z ∧ OnlyWave s t x.core x.quarter x.wid ∧
      Attached x y (wait f x (pendingArrival x.wv (f.m 0 4))) ∧ z.sl = y.sl ∧
      z.g = { x.g with holds := x.g.holds ++ (x.active f).map (fun k => (k, .barwait x.wv.nextOp)) }) ∧
  (∀ (f : Fields) (s : State) (x : Ctx) (g : Gang), Issues 0x16 f s x → x.active f ≠ [] → s.gang? x.core x.wv.gang = some g →
    pendingArrival x.wv (f.m 0 4) = false → ((x.wv.bars.getD (f.m 0 4) default).arrived = false ∨
      phasePassed (g.bars.getD (f.m 0 4) default).ph (x.wv.bars.getD (f.m 0 4) default).arph = true) →
    (acquireMay x.wv x.wv.nextOp (f.m 7 4) = true →
      exec (.barwait f) s = .next (if 4 ≤ f.m 7 4 then s.modCore x.core (fun k => { k with l1 := [] }) else s)) ∧
    (acquireMay x.wv x.wv.nextOp (f.m 7 4) = false →
      ∃ t y, exec (.barwait f) s = .next t ∧ t.issue? = some y ∧ OnlyWave s t x.core x.quarter x.wid ∧
        Attached x y { x.op 0x16 f with n := f.m 0 4, m := ((g.bars.getD (f.m 0 4) default).ph - 1).toNat, released := true,
                                        lanes := nameLanes (x.active f) .ready })) ∧
  (∀ (f : Fields) (s : State) (x : Ctx), Issues 0x17 f s x → x.active f ≠ [] →
    ∃ t y, exec (.barsync f) s = .next t ∧ t.issue? = some y ∧ OnlyWave s t x.core x.quarter x.wid ∧
      y.sl = { x.sl with wave := { x.wv with
        flags := bumpFlag (bumpFlag x.wv.flags (x.flag 0x17 f)) (x.flag 0x16 f), nextOp := x.wv.nextOp + 2,
        ops := x.wv.ops ++ [{ arrival 0x17 f x with id := x.wv.nextOp }, { wait f x true with id := x.wv.nextOp + 1 }] } } ∧
      y.g = { x.g with holds := x.g.holds ++ (x.active f).map (fun k => (k, .barwait (x.wv.nextOp + 1))) })

/-- BARINFO and GINFO (09 R218, R221): fields of the gang as they stand at issue, written for the end of the run. -/
def Sys2Proof.Machine.SaysGangFieldsRead : Prop :=
  WritesAtEnd 0x18 .barinfo (fun _ s x => s.gang? x.core x.wv.gang ≠ none) (fun f s x => writesOf (fun f x l =>
    let g := (s.gang? x.core x.wv.gang).getD default
    let k := g.bars.getD (f.m 0 4) default
    let w := x.wv.bars.getD (f.m 0 4) default
    wr32 f.dst l (match f.m 11 3 with
      | 0 => k.ph
      | 1 => BitVec.ofNat 32 k.e
      | 2 => BitVec.ofNat 32 k.a
      | 3 => BitVec.ofNat 32 g.m
      | 4 => BitVec.ofNat 32 w.owes.toNat
      | _ => BitVec.ofNat 32 w.holds.toNat)) f x) (fun _ _ => 0) ∧
  WritesAtEnd 0x1B .ginfo (fun _ s x => s.gang? x.core x.wv.gang ≠ none) (fun f s x => writesOf (fun f x l =>
    let g := (s.gang? x.core x.wv.gang).getD default
    match f.m 0 2 with
    | 0 => wr32 f.dst l ((BitVec.ofNat 64 g.m).setWidth 32)
    | 1 => wr32 f.dst l ((BitVec.ofNat 64 g.launch.wmax).setWidth 32)
    | 2 => wr32 f.dst l
        ((BitVec.ofNat 64 (placeable (s.core x.core) g.launch.vgran g.launch.aregs (g.launch.wmax - g.m))).setWidth 32)
    | _ => wr64 f.dst l ((Gang.all s g).foldl (fun m w => m ||| (1 <<< w)) 0)) f x) (fun _ _ => 0)

/-- GATTACH, GDETACH and PHASE (09 R214, R219, R220): an operation with the leader's operands, the end of every thread, an ordering
operation. Nothing else changes. -/
def Sys2Proof.Machine.SaysGangWordsAttach : Prop :=
  Attaches 0x19 .gattach SomeActive (fun f x =>
    let l := (x.active f).headD 0
    { x.op 0x19 f with n := x.na f f.a l, m := x.na f f.c l,
                       lanes := (nameLanes (x.active f) .ready).map (fun k => { k with src2 := x.rd64 f f.b l }) }) ∧
  (∀ (f : Fields) (s : State) (x : Ctx), Issues 0x1A f s x → x.active f ≠ [] →
    ∃ t y, exec (.gdetach f) s = .next t ∧ t.issue? = some y ∧ OnlyWave s t x.core x.quarter x.wid ∧
      y.g = { x.g with detach := true } ∧ y = { x with g := y.g, run := y.run }) ∧
  Attaches 0xCE .phase SomeActive (fun f x => { x.op 0xCE f with lanes := nameLanes ((x.active f).take 1) .ready })

/-- GINFO, BARINFO, GATTACH, GDETACH and PHASE (09 R214, R218 to R221). [model choice: log 50] -/
def Obligations.GangWords : Prop := SaysGangFieldsRead ∧ SaysGangWordsAttach

/-- t differs from s in one wave and in ring r of one gang of a core, at most: no register, no byte, no other ring. -/
structure Sys2Proof.Machine.OnlyRing (s t : State) (x : Ctx) (g : Gang) (r : Nat) (after : Ring) : Prop where
  rest : t = { s with cores := t.cores }
  cores : ∀ k, k ≠ x.core → t.core k = s.core k
  core : t.core x.core = { s.core x.core with slots := (t.core x.core).slots, gangs := (t.core x.core).gangs }
  slots : ∀ v, v ≠ x.wid → t.slot? x.core v = s.slot? x.core v
  gangs : ∀ k, k ≠ x.wv.gang → t.gang? x.core k = s.gang? x.core k
  gang : t.gang? x.core x.wv.gang = some { g with rings := listSet g.rings r after }

/-- Ring words (09 R222): BEGIN reserves the next stage number in order of issue; END makes a FILLING stage FULL, or marks a DRAINING
stage drained and empties what is drained in order; an END of a stage in another state traps RINGSTATE. [model choice: log 50] -/
def Obligations.RingWordsReserveAndEnd : Prop :=
  ∀ (f : Fields) (s : State) (x : Ctx) (l : Nat) (g : Gang) (r : Ring), (x.active f).head? = some l →
    s.gang? x.core x.wv.gang = some g → g.id = x.wv.gang → g.rings[f.m 0 3]? = some r →
    let a := x.rd f f.a l
    (Issues 0x1C f s x → ∃ t y, exec (.ringfillBegin f) s = .next t ∧ t.issue? = some y ∧
      OnlyRing s t x g (f.m 0 3) ({ r with fills := r.fills ++ [(⟨r.filln + BitVec.ofNat 32 r.fills.length, 0, x.wid, x.wv.uid⟩ : Place)] }).note ∧
      y.sl = { x.sl with wave := { x.wv with
        flags := bumpFlag x.wv.flags (x.flag 0x1C f), nextOp := x.wv.nextOp + 1,
        ops := x.wv.ops ++ [{ x.op 0x1C f with n := f.m 0 3, m := (r.filln + BitVec.ofNat 32 r.fills.length).toNat,
                                               lanes := nameLanes [l] .ready }] } }) ∧
    (Issues 0x1D f s x → ∃ t y, exec (.ringdrainBegin f) s = .next t ∧ t.issue? = some y ∧
      OnlyRing s t x g (f.m 0 3) ({ r with drains := r.drains ++ [(⟨r.consn + BitVec.ofNat 32 r.drains.length, 0, x.wid, x.wv.uid⟩ : Place)] }).note ∧
      y.sl = { x.sl with wave := { x.wv with
        flags := bumpFlag x.wv.flags (x.flag 0x1D f), nextOp := x.wv.nextOp + 1,
        ops := x.wv.ops ++ [{ x.op 0x1D f with n := f.m 0 3, m := (r.consn + BitVec.ofNat 32 r.drains.length).toNat,
                                               lanes := nameLanes [l] .ready }] } }) ∧
    (Issues 0x1C f s x → r.live a = true → r.stage a = .filling →
      ∃ t, exec (.ringfillEnd f) s = .next t ∧ OnlyRing s t x g (f.m 0 3) (r.setStage a .full).note ∧ t.slot? x.core x.wid = some x.sl) ∧
    (Issues 0x1D f s x → r.live a = true → r.stage a = .draining → r.drained.getD (r.slotOf a) false = false →
      ∃ t, exec (.ringdrainEnd f) s = .next t ∧ OnlyRing s t x g (f.m 0 3) (r.drainEnd a) ∧ t.slot? x.core x.wid = some x.sl) ∧
    (Issues 0x1C f s x → r.stage a ≠ .filling → exec (.ringfillEnd f) s =
      .next (issueTraps s x (x.active f) 16 0 (fun _ => a.setWidth 64) (BitVec.ofNat 32 (f.m 0 3)))) ∧
    (Issues 0x1D f s x → r.stage a ≠ .draining → exec (.ringdrainEnd f) s =
      .next (issueTraps s x (x.active f) 16 0 (fun _ => a.setWidth 64) (BitVec.ofNat 32 (f.m 0 3))))

/-- WRED and WSCAN (09 R213): the reduction of the active lanes' terms, or of those up to each lane, pending for the end of the run
with the bits they set then. Nothing else changes. [model choice: log 34, 16] -/
def Obligations.ReductionsOverActiveLanes : Prop :=
  let term := fun (f : Fields) (x : Ctx) (l : Nat) => if type64 (f.m 11 3) then x.rd64 f f.a l else (x.rd f f.a l).setWidth 64
  let red := fun (f : Fields) (x : Ctx) (ls : List Nat) => reduce (f.m 3 4) (f.m 11 3) (f.m 0 3) (ls.map (term f x))
  let wr := fun (f : Fields) (l : Nat) (v : W64) => if type64 (f.m 11 3) then wr64 f.dst l v else wr32 f.dst l (v.setWidth 32)
  let upTo := fun (f : Fields) (x : Ctx) (l : Nat) => (x.active f).filter (fun j => if f.m 14 1 = 1 then j < l else j ≤ l)
  (∀ (f : Fields) (s : State) (x : Ctx), Issues 0xCD f s x → ∃ t y z, exec (.wred f) s = .next t ∧ t.issue? = some z ∧
    OnlyWave s t x.core x.quarter x.wid ∧
    WroteEnd (flagOf x.g.hdr f.sf) x y ((x.destLanes f).flatMap (fun l => wr f l (red f x (x.active f)).1)) 0 ∧
    z.g = { y.g with exc := x.g.exc ||| ((x.destLanes f).map (fun _ => (red f x (x.active f)).2)).foldl (· ||| ·) 0 } ∧
    z.sl = y.sl) ∧
  (∀ (f : Fields) (s : State) (x : Ctx), Issues 0xCF f s x → ∃ t y z, exec (.wscan f) s = .next t ∧ t.issue? = some z ∧
    OnlyWave s t x.core x.quarter x.wid ∧
    WroteEnd (flagOf x.g.hdr f.sf) x y ((x.active f).flatMap (fun l => wr f l (red f x (upTo f x l)).1)) 0 ∧
    z.g = { y.g with exc := x.g.exc ||| ((x.active f).map (fun l => (red f x (upTo f x l)).2)).foldl (· ||| ·) 0 } ∧
    z.sl = y.sl)

/-! ## Rows 0xA to 0xC -/

/-- Loads of the shared space, JOBPOST's read of its card among them (09 R198 to R203, R223): each lane's access at its address, as an
operation that waits for its completion; no register and no byte changes at issue. -/
def Obligations.SharedLoadsIssue : Prop :=
  let base := fun (f : Fields) (x : Ctx) (l : Nat) => x.rd64 f f.a l + f.imm.signExtend 64
  let load := fun (op : Nat) (mk : Fields → Instr) =>
    AccessesShared op mk (fun _ => True) accR (fun f x => x.acting f) base (fun _ _ _ => 0) (fun _ _ _ => 0)
  load 0xA0 .ld ∧ load 0xA2 .lds ∧ load 0xA4 .ldnc ∧ load 0xAD .ldcvt ∧
  AccessesShared 0xAA .ldq (fun _ => True) accR (fun f x => x.acting f)
    (fun f x l => base f x l + BitVec.ofNat 64 (accSize 0xAA f * l)) (fun _ _ _ => 0) (fun _ _ _ => 0) ∧
  AccessesShared 0xDF .jobpost (fun _ => True) accR (fun f x => (x.active f).take 1) (fun f x l => x.rd64 f f.a l)
    (fun f x l => (x.rd f f.b l).setWidth 128) (fun _ _ _ => 0)

/-- Stores to the shared space (03 R67; 09 R198 to R203): each lane's bytes enter the core's write queue for the lane's address; no
register and no byte of memory changes at issue. -/
def Obligations.SharedStoresEnterWriteQueue : Prop :=
  let base := fun (f : Fields) (x : Ctx) (l : Nat) => x.rd64 f f.a l + f.imm.signExtend 64
  let data := fun (op : Nat) (f : Fields) (x : Ctx) (l : Nat) => dataOf x f f.b (accSize op f) l
  StoresShared 0xA1 .st base (data 0xA1) ∧ StoresShared 0xA3 .sts base (data 0xA3) ∧
  StoresShared 0xAB .stq (fun f x l => base f x l + BitVec.ofNat 64 (accSize 0xAB f * l)) (data 0xAB) ∧
  StoresShared 0xAF .stzero base (data 0xAF)

/-- The atomics on the shared space (09 R210): each lane's access with its operands; no register and no byte changes at issue. -/
def Obligations.SharedAtomicsIssue : Prop :=
  let at_ := fun (op : Nat) (mk : Fields → Instr) =>
    AccessesShared op mk (fun f => f.m 14 1 = 0) accRW (fun f x => x.acting f) (fun f x l => x.rd64 f f.a l + f.imm.signExtend 64)
      (fun f x l => (atomSrc x f f.b l).setWidth 128) (fun f x l => atomSrc x f f.c l)
  at_ 0xC0 .atadd ∧ at_ 0xC1 .atmin ∧ at_ 0xC2 .atmax ∧ at_ 0xC3 .atand ∧ at_ 0xC4 .ator ∧ at_ 0xC5 .atxor ∧ at_ 0xC6 .atxchg ∧
  at_ 0xC7 .atcas ∧ at_ 0xC8 .atinc ∧ at_ 0xC9 .atdec ∧ at_ 0xCA .atfadd ∧ at_ 0xCB .atld ∧ at_ 0xCC .atst

/-- The atomics under .G (09 R210 to R212) of one acting lane inside G: the location holds the new value, where there is one, every
other byte of G is as it was, and the old value, and ATCAS's success, pend for the completion. [model choice: log 38] -/
def Obligations.LocalAtomicsPerform : Prop :=
  ∀ (op : Nat) (mk : Fields → Instr) (f : Fields) (s : State) (x : Ctx) (l : Nat),
    (op, mk) ∈ ([(0xC0, .atadd), (0xC1, .atmin), (0xC2, .atmax), (0xC3, .atand), (0xC4, .ator), (0xC5, .atxor), (0xC6, .atxchg),
      (0xC7, .atcas), (0xC8, .atinc), (0xC9, .atdec), (0xCA, .atfadd), (0xCB, .atld), (0xCC, .atst)] : List (Nat × (Fields → Instr))) →
    Issues op f s x → f.m 14 1 = 1 → ordOf f < 4 → x.acting f = [l] →
    InBuffer s x .g (accSize op f) (accSize op f) [l] (locOff x f) →
    let o := (locOff x f l).toNat
    let n := accSize op f
    let old := leNat ((List.range n).map (fun k => locByte s x.core x.wv.gang .g (o + k)))
    let r := atomOn op (f.m 11 3) (f.m 0 3) old (atomSrc x f f.b l).toNat (atomSrc x f f.c l).toNat false
    ∃ t y, exec (mk f) s = .next t ∧ t.issue? = some y ∧ OnlyBuffer { s with free := s.free + 1 } t x.core x.wv.gang x.wid .g ∧
      Attached x y { x.op op f with lanes := [locLane l (locOff x f l) ((atomSrc x f f.b l).setWidth 128) (atomSrc x f f.c l)],
                                    writes := atomWrites op f l old r.ok, exc := r.exc } ∧
      ∀ k, locByte t x.core x.wv.gang .g k = match r.new with
        | some v => if o ≤ k ∧ k < o + n then BitVec.ofNat 8 (v / 2 ^ (8 * (k - o))) else locByte s x.core x.wv.gang .g k
        | none => locByte s x.core x.wv.gang .g k

/-- LDBC and LDGBC (09 R204): a lane whose b plus its size lies beyond c reads zeros and makes no access, the others read at a + b. [model choice: log 38] -/
def Obligations.BoundsCheckedLoads : Prop :=
  let out := fun (op : Nat) (f : Fields) (x : Ctx) =>
    (x.acting f).filter (fun l => decide (x.na f f.c l < x.na f f.b l + accSize op f))
  let inn := fun (op : Nat) (f : Fields) (x : Ctx) =>
    (x.acting f).filter (fun l => decide (x.na f f.b l + accSize op f ≤ x.na f f.c l))
  let zeros := fun (op : Nat) (f : Fields) (x : Ctx) =>
    (out op f x).flatMap (fun l => loadWrites f (accSize op f) false l (List.replicate (accSize op f) 0))
  let known := fun (op : Nat) (f : Fields) (x : Ctx) => (out op f x).map (fun l =>
    ({ lane := l, va := 0, src := 0, src2 := 0, tgt := .none, st := .known } : LaneOp))
  (∀ (f : Fields) (s : State) (x : Ctx) (e : TlbEnt) (r : Nat), Issues 0xAC f s x → x.acting f ≠ [] →
    let va := fun l => x.rd64 f f.a l + (x.rd f f.b l).setWidth 64
    (inn 0xAC f x = [] ∨ Straight s x (accSize 0xAC f) (accR x.g.level) e r (inn 0xAC f x) va) → x.wv.ops = [] →
    ∃ t y, exec (.ldbc f) s = .next t ∧ t.issue? = some y ∧ OnlyWave s t x.core x.quarter x.wid ∧
      Attached x y { x.op 0xAC f with
        lanes := known 0xAC f x ++ (sharedOp 0xAC f x e (inn 0xAC f x) va (fun _ => 0) (fun _ => 0)).lanes,
        writes := zeros 0xAC f x }) ∧
  (∀ (f : Fields) (s : State) (x : Ctx), Issues 0xBF f s x → x.acting f ≠ [] → x.wv.ops = [] →
    let off := fun l => ((x.na f f.a l : Nat) : Int) + x.na f f.b l
    (inn 0xBF f x = [] ∨ InBuffer s x .g (accSize 0xBF f) (accSize 0xBF f) (inn 0xBF f x) off) →
    ∃ t y, exec (.ldgbc f) s = .next t ∧ t.issue? = some y ∧ OnlyWave s t x.core x.quarter x.wid ∧
      Attached x y { x.op 0xBF f with
        lanes := known 0xBF f x ++ (inn 0xBF f x).map (fun l => locLane l (off l) 0 0),
        writes := zeros 0xBF f x ++ (inn 0xBF f x).flatMap (fun l => loadWrites f (accSize 0xBF f) (f.m 3 1 == 1) l
          ((List.range (accSize 0xBF f)).map (fun k => locByte s x.core x.wv.gang .g ((off l).toNat + k)))) })

/-- LDWIN and STWIN (09 R205): each lane's window address, from a and b; no register and no byte changes at issue. -/
def Obligations.WindowWordsIssue : Prop :=
  let lane := fun (f : Fields) (x : Ctx) (src : Nat → W128) (l : Nat) =>
    let va : W64 := BitVec.ofNat 64 (0xFF0000 * 2 ^ 40 + x.na f f.a l / 64 * 2 ^ 31 + x.na f f.a l % 64 * 2 ^ 25 + x.na f f.b l)
    ({ lane := l, va := va, src := src l, src2 := 0, tgt := .window va.toNat, st := .ready } : LaneOp)
  let fits := fun (op : Nat) (f : Fields) (x : Ctx) => ∀ l, l ∈ x.acting f →
    x.na f f.a l < 32768 ∧ x.na f f.b l < 2 ^ 25 ∧ x.na f f.b l % accSize op f = 0
  Attaches 0xA5 .ldwin (fun f _ x => x.wv.ops = [] ∧ x.acting f ≠ [] ∧ fits 0xA5 f x)
    (fun f x => { x.op 0xA5 f with lanes := (x.acting f).map (lane f x (fun _ => 0)) }) ∧
  Attaches 0xA6 .stwin (fun f _ x => x.wv.ops = [] ∧ x.acting f ≠ [] ∧ fits 0xA6 f x)
    (fun f x => { x.op 0xA6 f with lanes := (x.acting f).map (lane f x (fun l => dataOf x f f.c (accSize 0xA6 f) l)) })

/-- The cache words (09 R204, R206): PREF changes no register and no byte of memory; CINV and IINV with b = 0 empty the core's L1 and
L0 and attach a completed operation; LDPRB of addresses that are not canonical answers false. [model choice: log 40] -/
def Obligations.CacheWords : Prop :=
  let done := fun (op : Nat) (f : Fields) (x : Ctx) =>
    { x.op op f with lanes := [{ lane := (x.active f).headD 0, va := 0, src := 0, src2 := 0, tgt := .none, st := .known }] }
  (∀ (f : Fields) (s : State) (x : Ctx), Issues 0xA7 f s x → f.m 4 2 = 2 → exec (.pref f) s = .next s) ∧
  (∀ (f : Fields) (s : State) (x : Ctx), Issues 0xA7 f s x → f.m 4 2 ≠ 2 → ∃ t, exec (.pref f) s = .next t ∧ t.mem = s.mem ∧
    t.funcs = s.funcs ∧ t.owners = s.owners ∧ (∀ c w, t.slot? c w = s.slot? c w) ∧ (∀ c g, t.gang? c g = s.gang? c g)) ∧
  (∀ (f : Fields) (s : State) (x : Ctx), Issues 0xA8 f s x → x.active f ≠ [] → x.rd f f.b ((x.active f).headD 0) = 0 →
    ∃ t y, exec (.cinv f) s = .next t ∧ t.issue? = some y ∧ (t.core x.core).l1 = [] ∧ Attached x y (done 0xA8 f x) ∧
      OnlyWave (s.modCore x.core (fun k => { k with l1 := [] })) t x.core x.quarter x.wid) ∧
  (∀ (f : Fields) (s : State) (x : Ctx), Issues 0xA9 f s x → x.active f ≠ [] → x.rd f f.b ((x.active f).headD 0) = 0 →
    ∃ t y, exec (.iinv f) s = .next t ∧ t.issue? = some y ∧ (t.core x.core).l0 = [] ∧ Attached x y (done 0xA9 f x) ∧
      OnlyWave (s.modCore x.core (fun k => { k with l0 := [] })) t x.core x.quarter x.wid) ∧
  Attaches 0xAE .ldprb (fun f _ x => x.active f ≠ [] ∧
      ∀ l, l ∈ x.active f → canonical (x.rd64 f f.a l + f.imm.signExtend 64) = false)
    (fun f x => { x.op 0xAE f with
      lanes := (x.active f).map (fun l => { lane := l, va := 0, src := 0, src2 := 0, tgt := .none, st := .known }),
      writes := (x.active f).flatMap (fun l => wrBool f.dst l false) }) ∧
  -- of one lane at a canonical address: whether a read of a byte there could go on at once, with no page asked for
  (∀ (f : Fields) (s : State) (x : Ctx) (l : Nat), Issues 0xAE f s x → x.active f = [l] →
    let va := x.rd64 f f.a l + f.imm.signExtend 64
    let answers := fun (u : State) (b : Bool) => exec (.ldprb f) s = .next (addOp x { x.op 0xAE f with
      lanes := [{ lane := l, va := 0, src := 0, src2 := 0, tgt := .none, st := .known }], writes := wrBool f.dst l b } u)
    canonical va = true → inWindow va = false →
      (inHeap va = true → answers s (heapReadable s x.wv.vf va)) ∧
      (inHeap va = false → ∀ u r,
        translate s (some x.core) (.fn x.wv.vf (x.wv.row x.g.level)) x.wv.vf va.toNat (accR x.g.level) false = (u, r) →
        answers u (match r with | .ok e => !e.elide | _ => false)))

/-- Loads of the local buffers (09 R207): the bytes each lane reads pend for its completion; nothing else changes. -/
def Sys2Proof.Machine.SaysLocalLoadsRead : Prop :=
  LoadsLocal 0xB0 .ldg .g false ∧ LoadsLocal 0xB2 .ldw .w false ∧ LoadsLocal 0xB3 .ldx .x false ∧ LoadsLocal 0xB9 .ldgq .g true ∧
  LoadsLocal 0xBB .ldxq .x true ∧ LoadsLocal 0xBD .ldwq .w true

/-- Stores to the local buffers (09 R207): every byte a lane stores to holds its data, the highest lane's where lanes meet; every
other byte is as it was. -/
def Sys2Proof.Machine.SaysLocalStoresWrite : Prop :=
  let data := fun (op : Nat) (f : Fields) (x : Ctx) (l : Nat) => dataOf x f f.b (accSize op f) l
  let q := fun (op : Nat) (f : Fields) (x : Ctx) (l : Nat) => locOff x f l + ((accSize op f * l : Nat) : Int)
  let store := fun (op : Nat) (mk : Fields → Instr) (b : Buf) (off : Fields → Ctx → Nat → Int) =>
    StoresLocal op mk b (fun n => n) off (fun f _ _ => accSize op f) (data op) (fun _ _ _ => 0)
      (fun f x l k => (data op f x l).extractLsb' (8 * k) 8)
  store 0xB1 .stg .g (fun f x l => locOff x f l) ∧ store 0xB4 .stx .x (fun f x l => locOff x f l) ∧
  store 0xBA .stgq .g (q 0xBA) ∧ store 0xBC .stxq .x (q 0xBC) ∧
  StoresLocal 0xBE .gfill .g (fun _ => 4) (fun f x l => locOff x f l) (fun f x l => x.na f f.c l)
    (fun f x l => (x.rd f f.b l).setWidth 128) (fun f x l => (x.rd f f.c l).setWidth 64)
    (fun f x l k => (x.rd f f.b l).extractLsb' (8 * (k % 4)) 8)

/-- Loads and stores of the local buffers (09 R207 to R209). [model choice: log 38] -/
def Obligations.LocalLoadsAndStores : Prop := SaysLocalLoadsRead ∧ SaysLocalStoresWrite

/-- The Z words of one acting lane (09 R208, R209): a convert-load reads its elements' words of Z and converts each; a convert-store
writes each, or adds to each in FP32, and leaves every other word of Z as it was. [model choice: log 38, 34, 138] -/
def Obligations.AccumulatorWordsConvert : Prop :=
  ∀ (f : Fields) (s : State) (x : Ctx) (l : Nat), x.acting f = [l] → x.wv.ops = [] → ∀ (op : Nat),
    (zFirst op x f l).emod 4 = 0 →
    ∀ is : List Nat, (zOffs op f (zFirst op x f l)).map (zIndex x.wv.zmap) = is.map some → is.Nodup →
    (∀ i, i ∈ is → i ∉ (s.core x.core).zpois) →
    let t := zFmt op f
    let lane := [locLane l (zFirst op x f l) ((x.rd f f.b l).setWidth 128) 0]
    let z := fun i => Tab.get 0 (s.core x.core).z i
    let el := fun k => elemOf t.width k (x.na f f.b l)
    (op = 0xB5 ∨ op = 0xB7 → Issues op f s x →
      ∃ u y, exec (if op = 0xB5 then .cvlz f else .cvlzT f) s = .next u ∧ u.issue? = some y ∧
        OnlyWave s u x.core x.quarter x.wid ∧
        let cs := is.map (fun i => convCode t .fp32 (f.m 0 3) (f.m 13 1 == 1) 0 (z i).toNat)
        Attached x y { x.op op f with
          lanes := lane, writes := wr32 f.dst l (BitVec.ofNat 32
            ((cs.map (fun c => c.1)).zipIdx.foldl (fun n c => n + c.1 * 2 ^ (t.width * c.2)) 0)),
          exc := (cs.map (fun c => c.2.1)).foldl (· ||| ·) 0 }) ∧
    (op = 0xB6 ∨ op = 0xB8 → Issues op f s x →
      ∃ u y, exec (if op = 0xB6 then .cvsz f else .cvszAdd f) s = .next u ∧ u.issue? = some y ∧
        OnlyBuffer s u x.core x.wv.gang x.wid .z ∧
        let rs := is.zipIdx.map (fun p => (p.1, zStoreVal op f t (z p.1) (el p.2)))
        Attached x y { x.op op f with lanes := lane, exc := (rs.map (fun r => r.2.2)).foldl (· ||| ·) 0 } ∧
        (∀ r, r ∈ rs → Tab.get 0 (u.core x.core).z r.1 = r.2.1) ∧
        ∀ i, i ∉ is → Tab.get 0 (u.core x.core).z i = z i)

/-! ## Rows 0xD to 0xF -/

/-- An earlier write of the issuing wave has not been performed: a command issued now waits in its queue (04 R94, R106). -/
def Sys2Proof.Machine.BehindWrite (x : Ctx) : Prop :=
  ∃ o, o ∈ x.wv.ops ∧ o.id < x.wv.nextOp ∧ isWrite o.opc = true ∧ ∃ l, l ∈ o.lanes ∧ l.st = .ready

/-- t differs from s in one core's engine queue and numbers, its issuing run, one wave, one gang and the count of free values, at
most: no byte, no other wave, no other core. -/
structure Sys2Proof.Machine.OnlyQueue (s t : State) (x : Ctx) : Prop where
  rest : t = { s with cores := t.cores, free := t.free }
  cores : ∀ k, k ≠ x.core → t.core k = s.core k
  core : t.core x.core = { s.core x.core with
    slots := (t.core x.core).slots, quarters := (t.core x.core).quarters, gangs := (t.core x.core).gangs,
    ladle := (t.core x.core).ladle, mx := (t.core x.core).mx, col := (t.core x.core).col,
    nextCmd := (t.core x.core).nextCmd, nextOrd := (t.core x.core).nextOrd }
  slots : ∀ v, v ≠ x.wid → t.slot? x.core v = s.slot? x.core v
  gangs : ∀ k, k ≠ x.wv.gang → t.gang? x.core k = s.gang? x.core k

/-- A Ladle-queue word with leader l, behind a write and before an empty queue: one command in the core's Ladle queue with the operands of its issue, its
ordinal from LSTAT's count, which rises; the promise pends for the end of the run (10 R225, R226, R231). -/
def Sys2Proof.Machine.QueuesLadle (op : Nat) (mk : Fields → Instr) (ta tb : Fields → Ctx → W256) (c : Fields → Ctx → Nat → W64) : Prop :=
  ∀ (f : Fields) (s : State) (x : Ctx) (l : Nat), Issues op f s x → (x.active f).head? = some l → ladleTrap s x op f (c f x l) = none →
    BehindWrite x → (s.core x.core).ladle = [] → ∃ t y q, exec (mk f) s = .next t ∧ t.issue? = some y ∧ OnlyQueue s t x ∧
      (t.core x.core).ladle = [q] ∧ q.opc = op ∧ q.f = f ∧ q.ta = ta f x ∧ q.tb = tb f x ∧ q.c = c f x l ∧
      q.id = (s.core x.core).nextCmd ∧ q.ord = (s.core x.core).nextOrd ∧ q.by_ = issuerOf x op f l ∧
      q.ordinal = x.wv.lstat.issued ∧ q.accepted = false ∧ q.written = 0 ∧
      (t.core x.core).nextCmd = (s.core x.core).nextCmd + 1 ∧ (t.core x.core).nextOrd = (s.core x.core).nextOrd + 1 ∧
      (t.core x.core).gangs = (s.core x.core).gangs ∧ (t.core x.core).mx = (s.core x.core).mx ∧ (t.core x.core).col = (s.core x.core).col ∧
      y.wv.regs = x.wv.regs ∧ y.wv.lstat = { x.wv.lstat with issued := x.wv.lstat.issued + 1 } ∧
      y.wv.flags = bumpFlag x.wv.flags (x.flag op f) ∧ y.run.resL = x.run.resL - 1 ∧
      y.g.writes = dropElems (destElems f.dst l 2) x.g.writes ++
        wr64 f.dst l (promiseOf x.clock s.free) ∧
      (x.clock.toNat + 8 < 2 ^ 64 → x.clock + 8 ≤ promiseOf x.clock s.free)

/-- The Ladle words and DKRUN (10 R225, R226, R231 to R240): one command each. -/
def Obligations.LadleWordsQueueCommands : Prop :=
  let a := fun (f : Fields) (x : Ctx) => x.rdT f.a
  let b := fun (f : Fields) (x : Ctx) => x.rdT f.b
  let c32 := fun (f : Fields) (x : Ctx) (l : Nat) => (x.rd f f.c l).setWidth 64
  let c64 := fun (f : Fields) (x : Ctx) (l : Nat) => x.rd64 f f.c l
  QueuesLadle 0xD0 .lcopy a b c64 ∧ QueuesLadle 0xD1 .lcopyo a b (fun _ _ _ => 0) ∧ QueuesLadle 0xD2 .lgath a b c32 ∧
  QueuesLadle 0xD3 .lscred a b c32 ∧ QueuesLadle 0xD4 .lrcopyPush a b c32 ∧ QueuesLadle 0xD4 .lrcopyPull a b c32 ∧
  QueuesLadle 0xD5 .lcoll a b c64 ∧
  QueuesLadle 0xD6 .lfill a (fun _ _ => 0) (fun f x l => (x.rd f f.b l).setWidth 64) ∧
  QueuesLadle 0xDE .dkrun (fun _ _ => 0) (fun _ _ => 0) (fun f x l => x.rd64 f f.a l)

/-- LSTAT, MXSTAT and MXTEAM (10 R236, R247, R250): a field of the wave's status or the gang's team, pending for the end of the run;
their clearing form clears the status at issue. [model choice: log 16] -/
def Obligations.EngineStatusRead : Prop :=
  (∀ (f : Fields) (s : State) (x : Ctx), Issues 0xD7 f s x → x.active f ≠ [] → ∃ t y z, exec (.lstat f) s = .next t ∧
    t.issue? = some z ∧ OnlyWave s t x.core x.quarter x.wid ∧
    WroteEnd (flagOf x.g.hdr f.sf) x y (writesOf (fun f x l => wr32 f.dst l (x.wv.lstat.field (f.m 0 3))) f x) 0 ∧
    z = { y with sl := { y.sl with wave := { y.wv with lstat := if f.m 3 1 = 1 then x.wv.lstat.clear else x.wv.lstat } } }) ∧
  (∀ (f : Fields) (s : State) (x : Ctx), Issues 0xDD f s x → x.active f ≠ [] → ∃ t y z, exec (.mxstat f) s = .next t ∧
    t.issue? = some z ∧ OnlyWave s t x.core x.quarter x.wid ∧
    WroteEnd (flagOf x.g.hdr f.sf) x y (writesOf (fun f x l => wr32 f.dst l (match f.m 0 3 with
      | 0 => BitVec.ofNat 32 ((s.core x.core).mx.filter (fun q => q.by_.uid == x.wv.uid)).length
      | 1 => x.wv.mstat.exc.setWidth 32
      | 2 => (x.wv.mstat.errSeq <<< 8) ||| x.wv.mstat.err.setWidth 32
      | _ => x.wv.mstat.stamps)) f x) 0 ∧
    z.g = y.g ∧ z.wv.mstat = (if f.m 3 1 = 1 then { x.wv.mstat with exc := 0, err := 0, errSeq := 0 } else x.wv.mstat)) ∧
  WritesAtEnd 0xDB .mxteam SomeActive (fun f s x => writesOf (fun f x l =>
    wr32 f.dst l (match (s.gang? x.core x.wv.gang).bind Gang.team, f.m 0 2 with
      | some (t, _, _), 0 => BitVec.ofNat 32 t
      | some (_, r, _), 1 => BitVec.ofNat 32 r
      | some (_, _, n), _ => BitVec.ofNat 32 n
      | none, 0 => 0xFFFFFFFF
      | none, 1 => 0
      | none, _ => 1)) f x) (fun _ _ => 0)

/-- MXLOOP, MXSTEP and MXZERO (10 R243, R244), behind a write and before an empty queue: one command in the core's MXE queue with the
operands of its issue; the wave's count of MXE commands rises, and for a team command the gang's. -/
def Sys2Proof.Machine.SaysMatrixWordsQueueCommands : Prop :=
  ∀ (f : Fields) (s : State) (x : Ctx) (l : Nat) (op : Nat) (mk : Fields → Instr),
    (op, mk) ∈ ([(0xD8, .mxloop), (0xD9, .mxstep), (0xDA, .mxzero)] : List (Nat × (Fields → Instr))) →
    Issues op f s x → (x.active f).head? = some l → BehindWrite x → (s.core x.core).mx = [] →
    let param := if op = 0xD9 then x.rd f f.c l else if op = 0xD8 then f.imm else 0
    ∃ t y q, exec (mk f) s = .next t ∧ t.issue? = some y ∧ OnlyQueue s t x ∧ (t.core x.core).mx = [q] ∧
      q.opc = op ∧ q.f = f ∧ q.ta = x.rdT f.a ∧ q.tb = x.rdT f.b ∧ q.param = param ∧
      q.acc = (if op = 0xD9 then bits param.toNat 29 25 else x.na f f.c l) ∧ q.by_ = issuerOf x op f l ∧
      q.id = (s.core x.core).nextCmd ∧ q.ord = (s.core x.core).nextOrd ∧ q.ordinal = x.wv.mstat.issued ∧
      q.spilled = false ∧ q.accepted = false ∧ q.started = false ∧
      (t.core x.core).ladle = (s.core x.core).ladle ∧ (t.core x.core).col = (s.core x.core).col ∧
      y.wv.regs = x.wv.regs ∧ y.wv.mstat = { x.wv.mstat with issued := x.wv.mstat.issued + 1 } ∧
      y.wv.flags = bumpFlag x.wv.flags (x.flag op f) ∧ y.run.resM = x.run.resM - 1 ∧
      t.gang? x.core x.wv.gang = (s.gang? x.core x.wv.gang).map (fun g =>
        if op ≠ 0xDA ∧ param.getLsbD 24 = true then { g with teamN := g.teamN + 1 } else g)

/-- MXQSET (10 R243): status 2 for a base or count out of form, else 1 for a spill ring while spilled commands of the gang are left,
else 0 and the ring set; the status is written for the end of the run. -/
def Sys2Proof.Machine.SaysMatrixRingsSet : Prop :=
  ∀ (f : Fields) (s : State) (x : Ctx) (l : Nat) (g : Gang) (stamp : Bool), Issues 0xDC f s x → (x.active f).head? = some l →
    s.gang? x.core x.wv.gang = some g →
    let base := x.rd64 f f.a l
    let n := x.na f f.b l
    let held := (s.core x.core).mx.any (fun q => q.spilled && q.by_.gang == x.wv.gang)
    let st : W32 := if base.toNat % 64 ≠ 0 ∨ n ∉ [0, 64, 128, 256, 512, 1024, 2048, 4096, 8192, 16384, 32768, 65536] then 2 else if !stamp && held then 1 else 0
    ∃ t y, exec (if stamp then .mxqsetStmr f else .mxqsetCmdr f) s = .next t ∧ t.issue? = some y ∧ OnlyQueue s t x ∧
      t.gang? x.core x.wv.gang = some (if st ≠ 0 then g else if stamp then { g with stBase := base, stN := n }
        else { g with spBase := base, spN := n }) ∧
      y.wv.regs = x.wv.regs ∧ y.g.writes = dropElems ((x.destLanes f).flatMap (fun l => destElems f.dst l 1)) x.g.writes ++
        writesOf (fun f _ l => wr32 f.dst l st) f x

/-- The MXE words (10 R241, R243 to R245). -/
def Obligations.MatrixWords : Prop := SaysMatrixWordsQueueCommands ∧ SaysMatrixRingsSet

/-- TEX and TEXG (12 R293, R294) with a legal descriptor whose texels all lie in one region the TLB holds: one texel read for each tap
of each lane, and the entry of each lane that reads none; no register changes at issue. -/
def Sys2Proof.Machine.SaysTextureWordsIssueTexelReads : Prop :=
  ∀ (f : Fields) (s : State) (x : Ctx) (e : TlbEnt) (r : Nat) (op : Nat) (mk : Fields → Instr),
    (op, mk) ∈ ([(0xE0, .tex), (0xE1, .texg)] : List (Nat × (Fields → Instr))) → Issues op f s x →
    texLegal (x.rdT f.a).toNat = true → x.wv.ops = [] →
    let t := Tex.of (x.rdT f.a).toNat
    let k := Config.unstated 0xE1 (x.rdT f.a).toNat s.free
    let ws := (texWants op t k x f).1
    let ks := (texWants op t k x f).2
    (ws ≠ [] ∨ ks ≠ []) →
    (∀ w, w ∈ ws → w.va.toNat / 4096 = r ∧ Reaches { s with free := s.free + 1 } x (texBytes t.fmt) (accR x.g.level) w.va e) →
    ∃ u y, exec (mk f) s = .next u ∧ u.issue? = some y ∧ OnlyWave { s with free := s.free + 1 } u x.core x.quarter x.wid ∧
      Attached x y { x.op op f with
        lanes := ks ++ ws.map (fun w => { lane := w.lane, va := w.va, src := w.src, src2 := w.src2,
                                          tgt := targetOf x.wv.vf x.g.level (e.apply w.va.toNat), st := .ready }),
        m := k, bytes := texKeep (x.rdT f.a) (x.rd128 f.b) }

/-- TEXQ (12 R293): with a legal descriptor the queried value of each lane pends for its completion; with another, TEX_DESCRIPTOR in
every active lane. -/
def Sys2Proof.Machine.SaysTextureQueryAnswers : Prop :=
  Attaches 0xE2 .texq (fun f _ x => texLegal (x.rdT f.a).toNat = true ∧ x.acting f ≠ [] ∧ isOnce f.dst = false)
    (fun f x => { x.op 0xE2 f with
      lanes := (x.acting f).map (fun l => { lane := l, va := 0, src := 0, src2 := 0, tgt := .none, st := .known }),
      writes := (x.acting f).flatMap (fun l =>
        wr32 f.dst l (BitVec.ofNat 32 ((Tex.of (x.rdT f.a).toNat).query (f.m 0 2) (x.na f f.b l)))) }) ∧
  Attaches 0xE2 .texq (fun f _ x => texLegal (x.rdT f.a).toNat = true ∧ x.active f ≠ [] ∧ isOnce f.dst = true)
    (fun f x => { x.op 0xE2 f with
      lanes := ((x.active f).take 1).map (fun l => { lane := l, va := 0, src := 0, src2 := 0, tgt := .none, st := .known }),
      writes := ((x.active f).take 1).flatMap (fun l =>
        wr32 f.dst l (BitVec.ofNat 32 ((Tex.of (x.rdT f.a).toNat).query (f.m 0 2) (x.na f f.b l)))) }) ∧
  (∀ (f : Fields) (s : State) (x : Ctx), Issues 0xE2 f s x → texLegal (x.rdT f.a).toNat = false →
    exec (.texq f) s = .next (issueTraps s x (x.active f) 19 0 (fun _ => 0) 0))

/-- The texture words (12 R291 to R293). [model choice: log 3] -/
def Obligations.TexturesReadAndQueried : Prop := SaysTextureWordsIssueTexelReads ∧ SaysTextureQueryAnswers

/-- STK, STKFILL and STKDROP (12 R282, R285): one lane entry per acting lane with its key; STK raises its answer flag and its wake
flag; STKFILL takes the 512 bytes of G that each lane names. [model choice: log 91] -/
def Obligations.StockpotWordsIssue : Prop :=
  Attaches 0xE3 .stk (fun f _ x => x.acting f ≠ []) (fun f x => { x.op 0xE3 f with
    wake := flagOf x.g.hdr (!f.sf),
    lanes := (x.acting f).map (fun l => { lane := l, va := x.rd64 f f.a l, src := 0, src2 := 0, tgt := .none, st := .ready }) }) ∧
  Attaches 0xE5 .stkdrop (fun f _ x => x.acting f ≠ []) (fun f x => { x.op 0xE5 f with
    lanes := (x.acting f).map (fun l =>
      { lane := l, va := x.rd64 f f.a l, src := (x.rd f f.b l).setWidth 128, src2 := 0, tgt := .none, st := .waiting }) }) ∧
  (∀ (f : Fields) (s : State) (x : Ctx), Issues 0xE4 f s x → x.acting f ≠ [] → x.wv.ops = [] →
    (∀ l, l ∈ x.acting f → x.na f f.c l % 64 = 0 ∧ x.na f f.c l + 512 ≤ bufSize s x.core x.wv.gang .g) →
    ∃ t y, exec (.stkfill f) s = .next t ∧ t.issue? = some y ∧ OnlyWave s t x.core x.quarter x.wid ∧
      Attached x y { x.op 0xE4 f with
        lanes := (x.acting f).zipIdx.map (fun p =>
          { lane := p.1, va := x.rd64 f f.a p.1, src := BitVec.ofNat 128 (x.na f f.b p.1 + 2 ^ 32 * x.na f f.c p.1),
            src2 := BitVec.ofNat 64 (513 * p.2), tgt := .none, st := .waiting }),
        bytes := (x.acting f).flatMap (fun l => fillRead s x.core x.wv.gang x.wv.uid (x.na f f.c l)) })

/-- The words that act once and complete later, with their leader's operands (12 R287, R288; 14 R332 to R336): STKINV, STKAGE, CTXSV,
CTXLD, TLBINV, TLBINVA, OWNSET, OWNGET, HALTQ and SCRUB attach one operation; nothing else changes at issue. -/
def Sys2Proof.Machine.SaysOnceWordsAttach : Prop :=
  let once := fun (op : Nat) (mk : Fields → Instr) (a b : Fields → Ctx → Nat → W64) =>
    Attaches op mk SomeActive (fun f x => { x.op op f with
      lanes := [{ lane := (x.active f).headD 0, va := a f x ((x.active f).headD 0), src := (b f x ((x.active f).headD 0)).setWidth 128,
                  src2 := 0, tgt := .none, st := .known }] })
  let a64 := fun (f : Fields) (x : Ctx) (l : Nat) => x.rd64 f f.a l
  let a32 := fun (f : Fields) (x : Ctx) (l : Nat) => (x.rd f f.a l).setWidth 64
  let b32 := fun (f : Fields) (x : Ctx) (l : Nat) => (x.rd f f.b l).setWidth 64
  let none_ := fun (_ : Fields) (_ : Ctx) (_ : Nat) => (0 : W64)
  once 0xE6 .stkinv a32 b32 ∧ once 0xE7 .stkage a32 none_ ∧ once 0xF7 .ctxsv a64 b32 ∧ once 0xF8 .ctxld a64 none_ ∧
  once 0xF9 .tlbinv a64 b32 ∧ once 0xFA .tlbinva a64 b32 ∧ once 0xFB .ownset a64 b32 ∧ once 0xFC .ownget a64 none_ ∧
  once 0xFE .haltqPause a32 none_ ∧ once 0xFE .haltqResume a32 none_ ∧ once 0xFE .haltqWithdraw a32 none_ ∧
  once 0xFF .scrub a64 b32

/-- BEAMQ, RAYQ, BEAMCONT, SQPOP and SQPEEK (11 R270 to R273): a query takes the next QID, a place in the intake queue and the read of
its record; a continuation of a claimed record joins the Colander; SQPOP claims the first ready record; SQPEEK reads a count; where these
two wait for an earlier release or acquire of their wave, an operation of theirs is pending (log 132: the model's choice). [model choice: log 132, 16] -/
def Obligations.ColanderWordsIssue : Prop :=
  (∀ (f : Fields) (s : State) (x : Ctx) (e : TlbEnt) (r l : Nat) (op : Nat) (mk : Fields → Instr),
    (op, mk) ∈ ([(0xE8, .beamq), (0xE9, .rayq)] : List (Nat × (Fields → Instr))) → Issues op f s x → (x.active f).head? = some l →
    Straight s x 64 (accR x.g.level) e r [l] (fun l => x.rd64 f f.a l) →
    ∃ t y q, exec (mk f) s = .next t ∧ t.issue? = some y ∧ OnlyQueue s t x ∧
      (t.core x.core).col = { (s.core x.core).col with
        intake := (s.core x.core).col.intake ++ [q], nextQid := (s.core x.core).col.nextQid + 1 } ∧
      q.qid = (s.core x.core).col.nextQid ∧ q.by_ = issuerOf x op f l ∧ q.opc = op ∧ q.f = f ∧ q.addr = x.rd64 f f.a l ∧
      q.rays = x.na f f.b l ∧ y.wv.regs = x.wv.regs ∧ y.run.resC = x.run.resC - 1 ∧
      y.wv.flags = bumpFlag x.wv.flags (x.flag op f) ∧
      y.wv.ops = x.wv.ops ++ [{ sharedOp op f x e [l] (fun l => x.rd64 f f.a l) (fun l => (x.rd f f.b l).setWidth 128) (fun _ => 0) with
        flag := none, n := q.qid.toNat }] ∧
      y.g.writes = dropElems (destElems f.dst l 1) x.g.writes ++ wr32 f.dst l q.qid) ∧
  (∀ (f : Fields) (s : State) (x : Ctx) (l : Nat) (q : Query) (r : SplitRec), Issues 0xEA f s x → (x.active f).head? = some l →
    x.na f f.a l % 64 = 0 → x.na f f.a l + 64 ≤ bufSize s x.core x.wv.gang .g →
    recAt? s x.core x.wv.gang (x.na f f.a l) = some (q, r) → r.state = 1 → r.claim = x.wv.uid → r.issued = false → BehindWrite x →
    (s.core x.core).col.conts = [] →
    ∃ t y k, exec (.beamcont f) s = .next t ∧ t.issue? = some y ∧ OnlyQueue s t x ∧
      (t.core x.core).col.conts = [k] ∧ k.id = (s.core x.core).col.nextId ∧ k.qid = q.qid ∧
      k.seq = r.seq ∧ k.accepted = false ∧ k.by_ = issuerOf x 0xEA f l ∧ y.wv.regs = x.wv.regs ∧
      y.wv.flags = bumpFlag x.wv.flags (x.flag 0xEA f) ∧ y.run.resC = x.run.resC - 1 ∧
      y.g.writes = dropElems (destElems f.dst l 1) x.g.writes ++ wr32 f.dst l r.seq) ∧
  (∀ (f : Fields) (s : State) (x : Ctx), Issues 0xEB f s x → x.active f ≠ [] → x.waits f = false → s.gang? x.core x.wv.gang ≠ none →
    let at_ := queueAt? s x.core x.wv.gang (x.na f f.a ((x.active f).headD 0))
    let ready := at_.bind (fun q => (q.recs.find? (fun r => r.state == 0)).map (fun r => (q, r)))
    let v : W32 := match at_, ready with
      | none, _ => 0xFFFFFFFE
      | some _, none => 0xFFFFFFFF
      | some _, some (_, r) => BitVec.ofNat 32 r.off
    ∃ t y, exec (.sqpop f) s = .next t ∧ t.issue? = some y ∧ OnlyQueue s t x ∧
      (t.core x.core).col.live = (match ready with
        | none => (s.core x.core).col.live
        | some (q, r) => (s.core x.core).col.live.map (fun p => if p.qid = q.qid then
            { p with recs := p.recs.map (fun k => if k.seq = r.seq then { k with state := 1, claim := x.wv.uid } else k) } else p)) ∧
      (∀ o, locByte t x.core x.wv.gang .g o = match ready with
        | some (_, r) => if o = r.off + 37 then 1 else locByte s x.core x.wv.gang .g o
        | none => locByte s x.core x.wv.gang .g o) ∧
      WroteEnd (flagOf x.g.hdr f.sf) x y (writesOf (fun f _ l => wr32 f.dst l v) f x) 0) ∧
  (∀ (op : Nat) (mk : Fields → Instr), (op, mk) ∈ ([(0xEB, .sqpop), (0xEC, .sqpeek)] : List (Nat × (Fields → Instr))) →
    Attaches op mk (fun f _ x => x.waits f = true) (fun f x =>
      { x.op op f with n := x.na f f.a ((x.active f).headD 0), lanes := nameLanes [(x.active f).headD 0] .ready })) ∧
  WritesAtEnd 0xEC .sqpeek (fun f _ x => x.active f ≠ [] ∧ x.waits f = false) (fun f s x => writesOf (fun f x l =>
    wr32 f.dst l (match queueAt? s x.core x.wv.gang (x.na f f.a ((x.active f).headD 0)) with
      | none => 0xFFFFFFFF
      | some q => BitVec.ofNat 32 (match f.m 0 3 with
        | 0 => (q.recs.filter (fun r => r.state == 0)).length
        | 1 => q.open_
        | 2 => q.recs.length
        | 3 => q.degr
        | _ => finalCells (s.core x.core).col q))) f x) (fun _ _ => 0)

/-- The export words (12 R296, R299): one numbered operation with the exported values of the lanes, EXPPRIM's with their ordinals,
EXPFRAG's marked exported; a vertex number above 255 or a lane without a fragment traps EXPORTSTATE. [model choice: log 95] -/
def Obligations.ExportWordsIssue : Prop :=
  let added := fun (s t : State) (x y : Ctx) (o : Op) => OnlyQueue s t x ∧
    (t.core x.core).nextOrd = (s.core x.core).nextOrd + 1 ∧ y.wv.regs = x.wv.regs ∧
    y.wv.ops = x.wv.ops ++ [{ o with n := (s.core x.core).nextOrd }] ∧ y.g = x.g
  (∀ (f : Fields) (s : State) (x : Ctx), Issues 0xED f s x → x.active f ≠ [] → (∀ l, l ∈ x.active f → x.na f f.c l < 256) →
    ∃ t y, exec (.expvtx f) s = .next t ∧ t.issue? = some y ∧ (t.core x.core).gangs = (s.core x.core).gangs ∧
      added s t x y { x.op 0xED f with
        lanes := (x.active f).map (fun l => exportLane l 0 (x.rd128 f.a l) ((x.rd f f.c l).setWidth 64)),
        bytes := (x.active f).flatMap (fun l => leBytes 16 (x.rd128 f.b l).toNat) }) ∧
  (∀ (f : Fields) (s : State) (x : Ctx) (g : Gang), Issues 0xEE f s x → x.active f ≠ [] → s.gang? x.core x.wv.gang = some g →
    (∀ l, l ∈ x.active f → x.rd f f.a l >>> 24 = 0) → g.prims + (x.active f).length ≤ 4096 →
    ∃ t y, exec (.expprim f) s = .next t ∧ t.issue? = some y ∧
      t.gang? x.core x.wv.gang = some { g with prims := g.prims + (x.active f).length } ∧
      added s t x y { x.op 0xEE f with lanes := (x.active f).zipIdx.map (fun p =>
        exportLane p.1 (x.rd64 f f.b p.1) ((x.rd f f.a p.1).setWidth 128) (BitVec.ofNat 64 (g.prims + p.2))) }) ∧
  -- the gang's 4,097th primitive
  (∀ (f : Fields) (s : State) (x : Ctx) (g : Gang) (l : Nat), Issues 0xEE f s x → x.active f = [l] →
    s.gang? x.core x.wv.gang = some g → x.rd f f.a l >>> 24 = 0 → 4096 ≤ g.prims →
    ∃ u, u = { s with cores := u.cores } ∧ (∀ v, u.slot? x.core v = s.slot? x.core v) ∧ u.gang? x.core x.wv.gang = some g ∧
      exec (.expprim f) s = .next ((takeTrap u x.core x.wid l
        { cause := 20, sub := 0, off := x.idx, spo := x.spo, res := x.g.pro, aux := 0, aux2 := 0 }).modGang x.core x.wv.gang
          (fun k => { k with prims := g.prims }))) ∧
  (∀ (f : Fields) (s : State) (x : Ctx) (l : Nat), Issues 0xEE f s x → (x.active f).head? = some l →
    ∃ t y, exec (.expprimEnd f) s = .next t ∧ t.issue? = some y ∧ (t.core x.core).gangs = (s.core x.core).gangs ∧
      added s t x y { x.op 0xEE f with lanes := [exportLane l (x.rd64 f f.a l) 0 0] }) ∧
  (∀ (f : Fields) (s : State) (x : Ctx) (u : Surf), Issues 0xEF f s x → x.active f ≠ [] → x.wv.surf = some u →
    (∀ l, l ∈ x.active f → l < u.px.length ∧ u.exported.getLsbD l = false) →
    ∃ t y, exec (.expfrag f) s = .next t ∧ t.issue? = some y ∧ (t.core x.core).gangs = (s.core x.core).gangs ∧
      (∃ v, y.wv.surf = some v ∧ v = { u with exported := v.exported } ∧
        ∀ l, l < 32 → v.exported.getLsbD l = (u.exported.getLsbD l || decide (l ∈ x.active f))) ∧
      added s t x y { x.op 0xEF f with lanes := (x.active f).map (fun l => exportLane l 0 (x.rd128 f.a l)
        ((if f.b = .absent then u.depth.getD l 0 else x.rd f f.b l).setWidth 64)) }) ∧
  (∀ (f : Fields) (s : State) (x : Ctx), Issues 0xED f s x → (∀ l, l ∈ x.active f → 256 ≤ x.na f f.c l) →
    exec (.expvtx f) s = .next (issueTraps s x (x.active f) 20 0 (fun _ => 0) 0))

/-- PSRD (14 R320): the named register of each destination lane, pending for the end of the run, at a level that may read it. [model choice: log 19, 16] -/
def Obligations.PrivilegedRegistersRead : Prop :=
  WritesAtEnd 0xF5 .psrd (fun f _ x => f.m 0 8 < 16 ∨ x.g.level = .h) (fun f s x => writesOf (fun f x l =>
    if psr64 (f.m 0 8) then wr64 f.dst l (privReg s x (f.m 0 8) l) else wr32 f.dst l ((privReg s x (f.m 0 8) l).setWidth 32)) f x)
    (fun _ _ => 0) ∧
  (∀ (f : Fields) (s : State) (x : Ctx), Issues 0xF5 f s x → 16 ≤ f.m 0 8 → x.g.level ≠ .h → exec (.psrd f) s = .next (privTrap s x 0xF5))

/-- PSWR (14 R320) at a level that may write: TVECG, TROUTE and RSPOOL of the wave's function, TVECH of the package, RSBASE and WSTAT's
TRAPEN bits of the wave, with their fixed bits zero; RESTV (bit 30 of the cause) and TRRES of the active lanes' records. At G, a register that H alone writes
gives PRIVILEGED in every lane. [model choice: log 19] -/
def Obligations.PrivilegedRegistersWritten : Prop :=
  ∀ (f : Fields) (s : State) (x : Ctx) (l : Nat), Issues 0xF6 f s x → (x.active f).head? = some l →
    let v := x.rd64 f f.a l
    let v32 := x.rd f f.a l
    let n := f.m 0 8
    let fn := fun (t : State) => ({ s with funcs := t.funcs } : State)
    let wave := fun (g : Wave → Wave → Prop) => ∃ t y, exec (.pswr f) s = .next t ∧ t.issue? = some y ∧
      OnlyWave s t x.core x.quarter x.wid ∧ g x.wv y.wv ∧ y = { x with sl := { x.sl with wave := y.wv } }
    let lanes := fun (g : Nat → Lane → Lane) => wave (fun w u => u = { w with
      lanes := w.lanes.zipIdx.map (fun p => if p.2 ∈ x.active f then g p.2 p.1 else p.1) })
    let restv := fun (c v : W32) => (c &&& 0xBFFFFFFF) ||| (v &&& 0x40000000)
    (n = 8 → x.g.level = .h → ∃ t, exec (.pswr f) s = .next t ∧ t = fn t ∧
      t.func x.wv.vf = { s.func x.wv.vf with tvecg := v &&& 0xFFFFFFFFFFFFFFF0 } ∧ ∀ g, g ≠ x.wv.vf → t.func g = s.func g) ∧
    (n = 9 → x.g.level = .h → ∃ t, exec (.pswr f) s = .next t ∧ t = fn t ∧
      t.func x.wv.vf = { s.func x.wv.vf with troute := v32 &&& 0xFFFFFFFE } ∧ ∀ g, g ≠ x.wv.vf → t.func g = s.func g) ∧
    (n = 15 → ∃ t, exec (.pswr f) s = .next t ∧ t = fn t ∧
      t.func x.wv.vf = { s.func x.wv.vf with rspool := v &&& 0xFFFFFFFFFFFF0000 } ∧ ∀ g, g ≠ x.wv.vf → t.func g = s.func g) ∧
    (n = 21 → x.g.level = .h → exec (.pswr f) s = .next { s with tvech := v &&& 0xFFFFFFFFFFFFFFF0 }) ∧
    (n = 7 → wave (fun w u => u = { w with rsbase := v &&& 0xFFFFFFFFFFFFFFF0 })) ∧
    (n = 6 → wave (fun w u => u = { w with wstat := u.wstat } ∧
      ∀ k, k < 32 → u.wstat.getLsbD k = if k = 8 ∨ k = 24 then v32.getLsbD k else w.wstat.getLsbD k)) ∧
    (n = 0 → lanes (fun l y => { y with trg := { y.trg with cause := restv y.trg.cause (x.rd f f.a l) } })) ∧
    (n = 2 → lanes (fun l y => { y with trg := { y.trg with res := x.rd64 f f.a l &&& 0xFFFFFFFFFFFFFFF0 } })) ∧
    (n = 16 → x.g.level = .h → lanes (fun l y => { y with trh := { y.trh with cause := restv y.trh.cause (x.rd f f.a l) } })) ∧
    (n = 18 → x.g.level = .h → lanes (fun l y => { y with trh := { y.trh with res := x.rd64 f f.a l &&& 0xFFFFFFFFFFFFFFF0 } })) ∧
    (x.g.level ≠ .h → n = 8 ∨ n = 9 ∨ n = 16 ∨ n = 18 ∨ n = 21 → exec (.pswr f) s = .next (privTrap s x 0xF6))

/-- WPSET (14 R335): watchpoint n of the core armed by lane accesses of the issuing function at 16 bytes, or disarmed, and its operation
attached; a G lane does not replace another function's watchpoint. ENG also watches the line its address translates to; non-zero reserved bits, or EN
with an empty mask, have no effect. -/
def Obligations.WatchpointsSet : Prop :=
  ∀ (f : Fields) (s : State) (x : Ctx) (l : Nat), Issues 0xFD f s x → (x.active f).head? = some l →
    let n := f.m 0 2
    let b := x.rd f f.b l
    let o := { x.op 0xFD f with lanes := [{ lane := l, va := 0, src := 0, src2 := 0, tgt := .none, st := .known }] }
    let old := (s.core x.core).watch.getD n Watch.off
    let a := x.rd64 f f.a l
    let mine := x.g.level = .h ∨ old.en = false ∨ old.vf = x.wv.vf
    let armed := fun (spa : Option Nat) =>
      ({ en := true, eng := b.getLsbD 17, vf := x.wv.vf, addr := a &&& 0xFFFFFFFFFFFFFFF0, bmask := b.setWidth 16, spa := spa, gang := x.wv.gang } : Watch)
    let go := b.extractLsb' 18 14 = 0 ∧ b.getLsbD 16 = true ∧ b.setWidth 16 ≠ (0 : BitVec 16) ∧ mine
    let set := fun (s : State) (w : Watch) => s.modCore x.core (fun k => { k with watch := listSet k.watch n w })
    (go → b.getLsbD 17 = false → exec (.wpset f) s = .next (addOp x o (set s (armed none)))) ∧
    (go → b.getLsbD 17 = true → (canonical a = false ∨ inWindow a = true ∨ inHeap a = true) →
      exec (.wpset f) s = .next (addOp x o (set s (armed none)))) ∧
    (∀ u r, go → b.getLsbD 17 = true → canonical a = true → inWindow a = false → inHeap a = false →
      translate s (some x.core) (.fn x.wv.vf (x.wv.row x.g.level)) x.wv.vf a.toNat { bits := 0, u := false } true = (u, r) →
      exec (.wpset f) s = .next (addOp x o (set u (armed (match r with
        | .ok e => if e.apply a.toNat < hbmEnd then some (16 * (e.apply a.toNat / 16)) else none
        | _ => none))))) ∧
    (b.extractLsb' 18 14 = 0 → b.getLsbD 16 = false → mine → exec (.wpset f) s = .next (addOp x o (set s Watch.off))) ∧
    (b.extractLsb' 18 14 ≠ 0 → exec (.wpset f) s = .next (addOp x o s)) ∧
    (b.getLsbD 16 = true → b.setWidth 16 = (0 : BitVec 16) → exec (.wpset f) s = .next (addOp x o s)) ∧
    (x.g.level = .g → old.en = true → old.vf ≠ x.wv.vf → exec (.wpset f) s = .next (addOp x o s))

/-! ## The card and its host -/

/-- What stays over a reset or a loss of power (18 R400 to R403, R408): signatures used, a staged image, the keys' loss, how many images
have taken effect; all else is as State.reset has it, but for whether firmware verified. The messages sent and the model's own fields
go on. -/
def Sys2Proof.Machine.afterReset (s : State) (staged : Option W64) (fwOk : Bool) (gen : Nat) : State :=
  { State.reset with
    sec := { State.reset.sec with hssUsed := s.sec.hssUsed, staged := staged, fwOk := fwOk, fwGen := gen },
    conf := { State.reset.conf with keygone := s.conf.keygone },
    outbox := s.outbox, agenda := s.agenda, free := s.free + 1 }

/-- Reset, loss of power, training and readiness (18 R400, R401, R408 to R410): each with what it leaves, and with function 0's
vector 5 for a readiness bit; the last stack's training performs a START that waited. Which units report when (log 127), the clock a core
reports with (log 133) and whether firmware verifies (log 9) are the model's choices. -/
def Sys2Proof.Machine.SaysResetPowerAndReadiness : Prop :=
  (∀ s : State, s.sec.overtemp = false → ∃ ok, exec .reset s = .next (afterReset s none ok (s.sec.fwGen + if s.sec.staged = none then 0 else 1)) ∧
    (s.sec.staged ≠ none → ok = true)) ∧
  (∀ s : State, exec .powerLoss s = .next { afterReset s s.sec.staged true s.sec.fwGen with powered := false }) ∧
  (∀ s : State, ∃ t, exec .overtempShutdown s = .next t ∧ t.powered = false ∧ t.sec.overtemp = true ∧
    t.sec.hssUsed = s.sec.hssUsed ∧ t.sec.staged = s.sec.staged ∧ t.conf.keygone = s.conf.keygone ∧
    t.mem = [] ∧ t.cores = [] ∧ t.clusters = [] ∧ t.slices = [] ∧ t.funcs = [] ∧ t.worlds = [] ∧ t.rdy = State.reset.rdy ∧
    t.sched = State.reset.sched ∧ t.outbox = s.outbox ++ [.powerOff]) ∧
  (∀ (s : State) (n : Nat), n < 8 → s.rdy.hbm.getLsbD n = false → ∃ t,
    exec (.stackTrained n) s = .next (if s.conf.startWait = true ∧ s.rdy.hbm ||| 1 <<< n = 0xFF then startWith (msixEvent t 0 5)
      else msixEvent t 0 5) ∧
    t = { s with mem := t.mem, memPois := t.memPois, rdy := { s.rdy with hbm := s.rdy.hbm ||| 1 <<< n } } ∧
    (∀ a, memByte t.mem a = if a / 2 ^ 36 = n then 0 else memByte s.mem a) ∧
    (∀ k, k ∈ t.memPois ↔ k ∈ s.memPois ∧ 64 * k / 2 ^ 36 ≠ n)) ∧
  (∀ s : State, s.rdy.portA = false → exec (.unitReady (.port 0)) s = .next (msixEvent { s with rdy := { s.rdy with portA := true } } 0 5)) ∧
  (∀ s : State, s.rdy.portB = false → exec (.unitReady (.port 1)) s = .next (msixEvent { s with rdy := { s.rdy with portB := true } } 0 5)) ∧
  (∀ s : State, s.rdy.sieve = false → s.sec.fwOk = true →
    exec (.unitReady .sieve) s = .next (msixEvent { s with rdy := { s.rdy with sieve := true } } 0 5)) ∧
  (∀ s : State, s.conf.startst = 1 → s.rdy.whisk = false → exec (.unitReady .whisk) s = .next (msixEvent { s with rdy := { s.rdy with whisk := true } } 0 5)) ∧
  (∀ (s : State) (d : Nat), d < 16 → s.conf.startst = 1 → s.rdy.deckles.getLsbD d = false →
    exec (.unitReady (.deckle d)) s = .next (msixEvent { s with rdy := { s.rdy with deckles := s.rdy.deckles ||| 1 <<< d } } 0 5)) ∧
  (∀ (s : State) (n : Nat), n < 128 → s.conf.startst = 1 → (s.slice n).ready = false → ∃ t,
    exec (.unitReady (.slice n)) s = .next (msixEvent t 0 5) ∧ t = { s with slices := t.slices } ∧
    t.slice n = { Slice.idle with ready := true } ∧ ∀ k, k ≠ n → t.slice k = s.slice k) ∧
  (∀ (s : State) (c : Nat), c < 512 → s.conf.startst = 1 → (s.core c).ready = false → ∃ t,
    exec (.unitReady (.core c)) s = .next (msixEvent t 0 5) ∧ t = { s with cores := t.cores } ∧
    t.core c = { Core.idle with ready := true, vf := servedBy s (clusterOf c), clock := (s.core c).clock + s.bootCc, reviewed := (s.core c).reviewed + s.bootCc } ∧ ∀ k, k ≠ c → t.core k = s.core k)

/-- START (18 R407, R408): another value, or any once started, changes nothing; 1 before all stacks are ready waits for them; with all
ready and legal bases and entry 0 it makes every frame HOST's and applies function 0; with an illegal base or entry it sets STARTST to
2 and nothing else. What it checks and keeps is the model's reading, log 108. -/
def Sys2Proof.Machine.SaysStartAppliesFunctionZero : Prop :=
  (∀ (s : State) (v : W32), v ≠ 1 ∨ s.conf.startst = 1 → exec (.start v) s = .next s) ∧
  (∀ s : State, s.conf.startst ≠ 1 → s.rdy.hbm ≠ 0xFF → exec (.start 1) s = .next { s with conf := { s.conf with startWait := true } }) ∧
  (∀ (s : State) (b : List Byte), s.conf.startst ≠ 1 → s.rdy.hbm = 0xFF → hostTable s s.conf.ftbase.toNat 128 = some b →
    basesOk s.conf = true → ∃ t,
      t = { s with owners := [], mem := t.mem, conf := { s.conf with startst := 1, startWait := false } } ∧
      (∀ a, memByte t.mem a =
        if s.conf.fotbase.toNat ≤ a ∧ a < s.conf.fotbase.toNat + 0x800000 then 0 else memByte s.mem a) ∧
      (∀ a, t.owner a = ownHost) ∧
      (funcBad { t with conf := { s.conf with startWait := false } } 0 (funcOf (s.func 0) b) = false →
        exec (.start 1) s = .next (applyFunc t 0 (funcOf (s.func 0) b))) ∧
      (funcBad { t with conf := { s.conf with startWait := false } } 0 (funcOf (s.func 0) b) = true →
        exec (.start 1) s = .next { s with conf := { s.conf with startst := 2, startWait := false } })) ∧
  (∀ (s : State), s.conf.startst ≠ 1 → s.rdy.hbm = 0xFF →
    (basesOk s.conf = false ∨ hostTable s s.conf.ftbase.toNat 128 = none) →
    exec (.start 1) s = .next { s with conf := { s.conf with startst := 2, startWait := false } })

/-- Reset, power, readiness and START (18 R400, R401, R407 to R410). [model choice: log 114, 127, 133, 108, 9] -/
def Obligations.ResetPowerAndStart : Prop := SaysResetPowerAndReadiness ∧ SaysStartAppliesFunctionZero

/-- Alarm sources (18 R403): counted; with policy ALARM or ERASE logged; with ERASE the keys erased. -/
def Sys2Proof.Machine.Fires (i : Instr) (src : Nat) : Prop :=
  ∀ s : State, ∃ t, t = { s with conf := { s.conf with
      alarmcnt := listAdj s.conf.alarmcnt src (fun n => if n = 0xFFFFFFFF then n else n + 1) } } ∧
    exec i s = .next (match (s.conf.alarmpol.toNat / 4 ^ src) % 4 with
      | 0 => t
      | 1 => elog t 3 0xFF src 0xFFFF 0 0
      | 2 => { elog t 3 0xFF src 0xFFFF 0 0 with conf := { (elog t 3 0xFF src 0xFFFF 0 0).conf with keygone := true } }
      | _ => elog t 3 0xFF src 0xFFFF 0 0)

/-- Alarms, their policy, the firmware and debug locks (18 R400, R403); that DBGAUTH fires at exactly the fourth failure in a row is the
model's reading, log 117. -/
def Sys2Proof.Machine.SaysAlarmsAndLocks : Prop :=
  Fires .vglitch 0 ∧ Fires .cglitch 1 ∧ Fires .lid 2 ∧ Fires .therm 5 ∧
  (∀ (s : State) (v : W32), ∃ p, exec (.alarmpolWrite v) s = .next { s with conf := { s.conf with alarmpol := p } } ∧
    (p.getLsbD 31 = (s.conf.alarmpol.getLsbD 31 || v.getLsbD 31)) ∧
    (∀ n, 12 ≤ n → n < 31 → p.getLsbD n = false) ∧
    ∀ k, k < 6 → (p.toNat / 4 ^ k) % 4 =
      newPolicy (s.conf.alarmpol.getLsbD 31) ((s.conf.alarmpol.toNat / 4 ^ k) % 4) ((v.toNat / 4 ^ k) % 4)) ∧
  (∀ (s : State) (v : W32), v ≠ 1 → exec (.fwcommit v) s = .next s) ∧
  (∀ s : State, imageVerdict s = 1 → exec (.fwcommit 1) s =
    .next { s with conf := { s.conf with fwstat := 1 }, sec := { s.sec with staged := some s.conf.fwaddr } }) ∧
  (∀ s : State, exec (.debugUnlockChallenge true) s = .next { s with sec := { s.sec with dbgFails := 0 } }) ∧
  (∀ s : State, s.sec.dbgFails ≠ 3 →
    exec (.debugUnlockChallenge false) s = .next { s with sec := { s.sec with dbgFails := s.sec.dbgFails + 1 } }) ∧
  (∀ s : State, s.sec.dbgFails = 3 →
    exec (.debugUnlockChallenge false) s = .next (fireAlarm { s with sec := { s.sec with dbgFails := 4 } } 3))

/-- Errors of memory (18 R404; 03 R83): a corrected one is only counted; one that is not poisons its line, register word or local word,
or drops its entry, and is logged. The record and block of an error of HBM4 (log 120) and the zero of a poisoned register word (log 17)
are the model's choices. -/
def Sys2Proof.Machine.SaysMemoryErrorsPoison : Prop :=
  (∀ (s : State) (a : Nat), a < hbmEnd → exec (.hbmEccError a false) s = .next { s with conf := { s.conf with
    stackcnt := listAdj s.conf.stackcnt (a / 2 ^ 36) (fun c => (satInc64 c.1, c.2)) } }) ∧
  (∀ (s : State) (a : Nat), a < hbmEnd → elidedMeta s a = none → ∃ t, t = { s with
      memPois := setIns s.memPois (a / 64), eccs := setIns s.eccs a,
      conf := { s.conf with stackcnt := listAdj s.conf.stackcnt (a / 2 ^ 36) (fun c => (c.1, satInc64 c.2)) } } ∧
    t.linePois a = true ∧
    exec (.hbmEccError a true) s = .next (elog t 5 0xFF (a / 2 ^ 36) 0xFFFF (BitVec.ofNat 64 (64 * (a / 64))) 0)) ∧
  (∀ (s : State) (spa : Nat), ∃ t, t = { s with llcPois := setIns s.llcPois (spa / 4), llcCnt := (s.llcCnt.1, satInc64 s.llcCnt.2) } ∧
    (∀ a, t.bytePois a = (s.bytePois a || decide (a / 4 = spa / 4))) ∧
    exec (.sramEccError (.llc spa) true) s = .next (elog t 6 0xFF 0 0xFFFF (BitVec.ofNat 64 spa) 0)) ∧
  (∀ (s : State) (x : SramSite), (∃ spa, x = .llc spa) ∨ (∃ n k w, x = .tag n k w) →
    exec (.sramEccError x false) s = .next { s with llcCnt := (satInc64 s.llcCnt.1, s.llcCnt.2) }) ∧
  (∀ (s : State) (c w i : Nat) (sl : Slot), s.slot? c w = some sl → i < 32 * 256 → ∃ t,
    exec (.sramEccError (.register c w 0 i) true) s = .next (elog t 6 0xFF 0 c 0 0) ∧ t = { s with cores := t.cores } ∧
    (∀ k, k ≠ c → t.core k = s.core k) ∧
    (∃ u, t.slot? c w = some { sl with wave := { sl.wave with regs := u } } ∧ i ∈ u.vpois ∧
      u.read (.v (i / 32) (i % 32)) = 0)) ∧
  (∀ (s : State) (c w i : Nat) (sl : Slot), s.slot? c w = some sl → i < 15 → ∃ t,
    exec (.sramEccError (.register c w 2 i) true) s = .next (elog t 6 0xFF 0 c 0 0) ∧ t = { s with cores := t.cores } ∧
    ∃ u, t.slot? c w = some { sl with wave := { sl.wave with regs := u } } ∧ u.predPois i = true ∧
      ∀ l, l < 32 → u.read (.p i l) = 0) ∧
  (∀ (s : State) (c w : Nat), ∃ t, exec (.sramEccError (.localWord c 1 0 w) true) s =
      .next (elog t 6 0xFF 0 c (BitVec.ofNat 64 (4 * w)) 0) ∧
    t.core c = { s.core c with wpois := setIns (s.core c).wpois w, uncorr := satInc32 (s.core c).uncorr } ∧
    ∀ k, k ≠ c → t.core k = s.core k) ∧
  (∀ (s : State) (n set_ way : Nat), exec (.sramEccError (.tag n set_ way) true) s =
    .next (elog (llcEcc (dropEntry s n (16 * set_ + way)) true) 6 0xFF n 0xFFFF 0 0))

/-- Alarms, locks and memory errors (18 R400, R403, R404). [model choice: log 117, 120, 17] -/
def Obligations.AlarmsAndMemoryErrors : Prop := SaysAlarmsAndLocks ∧ SaysMemoryErrorsPoison

/-- DOE and SPDM answers on the mailbox of function 0 or 1 (18 R390, R402): discovery; version 1.3, after which this mailbox negotiates
again; the algorithms, after which it has; until then ERROR to what follows. Then digests, the chain of slot 0 from an offset, in which
every certificate carries both signatures (00 R9), measurements, and signed answers that use up one HSS signature each. Bytes beyond what
R402 lists are the model's choice, log 116. [model choice: log 116] -/
def Obligations.SecurityMessagesAnswered : Prop :=
  let sends := fun (r : Res) (t : State) (pf code n : Nat) (g : List Nat → Prop) =>
    ∃ body : List Nat, body.length = n ∧ g body ∧ r = .next ({ t with free := t.free + 1 }.send (.spdm pf code body))
  let any := fun (_ : List Nat) => True
  -- with the HSS signature of the key's state in OpaqueData, and the ECDSA signature at the end (00 R9; 18 R402)
  let signs := fun (i : Instr) (s : State) (pf code n : Nat) =>
    ∃ a b : List Nat, a.length = n + 10 ∧ b.length = 10 ∧ exec i s = .next
      ({ s with sec := { s.sec with hssUsed := s.sec.hssUsed + 1 }, free := s.free + 1 }.send (.spdm pf code
        (a ++ (List.range 3532).map (Config.hssByte s.sec.hssUsed) ++ b ++ (List.range 96).map (Config.ecdsaByte s.free))))
  let refused := fun (i : Instr) (s : State) (pf e : Nat) => exec i s = .next (s.send (.spdm pf 0x7F [e]))
  let blocks := fun (k : Nat) => if k = 0 then 0 else if k = 0xFF then 6 else 1
  (∃ a : List Nat, a.length = 52 ∧
    certChain = a ++ (Config.certBodies.map (fun b => b ++ Config.certEcdsa b ++ Config.certHss b)).flatten) ∧
  ∀ (s : State) (pf : Nat), pf < 2 →
    (∀ k, exec (.doeDiscovery pf k) s = .next (s.send (.spdm pf 0
      (if k = 0 then [1, 0, 1] else if k = 1 then [1, 1, 0] else [0xFFFF, 0, 0])))) ∧
    (∃ n : BitVec 2, exec (.getVersion pf) s = .next ({ s with sec := { s.sec with negotiated := n } }.send (.spdm pf 0x04 [0x13])) ∧
      n.getLsbD pf = false ∧ ∀ k, k ≠ pf → n.getLsbD k = s.sec.negotiated.getLsbD k) ∧
    sends (exec (.getCapabilities pf) s) s pf 0x61 20 any ∧
    (∃ n : BitVec 2, sends (exec (.negotiateAlgorithms pf) s) { s with sec := { s.sec with negotiated := n } } pf 0x63 52 any ∧
      n.getLsbD pf = true ∧ ∀ k, k ≠ pf → n.getLsbD k = s.sec.negotiated.getLsbD k) ∧
    (s.sec.negotiated.getLsbD pf = false → ∀ k o n nonce g, refused (.getDigests pf) s pf 4 ∧ refused (.getCertificate pf k o n) s pf 4 ∧
      refused (.challenge pf k nonce) s pf 4 ∧ refused (.getMeasurements pf k g nonce) s pf 4) ∧
    (s.sec.negotiated.getLsbD pf = true →
      sends (exec (.getDigests pf) s) s pf 0x01 52 (fun b => b.drop 4 = (List.range 48).map (Config.sha384 certChain)) ∧
      (∀ o n, o < certChain.length → sends (exec (.getCertificate pf 0 o n) s) s pf 0x02 (8 + min n (certChain.length - o))
        (fun b => b.drop 8 = (certChain.drop o).take n)) ∧
      (∀ k o n, k ≠ 0 ∨ certChain.length ≤ o → refused (.getCertificate pf k o n) s pf 1) ∧
      (∀ k n, k ≤ 6 ∨ k = 0xFF → sends (exec (.getMeasurements pf k false n) s) s pf 0x60 (50 + 55 * blocks k)
        (fun b => 1 ≤ k → k ≤ 6 → (b.drop 8).take 55 = measureBlock s k)) ∧
      (∀ k g n, 6 < k → k ≠ 0xFF → refused (.getMeasurements pf k g n) s pf 1) ∧
      (s.conf.keygone = false → s.sec.hssUsed < 2 ^ 40 → ∀ n k, (k ≤ 6 ∨ k = 0xFF) →
        signs (.challenge pf 0 n) s pf 0x03 134 ∧ signs (.getMeasurements pf k true n) s pf 0x60 (42 + 55 * blocks k)) ∧
      (s.conf.keygone = true ∨ 2 ^ 40 ≤ s.sec.hssUsed → ∀ n k, (k ≤ 6 ∨ k = 0xFF) →
        refused (.challenge pf 0 n) s pf 5 ∧ refused (.getMeasurements pf k true n) s pf 5))

/-- No region of the part is traced and no watchpoint armed. -/
structure Sys2Proof.Machine.Untraced (s : State) : Prop where
  regions : ∀ p, p ∈ s.funcs → ∀ v, v ∈ p.2.dbg.vtrs → v.pages = []
  watches : ∀ p, p ∈ s.cores → ∀ w, w ∈ p.2.watch → w.en = false

/-- t differs from s in function f alone. -/
structure Sys2Proof.Machine.OnlyFunc (s t : State) (f : Nat) : Prop where
  rest : t = { s with funcs := t.funcs }
  others : ∀ g, g ≠ f → t.func g = s.func g

/-- The host's accesses and registers (15 R338; 16 R364, R365; 17 R376, R379, R384; 18 R390 to R393), to a function that is exposed to it
(R390). What BAR 2 and a host's read reach, and what its registers answer, are the model's reading, logs 118 and 119. -/
def Sys2Proof.Machine.SaysHostAccesses : Prop :=
  (∀ (s : State) (f addr : Nat) (bytes : List Byte), s.conf.startst ≠ 1 → f = 0 → addr % 64 + bytes.length ≤ 64 → bytes ≠ [] →
    s.rdy.hbm.getLsbD (addr / 2 ^ 36) = true → addr < hbmEnd →
    exec (.hostWrite f addr bytes) s = .next (if (bytes.length = 4 ∨ bytes.length = 8) ∧ addr % bytes.length = 0
      then watchSlice (homeWrite s hostWriter addr bytes) none hostWriter addr bytes.length else homeWrite s hostWriter addr bytes)) ∧
  (∀ (s : State) (f addr : Nat) (bytes : List Byte), s.conf.startst ≠ 1 → f = 0 → addr % 64 + bytes.length ≤ 64 → bytes ≠ [] →
    s.rdy.hbm.getLsbD (addr / 2 ^ 36) = true → addr < hbmEnd → Untraced s →
    ∃ t, exec (.hostWrite f addr bytes) s = .next t ∧
      ∀ a, memByte t.mem a = if addr ≤ a ∧ a < addr + bytes.length then bytes.getD (a - addr) 0 else memByte s.mem a) ∧
  (∀ (s : State) (f addr n : Nat), s.conf.startst ≠ 1 → f = 0 → addr % 64 + n ≤ 64 → 0 < n →
    s.rdy.hbm.getLsbD (addr / 2 ^ 36) = true → addr < hbmEnd →
    exec (.hostRead 2 f addr n) s = .next ((homeTouches s addr n).send (.hostData f addr
      (if s.poisAt addr n then List.replicate n 0 else s.bytesAt addr n)))) ∧
  (∀ (s : State) (f off n : Nat), exposed s f = true → (n = 4 ∨ n = 8) → off % n = 0 → off + n ≤ 65536 →
    exec (.hostRead 0 f off n) s = .next (s.send (.hostData f off
      ((List.range (n / 4)).flatMap (fun i => leBytes 4 (blockWord s f (off + 4 * i)).toNat))))) ∧
  (∀ (s : State) (f a n q : Nat) (b : List Byte) (w : W32), exposed s f = false → ∀ i,
    i ∈ ([.hostWrite f a b, .hostRead 0 f a n, .hostRead 2 f a n, .registerWrite f a b, .submit f w, .doorbell f q w] : List Instr) →
    exec i s = .fault .notEnabled) ∧
  (∀ (s : State) (f : Nat) (w : W32), exposed s f = true → ∃ t, exec (.registerWrite f 0 (leBytes 4 w.toNat)) s = .next t ∧ OnlyFunc s t f ∧
    t.func f = { s.func f with mbox := { (s.func f).mbox with code := w } }) ∧
  (∀ (s : State) (f off : Nat) (bytes : List Byte), exposed s f = true → regAccessOk off bytes.length true = false →
    exec (.registerWrite f off bytes) s = .next (refuseOwner s f 0xFFFF (0x3F0000000000 + 65536 * f + off))) ∧
  (∀ (s : State) (f : Nat) (token : W32), exposed s f = true → (s.func f).mbox.pending = false → ∃ t, exec (.submit f token) s = .next t ∧ OnlyFunc s t f ∧
    t.func f = { s.func f with mbox := { (s.func f).mbox with
      pending := true, token := token, req := some ((s.func f).mbox.code, (s.func f).mbox.args, f == 0) } }) ∧
  (∀ (s : State) (f : Nat) (token : W32), exposed s f = true → (s.func f).mbox.pending = true → ∃ t, exec (.submit f token) s = .next t ∧ OnlyFunc s t f ∧
    t.func f = { s.func f with err := { (s.func f).err with mbox := satInc64 (s.func f).err.mbox } }) ∧
  (∀ (s : State) (f n : Nat), f < 2 → n = (vfsOf s f).length → ∃ m, exec (.vfEnable f n) s =
      .next ({ s with conf := { s.conf with vfOn := m } }.send (.vfEnabled f n true)) ∧
    ∀ k, k < 64 → m.getLsbD k = (s.conf.vfOn.getLsbD k || decide (k ∈ vfsOf s f))) ∧
  (∀ (s : State) (f n : Nat), f < 2 → n ≠ (vfsOf s f).length → exec (.vfEnable f n) s = .next (s.send (.vfEnabled f n false))) ∧
  (∀ (s : State) (f v : Nat), v < 8 → (s.func f).mbox.open_.getLsbD v = true → (s.func f).mbox.pend.getLsbD v = false →
    (s.func f).mbox.since.getD v 0 + 1024 ≤ s.fc →
    ∃ t, exec (.msixIntervalEnd f v) s = .next t ∧ OnlyFunc s t f ∧
      t.func f = { s.func f with mbox := { (s.func f).mbox with
        open_ := (s.func f).mbox.open_ &&& ~~~((1 : BitVec 8) <<< v), pend := (s.func f).mbox.pend &&& ~~~((1 : BitVec 8) <<< v) } }) ∧
  (∀ (s : State) (f v : Nat), v < 8 → (s.func f).mbox.open_.getLsbD v = true → (s.func f).mbox.pend.getLsbD v = true →
    (s.func f).mbox.since.getD v 0 + 1024 ≤ s.fc → vecMasked (s.func f).mbox v = false →
    ∃ t, exec (.msixIntervalEnd f v) s = .next (t.send (.msix f v)) ∧ OnlyFunc s t f ∧
      t.func f = { s.func f with mbox := { (s.func f).mbox with
        pend := (s.func f).mbox.pend &&& ~~~((1 : BitVec 8) <<< v), since := listAdj (s.func f).mbox.since v (fun _ => s.fc) } }) ∧
  (∀ (s : State) (f v : Nat), (s.func f).mbox.open_.getLsbD v = false ∨ s.fc < (s.func f).mbox.since.getD v 0 + 1024 →
    exec (.msixIntervalEnd f v) s = .fault .notEnabled) ∧
  (∀ (s : State) (f : Nat), ∃ t, exec (.lost f) s = .next t ∧ OnlyFunc s t f ∧
    t.func f = { s.func f with dbg := { (s.func f).dbg with lost := 0 } })

/-- Doorbells, invalidations, replies, stops and trace regions by the host (15 R338; 16 R365; 17 R376, R379, R384; 18 R391). Doorbell errors
(log 87), partial reply writes and stray replies (log 118) and trace regions (log 121) are the model's choices. -/
def Sys2Proof.Machine.SaysHostRequests : Prop :=
  (∀ (s : State) (f q : Nat) (v : W32), exposed s f = true → s.conf.startst = 1 → q < 1024 → (s.queue q).owner = f → (s.queue q).enabled = true →
    (s.queue q).hostq = true → (v - (s.queue q).headseq).toNat ≤ (s.queue q).nent → v = (s.queue q).seq + 1 →
    exec (.doorbell f q v) s = .next (enterCard s q id [] false)) ∧
  (∀ (s : State) (f q : Nat) (v : W32), exposed s f = true → s.conf.startst = 1 → q < 1024 → (s.queue q).owner = f → (s.queue q).enabled = true →
    (s.queue q).hostq = true → (v - (s.queue q).headseq).toNat ≤ (s.queue q).nent → v = (s.queue q).seq + 1 →
    ∃ t k, exec (.doorbell f q v) s = .next t ∧ t.mem = s.mem ∧ (t.queue q).seq = v ∧ (t.queue q).cards = (s.queue q).cards ++ [k] ∧
      k.seq = (s.queue q).seq ∧ k.begun = false ∧ k.read = false ∧ ∀ p, p ≠ q → t.queue p = s.queue p) ∧
  (∀ (s : State) (f q : Nat) (v : W32), exposed s f = true → s.conf.startst = 1 → (1024 ≤ q ∨ (s.queue q).owner ≠ f ∨ (s.queue q).enabled = false) →
    ∃ t, exec (.doorbell f q v) s = .next t ∧ OnlyFunc s t f ∧
      t.func f = { s.func f with err := { (s.func f).err with bell := satInc64 (s.func f).err.bell } }) ∧
  (∀ (s : State) (f : Nat) (va : W64) (n : W32), ∃ t, exec (.invalidationRegister f va n) s = .next t ∧
    (t.func f).mbox.invVa = va ∧ (t.func f).mbox.invPages = n ∧ t.mem = s.mem ∧
    (∀ c e, e ∈ (t.core c).tlb ↔ e ∈ (s.core c).tlb ∧ (selRange f va n.toNat).takes e = false)) ∧
  (∀ (s : State) (f stage : Nat) (seq : W32) (i : Instr) (a : Answer),
    (i, a, stage) ∈ [(.stage1ReplyRetry f seq, .retry seq, 1), (.stage1ReplyRefuse f seq, .refuse 1 seq, 1),
      (.stage2ReplyRetry f seq, .retry seq, 2), (.stage2ReplyRefuse f seq, .refuse 2 seq, 2)] → f < 64 →
    (∀ r, s.reqs.find? (fun r => r.vf == f && r.stage == stage && r.written && r.seq == seq) = some r →
      exec i s = .next (flushRequests { s with
        reqs := s.reqs.filter (fun q => q.ticket != r.ticket), answers := s.answers.ins r.ticket a } f stage)) ∧
    (s.reqs.find? (fun r => r.vf == f && r.stage == stage && r.written && r.seq == seq) = none →
      ∃ t, exec i s = .next t ∧ OnlyFunc s t f ∧
        t.func f = { s.func f with err := { (s.func f).err with stray := satInc64 (s.func f).err.stray } })) ∧
  (∀ (s : State) (f c w : Nat) (v : W64) (sl : Slot), c < 512 → w < 64 → v = BitVec.ofNat 64 (64 * c + w) →
    s.slot? c w = some sl → sl.wave.vf = f →
    ((s.func f).dbg.stopen = true →
      exec (.stopreq f v) s = .next ((maskLanes sl.wave.live).foldl (fun s l => dueStop s c w l 16) s)) ∧
    ((s.func f).dbg.stopen = false → exec (.stopreq f v) s = .next s) ∧
    (sl.parked = true → ∃ t, exec (.resume f v) s = .next t ∧ t = { s with cores := t.cores } ∧
      (∀ k, k ≠ c → t.core k = s.core k) ∧ (∀ u, u ≠ w → t.slot? c u = s.slot? c u) ∧
      t.slot? c w = some { sl with parked := false, wave := { sl.wave with
        wstat := sl.wave.wstat &&& 0xFEFFFFFF,
        lanes := sl.wave.lanes.map (fun x => { x with stopped := false, skipStop := true }) } })) ∧
  (∀ (s : State) (f r : Nat), r < 8 → (s.func f).dbg.vtrs.length = 8 → ∃ t, exec (.vtrArm f r) s = .next t ∧ OnlyFunc s t f ∧
    (∀ k, k ≠ r → (t.func f).dbg.vtrs[k]? = (s.func f).dbg.vtrs[k]?) ∧
    ∃ v, (t.func f).dbg.vtrs[r]? = some v ∧ v.en = true ∧ v.armed.toNat = v.pages.length % 2 ^ 32 ∧
      v.lo = v.base.toNat ∧ v.hi = v.base.toNat + v.len.toNat)

/-- What the host does (15 R338; 16 R365; 17 R376, R379, R384; 18 R390 to R393, R395). [model choice: log 87, 118, 119, 121] -/
def Obligations.HostAccessesAndRequests : Prop := SaysHostAccesses ∧ SaysHostRequests

/-- A request of code c stands in function f's mailbox with arguments args, from level H or not, and a started part's Sieve may take it
(15 R347; 18 R392). -/
structure Sys2Proof.Machine.Asks (s : State) (f code : Nat) (args : List W64) (h : Bool) : Prop where
  req : ∃ c : W32, (s.func f).mbox.req = some (c, args, h) ∧ c.toNat = code
  ready : s.rdy.sieve = true
  started : s.conf.startst = 1

/-- The Sieve's requests (15 R347, R349; 16 R351, R352, R372; 17 R385, R386; 18 R392): each with its own effect and status 0, or with
DENIED at a level or function that may not ask. Reply codes and the order of refusals (log 86), FSET and WSET (log 106) and DBGCLAIM's
choice of unit (log 107) are the model's choices. [model choice: log 86, 106, 107] -/
def Obligations.MailboxRequestsPerformed : Prop :=
  let arg := fun (a : List W64) (k : Nat) => (a.getD k 0).toNat
  (∀ (s : State) (a : List W64) (b : List Byte), Asks s 0 1 a true → arg a 0 < 1024 → (s.queue (arg a 0)).cards = [] →
    hostTable s (s.conf.qtbase.toNat + 64 * arg a 0) 64 = some b → queueEntryOk b = true →
    ((queueOf (s.queue (arg a 0)) b).enabled = false ∨
      ownedQueues s (queueOf (s.queue (arg a 0)) b).owner (arg a 0) < (s.func (queueOf (s.queue (arg a 0)) b).owner).maxq) →
    ∃ t, exec (.qset 0) s = .next (mailReply t 0 0) ∧ t = { s with sched := { s.sched with
        queues := t.sched.queues, windows := s.sched.windows.filter (· != arg a 0) } } ∧
      t.queue (arg a 0) = queueOf (s.queue (arg a 0)) b ∧ (t.queue (arg a 0)).seq = 0 ∧ (t.queue (arg a 0)).headseq = 0 ∧
      ∀ q, q ≠ arg a 0 → t.queue q = s.queue q) ∧
  (∀ (s : State) (a : List W64) (b : List Byte), Asks s 0 2 a true → arg a 0 < 4096 →
    hostTable s (s.conf.mftbase.toNat + 32 * arg a 0) 32 = some b →
    exec (.filter 0) s = .next (mailReply { s with sched := { s.sched with
      filters := s.sched.filters.ins (arg a 0) (filterOf ((s.sched.filters.get? (arg a 0)).getD default) b) } } 0 0)) ∧
  (∀ (s : State) (f : Nat) (a : List W64) (h : Bool) (k : Card), Asks s f 3 a h → arg a 0 < 1024 →
    (h = true ∨ (s.queue (arg a 0)).owner = f) → (s.queue (arg a 0)).nent ≠ 0 → (s.queue (arg a 0)).cls = 0 →
    (s.queue (arg a 0)).cards.find? (fun k => !k.closed) = some k →
    ∃ t, exec (.deadline f) s = .next (mailReply t f 0) ∧
      (t.queue (arg a 0)).deadline = some (k.seq, s.ticks + (arg a 1 % 2 ^ 32 + 9) / 10) ∧
      ∀ q, q ≠ arg a 0 → t.queue q = s.queue q) ∧
  (∀ (s : State) (a : List W64), Asks s 0 4 a true → arg a 0 % 65536 = 0 → arg a 0 + 65536 * arg a 1 ≤ hbmEnd →
    (∀ i, i < arg a 1 → s.owner (arg a 0 + 65536 * i) = ownHost) →
    exec (.savepool 0) s = .next (mailReply { s with sched := { s.sched with pool := some (arg a 0, arg a 1) } } 0 0)) ∧
  (∀ (s : State) (a : List W64) (b : List Byte), Asks s 0 5 a true → arg a 0 < 64 →
    hostTable s (s.conf.ftbase.toNat + 128 * arg a 0) 128 = some b →
    funcBad s (arg a 0) (funcOf (s.func (arg a 0)) b) = false → funcBusy s (arg a 0) (funcOf (s.func (arg a 0)) b) = false →
    exec (.fset 0) s = .next (mailReply (applyFunc s (arg a 0) (funcOf (s.func (arg a 0)) b)) 0 0)) ∧
  (∀ (s : State) (a : List W64) (b : List Byte), Asks s 0 6 a true → arg a 0 < 64 →
    hostTable s (s.conf.wtbase.toNat + 64 * arg a 0) 64 = some b → s.worlds.get? (arg a 0) = none → recNat b 0 2 ≠ 0 →
    worldBad s (arg a 0) (worldOf none b []) = false →
    ∀ card, templateAt s (recNat b 2 2) (BitVec.ofNat 64 (recNat b 32 8)) = some card →
      exec (.wset 0) s = .next (mailReply { s with worlds := s.worlds.ins (arg a 0) (worldOf none b card) } 0 0)) ∧
  (∀ (s : State) (f : Nat) (a : List W64) (h : Bool), Asks s f 7 a h → (h = true ∧ f = 0 ∨ arg a 1 = f) → arg a 0 = 1 → arg a 1 < 64 →
    (s.func (arg a 1)).valid = true → s.tracers = [] →
    exec (.dbgclaim f) s = .next (mailReply { s with tracers := [(0, { vf := arg a 1, h := h && f == 0, susp := none })] } f 0)) ∧
  (∀ (s : State) (f : Nat) (a : List W64), Asks s f 8 a false → arg a 1 = f → f < 64 → arg a 0 = 1 →
    s.tracers = [(0, { vf := f, h := false, susp := none })] →
    exec (.dbgfree f) s = .next (mailReply { s with tracers := [] } f 0)) ∧
  (∀ (s : State) (f code : Nat) (a : List W64) (h : Bool) (i : Instr), Asks s f code a h → f ≠ 0 ∨ h = false →
    (i, code) ∈ [(.qset f, 1), (.filter f, 2), (.savepool f, 4), (.fset f, 5), (.wset f, 6)] →
    exec i s = .next (mailReply s f 1)) ∧
  (∀ (s : State) (f st : Nat), ∃ t, mailReply s f st = msixEvent t f 3 ∧ OnlyFunc s t f ∧
    t.func f = { s.func f with mbox := { (s.func f).mbox with
      rstat := BitVec.ofNat 32 st, rtoken := (s.func f).mbox.token, pending := false, req := none } })

/-! ## Peers -/

/-- The state once a flit has arrived on a link: the next LSEQ is expected, and no replay (18 R398). -/
def Sys2Proof.Machine.gotFlit (s : State) (link : Nat) (f : Flit) : State :=
  { s with links := Tab.put default s.links link { Tab.get default s.links link with expect := f.lseq + 1, replays := 0 } }

/-- A sound flit of a type arrives in order on a link that is up, for this node (18 R397, R398). -/
structure Sys2Proof.Machine.Arrives (s : State) (link : Nat) (f : Flit) (type : Nat) : Prop where
  up : link < 16 ∧ s.rdy.links.getLsbD link = true
  crc : f.crcOk = true
  inOrder : f.lseq = (Tab.get default s.links link).expect
  flags : f.flags.toNat < 4
  kind : f.type.toNat = type
  mine : f.dst.toNat = s.conf.nodeid

/-- A request's source is one this node may answer: function vf of INB, an aligned address of HBM4, a link that is up (18 R396). -/
structure Sys2Proof.Machine.Inbound (s : State) (f : Flit) (vf l : Nat) : Prop where
  party : Tab.get 0xFF s.conf.inb f.src.toNat = vf ∧ vf < 64
  line : f.addr.toNat % 64 = 0 ∧ f.addr.toNat < hbmEnd
  route : linkOf s f.src.toNat = some l ∧ s.rdy.links.getLsbD l = true

/-- Flits (18 R396 to R399, R417): a WRITE's bytes named by BMASK are written and a CREDIT answers; a READ is answered with its line,
an ATOMIC with the old value; an answer reaches the request it names; one for another node is forwarded; after a CRC mismatch a replay
is asked for. -/
def Sys2Proof.Machine.SaysPeerFlitsActedOn : Prop :=
  (∀ (s : State) (k : Nat) (x : BitVec 1024) (f : Flit) (vf l : Nat), f = flitOf x → Arrives s k f 1 → Inbound s f vf l → Untraced s →
    s.writable (.fn vf .u) f.addr.toNat = true → f.data.length = 64 →
    ∃ t m, exec (.flitWrite k x) s = .next t ∧ t.outbox = s.outbox ++ [.flit l (flitWire m)] ∧
      m.type = 6 ∧ m.tid = f.tid ∧ m.dst = f.src ∧
      ∀ a, memByte t.mem a = if f.addr.toNat ≤ a ∧ a < f.addr.toNat + 64 ∧ f.bmask.getLsbD (a - f.addr.toNat) = true
        then f.data.getD (a - f.addr.toNat) 0 else memByte s.mem a) ∧
  (∀ (s : State) (k : Nat) (x : BitVec 1024) (f : Flit) (vf l : Nat), f = flitOf x → Arrives s k f 2 → Inbound s f vf l →
    s.owned (.fn vf .u) f.addr.toNat = true → s.linePois f.addr.toNat = false →
    ∃ t m, exec (.flitRead k x) s = .next t ∧ t.outbox = s.outbox ++ [.flit l (flitWire m)] ∧ t.mem = s.mem ∧
      m.type = 3 ∧ m.tid = f.tid ∧ m.dst = f.src ∧ m.data = s.bytesAt f.addr.toNat 64) ∧
  (∀ (s : State) (k : Nat) (x : BitVec 1024) (f : Flit) (vf l o : Nat), f = flitOf x → Arrives s k f 4 → Inbound s f vf l → Untraced s →
    s.writable (.fn vf .u) f.addr.toNat = true → s.linePois f.addr.toNat = false → f.op < 11 → atomType (0xC0 + f.op) f.otype = true →
    (maskRuns f.bmask).head?.map Prod.fst = some o → o < 64 → o % (if type64 f.otype then 8 else 4) = 0 →
    ∃ t m rm, exec (.flitAtomic k x) s = .next t ∧ t.outbox = s.outbox ++ [.flit l (flitWire m)] ∧
      let n := if type64 f.otype then 8 else 4
      let r := atomOn (0xC0 + f.op) f.otype rm (leNat (s.bytesAt (f.addr.toNat + o) n)) f.opnd.toNat f.opnd2.toNat false
      m.type = 5 ∧ m.tid = f.tid ∧ m.dst = f.src ∧ m.opnd = BitVec.ofNat 64 r.old ∧
      ∀ a, memByte t.mem a = match r.new with
        | some x => if f.addr.toNat + o ≤ a ∧ a < f.addr.toNat + o + n then (leBytes n x).getD (a - (f.addr.toNat + o)) 0
            else memByte s.mem a
        | none => memByte s.mem a) ∧
  (∀ (s : State) (k : Nat) (x : BitVec 1024) (f : Flit) (q : PeerReq), f = flitOf x → Arrives s k f 3 → s.peer? f.tid f.src 2 = some q → q.who = none →
    exec (.flitReadrsp k x) s = .next { gotFlit s k f with
      peers := s.peers.map (fun p => if p.tid = q.tid then { p with got := some (some f.data) } else p) }) ∧
  (∀ (s : State) (k : Nat) (x : BitVec 1024) (f : Flit) (q : PeerReq) (c w : Nat) (v : Wave) (o : Op) (l : LaneOp), f = flitOf x → Arrives s k f 3 →
    s.peer? f.tid f.src 2 = some q → q.op? s = some (c, w, v, o) → sentLanes o q.tid = [l] →
    exec (.flitReadrsp k x) s = .next (settleLane (deliver (dropReq (gotFlit s k f) q) c w o.id o l v.vf
      ((f.data.drop (l.va.toNat % 64)).take (readSize o)) false) c w o.id l.lane)) ∧
  (∀ (s : State) (k : Nat) (x : BitVec 1024) (f : Flit) (q : PeerReq) (c w : Nat) (v : Wave) (o : Op) (l : LaneOp), f = flitOf x → Arrives s k f 5 →
    s.peer? f.tid f.src 4 = some q → q.op? s = some (c, w, v, o) → sentLanes o q.tid = [l] →
    exec (.flitAtomrsp k x) s = .next (atomEnd (dropReq (gotFlit s k f) q) c w o.id o l
      (atomOn o.opc (o.f.m 11 3) (o.f.m 0 3) (f.opnd.toNat % 2 ^ (8 * accSize o.opc o.f)) l.src.toNat l.src2.toNat false))) ∧
  (∀ (s : State) (k : Nat) (x : BitVec 1024) (f : Flit), f = flitOf x → Arrives s k f 6 → s.peer? f.tid f.src 1 = none →
    ∃ t, exec (.flitCredit k x) s = .next t ∧ t = { s with links := t.links } ∧
      Tab.get default t.links k = { Tab.get default s.links k with
        expect := f.lseq + 1, replays := 0, credits := (Tab.get default s.links k).credits + 1 } ∧
      ∀ j, j ≠ k → Tab.get default t.links j = Tab.get default s.links j) ∧
  (∀ (s : State) (k : Nat) (x : BitVec 1024) (f : Flit) (q : PeerReq), f = flitOf x → Arrives s k f 7 →
    s.peers.find? (fun q => q.tid == f.tid.toNat && q.got.isNone) = some q → q.who = none → q.cmd ≠ none → q.chunk = none →
    exec (.flitNak k x) s = .next { gotFlit s k f with
      peers := s.peers.map (fun p => if p.tid = q.tid then { p with got := some none } else p) }) ∧
  (∀ (s : State) (k l : Nat) (x : BitVec 1024) (f : Flit) (i : Instr), f = flitOf x → k < 16 → s.rdy.links.getLsbD k = true → f.crcOk = true →
    f.lseq = (Tab.get default s.links k).expect → f.flags.toNat < 4 → f.dst.toNat ≠ s.conf.nodeid →
    linkOf s f.dst.toNat = some l → s.rdy.links.getLsbD l = true →
    (i, f.type.toNat) ∈ [(.flitWrite k x, 1), (.flitRead k x, 2), (.flitReadrsp k x, 3), (.flitAtomic k x, 4),
      (.flitAtomrsp k x, 5), (.flitCredit k x, 6), (.flitNak k x, 7)] →
    exec i s = .next (sendFlit (gotFlit s k f) l f)) ∧
  (∀ (s : State) (k : Nat) (x : BitVec 1024) (f : Flit) (i : Instr), f = flitOf x → k < 16 → s.rdy.links.getLsbD k = true → f.crcOk = false →
    i ∈ [.flitWrite k x, .flitRead k x, .flitReadrsp k x, .flitAtomic k x, .flitAtomrsp k x, .flitCredit k x, .flitNak k x] →
    exec i s = .next (askReplay s k))

/-- LINK_RETRAINED and PEER_TIMEOUT (18 R398, R409, R417): the link's readiness bit and vector 5; after 2^24 fc without an answer the
request fails: an engine's read gives no bytes, an acknowledgement no one waits for is forgotten. -/
def Sys2Proof.Machine.SaysLinksAndTimeouts : Prop :=
  (∀ (s : State) (k : Nat), k < 16 → s.rdy.links.getLsbD k = false → exec (.linkRetrained k) s =
    .next (msixEvent { s with rdy := { s.rdy with links := s.rdy.links ||| (1 : BitVec 16) <<< k } } 0 5)) ∧
  (∀ (s : State) (n : Nat) (q : PeerReq), s.peers.find? (fun q => q.tid == n && q.got.isNone) = some q → q.since + 2 ^ 24 ≤ s.fc →
    exec (.peerTimeout n) s = .next (failReq s q 3)) ∧
  (∀ (s : State) (n : Nat) (q : PeerReq), s.peers.find? (fun q => q.tid == n && q.got.isNone) = some q → q.since + 2 ^ 24 ≤ s.fc →
    q.who = none → q.cmd ≠ none → q.chunk = none → exec (.peerTimeout n) s = .next
    { s with peers := s.peers.map (fun p => if p.tid = q.tid then { p with got := some none } else p) }) ∧
  (∀ (s : State) (n : Nat) (q : PeerReq), s.peers.find? (fun q => q.tid == n && q.got.isNone) = some q → q.since + 2 ^ 24 ≤ s.fc →
    q.who = none → q.cmd = none → exec (.peerTimeout n) s = .next (dropReq s q))

/-- The peer links (18 R396 to R399, R409, R417). [model choice: log 122, 124, 125] -/
def Obligations.PeerFlitsAndLinks : Prop := SaysPeerFlitsActedOn ∧ SaysLinksAndTimeouts

/-! ## Events of waves and gangs -/

/-- The barrel comes to a wave whose 32 lanes stand at one PC, held by nothing, whose block the L0 holds whole with no flag of WAIT raised
and room in the engine queues (01 R12, R13, R15, R16): a run of all of them begins at the block's first word, and the barrel moves on. -/
def Sys2Proof.Machine.BarrelStartsRun : Prop :=
  ∀ (s : State) (c q : Nat) (t : Slot) (y : Lane) (b : Block), q < 4 → (s.core c).quarters.length = 4 → (s.quarter c q).run = none →
    (s.quarter c q).slot < 16 → s.slot? c (16 * q + (s.quarter c q).slot) = some t → t.parked = false → t.drains = false →
    t.wave.ops = [] → t.wave.spillLog = [] → t.wave.stack = [] → t.wave.refill = none → t.wave.lanes = List.replicate 32 y →
    y.exited = false → y.stopped = false → y.holds = [] → y.held = none → y.check = .none → (s.func t.wave.vf).dbg.stopen = false →
    l0Block (s.core c) t.wave.vf (y.level == .u) y.pc t.wave.vgran = some b → b.words ≠ [] →
    (∀ n, n < 12 → (hdrWait b.hdr).getLsbD n = true → t.wave.flags.getD n 0 = 0) →
    queuesOk (s.core c) t.wave.gang b.words (reserved (s.core c)).1 (reserved (s.core c)).2.1 (reserved (s.core c)).2.2 = true →
    ∃ u r g, exec (.barrelVisit c q) s = .next u ∧ u.mem = s.mem ∧
      u.quarter c q = { slot := ((s.quarter c q).slot + 1) % 16, run := some r } ∧
      r.wave = 16 * q + (s.quarter c q).slot ∧ r.idx = 0 ∧ r.port = 0 ∧ r.groups = [g] ∧
      g.mask = 0xFFFFFFFF ∧ g.pro = y.pc ∧ g.level = y.level ∧ g.hdr = b.hdr ∧ g.words = b.words

/-- A wave's last spilled entry is read back from RSBASE where the TLB translates its page and nothing of it is queued, cached or poisoned
(07 R158, R159): the entry's RPC and mask go below those on chip, none is left spilled, and the lanes released are held no more. -/
def Sys2Proof.Machine.RefillBringsEntryBack : Prop :=
  ∀ (s : State) (c w a : Nat) (t : Slot) (r : Refilling) (e : TlbEnt), s.slot? c w = some t → t.wave.spillLog = [] →
    t.wave.refill = some r → r.tickets = [] → r.log = .none → r.from_ = 1 → t.wave.spilled = 1 → t.wave.stack.length < 16 →
    tlbFind s (some c) t.wave.vf t.wave.rsbase.toNat (accR .g) = some e → e.elide = false → e.apply t.wave.rsbase.toNat = a →
    s.owned (.fn t.wave.vf (t.wave.row .g)) a = true → a % 16 = 0 → s.linePois a = false → (s.core c).l1 = [] → (s.core c).wq = [] →
    ∃ u, exec (.reconvRefillComplete c w) s = .next u ∧ u.mem = s.mem ∧
      u.slot? c w = some { t with wave := { t.wave with
        stack := t.wave.stack ++ [{ rpc := BitVec.ofNat 64 (leNat (s.bytesAt a 8)), mask := BitVec.ofNat 32 (leNat (s.bytesAt (a + 8) 4)) }],
        spilled := 0, refill := none } }

/-- A block of at most three words at the start of a line, for lanes that nothing holds, is brought to the L0 from where the TLB translates
its PC (06 R130, R134, R135): it then lies there with the header, the landing word and the words that memory holds. -/
def Sys2Proof.Machine.FetchBringsBlock : Prop :=
  ∀ (s : State) (c w a : Nat) (pc : W64) (t : Slot) (lv : Level) (e : TlbEnt), s.slot? c w = some t → (s.core c).l0 = [] →
    fetchLanes s t.wave pc lv ≠ [] → anyRetried t.wave (fetchLanes s t.wave pc lv) = false →
    (∀ s' m, m ≠ lv → fetchLanes s' t.wave pc m = []) →
    pc.toNat % 64 = 0 → canonical pc = true → inWindow pc = false → inHeap pc = false →
    tlbFind s (some c) t.wave.vf pc.toNat (accX lv) = some e → e.elide = false → e.apply pc.toNat = a → a % 64 = 0 →
    s.owned (.fn t.wave.vf (t.wave.row lv)) a = true →
    let h : W64 := BitVec.ofNat 64 (leNat (s.bytesAt a 8))
    let l : W64 := BitVec.ofNat 64 (leNat (s.bytesAt (a + 8) 8))
    prologueBad h l t.wave.vgran = false → hdrLen h ≤ 3 →
    ∃ u, exec (.blockFetchComplete c w pc) s = .next u ∧ u.mem = s.mem ∧ u.slot? c w = some t ∧
      ∃ b, l0Block (u.core c) t.wave.vf (lv == .u) pc t.wave.vgran = some b ∧ b.hdr = h ∧ b.land = l ∧
        b.words = (List.range (hdrLen h)).map (fun i => BitVec.ofNat 128 (leNat (s.bytesAt (a + 16 + 16 * i) 16)))

/-- The barrel, refills, fetches, deadlines, completions and the gather of QUANTUM adds (01 R16; 03 R61; 04 R103; 06 R134; 07 R159;
08 R175; 09 R200, R215). -/
def Sys2Proof.Machine.SaysWaveEventsComplete : Prop :=
  (∀ (s : State) (c q : Nat), q < 4 → (s.quarter c q).run = none →
    let w := 16 * q + (s.quarter c q).slot
    let s' := s.modQuarter c q (fun t => { t with slot := ((s.quarter c q).slot + 1) % 16 })
    (s.slot? c w = none → exec (.barrelVisit c q) s = .next s') ∧
    (∀ t, s.slot? c w = some t → t.wave.ops = [] → t.wave.spillLog = [] →
      exec (.barrelVisit c q) s = .next (if t.parked then countEvent s' (clusterOf c) t.wave.vf 4 1 else visitWave s' c w))) ∧
  RefillBringsEntryBack ∧ BarrelStartsRun ∧ FetchBringsBlock ∧
  (∀ (s : State) (c w : Nat) (pc : W64) (t : Slot) (lv : Level), s.slot? c w = some t → fetchLanes s t.wave pc lv ≠ [] →
    (∀ s' m, m ≠ lv → fetchLanes s' t.wave pc m = []) →
    let ls := fetchLanes s t.wave pc lv
    let r := fetchBlock s c t.wave lv pc (anyRetried t.wave ls)
    let then_ := fun (hs : List Hold) => ls.foldl (fun s l => s.modLane c w l (fun x => { x with holds := x.unfetch.holds ++ hs })) r.1
    (r.2 = some [] → exec (.blockFetchComplete c w pc) s = .next (then_ [])) ∧
    (r.2 = none → exec (.blockFetchComplete c w pc) s = .next (then_ [.refused])) ∧
    (∀ k ks, r.2 = some (k :: ks) → exec (.blockFetchComplete c w pc) s = .next (then_ [.fetch (k :: ks)]))) ∧
  (∀ (s : State) (c w l : Nat) (t : Slot) (y : Lane) (d : W64), s.slot? c w = some t → t.wave.lanes[l]? = some y →
    .sleep d ∈ y.holds → d ≤ (s.core c).clock → ∃ u, exec (.sleepExpiry c w l) s = .next u ∧ u = { s with cores := u.cores } ∧
      (∀ k, k ≠ c → u.core k = s.core k) ∧ (∀ v, v ≠ w → u.slot? c v = s.slot? c v) ∧
      u.slot? c w = some { t with wave := { t.wave with lanes := listSet t.wave.lanes l { y with
        holds := y.holds.filter (fun h => match h with | .sleep e => decide ((s.core c).clock < e) | _ => true) } } }) ∧
  (∀ (s : State) (c w : Nat) (t : Slot) (o : Op) (l : LaneOp), s.slot? c w = some t → t.wave.ops = [o] → o.lanes = [l] →
    0xA0 ≤ o.opc → o.opc < 0xC0 → o.log = .none → l.st = .known → ∃ u, exec (.memoryOpComplete c w o.id l.lane) s = .next u ∧
      u = { s with cores := u.cores } ∧ (∀ k, k ≠ c → u.core k = s.core k) ∧ (∀ v, v ≠ w → u.slot? c v = s.slot? c v) ∧
      u.slot? c w = some { t with wave :=
        ((({ t.wave with regs := t.wave.regs.writes (o.writes.filter (RegWrite.inLane l.lane)), ops := [] } : Wave).orWstat o.exc).lower
          o.flag) }) ∧
  (∀ (s : State) (c w : Nat) (t : Slot) (o : Op), s.slot? c w = some t → t.wave.ops = [o] → o.opc / 16 = 8 ∨ o.opc / 16 = 9 →
    runningWave s c w = false → ∃ u, exec (.conversionComplete c w o.id) s = .next u ∧
      u = { s with cores := u.cores } ∧ (∀ k, k ≠ c → u.core k = s.core k) ∧ (∀ v, v ≠ w → u.slot? c v = s.slot? c v) ∧
      u.slot? c w = some { t with wave :=
        ((({ t.wave with regs := t.wave.regs.writes o.writes, ops := [] } : Wave).orWstat o.exc).lower o.flag) }) ∧
  (∀ (s : State) (n : Nat) (q : QuantAdd), q ∈ (s.cluster n).quant → Untraced s →
    (∀ x, x ∈ (s.cluster n).quant → x.spa = q.spa ∧ x.n64 = q.n64 ∧ quantMay s x = true) → s.linePois q.spa = false →
    ∃ t, exec (.quantumGather n) s = .next t ∧
      let k := if q.n64 then 8 else 4
      let v := leNat (s.bytesAt q.spa k) + ((s.cluster n).quant.map QuantAdd.amount).sum
      ∀ a, memByte t.mem a = if q.spa ≤ a ∧ a < q.spa + k then (leBytes k (v % 2 ^ (8 * k))).getD (a - q.spa) 0 else memByte s.mem a)

/-- The one wave of a unit is created (01 R18, R19, R28): all 32 threads at ENTRY, u0:u1 the record's argument address, u2 its index, u3 the
wave's number in its gang; every barrier at phase 0 with one arrival expected; the card has one unit more in flight. -/
def Sys2Proof.Machine.GangStartsWave : Prop :=
  ∀ (s : State) (c f r w : Nat) (h : Chunk) (l : Launch) (k : Card) (zs : List Nat), (s.core c).vf = some f →
    (startOrder s c).find? (fun x => unitStarts s c f x.2.2) = some (h, r, l) → s.card? h.q h.seq = some k → l.isTeam = false →
    l.winit = 1 → roomFor (s.core c) l.vgran l.aregs 1 = some ([w], zs) → s.slot? c w = none → s.gang? c (freeGang s c) = none →
    ∃ u t g, exec (.gangCreate c) s = .next u ∧ u.mem = s.mem ∧ u.slot? c w = some t ∧ t.wave.gang = freeGang s c ∧
      t.wave.lanes.length = 32 ∧ (∀ x, x ∈ t.wave.lanes → x.pc = l.entry ∧ x.exited = false ∧ x.check = .none ∧
        x.level = if (s.queue h.q).priv then .h else .u) ∧ t.wave.priv = (s.queue h.q).priv ∧
      t.wave.regs.read (.u 0) = (k.recAt r).setWidth 32 ∧ t.wave.regs.read (.u 1) = ((k.recAt r) >>> 32).setWidth 32 ∧
      t.wave.regs.read (.u 2) = BitVec.ofNat 32 r ∧ t.wave.regs.read (.u 3) = 0 ∧
      u.gang? c (freeGang s c) = some g ∧ g.members = [w] ∧ g.unit = some (h.q, k.seq, r) ∧ g.launch = l ∧
      g.bars = List.replicate 16 { ph := 0, e := 1, a := 0, held := [] } ∧
      (u.card? h.q h.seq).map Card.live = some (k.live + 1)

/-- A GATTACH of one wave that R24 admits (01 R19, R24; 09 R219): the wave stands in a free slot, its threads at the entry with a CALL
landing check, u0:u1 the gang's argument address, u2 the operand, u3 0, owing no arrival; the gang has it as a member; d is 1. -/
def Sys2Proof.Machine.AttachPlacesWave : Prop :=
  ∀ (s : State) (c w id x : Nat) (t : Slot) (o : Op) (l : LaneOp) (g : Gang) (zs : List Nat) (d : BitVec 11), s.slot? c w = some t →
    t.wave.op? id = some o → s.gang? c t.wave.gang = some g → g.id = t.wave.gang → o.opc = 0x19 → gated t.wave id none = false →
    releaseDone (s.core c) t.wave id 2 = true → firstOfGangOrder t.wave id = true → o.n = 1 → o.lanes = [l] → o.f.dst = .pred d →
    d.toNat < 15 → l.lane < 32 → attachRoom s c g 1 = some ([x], zs) → s.slot? c x = none →
    ∃ u v t', exec (.gangAttach c w id) s = .next u ∧ u.mem = s.mem ∧ u.slot? c x = some v ∧ v.wave.gang = g.id ∧
      v.wave.lanes.length = 32 ∧ (∀ y, y ∈ v.wave.lanes → y.pc = l.src2 ∧ y.exited = false ∧ y.check = .call ∧
        y.level = if g.priv then .h else .u) ∧ v.wave.priv = g.priv ∧
      v.wave.regs.read (.u 0) = g.args.setWidth 32 ∧ v.wave.regs.read (.u 1) = (g.args >>> 32).setWidth 32 ∧
      v.wave.regs.read (.u 2) = BitVec.ofNat 32 o.m ∧ v.wave.regs.read (.u 3) = 0 ∧ (∀ b, b ∈ v.wave.bars → b.owes = false) ∧
      (u.gang? c g.id).map Gang.members = some (setIns g.members x) ∧
      u.slot? c w = some t' ∧ t'.wave.op? id = none ∧ t'.wave.regs.read (.p d.toNat l.lane) = 1

/-- A wave whose threads have all exited leaves its gang (01 R20, R28): while others are in the gang it is a member no more, at barriers
where it owed nothing; the last one ends the gang, and its unit is finished. -/
def Sys2Proof.Machine.WaveLeavesGang : Prop :=
  ∀ (s : State) (c w : Nat) (t : Slot) (g : Gang), s.slot? c w = some t → mayLeave s c w t.wave = true → t.drain = none → t.watches = [] →
    (s.core c).tiles = [] → s.gang? c t.wave.gang = some g → g.id = t.wave.gang → t.wave.bars.length ≤ g.bars.length →
    ((∀ b, b ∈ t.wave.bars → b.owes = false) → (∀ b, b ∈ g.bars → b.held = [] ∧ b.a < b.e) → g.m ≠ 1 →
      ∃ u, exec (.gangLeave c w) s = .next u ∧ u.mem = s.mem ∧ u.slot? c w = none ∧ (∀ v, v ≠ w → u.slot? c v = s.slot? c v) ∧
        u.gang? c g.id = some { g with members := g.members.filter (· != w) }) ∧
    (∀ (q r : Nat) (n : W32) (k : Card), g.m = 1 → gangQuiet s c g = true → g.team = none → g.draws = [] → g.unit = some (q, n, r) →
      s.card? q n = some k →
      ∃ u, exec (.gangLeave c w) s = .next u ∧ u.mem = s.mem ∧ u.slot? c w = none ∧ (∀ v, v ≠ w → u.slot? c v = s.slot? c v) ∧
        u.gang? c g.id = none ∧ u.card? q n = some { k with finished := k.finished + 1, live := k.live - 1 })

/-- A wave that owes barrier b arrives there (01 R22, R23): one arrival more, and it owes none; where it was the last one expected of a gang
of one wave, the phase passes, and it owes one again. Its arrival counts toward the phase it found. -/
def Sys2Proof.Machine.ArrivalCounts : Prop :=
  ∀ (s : State) (c w b : Nat) (t : Slot) (o : Op) (g : Gang) (k : Bar) (x : WBar), s.slot? c w = some t → t.wave.ops = [o] →
    o.opc = 0x15 ∨ o.opc = 0x17 → o.n = b → releaseDone (s.core c) t.wave o.id (o.f.m 7 4) = true →
    s.gang? c t.wave.gang = some g → g.id = t.wave.gang → g.members = [w] → g.bars[b]? = some k → k.held = [] →
    t.wave.bars[b]? = some x → x.owes = true → x.holds = false →
    (k.a + 1 < k.e → ∃ u t', exec (.barrierArrival c w b) s = .next u ∧ u.mem = s.mem ∧
      u.gang? c g.id = some { g with bars := listSet g.bars b { k with a := k.a + 1 } } ∧ u.slot? c w = some t' ∧ t'.wave.ops = [] ∧
      t'.wave.bars = listSet t.wave.bars b { owes := false, holds := false, arph := k.ph, arrived := true }) ∧
    (k.a + 1 = k.e → g.savedMembers = [] → ∃ u t', exec (.barrierArrival c w b) s = .next u ∧ u.mem = s.mem ∧
      u.gang? c g.id = some { g with bars := listSet g.bars b { ph := k.ph + 1, e := 1, a := 0, held := [] } } ∧
      u.slot? c w = some t' ∧ t'.wave.ops = [] ∧
      t'.wave.bars = listSet t.wave.bars b { owes := true, holds := false, arph := k.ph, arrived := true })

/-- A stage of a ring begins for a wave's BEGIN (03 R75; 09 R222): FILLN or CONSN passes it, its slot is FILLING or DRAINING, and the pair
of uniform registers receives its offset in X and its number. -/
def Sys2Proof.Machine.StageBeginsForWave : Prop :=
  ∀ (s : State) (c i n w : Nat) (r : Ring) (p : Place) (q : List Place) (t : Slot) (o : Op) (l : LaneOp) (d : BitVec 11) (fill : Bool),
    (s.gang? c i).bind (fun g => g.rings[n]?) = some r → p.who = 0 → p.id = w → s.slot? c w = some t → p.op = t.wave.uid →
    t.wave.ops = [o] → o.opc = (if fill then 0x1C else 0x1D) → o.n = n → o.m = p.stage.toNat → o.lanes = [l] → o.f.dst = .uni d →
    d.toNat % 2 = 0 → d.toNat < 254 → r.slotOf p.stage < r.stages.length →
    (if fill then r.fills = p :: q ∧ p.stage - r.drainn < BitVec.ofNat 32 r.d
      else r.drains = p :: q ∧ r.live p.stage = true ∧ r.stage p.stage = .full) →
    ∃ u r' t', exec (.ringStageBegin c i n fill) s = .next u ∧ u.mem = s.mem ∧
      (u.gang? c i).bind (fun g => g.rings[n]?) = some r' ∧ r'.stage p.stage = (if fill then .filling else .draining) ∧
      (if fill then r'.filln = p.stage + 1 ∧ r'.fills = q else r'.consn = p.stage + 1 ∧ r'.drains = q) ∧
      u.slot? c w = some t' ∧ t'.wave.ops = [] ∧
      t'.wave.regs.read (.u d.toNat) = BitVec.ofNat 32 (r.offOf p.stage) ∧ t'.wave.regs.read (.u (d.toNat + 1)) = p.stage

/-- Gangs, barriers and rings (01 R18 to R22, R24, R29; 03 R76; 09 R218, R219, R222). [model choice: log 26, 52, 53] -/
def Obligations.GangEventsComplete : Prop :=
  GangStartsWave ∧ AttachPlacesWave ∧ WaveLeavesGang ∧ ArrivalCounts ∧ StageBeginsForWave ∧
  (∀ (s : State) (c f r : Nat) (h : Chunk) (l : Launch) (k : Card), (s.core c).vf = some f →
    (startOrder s c).find? (fun x => unitStarts s c f x.2.2) = some (h, r, l) → s.card? h.q h.seq = some k → l.isTeam = false →
    exec (.gangCreate c) s = .next (closeWindow (unitStarted (startGang ((takeHeld s c h.q h.seq r).modCard h.q h.seq (fun k =>
      { k with live := k.live + 1 })) c h.q k l r none) h.q [c]) h.q)) ∧
  (∀ (s : State) (c w id : Nat) (t : Slot) (o : Op) (g : Gang), s.slot? c w = some t → t.wave.op? id = some o →
    s.gang? c t.wave.gang = some g → o.opc = 0x19 → gated t.wave id none = false → releaseDone (s.core c) t.wave id 2 = true →
    firstOfGangOrder t.wave id = true →
    (o.n < 1 ∨ 63 < o.n ∨ attachRoom s c g o.n = none → exec (.gangAttach c w id) s = .next (s.modWave c w (fun v =>
      ({ v with regs := v.regs.writes (o.lanes.flatMap (fun (l : LaneOp) => wrBool o.f.dst l.lane false)) }).endOp id))) ∧
    (∀ ws zs, 1 ≤ o.n → o.n ≤ 63 → attachRoom s c g o.n = some (ws, zs) →
      exec (.gangAttach c w id) s = .next ((putWaves s c g ws zs (fun i =>
          { pc := (o.lanes.head?.map LaneOp.src2).getD 0, level := if g.priv then .h else .u, check := .call, s0 := g.args,
            s2 := BitVec.ofNat 32 o.m, s3 := BitVec.ofNat 32 i, owes := false })).modWave c w (fun v =>
        ({ v with regs := v.regs.writes (o.lanes.flatMap (fun (l : LaneOp) => wrBool o.f.dst l.lane true)) }).endOp id)))) ∧
  (∀ (s : State) (c w : Nat) (t : Slot) (g : Gang), s.slot? c w = some t → mayLeave s c w t.wave = true →
    s.gang? c t.wave.gang = some g →
    (g.m ≠ 1 → exec (.gangLeave c w) s = .next (endWave (detachAll s c w g t.wave) c w t)) ∧
    (g.m = 1 → gangQuiet s c g = true → exec (.gangLeave c w) s = .next (endGang (endWave s c w t) c g))) ∧
  (∀ (s : State) (c w b : Nat) (t : Slot) (o : Op), s.slot? c w = some t →
    t.wave.ops.find? (fun o => (o.opc == 0x15 || o.opc == 0x17) && o.n == b) = some o → gated t.wave o.id none = false →
    releaseDone (s.core c) t.wave o.id (o.f.m 7 4) = true → firstOfGangOrder t.wave o.id = true →
    (t.wave.bars.getD b default).holds = false →
    exec (.barrierArrival c w b) s = .next ((barArrive s c t.wave.gang t.wave.uid b).modWave c w (fun v =>
      (bindWaits v o.id b (v.bars.getD b default).arph).endOp o.id))) ∧
  -- a second arrival that has come to the gang order: its wave waits until the one it holds is applied (01 R22)
  (∀ (s : State) (c w b : Nat) (t : Slot) (o : Op), s.slot? c w = some t →
    t.wave.ops.find? (fun o => (o.opc == 0x15 || o.opc == 0x17) && o.n == b) = some o → gated t.wave o.id none = false →
    releaseDone (s.core c) t.wave o.id (o.f.m 7 4) = true → firstOfGangOrder t.wave o.id = true →
    (t.wave.bars.getD b default).holds = true →
    o.pause t.wave = { o with released := true, m := 1 } ∧
    (o.m ≠ 1 → exec (.barrierArrival c w b) s = .next (s.modWave c w (fun v => v.modOp o.id (fun p => p.pause t.wave)))) ∧
    (o.m = 1 → ∀ l, candidate t.wave l = false)) ∧
  (∀ (s : State) (c i n : Nat) (r : Ring) (p : Place) (q : List Place), (s.gang? c i).bind (fun g => g.rings[n]?) = some r →
    (r.fills = p :: q → p.stage - r.drainn < BitVec.ofNat 32 r.d →
      exec (.ringStageBegin c i n true) s = .next (stageTo (s.modRing c i n (fun r =>
        ({ (r.setStage p.stage .filling) with filln := p.stage + 1, fills := q } : Ring).note)) c n true p (stageWord r p.stage))) ∧
    (r.drains = p :: q → r.live p.stage = true → r.stage p.stage = .full →
      exec (.ringStageBegin c i n false) s = .next (stageTo (s.modRing c i n (fun r =>
        ({ (r.setStage p.stage .draining) with consn := p.stage + 1, drains := q } : Ring).note)) c n false p (stageWord r p.stage)))) ∧
  (∀ (s : State) (c : Nat), reviewDue (s.core c) = true → ∃ t, exec (.ringDepthReview c) s = .next t ∧ t = { s with cores := t.cores } ∧
    (∀ k, k ≠ c → t.core k = s.core k) ∧
    t.core c = { s.core c with gangs := (t.core c).gangs, reviewed := (t.core c).reviewed } ∧ reviewDue (t.core c) = false ∧
    ∀ i, t.gang? c i = (s.gang? c i).map (fun g => { g with rings := g.rings.map (fun r =>
      ({ r with
        d := if r.waited then min (r.d + 1) r.maxst else if r.low then r.d else max (r.d - 1) r.minst,
        waited := false, low := false } : Ring).note) }))

/-! ## Queues, the dealer, the Whisk and the Sieve's clockwork -/

/-- The dealer serves a core from a card without COORD whose pool is one range (01 R34; 15 R341): it cuts the first records of the pool, as
many as R34's formula says, and the core holds them as a chunk. -/
def Sys2Proof.Machine.DealCutsChunk : Prop :=
  ∀ (s : State) (c f q a z : Nat) (k : Card) (l : Launch), (s.core c).vf = some f → (s.core c).ready = true →
    (∀ p, p ∈ begunCards s f → ∀ l, p.2.launch = some l → l.coord = 0xFFFF) → requestsWork s c = true →
    lowestRequest s c = true → chooseCard s (s.core c).lastQ (dealable s f c) = some (q, k) → k.launch = some l → l.coord = 0xFFFF → s.card? q k.seq = some k → k.undealt = [(a, z)] → a < z →
    let e := k.divisor * max 1 (eligible s q k l c)
    let n := min (z - a) (max k.minchunk ((z - a + e - 1) / e))
    ∃ u, exec (.coreWorkRequest c) s = .next u ∧ u.mem = s.mem ∧ (u.core c).lastQ = q ∧
      (u.core c).held = (s.core c).held ++ [{ q := q, seq := k.seq, cls := (s.queue q).cls, recs := (List.range n).map (a + ·) }] ∧
      u.card? q k.seq = some { k with undealt := if a + n < z then [(a + n, z)] else [] }

/-- A card of KIND 0 begins (01 R25, R32; 15 R339, R340): read from its slot, waiting on no counter, with legal fields and a legal launch
record without rings: it has begun with that launch, and all its records are undealt. -/
def Sys2Proof.Machine.CardBegins : Prop :=
  ∀ (s s1 : State) (q : Nat) (k : Card) (ps : Pages) (b : List Byte) (m : List Nat), nextCard s q = some k → s.card? q k.seq = some k →
    k.read = true → k.unwritten = false → k.status = none → (s.queue q).names k.waitc = false → cardOk (s.queue q) k = true → k.kind = 0 →
    k.entry.toNat % 64 = 0 → k.count ≠ 0 → engRecord s (queueAt s q) k.waits k.entry.toNat 128 = (s1, ps, .ok b m) →
    s1.card? q k.seq = some k → launchOk s1 (s.queue q).owner b = true → launchRings b = 0 → recNat b 18 2 ≤ k.stride →
    ∃ u k' l, exec (.cardBegin q) s = .next u ∧ u.mem = s1.mem ∧ u.card? q k.seq = some k' ∧ k'.begun = true ∧
      k'.undealt = [(0, k.count)] ∧ k'.status = none ∧ k'.launch = some l ∧ l.entry = BitVec.ofNat 64 (recNat b 0 8) ∧ l.rings = [] ∧
      l.winit = recNat b 14 1

/-- The counter a card waits on is read at its word of HBM4 (15 R340): the card may go on when it is 0. -/
def Sys2Proof.Machine.CounterRead : Prop :=
  ∀ (s s1 : State) (q a : Nat) (k : Card) (ps : Pages), nextCard s q = some k → s.card? q k.seq = some k → k.read = true → k.polled = true →
    k.depOk = false → k.status = none → (s.queue q).names k.waitc = true → counterAt s q k.waitc k.waits = (s1, ps, .at_ (.hbm a)) →
    s1.card? q k.seq = some k → s1.linePois a = false →
    ∃ u, exec (.depctrPoll q) s = .next u ∧ u.mem = s1.mem ∧
      u.card? q k.seq = some { k with polled := true, depOk := leNat (s1.bytesAt a 4) == 0, waits := ps }

/-- The only card of a queue completes (01 R28, R33; 15 R338, R340): without DONE and SIGC nothing is written and the queue is empty, HEADSEQ
past it; where its status stands and DONE is due, TAG, the status and the units finished are written there. -/
def Sys2Proof.Machine.CardCompletes : Prop :=
  ∀ (s : State) (q : Nat) (n : W32) (k : Card), (s.queue q).cards = [k] → k.seq = n → k.closed = false → k.batch = none → k.mfe = none →
    (s.queue q).deadline = none → (s.queue q).withdrawn = false →
    (k.status = none → k.begun = true → k.live = 0 → unstarted s q k = false → jobReleased s q k = true → k.read = true →
      k.unwritten = false → (s.queue q).names k.sigc = false → k.done = 0 →
      ∃ u, exec (.jobComplete q n) s = .next u ∧ u.mem = s.mem ∧ (u.queue q).cards = [] ∧ (u.queue q).headseq = n + 1) ∧
    (∀ (s1 : State) (ps : Pages) (st a : Nat), k.status = some st → k.signalled = true → k.done ≠ 0 → k.done.toNat % 16 = 0 →
      engProbe s (queueAt s q) k.waits k.done 16 false = (s1, ps, .to (.hbm a)) → s1.queue q = s.queue q → Untraced s1 →
      ∃ u, exec (.jobComplete q n) s = .next u ∧ (u.queue q).cards = [] ∧ (u.queue q).headseq = n + 1 ∧
        ∀ x, memByte u.mem x = if a ≤ x ∧ x < a + 16
          then (leBytes 8 k.tag.toNat ++ leBytes 4 st ++ leBytes 4 k.finished).getD (x - a) 0 else memByte s1.mem x)

/-- The oldest reserved post is decided (15 R350): one that no filter admits is denied, its card completes without running, HEADSEQ past it;
one admitted whose card stands in its slot is done with. Neither poster asked for a record. -/
def Sys2Proof.Machine.PostDecided : Prop :=
  ∀ (s : State) (p : Post) (ps : List Post) (k : Card), s.sched.posts = p :: ps → s.rdy.sieve = true → recNat p.card 32 8 = 0 →
    (s.queue p.q).cards = [k] → k.seq = p.seq →
    (p.verdict = none → filterFor s p.poster p.q = none → k.closed = false → k.batch = none → k.mfe = none → (s.queue p.q).deadline = none →
      (s.queue p.q).withdrawn = false →
      ∃ u, exec .sievePostExamine s = .next u ∧ u.mem = s.mem ∧ u.sched.posts = ps ∧ (u.queue p.q).cards = [] ∧
        (u.queue p.q).headseq = p.seq + 1) ∧
    (p.verdict = some true → k.unwritten = false →
      exec .sievePostExamine s = .next { s with sched := { s.sched with posts := ps } })

/-- What GANG_CREATE, CORE_WORK_REQUEST, the Deckle and the cards' events do once what they need is there (01 R28, R33, R34; 10 R237;
15 R338 to R341, R350). [model choice: log 79, 80, 81, 84, 87] -/
def Obligations.QueueEventsComplete : Prop :=
  DealCutsChunk ∧ CardBegins ∧ CounterRead ∧ CardCompletes ∧ PostDecided ∧
  (∀ (s : State) (c f q : Nat) (k : Card) (l : Launch), (s.core c).vf = some f → (s.core c).ready = true →
    (∀ p, p ∈ begunCards s f → ∀ l, p.2.launch = some l → l.coord = 0xFFFF) → requestsWork s c = true →
    lowestRequest s c = true → chooseCard s (s.core c).lastQ (dealable s f c) = some (q, k) → k.launch = some l →
    let rs := (poolFor s q k l c).take (chunkSize (poolFor s q k l c).length k.minchunk k.divisor (eligible s q k l c))
    exec (.coreWorkRequest c) s = .next ((s.modCard q k.seq (fun d => { d with undealt := rs.foldl rangesDrop d.undealt })).modCore c
      (fun x => { x with lastQ := q, held := x.held ++ [{ q := q, seq := k.seq, cls := (s.queue q).cls, recs := rs }] }))) ∧
  (∀ (s : State) (c d f f' : Nat), (s.core c).vf = some f → (∀ p, p ∈ begunCards s f → ∀ l, p.2.launch = some l → l.coord = 0xFFFF) →
    d < c → d ∈ s.cores.map Prod.fst → requestsWork s d = true → (s.core d).vf = some f' → dealable s f' d ≠ [] →
    (∀ r, r ∈ s.reqs → r.cluster ≠ 128) → exec (.coreWorkRequest c) s = .fault .notEnabled) ∧
  (∀ (s s' : State) (q : Nat) (k k' : Card), nextCard s q = some k → readSlot (writeSlot s q k.seq) q k.seq = s' →
    s'.card? q k.seq = some k' → k'.status = none → k'.read = true → (s'.queue q).names k'.waitc = false →
    exec (.cardBegin q) s = .next (beginCard s' q k.seq)) ∧
  (∀ (s : State) (q : Nat) (k c : Card), nextCard s q = some k → k.read = true → k.polled = true → k.depOk = false →
    (s.queue q).names k.waitc = true → (pollCounter s q k.seq).card? q k.seq = some c → c.status = none →
    exec (.depctrPoll q) s = .next (pollCounter s q k.seq)) ∧
  (∀ (s : State) (q : Nat) (n : W32) (k : Card), s.card? q n = some k → k.closed = false → k.status = none → k.begun = true →
    k.live = 0 → unstarted s q k = false → jobReleased s q k = true → k.read = true → k.unwritten = false →
    exec (.jobComplete q n) s = .next (completeCard s q n)) ∧
  (∀ (s : State) (q : Nat) (n : W32) (k : Card), s.card? q n = some k → k.closed = false → k.status ≠ none →
    exec (.jobComplete q n) s = .next (endWithdraw (finishCard s q n) q)) ∧
  (∀ (s : State) (p : Post) (ps : List Post), s.sched.posts = p :: ps → s.rdy.sieve = true →
    (p.verdict = some true → exec .sievePostExamine s = .next (finishPost s p)) ∧
    (p.verdict = some false → exec .sievePostExamine s = .next (posterRecord s p false)) ∧
    (p.verdict = none → filterFor s p.poster p.q = none → exec .sievePostExamine s =
      .next (posterRecord (denyPost (putPost s (some { p with verdict := some false })) { p with verdict := some false })
        { p with verdict := some false } false)) ∧
    (∀ i e s' p', p.verdict = none → filterFor s p.poster p.q = some (i, e) → e.openMsgs < e.mcap →
      (s.queue p.q).withdrawals = p.withdrawals → placeMessage s p i e = (s', p') → p'.verdict = some true →
      exec .sievePostExamine s = .next (finishPost (putPost s' (some p')) p'))) ∧
  (∀ (s : State) (d r : Nat) (k : Card) (rs : List Nat) (u : DkUnit) (us : List DkUnit), s.deckle d = u :: us → u.recs = r :: rs →
    u.run = none → s.card? u.q u.seq = some k →
    exec (.deckleWorkRequest d) s = .next ((({ s with nextUid := s.nextUid + 1 } : State).modCard u.q u.seq (fun k =>
      { k with live := k.live + 1 })).setDeckle d ({ u with recs := rs, run := some (deckleCmd s u.q k r) } :: us))) ∧
  (∀ (s : State) (d q : Nat) (k : Card), s.deckle d = [] → chooseCard s 1023 (deckleCards s d) = some (q, k) →
    let n := ((List.range 16).filter (fun d => deckleServes s d (s.queue q).owner && s.deckle d == [])).length
    let rs := rangesTake k.undealt (chunkSize (rangesLen k.undealt) k.minchunk k.divisor n)
    exec (.deckleWorkRequest d) s = .next
      ((s.modCard q k.seq (fun c => { c with undealt := rs.foldl rangesDrop c.undealt })).setDeckle d
        [{ q := q, seq := k.seq, recs := rs, run := none }]))

/-- The Whisk's period while no core holds an undealt record (15 R343, R344): it reads every core's entry, issues no command, and its next
period is 4,096 fc on. -/
def Sys2Proof.Machine.WhiskReads : Prop :=
  ∀ s : State, s.rdy.whisk = true → s.sched.whiskFc + 4096 ≤ s.fc → (∀ p, p ∈ s.cores → p.2.held = []) →
    exec .whiskPeriod s = .next { s with sched := { s.sched with
      occupancy := s.cores.map (fun p => (p.1, occupancyOf s p.1)), whiskFc := s.sched.whiskFc + 4096 } }

/-- A core that holds two records of one card applies a command for one of them (15 R345): the higher one moves, and the command is done. -/
def Sys2Proof.Machine.WhiskMoves : Prop :=
  ∀ (s : State) (c d r1 r2 : Nat) (h : Chunk), (s.core c).migrate = some (d, 1) → c ≠ d → (s.core c).held = [h] → h.recs = [r1, r2] →
    r1 < r2 → migrateFrom (s.modCore c (fun k => { k with migrate := none })) c d = some h →
    ∃ u, exec (.whiskMigrate c) s = .next u ∧ u = { s with cores := u.cores } ∧
      u.core c = { s.core c with migrate := none, held := [{ h with recs := [r1] }] } ∧
      u.core d = { s.core d with held := (s.core d).held ++ [{ h with recs := [r2] }] } ∧
      ∀ x, x ≠ c → x ≠ d → u.core x = s.core x

/-- A phase of a time slice ends (16 R373): the other function is due on every ready core of a shared cluster, and the records those hold go
back to their pools. -/
def Sys2Proof.Machine.SliceTurns : Prop :=
  ∀ (s : State) (t : TimeSlice), s.sched.slice = some t → t.switching = false →
    t.began + (if t.on then (s.func t.vf).tson else (s.func t.vf).tsoff) ≤ s.ticks →
    let cs := (s.cores.map Prod.fst).filter (fun c => (s.core c).ready && s.sharedClusters.contains (clusterOf c))
    ∃ u, exec .timesliceSwitch s = .next u ∧ u.mem = s.mem ∧
      u.sched.slice = some { t with on := !t.on, began := s.ticks, todo := cs, switching := cs != [] } ∧
      ∀ c, u.core c = if c ∈ cs then { s.core c with held := [] } else s.core c

/-- The Whisk's period and migrations, deadline windows and time slices (15 R343 to R345, R348; 16 R373). [model choice: log 83, 105] -/
def Obligations.PeriodicEventsComplete : Prop :=
  WhiskReads ∧ WhiskMoves ∧ SliceTurns ∧
  (∀ s : State, s.rdy.whisk = true → s.sched.whiskFc + 4096 ≤ s.fc →
    let v := s.cores.map (fun p => (p.1, occupancyOf s p.1))
    let s' : State := { s with sched := { s.sched with occupancy := v, whiskFc := s.sched.whiskFc + 4096 } }
    exec .whiskPeriod s = .next ((migrations s' v).foldl (fun s m => s.modCore m.1 (fun k => { k with migrate := some m.2 })) s')) ∧
  (∀ (s : State) (c d n : Nat), (s.core c).migrate = some (d, n) →
    let s' := s.modCore c (fun k => { k with migrate := none })
    (migrateFrom s' c d = none → exec (.whiskMigrate c) s = .next s') ∧
    (∀ h rs, migrateFrom s' c d = some h → rs ≠ [] →
      rs = ((((s'.core c).held.filter (fun x => x.q == h.q && x.seq == h.seq)).flatMap Chunk.recs).mergeSort
        (fun a b => decide (b ≤ a))).take n →
      exec (.whiskMigrate c) s = .next ((rs.foldl (fun s r => takeHeld s c h.q h.seq r) s').modCore d (fun k =>
        { k with held := k.held ++ [{ h with recs := rs.reverse }] })))) ∧
  (∀ (s : State) (q t : Nat) (n : W32), (s.queue q).deadline = some (n, t) → s.sched.windows.contains q = false →
    t ≤ s.ticks + (s.queue q).lead → (∀ k, s.card? q n = some k → k.begun = false ∨ unstarted s q k = true) →
    exec (.deadlineWindowOpen q) s = .next { s with sched := { s.sched with
      windows := setIns s.sched.windows q, asked := s.sched.asked.filter (fun a => a.1 != q) } }) ∧
  (∀ (s : State) (t : TimeSlice), s.sched.slice = some t → t.switching = false →
    t.began + (if t.on then (s.func t.vf).tson else (s.func t.vf).tsoff) ≤ s.ticks →
    (∀ p, p ∈ s.cores → (s.core p.1).ready = false) →
    let u : TimeSlice := { t with on := !t.on, began := s.ticks, todo := [], switching := false }
    exec .timesliceSwitch s = .next { s with sched := { s.sched with slice := some u } }) ∧
  (∀ (s : State) (t : TimeSlice) (c : Nat), s.sched.slice = some t → t.switching = true → c ∈ t.todo →
    coreBusy (s.core c) = false → ∃ u, exec (.timesliceCorePass c) s = .next u ∧
      (u.core c).vf = some (if t.on then t.vf else 0) ∧ (u.core c).l0 = [] ∧ (u.core c).l1 = [] ∧ (u.core c).tlb = [] ∧
      (u.core c).w = [] ∧ (u.core c).x = [] ∧ (u.core c).z = [] ∧ u.mem = s.mem ∧
      u.sched.slice = some { t with todo := t.todo.filter (· != c), switching := t.todo.filter (· != c) != [] })

/-- The Sieve asks for a resident wave with a record of the save pool (14 R322, R323; 15 R348; 16 R373): the wave drains into the first frames
free, for a switch of time slices or for a queue's deadline window. -/
def Sys2Proof.Machine.SieveAsks : Prop :=
  ∀ (s : State) (c w f : Nat) (t : Slot), s.slot? c w = some t → t.drain = none →
    let n := (largestRecord s c t.wave + 65535) / 65536
    poolRoom s n = some f →
    (sliceAsks s c w = true → ∃ u, exec (.preemptRequest c w) s = .next u ∧ u.mem = s.mem ∧
      u.slot? c w = some { t with drain := some { addr := some (65536 * f), req := none, reason := 2, q := 0, parked := t.parked }, parked := false } ∧
      u.sched.poolUsed = s.sched.poolUsed ++ (List.range n).map (f + ·)) ∧
    (∀ q l, sliceAsks s c w = false → windowAsks s c w = some (q, l) → ∃ u, exec (.preemptRequest c w) s = .next u ∧ u.mem = s.mem ∧
      u.slot? c w = some { t with drain := some { addr := some (65536 * f), req := none, reason := 1, q := q, parked := t.parked }, parked := false } ∧
      u.sched.poolUsed = s.sched.poolUsed ++ (List.range n).map (f + ·))

/-- A wave that the Sieve asked for and that has quiesced is saved (14 R324, R327, R329): it leaves its slot, its record begins with FORMAT,
the core, the slot and the gang, and its gang counts it among its saved members; the last resident one takes its gang off the core. -/
def Sys2Proof.Machine.WaveSaved : Prop :=
  ∀ (s : State) (c w a : Nat) (t : Slot) (d : Drain) (g : Gang) (last : Bool), s.slot? c w = some t → t.drain = some d →
    d.addr = some a → d.req = none → s.gang? c t.wave.gang = some g → saveNext s c w = true → (last = true ↔ g.members = [w]) →
    let p := savedOf s c w t a d.reason last
    let size := p.size g.launch
    hostFrames s a size = true → besideTable s a (saveBytes s p size).length = true →
    (last = true → besideTable s (a + alignUp p.map.stop 4096) (gangBytes s c g).length = true) →
    ∃ u, exec (if last then .gangRecordSave c t.wave.gang else .waveQuiesce c w) s = .next u ∧ u.slot? c w = none ∧
      u.sched.saved = s.sched.saved ++ [p] ∧ p.wave.uid = t.wave.uid ∧ p.wave.regs = t.wave.regs ∧ p.addr = a ∧
      (List.range 8).map (fun i => memByte u.mem (a + i)) = leBytes 4 1 ++ leBytes 2 c ++ leBytes 1 w ++ leBytes 1 t.wave.gang ∧
      u.gang? c t.wave.gang = if last then none
        else some { g with members := g.members.filter (· != w), savedMembers := g.savedMembers ++ [t.wave.uid] }

/-- A wave with a due stop whose lanes have all stopped parks while no trace unit is bound to its function (17 R377): its registers are as
they were, its due stops are taken; one that a save waits for does not stay parked. -/
def Sys2Proof.Machine.WaveParks : Prop :=
  ∀ (s : State) (c w : Nat) (t : Slot), s.slot? c w = some t → t.stopping = true → t.parked = false → allStopped t.wave = true →
    t.wave.live ≠ 0 → runningWave s c w = false → t.watches = [] → s.tracers = [] →
    ∃ u, exec (.wavePark c w) s = .next u ∧ u.mem = s.mem ∧ (∀ v, v ≠ w → u.slot? c v = s.slot? c v) ∧
      u.slot? c w = some { t with stopping := false, parked := t.drain.isNone,
                                  wave := { t.wave with lanes := t.wave.lanes.map (fun x => { x with stops := 0 }) } }

/-- Saves and parks (14 R323, R324, R329; 15 R348; 16 R373; 17 R377, R382): a wave that quiesced goes into its record, with its gang's
record for the last one; a wave whose lanes have all stopped parks with its STOP record. [model choice: log 112, 28, 29, 111] -/
def Obligations.SavesAndParks : Prop :=
  SieveAsks ∧ WaveSaved ∧ WaveParks ∧
  (∀ (s : State) (c w : Nat) (t : Slot), s.slot? c w = some t → t.drain = none → sliceAsks s c w = true →
    ∀ u, poolRequest s c w t 2 0 = some u → exec (.preemptRequest c w) s = .next u) ∧
  (∀ (s : State) (c w q : Nat) (t : Slot), s.slot? c w = some t → t.drain = none → sliceAsks s c w = false →
    ∀ l, windowAsks s c w = some (q, l) → ∀ u, poolRequest (noteAsked s q c w l) c w t 1 q = some u →
      exec (.preemptRequest c w) s = .next u) ∧
  (∀ (s : State) (c w a : Nat) (t : Slot) (d : Drain) (g : Gang), s.slot? c w = some t → t.drain = some d → d.addr = some a →
    s.gang? c t.wave.gang = some g → saveNext s c w = true → g.members ≠ [w] →
    exec (.waveQuiesce c w) s = .next (saveWave s c w t d a false)) ∧
  (∀ (s : State) (c i w a : Nat) (t : Slot) (d : Drain), (s.gang? c i).map Gang.members = some [w] → s.slot? c w = some t →
    t.drain = some d → d.addr = some a → t.wave.gang = i → saveNext s c w = true →
    exec (.gangRecordSave c i) s = .next (saveWave s c w t d a true)) ∧
  (∀ (s : State) (c w : Nat) (t : Slot), s.slot? c w = some t → t.stopping = true → t.parked = false → allStopped t.wave = true →
    t.wave.live ≠ 0 → runningWave s c w = false → ∃ u, exec (.wavePark c w) s = .next u ∧
      u = (debugRecord (flushWatches s c w t) t.wave.vf (stopRec s c w t)).modSlot c w (fun t => { t with
        stopping := false, parked := t.drain.isNone,
        wave := { t.wave with lanes := t.wave.lanes.map (fun x => { x with stops := 0 }) } }))

/-! ## Events of the engines, the Stockpot and the passes -/

/-- A chunk of an accepted LFILL into a local buffer is written from the command's own value (04 R108; 10 R234, R240): it counts as done
with, and no byte of HBM4 changes. -/
def Sys2Proof.Machine.ChunkFills : Prop :=
  ∀ (s : State) (c id k : Nat) (q : LCmd), (s.core c).ladle.find? (fun q => q.id == id) = some q → q.accepted = true → q.refused = false →
    q.opc = 0xD6 → q.whole = false → q.stream = none → q.chunks.contains k = false → k < (jobOf c q).nChunk s → chunkFree s c (jobOf c q) k = true →
    (∀ p, p ∈ (jobOf c q).pieces s k → ∃ n b o, p.src = .own n ∧ p.dst = .loc b o) →
    ∃ u q', exec (.ladleChunkDone c id k) s = .next u ∧ u.mem = s.mem ∧ (u.core c).ladle.find? (fun q => q.id == id) = some q' ∧
      q'.chunks = setIns q.chunks k

/-- A Ladle command all of whose chunks are done with, not to a ring, completes (10 R226, R236): it leaves the queue, its wave counts it,
and its flag falls by one. -/
def Sys2Proof.Machine.LadleCompletes : Prop :=
  ∀ (s : State) (c id : Nat) (q : LCmd) (t : Slot), (s.core c).ladle.find? (fun q => q.id == id) = some q → q.opc ≠ 0xD5 →
    ladleDone s c (jobOf c q) = true → (∀ d, (jobOf c q).dst s = some d → d.space ≠ 4) → (s.core c).tiles = [] →
    s.slot? c q.by_.wave = some t → t.wave.uid = q.by_.uid →
    ∀ m, ∃ u t', exec (.ladleComplete c id m) s = .next u ∧ u.mem = s.mem ∧
      (u.core c).ladle = (s.core c).ladle.filter (fun p => p.id != id) ∧
      u.slot? c q.by_.wave = some t' ∧ t'.wave.lstat.done = t.wave.lstat.done + 1 ∧
      t'.wave.flags = (match q.by_.flag with | some n => listAdj t.wave.flags n (· - 1) | none => t.wave.flags) ∧
      t'.wave.regs = t.wave.regs

/-- A k-step of a started solo command whose operands stand in local buffers (10 R246, R249): the accumulators take what the k-step gives,
one k-step more is done, and T_DONE is now. -/
def Sys2Proof.Machine.KstepDone : Prop :=
  ∀ (s : State) (c id : Nat) (q : MCmd) (as bs : List MxEl), (s.core c).mx.find? (fun q => q.id == id) = some q → q.status = 0 →
    q.started = true → q.opc ≠ 0xDA → q.prog < q.ksteps → q.team = none → q.isTeam = false → q.stA = [] → q.stB = [] →
    mxReadable s c q false = true → mxReadable s c q true = true →
    mxOperand s c q false = (s, q, .ok as false) → mxOperand s c q true = (s, q, .ok bs false) →
    let fmt := fun (d : Option Side) => match d with | some d => d.fmt | none => 0
    let n := nRings s c q.by_.gang
    let r := mxCompute s c q (fmt (q.side false n)) (fmt (q.side true n)) as bs
    r.2.2 = false →
    ∃ u q', exec (.mxeKstep c id) s = .next u ∧ u.mem = s.mem ∧ (u.core c).z = (r.1.core c).z ∧
      (u.core c).mx.find? (fun q => q.id == id) = some q' ∧ q'.prog = q.prog + 1 ∧ q'.tDone = (s.core c).clock

/-- An MXE command that has done its k-steps completes (10 R243, R248, R250): it leaves the queue, its tile stands, its wave's MXSTAT takes its
bits, and its flag falls by one. -/
def Sys2Proof.Machine.MxeCompletes : Prop :=
  ∀ (s : State) (c id : Nat) (q : MCmd) (t : Slot), (s.core c).mx.find? (fun q => q.id == id) = some q → mxDone s c q = true →
    q.opc ≠ 0xDA → q.team = none → (∀ p, p ∈ (s.core c).mx → p.spilled = false ∧ p.ord ≤ q.ord) →
    s.slot? c q.by_.wave = some t → t.wave.uid = q.by_.uid →
    ∃ u t' r, exec (.mxeComplete c id) s = .next u ∧ u.mem = s.mem ∧
      (u.core c).mx = (s.core c).mx.filter (fun p => p.id != id) ∧ (u.core c).tiles = (s.core c).tiles ++ [r] ∧ r.cmd.id = q.id ∧
      u.slot? c q.by_.wave = some t' ∧ t'.wave.mstat.exc = t.wave.mstat.exc ||| q.exc ∧
      t'.wave.flags = (match q.by_.flag with | some n => listAdj t.wave.flags n (· - 1) | none => t.wave.flags) ∧
      t'.wave.regs = t.wave.regs

/-- The first query of the intake queue, read and legal, with a grid in G that nothing holds back, is accepted (11 R257, R265, R270, R271):
it is live, and its starting references are pending. -/
def Sys2Proof.Machine.QueryAccepted : Prop :=
  ∀ (s : State) (c : Nat) (q : Query) (qs : List Query), (s.core c).col.conts = [] → (s.core c).col.intake = q :: qs → q.qrec ≠ [] →
    (s.core c).col.live.length < 128 → engReady s c q.by_ = true → q.f.m 3 1 = 0 → q.beam ≠ [] →
    queryCodes s c { q with acquired := true } = [] → gridHeld s c { q with acquired := true } = false → q.rg = true →
    ∃ u q', exec (.colanderAccept c) s = .next u ∧ u.mem = s.mem ∧
      (u.core c).col.intake = (s.core c).col.intake.filter (fun p => p.qid != q.qid) ∧
      (u.core c).col.live = (s.core c).col.live ++ [q'] ∧ q'.qid = q.qid ∧ q'.code = q.code ∧
      (u.core c).col.beams.length = (s.core c).col.beams.length + (if q.opc = 0xE9 then q.rays else 1)

/-- A pending reference outside an instance is visited while its gang does not end (11 R265, R266): one that meets no present sub-ray is
dropped; one that is PART is split into halves one level deeper, in which every present sub-ray goes on. -/
def Sys2Proof.Machine.NodeVisited : Prop :=
  ∀ (s : State) (c id : Nat) (b : Beam) (q : Query), (s.core c).col.beams.find? (fun b => b.id == id) = some b →
    query? s c b.qid = some q → b.inst = none → b.child = false → b.start = false →
    (∀ g, s.gang? c q.by_.gang = some g → g.ending = false) →
    (b.cells q ≠ [] → b.classify q = .out → ∃ u, exec (.colanderNodeVisit c id) s = .next u ∧ u.mem = s.mem ∧
      (u.core c).col.beams = (s.core c).col.beams.filter (fun x => x.id != id)) ∧
    (b.cells q ≠ [] → b.classify q = .part → q.spol ≠ 2 → b.depth < q.maxd → ∃ u new, exec (.colanderNodeVisit c id) s = .next u ∧
      u.mem = s.mem ∧ (u.core c).col.beams = (s.core c).col.beams.filter (fun x => x.id != id) ++ new ∧
      (∀ x, x ∈ new → x.qid = b.qid ∧ x.ref = b.ref ∧ x.depth = b.depth + 1 ∧ b.x0 ≤ x.x0 ∧ x.x0 + x.cw ≤ b.x0 + b.cw ∧
        b.y0 ≤ x.y0 ∧ x.y0 + x.ch ≤ b.y0 + b.ch) ∧
      ∀ p, p ∈ b.cells q → ∃ x, x ∈ new ∧ p ∈ x.cells q)

/-- Engine commands go on and complete (04 R107 to R109; 10 R226, R234, R243, R246, R248; 11 R265, R267, R270 to R272). [model choice: log 56, 68, 70, 77] -/
def Obligations.EngineEventsComplete : Prop :=
  ChunkFills ∧ LadleCompletes ∧ KstepDone ∧ MxeCompletes ∧ QueryAccepted ∧ NodeVisited ∧
  (∀ (s : State) (c id : Nat) (q : LCmd), (s.core c).ladle.find? (fun q => q.id == id) = some q →
    (q.accepted = false → engReady s c q.by_ = true → ∀ k,
      ((∃ p, p ∈ (s.core c).ladle ∧ p.ord < q.ord ∧ p.accepted = false ∧ engReady s c p.by_ = true) →
        exec (.ladleChunkDone c id k) s = .next s) ∧
      ((∀ p, p ∈ (s.core c).ladle → p.ord < q.ord → p.accepted = false → engReady s c p.by_ = false) → exec (.ladleChunkDone c id k) s =
        .next (putJob (acceptJob s (jobOf c q)).1 c (acceptJob s (jobOf c q)).2))) ∧
    (q.accepted = true → ∀ k s' j, (q.refused = true ∨ chunkFree s c (jobOf c q) k = true) →
      chunkStep s (jobOf c q) k = some (s', j) → exec (.ladleChunkDone c id k) s = .next (putJob s' c j)) ∧
    (q.opc ≠ 0xD5 → ladleDone s c (jobOf c q) = true → ∀ m, exec (.ladleComplete c id m) s = .next (ladleEnd s c (jobOf c q)))) ∧
  (∀ (s : State) (c id : Nat) (q : MCmd), (s.core c).mx.find? (fun q => q.id == id) = some q →
    (q.accepted = false → engReady s c q.by_ = true → exec (.mxeCommandStart c id) s = .next (mxAccept s c id)) ∧
    (q.accepted = true → q.spilled = false → q.started = false → quiescing s c q.by_.uid = false → q.status = 0 →
      q.writes.any (writeHeld s c q.ord) = false → (q.opc = 0xDA ∨ mxReadable s c q false = true ∧ mxReadable s c q true = true) →
      exec (.mxeCommandStart c id) s = .next (s.modCore c (fun k => { k with mx := k.mx.map (fun p =>
        if p.id = id then { p with started := true, tIn := if p.prog = 0 then (s.core c).clock else p.tIn } else p) }))) ∧
    (q.status = 0 → q.started = true → q.opc ≠ 0xDA → q.prog < q.ksteps → teamMay s q = true →
      mxReadable s c q false = true → mxReadable s c q true = true →
      ∀ s1 q1 as pa s2 q2 bs pb, mxOperand s c q false = (s1, q1, .ok as pa) → mxOperandB s1 c q1 = (s2, q2, .ok bs pb) →
        exec (.mxeKstep c id) s = .next (mxDo s2 c q2 as bs (pa || pb))) ∧
    (mxDone s c q = true → exec (.mxeComplete c id) s = .next (mxEnd s c q))) ∧
  (∀ (s : State) (c : Nat) (q : Query) (qs : List Query), (s.core c).col.conts = [] → (s.core c).col.intake = q :: qs → q.qrec ≠ [] →
    (s.core c).col.live.length < 128 → engReady s c q.by_ = true → q.writes.any (writeHeld s c (s.core c).nextOrd) = false →
    exec (.colanderAccept c) s = .next (queryAccept s c q)) ∧
  (∀ (s : State) (c id : Nat) (b : Beam) (q : Query), (s.core c).col.beams.find? (fun b => b.id == id) = some b →
    query? s c b.qid = some q → b.inst = none →
    (b.cells q ≠ [] → b.child = true →
      exec (.colanderNodeVisit c id) s =
        .next (takeOpen (splitChild (dropBeam s c b.id) c q.qid { b with child := false }) c q.by_.gang)) ∧
    (b.cells q = [] ∨ (b.child = false ∧ b.start = false ∧ b.classify q = .out) →
      exec (.colanderNodeVisit c id) s = .next (takeOpen (dropBeam s c b.id) c q.by_.gang)) ∧
    (b.cells q ≠ [] → b.child = false → b.start = true ∨ b.classify q = .in_ →
      exec (.colanderNodeVisit c id) s = .next (takeOpen (descend s c (colAt c (beamIssuer s c q b) q.qid) q b) c q.by_.gang)) ∧
    (b.cells q ≠ [] → b.child = false → b.start = false → b.classify q = .part →
      exec (.colanderNodeVisit c id) s = .next (takeOpen (partVisit s c q b) c q.by_.gang))) ∧
  (∀ (s s1 s2 : State) (c n : Nat) (q : Query) (ps : Pages) (t : Target), query? s c (BitVec.ofNat 32 n) = some q →
    (∀ b, b ∈ (s.core c).col.beams → b.qid ≠ BitVec.ofNat 32 n) → q.open_ = 0 → queryWriting s c (BitVec.ofNat 32 n) = false →
    relDone s c (BitVec.ofNat 32 n) q.f = true → engProbe s (colAt c q.by_ (BitVec.ofNat 32 n)) q.waits (q.addr + 48) 16 false = (s1, ps, .to t) →
    engWrite s1 (colAt c q.by_ (BitVec.ofNat 32 n)) t (q.addr + 48) (queryStatus q) [] [] (1 + q.by_.vf) = (s2, none) →
    ∃ u, exec (.queryComplete c n) s = .next u ∧ (u.core c).col.live = (s2.core c).col.live.filter (fun p => p.qid != BitVec.ofNat 32 n) ∧
      (∀ v, findUid s2 c q.by_.wave q.by_.uid = some v → findUid u c q.by_.wave q.by_.uid = some (v.lower q.by_.flag)) ∧
      u.mem = s2.mem ∧ (u.core c).wq = (s2.core c).wq) ∧
  (∀ (s : State) (c id : Nat) (k : Cont) (q : Query), (s.core c).col.conts.find? (fun k => k.id == id) = some k → k.accepted = true →
    (∀ b, b ∈ (s.core c).col.beams → b.cont ≠ some id) → relDone s c k.qid k.f = true → query? s c k.qid = some q →
    ∃ u, exec (.beamcontComplete c id) s = .next u ∧
      (u.core c).col.conts = (s.core c).col.conts.filter (fun x => x.id != id) ∧
      (∀ v, findUid s c k.by_.wave k.by_.uid = some v → findUid u c k.by_.wave k.by_.uid = some (v.lower k.by_.flag)) ∧
      u.mem = s.mem)

/-- The answer of a lookup (12 R283): HIT with the slot, or DENIED with all ones, in the lane's pair of registers. -/
def Sys2Proof.Machine.LookupAnswers : Prop :=
  ∀ (s : State) (c w id lane : Nat) (t : Slot) (o : Op) (l : LaneOp) (d : BitVec 11), s.slot? c w = some t → t.wave.ops = [o] →
    o.id = id → o.opc = 0xE3 → o.lanes = [l] → l.lane = lane → l.st = .ready → o.f.m 0 1 = 0 → sliceReady s l.va = true →
    (s.slice (keySlice l.va)).rings = [] → (s.cluster (clusterOf c)).banks = [] → o.f.dst = .vec d → lane < 32 →
    (∀ (x : World) (n : Nat), s.world? t.wave.world = some x → s.granted t.wave.world t.wave.vf = true →
      (s.slice (keySlice l.va)).match? l.va t.wave.world = some n → ((s.slice (keySlice l.va)).tag n).state = 2 →
      ((s.slice (keySlice l.va)).tag n).gen = x.genOf (keyBucket l.va) →
      ∃ u t', exec (.stkLookup c w id lane) s = .next u ∧ u.mem = s.mem ∧ u.slot? c w = some t' ∧
        t'.wave.regs.read (.v d.toNat lane) = BitVec.ofNat 32 ((s.slice (keySlice l.va)).tag n).slot ∧
        t'.wave.regs.read (.v (d.toNat + 1) lane) = 0) ∧
    (s.granted t.wave.world t.wave.vf = false →
      ∃ u t', exec (.stkLookup c w id lane) s = .next u ∧ u.mem = s.mem ∧ u.slot? c w = some t' ∧
        t'.wave.regs.read (.v d.toNat lane) = 0xFFFFFFFF ∧ t'.wave.regs.read (.v (d.toNat + 1) lane) = 3)

/-- The oldest closed batch is posted into SHQ (12 R286; 15 R338): the queue takes a card of the batch, the copy is written into its slot in
HBM4, SEQ goes on, and the sub-ring keeps the batches behind it. -/
def Sys2Proof.Machine.BatchPosted : Prop :=
  ∀ (s s1 : State) (n world a : Nat) (r : SubRing) (b : Batch) (bs : List Batch) (ps : Pages),
    (s.slice n).rings.find? (fun r => r.world == world) = some r → r.waits = [] → r.open_ = none → r.closed = b :: bs →
    (s.queue b.shq).enabled = true → (s.queue b.shq).full = false → b.tmpl.length = 64 → s.card? b.shq (s.queue b.shq).seq = none →
    let s' := enterCard (putRing s n { r with closed := bs }) b.shq
      (fun k => { k with batch := some (n, world, b.addr, b.count) }) (batchCard b) true
    slotAt s' (queueAt s' b.shq) [] ((s'.queue b.shq).slotGpa (s.queue b.shq).seq) (accW (queueAt s' b.shq).by_.level) =
      (s1, ps, .at_ (.hbm a)) → s1.queue b.shq = s'.queue b.shq → s1.slice n = s'.slice n → Untraced s1 →
    ∃ u k, exec (.shadingBatchPost n world) s = .next u ∧ (u.queue b.shq).seq = (s.queue b.shq).seq + 1 ∧
      u.card? b.shq (s.queue b.shq).seq = some k ∧ k.bytes = batchCard b ∧ k.unwritten = false ∧
      k.batch = some (n, world, b.addr, b.count) ∧
      ((u.slice n).rings.find? (fun r => r.world == world)).map SubRing.closed = some bs ∧
      ∀ x, memByte u.mem x = if a ≤ x ∧ x < a + 64 then (batchCard b).getD (x - a) 0 else memByte s1.mem x

/-- A lane's STKDROP of an entry that is INFLIGHT with its slot and that no one waits for makes it INVALID; a STKFILL of it writes the slot's
512 bytes and makes it VALID; either answers 0 (12 R285). -/
def Sys2Proof.Machine.FillOrDropDone : Prop :=
  ∀ (s : State) (c w id lane n : Nat) (t : Slot) (o : Op) (l : LaneOp) (d : BitVec 11), s.slot? c w = some t → t.wave.ops = [o] →
    o.id = id → o.log = .none → o.writes = [] → o.lanes = [l] → l.lane = lane → l.st = .waiting → sliceReady s l.va = true →
    o.f.dst = .vec d → lane < 32 → s.granted t.wave.world t.wave.vf = true →
    (s.slice (keySlice l.va)).match? l.va t.wave.world = some n → ((s.slice (keySlice l.va)).tag n).state = 1 →
    ((s.slice (keySlice l.va)).tag n).slot = l.src.toNat % 2 ^ 32 → (s.slice (keySlice l.va)).waiters = [] →
    (o.opc = 0xE5 → ∃ u t', exec (.stkFillPerform c w id lane) s = .next u ∧ u.mem = s.mem ∧
      ((u.slice (keySlice l.va)).tag n).state = 0 ∧ u.slot? c w = some t' ∧ t'.wave.ops = [] ∧
      t'.wave.regs.read (.v d.toNat lane) = 0) ∧
    (o.opc = 0xE4 → Untraced s → o.bytes.length = 513 → l.src2 = 0 → o.bytes.getD 512 0 = 0 → s.conf.heapspa.toNat % 64 = 0 →
      let a := s.conf.heapspa.toNat + 512 * (l.src.toNat % 2 ^ 32)
      (∀ i, i < 8 → s.writable .host (a + 64 * i) = true) →
      ∃ u t', exec (.stkFillPerform c w id lane) s = .next u ∧ ((u.slice (keySlice l.va)).tag n).state = 2 ∧
        u.slot? c w = some t' ∧ t'.wave.ops = [] ∧ t'.wave.regs.read (.v d.toNat lane) = 0 ∧
        ∀ x, memByte u.mem x = if a ≤ x ∧ x < a + 512 then o.bytes.getD (x - a) 0 else memByte s.mem x)

/-- Stockpot lookups, posts, fills and drops (12 R283 to R286, R420). [model choice: log 49, 90, 91] -/
def Obligations.StockpotEventsComplete : Prop :=
  LookupAnswers ∧ BatchPosted ∧ FillOrDropDone ∧
  (∀ (s : State) (c w id lane n : Nat) (t : Slot) (o : Op) (l : LaneOp) (x : World), s.slot? c w = some t → t.wave.ops = [o] →
    o.id = id → o.opc = 0xE3 → o.lanes = [l] → l.lane = lane → l.st = .ready → o.f.m 0 1 = 0 → sliceReady s l.va = true →
    (s.slice (keySlice l.va)).rings = [] → (s.cluster (clusterOf c)).banks = [] →
    s.world? t.wave.world = some x → s.granted t.wave.world t.wave.vf = true →
    (s.slice (keySlice l.va)).match? l.va t.wave.world = some n → ((s.slice (keySlice l.va)).tag n).state = 2 →
    ((s.slice (keySlice l.va)).tag n).gen = x.genOf (keyBucket l.va) →
    ∃ u v, exec (.stkLookup c w id lane) s = .next u ∧ u.slot? c w = some { t with wave := v } ∧ u.mem = s.mem ∧
      v = stkAnswer t.wave id lane 0 (BitVec.ofNat 32 ((s.slice (keySlice l.va)).tag n).slot) .done) ∧
  (∀ (s : State) (c w id lane : Nat) (t : Slot) (o : Op) (l : LaneOp), s.slot? c w = some t → t.wave.ops = [o] →
    o.id = id → o.opc = 0xE3 → o.lanes = [l] → l.lane = lane → l.st = .ready → o.f.m 0 1 = 0 → sliceReady s l.va = true →
    (s.slice (keySlice l.va)).rings = [] → s.granted t.wave.world t.wave.vf = false →
    ∃ u v, exec (.stkLookup c w id lane) s = .next u ∧ u.slot? c w = some { t with wave := v } ∧ u.mem = s.mem ∧
      v = stkAnswer t.wave id lane 3 0xFFFFFFFF .done) ∧
  (∀ (s : State) (n world : Nat) (r : SubRing) (q : ShRec) (qs : List ShRec),
    (s.slice n).rings.find? (fun r => r.world == world) = some r → r.waits = q :: qs →
    exec (.shadingBatchPost n world) s = .next (writeShading s n r q)) ∧
  (∀ (s : State) (n world : Nat) (r : SubRing) (b : Batch) (bs : List Batch),
    (s.slice n).rings.find? (fun r => r.world == world) = some r → r.waits = [] → r.open_ = none → r.closed = b :: bs →
    (s.queue b.shq).enabled = true → (s.queue b.shq).full = false →
    let s' := enterCard (putRing s n { r with closed := bs }) b.shq
      (fun k => { k with batch := some (n, world, b.addr, b.count) }) (batchCard b) true
    exec (.shadingBatchPost n world) s =
      .next (finishCard (writeSlot s' b.shq (s.queue b.shq).seq) b.shq (s.queue b.shq).seq)) ∧
  (∀ (s s' : State) (c w id lane st : Nat) (t : Slot) (o : Op) (l : LaneOp), s.slot? c w = some t → t.wave.ops = [o] → o.id = id →
    o.lanes = [l] → l.lane = lane → l.st = .waiting → sliceReady s l.va = true →
    let at_ := fun data => fillAt s c t.wave.vf t.wave.world (laneWriter c w t.wave.gang o.spo o.off lane) l.va (l.src.toNat % 2 ^ 32) data
    let ws := if o.f.dst = .absent then [] else wr32 o.f.dst lane (BitVec.ofNat 32 st)
    (o.opc = 0xE4 → at_ (some ((o.bytes.drop l.src2.toNat).take 513)) = (s', st) →
      exec (.stkFillPerform c w id lane) s = .next (finishLane s' c w id lane ws 0)) ∧
    (o.opc = 0xE5 → at_ none = (s', st) → exec (.stkFillPerform c w id lane) s = .next (finishLane s' c w id lane ws 0)))

/-- A primitive that is not discarded and lies in one screen tile is rasterised (12 R297): its fragments wait in the pass, in its order, and
the tile's home core receives them with the three vertices' attributes. -/
def Sys2Proof.Machine.PrimitiveShared : Prop :=
  ∀ (s : State) (p : Pass) (q : Prim) (qs : List Prim) (d : Draw) (fs : List (List Nat)) (x : Nat × Nat) (c : Nat), s.pass? p.id = some p →
    p.prims = q :: qs → p.draw? q.draw = some d → fragsOf p d q = some fs → fs ≠ [] → (∀ g, g ∈ fs → fragTile g = x) →
    tileHome s p.vf 0 0 ≠ none → tileHome s p.vf x.1 x.2 = some c →
    ∃ u p', exec (.primitiveRasterise p.id) s = .next u ∧ u.mem = s.mem ∧ u.pass? p.id = some p' ∧ p'.prims = qs ∧
      p'.frags = p.frags ++ fs.map (fun g => { draw := q.draw, uidx := q.uidx, pseq := q.pseq, x := g.getD 0 0, y := g.getD 1 0,
                                               core := c, export_ := none }) ∧
      (u.core c).shares = (s.core c).shares ++ [{ pass := p.id, draw := q.draw, pseq := q.pseq, cls := q.cls, frags := fs,
                                                  attrs := q.verts.flatMap Vertex.attr }]

/-- A core makes the surface wave of its first share (12 R298; 01 R19): as many threads as fragments, at SURF's ENTRY, with the draw record's
address and PSEQ in u0 to u3, each pixel's place and depth in v0 and v1. -/
def Sys2Proof.Machine.SurfaceWaveMade : Prop :=
  ∀ (s : State) (c w : Nat) (t : TileShare) (r : List TileShare) (p : Pass) (d : Draw) (l : Launch) (zs : List Nat),
    (s.core c).shares = t :: r → t.frags.length ≤ 32 → s.pass? t.pass = some p → p.draw? t.draw = some d → d.surf = some l →
    (s.core c).ready = true → gangStarts s c l = true → roomFor (s.core c) l.vgran l.aregs 1 = some ([w], zs) → s.slot? c w = none →
    ∃ u v f, exec (.surfaceWaveCreate c) s = .next u ∧ u.mem = s.mem ∧ (u.core c).shares = r ∧ u.slot? c w = some v ∧
      v.wave.lanes.length = 32 ∧
      (∀ i x, v.wave.lanes[i]? = some x → x.pc = l.entry ∧ x.exited = decide (t.frags.length ≤ i)) ∧
      v.wave.regs.read (.u 0) = d.addr.setWidth 32 ∧ v.wave.regs.read (.u 1) = (d.addr >>> 32).setWidth 32 ∧
      v.wave.regs.read (.u 2) = BitVec.ofNat 32 t.pseq ∧ v.wave.regs.read (.u 3) = BitVec.ofNat 32 (t.pseq / 2 ^ 32) ∧
      v.wave.surf = some f ∧ f.pass = p.id ∧ f.draw = t.draw ∧ f.pseq = t.pseq ∧ f.exported = 0 ∧
      (∀ i g, t.frags[i]? = some g → v.wave.regs.read (.v 0 i) = BitVec.ofNat 32 (g.getD 0 0 + 65536 * g.getD 1 0) ∧
        v.wave.regs.read (.v 1 i) = BitVec.ofNat 32 (g.getD 2 0))

/-- The next exported fragment of a pixel, with a depth from 0 to 1, leaves its pass applied (12 R300, R301): where DFUNC is NEVER nothing is
written; where it is ALWAYS without a depth write, the pixel's colour in HBM4 is the blend of both. -/
def Sys2Proof.Machine.FragmentApplied : Prop :=
  ∀ (s s1 : State) (p : Pass) (x y : Nat) (q : Frag) (d : Draw) (c : List W32) (z : W32) (p1 : Pages) (zb : List Byte),
    s.pass? p.id = some p → nextFrag p x y = some q → q.export_ = some (c, z) → p.draw? q.draw = some d →
    (let v := decodeF .fp32 z.toNat; (v.isNan || ltV false v (intV 0) || ltV false (intV 1) v) = false) →
    targetRead s (rasterAt (some q.core) p.vf p.level) p.waits (p.depthAt q.x q.y) 4 = (s1, p1, some zb) → s1.pass? p.id = some p →
    (bits d.state.toNat 2 0 = 0 → ∃ u p', exec (.fragmentApply p.id x y) s = .next u ∧ u.mem = s1.mem ∧ u.pass? p.id = some p' ∧
      p'.frags = p.frags.filter (· != q) ∧ p'.applied = p.applied + 1) ∧
    (∀ (s2 s3 : State) (p2 p3 : Pages) (cb : List Byte) (a : Nat), bits d.state.toNat 2 0 = 6 → d.state.toNat.testBit 3 = false →
      targetRead s1 (rasterAt (some q.core) p.vf p.level) p1 (p.colourAt q.x q.y) (texBytes p.cfmt) = (s2, p2, some cb) →
      targetProbe s2 (rasterAt (some q.core) p.vf p.level) p2 (p.colourAt q.x q.y) (texBytes p.cfmt) = (s3, p3, some (some (.hbm a))) →
      s3.pass? p.id = some p → Untraced s3 →
      let b := blendPixel p.cfmt (bits d.state.toNat 6 4) c cb
      ∃ u p', exec (.fragmentApply p.id x y) s = .next u ∧ u.pass? p.id = some p' ∧ p'.frags = p.frags.filter (· != q) ∧
        p'.applied = p.applied + 1 ∧
        ∀ i, memByte u.mem i = if a ≤ i ∧ i < a + b.length then b.getD (i - a) 0 else memByte s3.mem i)

/-- A pass whose draws have finished writes TAG, its status and the fragments applied at DONE in HBM4, and closes (12 R302). -/
def Sys2Proof.Machine.PassRecordWritten : Prop :=
  ∀ (s s1 : State) (p : Pass) (ps : Pages) (a : Nat), s.pass? p.id = some p → p.prims = [] → p.frags = [] →
    p.finishedBelow p.ndraw = true → p.done.toNat % 16 = 0 →
    engProbe s (rasterAt none p.vf p.level) p.waits p.done 16 false = (s1, ps, .to (.hbm a)) → Untraced s1 →
    ∃ u, exec (.passComplete p.id) s = .next u ∧ u.passes = s1.passes.filter (fun q => q.id != p.id) ∧
      ∀ x, memByte u.mem x = if a ≤ x ∧ x < a + 16
        then (leBytes 8 p.tag.toNat ++ leBytes 4 p.status ++ leBytes 4 p.applied.toNat).getD (x - a) 0 else memByte s1.mem x

/-- Passes (12 R297 to R302): a primitive gives its fragments or is discarded; a home core makes a surface wave; an exported fragment
is applied in PSEQ order; a pass whose draws have finished writes its record and closes. [model choice: log 97, 98] -/
def Obligations.PassEventsComplete : Prop :=
  PrimitiveShared ∧ SurfaceWaveMade ∧ FragmentApplied ∧ PassRecordWritten ∧
  (∀ (s : State) (p : Pass) (q : Prim) (qs : List Prim) (d : Draw), s.pass? p.id = some p → p.prims = q :: qs → p.draw? q.draw = some d →
    (fragsOf p d q = none → exec (.primitiveRasterise p.id) s = .next (s.modPass p.id (fun p =>
      { p with prims := qs, culled := if q.verts.any vertexOut then p.culled + 1 else p.culled }))) ∧
    (∀ fs, fragsOf p d q = some fs → tileHome s p.vf 0 0 ≠ none →
      exec (.primitiveRasterise p.id) s = .next (((fs.map fragTile).dedup).foldl (fun s t => sendShare s p q fs t)
        ((s.modPass p.id (fun p => { p with prims := qs })).modPass p.id (fun p => { p with frags := p.frags ++ fs.map (fun g =>
          { draw := q.draw, uidx := q.uidx, pseq := q.pseq, x := g.getD 0 0, y := g.getD 1 0,
            core := (tileHome s p.vf (fragTile g).1 (fragTile g).2).getD 0, export_ := none }) })))) ) ∧
  (∀ (s : State) (c : Nat) (t : TileShare) (r : List TileShare) (p : Pass) (d : Draw), (s.core c).shares = t :: r →
    s.pass? t.pass = some p → p.draw? t.draw = some d →
    (d.surf = none → d.surfBad = false → exec (.surfaceWaveCreate c) s = .next (readSurf s c p d)) ∧
    (d.surf = none → d.surfBad = true →
      exec (.surfaceWaveCreate c) s = .next (dropShare (s.modCore c (fun k => { k with shares := r })) t t.frags)) ∧
    (∀ l, d.surf = some l → (s.core c).ready = true → gangStarts s c l = true →
      exec (.surfaceWaveCreate c) s = .next (startSurface (s.modCore c (fun k => { k with
        shares := (if t.frags.drop 32 = [] then [] else [{ t with frags := t.frags.drop 32 }]) ++ r })) c p d l t (t.frags.take 32)))) ∧
  (∀ (s : State) (p : Pass) (x y : Nat) (q : Frag) (d : Draw) (c : List W32) (z : W32), s.pass? p.id = some p →
    nextFrag p x y = some q → q.export_ = some (c, z) → p.draw? q.draw = some d →
    let v := decodeF .fp32 z.toNat
    ((v.isNan || ltV false v (intV 0) || ltV false (intV 1) v) = false →
      exec (.fragmentApply p.id x y) s = .next (applyFrag s p d q c z)) ∧
    ((v.isNan || ltV false v (intV 0) || ltV false (intV 1) v) = true → exec (.fragmentApply p.id x y) s =
      .next (s.modPass p.id (fun p => { p with frags := p.frags.filter (· != q) })))) ∧
  (∀ (s s' : State) (p : Pass) (ps : Pages), s.pass? p.id = some p → p.prims = [] → p.frags = [] → p.finishedBelow p.ndraw = true →
    (p.done.toNat % 16 ≠ 0 → exec (.passComplete p.id) s = .next { s with passes := s.passes.filter (fun q => q.id != p.id) }) ∧
    (p.done.toNat % 16 = 0 → ownerWrite s (rasterAt none p.vf p.level) p.waits p.done
        (leBytes 8 p.tag.toNat ++ leBytes 4 p.status ++ leBytes 4 p.applied.toNat) = (s', ps, true) →
      exec (.passComplete p.id) s = .next { s' with passes := s'.passes.filter (fun q => q.id != p.id) }))

/-! ## Traps -/

/-- The record that trap t leaves of lane l at its level (14 R316, R317): every field of the cause word, the resume address and the
operands of the cause, and v0 to v3 and p0 to p14 as they were. -/
structure Sys2Proof.Machine.Recorded (x : Lane) (l : Nat) (regs : Regs) (t : Trap) (dbl : Bool) (r : TrapRec) : Prop where
  cause : r.cause.extractLsb' 0 8 = BitVec.ofNat 8 t.cause ∧ r.cause.extractLsb' 8 8 = BitVec.ofNat 8 t.sub
  fixed : r.cause.getLsbD 16 = false ∧ r.cause.extractLsb' 24 6 = 0 ∧ r.cause.getLsbD 30 = true
  off : r.cause.extractLsb' 17 5 = BitVec.ofNat 5 t.off
  plev : r.cause.extractLsb' 22 2 = BitVec.ofNat 2 (match x.level with | .u => 0 | .g => 1 | .h => 2)
  dbl : r.cause.getLsbD 31 = dbl
  at_ : r.spo = t.spo ∧ r.res = t.res ∧ r.aux = t.aux ∧ r.aux2 = t.aux2
  vecs : r.k0 = regs.read (.v 0 l) ∧ r.k1 = regs.read (.v 1 l) ∧ r.k2 = regs.read (.v 2 l) ∧ r.k3 = regs.read (.v 3 l)
  preds : ∀ n, n < 15 → r.kp.getLsbD n = (regs.read (.p n l)).getLsbD 0

/-- s with lane l of wave w of core c replaced, the wave being in slot sl: no register, no byte, no other lane. -/
def Sys2Proof.Machine.OneLane (s t : State) (c w l : Nat) (sl : Slot) (y : Lane) : Prop :=
  t = { s with cores := t.cores } ∧ (∀ k, k ≠ c → t.core k = s.core k) ∧
  t.core c = { s.core c with slots := (t.core c).slots } ∧ (∀ v, v ≠ w → t.slot? c v = s.slot? c v) ∧
  t.slot? c w = some { sl with wave := { sl.wave with lanes := listSet sl.wave.lanes l y } }

/-- Taking a trap (14 R316, R317, R321): by its level, its cause, TROUTE and TVECG a lane enters G at TVECG or H at TVECH with the record
of that level, or is halted and reported; it drops its landing check, and nothing else of the part changes. -/
def Sys2Proof.Machine.SaysTrapsTaken : Prop :=
  ∀ (s : State) (c w l : Nat) (sl : Slot) (x : Lane) (t : Trap), s.slot? c w = some sl → sl.wave.lanes[l]? = some x →
    t.cause < 256 → t.sub < 256 → t.off < 32 →
    let f := s.func sl.wave.vf
    let toG := x.level = .u ∧ t.cause < 32 ∧ f.troute.getLsbD t.cause = false ∧ f.tvecg ≠ 0
    (toG → ∃ r, Recorded x l sl.wave.regs t false r ∧
      OneLane s (takeTrap s c w l t) c w l sl { x with trg := r, check := .none, holds := [], level := .g, pc := f.tvecg }) ∧
    (¬ toG → x.level ≠ .h → s.tvech ≠ 0 → ∃ r, Recorded x l sl.wave.regs t (decide (x.level = .g)) r ∧
      OneLane s (takeTrap s c w l t) c w l sl { x with trh := r, check := .none, holds := [], level := .h, pc := s.tvech }) ∧
    (¬ toG → x.level = .h ∨ s.tvech = 0 → ∃ r u, Recorded x l sl.wave.regs t true r ∧
      OneLane s u c w l sl { x with trh := r, holds := [.halted] } ∧
      takeTrap s c w l t = elog u 1 sl.wave.vf 0 c t.res (BitVec.ofNat 64 t.cause))

/-- RTE at the end of its run (14 R318): PC and level from the record of the lane's level, with RESTV v0 to v3 and p0 to p14, and a landing
check; from H with PLEV H nothing is restored and the lane is told to halt. -/
def Sys2Proof.Machine.SaysReturnsFromTraps : Prop :=
  ∀ (x : Lane) (l : Nat) (regs : Regs), l < 32 →
    let r := if x.level = .h then x.trh else x.trg
    let plev : Level := match r.cause.extractLsb' 22 2 with | 0 => .u | 1 => .g | _ => .h
    let saved : List RegWrite := [⟨.v 0 l, r.k0⟩, ⟨.v 1 l, r.k1⟩, ⟨.v 2 l, r.k2⟩, ⟨.v 3 l, r.k3⟩] ++
      (List.range 15).map (fun n => ⟨.p n l, if r.kp.getLsbD n then 1 else 0⟩)
    (¬ (x.level = .h ∧ plev = .h) → (laneRte x l regs).1 = { x with pc := r.res, level := plev, check := .trapret } ∧
      (laneRte x l regs).2.2 = false ∧
      (r.cause.getLsbD 30 = true → Landed regs (laneRte x l regs).2.1 saved) ∧
      (r.cause.getLsbD 30 = false → (laneRte x l regs).2.1 = regs)) ∧
    (x.level = .h → plev = .h → laneRte x l regs = (x, regs, true))

/-- Taking a trap and returning from one (14 R316 to R318, R321). [model choice: log 20] -/
def Obligations.TrapsTakenAndReturned : Prop := SaysTrapsTaken ∧ SaysReturnsFromTraps

/-- A word of row 0xF above the level of its lanes gives PRIVILEGED in every lane of EXEC, whatever its guard (06 R142); a word that a
pattern of R143 matches gives ILLEGAL_ENCODING there, before that; the word has no other effect. -/
def Obligations.LevelsAndEncodingsTrapped : Prop :=
  (∀ (f : Fields) (s : State) (x : Ctx) (op : Nat) (mk : Fields → Instr),
    (op, mk) ∈ ([(0xF4, .rte), (0xF5, .psrd), (0xF6, .pswr), (0xF9, .tlbinv), (0xFD, .wpset), (0xF7, .ctxsv), (0xF8, .ctxld),
      (0xFA, .tlbinva), (0xFB, .ownset), (0xFC, .ownget), (0xFE, .haltqPause), (0xFE, .haltqResume), (0xFE, .haltqWithdraw),
      (0xFF, .scrub)] : List (Nat × (Fields → Instr))) →
    s.issue? = some x →
    (check op f = none → x.placeOk op f (ringCount s x) = true →
      (x.g.level = .u ∨ (x.g.level = .g ∧ op ∉ [0xF4, 0xF5, 0xF6, 0xF9, 0xFD])) →
      exec (mk f) s = .next (issueTraps s x x.execLanes 2 0 (fun _ => 0) (BitVec.ofNat 32 op))) ∧
    (check op f ≠ none ∨ x.placeOk op f (ringCount s x) = false →
      exec (mk f) s = .next (issueTraps s x x.execLanes 1 0 (fun _ => x.word.extractLsb' 0 64) (x.word.extractLsb' 64 32)))) ∧
  -- registers whose reads, or whose writes, need H (14 R320)
  (∀ (f : Fields) (s : State) (x : Ctx), x.g.level = .g →
    (Issues 0xF5 f s x → f.m 0 8 ∈ [16, 17, 18, 19, 20, 21] →
      exec (.psrd f) s = .next (issueTraps s x x.execLanes 2 0 (fun _ => 0) 0xF5)) ∧
    (Issues 0xF6 f s x → f.m 0 8 ∈ [8, 9, 16, 18, 21] →
      exec (.pswr f) s = .next (issueTraps s x x.execLanes 2 0 (fun _ => 0) 0xF6))) ∧
  (∀ (s : State) (x : Ctx) (cause : Nat) (aux2 : W32) (l : Nat), s.issue? = some x →
    issueTraps s x [l] cause 0 (fun _ => 0) aux2 = takeTrap (s.modGroup x.core x.quarter x.port (fun g =>
      { g with gone := g.gone ||| maskOf (fun k => k == l) })) x.core x.wid l
        { cause := cause, sub := 0, off := x.idx, spo := x.spo, res := x.g.pro, aux := 0, aux2 := aux2 })

/-! ## The machine -/

/-- Reset (18 R408; 14 R320, R321): HBM4 lists nothing and is in canonical form; no unit has reported, START is not done, no queue, world,
gang or wave exists, TVECH and every function's TVECG, TROUTE and RSPOOL are 0. [model choice: log 5] -/
def Obligations.ResetState : Prop :=
  let s := State.reset
  MemInv s ∧ (∀ a, memByte s.mem a = 0) ∧ s.tvech = 0 ∧ s.conf.startst = 0 ∧
  (∀ f, (s.func f).tvecg = 0 ∧ (s.func f).troute = 0 ∧ (s.func f).rspool = 0 ∧ (s.func f).valid = false) ∧
  s.rdy.hbm = 0 ∧ s.rdy.sieve = false ∧ s.rdy.links = 0 ∧ (∀ c, (s.core c).ready = false ∧ (s.core c).slots = []) ∧
  (∀ n, (s.slice n).ready = false) ∧ (∀ q, (s.queue q).cards = []) ∧ s.worlds = [] ∧ s.fc = 0

/-- Every step keeps HBM4's bytes in canonical form: addresses rising, no byte listed that reads as an unlisted one. -/
def Obligations.StepKeepsMemoryCanonical : Prop :=
  ∀ s t : State, MemInv s → step s = .next t → MemInv t

/-- A step of a part with power makes the move at the head of the agenda: an event is run by exec; at an issue slot the word under the
run's index is decoded and run by exec in the state in which that slot issues, after which the run moves on; a word that stands for no
instruction traps. With nothing on the agenda, a run in progress goes on so. A saved wave's record then holds what completed. [model choice: log 4] -/
def Obligations.StepRunsDecodedInstruction : Prop :=
  (∀ (s : State) (i : Instr) (r : List Move), s.powered = true → s.agenda = .event i :: r →
    let s' : State := { s with agenda := r }
    (∀ t, exec i s' = .next t → step s = .next (syncSaved s' t)) ∧ (∀ e, exec i s' = .fault e → step s = .fault e)) ∧
  (∀ (s s' : State) (c q : Nat) (run : Run) (x : Ctx), s.powered = true →
    ((∃ r, s.agenda = .issue c q :: r ∧ s' = { s with agenda := r }) ∨
      (s.agenda = [] ∧ runningQuarter s = some (c, q) ∧ s' = s)) →
    (s'.quarter c q).run = some run → (beginIssue s' c q run).issue? = some x →
    (∀ i t, decode x.word = .ok i → exec i (beginIssue s' c q run) = .next t → step s = .next (syncSaved s' (endIssue t c q))) ∧
    (∀ e, decode x.word = .error e →
      step s = .next (syncSaved s' (endIssue (illegalTrap (beginIssue s' c q run) x) c q)))) ∧
  (∀ (s : State) (c q : Nat) (r : Run) (g : Group) (t : Slot), (s.quarter c q).run = some r → s.slot? c r.wave = some t →
    r.groups = [g] → g.port = r.port → r.port < 2 → r.idx + 1 < g.words.length → wordS (g.words.getD r.idx 0) = false → t.watches = [] →
    (s.cluster (clusterOf c)).banks = [] → g.mask &&& ~~~g.gone ≠ 0 →
    ∃ u, endIssue s c q = u ∧ (u.quarter c q).run = some { r with idx := r.idx + 1, snap := none } ∧ u.cur = none ∧
      u.slot? c r.wave = some t ∧ u.mem = s.mem)

/-! ## What completes -/

/-- The one pending operation of wave w of core c is o, in one lane l, without a log entry and with nothing written yet. -/
structure Sys2Proof.Machine.Pends (s : State) (c w : Nat) (t : Slot) (o : Op) (l : LaneOp) : Prop where
  here : s.slot? c w = some t
  alone : t.wave.ops = [o]
  lane : o.lanes = [l]
  unlogged : o.log = .none
  unwritten : o.writes = []

/-- u is s after that operation completed with register writes ws and exception bits e (02 R58; 09 R200, R419): the writes are in the wave's
registers, its flag is lowered, the operation is gone; every other wave stands as it stood. -/
structure Sys2Proof.Machine.Ends (s u : State) (c w : Nat) (t : Slot) (o : Op) (ws : List RegWrite) (e : Exc) : Prop where
  wave : u.slot? c w = some { t with wave := ((({ t.wave with regs := t.wave.regs.writes ws, ops := [] } : Wave).orWstat (o.exc ||| e)).lower
    o.flag) }
  others : ∀ k v, (k ≠ c ∨ v ≠ w) → u.slot? k v = s.slot? k v

/-- The same, and the waves of the part apart, nothing has changed. -/
structure Sys2Proof.Machine.EndsAlone (s u : State) (c w : Nat) (t : Slot) (o : Op) (ws : List RegWrite) : Prop where
  ends : Ends s u c w t o ws 0
  rest : u = { s with cores := u.cores }

/-- Loads, atomics and queued stores reach HBM4 (03 R64, R67, R69, R90; 09 R199, R203, R204, R210, R211). A lane of a load that has issued
takes its n bytes at its address from the line: the core's L1 copy where there is one, under LDNC and without a copy the memory's; the core's
own queued stores cover them. An atomic takes the old value and writes the new one at once. A write of the queue puts the bytes of its mask,
and no others, into memory, and its lane completes. -/
def Sys2Proof.Machine.SaysSharedAccessesComplete : Prop :=
  (∀ (s : State) (c w a : Nat) (t : Slot) (o : Op) (l : LaneOp), Pends s c w t o l → l.st = .ready → l.tgt = .hbm a →
    o.opc ∈ [0xA0, 0xA2, 0xA4, 0xAA, 0xAC, 0xAD] →
    let n := accSize o.opc o.f
    let small : Fmt := match o.f.m 3 5 with | 1 => .fp16 | 2 => .bf16 | 3 => .e4m3 | _ => .e5m2
    let takes := fun (u : State) (b : List Byte) =>
      if o.opc = 0xAD then
        Ends s u c w t o ((wr32 o.f.dst l.lane (BitVec.ofNat 32 (roundV .fp32 1 false (decodeF small (leNat b))).1)).filter
          (RegWrite.inLane l.lane)) (decodeF small (leNat b)).sigExc
      else Ends s u c w t o ((loadWrites o.f n (o.f.m 3 1 == 1) l.lane b).filter (RegWrite.inLane l.lane)) 0
    (o.opc = 0xA4 ∨ (s.core c).l1.get? (a / 64) = none → (s.core c).wq = [] → s.owned (.fn t.wave.vf (t.wave.row o.level)) a = true →
      s.poisAt a n = false → a % 64 + n ≤ 64 →
      ∃ u, exec (.memoryOpComplete c w o.id l.lane) s = .next u ∧ u.mem = s.mem ∧ takes u (s.bytesAt a n)) ∧
    (∀ k, o.opc ≠ 0xA4 → (s.core c).l1.get? (a / 64) = some k →
      let found := (List.range n).map (fun i =>
        forwarded (s.core c) (a + i) (k.data.extractLsb' (8 * ((a + i) % 64)) 8, k.pois ((a + i) % 64)))
      (∀ p, p ∈ found → p.2 = false) →
      ∃ u, exec (.memoryOpComplete c w o.id l.lane) s = .next u ∧ u.mem = s.mem ∧ takes u (found.map Prod.fst))) ∧
  (∀ (s : State) (c w a : Nat) (t : Slot) (o : Op) (l : LaneOp), Pends s c w t o l → l.st = .ready → l.tgt = .hbm a →
    0xC0 ≤ o.opc → o.opc ≤ 0xCC → o.f.m 14 1 = 0 → atomWaits (s.core c) t.wave o = false → gathers o l = false → isSpec o = false →
    (∀ e, e ∈ (s.core c).wq → ∀ b, e.tgt.spa? = some b → b / 64 ≠ a / 64) → s.linePois a = false →
    (if o.opc = 0xCB then s.owned (.fn t.wave.vf (t.wave.row o.level)) a else s.writable (.fn t.wave.vf (t.wave.row o.level)) a) = true →
    Untraced s →
    let n := if type64 (o.f.m 11 3) then 8 else 4
    let r := atomOn o.opc (o.f.m 11 3) (o.f.m 0 3) (leNat (s.bytesAt a n)) l.src.toNat l.src2.toNat false
    ∃ u, exec (.memoryOpComplete c w o.id l.lane) s = .next u ∧ Ends s u c w t o (atomWrites o.opc o.f l.lane r.old r.ok) r.exc ∧
      ∀ x, memByte u.mem x = match r.new with
        | some v => if a ≤ x ∧ x < a + n then (leBytes n v).getD (x - a) 0 else memByte s.mem x
        | none => memByte s.mem x) ∧
  (∀ (s : State) (c a : Nat) (e : WqEntry) (r : List Move), s.powered = true → s.agenda = .drain c e.id :: r →
    (s.core c).wq.find? (fun x => x.id == e.id) = some e → firstOf (s.core c).wq e = true → e.tgt = .hbm a →
    s.writable e.party a = true → Untraced s →
    let s' : State := { s with agenda := r }
    ∃ u, step s = .next (syncSaved s' u) ∧
      (∀ x, memByte u.mem x = if a ≤ x ∧ x < a + e.bytes.length ∧ x - a ∉ e.holes then e.bytes.getD (x - a) 0 else memByte s.mem x) ∧
      (e.who = none →
        u = { s' with mem := u.mem, memPois := u.memPois, llcPois := u.llcPois, eccs := u.eccs, specs := u.specs, cores := u.cores } ∧
        (u.core c).wq = (s.core c).wq.filter (fun x => x.id != e.id)) ∧
      (∀ w t o l, Pends s c w t o l → e.who = some (t.wave.uid, w, o.id) → e.lanes.map Prod.fst = [l.lane] → isAtomic o.opc = false →
        (u.core c).wq = (s.core c).wq.filter (fun x => x.id != e.id) ∧ Ends s u c w t o [] 0))

/-- What ends the operations of a wave, and what its accesses do to memory (03 R64, R67, R69; 08 R175; 09 R200, R203, R211). [model choice: log 24, 27, 46, 126] -/
def Obligations.WaveEventsComplete : Prop := SaysWaveEventsComplete ∧ SaysSharedAccessesComplete

/-- The words that act once complete (12 R287, R288; 14 R332 to R336; 16 R369), each in the one lane l that holds its operands: OWNSET,
OWNGET, SCRUB, TLBINV, TLBINVA, HALTQ, CTXSV, CTXLD, STKINV and STKAGE. What the status d is where several reasons hold, and that an
invalidation waits for the writes, adds and transfers that use a translation, are the model's reading, logs 113 and 101; an end of a
withdrawal in the same step as its request is log 88; STKINV's order among the slices log 92. -/
def Sys2Proof.Machine.SaysOnceWordsComplete : Prop :=
  ∀ (s : State) (c w : Nat) (t : Slot) (o : Op) (l : LaneOp), Pends s c w t o l → l.st = .known →
    let done := fun (u : State) => exec (.memoryOpComplete c w o.id l.lane) s = .next u
    let waits := exec (.memoryOpComplete c w o.id l.lane) s = .fault .notEnabled
    let answers := fun (d : W32) => if o.f.dst = .absent then [] else wr32 o.f.dst l.lane d
    let only := fun (d : W32) => ∃ u, done u ∧ EndsAlone s u c w t o (answers d)
    let a := l.va.toNat
    let n := l.src.toNat
    let frames := fun (i : Nat) => a / 65536 ≤ i ∧ i < a / 65536 + n
    let fits := a % 65536 = 0 ∧ a + 65536 * n ≤ hbmEnd
    -- OWNSET (R334, R369)
    (o.opc = 0xFB →
      let own := o.f.m 0 7
      let past := fun (i : Nat) => (own < 64 ∧ (s.func own).chgrp.getLsbD (i / 131072) = false) ∨
        (own = ownHost ∧ ∃ p ∈ s.funcs, p.2.valid = true ∧ p.2.chgrp.getLsbD (i / 131072) = true)
      (¬ fits → only 2) ∧
      (fits → (∃ i, frames i ∧ s.owner (65536 * i) ≠ ownFree) → only 1) ∧
      (fits → (∀ i, frames i → s.owner (65536 * i) = ownFree) → (∃ i, frames i ∧ past i) → only 3) ∧
      (fits → (∀ i, frames i → s.owner (65536 * i) = ownFree ∧ ¬ past i) → ∃ u, done u ∧ u.mem = s.mem ∧ Ends s u c w t o (answers 0) 0 ∧
        ∀ i, (frames i → u.owner (65536 * i) = own) ∧ (¬ frames i → u.owner (65536 * i) = s.owner (65536 * i)))) ∧
    -- OWNGET (R334)
    (o.opc = 0xFC → only (if hbmEnd ≤ a then 0xFFFFFFFF else BitVec.ofNat 32 (s.owner a))) ∧
    -- SCRUB (R334, R369)
    (o.opc = 0xFF → (¬ fits → only 2) ∧
      (fits → Untraced s → ∃ u, done u ∧ Ends s u c w t o (answers 0) 0 ∧
        (∀ x, memByte u.mem x = if a ≤ x ∧ x < a + 65536 * n then 0 else memByte s.mem x) ∧
        (∀ x, a ≤ x → x < a + 65536 * n → u.linePois x = false ∧ ∀ k, (u.core k).l1.get? (x / 64) = none) ∧
        ∀ i, (frames i → u.owner (65536 * i) = ownFree) ∧ (¬ frames i → u.owner (65536 * i) = s.owner (65536 * i)))) ∧
    -- TLBINV and TLBINVA (R333)
    (o.opc = 0xF9 ∨ o.opc = 0xFA →
      let sel := if o.opc = 0xF9 then selRange t.wave.vf l.va n else selAll (o.f.m 6 2) (o.f.m 0 6) l.va n
      let taken := fun (e : TlbEnt) =>
        if o.opc = 0xF9 then e.vf = t.wave.vf ∧ (n = 0 ∨ (e.va < a + 4096 * n ∧ a < e.va + 2 ^ e.size))
        else match o.f.m 6 2 with
          | 0 => e.vf = o.f.m 0 6
          | 1 => e.vf = o.f.m 0 6 ∧ n ≠ 0 ∧ e.gpa < a + 4096 * n ∧ a < e.gpa + 2 ^ e.size
          | _ => True
      (wqUsing s sel = [] → peersUsing s sel = [] → heldUsing s sel = false → ∃ u, done u ∧ u.mem = s.mem ∧
        u.slot? c w = some { t with wave := ((({ t.wave with regs := t.wave.regs.writes (answers 0), ops := [] } : Wave).orWstat
          o.exc).lower o.flag) } ∧
        (∀ k e, e ∈ (u.core k).tlb ↔ e ∈ (s.core k).tlb ∧ ¬ taken e) ∧
        (∀ k e, e ∈ (u.cluster k).tlb2 ↔ e ∈ (s.cluster k).tlb2 ∧ ¬ taken e)) ∧
      (wqUsing s sel ≠ [] ∨ peersUsing s sel ≠ [] ∨ heldUsing s sel = true → waits)) ∧
    -- HALTQ (R336)
    (o.opc = 0xFE →
      (1024 ≤ a → only 1) ∧
      (a < 1024 → o.f.m 0 2 = 0 → ∃ u, done u ∧ u.mem = s.mem ∧ Ends s u c w t o (answers 0) 0 ∧
        u.queue a = { s.queue a with paused := true } ∧ ∀ q, q ≠ a → u.queue q = s.queue q) ∧
      (a < 1024 → o.f.m 0 2 = 1 → (s.queue a).withdrawn = true → waits) ∧
      (a < 1024 → o.f.m 0 2 = 1 → (s.queue a).withdrawn = false → ∃ u, done u ∧ u.mem = s.mem ∧ Ends s u c w t o (answers 0) 0 ∧
        u.queue a = { s.queue a with paused := false } ∧ ∀ q, q ≠ a → u.queue q = s.queue q) ∧
      (a < 1024 → 2 ≤ o.f.m 0 2 → o.released = false → ∃ u, done u ∧ u.mem = s.mem ∧
        u.slot? c w = some { t with wave := { t.wave with ops := [{ o with released := true }] } } ∧
        (u.queue a).paused = true ∧ (u.queue a).withdrawn = !(s.queue a).cards.isEmpty ∧
        (u.queue a).cards = (s.queue a).cards.map (fun k => { k with undealt := [] }) ∧
        (∀ k h, h ∈ (u.core k).held → h.q ≠ a) ∧ ∀ q, q ≠ a → u.queue q = s.queue q) ∧
      (a < 1024 → 2 ≤ o.f.m 0 2 → o.released = true → (s.queue a).withdrawn = true → waits) ∧
      (a < 1024 → 2 ≤ o.f.m 0 2 → o.released = true → (s.queue a).withdrawn = false → only 0)) ∧
    -- CTXSV (R332)
    (o.opc = 0xF7 →
      let tc := n / 64 % 512
      let tw := n % 64
      let room := fun (v : Slot) =>
        a % 4096 = 0 ∧ hostFrames s a (recMap 0 0 v.wave.vgran v.wave.sgran v.wave.tregs v.wave.aregs).stop = true
      (s.slot? tc tw = none ∨ 32768 ≤ n → only 1) ∧
      (∀ v, s.slot? tc tw = some v → n < 32768 →
        (¬ room v → only 2) ∧
        (room v → v.drain.isSome = true → only 3) ∧
        (room v → v.drain = none → (tc ≠ c ∨ tw ≠ w) → ∃ u, done u ∧ u = { s with cores := u.cores } ∧
          u.slot? tc tw = some { v with
            drain := some { addr := some a, req := some (c, t.wave.uid, o.id), reason := 0, q := 0, parked := v.parked }, parked := false } ∧
          u.slot? c w = some { t with wave := { t.wave with
            ops := [{ o with released := true, lanes := [{ l with st := .waiting }] }] } }))) ∧
    -- CTXLD (R332)
    (o.opc = 0xF8 →
      (a % 4096 ≠ 0 ∨ hostFrames s a 0x1700 = false ∨ headerOk s a = false → only 2) ∧
      exec (.memoryOpComplete c w o.id l.lane) s = .next (finishLane (restoreRecord s a).1 c w o.id l.lane
        (answers (BitVec.ofNat 32 (restoreRecord s a).2)) 0)) ∧
    -- STKINV (12 R287)
    (o.opc = 0xE6 →
      let touched := fun (k : Nat) => k < 4096 ∧ (n = 0 ∨ 4096 ≤ n ∨ (k + 4096 - a % 4096) % 4096 < n)
      (s.granted t.wave.world t.wave.vf = false → ∃ u, done u ∧ EndsAlone s u c w t o []) ∧
      (∀ d, s.granted t.wave.world t.wave.vf = true → s.world? t.wave.world = some d → ∃ u d', done u ∧ u.mem = s.mem ∧
        Ends s u c w t o [] 0 ∧ u.world? t.wave.world = some d' ∧ d' = { d with gen := d'.gen } ∧
        (∀ k, (touched k → d'.genOf k = d.genOf k + 1) ∧ (¬ touched k → d'.genOf k = d.genOf k)) ∧
        (∀ i p e, (s.slice i).tags.get? p = some e → e.world = t.wave.world → touched (keyBucket e.key) →
          (e.state = 1 → (u.slice i).tags.get? p = some { e with state := 3 }) ∧
          (e.state = 2 → d'.genOf (keyBucket e.key) = 0 → (p, e) ∉ (u.slice i).tags)))) ∧
    -- STKAGE (12 R288)
    (o.opc = 0xE7 →
      (s.granted t.wave.world t.wave.vf = false → only 0xFFFFFFFF) ∧
      (∀ d, s.granted t.wave.world t.wave.vf = true → s.world? t.wave.world = some d →
        let now := d.wage + BitVec.ofNat 8 (a % 256)
        ∃ u, done u ∧ u.mem = s.mem ∧ Ends s u c w t o (answers (now.setWidth 32)) 0 ∧
          u.world? t.wave.world = some { d with wage := now } ∧
          (∀ i p e, (s.slice i).tags.get? p = some e → e.world = t.wave.world → e.state = 2 → 255 < (d.wage - e.age).toNat + a % 256 →
            (u.slice i).tags.get? p = some { e with age := now + 1 })))

/-- The words that act once: what they attach at their issue, and what they do when they complete (12 R287, R288; 14 R332 to R336; 16 R369). [model choice: log 101, 88, 113, 92] -/
def Obligations.OnceWordsAttach : Prop := SaysOnceWordsAttach ∧ SaysOnceWordsComplete
end

