-- ==== Sys2Proof/Laws/Sparse.lean ====
section
/-! SUPPORT. What a read of a table gives after a write of it, in every list, and that writes keep the canonical form. -/

namespace Sys2Proof.Machine

theorem Tab.get?_ins_self {α : Type} (m : Tab α) (i : Nat) (v : α) : (m.ins i v).get? i = some v := by
  induction m with
  | nil => simp [Tab.ins, Tab.get?]
  | cons p r ih =>
    obtain ⟨k, u⟩ := p
    unfold Tab.ins
    by_cases h : i = k
    · simp [h, Tab.get?]
    · by_cases g : i < k
      · simp [h, g, Tab.get?]
      · simp [h, g, Tab.get?, ih]

theorem Tab.get?_ins_of_ne {α : Type} (m : Tab α) {i j : Nat} (v : α) (h : j ≠ i) : (m.ins i v).get? j = m.get? j := by
  induction m with
  | nil => simp [Tab.ins, Tab.get?, h]
  | cons p r ih =>
    obtain ⟨k, u⟩ := p
    unfold Tab.ins
    by_cases e : i = k
    · subst e; simp [Tab.get?, h]
    · by_cases g : i < k
      · simp [e, g, Tab.get?, h]
      · simp [e, g, Tab.get?, ih]

theorem Tab.get?_del_self {α : Type} (m : Tab α) (i : Nat) : (m.del i).get? i = none := by
  induction m with
  | nil => rfl
  | cons p r ih =>
    obtain ⟨k, u⟩ := p
    unfold Tab.del
    by_cases h : i = k <;> simp [h, Tab.get?, ih]
    simpa [h] using ih

theorem Tab.get?_del_of_ne {α : Type} (m : Tab α) {i j : Nat} (h : j ≠ i) : (m.del i).get? j = m.get? j := by
  induction m with
  | nil => rfl
  | cons p r ih =>
    obtain ⟨k, u⟩ := p
    unfold Tab.del
    by_cases e : i = k
    · subst e; simp [Tab.get?, h, ih]
    · simp [e, Tab.get?, ih]

@[simp] theorem Tab.get_put_self {α : Type} [DecidableEq α] (d : α) (m : Tab α) (i : Nat) (v : α) : Tab.get d (Tab.put d m i v) i = v := by
  unfold Tab.get Tab.put
  split
  · next h => simp [Tab.get?_del_self, h]
  · simp [Tab.get?_ins_self]

theorem Tab.get_put_of_ne {α : Type} [DecidableEq α] (d : α) (m : Tab α) {i j : Nat} (v : α) (h : j ≠ i) :
    Tab.get d (Tab.put d m i v) j = Tab.get d m j := by
  unfold Tab.get Tab.put
  split
  · simp [Tab.get?_del_of_ne m h]
  · simp [Tab.get?_ins_of_ne m v h]

theorem Tab.get?_adj_self {α : Type} (m : Tab α) (i : Nat) (g : α → α) : (m.adj i g).get? i = (m.get? i).map g := by
  unfold Tab.adj
  split
  · next h => simp [Tab.get?_ins_self, h]
  · next h => simp [h]

theorem Tab.get?_adj_of_ne {α : Type} (m : Tab α) {i j : Nat} (g : α → α) (h : j ≠ i) : (m.adj i g).get? j = m.get? j := by
  unfold Tab.adj
  split
  · simp [Tab.get?_ins_of_ne m _ h]
  · rfl

/-! ## The canonical form -/

theorem Tab.above_mono {α : Type} (m : Tab α) {a b : Nat} (h : a ≤ b) (w : Tab.above (some b) m = true) :
    Tab.above (some a) m = true := by
  cases m with
  | nil => rfl
  | cons p r =>
    simp only [Tab.above, Bool.and_eq_true, decide_eq_true_eq] at w ⊢
    exact ⟨by omega, w.2⟩

theorem Tab.above_none {α : Type} (m : Tab α) {a : Nat} (w : Tab.above (some a) m = true) : Tab.above none m = true := by
  cases m with
  | nil => rfl
  | cons p r =>
    simp only [Tab.above, Bool.and_eq_true, decide_eq_true_eq] at w ⊢
    exact ⟨trivial, w.2⟩

theorem Tab.above_ins {α : Type} (m : Tab α) (a : Nat) (v : α) : ∀ b : Option Nat, (∀ x, b = some x → x < a) →
    Tab.above b m = true → Tab.above b (m.ins a v) = true := by
  induction m with
  | nil =>
    intro b h _
    cases b with
    | none => rfl
    | some x => simp [Tab.ins, Tab.above, h x rfl]
  | cons p r ih =>
    obtain ⟨k, u⟩ := p
    intro b h w
    unfold Tab.ins
    simp only [Tab.above, Bool.and_eq_true] at w
    by_cases e : a = k
    · subst e; simp only [if_true, Tab.above, Bool.and_eq_true]; exact w
    · by_cases g : a < k
      · simp only [e, g, if_true, if_false, Tab.above, Bool.and_eq_true, decide_eq_true_eq]
        refine ⟨?_, trivial, w.2⟩
        cases b with
        | none => rfl
        | some x => simpa using h x rfl
      · simp only [e, g, if_false, Tab.above, Bool.and_eq_true]
        refine ⟨w.1, ih (some k) (fun x hx => ?_) w.2⟩
        cases hx; omega

theorem Tab.above_del {α : Type} (m : Tab α) (a : Nat) : ∀ b : Option Nat, Tab.above b m = true → Tab.above b (m.del a) = true := by
  induction m with
  | nil => intro b _; cases b <;> rfl
  | cons p r ih =>
    obtain ⟨k, u⟩ := p
    intro b w
    simp only [Tab.above, Bool.and_eq_true] at w
    unfold Tab.del
    by_cases e : a = k
    · simp only [e, if_true]
      cases b with
      | none => exact e ▸ ih none (Tab.above_none r w.2)
      | some x =>
        have hx : x < k := by simpa using w.1
        exact e ▸ ih (some x) (Tab.above_mono r (by omega) w.2)
    · simp only [e, if_false, Tab.above, Bool.and_eq_true]
      exact ⟨w.1, ih (some k) w.2⟩

theorem Tab.all_ins {α : Type} (m : Tab α) (a : Nat) (v : α) (q : Nat × α → Bool) (hv : q (a, v) = true) (w : m.all q = true) :
    (m.ins a v).all q = true := by
  induction m with
  | nil => simp [Tab.ins, hv]
  | cons p r ih =>
    obtain ⟨k, u⟩ := p
    simp only [List.all_cons, Bool.and_eq_true] at w
    unfold Tab.ins
    split
    · simp [hv, w.2]
    · split
      · simp [hv, w.1, w.2]
      · simp only [List.all_cons, Bool.and_eq_true]; exact ⟨w.1, ih w.2⟩

theorem Tab.all_del {α : Type} (m : Tab α) (a : Nat) (q : Nat × α → Bool) (w : m.all q = true) : (m.del a).all q = true := by
  induction m with
  | nil => rfl
  | cons p r ih =>
    obtain ⟨k, u⟩ := p
    simp only [List.all_cons, Bool.and_eq_true] at w
    unfold Tab.del
    split
    · exact ih w.2
    · simp only [List.all_cons, Bool.and_eq_true]; exact ⟨w.1, ih w.2⟩

/-- A write keeps the canonical form. -/
theorem Tab.wf_put {α : Type} [DecidableEq α] (d : α) (m : Tab α) (i : Nat) (v : α) (h : Tab.wf d m = true) :
    Tab.wf d (Tab.put d m i v) = true := by
  unfold Tab.wf at h ⊢
  simp only [Bool.and_eq_true] at h ⊢
  unfold Tab.put
  split
  · exact ⟨Tab.above_del m i none h.1, Tab.all_del m i _ h.2⟩
  · next g => exact ⟨Tab.above_ins m i v none (by simp) h.1, Tab.all_ins m i v _ (by simpa using g) h.2⟩

theorem Tab.above_filter {α : Type} (m : Tab α) (q : Nat × α → Bool) : ∀ b : Option Nat, Tab.above b m = true →
    Tab.above b (m.filter q) = true := by
  induction m with
  | nil => intro b _; cases b <;> rfl
  | cons p r ih =>
    obtain ⟨k, u⟩ := p
    intro b w
    simp only [Tab.above, Bool.and_eq_true] at w
    by_cases e : q (k, u) = true
    · rw [List.filter_cons_of_pos e]
      simp only [Tab.above, Bool.and_eq_true]
      exact ⟨w.1, ih (some k) w.2⟩
    · rw [List.filter_cons_of_neg e]
      cases b with
      | none => exact ih none (Tab.above_none r w.2)
      | some x =>
        have hx : x < k := by simpa using w.1
        exact ih (some x) (Tab.above_mono r (by omega) w.2)

/-- Leaving entries out keeps the canonical form. -/
theorem Tab.wf_filter {α : Type} [DecidableEq α] (d : α) (m : Tab α) (q : Nat × α → Bool) (h : Tab.wf d m = true) :
    Tab.wf d (m.filter q) = true := by
  unfold Tab.wf at h ⊢
  simp only [Bool.and_eq_true, List.all_eq_true] at h ⊢
  exact ⟨Tab.above_filter m q none h.1, fun x hx => h.2 x (List.mem_of_mem_filter hx)⟩

end Sys2Proof.Machine
end

