-- ==== Sys2Proof/Laws/State.lean ====
section
/-! SUPPORT. Reads of the state's parts after each of the named updates: one lemma per field per update, and what an update of a
core, slot, quarter, gang, cluster, function, queue or slice leaves of that part and of the others. -/

namespace Sys2Proof.Machine

/-! ## Fields an update leaves alone -/

@[simp] theorem State.setCore_powered (s : State) (c : Nat) (k : Core) : (s.setCore c k).powered = s.powered := rfl
@[simp] theorem State.setCore_mem (s : State) (c : Nat) (k : Core) : (s.setCore c k).mem = s.mem := rfl
@[simp] theorem State.setCore_memPois (s : State) (c : Nat) (k : Core) : (s.setCore c k).memPois = s.memPois := rfl
@[simp] theorem State.setCore_eccs (s : State) (c : Nat) (k : Core) : (s.setCore c k).eccs = s.eccs := rfl
@[simp] theorem State.setCore_llcPois (s : State) (c : Nat) (k : Core) : (s.setCore c k).llcPois = s.llcPois := rfl
@[simp] theorem State.setCore_llcCnt (s : State) (c : Nat) (k : Core) : (s.setCore c k).llcCnt = s.llcCnt := rfl
@[simp] theorem State.setCore_selfWrites (s : State) (c : Nat) (k : Core) : (s.setCore c k).selfWrites = s.selfWrites := rfl
@[simp] theorem State.setCore_owners (s : State) (c : Nat) (k : Core) : (s.setCore c k).owners = s.owners := rfl
@[simp] theorem State.setCore_clusters (s : State) (c : Nat) (k : Core) : (s.setCore c k).clusters = s.clusters := rfl
@[simp] theorem State.setCore_slices (s : State) (c : Nat) (k : Core) : (s.setCore c k).slices = s.slices := rfl
@[simp] theorem State.setCore_funcs (s : State) (c : Nat) (k : Core) : (s.setCore c k).funcs = s.funcs := rfl
@[simp] theorem State.setCore_worlds (s : State) (c : Nat) (k : Core) : (s.setCore c k).worlds = s.worlds := rfl
@[simp] theorem State.setCore_sched (s : State) (c : Nat) (k : Core) : (s.setCore c k).sched = s.sched := rfl
@[simp] theorem State.setCore_reqs (s : State) (c : Nat) (k : Core) : (s.setCore c k).reqs = s.reqs := rfl
@[simp] theorem State.setCore_answers (s : State) (c : Nat) (k : Core) : (s.setCore c k).answers = s.answers := rfl
@[simp] theorem State.setCore_nextTicket (s : State) (c : Nat) (k : Core) : (s.setCore c k).nextTicket = s.nextTicket := rfl
@[simp] theorem State.setCore_tracers (s : State) (c : Nat) (k : Core) : (s.setCore c k).tracers = s.tracers := rfl
@[simp] theorem State.setCore_tvech (s : State) (c : Nat) (k : Core) : (s.setCore c k).tvech = s.tvech := rfl
@[simp] theorem State.setCore_conf (s : State) (c : Nat) (k : Core) : (s.setCore c k).conf = s.conf := rfl
@[simp] theorem State.setCore_sec (s : State) (c : Nat) (k : Core) : (s.setCore c k).sec = s.sec := rfl
@[simp] theorem State.setCore_rdy (s : State) (c : Nat) (k : Core) : (s.setCore c k).rdy = s.rdy := rfl
@[simp] theorem State.setCore_links (s : State) (c : Nat) (k : Core) : (s.setCore c k).links = s.links := rfl
@[simp] theorem State.setCore_peers (s : State) (c : Nat) (k : Core) : (s.setCore c k).peers = s.peers := rfl
@[simp] theorem State.setCore_nextTid (s : State) (c : Nat) (k : Core) : (s.setCore c k).nextTid = s.nextTid := rfl
@[simp] theorem State.setCore_specs (s : State) (c : Nat) (k : Core) : (s.setCore c k).specs = s.specs := rfl
@[simp] theorem State.setCore_passes (s : State) (c : Nat) (k : Core) : (s.setCore c k).passes = s.passes := rfl
@[simp] theorem State.setCore_nextPass (s : State) (c : Nat) (k : Core) : (s.setCore c k).nextPass = s.nextPass := rfl
@[simp] theorem State.setCore_nextUid (s : State) (c : Nat) (k : Core) : (s.setCore c k).nextUid = s.nextUid := rfl
@[simp] theorem State.setCore_fc (s : State) (c : Nat) (k : Core) : (s.setCore c k).fc = s.fc := rfl
@[simp] theorem State.setCore_ticks (s : State) (c : Nat) (k : Core) : (s.setCore c k).ticks = s.ticks := rfl
@[simp] theorem State.setCore_bootCc (s : State) (c : Nat) (k : Core) : (s.setCore c k).bootCc = s.bootCc := rfl
@[simp] theorem State.setCore_outbox (s : State) (c : Nat) (k : Core) : (s.setCore c k).outbox = s.outbox := rfl
@[simp] theorem State.setCore_cur (s : State) (c : Nat) (k : Core) : (s.setCore c k).cur = s.cur := rfl
@[simp] theorem State.setCore_agenda (s : State) (c : Nat) (k : Core) : (s.setCore c k).agenda = s.agenda := rfl
@[simp] theorem State.setCore_free (s : State) (c : Nat) (k : Core) : (s.setCore c k).free = s.free := rfl

@[simp] theorem State.modCore_powered (s : State) (c : Nat) (g : Core → Core) : (s.modCore c g).powered = s.powered := rfl
@[simp] theorem State.modCore_mem (s : State) (c : Nat) (g : Core → Core) : (s.modCore c g).mem = s.mem := rfl
@[simp] theorem State.modCore_memPois (s : State) (c : Nat) (g : Core → Core) : (s.modCore c g).memPois = s.memPois := rfl
@[simp] theorem State.modCore_eccs (s : State) (c : Nat) (g : Core → Core) : (s.modCore c g).eccs = s.eccs := rfl
@[simp] theorem State.modCore_llcPois (s : State) (c : Nat) (g : Core → Core) : (s.modCore c g).llcPois = s.llcPois := rfl
@[simp] theorem State.modCore_llcCnt (s : State) (c : Nat) (g : Core → Core) : (s.modCore c g).llcCnt = s.llcCnt := rfl
@[simp] theorem State.modCore_selfWrites (s : State) (c : Nat) (g : Core → Core) : (s.modCore c g).selfWrites = s.selfWrites := rfl
@[simp] theorem State.modCore_owners (s : State) (c : Nat) (g : Core → Core) : (s.modCore c g).owners = s.owners := rfl
@[simp] theorem State.modCore_clusters (s : State) (c : Nat) (g : Core → Core) : (s.modCore c g).clusters = s.clusters := rfl
@[simp] theorem State.modCore_slices (s : State) (c : Nat) (g : Core → Core) : (s.modCore c g).slices = s.slices := rfl
@[simp] theorem State.modCore_funcs (s : State) (c : Nat) (g : Core → Core) : (s.modCore c g).funcs = s.funcs := rfl
@[simp] theorem State.modCore_worlds (s : State) (c : Nat) (g : Core → Core) : (s.modCore c g).worlds = s.worlds := rfl
@[simp] theorem State.modCore_sched (s : State) (c : Nat) (g : Core → Core) : (s.modCore c g).sched = s.sched := rfl
@[simp] theorem State.modCore_reqs (s : State) (c : Nat) (g : Core → Core) : (s.modCore c g).reqs = s.reqs := rfl
@[simp] theorem State.modCore_answers (s : State) (c : Nat) (g : Core → Core) : (s.modCore c g).answers = s.answers := rfl
@[simp] theorem State.modCore_nextTicket (s : State) (c : Nat) (g : Core → Core) : (s.modCore c g).nextTicket = s.nextTicket := rfl
@[simp] theorem State.modCore_tracers (s : State) (c : Nat) (g : Core → Core) : (s.modCore c g).tracers = s.tracers := rfl
@[simp] theorem State.modCore_tvech (s : State) (c : Nat) (g : Core → Core) : (s.modCore c g).tvech = s.tvech := rfl
@[simp] theorem State.modCore_conf (s : State) (c : Nat) (g : Core → Core) : (s.modCore c g).conf = s.conf := rfl
@[simp] theorem State.modCore_sec (s : State) (c : Nat) (g : Core → Core) : (s.modCore c g).sec = s.sec := rfl
@[simp] theorem State.modCore_rdy (s : State) (c : Nat) (g : Core → Core) : (s.modCore c g).rdy = s.rdy := rfl
@[simp] theorem State.modCore_links (s : State) (c : Nat) (g : Core → Core) : (s.modCore c g).links = s.links := rfl
@[simp] theorem State.modCore_peers (s : State) (c : Nat) (g : Core → Core) : (s.modCore c g).peers = s.peers := rfl
@[simp] theorem State.modCore_nextTid (s : State) (c : Nat) (g : Core → Core) : (s.modCore c g).nextTid = s.nextTid := rfl
@[simp] theorem State.modCore_specs (s : State) (c : Nat) (g : Core → Core) : (s.modCore c g).specs = s.specs := rfl
@[simp] theorem State.modCore_passes (s : State) (c : Nat) (g : Core → Core) : (s.modCore c g).passes = s.passes := rfl
@[simp] theorem State.modCore_nextPass (s : State) (c : Nat) (g : Core → Core) : (s.modCore c g).nextPass = s.nextPass := rfl
@[simp] theorem State.modCore_nextUid (s : State) (c : Nat) (g : Core → Core) : (s.modCore c g).nextUid = s.nextUid := rfl
@[simp] theorem State.modCore_fc (s : State) (c : Nat) (g : Core → Core) : (s.modCore c g).fc = s.fc := rfl
@[simp] theorem State.modCore_ticks (s : State) (c : Nat) (g : Core → Core) : (s.modCore c g).ticks = s.ticks := rfl
@[simp] theorem State.modCore_bootCc (s : State) (c : Nat) (g : Core → Core) : (s.modCore c g).bootCc = s.bootCc := rfl
@[simp] theorem State.modCore_outbox (s : State) (c : Nat) (g : Core → Core) : (s.modCore c g).outbox = s.outbox := rfl
@[simp] theorem State.modCore_cur (s : State) (c : Nat) (g : Core → Core) : (s.modCore c g).cur = s.cur := rfl
@[simp] theorem State.modCore_agenda (s : State) (c : Nat) (g : Core → Core) : (s.modCore c g).agenda = s.agenda := rfl
@[simp] theorem State.modCore_free (s : State) (c : Nat) (g : Core → Core) : (s.modCore c g).free = s.free := rfl

@[simp] theorem State.modSlot_powered (s : State) (c w : Nat) (g : Slot → Slot) : (s.modSlot c w g).powered = s.powered := rfl
@[simp] theorem State.modSlot_mem (s : State) (c w : Nat) (g : Slot → Slot) : (s.modSlot c w g).mem = s.mem := rfl
@[simp] theorem State.modSlot_memPois (s : State) (c w : Nat) (g : Slot → Slot) : (s.modSlot c w g).memPois = s.memPois := rfl
@[simp] theorem State.modSlot_eccs (s : State) (c w : Nat) (g : Slot → Slot) : (s.modSlot c w g).eccs = s.eccs := rfl
@[simp] theorem State.modSlot_llcPois (s : State) (c w : Nat) (g : Slot → Slot) : (s.modSlot c w g).llcPois = s.llcPois := rfl
@[simp] theorem State.modSlot_llcCnt (s : State) (c w : Nat) (g : Slot → Slot) : (s.modSlot c w g).llcCnt = s.llcCnt := rfl
@[simp] theorem State.modSlot_selfWrites (s : State) (c w : Nat) (g : Slot → Slot) : (s.modSlot c w g).selfWrites = s.selfWrites := rfl
@[simp] theorem State.modSlot_owners (s : State) (c w : Nat) (g : Slot → Slot) : (s.modSlot c w g).owners = s.owners := rfl
@[simp] theorem State.modSlot_clusters (s : State) (c w : Nat) (g : Slot → Slot) : (s.modSlot c w g).clusters = s.clusters := rfl
@[simp] theorem State.modSlot_slices (s : State) (c w : Nat) (g : Slot → Slot) : (s.modSlot c w g).slices = s.slices := rfl
@[simp] theorem State.modSlot_funcs (s : State) (c w : Nat) (g : Slot → Slot) : (s.modSlot c w g).funcs = s.funcs := rfl
@[simp] theorem State.modSlot_worlds (s : State) (c w : Nat) (g : Slot → Slot) : (s.modSlot c w g).worlds = s.worlds := rfl
@[simp] theorem State.modSlot_sched (s : State) (c w : Nat) (g : Slot → Slot) : (s.modSlot c w g).sched = s.sched := rfl
@[simp] theorem State.modSlot_reqs (s : State) (c w : Nat) (g : Slot → Slot) : (s.modSlot c w g).reqs = s.reqs := rfl
@[simp] theorem State.modSlot_answers (s : State) (c w : Nat) (g : Slot → Slot) : (s.modSlot c w g).answers = s.answers := rfl
@[simp] theorem State.modSlot_nextTicket (s : State) (c w : Nat) (g : Slot → Slot) : (s.modSlot c w g).nextTicket = s.nextTicket := rfl
@[simp] theorem State.modSlot_tracers (s : State) (c w : Nat) (g : Slot → Slot) : (s.modSlot c w g).tracers = s.tracers := rfl
@[simp] theorem State.modSlot_tvech (s : State) (c w : Nat) (g : Slot → Slot) : (s.modSlot c w g).tvech = s.tvech := rfl
@[simp] theorem State.modSlot_conf (s : State) (c w : Nat) (g : Slot → Slot) : (s.modSlot c w g).conf = s.conf := rfl
@[simp] theorem State.modSlot_sec (s : State) (c w : Nat) (g : Slot → Slot) : (s.modSlot c w g).sec = s.sec := rfl
@[simp] theorem State.modSlot_rdy (s : State) (c w : Nat) (g : Slot → Slot) : (s.modSlot c w g).rdy = s.rdy := rfl
@[simp] theorem State.modSlot_links (s : State) (c w : Nat) (g : Slot → Slot) : (s.modSlot c w g).links = s.links := rfl
@[simp] theorem State.modSlot_peers (s : State) (c w : Nat) (g : Slot → Slot) : (s.modSlot c w g).peers = s.peers := rfl
@[simp] theorem State.modSlot_nextTid (s : State) (c w : Nat) (g : Slot → Slot) : (s.modSlot c w g).nextTid = s.nextTid := rfl
@[simp] theorem State.modSlot_specs (s : State) (c w : Nat) (g : Slot → Slot) : (s.modSlot c w g).specs = s.specs := rfl
@[simp] theorem State.modSlot_passes (s : State) (c w : Nat) (g : Slot → Slot) : (s.modSlot c w g).passes = s.passes := rfl
@[simp] theorem State.modSlot_nextPass (s : State) (c w : Nat) (g : Slot → Slot) : (s.modSlot c w g).nextPass = s.nextPass := rfl
@[simp] theorem State.modSlot_nextUid (s : State) (c w : Nat) (g : Slot → Slot) : (s.modSlot c w g).nextUid = s.nextUid := rfl
@[simp] theorem State.modSlot_fc (s : State) (c w : Nat) (g : Slot → Slot) : (s.modSlot c w g).fc = s.fc := rfl
@[simp] theorem State.modSlot_ticks (s : State) (c w : Nat) (g : Slot → Slot) : (s.modSlot c w g).ticks = s.ticks := rfl
@[simp] theorem State.modSlot_bootCc (s : State) (c w : Nat) (g : Slot → Slot) : (s.modSlot c w g).bootCc = s.bootCc := rfl
@[simp] theorem State.modSlot_outbox (s : State) (c w : Nat) (g : Slot → Slot) : (s.modSlot c w g).outbox = s.outbox := rfl
@[simp] theorem State.modSlot_cur (s : State) (c w : Nat) (g : Slot → Slot) : (s.modSlot c w g).cur = s.cur := rfl
@[simp] theorem State.modSlot_agenda (s : State) (c w : Nat) (g : Slot → Slot) : (s.modSlot c w g).agenda = s.agenda := rfl
@[simp] theorem State.modSlot_free (s : State) (c w : Nat) (g : Slot → Slot) : (s.modSlot c w g).free = s.free := rfl

@[simp] theorem State.modWave_powered (s : State) (c w : Nat) (g : Wave → Wave) : (s.modWave c w g).powered = s.powered := rfl
@[simp] theorem State.modWave_mem (s : State) (c w : Nat) (g : Wave → Wave) : (s.modWave c w g).mem = s.mem := rfl
@[simp] theorem State.modWave_memPois (s : State) (c w : Nat) (g : Wave → Wave) : (s.modWave c w g).memPois = s.memPois := rfl
@[simp] theorem State.modWave_eccs (s : State) (c w : Nat) (g : Wave → Wave) : (s.modWave c w g).eccs = s.eccs := rfl
@[simp] theorem State.modWave_llcPois (s : State) (c w : Nat) (g : Wave → Wave) : (s.modWave c w g).llcPois = s.llcPois := rfl
@[simp] theorem State.modWave_llcCnt (s : State) (c w : Nat) (g : Wave → Wave) : (s.modWave c w g).llcCnt = s.llcCnt := rfl
@[simp] theorem State.modWave_selfWrites (s : State) (c w : Nat) (g : Wave → Wave) : (s.modWave c w g).selfWrites = s.selfWrites := rfl
@[simp] theorem State.modWave_owners (s : State) (c w : Nat) (g : Wave → Wave) : (s.modWave c w g).owners = s.owners := rfl
@[simp] theorem State.modWave_clusters (s : State) (c w : Nat) (g : Wave → Wave) : (s.modWave c w g).clusters = s.clusters := rfl
@[simp] theorem State.modWave_slices (s : State) (c w : Nat) (g : Wave → Wave) : (s.modWave c w g).slices = s.slices := rfl
@[simp] theorem State.modWave_funcs (s : State) (c w : Nat) (g : Wave → Wave) : (s.modWave c w g).funcs = s.funcs := rfl
@[simp] theorem State.modWave_worlds (s : State) (c w : Nat) (g : Wave → Wave) : (s.modWave c w g).worlds = s.worlds := rfl
@[simp] theorem State.modWave_sched (s : State) (c w : Nat) (g : Wave → Wave) : (s.modWave c w g).sched = s.sched := rfl
@[simp] theorem State.modWave_reqs (s : State) (c w : Nat) (g : Wave → Wave) : (s.modWave c w g).reqs = s.reqs := rfl
@[simp] theorem State.modWave_answers (s : State) (c w : Nat) (g : Wave → Wave) : (s.modWave c w g).answers = s.answers := rfl
@[simp] theorem State.modWave_nextTicket (s : State) (c w : Nat) (g : Wave → Wave) : (s.modWave c w g).nextTicket = s.nextTicket := rfl
@[simp] theorem State.modWave_tracers (s : State) (c w : Nat) (g : Wave → Wave) : (s.modWave c w g).tracers = s.tracers := rfl
@[simp] theorem State.modWave_tvech (s : State) (c w : Nat) (g : Wave → Wave) : (s.modWave c w g).tvech = s.tvech := rfl
@[simp] theorem State.modWave_conf (s : State) (c w : Nat) (g : Wave → Wave) : (s.modWave c w g).conf = s.conf := rfl
@[simp] theorem State.modWave_sec (s : State) (c w : Nat) (g : Wave → Wave) : (s.modWave c w g).sec = s.sec := rfl
@[simp] theorem State.modWave_rdy (s : State) (c w : Nat) (g : Wave → Wave) : (s.modWave c w g).rdy = s.rdy := rfl
@[simp] theorem State.modWave_links (s : State) (c w : Nat) (g : Wave → Wave) : (s.modWave c w g).links = s.links := rfl
@[simp] theorem State.modWave_peers (s : State) (c w : Nat) (g : Wave → Wave) : (s.modWave c w g).peers = s.peers := rfl
@[simp] theorem State.modWave_nextTid (s : State) (c w : Nat) (g : Wave → Wave) : (s.modWave c w g).nextTid = s.nextTid := rfl
@[simp] theorem State.modWave_specs (s : State) (c w : Nat) (g : Wave → Wave) : (s.modWave c w g).specs = s.specs := rfl
@[simp] theorem State.modWave_passes (s : State) (c w : Nat) (g : Wave → Wave) : (s.modWave c w g).passes = s.passes := rfl
@[simp] theorem State.modWave_nextPass (s : State) (c w : Nat) (g : Wave → Wave) : (s.modWave c w g).nextPass = s.nextPass := rfl
@[simp] theorem State.modWave_nextUid (s : State) (c w : Nat) (g : Wave → Wave) : (s.modWave c w g).nextUid = s.nextUid := rfl
@[simp] theorem State.modWave_fc (s : State) (c w : Nat) (g : Wave → Wave) : (s.modWave c w g).fc = s.fc := rfl
@[simp] theorem State.modWave_ticks (s : State) (c w : Nat) (g : Wave → Wave) : (s.modWave c w g).ticks = s.ticks := rfl
@[simp] theorem State.modWave_bootCc (s : State) (c w : Nat) (g : Wave → Wave) : (s.modWave c w g).bootCc = s.bootCc := rfl
@[simp] theorem State.modWave_outbox (s : State) (c w : Nat) (g : Wave → Wave) : (s.modWave c w g).outbox = s.outbox := rfl
@[simp] theorem State.modWave_cur (s : State) (c w : Nat) (g : Wave → Wave) : (s.modWave c w g).cur = s.cur := rfl
@[simp] theorem State.modWave_agenda (s : State) (c w : Nat) (g : Wave → Wave) : (s.modWave c w g).agenda = s.agenda := rfl
@[simp] theorem State.modWave_free (s : State) (c w : Nat) (g : Wave → Wave) : (s.modWave c w g).free = s.free := rfl

@[simp] theorem State.modLane_powered (s : State) (c w l : Nat) (g : Lane → Lane) : (s.modLane c w l g).powered = s.powered := rfl
@[simp] theorem State.modLane_mem (s : State) (c w l : Nat) (g : Lane → Lane) : (s.modLane c w l g).mem = s.mem := rfl
@[simp] theorem State.modLane_memPois (s : State) (c w l : Nat) (g : Lane → Lane) : (s.modLane c w l g).memPois = s.memPois := rfl
@[simp] theorem State.modLane_eccs (s : State) (c w l : Nat) (g : Lane → Lane) : (s.modLane c w l g).eccs = s.eccs := rfl
@[simp] theorem State.modLane_llcPois (s : State) (c w l : Nat) (g : Lane → Lane) : (s.modLane c w l g).llcPois = s.llcPois := rfl
@[simp] theorem State.modLane_llcCnt (s : State) (c w l : Nat) (g : Lane → Lane) : (s.modLane c w l g).llcCnt = s.llcCnt := rfl
@[simp] theorem State.modLane_selfWrites (s : State) (c w l : Nat) (g : Lane → Lane) : (s.modLane c w l g).selfWrites = s.selfWrites := rfl
@[simp] theorem State.modLane_owners (s : State) (c w l : Nat) (g : Lane → Lane) : (s.modLane c w l g).owners = s.owners := rfl
@[simp] theorem State.modLane_clusters (s : State) (c w l : Nat) (g : Lane → Lane) : (s.modLane c w l g).clusters = s.clusters := rfl
@[simp] theorem State.modLane_slices (s : State) (c w l : Nat) (g : Lane → Lane) : (s.modLane c w l g).slices = s.slices := rfl
@[simp] theorem State.modLane_funcs (s : State) (c w l : Nat) (g : Lane → Lane) : (s.modLane c w l g).funcs = s.funcs := rfl
@[simp] theorem State.modLane_worlds (s : State) (c w l : Nat) (g : Lane → Lane) : (s.modLane c w l g).worlds = s.worlds := rfl
@[simp] theorem State.modLane_sched (s : State) (c w l : Nat) (g : Lane → Lane) : (s.modLane c w l g).sched = s.sched := rfl
@[simp] theorem State.modLane_reqs (s : State) (c w l : Nat) (g : Lane → Lane) : (s.modLane c w l g).reqs = s.reqs := rfl
@[simp] theorem State.modLane_answers (s : State) (c w l : Nat) (g : Lane → Lane) : (s.modLane c w l g).answers = s.answers := rfl
@[simp] theorem State.modLane_nextTicket (s : State) (c w l : Nat) (g : Lane → Lane) : (s.modLane c w l g).nextTicket = s.nextTicket := rfl
@[simp] theorem State.modLane_tracers (s : State) (c w l : Nat) (g : Lane → Lane) : (s.modLane c w l g).tracers = s.tracers := rfl
@[simp] theorem State.modLane_tvech (s : State) (c w l : Nat) (g : Lane → Lane) : (s.modLane c w l g).tvech = s.tvech := rfl
@[simp] theorem State.modLane_conf (s : State) (c w l : Nat) (g : Lane → Lane) : (s.modLane c w l g).conf = s.conf := rfl
@[simp] theorem State.modLane_sec (s : State) (c w l : Nat) (g : Lane → Lane) : (s.modLane c w l g).sec = s.sec := rfl
@[simp] theorem State.modLane_rdy (s : State) (c w l : Nat) (g : Lane → Lane) : (s.modLane c w l g).rdy = s.rdy := rfl
@[simp] theorem State.modLane_links (s : State) (c w l : Nat) (g : Lane → Lane) : (s.modLane c w l g).links = s.links := rfl
@[simp] theorem State.modLane_peers (s : State) (c w l : Nat) (g : Lane → Lane) : (s.modLane c w l g).peers = s.peers := rfl
@[simp] theorem State.modLane_nextTid (s : State) (c w l : Nat) (g : Lane → Lane) : (s.modLane c w l g).nextTid = s.nextTid := rfl
@[simp] theorem State.modLane_specs (s : State) (c w l : Nat) (g : Lane → Lane) : (s.modLane c w l g).specs = s.specs := rfl
@[simp] theorem State.modLane_passes (s : State) (c w l : Nat) (g : Lane → Lane) : (s.modLane c w l g).passes = s.passes := rfl
@[simp] theorem State.modLane_nextPass (s : State) (c w l : Nat) (g : Lane → Lane) : (s.modLane c w l g).nextPass = s.nextPass := rfl
@[simp] theorem State.modLane_nextUid (s : State) (c w l : Nat) (g : Lane → Lane) : (s.modLane c w l g).nextUid = s.nextUid := rfl
@[simp] theorem State.modLane_fc (s : State) (c w l : Nat) (g : Lane → Lane) : (s.modLane c w l g).fc = s.fc := rfl
@[simp] theorem State.modLane_ticks (s : State) (c w l : Nat) (g : Lane → Lane) : (s.modLane c w l g).ticks = s.ticks := rfl
@[simp] theorem State.modLane_bootCc (s : State) (c w l : Nat) (g : Lane → Lane) : (s.modLane c w l g).bootCc = s.bootCc := rfl
@[simp] theorem State.modLane_outbox (s : State) (c w l : Nat) (g : Lane → Lane) : (s.modLane c w l g).outbox = s.outbox := rfl
@[simp] theorem State.modLane_cur (s : State) (c w l : Nat) (g : Lane → Lane) : (s.modLane c w l g).cur = s.cur := rfl
@[simp] theorem State.modLane_agenda (s : State) (c w l : Nat) (g : Lane → Lane) : (s.modLane c w l g).agenda = s.agenda := rfl
@[simp] theorem State.modLane_free (s : State) (c w l : Nat) (g : Lane → Lane) : (s.modLane c w l g).free = s.free := rfl

@[simp] theorem State.modQuarter_powered (s : State) (c q : Nat) (g : Quarter → Quarter) : (s.modQuarter c q g).powered = s.powered := rfl
@[simp] theorem State.modQuarter_mem (s : State) (c q : Nat) (g : Quarter → Quarter) : (s.modQuarter c q g).mem = s.mem := rfl
@[simp] theorem State.modQuarter_memPois (s : State) (c q : Nat) (g : Quarter → Quarter) : (s.modQuarter c q g).memPois = s.memPois := rfl
@[simp] theorem State.modQuarter_eccs (s : State) (c q : Nat) (g : Quarter → Quarter) : (s.modQuarter c q g).eccs = s.eccs := rfl
@[simp] theorem State.modQuarter_llcPois (s : State) (c q : Nat) (g : Quarter → Quarter) : (s.modQuarter c q g).llcPois = s.llcPois := rfl
@[simp] theorem State.modQuarter_llcCnt (s : State) (c q : Nat) (g : Quarter → Quarter) : (s.modQuarter c q g).llcCnt = s.llcCnt := rfl
@[simp] theorem State.modQuarter_selfWrites (s : State) (c q : Nat) (g : Quarter → Quarter) : (s.modQuarter c q g).selfWrites = s.selfWrites := rfl
@[simp] theorem State.modQuarter_owners (s : State) (c q : Nat) (g : Quarter → Quarter) : (s.modQuarter c q g).owners = s.owners := rfl
@[simp] theorem State.modQuarter_clusters (s : State) (c q : Nat) (g : Quarter → Quarter) : (s.modQuarter c q g).clusters = s.clusters := rfl
@[simp] theorem State.modQuarter_slices (s : State) (c q : Nat) (g : Quarter → Quarter) : (s.modQuarter c q g).slices = s.slices := rfl
@[simp] theorem State.modQuarter_funcs (s : State) (c q : Nat) (g : Quarter → Quarter) : (s.modQuarter c q g).funcs = s.funcs := rfl
@[simp] theorem State.modQuarter_worlds (s : State) (c q : Nat) (g : Quarter → Quarter) : (s.modQuarter c q g).worlds = s.worlds := rfl
@[simp] theorem State.modQuarter_sched (s : State) (c q : Nat) (g : Quarter → Quarter) : (s.modQuarter c q g).sched = s.sched := rfl
@[simp] theorem State.modQuarter_reqs (s : State) (c q : Nat) (g : Quarter → Quarter) : (s.modQuarter c q g).reqs = s.reqs := rfl
@[simp] theorem State.modQuarter_answers (s : State) (c q : Nat) (g : Quarter → Quarter) : (s.modQuarter c q g).answers = s.answers := rfl
@[simp] theorem State.modQuarter_nextTicket (s : State) (c q : Nat) (g : Quarter → Quarter) : (s.modQuarter c q g).nextTicket = s.nextTicket := rfl
@[simp] theorem State.modQuarter_tracers (s : State) (c q : Nat) (g : Quarter → Quarter) : (s.modQuarter c q g).tracers = s.tracers := rfl
@[simp] theorem State.modQuarter_tvech (s : State) (c q : Nat) (g : Quarter → Quarter) : (s.modQuarter c q g).tvech = s.tvech := rfl
@[simp] theorem State.modQuarter_conf (s : State) (c q : Nat) (g : Quarter → Quarter) : (s.modQuarter c q g).conf = s.conf := rfl
@[simp] theorem State.modQuarter_sec (s : State) (c q : Nat) (g : Quarter → Quarter) : (s.modQuarter c q g).sec = s.sec := rfl
@[simp] theorem State.modQuarter_rdy (s : State) (c q : Nat) (g : Quarter → Quarter) : (s.modQuarter c q g).rdy = s.rdy := rfl
@[simp] theorem State.modQuarter_links (s : State) (c q : Nat) (g : Quarter → Quarter) : (s.modQuarter c q g).links = s.links := rfl
@[simp] theorem State.modQuarter_peers (s : State) (c q : Nat) (g : Quarter → Quarter) : (s.modQuarter c q g).peers = s.peers := rfl
@[simp] theorem State.modQuarter_nextTid (s : State) (c q : Nat) (g : Quarter → Quarter) : (s.modQuarter c q g).nextTid = s.nextTid := rfl
@[simp] theorem State.modQuarter_specs (s : State) (c q : Nat) (g : Quarter → Quarter) : (s.modQuarter c q g).specs = s.specs := rfl
@[simp] theorem State.modQuarter_passes (s : State) (c q : Nat) (g : Quarter → Quarter) : (s.modQuarter c q g).passes = s.passes := rfl
@[simp] theorem State.modQuarter_nextPass (s : State) (c q : Nat) (g : Quarter → Quarter) : (s.modQuarter c q g).nextPass = s.nextPass := rfl
@[simp] theorem State.modQuarter_nextUid (s : State) (c q : Nat) (g : Quarter → Quarter) : (s.modQuarter c q g).nextUid = s.nextUid := rfl
@[simp] theorem State.modQuarter_fc (s : State) (c q : Nat) (g : Quarter → Quarter) : (s.modQuarter c q g).fc = s.fc := rfl
@[simp] theorem State.modQuarter_ticks (s : State) (c q : Nat) (g : Quarter → Quarter) : (s.modQuarter c q g).ticks = s.ticks := rfl
@[simp] theorem State.modQuarter_bootCc (s : State) (c q : Nat) (g : Quarter → Quarter) : (s.modQuarter c q g).bootCc = s.bootCc := rfl
@[simp] theorem State.modQuarter_outbox (s : State) (c q : Nat) (g : Quarter → Quarter) : (s.modQuarter c q g).outbox = s.outbox := rfl
@[simp] theorem State.modQuarter_cur (s : State) (c q : Nat) (g : Quarter → Quarter) : (s.modQuarter c q g).cur = s.cur := rfl
@[simp] theorem State.modQuarter_agenda (s : State) (c q : Nat) (g : Quarter → Quarter) : (s.modQuarter c q g).agenda = s.agenda := rfl
@[simp] theorem State.modQuarter_free (s : State) (c q : Nat) (g : Quarter → Quarter) : (s.modQuarter c q g).free = s.free := rfl

@[simp] theorem State.modRun_powered (s : State) (c q : Nat) (g : Run → Run) : (s.modRun c q g).powered = s.powered := rfl
@[simp] theorem State.modRun_mem (s : State) (c q : Nat) (g : Run → Run) : (s.modRun c q g).mem = s.mem := rfl
@[simp] theorem State.modRun_memPois (s : State) (c q : Nat) (g : Run → Run) : (s.modRun c q g).memPois = s.memPois := rfl
@[simp] theorem State.modRun_eccs (s : State) (c q : Nat) (g : Run → Run) : (s.modRun c q g).eccs = s.eccs := rfl
@[simp] theorem State.modRun_llcPois (s : State) (c q : Nat) (g : Run → Run) : (s.modRun c q g).llcPois = s.llcPois := rfl
@[simp] theorem State.modRun_llcCnt (s : State) (c q : Nat) (g : Run → Run) : (s.modRun c q g).llcCnt = s.llcCnt := rfl
@[simp] theorem State.modRun_selfWrites (s : State) (c q : Nat) (g : Run → Run) : (s.modRun c q g).selfWrites = s.selfWrites := rfl
@[simp] theorem State.modRun_owners (s : State) (c q : Nat) (g : Run → Run) : (s.modRun c q g).owners = s.owners := rfl
@[simp] theorem State.modRun_clusters (s : State) (c q : Nat) (g : Run → Run) : (s.modRun c q g).clusters = s.clusters := rfl
@[simp] theorem State.modRun_slices (s : State) (c q : Nat) (g : Run → Run) : (s.modRun c q g).slices = s.slices := rfl
@[simp] theorem State.modRun_funcs (s : State) (c q : Nat) (g : Run → Run) : (s.modRun c q g).funcs = s.funcs := rfl
@[simp] theorem State.modRun_worlds (s : State) (c q : Nat) (g : Run → Run) : (s.modRun c q g).worlds = s.worlds := rfl
@[simp] theorem State.modRun_sched (s : State) (c q : Nat) (g : Run → Run) : (s.modRun c q g).sched = s.sched := rfl
@[simp] theorem State.modRun_reqs (s : State) (c q : Nat) (g : Run → Run) : (s.modRun c q g).reqs = s.reqs := rfl
@[simp] theorem State.modRun_answers (s : State) (c q : Nat) (g : Run → Run) : (s.modRun c q g).answers = s.answers := rfl
@[simp] theorem State.modRun_nextTicket (s : State) (c q : Nat) (g : Run → Run) : (s.modRun c q g).nextTicket = s.nextTicket := rfl
@[simp] theorem State.modRun_tracers (s : State) (c q : Nat) (g : Run → Run) : (s.modRun c q g).tracers = s.tracers := rfl
@[simp] theorem State.modRun_tvech (s : State) (c q : Nat) (g : Run → Run) : (s.modRun c q g).tvech = s.tvech := rfl
@[simp] theorem State.modRun_conf (s : State) (c q : Nat) (g : Run → Run) : (s.modRun c q g).conf = s.conf := rfl
@[simp] theorem State.modRun_sec (s : State) (c q : Nat) (g : Run → Run) : (s.modRun c q g).sec = s.sec := rfl
@[simp] theorem State.modRun_rdy (s : State) (c q : Nat) (g : Run → Run) : (s.modRun c q g).rdy = s.rdy := rfl
@[simp] theorem State.modRun_links (s : State) (c q : Nat) (g : Run → Run) : (s.modRun c q g).links = s.links := rfl
@[simp] theorem State.modRun_peers (s : State) (c q : Nat) (g : Run → Run) : (s.modRun c q g).peers = s.peers := rfl
@[simp] theorem State.modRun_nextTid (s : State) (c q : Nat) (g : Run → Run) : (s.modRun c q g).nextTid = s.nextTid := rfl
@[simp] theorem State.modRun_specs (s : State) (c q : Nat) (g : Run → Run) : (s.modRun c q g).specs = s.specs := rfl
@[simp] theorem State.modRun_passes (s : State) (c q : Nat) (g : Run → Run) : (s.modRun c q g).passes = s.passes := rfl
@[simp] theorem State.modRun_nextPass (s : State) (c q : Nat) (g : Run → Run) : (s.modRun c q g).nextPass = s.nextPass := rfl
@[simp] theorem State.modRun_nextUid (s : State) (c q : Nat) (g : Run → Run) : (s.modRun c q g).nextUid = s.nextUid := rfl
@[simp] theorem State.modRun_fc (s : State) (c q : Nat) (g : Run → Run) : (s.modRun c q g).fc = s.fc := rfl
@[simp] theorem State.modRun_ticks (s : State) (c q : Nat) (g : Run → Run) : (s.modRun c q g).ticks = s.ticks := rfl
@[simp] theorem State.modRun_bootCc (s : State) (c q : Nat) (g : Run → Run) : (s.modRun c q g).bootCc = s.bootCc := rfl
@[simp] theorem State.modRun_outbox (s : State) (c q : Nat) (g : Run → Run) : (s.modRun c q g).outbox = s.outbox := rfl
@[simp] theorem State.modRun_cur (s : State) (c q : Nat) (g : Run → Run) : (s.modRun c q g).cur = s.cur := rfl
@[simp] theorem State.modRun_agenda (s : State) (c q : Nat) (g : Run → Run) : (s.modRun c q g).agenda = s.agenda := rfl
@[simp] theorem State.modRun_free (s : State) (c q : Nat) (g : Run → Run) : (s.modRun c q g).free = s.free := rfl

@[simp] theorem State.modGroup_powered (s : State) (c q p : Nat) (g : Group → Group) : (s.modGroup c q p g).powered = s.powered := rfl
@[simp] theorem State.modGroup_mem (s : State) (c q p : Nat) (g : Group → Group) : (s.modGroup c q p g).mem = s.mem := rfl
@[simp] theorem State.modGroup_memPois (s : State) (c q p : Nat) (g : Group → Group) : (s.modGroup c q p g).memPois = s.memPois := rfl
@[simp] theorem State.modGroup_eccs (s : State) (c q p : Nat) (g : Group → Group) : (s.modGroup c q p g).eccs = s.eccs := rfl
@[simp] theorem State.modGroup_llcPois (s : State) (c q p : Nat) (g : Group → Group) : (s.modGroup c q p g).llcPois = s.llcPois := rfl
@[simp] theorem State.modGroup_llcCnt (s : State) (c q p : Nat) (g : Group → Group) : (s.modGroup c q p g).llcCnt = s.llcCnt := rfl
@[simp] theorem State.modGroup_selfWrites (s : State) (c q p : Nat) (g : Group → Group) : (s.modGroup c q p g).selfWrites = s.selfWrites := rfl
@[simp] theorem State.modGroup_owners (s : State) (c q p : Nat) (g : Group → Group) : (s.modGroup c q p g).owners = s.owners := rfl
@[simp] theorem State.modGroup_clusters (s : State) (c q p : Nat) (g : Group → Group) : (s.modGroup c q p g).clusters = s.clusters := rfl
@[simp] theorem State.modGroup_slices (s : State) (c q p : Nat) (g : Group → Group) : (s.modGroup c q p g).slices = s.slices := rfl
@[simp] theorem State.modGroup_funcs (s : State) (c q p : Nat) (g : Group → Group) : (s.modGroup c q p g).funcs = s.funcs := rfl
@[simp] theorem State.modGroup_worlds (s : State) (c q p : Nat) (g : Group → Group) : (s.modGroup c q p g).worlds = s.worlds := rfl
@[simp] theorem State.modGroup_sched (s : State) (c q p : Nat) (g : Group → Group) : (s.modGroup c q p g).sched = s.sched := rfl
@[simp] theorem State.modGroup_reqs (s : State) (c q p : Nat) (g : Group → Group) : (s.modGroup c q p g).reqs = s.reqs := rfl
@[simp] theorem State.modGroup_answers (s : State) (c q p : Nat) (g : Group → Group) : (s.modGroup c q p g).answers = s.answers := rfl
@[simp] theorem State.modGroup_nextTicket (s : State) (c q p : Nat) (g : Group → Group) : (s.modGroup c q p g).nextTicket = s.nextTicket := rfl
@[simp] theorem State.modGroup_tracers (s : State) (c q p : Nat) (g : Group → Group) : (s.modGroup c q p g).tracers = s.tracers := rfl
@[simp] theorem State.modGroup_tvech (s : State) (c q p : Nat) (g : Group → Group) : (s.modGroup c q p g).tvech = s.tvech := rfl
@[simp] theorem State.modGroup_conf (s : State) (c q p : Nat) (g : Group → Group) : (s.modGroup c q p g).conf = s.conf := rfl
@[simp] theorem State.modGroup_sec (s : State) (c q p : Nat) (g : Group → Group) : (s.modGroup c q p g).sec = s.sec := rfl
@[simp] theorem State.modGroup_rdy (s : State) (c q p : Nat) (g : Group → Group) : (s.modGroup c q p g).rdy = s.rdy := rfl
@[simp] theorem State.modGroup_links (s : State) (c q p : Nat) (g : Group → Group) : (s.modGroup c q p g).links = s.links := rfl
@[simp] theorem State.modGroup_peers (s : State) (c q p : Nat) (g : Group → Group) : (s.modGroup c q p g).peers = s.peers := rfl
@[simp] theorem State.modGroup_nextTid (s : State) (c q p : Nat) (g : Group → Group) : (s.modGroup c q p g).nextTid = s.nextTid := rfl
@[simp] theorem State.modGroup_specs (s : State) (c q p : Nat) (g : Group → Group) : (s.modGroup c q p g).specs = s.specs := rfl
@[simp] theorem State.modGroup_passes (s : State) (c q p : Nat) (g : Group → Group) : (s.modGroup c q p g).passes = s.passes := rfl
@[simp] theorem State.modGroup_nextPass (s : State) (c q p : Nat) (g : Group → Group) : (s.modGroup c q p g).nextPass = s.nextPass := rfl
@[simp] theorem State.modGroup_nextUid (s : State) (c q p : Nat) (g : Group → Group) : (s.modGroup c q p g).nextUid = s.nextUid := rfl
@[simp] theorem State.modGroup_fc (s : State) (c q p : Nat) (g : Group → Group) : (s.modGroup c q p g).fc = s.fc := rfl
@[simp] theorem State.modGroup_ticks (s : State) (c q p : Nat) (g : Group → Group) : (s.modGroup c q p g).ticks = s.ticks := rfl
@[simp] theorem State.modGroup_bootCc (s : State) (c q p : Nat) (g : Group → Group) : (s.modGroup c q p g).bootCc = s.bootCc := rfl
@[simp] theorem State.modGroup_outbox (s : State) (c q p : Nat) (g : Group → Group) : (s.modGroup c q p g).outbox = s.outbox := rfl
@[simp] theorem State.modGroup_cur (s : State) (c q p : Nat) (g : Group → Group) : (s.modGroup c q p g).cur = s.cur := rfl
@[simp] theorem State.modGroup_agenda (s : State) (c q p : Nat) (g : Group → Group) : (s.modGroup c q p g).agenda = s.agenda := rfl
@[simp] theorem State.modGroup_free (s : State) (c q p : Nat) (g : Group → Group) : (s.modGroup c q p g).free = s.free := rfl

@[simp] theorem State.modGang_powered (s : State) (c i : Nat) (g : Gang → Gang) : (s.modGang c i g).powered = s.powered := rfl
@[simp] theorem State.modGang_mem (s : State) (c i : Nat) (g : Gang → Gang) : (s.modGang c i g).mem = s.mem := rfl
@[simp] theorem State.modGang_memPois (s : State) (c i : Nat) (g : Gang → Gang) : (s.modGang c i g).memPois = s.memPois := rfl
@[simp] theorem State.modGang_eccs (s : State) (c i : Nat) (g : Gang → Gang) : (s.modGang c i g).eccs = s.eccs := rfl
@[simp] theorem State.modGang_llcPois (s : State) (c i : Nat) (g : Gang → Gang) : (s.modGang c i g).llcPois = s.llcPois := rfl
@[simp] theorem State.modGang_llcCnt (s : State) (c i : Nat) (g : Gang → Gang) : (s.modGang c i g).llcCnt = s.llcCnt := rfl
@[simp] theorem State.modGang_selfWrites (s : State) (c i : Nat) (g : Gang → Gang) : (s.modGang c i g).selfWrites = s.selfWrites := rfl
@[simp] theorem State.modGang_owners (s : State) (c i : Nat) (g : Gang → Gang) : (s.modGang c i g).owners = s.owners := rfl
@[simp] theorem State.modGang_clusters (s : State) (c i : Nat) (g : Gang → Gang) : (s.modGang c i g).clusters = s.clusters := rfl
@[simp] theorem State.modGang_slices (s : State) (c i : Nat) (g : Gang → Gang) : (s.modGang c i g).slices = s.slices := rfl
@[simp] theorem State.modGang_funcs (s : State) (c i : Nat) (g : Gang → Gang) : (s.modGang c i g).funcs = s.funcs := rfl
@[simp] theorem State.modGang_worlds (s : State) (c i : Nat) (g : Gang → Gang) : (s.modGang c i g).worlds = s.worlds := rfl
@[simp] theorem State.modGang_sched (s : State) (c i : Nat) (g : Gang → Gang) : (s.modGang c i g).sched = s.sched := rfl
@[simp] theorem State.modGang_reqs (s : State) (c i : Nat) (g : Gang → Gang) : (s.modGang c i g).reqs = s.reqs := rfl
@[simp] theorem State.modGang_answers (s : State) (c i : Nat) (g : Gang → Gang) : (s.modGang c i g).answers = s.answers := rfl
@[simp] theorem State.modGang_nextTicket (s : State) (c i : Nat) (g : Gang → Gang) : (s.modGang c i g).nextTicket = s.nextTicket := rfl
@[simp] theorem State.modGang_tracers (s : State) (c i : Nat) (g : Gang → Gang) : (s.modGang c i g).tracers = s.tracers := rfl
@[simp] theorem State.modGang_tvech (s : State) (c i : Nat) (g : Gang → Gang) : (s.modGang c i g).tvech = s.tvech := rfl
@[simp] theorem State.modGang_conf (s : State) (c i : Nat) (g : Gang → Gang) : (s.modGang c i g).conf = s.conf := rfl
@[simp] theorem State.modGang_sec (s : State) (c i : Nat) (g : Gang → Gang) : (s.modGang c i g).sec = s.sec := rfl
@[simp] theorem State.modGang_rdy (s : State) (c i : Nat) (g : Gang → Gang) : (s.modGang c i g).rdy = s.rdy := rfl
@[simp] theorem State.modGang_links (s : State) (c i : Nat) (g : Gang → Gang) : (s.modGang c i g).links = s.links := rfl
@[simp] theorem State.modGang_peers (s : State) (c i : Nat) (g : Gang → Gang) : (s.modGang c i g).peers = s.peers := rfl
@[simp] theorem State.modGang_nextTid (s : State) (c i : Nat) (g : Gang → Gang) : (s.modGang c i g).nextTid = s.nextTid := rfl
@[simp] theorem State.modGang_specs (s : State) (c i : Nat) (g : Gang → Gang) : (s.modGang c i g).specs = s.specs := rfl
@[simp] theorem State.modGang_passes (s : State) (c i : Nat) (g : Gang → Gang) : (s.modGang c i g).passes = s.passes := rfl
@[simp] theorem State.modGang_nextPass (s : State) (c i : Nat) (g : Gang → Gang) : (s.modGang c i g).nextPass = s.nextPass := rfl
@[simp] theorem State.modGang_nextUid (s : State) (c i : Nat) (g : Gang → Gang) : (s.modGang c i g).nextUid = s.nextUid := rfl
@[simp] theorem State.modGang_fc (s : State) (c i : Nat) (g : Gang → Gang) : (s.modGang c i g).fc = s.fc := rfl
@[simp] theorem State.modGang_ticks (s : State) (c i : Nat) (g : Gang → Gang) : (s.modGang c i g).ticks = s.ticks := rfl
@[simp] theorem State.modGang_bootCc (s : State) (c i : Nat) (g : Gang → Gang) : (s.modGang c i g).bootCc = s.bootCc := rfl
@[simp] theorem State.modGang_outbox (s : State) (c i : Nat) (g : Gang → Gang) : (s.modGang c i g).outbox = s.outbox := rfl
@[simp] theorem State.modGang_cur (s : State) (c i : Nat) (g : Gang → Gang) : (s.modGang c i g).cur = s.cur := rfl
@[simp] theorem State.modGang_agenda (s : State) (c i : Nat) (g : Gang → Gang) : (s.modGang c i g).agenda = s.agenda := rfl
@[simp] theorem State.modGang_free (s : State) (c i : Nat) (g : Gang → Gang) : (s.modGang c i g).free = s.free := rfl

@[simp] theorem State.modCluster_powered (s : State) (n : Nat) (g : Cluster → Cluster) : (s.modCluster n g).powered = s.powered := rfl
@[simp] theorem State.modCluster_mem (s : State) (n : Nat) (g : Cluster → Cluster) : (s.modCluster n g).mem = s.mem := rfl
@[simp] theorem State.modCluster_memPois (s : State) (n : Nat) (g : Cluster → Cluster) : (s.modCluster n g).memPois = s.memPois := rfl
@[simp] theorem State.modCluster_eccs (s : State) (n : Nat) (g : Cluster → Cluster) : (s.modCluster n g).eccs = s.eccs := rfl
@[simp] theorem State.modCluster_llcPois (s : State) (n : Nat) (g : Cluster → Cluster) : (s.modCluster n g).llcPois = s.llcPois := rfl
@[simp] theorem State.modCluster_llcCnt (s : State) (n : Nat) (g : Cluster → Cluster) : (s.modCluster n g).llcCnt = s.llcCnt := rfl
@[simp] theorem State.modCluster_selfWrites (s : State) (n : Nat) (g : Cluster → Cluster) : (s.modCluster n g).selfWrites = s.selfWrites := rfl
@[simp] theorem State.modCluster_owners (s : State) (n : Nat) (g : Cluster → Cluster) : (s.modCluster n g).owners = s.owners := rfl
@[simp] theorem State.modCluster_cores (s : State) (n : Nat) (g : Cluster → Cluster) : (s.modCluster n g).cores = s.cores := rfl
@[simp] theorem State.modCluster_slices (s : State) (n : Nat) (g : Cluster → Cluster) : (s.modCluster n g).slices = s.slices := rfl
@[simp] theorem State.modCluster_funcs (s : State) (n : Nat) (g : Cluster → Cluster) : (s.modCluster n g).funcs = s.funcs := rfl
@[simp] theorem State.modCluster_worlds (s : State) (n : Nat) (g : Cluster → Cluster) : (s.modCluster n g).worlds = s.worlds := rfl
@[simp] theorem State.modCluster_sched (s : State) (n : Nat) (g : Cluster → Cluster) : (s.modCluster n g).sched = s.sched := rfl
@[simp] theorem State.modCluster_reqs (s : State) (n : Nat) (g : Cluster → Cluster) : (s.modCluster n g).reqs = s.reqs := rfl
@[simp] theorem State.modCluster_answers (s : State) (n : Nat) (g : Cluster → Cluster) : (s.modCluster n g).answers = s.answers := rfl
@[simp] theorem State.modCluster_nextTicket (s : State) (n : Nat) (g : Cluster → Cluster) : (s.modCluster n g).nextTicket = s.nextTicket := rfl
@[simp] theorem State.modCluster_tracers (s : State) (n : Nat) (g : Cluster → Cluster) : (s.modCluster n g).tracers = s.tracers := rfl
@[simp] theorem State.modCluster_tvech (s : State) (n : Nat) (g : Cluster → Cluster) : (s.modCluster n g).tvech = s.tvech := rfl
@[simp] theorem State.modCluster_conf (s : State) (n : Nat) (g : Cluster → Cluster) : (s.modCluster n g).conf = s.conf := rfl
@[simp] theorem State.modCluster_sec (s : State) (n : Nat) (g : Cluster → Cluster) : (s.modCluster n g).sec = s.sec := rfl
@[simp] theorem State.modCluster_rdy (s : State) (n : Nat) (g : Cluster → Cluster) : (s.modCluster n g).rdy = s.rdy := rfl
@[simp] theorem State.modCluster_links (s : State) (n : Nat) (g : Cluster → Cluster) : (s.modCluster n g).links = s.links := rfl
@[simp] theorem State.modCluster_peers (s : State) (n : Nat) (g : Cluster → Cluster) : (s.modCluster n g).peers = s.peers := rfl
@[simp] theorem State.modCluster_nextTid (s : State) (n : Nat) (g : Cluster → Cluster) : (s.modCluster n g).nextTid = s.nextTid := rfl
@[simp] theorem State.modCluster_specs (s : State) (n : Nat) (g : Cluster → Cluster) : (s.modCluster n g).specs = s.specs := rfl
@[simp] theorem State.modCluster_passes (s : State) (n : Nat) (g : Cluster → Cluster) : (s.modCluster n g).passes = s.passes := rfl
@[simp] theorem State.modCluster_nextPass (s : State) (n : Nat) (g : Cluster → Cluster) : (s.modCluster n g).nextPass = s.nextPass := rfl
@[simp] theorem State.modCluster_nextUid (s : State) (n : Nat) (g : Cluster → Cluster) : (s.modCluster n g).nextUid = s.nextUid := rfl
@[simp] theorem State.modCluster_fc (s : State) (n : Nat) (g : Cluster → Cluster) : (s.modCluster n g).fc = s.fc := rfl
@[simp] theorem State.modCluster_ticks (s : State) (n : Nat) (g : Cluster → Cluster) : (s.modCluster n g).ticks = s.ticks := rfl
@[simp] theorem State.modCluster_bootCc (s : State) (n : Nat) (g : Cluster → Cluster) : (s.modCluster n g).bootCc = s.bootCc := rfl
@[simp] theorem State.modCluster_outbox (s : State) (n : Nat) (g : Cluster → Cluster) : (s.modCluster n g).outbox = s.outbox := rfl
@[simp] theorem State.modCluster_cur (s : State) (n : Nat) (g : Cluster → Cluster) : (s.modCluster n g).cur = s.cur := rfl
@[simp] theorem State.modCluster_agenda (s : State) (n : Nat) (g : Cluster → Cluster) : (s.modCluster n g).agenda = s.agenda := rfl
@[simp] theorem State.modCluster_free (s : State) (n : Nat) (g : Cluster → Cluster) : (s.modCluster n g).free = s.free := rfl

@[simp] theorem State.modFunc_powered (s : State) (f : Nat) (g : Func → Func) : (s.modFunc f g).powered = s.powered := rfl
@[simp] theorem State.modFunc_mem (s : State) (f : Nat) (g : Func → Func) : (s.modFunc f g).mem = s.mem := rfl
@[simp] theorem State.modFunc_memPois (s : State) (f : Nat) (g : Func → Func) : (s.modFunc f g).memPois = s.memPois := rfl
@[simp] theorem State.modFunc_eccs (s : State) (f : Nat) (g : Func → Func) : (s.modFunc f g).eccs = s.eccs := rfl
@[simp] theorem State.modFunc_llcPois (s : State) (f : Nat) (g : Func → Func) : (s.modFunc f g).llcPois = s.llcPois := rfl
@[simp] theorem State.modFunc_llcCnt (s : State) (f : Nat) (g : Func → Func) : (s.modFunc f g).llcCnt = s.llcCnt := rfl
@[simp] theorem State.modFunc_selfWrites (s : State) (f : Nat) (g : Func → Func) : (s.modFunc f g).selfWrites = s.selfWrites := rfl
@[simp] theorem State.modFunc_owners (s : State) (f : Nat) (g : Func → Func) : (s.modFunc f g).owners = s.owners := rfl
@[simp] theorem State.modFunc_cores (s : State) (f : Nat) (g : Func → Func) : (s.modFunc f g).cores = s.cores := rfl
@[simp] theorem State.modFunc_clusters (s : State) (f : Nat) (g : Func → Func) : (s.modFunc f g).clusters = s.clusters := rfl
@[simp] theorem State.modFunc_slices (s : State) (f : Nat) (g : Func → Func) : (s.modFunc f g).slices = s.slices := rfl
@[simp] theorem State.modFunc_worlds (s : State) (f : Nat) (g : Func → Func) : (s.modFunc f g).worlds = s.worlds := rfl
@[simp] theorem State.modFunc_sched (s : State) (f : Nat) (g : Func → Func) : (s.modFunc f g).sched = s.sched := rfl
@[simp] theorem State.modFunc_reqs (s : State) (f : Nat) (g : Func → Func) : (s.modFunc f g).reqs = s.reqs := rfl
@[simp] theorem State.modFunc_answers (s : State) (f : Nat) (g : Func → Func) : (s.modFunc f g).answers = s.answers := rfl
@[simp] theorem State.modFunc_nextTicket (s : State) (f : Nat) (g : Func → Func) : (s.modFunc f g).nextTicket = s.nextTicket := rfl
@[simp] theorem State.modFunc_tracers (s : State) (f : Nat) (g : Func → Func) : (s.modFunc f g).tracers = s.tracers := rfl
@[simp] theorem State.modFunc_tvech (s : State) (f : Nat) (g : Func → Func) : (s.modFunc f g).tvech = s.tvech := rfl
@[simp] theorem State.modFunc_conf (s : State) (f : Nat) (g : Func → Func) : (s.modFunc f g).conf = s.conf := rfl
@[simp] theorem State.modFunc_sec (s : State) (f : Nat) (g : Func → Func) : (s.modFunc f g).sec = s.sec := rfl
@[simp] theorem State.modFunc_rdy (s : State) (f : Nat) (g : Func → Func) : (s.modFunc f g).rdy = s.rdy := rfl
@[simp] theorem State.modFunc_links (s : State) (f : Nat) (g : Func → Func) : (s.modFunc f g).links = s.links := rfl
@[simp] theorem State.modFunc_peers (s : State) (f : Nat) (g : Func → Func) : (s.modFunc f g).peers = s.peers := rfl
@[simp] theorem State.modFunc_nextTid (s : State) (f : Nat) (g : Func → Func) : (s.modFunc f g).nextTid = s.nextTid := rfl
@[simp] theorem State.modFunc_specs (s : State) (f : Nat) (g : Func → Func) : (s.modFunc f g).specs = s.specs := rfl
@[simp] theorem State.modFunc_passes (s : State) (f : Nat) (g : Func → Func) : (s.modFunc f g).passes = s.passes := rfl
@[simp] theorem State.modFunc_nextPass (s : State) (f : Nat) (g : Func → Func) : (s.modFunc f g).nextPass = s.nextPass := rfl
@[simp] theorem State.modFunc_nextUid (s : State) (f : Nat) (g : Func → Func) : (s.modFunc f g).nextUid = s.nextUid := rfl
@[simp] theorem State.modFunc_fc (s : State) (f : Nat) (g : Func → Func) : (s.modFunc f g).fc = s.fc := rfl
@[simp] theorem State.modFunc_ticks (s : State) (f : Nat) (g : Func → Func) : (s.modFunc f g).ticks = s.ticks := rfl
@[simp] theorem State.modFunc_bootCc (s : State) (f : Nat) (g : Func → Func) : (s.modFunc f g).bootCc = s.bootCc := rfl
@[simp] theorem State.modFunc_outbox (s : State) (f : Nat) (g : Func → Func) : (s.modFunc f g).outbox = s.outbox := rfl
@[simp] theorem State.modFunc_cur (s : State) (f : Nat) (g : Func → Func) : (s.modFunc f g).cur = s.cur := rfl
@[simp] theorem State.modFunc_agenda (s : State) (f : Nat) (g : Func → Func) : (s.modFunc f g).agenda = s.agenda := rfl
@[simp] theorem State.modFunc_free (s : State) (f : Nat) (g : Func → Func) : (s.modFunc f g).free = s.free := rfl

@[simp] theorem State.modErr_powered (s : State) (f : Nat) (g : ErrCnt → ErrCnt) : (s.modErr f g).powered = s.powered := rfl
@[simp] theorem State.modErr_mem (s : State) (f : Nat) (g : ErrCnt → ErrCnt) : (s.modErr f g).mem = s.mem := rfl
@[simp] theorem State.modErr_memPois (s : State) (f : Nat) (g : ErrCnt → ErrCnt) : (s.modErr f g).memPois = s.memPois := rfl
@[simp] theorem State.modErr_eccs (s : State) (f : Nat) (g : ErrCnt → ErrCnt) : (s.modErr f g).eccs = s.eccs := rfl
@[simp] theorem State.modErr_llcPois (s : State) (f : Nat) (g : ErrCnt → ErrCnt) : (s.modErr f g).llcPois = s.llcPois := rfl
@[simp] theorem State.modErr_llcCnt (s : State) (f : Nat) (g : ErrCnt → ErrCnt) : (s.modErr f g).llcCnt = s.llcCnt := rfl
@[simp] theorem State.modErr_selfWrites (s : State) (f : Nat) (g : ErrCnt → ErrCnt) : (s.modErr f g).selfWrites = s.selfWrites := rfl
@[simp] theorem State.modErr_owners (s : State) (f : Nat) (g : ErrCnt → ErrCnt) : (s.modErr f g).owners = s.owners := rfl
@[simp] theorem State.modErr_cores (s : State) (f : Nat) (g : ErrCnt → ErrCnt) : (s.modErr f g).cores = s.cores := rfl
@[simp] theorem State.modErr_clusters (s : State) (f : Nat) (g : ErrCnt → ErrCnt) : (s.modErr f g).clusters = s.clusters := rfl
@[simp] theorem State.modErr_slices (s : State) (f : Nat) (g : ErrCnt → ErrCnt) : (s.modErr f g).slices = s.slices := rfl
@[simp] theorem State.modErr_worlds (s : State) (f : Nat) (g : ErrCnt → ErrCnt) : (s.modErr f g).worlds = s.worlds := rfl
@[simp] theorem State.modErr_sched (s : State) (f : Nat) (g : ErrCnt → ErrCnt) : (s.modErr f g).sched = s.sched := rfl
@[simp] theorem State.modErr_reqs (s : State) (f : Nat) (g : ErrCnt → ErrCnt) : (s.modErr f g).reqs = s.reqs := rfl
@[simp] theorem State.modErr_answers (s : State) (f : Nat) (g : ErrCnt → ErrCnt) : (s.modErr f g).answers = s.answers := rfl
@[simp] theorem State.modErr_nextTicket (s : State) (f : Nat) (g : ErrCnt → ErrCnt) : (s.modErr f g).nextTicket = s.nextTicket := rfl
@[simp] theorem State.modErr_tracers (s : State) (f : Nat) (g : ErrCnt → ErrCnt) : (s.modErr f g).tracers = s.tracers := rfl
@[simp] theorem State.modErr_tvech (s : State) (f : Nat) (g : ErrCnt → ErrCnt) : (s.modErr f g).tvech = s.tvech := rfl
@[simp] theorem State.modErr_conf (s : State) (f : Nat) (g : ErrCnt → ErrCnt) : (s.modErr f g).conf = s.conf := rfl
@[simp] theorem State.modErr_sec (s : State) (f : Nat) (g : ErrCnt → ErrCnt) : (s.modErr f g).sec = s.sec := rfl
@[simp] theorem State.modErr_rdy (s : State) (f : Nat) (g : ErrCnt → ErrCnt) : (s.modErr f g).rdy = s.rdy := rfl
@[simp] theorem State.modErr_links (s : State) (f : Nat) (g : ErrCnt → ErrCnt) : (s.modErr f g).links = s.links := rfl
@[simp] theorem State.modErr_peers (s : State) (f : Nat) (g : ErrCnt → ErrCnt) : (s.modErr f g).peers = s.peers := rfl
@[simp] theorem State.modErr_nextTid (s : State) (f : Nat) (g : ErrCnt → ErrCnt) : (s.modErr f g).nextTid = s.nextTid := rfl
@[simp] theorem State.modErr_specs (s : State) (f : Nat) (g : ErrCnt → ErrCnt) : (s.modErr f g).specs = s.specs := rfl
@[simp] theorem State.modErr_passes (s : State) (f : Nat) (g : ErrCnt → ErrCnt) : (s.modErr f g).passes = s.passes := rfl
@[simp] theorem State.modErr_nextPass (s : State) (f : Nat) (g : ErrCnt → ErrCnt) : (s.modErr f g).nextPass = s.nextPass := rfl
@[simp] theorem State.modErr_nextUid (s : State) (f : Nat) (g : ErrCnt → ErrCnt) : (s.modErr f g).nextUid = s.nextUid := rfl
@[simp] theorem State.modErr_fc (s : State) (f : Nat) (g : ErrCnt → ErrCnt) : (s.modErr f g).fc = s.fc := rfl
@[simp] theorem State.modErr_ticks (s : State) (f : Nat) (g : ErrCnt → ErrCnt) : (s.modErr f g).ticks = s.ticks := rfl
@[simp] theorem State.modErr_bootCc (s : State) (f : Nat) (g : ErrCnt → ErrCnt) : (s.modErr f g).bootCc = s.bootCc := rfl
@[simp] theorem State.modErr_outbox (s : State) (f : Nat) (g : ErrCnt → ErrCnt) : (s.modErr f g).outbox = s.outbox := rfl
@[simp] theorem State.modErr_cur (s : State) (f : Nat) (g : ErrCnt → ErrCnt) : (s.modErr f g).cur = s.cur := rfl
@[simp] theorem State.modErr_agenda (s : State) (f : Nat) (g : ErrCnt → ErrCnt) : (s.modErr f g).agenda = s.agenda := rfl
@[simp] theorem State.modErr_free (s : State) (f : Nat) (g : ErrCnt → ErrCnt) : (s.modErr f g).free = s.free := rfl

@[simp] theorem State.modQueue_powered (s : State) (q : Nat) (g : Queue → Queue) : (s.modQueue q g).powered = s.powered := rfl
@[simp] theorem State.modQueue_mem (s : State) (q : Nat) (g : Queue → Queue) : (s.modQueue q g).mem = s.mem := rfl
@[simp] theorem State.modQueue_memPois (s : State) (q : Nat) (g : Queue → Queue) : (s.modQueue q g).memPois = s.memPois := rfl
@[simp] theorem State.modQueue_eccs (s : State) (q : Nat) (g : Queue → Queue) : (s.modQueue q g).eccs = s.eccs := rfl
@[simp] theorem State.modQueue_llcPois (s : State) (q : Nat) (g : Queue → Queue) : (s.modQueue q g).llcPois = s.llcPois := rfl
@[simp] theorem State.modQueue_llcCnt (s : State) (q : Nat) (g : Queue → Queue) : (s.modQueue q g).llcCnt = s.llcCnt := rfl
@[simp] theorem State.modQueue_selfWrites (s : State) (q : Nat) (g : Queue → Queue) : (s.modQueue q g).selfWrites = s.selfWrites := rfl
@[simp] theorem State.modQueue_owners (s : State) (q : Nat) (g : Queue → Queue) : (s.modQueue q g).owners = s.owners := rfl
@[simp] theorem State.modQueue_cores (s : State) (q : Nat) (g : Queue → Queue) : (s.modQueue q g).cores = s.cores := rfl
@[simp] theorem State.modQueue_clusters (s : State) (q : Nat) (g : Queue → Queue) : (s.modQueue q g).clusters = s.clusters := rfl
@[simp] theorem State.modQueue_slices (s : State) (q : Nat) (g : Queue → Queue) : (s.modQueue q g).slices = s.slices := rfl
@[simp] theorem State.modQueue_funcs (s : State) (q : Nat) (g : Queue → Queue) : (s.modQueue q g).funcs = s.funcs := rfl
@[simp] theorem State.modQueue_worlds (s : State) (q : Nat) (g : Queue → Queue) : (s.modQueue q g).worlds = s.worlds := rfl
@[simp] theorem State.modQueue_reqs (s : State) (q : Nat) (g : Queue → Queue) : (s.modQueue q g).reqs = s.reqs := rfl
@[simp] theorem State.modQueue_answers (s : State) (q : Nat) (g : Queue → Queue) : (s.modQueue q g).answers = s.answers := rfl
@[simp] theorem State.modQueue_nextTicket (s : State) (q : Nat) (g : Queue → Queue) : (s.modQueue q g).nextTicket = s.nextTicket := rfl
@[simp] theorem State.modQueue_tracers (s : State) (q : Nat) (g : Queue → Queue) : (s.modQueue q g).tracers = s.tracers := rfl
@[simp] theorem State.modQueue_tvech (s : State) (q : Nat) (g : Queue → Queue) : (s.modQueue q g).tvech = s.tvech := rfl
@[simp] theorem State.modQueue_conf (s : State) (q : Nat) (g : Queue → Queue) : (s.modQueue q g).conf = s.conf := rfl
@[simp] theorem State.modQueue_sec (s : State) (q : Nat) (g : Queue → Queue) : (s.modQueue q g).sec = s.sec := rfl
@[simp] theorem State.modQueue_rdy (s : State) (q : Nat) (g : Queue → Queue) : (s.modQueue q g).rdy = s.rdy := rfl
@[simp] theorem State.modQueue_links (s : State) (q : Nat) (g : Queue → Queue) : (s.modQueue q g).links = s.links := rfl
@[simp] theorem State.modQueue_peers (s : State) (q : Nat) (g : Queue → Queue) : (s.modQueue q g).peers = s.peers := rfl
@[simp] theorem State.modQueue_nextTid (s : State) (q : Nat) (g : Queue → Queue) : (s.modQueue q g).nextTid = s.nextTid := rfl
@[simp] theorem State.modQueue_specs (s : State) (q : Nat) (g : Queue → Queue) : (s.modQueue q g).specs = s.specs := rfl
@[simp] theorem State.modQueue_passes (s : State) (q : Nat) (g : Queue → Queue) : (s.modQueue q g).passes = s.passes := rfl
@[simp] theorem State.modQueue_nextPass (s : State) (q : Nat) (g : Queue → Queue) : (s.modQueue q g).nextPass = s.nextPass := rfl
@[simp] theorem State.modQueue_nextUid (s : State) (q : Nat) (g : Queue → Queue) : (s.modQueue q g).nextUid = s.nextUid := rfl
@[simp] theorem State.modQueue_fc (s : State) (q : Nat) (g : Queue → Queue) : (s.modQueue q g).fc = s.fc := rfl
@[simp] theorem State.modQueue_ticks (s : State) (q : Nat) (g : Queue → Queue) : (s.modQueue q g).ticks = s.ticks := rfl
@[simp] theorem State.modQueue_bootCc (s : State) (q : Nat) (g : Queue → Queue) : (s.modQueue q g).bootCc = s.bootCc := rfl
@[simp] theorem State.modQueue_outbox (s : State) (q : Nat) (g : Queue → Queue) : (s.modQueue q g).outbox = s.outbox := rfl
@[simp] theorem State.modQueue_cur (s : State) (q : Nat) (g : Queue → Queue) : (s.modQueue q g).cur = s.cur := rfl
@[simp] theorem State.modQueue_agenda (s : State) (q : Nat) (g : Queue → Queue) : (s.modQueue q g).agenda = s.agenda := rfl
@[simp] theorem State.modQueue_free (s : State) (q : Nat) (g : Queue → Queue) : (s.modQueue q g).free = s.free := rfl

@[simp] theorem State.modCard_powered (s : State) (q : Nat) (n : W32) (g : Card → Card) : (s.modCard q n g).powered = s.powered := rfl
@[simp] theorem State.modCard_mem (s : State) (q : Nat) (n : W32) (g : Card → Card) : (s.modCard q n g).mem = s.mem := rfl
@[simp] theorem State.modCard_memPois (s : State) (q : Nat) (n : W32) (g : Card → Card) : (s.modCard q n g).memPois = s.memPois := rfl
@[simp] theorem State.modCard_eccs (s : State) (q : Nat) (n : W32) (g : Card → Card) : (s.modCard q n g).eccs = s.eccs := rfl
@[simp] theorem State.modCard_llcPois (s : State) (q : Nat) (n : W32) (g : Card → Card) : (s.modCard q n g).llcPois = s.llcPois := rfl
@[simp] theorem State.modCard_llcCnt (s : State) (q : Nat) (n : W32) (g : Card → Card) : (s.modCard q n g).llcCnt = s.llcCnt := rfl
@[simp] theorem State.modCard_selfWrites (s : State) (q : Nat) (n : W32) (g : Card → Card) : (s.modCard q n g).selfWrites = s.selfWrites := rfl
@[simp] theorem State.modCard_owners (s : State) (q : Nat) (n : W32) (g : Card → Card) : (s.modCard q n g).owners = s.owners := rfl
@[simp] theorem State.modCard_cores (s : State) (q : Nat) (n : W32) (g : Card → Card) : (s.modCard q n g).cores = s.cores := rfl
@[simp] theorem State.modCard_clusters (s : State) (q : Nat) (n : W32) (g : Card → Card) : (s.modCard q n g).clusters = s.clusters := rfl
@[simp] theorem State.modCard_slices (s : State) (q : Nat) (n : W32) (g : Card → Card) : (s.modCard q n g).slices = s.slices := rfl
@[simp] theorem State.modCard_funcs (s : State) (q : Nat) (n : W32) (g : Card → Card) : (s.modCard q n g).funcs = s.funcs := rfl
@[simp] theorem State.modCard_worlds (s : State) (q : Nat) (n : W32) (g : Card → Card) : (s.modCard q n g).worlds = s.worlds := rfl
@[simp] theorem State.modCard_reqs (s : State) (q : Nat) (n : W32) (g : Card → Card) : (s.modCard q n g).reqs = s.reqs := rfl
@[simp] theorem State.modCard_answers (s : State) (q : Nat) (n : W32) (g : Card → Card) : (s.modCard q n g).answers = s.answers := rfl
@[simp] theorem State.modCard_nextTicket (s : State) (q : Nat) (n : W32) (g : Card → Card) : (s.modCard q n g).nextTicket = s.nextTicket := rfl
@[simp] theorem State.modCard_tracers (s : State) (q : Nat) (n : W32) (g : Card → Card) : (s.modCard q n g).tracers = s.tracers := rfl
@[simp] theorem State.modCard_tvech (s : State) (q : Nat) (n : W32) (g : Card → Card) : (s.modCard q n g).tvech = s.tvech := rfl
@[simp] theorem State.modCard_conf (s : State) (q : Nat) (n : W32) (g : Card → Card) : (s.modCard q n g).conf = s.conf := rfl
@[simp] theorem State.modCard_sec (s : State) (q : Nat) (n : W32) (g : Card → Card) : (s.modCard q n g).sec = s.sec := rfl
@[simp] theorem State.modCard_rdy (s : State) (q : Nat) (n : W32) (g : Card → Card) : (s.modCard q n g).rdy = s.rdy := rfl
@[simp] theorem State.modCard_links (s : State) (q : Nat) (n : W32) (g : Card → Card) : (s.modCard q n g).links = s.links := rfl
@[simp] theorem State.modCard_peers (s : State) (q : Nat) (n : W32) (g : Card → Card) : (s.modCard q n g).peers = s.peers := rfl
@[simp] theorem State.modCard_nextTid (s : State) (q : Nat) (n : W32) (g : Card → Card) : (s.modCard q n g).nextTid = s.nextTid := rfl
@[simp] theorem State.modCard_specs (s : State) (q : Nat) (n : W32) (g : Card → Card) : (s.modCard q n g).specs = s.specs := rfl
@[simp] theorem State.modCard_passes (s : State) (q : Nat) (n : W32) (g : Card → Card) : (s.modCard q n g).passes = s.passes := rfl
@[simp] theorem State.modCard_nextPass (s : State) (q : Nat) (n : W32) (g : Card → Card) : (s.modCard q n g).nextPass = s.nextPass := rfl
@[simp] theorem State.modCard_nextUid (s : State) (q : Nat) (n : W32) (g : Card → Card) : (s.modCard q n g).nextUid = s.nextUid := rfl
@[simp] theorem State.modCard_fc (s : State) (q : Nat) (n : W32) (g : Card → Card) : (s.modCard q n g).fc = s.fc := rfl
@[simp] theorem State.modCard_ticks (s : State) (q : Nat) (n : W32) (g : Card → Card) : (s.modCard q n g).ticks = s.ticks := rfl
@[simp] theorem State.modCard_bootCc (s : State) (q : Nat) (n : W32) (g : Card → Card) : (s.modCard q n g).bootCc = s.bootCc := rfl
@[simp] theorem State.modCard_outbox (s : State) (q : Nat) (n : W32) (g : Card → Card) : (s.modCard q n g).outbox = s.outbox := rfl
@[simp] theorem State.modCard_cur (s : State) (q : Nat) (n : W32) (g : Card → Card) : (s.modCard q n g).cur = s.cur := rfl
@[simp] theorem State.modCard_agenda (s : State) (q : Nat) (n : W32) (g : Card → Card) : (s.modCard q n g).agenda = s.agenda := rfl
@[simp] theorem State.modCard_free (s : State) (q : Nat) (n : W32) (g : Card → Card) : (s.modCard q n g).free = s.free := rfl

@[simp] theorem State.modSlice_powered (s : State) (n : Nat) (g : Slice → Slice) : (s.modSlice n g).powered = s.powered := rfl
@[simp] theorem State.modSlice_mem (s : State) (n : Nat) (g : Slice → Slice) : (s.modSlice n g).mem = s.mem := rfl
@[simp] theorem State.modSlice_memPois (s : State) (n : Nat) (g : Slice → Slice) : (s.modSlice n g).memPois = s.memPois := rfl
@[simp] theorem State.modSlice_eccs (s : State) (n : Nat) (g : Slice → Slice) : (s.modSlice n g).eccs = s.eccs := rfl
@[simp] theorem State.modSlice_llcPois (s : State) (n : Nat) (g : Slice → Slice) : (s.modSlice n g).llcPois = s.llcPois := rfl
@[simp] theorem State.modSlice_llcCnt (s : State) (n : Nat) (g : Slice → Slice) : (s.modSlice n g).llcCnt = s.llcCnt := rfl
@[simp] theorem State.modSlice_selfWrites (s : State) (n : Nat) (g : Slice → Slice) : (s.modSlice n g).selfWrites = s.selfWrites := rfl
@[simp] theorem State.modSlice_owners (s : State) (n : Nat) (g : Slice → Slice) : (s.modSlice n g).owners = s.owners := rfl
@[simp] theorem State.modSlice_cores (s : State) (n : Nat) (g : Slice → Slice) : (s.modSlice n g).cores = s.cores := rfl
@[simp] theorem State.modSlice_clusters (s : State) (n : Nat) (g : Slice → Slice) : (s.modSlice n g).clusters = s.clusters := rfl
@[simp] theorem State.modSlice_funcs (s : State) (n : Nat) (g : Slice → Slice) : (s.modSlice n g).funcs = s.funcs := rfl
@[simp] theorem State.modSlice_worlds (s : State) (n : Nat) (g : Slice → Slice) : (s.modSlice n g).worlds = s.worlds := rfl
@[simp] theorem State.modSlice_sched (s : State) (n : Nat) (g : Slice → Slice) : (s.modSlice n g).sched = s.sched := rfl
@[simp] theorem State.modSlice_reqs (s : State) (n : Nat) (g : Slice → Slice) : (s.modSlice n g).reqs = s.reqs := rfl
@[simp] theorem State.modSlice_answers (s : State) (n : Nat) (g : Slice → Slice) : (s.modSlice n g).answers = s.answers := rfl
@[simp] theorem State.modSlice_nextTicket (s : State) (n : Nat) (g : Slice → Slice) : (s.modSlice n g).nextTicket = s.nextTicket := rfl
@[simp] theorem State.modSlice_tracers (s : State) (n : Nat) (g : Slice → Slice) : (s.modSlice n g).tracers = s.tracers := rfl
@[simp] theorem State.modSlice_tvech (s : State) (n : Nat) (g : Slice → Slice) : (s.modSlice n g).tvech = s.tvech := rfl
@[simp] theorem State.modSlice_conf (s : State) (n : Nat) (g : Slice → Slice) : (s.modSlice n g).conf = s.conf := rfl
@[simp] theorem State.modSlice_sec (s : State) (n : Nat) (g : Slice → Slice) : (s.modSlice n g).sec = s.sec := rfl
@[simp] theorem State.modSlice_rdy (s : State) (n : Nat) (g : Slice → Slice) : (s.modSlice n g).rdy = s.rdy := rfl
@[simp] theorem State.modSlice_links (s : State) (n : Nat) (g : Slice → Slice) : (s.modSlice n g).links = s.links := rfl
@[simp] theorem State.modSlice_peers (s : State) (n : Nat) (g : Slice → Slice) : (s.modSlice n g).peers = s.peers := rfl
@[simp] theorem State.modSlice_nextTid (s : State) (n : Nat) (g : Slice → Slice) : (s.modSlice n g).nextTid = s.nextTid := rfl
@[simp] theorem State.modSlice_specs (s : State) (n : Nat) (g : Slice → Slice) : (s.modSlice n g).specs = s.specs := rfl
@[simp] theorem State.modSlice_passes (s : State) (n : Nat) (g : Slice → Slice) : (s.modSlice n g).passes = s.passes := rfl
@[simp] theorem State.modSlice_nextPass (s : State) (n : Nat) (g : Slice → Slice) : (s.modSlice n g).nextPass = s.nextPass := rfl
@[simp] theorem State.modSlice_nextUid (s : State) (n : Nat) (g : Slice → Slice) : (s.modSlice n g).nextUid = s.nextUid := rfl
@[simp] theorem State.modSlice_fc (s : State) (n : Nat) (g : Slice → Slice) : (s.modSlice n g).fc = s.fc := rfl
@[simp] theorem State.modSlice_ticks (s : State) (n : Nat) (g : Slice → Slice) : (s.modSlice n g).ticks = s.ticks := rfl
@[simp] theorem State.modSlice_bootCc (s : State) (n : Nat) (g : Slice → Slice) : (s.modSlice n g).bootCc = s.bootCc := rfl
@[simp] theorem State.modSlice_outbox (s : State) (n : Nat) (g : Slice → Slice) : (s.modSlice n g).outbox = s.outbox := rfl
@[simp] theorem State.modSlice_cur (s : State) (n : Nat) (g : Slice → Slice) : (s.modSlice n g).cur = s.cur := rfl
@[simp] theorem State.modSlice_agenda (s : State) (n : Nat) (g : Slice → Slice) : (s.modSlice n g).agenda = s.agenda := rfl
@[simp] theorem State.modSlice_free (s : State) (n : Nat) (g : Slice → Slice) : (s.modSlice n g).free = s.free := rfl

@[simp] theorem State.send_powered (s : State) (m : OutMsg) : (s.send m).powered = s.powered := rfl
@[simp] theorem State.send_mem (s : State) (m : OutMsg) : (s.send m).mem = s.mem := rfl
@[simp] theorem State.send_memPois (s : State) (m : OutMsg) : (s.send m).memPois = s.memPois := rfl
@[simp] theorem State.send_eccs (s : State) (m : OutMsg) : (s.send m).eccs = s.eccs := rfl
@[simp] theorem State.send_llcPois (s : State) (m : OutMsg) : (s.send m).llcPois = s.llcPois := rfl
@[simp] theorem State.send_llcCnt (s : State) (m : OutMsg) : (s.send m).llcCnt = s.llcCnt := rfl
@[simp] theorem State.send_selfWrites (s : State) (m : OutMsg) : (s.send m).selfWrites = s.selfWrites := rfl
@[simp] theorem State.send_owners (s : State) (m : OutMsg) : (s.send m).owners = s.owners := rfl
@[simp] theorem State.send_cores (s : State) (m : OutMsg) : (s.send m).cores = s.cores := rfl
@[simp] theorem State.send_clusters (s : State) (m : OutMsg) : (s.send m).clusters = s.clusters := rfl
@[simp] theorem State.send_slices (s : State) (m : OutMsg) : (s.send m).slices = s.slices := rfl
@[simp] theorem State.send_funcs (s : State) (m : OutMsg) : (s.send m).funcs = s.funcs := rfl
@[simp] theorem State.send_worlds (s : State) (m : OutMsg) : (s.send m).worlds = s.worlds := rfl
@[simp] theorem State.send_sched (s : State) (m : OutMsg) : (s.send m).sched = s.sched := rfl
@[simp] theorem State.send_reqs (s : State) (m : OutMsg) : (s.send m).reqs = s.reqs := rfl
@[simp] theorem State.send_answers (s : State) (m : OutMsg) : (s.send m).answers = s.answers := rfl
@[simp] theorem State.send_nextTicket (s : State) (m : OutMsg) : (s.send m).nextTicket = s.nextTicket := rfl
@[simp] theorem State.send_tracers (s : State) (m : OutMsg) : (s.send m).tracers = s.tracers := rfl
@[simp] theorem State.send_tvech (s : State) (m : OutMsg) : (s.send m).tvech = s.tvech := rfl
@[simp] theorem State.send_conf (s : State) (m : OutMsg) : (s.send m).conf = s.conf := rfl
@[simp] theorem State.send_sec (s : State) (m : OutMsg) : (s.send m).sec = s.sec := rfl
@[simp] theorem State.send_rdy (s : State) (m : OutMsg) : (s.send m).rdy = s.rdy := rfl
@[simp] theorem State.send_links (s : State) (m : OutMsg) : (s.send m).links = s.links := rfl
@[simp] theorem State.send_peers (s : State) (m : OutMsg) : (s.send m).peers = s.peers := rfl
@[simp] theorem State.send_nextTid (s : State) (m : OutMsg) : (s.send m).nextTid = s.nextTid := rfl
@[simp] theorem State.send_specs (s : State) (m : OutMsg) : (s.send m).specs = s.specs := rfl
@[simp] theorem State.send_passes (s : State) (m : OutMsg) : (s.send m).passes = s.passes := rfl
@[simp] theorem State.send_nextPass (s : State) (m : OutMsg) : (s.send m).nextPass = s.nextPass := rfl
@[simp] theorem State.send_nextUid (s : State) (m : OutMsg) : (s.send m).nextUid = s.nextUid := rfl
@[simp] theorem State.send_fc (s : State) (m : OutMsg) : (s.send m).fc = s.fc := rfl
@[simp] theorem State.send_ticks (s : State) (m : OutMsg) : (s.send m).ticks = s.ticks := rfl
@[simp] theorem State.send_bootCc (s : State) (m : OutMsg) : (s.send m).bootCc = s.bootCc := rfl
@[simp] theorem State.send_cur (s : State) (m : OutMsg) : (s.send m).cur = s.cur := rfl
@[simp] theorem State.send_agenda (s : State) (m : OutMsg) : (s.send m).agenda = s.agenda := rfl
@[simp] theorem State.send_free (s : State) (m : OutMsg) : (s.send m).free = s.free := rfl

/-! ## Cores -/

@[simp] theorem State.core_setCore (s : State) (c : Nat) (k : Core) : (s.setCore c k).core c = k := by
  simp [State.core, State.setCore]

theorem State.core_setCore_of_ne (s : State) {c d : Nat} (k : Core) (h : d ≠ c) : (s.setCore c k).core d = s.core d := by
  simp [State.core, State.setCore, Tab.get_put_of_ne _ _ _ h]

@[simp] theorem State.core_modCore (s : State) (c : Nat) (g : Core → Core) : (s.modCore c g).core c = g (s.core c) := by
  simp [State.modCore]

theorem State.core_modCore_of_ne (s : State) {c d : Nat} (g : Core → Core) (h : d ≠ c) : (s.modCore c g).core d = s.core d := by
  simp [State.modCore, State.core_setCore_of_ne s _ h]

@[simp] theorem State.slot?_modSlot (s : State) (c w : Nat) (g : Slot → Slot) :
    (s.modSlot c w g).slot? c w = (s.slot? c w).map g := by
  simp [State.slot?, State.modSlot, Tab.get?_adj_self]

theorem State.slot?_modSlot_of_ne (s : State) (c : Nat) {w v : Nat} (g : Slot → Slot) (h : v ≠ w) :
    (s.modSlot c w g).slot? c v = s.slot? c v := by
  simp [State.slot?, State.modSlot, Tab.get?_adj_of_ne _ _ h]

@[simp] theorem State.slot?_modWave (s : State) (c w : Nat) (g : Wave → Wave) :
    (s.modWave c w g).slot? c w = (s.slot? c w).map (fun t => { t with wave := g t.wave }) := by
  simp [State.modWave]

theorem State.slot?_modWave_of_ne (s : State) (c : Nat) {w v : Nat} (g : Wave → Wave) (h : v ≠ w) :
    (s.modWave c w g).slot? c v = s.slot? c v := State.slot?_modSlot_of_ne s c _ h

@[simp] theorem State.slot?_modQuarter (s : State) (c q w : Nat) (g : Quarter → Quarter) :
    (s.modQuarter c q g).slot? c w = s.slot? c w := by
  simp [State.slot?, State.modQuarter]

@[simp] theorem State.slot?_modRun (s : State) (c q w : Nat) (g : Run → Run) : (s.modRun c q g).slot? c w = s.slot? c w := by
  simp [State.modRun]

@[simp] theorem State.slot?_modGroup (s : State) (c q p w : Nat) (g : Group → Group) :
    (s.modGroup c q p g).slot? c w = s.slot? c w := by
  simp [State.modGroup]

@[simp] theorem State.quarter_modSlot (s : State) (c w q : Nat) (g : Slot → Slot) : (s.modSlot c w g).quarter c q = s.quarter c q := by
  simp [State.quarter, State.modSlot]

@[simp] theorem State.quarter_modWave (s : State) (c w q : Nat) (g : Wave → Wave) : (s.modWave c w g).quarter c q = s.quarter c q := by
  simp [State.modWave]

theorem listAdj_length {α : Type} (l : List α) (n : Nat) (g : α → α) : (listAdj l n g).length = l.length := by
  induction l generalizing n with
  | nil => cases n <;> rfl
  | cons x r ih => cases n <;> simp [listAdj, ih]

theorem listAdj_get? {α : Type} (l : List α) (n k : Nat) (g : α → α) :
    (listAdj l n g)[k]? = if k = n then l[k]?.map g else l[k]? := by
  induction l generalizing n k with
  | nil => cases n <;> simp [listAdj]
  | cons x r ih => cases n <;> cases k <;> simp [listAdj, ih]

/-- The run of a quarter after a change of the run. -/
@[simp] theorem State.run_modRun (s : State) (c q : Nat) (g : Run → Run) :
    ((s.modRun c q g).quarter c q).run = (s.quarter c q).run.map g := by
  simp only [State.modRun, State.modQuarter, State.quarter, State.core_modCore, List.getD_eq_getElem?_getD, listAdj_get?, if_true]
  cases (s.core c).quarters[q]? <;> rfl

theorem State.quarter_modQuarter_of_ne (s : State) (c : Nat) {q p : Nat} (g : Quarter → Quarter) (h : p ≠ q) :
    (s.modQuarter c q g).quarter c p = s.quarter c p := by
  simp [State.modQuarter, State.quarter, List.getD_eq_getElem?_getD, listAdj_get?, h]

theorem State.quarter_modRun_of_ne (s : State) (c : Nat) {q p : Nat} (g : Run → Run) (h : p ≠ q) :
    (s.modRun c q g).quarter c p = s.quarter c p := State.quarter_modQuarter_of_ne s c _ h

/-! ## Gangs, clusters, functions, queues, slices -/

@[simp] theorem State.gang?_modGang (s : State) (c i : Nat) (g : Gang → Gang) : (s.modGang c i g).gang? c i = (s.gang? c i).map g := by
  simp [State.gang?, State.modGang, Tab.get?_adj_self]

@[simp] theorem State.gang?_modSlot (s : State) (c w i : Nat) (g : Slot → Slot) : (s.modSlot c w g).gang? c i = s.gang? c i := by
  simp [State.gang?, State.modSlot]

@[simp] theorem State.cluster_modCluster (s : State) (n : Nat) (g : Cluster → Cluster) :
    (s.modCluster n g).cluster n = g (s.cluster n) := by
  simp [State.cluster, State.modCluster]

@[simp] theorem State.func_modFunc (s : State) (f : Nat) (g : Func → Func) : (s.modFunc f g).func f = g (s.func f) := by
  simp [State.func, State.modFunc]

theorem State.func_modFunc_of_ne (s : State) {f h : Nat} (g : Func → Func) (n : h ≠ f) : (s.modFunc f g).func h = s.func h := by
  simp [State.func, State.modFunc, Tab.get_put_of_ne _ _ _ n]

@[simp] theorem State.queue_modQueue (s : State) (q : Nat) (g : Queue → Queue) : (s.modQueue q g).queue q = g (s.queue q) := by
  simp [State.queue, State.modQueue]

theorem State.queue_modQueue_of_ne (s : State) {q r : Nat} (g : Queue → Queue) (h : r ≠ q) : (s.modQueue q g).queue r = s.queue r := by
  simp [State.queue, State.modQueue, Tab.get_put_of_ne _ _ _ h]

@[simp] theorem State.slice_modSlice (s : State) (n : Nat) (g : Slice → Slice) : (s.modSlice n g).slice n = g (s.slice n) := by
  simp [State.slice, State.modSlice]

/-! ## Accesses at a home slice -/

/-- An access at a home slice changes the marks of speculative reads alone (04 R104). -/
theorem homeTouch_frame (s : State) (line : Nat) : homeTouch s line = { s with specs := (homeTouch s line).specs } := by
  unfold homeTouch; split <;> rfl

/-- So does one to several lines. -/
theorem homeTouches_frame (s : State) (a n : Nat) : homeTouches s a n = { s with specs := (homeTouches s a n).specs } := by
  unfold homeTouches; split <;> rfl

/-- Which speculative reads an access to a line leaves marked: those that were, and those of the line. -/
theorem homeTouch_specs (s : State) (line : Nat) :
    (homeTouch s line).specs = s.specs.map (fun r => if r.line = line then { r with broken := true } else r) := by
  unfold homeTouch
  cases h : s.specs with
  | nil => simp [h]
  | cons x r => simp

@[simp] theorem homeTouch_mem (s : State) (line : Nat) : (homeTouch s line).mem = s.mem := by rw [homeTouch_frame]
@[simp] theorem homeTouch_core (s : State) (line c : Nat) : (homeTouch s line).core c = s.core c := by rw [homeTouch_frame]; rfl
@[simp] theorem homeTouch_slot (s : State) (line c w : Nat) : (homeTouch s line).slot? c w = s.slot? c w := by rw [homeTouch_frame]; rfl
@[simp] theorem homeTouches_mem (s : State) (a n : Nat) : (homeTouches s a n).mem = s.mem := by rw [homeTouches_frame]
@[simp] theorem homeTouches_core (s : State) (a n c : Nat) : (homeTouches s a n).core c = s.core c := by rw [homeTouches_frame]; rfl

end Sys2Proof.Machine
end

