-- ==== Sys2Proof/Laws/Complete.lean ====
section
/-! SUPPORT. What the completion of a wave's one pending operation does, for the statements about completions (02 R58; 09 R200). -/

namespace Sys2Proof.Machine

/-- A wave whose one pending operation has completed: writes ws in its registers, exception bits in WSTAT, its flag lowered. -/
def Wave.completed (v : Wave) (o : Op) (ws : List RegWrite) (e : Exc) : Wave :=
  ((({ v with regs := v.regs.writes ws, ops := [] } : Wave).orWstat (o.exc ||| e)).lower o.flag)

theorem Wave.op?_alone {v : Wave} {o : Op} (h : v.ops = [o]) : v.op? o.id = some o := by simp [Wave.op?, h]

/-- Waits stand open where none of the wave's operations is a wait. -/
theorem openGates_of_no_wait {s : State} {c w : Nat} {t : Slot} (h : s.slot? c w = some t)
    (hn : ∀ o, o ∈ t.wave.ops → o.opc ≠ 0x14 ∧ o.opc ≠ 0x16) : openGates s c w = s := by
  have hp : t.wave.ops.filter (gateOver s c t.wave) = [] := by
    rw [List.filter_eq_nil_iff]
    intro o ho
    simp [gateOver, (hn o ho).1, (hn o ho).2]
  simp [openGates, h, hp]

/-- Nothing gates the one pending operation of a wave. -/
theorem gated_alone {v : Wave} {o : Op} (h : v.ops = [o]) (lane : Option Nat) : gated v o.id lane = false := by
  simp [gated, h]

/-- The completion of the one lane of a wave's one pending operation is two changes of that wave, and of nothing else. -/
theorem finishLane_alone {s : State} {c w : Nat} {t : Slot} {o : Op} {l : LaneOp} (ws : List RegWrite) (e : Exc)
    (h : s.slot? c w = some t) (ha : t.wave.ops = [o]) (hl : o.lanes = [l]) (hg : o.log = .none) (hn : isAtomic o.opc = false) :
    finishLane s c w o.id l.lane ws e =
      (s.modWave c w (fun v => (v.landLane o.id l.lane ws).modOp o.id (fun p => p.doneLane l.lane e))).modWave c w
        (fun v => (v.orWstat (o.exc ||| e)).endOp o.id) := by
  have hs : ((s.modWave c w (fun v => (v.landLane o.id l.lane ws).modOp o.id (fun p => p.doneLane l.lane e))).slot? c w).bind
      (fun t => t.wave.op? o.id) = some (o.doneLane l.lane e) := by
    rw [State.slot?_modWave, h]
    simp [Wave.landLane, Wave.modOp, ha, Wave.op?, Op.doneLane]
  have hf : freeLog (s.modWave c w (fun v => (v.landLane o.id l.lane ws).modOp o.id (fun p => p.doneLane l.lane e))) c w o.id =
      s.modWave c w (fun v => (v.landLane o.id l.lane ws).modOp o.id (fun p => p.doneLane l.lane e)) := by
    unfold freeLog
    rw [hs]
    simp [Op.doneLane, hg]
  unfold finishLane
  simp only [hf, hs]
  simp [Op.allDone, Op.doneLane, hl, hn]

/-- The slot of that wave afterwards. -/
theorem finishLane_slot {s : State} {c w : Nat} {t : Slot} {o : Op} {l : LaneOp} (ws : List RegWrite) (e : Exc)
    (h : s.slot? c w = some t) (ha : t.wave.ops = [o]) (hl : o.lanes = [l]) (hg : o.log = .none) (hw : o.writes = [])
    (hn : isAtomic o.opc = false) :
    (finishLane s c w o.id l.lane ws e).slot? c w = some { t with wave := t.wave.completed o ws e } := by
  rw [finishLane_alone ws e h ha hl hg hn, State.slot?_modWave, State.slot?_modWave, h]
  simp [Wave.landLane, Wave.modOp, ha, Wave.op?, Op.doneLane, hw, Wave.endOp, Wave.orWstat, Wave.completed,
    Wave.lower]

/-- Its core and every other part but the cores stand as they stood. -/
theorem finishLane_rest {s : State} {c w : Nat} {t : Slot} {o : Op} {l : LaneOp} (ws : List RegWrite) (e : Exc)
    (h : s.slot? c w = some t) (ha : t.wave.ops = [o]) (hl : o.lanes = [l]) (hg : o.log = .none) (hn : isAtomic o.opc = false) :
    finishLane s c w o.id l.lane ws e = { s with cores := (finishLane s c w o.id l.lane ws e).cores } := by
  rw [finishLane_alone ws e h ha hl hg hn]; rfl

/-- So does every other wave. -/
theorem finishLane_others {s : State} {c w : Nat} {t : Slot} {o : Op} {l : LaneOp} (ws : List RegWrite) (e : Exc)
    (h : s.slot? c w = some t) (ha : t.wave.ops = [o]) (hl : o.lanes = [l]) (hg : o.log = .none) (hn : isAtomic o.opc = false)
    (v : Nat) (hv : v ≠ w) : (finishLane s c w o.id l.lane ws e).slot? c v = s.slot? c v := by
  rw [finishLane_alone ws e h ha hl hg hn, State.slot?_modWave_of_ne _ _ _ hv, State.slot?_modWave_of_ne _ _ _ hv]

end Sys2Proof.Machine
end

