-- ==== Sys2Proof/Laws/Issue.lean ====
section
/-! SUPPORT. The group that issues after a change of its wave or its run, and what a word that passes its checks does. -/

namespace Sys2Proof.Machine

/-- What issue? answers comes from the cursor, its run, its wave and its group. -/
theorem State.issue?_eq {s : State} {x : Ctx} (h : s.issue? = some x) :
    ∃ u, s.cur = some u ∧ x.core = u.core ∧ x.quarter = u.quarter ∧ x.port = u.port ∧
      (s.quarter u.core u.quarter).run = some x.run ∧ x.wid = x.run.wave ∧ (s.core u.core).slots.get? x.run.wave = some x.sl ∧
      x.run.groups.find? (fun g => g.port == u.port) = some x.g ∧
      x.exec = x.g.mask &&& ~~~x.g.gone &&& x.sl.wave.live ∧ x.clock = (s.core u.core).clock ∧
      x.mxprog = (s.core u.core).mxprog x.sl.wave.uid ∧
      x.ringdepth = (match (s.core u.core).gangs.get? x.sl.wave.gang with | some gg => gg.ringdepth | none => 0) := by
  unfold State.issue? at h
  split at h
  · cases h
  · next u hu =>
    dsimp only at h
    split at h
    · cases h
    · next r hr =>
      split at h
      · next t g ht hg => cases h; exact ⟨u, hu, rfl, rfl, rfl, hr, rfl, ht, hg, rfl, rfl, rfl, rfl⟩
      · cases h

/-- The other way about. -/
theorem State.issue?_of {s : State} {u : Cursor} {r : Run} {t : Slot} {g : Group} (h1 : s.cur = some u)
    (h2 : (s.quarter u.core u.quarter).run = some r) (h3 : (s.core u.core).slots.get? r.wave = some t)
    (h4 : r.groups.find? (fun g => g.port == u.port) = some g) :
    s.issue? = some
      { core := u.core, quarter := u.quarter, port := u.port, wid := r.wave, sl := t, run := r, g := g,
        exec := g.mask &&& ~~~g.gone &&& t.wave.live, clock := (s.core u.core).clock,
        mxprog := (s.core u.core).mxprog t.wave.uid,
        ringdepth := match (s.core u.core).gangs.get? t.wave.gang with | some gg => gg.ringdepth | none => 0 } := by
  unfold State.issue?
  simp only [h1, h2, h3, h4] <;> rfl

theorem find?_map_port (gs : List Group) (p : Nat) (h : Group → Group) (hp : ∀ g, (h g).port = g.port) :
    (gs.map h).find? (fun g => g.port == p) = (gs.find? (fun g => g.port == p)).map h := by
  induction gs with
  | nil => rfl
  | cons g r ih =>
    simp only [List.map_cons, List.find?_cons, hp]
    split
    · rfl
    · exact ih

/-- The issuing group after its run's groups change, their ports kept. -/
theorem State.issue?_modRun {s : State} {x : Ctx} (h : s.issue? = some x) (k : Group → Group) (hp : ∀ g, (k g).port = g.port) :
    (s.modRun x.core x.quarter (fun r => { r with groups := r.groups.map k })).issue? =
      some { x with run := { x.run with groups := x.run.groups.map k }, g := k x.g,
                    exec := (k x.g).mask &&& ~~~(k x.g).gone &&& x.sl.wave.live } := by
  obtain ⟨u, hu, hc, hq, hpt, hr, hw, ht, hg, he, hcl, hm, hrd⟩ := State.issue?_eq h
  have := State.issue?_of (s := s.modRun x.core x.quarter (fun r => { r with groups := r.groups.map k }))
    (u := u) (r := { x.run with groups := x.run.groups.map k }) (t := x.sl) (g := k x.g)
    (by simpa using hu) (by rw [hc, hq, State.run_modRun, hr]; rfl)
    (by simpa [hc, hq, State.modRun, State.modQuarter] using ht)
    (by simp [find?_map_port _ _ _ hp, hg])
  rw [this]
  simp [hc, hq, hpt, hw, hcl, hm, hrd, State.modRun, State.modQuarter]
  rfl

/-- The issuing group after its wave changes, its uid and gang kept. -/
theorem State.issue?_modWave {s : State} {x : Ctx} (h : s.issue? = some x) (k : Wave → Wave) (hu : (k x.wv).uid = x.wv.uid)
    (hg : (k x.wv).gang = x.wv.gang) :
    (s.modWave x.core x.wid k).issue? =
      some { x with sl := { x.sl with wave := k x.wv }, exec := x.g.mask &&& ~~~x.g.gone &&& (k x.wv).live } := by
  obtain ⟨u, hcu, hc, hq, hpt, hr, hw, ht, hgr, he, hcl, hm, hrd⟩ := State.issue?_eq h
  have := State.issue?_of (s := s.modWave x.core x.wid k) (u := u) (r := x.run) (t := { x.sl with wave := k x.wv }) (g := x.g)
    (by simpa using hcu) (by simpa [hc] using hr)
    (by
      have := State.slot?_modWave s x.core x.wid k
      simp only [State.slot?, hc, hw] at this ⊢
      simp only [hc, hw] at *
      rw [this, ht]; rfl)
    hgr
  rw [this]
  have e1 : ((s.modWave x.core x.wid k).core u.core).clock = (s.core u.core).clock := by simp [hc, State.modWave, State.modSlot]
  have e2 : ((s.modWave x.core x.wid k).core u.core).mx = (s.core u.core).mx := by simp [hc, State.modWave, State.modSlot]
  have e3 : ((s.modWave x.core x.wid k).core u.core).gangs = (s.core u.core).gangs := by simp [hc, State.modWave, State.modSlot]
  have e4 : (k x.wv).uid = x.sl.wave.uid := hu
  have e5 : (k x.wv).gang = x.sl.wave.gang := hg
  simp only [Core.mxprog, hc, hw] at e1 e2 e3 hm ⊢
  simp only [e1, e2, e3, e4, e5]
  rw [← hc, ← hw] at *
  cases x
  simp_all [Core.mxprog]

/-- The wave's slot as issue? gives it. -/
theorem State.slot?_issue {s : State} {x : Ctx} (h : s.issue? = some x) : s.slot? x.core x.wid = some x.sl := by
  obtain ⟨u, hu, hc, hq, hpt, hr, hw, ht, _⟩ := State.issue?_eq h
  simp [State.slot?, hc, hw, ht]

/-- A word that passes its checks has its own effect. -/
theorem issueWord_eq {op : Nat} {f : Fields} {s : State} {x : Ctx} (h : Issues op f s x) (body : Ctx → State → State) :
    issueWord op f s body = .next (body x s) := by
  obtain ⟨h1, h2, h3, h4, h5, h6, h7⟩ := h
  unfold issueWord
  simp [h1, h2, h3, h4, noteRegPoison, h5, h6, h7]

end Sys2Proof.Machine
end

