-- ==== Sys2Proof/Laws/Regs.lean ====
section
/-! SUPPORT. The register file after writes: what an element reads after one write and after a list of writes to distinct
elements. -/

namespace Sys2Proof.Machine

/-- A write that a legal word makes: to an element that exists, of a truth value for a predicate. -/
def RegWrite.ok (w : RegWrite) : Prop :=
  match w.elem with
  | .v _ l => l < 32
  | .u _ => True
  | .p _ l => l < 32 ∧ (w.val = 0 ∨ w.val = 1)
  | .t _ k => k < 8
  | .a _ _ => False

theorem lowOnes (i : Nat) : (0xFFFFFFFF : W256).getLsbD i = decide (i < 32) := by
  have h : (0xFFFFFFFF : W256) = BitVec.ofNat 256 (2 ^ 32 - 1) := by decide
  rw [h, BitVec.getLsbD_ofNat, Nat.testBit_two_pow_sub_one]
  by_cases g : i < 32
  · have : i < 256 := by omega
    simp [g, this]
  · simp [g]

theorem tileSet_bit (t : W256) (k : Nat) (v : W32) (n : Nat) (h : n < 256) :
    (tileSet t k v).getLsbD n = if 32 * k ≤ n ∧ n < 32 * k + 32 then v.getLsbD (n - 32 * k) else t.getLsbD n := by
  simp only [tileSet, BitVec.getLsbD_or, BitVec.getLsbD_and, BitVec.getLsbD_not, BitVec.getLsbD_shiftLeft, lowOnes,
    BitVec.getLsbD_setWidth, h, decide_true, Bool.true_and]
  by_cases a : n < 32 * k
  · have b : ¬ (32 * k ≤ n ∧ n < 32 * k + 32) := by omega
    simp [a, b]
  · by_cases c : n < 32 * k + 32
    · have b : 32 * k ≤ n ∧ n < 32 * k + 32 := by omega
      have d : n - 32 * k < 32 := by omega
      have e : n - 32 * k < 256 := by omega
      simp [a, b, d, e]
    · have b : ¬ (32 * k ≤ n ∧ n < 32 * k + 32) := by omega
      have d : ¬ n - 32 * k < 32 := by omega
      have g : v.getLsbD (n - 32 * k) = false := BitVec.getLsbD_of_ge _ _ (by omega)
      simp [a, b, d, g]

theorem tileWord_bit (t : W256) (k i : Nat) (h : i < 32) : (tileWord t k).getLsbD i = t.getLsbD (32 * k + i) := by
  simp only [tileWord, BitVec.getLsbD_extractLsb', h, decide_true, Bool.true_and]

theorem tileWord_tileSet (t : W256) (k : Nat) (v : W32) (h : k < 8) : tileWord (tileSet t k v) k = v := by
  apply BitVec.eq_of_getLsbD_eq
  intro i hi
  have b : 32 * k ≤ 32 * k + i ∧ 32 * k + i < 32 * k + 32 := by omega
  rw [tileWord_bit _ _ _ hi, tileSet_bit _ _ _ _ (by omega), if_pos b]
  congr 1; omega

theorem tileWord_tileSet_of_ne (t : W256) (k j : Nat) (v : W32) (h : j ≠ k) : tileWord (tileSet t k v) j = tileWord t j := by
  apply BitVec.eq_of_getLsbD_eq
  intro i hi
  rw [tileWord_bit _ _ _ hi, tileWord_bit _ _ _ hi]
  by_cases b : 32 * j + i < 256
  · have c : ¬ (32 * k ≤ 32 * j + i ∧ 32 * j + i < 32 * k + 32) := by omega
    rw [tileSet_bit _ _ _ _ b, if_neg c]
  · rw [BitVec.getLsbD_of_ge _ _ (by omega), BitVec.getLsbD_of_ge _ _ (by omega)]

theorem bitOf_get (l i : Nat) (h : l < 32) : (bitOf l).getLsbD i = decide (i = l) := by
  have e : bitOf l = BitVec.ofNat 32 (2 ^ l) := by unfold bitOf; rw [Nat.one_shiftLeft]; rfl
  rw [e, BitVec.getLsbD_ofNat, Nat.testBit_two_pow]
  by_cases g : l = i
  · subst g; simp [h]
  · have : ¬ i = l := fun x => g x.symm
    simp [g, this]

theorem Regs.read_write_self (r : Regs) (w : RegWrite) (h : w.ok) (p : w.elem.isP15 = false) :
    (r.write w.elem w.val).read w.elem = w.val := by
  obtain ⟨e, v⟩ := w
  cases e with
  | v i l => simp [Regs.write, Regs.read]
  | u i => simp [Regs.write, Regs.read]
  | p i l =>
    have hi : i ≠ 15 := by simpa [RegElem.isP15] using p
    obtain ⟨hl, hv⟩ := h
    simp only [Regs.write, Regs.read, hi, if_false, Tab.get_put_self]
    rcases hv with hv | hv <;> simp only at hv <;> subst hv
    · have z : (0 : W32).getLsbD 0 = false := by decide
      simp only [z, Bool.false_eq_true, if_false, BitVec.getLsbD_and, BitVec.getLsbD_not, bitOf_get _ _ hl, decide_true, Bool.not_true,
        Bool.and_false]
    · have z : (1 : W32).getLsbD 0 = true := by decide
      simp only [z, if_true, BitVec.getLsbD_or, bitOf_get _ _ hl, decide_true, Bool.or_true]
  | t i k => simp [Regs.write, Regs.read, tileWord_tileSet _ _ _ h]
  | a i k => exact h.elim

theorem Regs.read_write_of_ne (r : Regs) (w : RegWrite) (e : RegElem) (h : w.ok) (he : e.real) (n : w.elem ≠ e) :
    (r.write w.elem w.val).read e = r.read e := by
  obtain ⟨d, v⟩ := w
  cases d with
  | v i l =>
    cases e with
    | v j m =>
      have : 32 * j + m ≠ 32 * i + l := by
        intro g
        have h1 : l < 32 := h
        have h2 : m < 32 := he
        apply n
        have : i = j ∧ l = m := by omega
        rw [this.1, this.2]
      simp [Regs.write, Regs.read, Tab.get_put_of_ne _ _ _ this]
    | _ => rfl
  | u i =>
    cases e with
    | u j =>
      have : j ≠ i := fun g => n (by rw [g])
      simp [Regs.write, Regs.read, Tab.get_put_of_ne _ _ _ this]
    | _ => rfl
  | p i l =>
    by_cases hi : i = 15
    · simp [Regs.write, hi]
    · cases e with
      | p j m =>
        by_cases hj : j = i
        · subst hj
          have hm : m ≠ l := fun g => n (by rw [g])
          simp only [Regs.write, Regs.read, hi, if_false, Tab.get_put_self]
          split
          · simp only [BitVec.getLsbD_or, bitOf_get _ _ h.1, hm, decide_false, Bool.or_false]
          · by_cases g : m < 32
            · simp only [BitVec.getLsbD_and, BitVec.getLsbD_not, bitOf_get _ _ h.1, hm, g, decide_false, decide_true, Bool.not_false,
                Bool.true_and, Bool.and_true]
            · rw [BitVec.getLsbD_of_ge _ _ (by omega), BitVec.getLsbD_of_ge _ _ (by omega)]
        · simp [Regs.write, Regs.read, hi, Tab.get_put_of_ne _ _ _ hj]
      | _ => simp [Regs.write, Regs.read, hi]
  | t i k =>
    cases e with
    | t j m =>
      by_cases hj : j = i
      · subst hj
        have hm : m ≠ k := fun g => n (by rw [g])
        simp [Regs.write, Regs.read, tileWord_tileSet_of_ne _ _ _ _ hm]
      · simp [Regs.write, Regs.read, Tab.get_put_of_ne _ _ _ hj]
    | _ => rfl
  | a i k => exact h.elim

theorem RegWrite.ok_real {w : RegWrite} (h : w.ok) : w.elem.real := by
  obtain ⟨e, v⟩ := w
  cases e <;> first | exact h | trivial

/-- A list of writes to distinct elements lands as Landed says. -/
theorem Regs.landed_writes (ws : List RegWrite) (ok : ∀ w, w ∈ ws → w.ok) (nd : (ws.map RegWrite.elem).Nodup) (r : Regs) :
    Landed r (r.writes ws) ws := by
  have keep : ∀ (ws : List RegWrite) (r : Regs) (e : RegElem), (∀ w, w ∈ ws → w.ok) → e.real → (∀ w, w ∈ ws → w.elem ≠ e) →
      (r.writes ws).read e = r.read e := by
    intro ws
    induction ws with
    | nil => intro r e _ _ _; rfl
    | cons a t ih =>
      intro r e ok he n
      have := ih (r.write a.elem a.val) e (fun w hw => ok w (List.mem_cons_of_mem _ hw)) he (fun w hw => n w (List.mem_cons_of_mem _ hw))
      rw [show r.writes (a :: t) = (r.write a.elem a.val).writes t from rfl, this]
      exact Regs.read_write_of_ne r a e (ok a List.mem_cons_self) he (n a List.mem_cons_self)
  refine ⟨?_, fun e he n => keep ws r e ok he n⟩
  induction ws generalizing r with
  | nil => intro w hw; cases hw
  | cons a t ih =>
    intro w hw p
    simp only [List.map_cons, List.nodup_cons] at nd
    rw [show r.writes (a :: t) = (r.write a.elem a.val).writes t from rfl]
    rcases List.mem_cons.mp hw with rfl | hw
    · rw [keep t _ w.elem (fun v hv => ok v (List.mem_cons_of_mem _ hv)) (RegWrite.ok_real (ok w List.mem_cons_self))
        (fun v hv g => nd.1 (g ▸ List.mem_map_of_mem hv))]
      exact Regs.read_write_self r w (ok w List.mem_cons_self) p
    · exact ih (fun v hv => ok v (List.mem_cons_of_mem _ hv)) nd.2 _ w hw p

end Sys2Proof.Machine
end

