-- ==== Sys2Proof/Laws/Writes.lean ====
section
/-! SUPPORT. What the shared writes of a word leave: at its issue, for the end of its run, for its completion. -/

namespace Sys2Proof.Machine

/-! ## Who else is changed -/

theorem OnlyWave.refl (s : State) (c q w : Nat) : OnlyWave s s c q w := ⟨rfl, fun _ _ => rfl, rfl, fun _ _ => rfl, fun _ _ => rfl⟩

theorem OnlyWave.trans {s t u : State} {c q w : Nat} (a : OnlyWave s t c q w) (b : OnlyWave t u c q w) : OnlyWave s u c q w := by
  refine ⟨?_, fun k h => (b.cores k h).trans (a.cores k h), ?_, fun v h => (b.slots v h).trans (a.slots v h),
    fun p h => (b.quarters p h).trans (a.quarters p h)⟩
  · rw [b.rest, a.rest]
  · rw [b.core, a.core]

theorem OnlyWave.modWave (s : State) (c q w : Nat) (k : Wave → Wave) : OnlyWave s (s.modWave c w k) c q w := by
  refine ⟨rfl, fun d h => State.core_modCore_of_ne s _ h, ?_, fun v h => State.slot?_modWave_of_ne s c k h, fun p _ => ?_⟩
  · simp [State.modWave, State.modSlot]
  · simp

theorem OnlyWave.modRun (s : State) (c q w : Nat) (k : Run → Run) : OnlyWave s (s.modRun c q k) c q w := by
  refine ⟨rfl, fun d h => State.core_modCore_of_ne s _ h, ?_, fun v _ => ?_, fun p h => State.quarter_modRun_of_ne s c k h⟩
  · simp [State.modRun, State.modQuarter]
  · simp

/-! ## Steps of an issuing word -/

/-- y is what issues in t where x issued in s, and only the wave and its run have changed. -/
def Moves (s t : State) (x y : Ctx) : Prop := t.issue? = some y ∧ OnlyWave s t x.core x.quarter x.wid

theorem Ctx.exec_eq {s : State} {x : Ctx} (h : s.issue? = some x) : x.exec = x.g.mask &&& ~~~x.g.gone &&& x.sl.wave.live := by
  obtain ⟨_, _, _, _, _, _, _, _, _, he, _⟩ := State.issue?_eq h
  exact he

theorem modWave_moves {s : State} {x : Ctx} (h : s.issue? = some x) (k : Wave → Wave) (hu : (k x.wv).uid = x.wv.uid)
    (hg : (k x.wv).gang = x.wv.gang) (hl : (k x.wv).live = x.wv.live) :
    Moves s (s.modWave x.core x.wid k) x { x with sl := { x.sl with wave := k x.wv } } := by
  refine ⟨?_, OnlyWave.modWave s x.core x.quarter x.wid k⟩
  rw [State.issue?_modWave h k hu hg, hl]
  congr 1
  have := Ctx.exec_eq h
  cases x
  simp_all

theorem modGroups_moves {s : State} {x : Ctx} (h : s.issue? = some x) (k : Group → Group) (hp : ∀ g, (k g).port = g.port)
    (hm : (k x.g).mask = x.g.mask) (hgo : (k x.g).gone = x.g.gone) :
    Moves s (s.modRun x.core x.quarter (fun r => { r with groups := r.groups.map k })) x
      { x with run := { x.run with groups := x.run.groups.map k }, g := k x.g } := by
  refine ⟨?_, OnlyWave.modRun s x.core x.quarter x.wid _⟩
  rw [State.issue?_modRun h k hp, hm, hgo]
  congr 1
  have := Ctx.exec_eq h
  cases x
  simp_all

theorem issue_port {s : State} {x : Ctx} (h : s.issue? = some x) : x.g.port = x.port := by
  obtain ⟨u, _, _, _, hp, _, _, _, hg, _⟩ := State.issue?_eq h
  have := List.find?_some hg
  rw [hp]; simpa using this

/-- A change of the issuing group alone. -/
theorem modGroup_moves {s : State} {x : Ctx} (h : s.issue? = some x) (k : Group → Group) (hp : ∀ g, (k g).port = g.port)
    (hm : (k x.g).mask = x.g.mask) (hgo : (k x.g).gone = x.g.gone) :
    Moves s (s.modGroup x.core x.quarter x.port k) x
      { x with run := { x.run with groups := x.run.groups.map (fun u => if u.port = x.port then k u else u) }, g := k x.g } := by
  have e := issue_port h
  have := modGroups_moves h (fun u => if u.port = x.port then k u else u) (fun g => by split <;> simp [hp])
    (by simp [e, hm]) (by simp [e, hgo])
  simpa [State.modGroup, e] using this

theorem Moves.step {s t u : State} {x y z : Ctx} (a : Moves s t x y) (e1 : y.core = x.core) (e2 : y.quarter = x.quarter)
    (e3 : y.wid = x.wid) (b : Moves t u y z) : Moves s u x z := by
  refine ⟨b.1, a.2.trans ?_⟩
  have := b.2
  rwa [e1, e2, e3] at this

/-! ## The shared writes -/

theorem dropPending_moves {s : State} {x : Ctx} (h : s.issue? = some x) (es : List RegElem) :
    Moves s (dropPending s x es) x
      { x with sl := { x.sl with wave := { x.wv with ops := x.wv.ops.map (fun o => { o with writes := dropElems es o.writes }) } },
               run := { x.run with groups := x.run.groups.map (fun g => { g with writes := dropElems es g.writes }) },
               g := { x.g with writes := dropElems es x.g.writes } } := by
  have a := modGroups_moves h (fun g => { g with writes := dropElems es g.writes }) (fun _ => rfl) rfl rfl
  have b := modWave_moves a.1 (fun w => { w with ops := w.ops.map (fun o => { o with writes := dropElems es o.writes }) }) rfl rfl rfl
  exact a.step rfl rfl rfl b

theorem orExc_moves {s : State} {x : Ctx} (h : s.issue? = some x) (e : Exc) :
    Moves s (orExc x e s) x { x with sl := { x.sl with wave := { x.wv with wstat := x.wv.wstat ||| e.setWidth 32 } } } :=
  modWave_moves h (fun w => w.orWstat e) rfl rfl rfl

theorem find?_append_filter {α : Type} (l r : List α) (p q : α → Bool) (hl : ∀ a ∈ l, p a = false) (hq : ∀ a ∈ r, p a = true → q a = true) :
    (l ++ r.filter q).find? p = r.find? p := by
  rw [List.find?_append]
  have e : l.find? p = none := by
    rw [List.find?_eq_none]; intro a ha; simp [hl a ha]
  rw [e, Option.none_or]
  clear e hl
  induction r with
  | nil => rfl
  | cons a t ih =>
    have ih := ih (fun b hb => hq b (List.mem_cons_of_mem _ hb))
    by_cases g : q a = true
    · rw [List.filter_cons_of_pos g, List.find?_cons, List.find?_cons, ih]
    · rw [List.filter_cons_of_neg g, List.find?_cons, ih]
      have : p a = false := by
        by_contra c
        exact g (hq a List.mem_cons_self (by simpa using c))
      rw [this]

/-- writeNow does what WroteNow says, for writes to distinct elements. -/
theorem writeNow_wrote {s : State} {x : Ctx} (h : s.issue? = some x) (f : Fields) (ws : List RegWrite) (e : Exc)
    (ok : ∀ w, w ∈ ws → w.ok) (nd : (ws.map RegWrite.elem).Nodup) :
    ∃ y, Moves s (orExc x e (writeNow x f ws s)) x y ∧ WroteNow f.t x y ws e := by
  by_cases ht : f.t = true
  · have a := modGroup_moves h (fun g =>
      { g with trans := ws.map (fun w => (⟨w.elem, w.val, x.idx⟩ : TransVal)) ++
                 g.trans.filter (fun t => !(ws.map RegWrite.elem).contains t.elem) }) (fun _ => rfl) rfl rfl
    have b := orExc_moves a.1 e
    have c : writeNow x f ws s = s.modGroup x.core x.quarter x.port (fun g =>
        { g with trans := ws.map (fun w => (⟨w.elem, w.val, x.idx⟩ : TransVal)) ++
                   g.trans.filter (fun t => !(ws.map RegWrite.elem).contains t.elem) }) := by simp only [writeNow, ht, if_true]
    rw [c]
    refine ⟨_, a.step rfl rfl rfl b, ?_⟩
    · refine ⟨fun _ => ⟨rfl, ?_, ?_, rfl, rfl⟩, fun g => by simp [ht] at g, rfl, rfl, rfl, rfl, rfl⟩
      · intro w hw p
        simp only [Ctx.readE]
        have : (ws.map (fun w => (⟨w.elem, w.val, x.idx⟩ : TransVal)) ++
            x.g.trans.filter (fun t => !(ws.map RegWrite.elem).contains t.elem)).find?
              (fun t => t.elem == w.elem && decide (x.run.idx ≤ t.idx + 3) && !w.elem.isP15) = some ⟨w.elem, w.val, x.idx⟩ := by
          rw [List.find?_append]
          have : (ws.map (fun w => (⟨w.elem, w.val, x.idx⟩ : TransVal))).find?
              (fun t => t.elem == w.elem && decide (x.run.idx ≤ t.idx + 3) && !w.elem.isP15) = some ⟨w.elem, w.val, x.idx⟩ := by
            clear ok a b c
            induction ws with
            | nil => cases hw
            | cons v r ih =>
              simp only [List.map_cons, List.nodup_cons] at nd
              rw [List.map_cons, List.find?_cons]
              rcases List.mem_cons.mp hw with rfl | hw
              · simp [p, Ctx.idx]
              · have : v.elem ≠ w.elem := fun g => nd.1 (g ▸ List.mem_map_of_mem hw)
                simp only [beq_eq_false_iff_ne.mpr this, Bool.false_and]
                exact ih nd.2 hw
          rw [this]; rfl
        rw [this]
      · intro d hd
        simp only [Ctx.readE]
        rw [find?_append_filter]
        · intro a ha
          obtain ⟨w, hw, rfl⟩ := List.mem_map.mp ha
          simp [hd w hw]
        · intro a _ ha
          simp only [Bool.and_eq_true, beq_iff_eq] at ha
          simp only [Bool.not_eq_eq_eq_not, Bool.not_true, List.contains_eq_mem, decide_eq_false_iff_not]
          intro g
          obtain ⟨w, hw, g⟩ := List.mem_map.mp g
          exact hd w hw (g.trans ha.1.1)
  · have hf : f.t = false := by simpa using ht
    have a := dropPending_moves h (ws.map RegWrite.elem)
    have b := modGroup_moves a.1 (fun g => { g with trans := g.trans.filter (fun t => !(ws.map RegWrite.elem).contains t.elem) })
      (fun _ => rfl) rfl rfl
    have c := modWave_moves b.1 (fun w => { w with regs := w.regs.writes ws }) rfl rfl rfl
    have d := orExc_moves c.1 e
    have z : writeNow x f ws s = writeFile x ws s := by simp [writeNow, hf]
    rw [z]
    refine ⟨_, ((a.step rfl rfl rfl b).step rfl rfl rfl c).step rfl rfl rfl d, ?_⟩
    · exact ⟨fun g => by simp [hf] at g, fun _ => ⟨Regs.landed_writes ws ok nd _, rfl, rfl, rfl⟩, rfl, rfl, rfl, rfl, rfl⟩

/-- writeEnd does what WroteEnd says. -/
theorem writeEnd_wrote {s : State} {x : Ctx} (h : s.issue? = some x) (f : Fields) (ws : List RegWrite) (e : Exc) :
    ∃ y, Moves s (orExc x e (writeEnd x f ws s)) x y ∧ WroteEnd (flagOf x.g.hdr f.sf) x y ws e := by
  have a := dropPending_moves h (ws.map RegWrite.elem)
  have b := modGroup_moves a.1 (fun g => { g with writes := g.writes ++ ws, raised := g.raised ++ (flagOf x.g.hdr f.sf).toList })
    (fun _ => rfl) rfl rfl
  have hr (w : Wave) : (w.raise (flagOf x.g.hdr f.sf)).uid = w.uid ∧ (w.raise (flagOf x.g.hdr f.sf)).gang = w.gang ∧
      (w.raise (flagOf x.g.hdr f.sf)).live = w.live := by
    unfold Wave.raise; split <;> exact ⟨rfl, rfl, rfl⟩
  have c := modWave_moves b.1 (fun w => w.raise (flagOf x.g.hdr f.sf)) (hr _).1 (hr _).2.1 (hr _).2.2
  have d := orExc_moves c.1 e
  refine ⟨_, ((a.step rfl rfl rfl b).step rfl rfl rfl c).step rfl rfl rfl d, ?_⟩
  refine ⟨rfl, rfl, rfl, ?_, ?_, ?_, rfl, rfl⟩ <;> unfold Wave.raise <;> cases flagOf x.g.hdr f.sf <;> rfl

/-- Adding an operation without a wake flag. -/
theorem addOp_moves {s : State} {x : Ctx} (h : s.issue? = some x) (o : Op) (hk : o.wake = none) :
    Moves s (addOp x o s) x
      { x with sl := { x.sl with wave := { x.wv with
          flags := match o.flag with | some n => listAdj x.wv.flags n (· + 1) | none => x.wv.flags,
          ops := x.wv.ops ++ [{ o with id := x.wv.nextOp }], nextOp := x.wv.nextOp + 1 } } } := by
  have hw (w : Wave) : ((w.raise o.flag).raise o.wake) =
      { w with flags := match o.flag with | some n => listAdj w.flags n (· + 1) | none => w.flags } := by
    rw [hk]; unfold Wave.raise; cases o.flag <;> rfl
  have a := modWave_moves h (fun w => { (w.raise o.flag).raise o.wake with
    ops := ((w.raise o.flag).raise o.wake).ops ++ [{ o with id := ((w.raise o.flag).raise o.wake).nextOp }],
    nextOp := ((w.raise o.flag).raise o.wake).nextOp + 1 }) (by simp only [hw]) (by simp only [hw]) (by simp only [hw]; rfl)
  simp only [hw] at a
  have e : addOp x o s = s.modWave x.core x.wid (fun w => { (w.raise o.flag).raise o.wake with
    ops := ((w.raise o.flag).raise o.wake).ops ++ [{ o with id := ((w.raise o.flag).raise o.wake).nextOp }],
    nextOp := ((w.raise o.flag).raise o.wake).nextOp + 1 }) := rfl
  rw [e]
  simp only [hw]
  exact a

/-- writeLate does what WroteLate says. -/
theorem writeLate_wrote {s : State} {x : Ctx} (h : s.issue? = some x) (op : Nat) (f : Fields) (ws : List RegWrite) (e : Exc) :
    ∃ y, Moves s (writeLate x op f ws e s) x y ∧ WroteLate op f x y ws e ∧ y.wv.lanes = x.wv.lanes := by
  have a := dropPending_moves h (ws.map RegWrite.elem)
  have b := addOp_moves a.1 { x.op op f with writes := ws, exc := e } rfl
  exact ⟨_, a.step rfl rfl rfl b, ⟨rfl, rfl, rfl, rfl, rfl, rfl⟩, rfl⟩

/-! ## The lists that words write -/

theorem Ctx.active_lt (x : Ctx) (f : Fields) : ∀ l, l ∈ x.active f → l < 32 := by
  intro l h
  simpa using List.mem_range.mp (List.mem_of_mem_filter h)

theorem Ctx.active_nodup (x : Ctx) (f : Fields) : (x.active f).Nodup := List.Nodup.filter _ List.nodup_range

theorem Ctx.destLanes_sub (x : Ctx) (f : Fields) : (x.destLanes f).Sublist (x.active f) := by
  unfold Ctx.destLanes
  split
  · exact List.take_sublist _ _
  · exact List.Sublist.refl _

theorem Ctx.destLanes_lt (x : Ctx) (f : Fields) (l : Nat) (h : l ∈ x.destLanes f) : l < 32 :=
  x.active_lt f l ((x.destLanes_sub f).subset h)

/-- The lanes a destination is written in name its elements once. -/
theorem destElems_nodup (x : Ctx) (f : Fields) (n : Nat) : ((x.destLanes f).flatMap (fun l => destElems f.dst l n)).Nodup := by
  rw [List.nodup_flatMap]
  constructor
  · intro l _
    cases f.dst <;> simp only [destElems, List.nodup_singleton, List.nodup_nil]
    · exact (List.nodup_range).map (fun a b g => by simpa using g)
    · exact (List.nodup_range).map (fun a b g => by simpa using g)
  · have key : ∀ ls : List Nat, ls.Nodup → (isOnce f.dst = true → ls.length ≤ 1) →
        ls.Pairwise (fun a b => List.Disjoint (destElems f.dst a n) (destElems f.dst b n)) := by
      intro ls nd one
      cases h : f.dst with
      | vec i =>
        refine nd.imp ?_
        intro a b ab e h1 h2
        simp only [destElems, List.mem_map] at h1 h2
        obtain ⟨_, _, rfl⟩ := h1
        obtain ⟨_, _, g⟩ := h2
        exact ab (by injection g with _ g; exact g.symm)
      | pred i =>
        refine nd.imp ?_
        intro a b ab e h1 h2
        simp only [destElems, List.mem_singleton] at h1 h2
        exact ab (by rw [h1] at h2; injection h2)
      | uni i =>
        have : ls.length ≤ 1 := one (by rw [h]; rfl)
        match ls, this with
        | [], _ => exact List.Pairwise.nil
        | [a], _ => exact List.pairwise_singleton _ _
      | _ => exact nd.imp (fun _ => by simp [destElems])
    apply key
    · exact (x.destLanes_sub f).nodup (x.active_nodup f)
    · intro g; simp [Ctx.destLanes, g, List.length_take]

theorem wr32_elems (o : Opnd) (l : Nat) (v : W32) : (wr32 o l v).map RegWrite.elem = destElems o l 1 := by
  simp [wr32, Function.comp_def]

theorem wrWide_elems (o : Opnd) (l n : Nat) (v : W128) : (wrWide o l n v).map RegWrite.elem = destElems o l n := by
  simp only [wrWide, List.map_map]
  rw [show (RegWrite.elem ∘ fun (p : RegElem × Nat) => (⟨p.1, v.extractLsb' (32 * p.2) 32⟩ : RegWrite)) = Prod.fst from rfl]
  exact List.zipIdx_map_fst 0 _

theorem wrBool_elems (o : Opnd) (l : Nat) (b : Bool) : (wrBool o l b).map RegWrite.elem = destElems o l 1 := by
  cases o <;> simp [wrBool, wr32, destElems, Function.comp_def]

/-- A destination of a 32- or 64-bit value is a vector or uniform register. -/
def isRegOpnd : Opnd → Bool
  | .vec _ => true
  | .uni _ => true
  | _ => false

theorem destElems_ok (o : Opnd) (l n : Nat) (h : l < 32) (w : RegWrite) (hw : w.elem ∈ destElems o l n) (hr : isRegOpnd o = true) : w.ok := by
  unfold RegWrite.ok
  cases o <;> simp only [isRegOpnd, Bool.false_eq_true] at hr <;> simp only [destElems, List.mem_map] at hw <;>
    obtain ⟨k, _, e⟩ := hw <;> rw [← e]
  · exact h
  · trivial

end Sys2Proof.Machine
end

