-- ==== Sys2Proof/Tests/Slice0.lean ====
section
/-! SUPPORT. Small tests: words the manual writes out decode to what they stand for, ill-formed words are refused, single words and
events give the manual's values, and concrete states meet the hypotheses of the statements. -/

namespace Sys2Proof.Machine

set_option Elab.async false

/-! ## Decoding: words written out in the manual -/

/-- A word from bits 127:64 and 63:0. -/
def tWord (hi lo : Nat) : W128 := BitVec.ofNat 128 (hi * 2 ^ 64 + lo)

/-- Fields with guard 15 and all operands absent. -/
def tF0 : Fields :=
  { guard := 15, gneg := false, sf := false, ru := 0, t := false, s := false, dst := .absent, a := .absent, b := .absent, c := .absent,
    mod := 0, imm := 0 }

/-- 06, the worked encodings after R150: FFMA. -/
theorem test_decode_ffma : decode (tWord 0x1 0x800280080060C553) = .ok (.ffma { tF0 with s := true, ru := 1, guard := 3, dst := .vec 12, a := .vec 4, b := .vec 5, c := .vec 12 }) := by decide +kernel

/-- 06, the same table: IADD. -/
theorem test_decode_iadd : decode (tWord 0xFFFFFFFD00000700 0x1400001A006BC020) = .ok (.iadd { tF0 with dst := .vec 13, a := .vec 13, b := .imm, imm := 0xFFFFFFFD }) := by decide +kernel

/-- 06, the same table: EXIT. -/
theorem test_decode_exit : decode (tWord 0x700 0x1C007001C003C006) = .ok (.exit tF0) := by decide +kernel

/-- 07 R154, the worked branch. -/
theorem test_decode_bra : decode (tWord 0x0000000500000700 0x1C007001C0008001) = .ok (.bra { tF0 with guard := 2, imm := 5 }) := by decide +kernel

/-- 08 R191, the worked encoding. -/
theorem test_decode_cvtpk4 : decode (tWord 0xC700 0x0005801400A3C087) = .ok (.cvtpk4 { tF0 with dst := .vec 20, a := .vec 10, b := .vec 11, mod := 24 }) := by decide +kernel

/-- 09 R210, the worked encoding: ORD 1 and SCOPE 7. -/
theorem test_decode_atadd : decode (tWord 0x00000008001C4700 0x00030009C003C0C0) = .ok (.atadd { tF0 with a := .vec 4, b := .vec 6, mod := 8 + 7 * 128, imm := 8 }) := by decide +kernel

/-- 14 R318. -/
theorem test_decode_rte : decode (tWord 0x700 0x1C007001C003C0F4) = .ok (.rte tF0) := by decide +kernel

/-- 14 R320. -/
theorem test_decode_psrd : decode (tWord 0x700 0x1C0070000023C0F5) = .ok (.psrd { tF0 with dst := .vec 4 }) := by decide +kernel

/-- 12 R282: POST at word bit 75. -/
theorem test_decode_stk : decode (tWord 0xF00 0x1C00001000A3C0E3) = .ok (.stk { tF0 with dst := .vec 20, a := .vec 8, mod := 1 }) := by decide +kernel

/-- 19: OWNER 2 at word bits 81:75. -/
theorem test_decode_ownset : decode (tWord 0x0018000000001700 0x1400100C40B3C0FB) = .ok (.ownset { tF0 with dst := .uni 22, a := .uni 6, b := .imm, mod := 2, imm := 0x180000 }) := by decide +kernel

/-- 11 R270: ACQ at word bit 78, SCOPE 7 at 85:82. -/
theorem test_decode_beamq : decode (tWord 0x00000000001C4700 0x1C0010084053C0E8) = .ok (.beamq { tF0 with dst := .uni 10, a := .uni 4, mod := 8 + 7 * 128 }) := by decide +kernel

/-- 10 R232. -/
theorem test_decode_lcopy : decode (tWord 0x00000100001E4700 0x0C00B00040A3C0D0) = .ok (.lcopy { tF0 with dst := .uni 20, a := .tile 0, b := .tile 1, mod := 0x3C8, imm := 0x100 }) := by decide +kernel

/-- 06 R143: the word of zeros never decodes. -/
theorem test_zero_word_refused : (∀ i, decode 0 ≠ .ok i) := by
  have h : (match decode 0 with | .ok _ => false | .error _ => true) = true := by decide +kernel
  intro i e
  rw [e] at h
  simp at h

/-! ## Well-formedness: a term that each check refuses -/

theorem test_ill_formed_operand : (Instr.iadd { tF0 with dst := .tile 1, a := .vec 1, b := .vec 2 }).legal = false := by decide +kernel
theorem test_ill_formed_pair : (Instr.movw { tF0 with dst := .vec 3, a := .vec 2 }).legal = false := by decide +kernel
theorem test_ill_formed_two_immediates : check 0x20 { tF0 with dst := .vec 1, a := .imm, b := .imm } = some .immediate := by
  decide +kernel
theorem test_ill_formed_unused_imm : (Instr.ineg { tF0 with dst := .vec 1, a := .vec 2, imm := 1 }).legal = false := by decide +kernel
theorem test_ill_formed_mod : check 0x20 { tF0 with dst := .vec 1, a := .vec 2, b := .vec 3, mod := 1 } = some .modifier := by
  decide +kernel
theorem test_ill_formed_reuse : check 0x20 { tF0 with dst := .vec 1, a := .uni 2, b := .vec 3, ru := 1 } = some .reuse := by
  decide +kernel
theorem test_ill_formed_transient : check 0x20 { tF0 with dst := .vec 1, a := .vec 2, b := .vec 3, t := true, s := true } =
    some .transient := by decide +kernel
theorem test_ill_formed_flag : check 0x20 { tF0 with dst := .vec 1, a := .vec 2, b := .vec 3, sf := true } = some .flag := by
  decide +kernel
theorem test_ill_formed_constructor : ¬ (Instr.swrSet { tF0 with a := .uni 2 }).Same := by
  have h : (build 0xF3 { tF0 with a := .uni 2 } == Instr.swrSet { tF0 with a := .uni 2 }) = false := by decide +kernel
  intro e
  have e : build 0xF3 { tF0 with a := .uni 2 } = Instr.swrSet { tF0 with a := .uni 2 } := e
  rw [e] at h
  simp at h
theorem test_well_formed : (Instr.iadd { tF0 with dst := .vec 3, a := .vec 1, b := .vec 2 }).WF ∧
    encode (.iadd { tF0 with dst := .vec 3, a := .vec 1, b := .vec 2 }) ≠ none := ⟨⟨by decide +kernel, rfl⟩, by decide +kernel⟩

/-! ## States in which words issue: the hypotheses of the word statements can be met, for every opcode -/

/-- A region entry for the first 4 KiB page. -/
def tTlb : TlbEnt := { vf := 0, va := 0, size := 12, gpa := 0x10000, spa := 0x10000, r := true, w := true, x := true, u := true, elide := false }

/-- Lanes m of one wave issue a word on core 0, in a part as after reset. -/
def tState (m : Mask) : State :=
  let s := placeWord State.reset 0
  { ((s.modGroup 0 0 0 (fun g => { g with mask := m })).modCore 0 (fun k => { k with tlb := [tTlb] })).modCluster 0 (fun k =>
      { k with tlb2 := [tTlb] }) with cur := some { core := 0, quarter := 0, port := 0 } }

/-- The group that issues in s. -/
def tCtx (s : State) : Ctx :=
  let t : Slot := { wave := wideWave, drain := none, parked := false, stopping := false, watches := [] }
  (s.issue?).getD
    { core := 0, quarter := 0, port := 0, wid := 0, sl := t, run := oneWordRun 0, g := default, exec := 0, clock := 0, mxprog := 0,
      ringdepth := 0 }

/-- The word of opcode op with fields f issues in s. -/
def issuesIn (s : State) (op : Nat) (f : Fields) : Bool :=
  let x := tCtx s
  (s.issue?).isSome && (check op f).isNone && x.placeOk op f (ringCount s x) && decide (levelOf op ≤ x.g.level.code) &&
    x.wv.regs.vpois.isEmpty && x.wv.regs.upois.isEmpty && x.wv.regs.tpois.isEmpty && x.wv.regs.ppois.isEmpty

theorem issues_of_issuesIn {s : State} {op : Nat} {f : Fields} (h : issuesIn s op f = true) : Issues op f s (tCtx s) := by
  simp only [issuesIn, Bool.and_eq_true, decide_eq_true_eq, List.isEmpty_iff] at h
  obtain ⟨⟨⟨⟨⟨⟨⟨h1, h2⟩, h3⟩, h4⟩, h5⟩, h6⟩, h7⟩, h8⟩ := h
  refine ⟨?_, by simpa using h2, h3, h4, h5, h6, h7, h8⟩
  cases hs : s.issue? with
  | none => simp [hs] at h1
  | some x => simp [tCtx, hs]

/-- An operand by kind: 1 vector 8, 2 uniform 8, 3 predicate 1, 4 tile 1, 5 accumulator 0, 6 immediate. -/
def tOpnd : Nat → Opnd
  | 1 => .vec 8 | 2 => .uni 8 | 3 => .pred 1 | 4 => .tile 1 | 5 => .acc 0 | 6 => .imm | _ => .absent

/-- Fields of a word without a guard. -/
def tf (d a b c mod imm : Nat) : Fields :=
  { guard := 15, gneg := false, sf := false, ru := 0, t := false, s := false, dst := tOpnd d, a := tOpnd a, b := tOpnd b, c := tOpnd c,
    mod := BitVec.ofNat 21 mod, imm := BitVec.ofNat 32 imm }

/-- Words of a row, by column: operand kinds, MOD and IMM. -/
def rowIssues (row : Nat) (ws : List (Nat × Nat × Nat × Nat × Nat × Nat)) : Bool :=
  ws.length == 16 && ws.zipIdx.all (fun p =>
    issuesIn (tState 1) (16 * row + p.2) (tf p.1.1 p.1.2.1 p.1.2.2.1 p.1.2.2.2.1 p.1.2.2.2.2.1 p.1.2.2.2.2.2))

theorem test_row0_words_issue : rowIssues 0
   [(0,0,0,0,0,0), (0,0,0,0,0,0), (0,1,0,0,0,0), (1,0,0,0,0,0), (1,1,0,0,0,0), (0,1,0,0,0,0), (0,0,0,0,0,0), (2,3,0,0,0,0),
    (2,3,0,0,0,0), (1,3,0,0,0,0), (1,1,0,0,0,0), (1,1,1,0,0,0), (1,1,1,0,0,0), (1,1,1,0,0,0), (1,1,1,0,0,0), (2,1,2,0,0,0)] = true := by
  decide +kernel

theorem test_row1_words_issue : rowIssues 1
   [(0,2,0,0,0,0), (0,2,0,0,0,0), (0,2,0,0,0,0), (0,2,2,0,0,0), (0,2,2,0,0,0), (0,0,0,0,512,0), (0,0,0,0,512,0), (0,0,0,0,512,0),
    (2,0,0,0,0,0), (3,2,2,2,0,0), (0,0,0,0,0,0), (2,0,0,0,0,0), (2,0,0,0,0,0), (2,0,0,0,0,0), (0,2,0,0,0,0), (0,0,0,0,0,0)] = true := by
  decide +kernel

theorem test_row2_words_issue : rowIssues 2
   [(1,1,1,0,0,0), (1,1,1,0,0,0), (1,1,1,0,0,0), (1,1,1,0,0,0), (1,1,1,0,0,0), (1,1,1,0,0,0), (1,1,1,1,0,0), (1,1,0,0,0,0),
    (1,1,0,0,0,0), (1,1,1,1,0,0), (1,1,1,0,0,0), (1,1,1,0,0,0), (1,1,1,0,0,0), (1,1,1,0,0,0), (1,1,0,0,0,0), (1,1,1,1,0,0)] = true := by
  decide +kernel

theorem test_row3_words_issue : rowIssues 3
   [(1,1,1,0,0,0), (1,1,1,0,0,0), (1,1,1,1,0,0), (1,1,1,0,0,0), (1,1,1,0,0,0), (1,1,1,0,0,0), (1,1,1,0,0,0), (1,1,1,0,0,0),
    (1,1,1,0,0,0), (1,1,1,1,0,0), (1,1,1,1,0,0), (1,1,1,0,0,256), (1,1,0,0,0,0), (1,1,0,0,0,0), (1,1,0,0,0,0), (1,1,0,0,0,0)] = true := by
  decide +kernel

theorem test_row4_words_issue : rowIssues 4
   [(1,1,1,0,0,0), (1,1,1,0,0,0), (1,1,1,3,0,0), (1,1,1,3,0,0), (1,1,1,0,0,0), (1,1,1,0,0,0), (1,1,1,0,0,0), (1,1,1,0,0,0),
    (1,1,1,1,0,0), (1,1,0,0,0,0), (1,1,0,0,0,0), (4,4,0,0,0,0), (3,1,0,0,0,0), (3,3,3,3,0,0), (1,1,0,0,0,0), (0,1,0,0,0,0)] = true := by
  decide +kernel

theorem test_row5_words_issue : rowIssues 5
   [(1,1,1,0,0,0), (1,1,1,0,0,0), (1,1,1,0,0,0), (1,1,1,1,0,0), (1,1,1,0,0,0), (1,1,1,0,0,0), (1,1,1,1,0,0), (1,1,1,0,0,0),
    (1,1,0,0,0,0), (1,1,0,0,0,0), (1,1,1,0,0,0), (1,1,0,0,0,0), (1,1,1,0,0,0), (1,1,0,0,0,0), (1,1,0,0,0,0), (1,1,0,0,0,0)] = true := by
  decide +kernel

theorem test_row6_words_issue : rowIssues 6
   [(1,1,1,0,0,0), (1,1,1,0,0,0), (1,1,1,0,0,0), (1,1,1,1,0,0), (1,1,1,0,0,0), (1,1,1,0,0,0), (1,1,1,0,0,0), (1,1,0,0,0,0),
    (1,1,0,0,0,0), (1,1,1,0,0,0), (1,1,1,0,0,0), (1,1,1,0,0,0), (1,1,1,1,0,0), (1,1,1,0,0,0), (1,1,1,0,0,0), (1,1,1,0,0,0)] = true := by
  decide +kernel

theorem test_row7_words_issue : rowIssues 7
   [(1,1,1,0,0,0), (1,1,1,0,0,0), (1,1,1,0,0,0), (1,1,1,1,0,0), (1,1,1,0,0,0), (1,1,1,0,0,0), (1,1,1,0,0,0), (1,1,0,0,0,0),
    (1,1,0,0,0,0), (1,1,1,0,0,0), (1,1,0,0,0,0), (1,1,1,0,0,0), (1,1,0,0,0,0), (1,1,0,0,0,0), (1,1,0,0,0,0), (1,1,0,0,0,0)] = true := by
  decide +kernel

theorem test_row8_words_issue : rowIssues 8
   [(1,1,0,0,0,0), (1,1,0,0,128,0), (1,1,0,0,4096,0), (1,1,0,0,4224,0), (1,1,0,0,48,0), (1,1,0,0,144,0), (1,1,1,0,16,0), (1,1,1,0,24,0),
    (1,1,1,0,40,0), (1,1,0,0,512,0), (1,1,0,0,768,0), (1,1,0,0,1280,0), (1,1,1,0,0,0), (1,1,0,0,24,0), (1,1,1,1,0,0), (1,1,0,0,0,0)] = true := by
  decide +kernel

theorem test_row9_words_issue : rowIssues 9
   [(1,1,0,0,0,0), (1,1,0,0,0,0), (1,1,0,0,0,0), (1,1,0,0,0,0), (1,1,0,0,0,0), (1,1,0,0,0,0), (1,1,0,0,0,0), (1,1,0,0,0,0),
    (1,1,1,1,0,0), (1,1,1,1,0,0), (1,1,1,1,0,0), (1,1,1,1,0,0), (1,1,1,1,0,0), (1,1,1,1,0,0), (0,1,0,0,0,0), (1,0,0,0,0,0)] = true := by
  decide +kernel

theorem test_rowA_words_issue : rowIssues 10
   [(1,1,0,0,0,0), (0,1,1,0,0,0), (2,2,0,0,0,0), (0,2,2,0,0,0), (1,1,0,0,0,0), (1,1,1,0,2,0), (0,1,1,1,2,0), (0,1,0,0,0,0),
    (0,2,2,0,0,0), (0,2,2,0,0,0), (1,2,0,0,0,0), (0,2,1,0,0,0), (1,2,1,2,0,0), (1,1,0,0,16,0), (3,1,0,0,0,0), (0,1,0,0,0,0)] = true := by
  decide +kernel

theorem test_rowB_words_issue : rowIssues 11
   [(1,1,0,0,0,0), (0,1,1,0,0,0), (1,1,0,0,0,0), (1,1,0,0,0,0), (0,1,1,0,0,0), (1,1,0,0,0,0), (0,1,1,0,0,0), (1,5,0,0,0,0),
    (0,1,1,0,0,0), (1,2,0,0,0,0), (0,2,1,0,0,0), (1,2,0,0,0,0), (0,2,1,0,0,0), (1,2,0,0,0,0), (0,2,2,2,2,0), (1,2,1,2,0,0)] = true := by
  decide +kernel

theorem test_rowC_words_issue : rowIssues 12
   [(0,1,1,0,0,0), (0,1,1,0,0,0), (0,1,1,0,0,0), (0,1,1,0,0,0), (0,1,1,0,0,0), (0,1,1,0,0,0), (0,1,1,0,0,0), (0,1,1,1,0,0),
    (0,1,1,0,0,0), (0,1,1,0,0,0), (0,1,1,0,8192,0), (1,1,0,0,0,0), (0,1,1,0,0,0), (1,1,0,0,0,0), (0,0,0,0,0,0), (1,1,0,0,0,0)] = true := by
  decide +kernel

theorem test_rowD_words_issue : rowIssues 13
   [(0,4,4,0,0,0), (0,4,4,0,0,0), (0,4,4,2,0,0), (0,4,4,2,0,0), (0,4,4,2,0,0), (0,4,4,2,0,0), (0,4,2,0,0,0), (2,0,0,0,0,0),
    (0,4,4,5,0,17891329), (0,4,4,2,0,0), (0,0,0,5,0,1), (2,0,0,0,0,0), (2,2,2,0,0,0), (2,0,0,0,0,0), (0,2,0,0,0,0), (2,2,2,0,0,0)] = true := by
  decide +kernel

theorem test_rowE_words_issue : rowIssues 14
   [(1,4,1,0,0,0), (1,4,1,0,0,0), (1,4,1,0,0,0), (1,1,0,0,0,0), (0,1,1,1,0,0), (0,1,1,0,0,0), (0,2,2,0,0,0), (0,2,0,0,0,0),
    (0,2,0,0,0,0), (0,2,2,0,0,0), (0,2,0,0,0,0), (2,2,0,0,0,0), (2,2,0,0,0,0), (0,1,0,1,0,0), (0,1,2,0,0,0), (0,1,0,0,0,0)] = true := by
  decide +kernel

theorem test_rowF_words_issue : rowIssues 15
   [(0,0,0,0,0,0), (0,0,0,0,0,0), (1,0,0,0,0,0), (0,2,0,0,0,0), (0,0,0,0,0,0), (1,0,0,0,0,0), (0,2,0,0,0,0), (2,2,2,0,0,0),
    (2,2,0,0,0,0), (0,2,2,0,0,0), (0,2,2,0,0,0), (2,2,2,0,0,0), (2,2,0,0,0,0), (0,2,2,0,0,0), (0,2,0,0,0,0), (2,2,2,0,0,0)] = true := by
  decide +kernel

/-! ## Values of single words -/

/-- s with registers of its wave written. -/
def tRegs (s : State) (ws : List RegWrite) : State := s.modWave 0 0 (fun v => { v with regs := v.regs.writes ws })

/-- What element e of the wave reads after i, if i answers a next state. -/
def tAfter (i : Instr) (s : State) (e : RegElem) : Option W32 :=
  match exec i s with
  | .next t => (t.slot? 0 0).map (fun u => u.wave.regs.read e)
  | _ => none

/-- 07 R163, the worked 64-bit add, low half: IADDC.CO3 v10, v2, v4. -/
theorem test_iaddc_value : tAfter (.iaddc { tF0 with dst := .vec 10, a := .vec 2, b := .vec 4, mod := 3 })
    (tRegs (tState 1) [⟨.v 2 0, 0xFFFFFFFF⟩, ⟨.v 4 0, 1⟩]) (.v 10 0) = some 0 := by decide +kernel
/-- Its carry, in p3. -/
theorem test_iaddc_carry : tAfter (.iaddc { tF0 with dst := .vec 10, a := .vec 2, b := .vec 4, mod := 3 })
    (tRegs (tState 1) [⟨.v 2 0, 0xFFFFFFFF⟩, ⟨.v 4 0, 1⟩]) (.p 3 0) = some 1 := by decide +kernel
/-- 07 R166, the worked BFE with len 12 under S32. -/
theorem test_bfe_signed : tAfter (.bfe { tF0 with dst := .vec 10, a := .vec 2, b := .vec 3, c := .vec 4 })
    (tRegs (tState 1) [⟨.v 2 0, 0xF0A0⟩, ⟨.v 3 0, 4⟩, ⟨.v 4 0, 12⟩]) (.v 10 0) = some 0xFFFFFF0A := by decide +kernel
/-- 07 R163: the majority function is table 0xE8. -/
theorem test_blut3_majority : tAfter (.blut3 { tF0 with dst := .vec 10, a := .vec 2, b := .vec 3, c := .vec 4, imm := 0xE8 })
    (tRegs (tState 1) [⟨.v 2 0, 0xF0F0FF00⟩, ⟨.v 3 0, 0xFF00F0F0⟩, ⟨.v 4 0, 0x0FF0F0F0⟩]) (.v 10 0) = some 0xFFF0F0F0 := by
  decide +kernel
/-- 07 R165: SAR.CLAMP of a negative value by 32 or more gives all ones. -/
theorem test_sar_clamp : tAfter (.sar { tF0 with dst := .vec 10, a := .vec 2, b := .vec 3, mod := 1 })
    (tRegs (tState 1) [⟨.v 2 0, 0x80000000⟩, ⟨.v 3 0, 40⟩]) (.v 10 0) = some 0xFFFFFFFF := by decide +kernel
/-- 08 R178: FP32 1.5 + 2.25 is 3.75. -/
theorem test_fadd : tAfter (.fadd { tF0 with dst := .vec 10, a := .vec 2, b := .vec 3 })
    (tRegs (tState 1) [⟨.v 2 0, 0x3FC00000⟩, ⟨.v 3 0, 0x40100000⟩]) (.v 10 0) = some 0x40700000 := by decide +kernel

/-! ## Concrete states that meet the further hypotheses of the word statements -/

/-- The statements about loads: LD of lane 0 at address 0 goes straight. -/
theorem test_meets_SharedLoadsIssue : ∃ e r, Issues 0xA0 (tf 1 1 0 0 0 0) (tState 1) (tCtx (tState 1)) ∧
    Straight (tState 1) (tCtx (tState 1)) (accSize 0xA0 (tf 1 1 0 0 0 0)) (accR (tCtx (tState 1)).g.level) e r
      ((tCtx (tState 1)).acting (tf 1 1 0 0 0 0)) (fun l => (tCtx (tState 1)).rd64 (tf 1 1 0 0 0 0) (.vec 8) l) := by
  refine ⟨tTlb, 0, issues_of_issuesIn (by decide +kernel), ?_⟩
  have h : (tCtx (tState 1)).acting (tf 1 1 0 0 0 0) = [0] := by decide +kernel
  rw [h]
  refine ⟨by simp, by decide +kernel, by decide +kernel, ?_, by decide +kernel⟩
  intro l hl
  obtain rfl : l = 0 := by simpa using hl
  exact ⟨by decide +kernel, by decide +kernel, by decide +kernel, by decide +kernel, by decide +kernel, by decide +kernel⟩

/-- Stores: ST of lane 0 at address 0. -/
theorem test_meets_SharedStoresEnterWriteQueue : ∃ e r, Issues 0xA1 (tf 0 1 1 0 0 0) (tState 1) (tCtx (tState 1)) ∧
    Straight (tState 1) (tCtx (tState 1)) (accSize 0xA1 (tf 0 1 1 0 0 0)) (accW (tCtx (tState 1)).g.level) e r
      ((tCtx (tState 1)).acting (tf 0 1 1 0 0 0)) (fun l => (tCtx (tState 1)).rd64 (tf 0 1 1 0 0 0) (.vec 8) l) := by
  refine ⟨tTlb, 0, issues_of_issuesIn (by decide +kernel), ?_⟩
  have h : (tCtx (tState 1)).acting (tf 0 1 1 0 0 0) = [0] := by decide +kernel
  rw [h]
  refine ⟨by simp, by decide +kernel, by decide +kernel, ?_, by decide +kernel⟩
  intro l hl
  obtain rfl : l = 0 := by simpa using hl
  exact ⟨by decide +kernel, by decide +kernel, by decide +kernel, by decide +kernel, by decide +kernel, by decide +kernel⟩

/-- Atomics: ATADD of lane 0 at address 0. -/
theorem test_meets_SharedAtomicsIssue : ∃ e r, Issues 0xC0 (tf 0 1 1 0 0 0) (tState 1) (tCtx (tState 1)) ∧
    (tf 0 1 1 0 0 0).m 14 1 = 0 ∧
    Straight (tState 1) (tCtx (tState 1)) (accSize 0xC0 (tf 0 1 1 0 0 0)) (accRW (tCtx (tState 1)).g.level) e r
      ((tCtx (tState 1)).acting (tf 0 1 1 0 0 0)) (fun l => (tCtx (tState 1)).rd64 (tf 0 1 1 0 0 0) (.vec 8) l) := by
  refine ⟨tTlb, 0, issues_of_issuesIn (by decide +kernel), by decide +kernel, ?_⟩
  have h : (tCtx (tState 1)).acting (tf 0 1 1 0 0 0) = [0] := by decide +kernel
  rw [h]
  refine ⟨by simp, by decide +kernel, by decide +kernel, ?_, by decide +kernel⟩
  intro l hl
  obtain rfl : l = 0 := by simpa using hl
  exact ⟨by decide +kernel, by decide +kernel, by decide +kernel, by decide +kernel, by decide +kernel, by decide +kernel⟩

/-- Queries: BEAMQ with its record at address 0. -/
theorem test_meets_ColanderWordsIssue : ∃ e r, Issues 0xE8 (tf 0 2 0 0 0 0) (tState 1) (tCtx (tState 1)) ∧
    ((tCtx (tState 1)).active (tf 0 2 0 0 0 0)).head? = some 0 ∧
    Straight (tState 1) (tCtx (tState 1)) 64 (accR (tCtx (tState 1)).g.level) e r [0]
      (fun l => (tCtx (tState 1)).rd64 (tf 0 2 0 0 0 0) (.uni 8) l) := by
  refine ⟨tTlb, 0, issues_of_issuesIn (by decide +kernel), by decide +kernel, ?_⟩
  refine ⟨by simp, by decide +kernel, by decide +kernel, ?_, by decide +kernel⟩
  intro l hl
  obtain rfl : l = 0 := by simpa using hl
  exact ⟨by decide +kernel, by decide +kernel, by decide +kernel, by decide +kernel, by decide +kernel, by decide +kernel⟩

/-- Loads of G: LDG of lane 0 at offset 0; and at the last offset of a buffer of 256 KiB. -/
theorem test_meets_LocalLoadsAndStores (o : W32) (ho : o = 0 ∨ o = 0x3FFFC) :
    let s := tRegs (tState 1) [⟨.v 8 0, o⟩]
    Issues 0xB0 (tf 1 1 0 0 0 0) s (tCtx s) ∧
    InBuffer s (tCtx s) .g 1 1 ((tCtx s).acting (tf 1 1 0 0 0 0)) (locOff (tCtx s) (tf 1 1 0 0 0 0)) := by
  rcases ho with rfl | rfl
  all_goals
    refine ⟨issues_of_issuesIn (by decide +kernel), ?_⟩
    exact ⟨by decide +kernel, by decide +kernel, by decide +kernel, by decide +kernel, by decide +kernel, by decide +kernel⟩

/-- Atomics under .G: ATADD of lane 0 at offset 0. -/
theorem test_meets_LocalAtomicsPerform :
    Issues 0xC0 (tf 0 1 1 0 0x4000 0) (tState 1) (tCtx (tState 1)) ∧ (tf 0 1 1 0 0x4000 0).m 14 1 = 1 ∧
    ordOf (tf 0 1 1 0 0x4000 0) < 4 ∧ (tCtx (tState 1)).acting (tf 0 1 1 0 0x4000 0) = [0] ∧
    InBuffer (tState 1) (tCtx (tState 1)) .g 4 4 [0] (locOff (tCtx (tState 1)) (tf 0 1 1 0 0x4000 0)) := by
  refine ⟨issues_of_issuesIn (by decide +kernel), by decide +kernel, by decide +kernel, by decide +kernel, ?_⟩
  exact ⟨by simp, by decide +kernel, by decide +kernel, by decide +kernel, by decide +kernel, by decide +kernel⟩

/-- Bounds-checked loads: LDBC of lane 0 with bound 0 lies beyond it. -/
theorem test_meets_BoundsCheckedLoads : Issues 0xAC (tf 1 2 1 2 0 0) (tState 1) (tCtx (tState 1)) ∧
    (tCtx (tState 1)).acting (tf 1 2 1 2 0 0) = [0] ∧ (tCtx (tState 1)).wv.ops = [] ∧
    ((tCtx (tState 1)).acting (tf 1 2 1 2 0 0)).filter (fun l => decide ((tCtx (tState 1)).na (tf 1 2 1 2 0 0) (.vec 8) l +
      accSize 0xAC (tf 1 2 1 2 0 0) ≤ (tCtx (tState 1)).na (tf 1 2 1 2 0 0) (.uni 8) l)) = [] :=
  ⟨issues_of_issuesIn (by decide +kernel), by decide +kernel, by decide +kernel, by decide +kernel⟩

/-- Window words: LDWIN with node, register and offset 0. -/
theorem test_meets_WindowWordsIssue : Issues 0xA5 (tf 1 1 1 0 2 0) (tState 1) (tCtx (tState 1)) ∧ (tCtx (tState 1)).wv.ops = [] ∧
    (tCtx (tState 1)).acting (tf 1 1 1 0 2 0) = [0] ∧ (tCtx (tState 1)).na (tf 1 1 1 0 2 0) (.vec 8) 0 = 0 :=
  ⟨issues_of_issuesIn (by decide +kernel), by decide +kernel, by decide +kernel, by decide +kernel⟩

/-- Z words: CVLZ of lane 0, whose accumulator words lie in Z. -/
theorem test_meets_AccumulatorWordsConvert : Issues 0xB5 (tf 1 1 0 0 0 0) (tState 1) (tCtx (tState 1)) ∧
    (tCtx (tState 1)).acting (tf 1 1 0 0 0 0) = [0] ∧ (tCtx (tState 1)).wv.ops = [] ∧
    (zFirst 0xB5 (tCtx (tState 1)) (tf 1 1 0 0 0 0) 0).emod 4 = 0 ∧
    (((zOffs 0xB5 (tf 1 1 0 0 0 0) (zFirst 0xB5 (tCtx (tState 1)) (tf 1 1 0 0 0 0) 0)).map
      (zIndex (tCtx (tState 1)).wv.zmap)).all Option.isSome) = true :=
  ⟨issues_of_issuesIn (by decide +kernel), by decide +kernel, by decide +kernel, by decide +kernel, by decide +kernel⟩

/-- A wave with an unperformed store, so that an engine command waits behind it. -/
def tBehind : State := (tState 1).modWave 0 0 (fun v => { v with
  nextOp := 1, ops := [{ (default : Op) with opc := 0xA1, lanes := [{ (default : LaneOp) with st := .ready }] }] })

theorem test_behind_write : BehindWrite (tCtx tBehind) :=
  ⟨{ (default : Op) with opc := 0xA1, lanes := [{ (default : LaneOp) with st := .ready }] }, by decide +kernel, by decide +kernel,
    by decide +kernel, { (default : LaneOp) with st := .ready }, by decide +kernel, rfl⟩

/-- Ladle words: LCOPY behind that store. -/
theorem test_meets_LadleWordsQueueCommands : Issues 0xD0 (tf 0 4 4 0 0 0) tBehind (tCtx tBehind) ∧
    ((tCtx tBehind).active (tf 0 4 4 0 0 0)).head? = some 0 ∧
    ladleTrap tBehind (tCtx tBehind) 0xD0 (tf 0 4 4 0 0 0) ((tCtx tBehind).rd64 (tf 0 4 4 0 0 0) .absent 0) = none ∧
    (tBehind.core (tCtx tBehind).core).ladle = [] :=
  ⟨issues_of_issuesIn (by decide +kernel), by decide +kernel, by decide +kernel, by decide +kernel⟩

/-- MXE words: MXZERO behind it. -/
theorem test_meets_MatrixWords : Issues 0xDA (tf 0 0 0 5 0 1) tBehind (tCtx tBehind) ∧
    ((tCtx tBehind).active (tf 0 0 0 5 0 1)).head? = some 0 ∧ (tBehind.core (tCtx tBehind).core).mx = [] :=
  ⟨issues_of_issuesIn (by decide +kernel), by decide +kernel, by decide +kernel⟩

/-- Texture words: a legal descriptor of one texel in tile t1. -/
def tTexture : State := tRegs (tState 1) [⟨.t 1 7, 0xC0000000⟩]
theorem test_meets_TexturesReadAndQueried : Issues 0xE0 (tf 1 4 1 0 0 0) tTexture (tCtx tTexture) ∧
    texLegal ((tCtx tTexture).rdT (.tile 1)).toNat = true ∧ (tCtx tTexture).wv.ops = [] ∧
    ((texWants 0xE0 (Tex.of ((tCtx tTexture).rdT (.tile 1)).toNat) 0 (tCtx tTexture) (tf 1 4 1 0 0 0)).1.length) ≠ 0 :=
  ⟨issues_of_issuesIn (by decide +kernel), by decide +kernel, by decide +kernel, by decide +kernel⟩

/-- Ring, barrier and gang words: the wave is in a gang with ring 0, barrier 0 passed, and an active lane. -/
theorem test_meets_RingWordsReserveAndEnd : ((tCtx (tState 1)).active (tf 2 0 0 0 0 0)).head? = some 0 ∧
    (((tState 1).gang? 0 (tCtx (tState 1)).wv.gang).map (fun g => (g.id, g.rings.length))) = some (0, 1) ∧
    pendingArrival (tCtx (tState 1)).wv 0 = false := ⟨by decide +kernel, by decide +kernel, by decide +kernel⟩

/-- CHKPROM and WAITCHK: the bitmap word at offset 0 of G. -/
theorem test_meets_WaitsAndChunkBits : ((tCtx (tState 1)).active (tf 0 2 2 0 0 0)).head? = some 0 ∧
    ((tCtx (tState 1)).rd (tf 0 2 2 0 0 0) (.uni 8) 0).toNat + 4 ≤ bufSize (tState 1) 0 (tCtx (tState 1)).wv.gang .g ∧
    (locRead (tState 1) 0 (tCtx (tState 1)).wv.gang .g 0 4).2 = false := ⟨by decide +kernel, by decide +kernel, by decide +kernel⟩

/-- Exports: an active lane with vertex number 0, and a wave with one fragment. -/
theorem test_meets_ExportWordsIssue : Issues 0xED (tf 0 1 0 1 0 0) (tState 1) (tCtx (tState 1)) ∧
    (tCtx (tState 1)).active (tf 0 1 0 1 0 0) = [0] ∧ (tCtx (tState 1)).na (tf 0 1 0 1 0 0) (.vec 8) 0 < 256 :=
  ⟨issues_of_issuesIn (by decide +kernel), by decide +kernel, by decide +kernel⟩

/-- Levels: a word of row 0xF that needs H, in lanes at U. -/
theorem test_meets_LevelsAndEncodingsTrapped :
    let s := (tState 1).modGroup 0 0 0 (fun g => { g with level := .u })
    s.issue?.isSome = true ∧ (check 0xFF (tf 2 2 2 0 0 0)).isNone = true ∧
    (tCtx s).placeOk 0xFF (tf 2 2 2 0 0 0) (ringCount s (tCtx s)) = true ∧ (tCtx s).g.level = .u :=
  ⟨by decide +kernel, by decide +kernel, by decide +kernel, by decide +kernel⟩

/-- Words that act for an active lane: GINFO, BARARV, SWR, LSTAT, STKDROP, OWNSET, PSWR, WPSET, CINV and SQPEEK have one there. -/
theorem test_meets_active_lane : [tf 2 0 0 0 0 0, tf 0 0 0 0 512 0, tf 0 2 0 0 0 0, tf 0 1 1 0 0 0, tf 2 2 2 0 0 0, tf 0 2 2 0 0 0,
    tf 2 2 0 0 0 0].all (fun f => (tCtx (tState 1)).active f == [0] && (tCtx (tState 1)).acting f == [0]) = true := by
  decide +kernel

/-- BARWAIT with an arrival that has not passed. -/
theorem test_meets_BarrierWordsAttach :
    let s := (tState 1).modWave 0 0 (fun v => { v with bars := listSet v.bars 0 { (default : WBar) with arrived := true } })
    Issues 0x16 (tf 0 0 0 0 512 0) s (tCtx s) ∧ (s.gang? 0 (tCtx s).wv.gang).isSome = true ∧
    ((tCtx s).wv.bars.getD 0 default).arrived = true :=
  ⟨issues_of_issuesIn (by decide +kernel), by decide +kernel, by decide +kernel⟩

/-! ## Concrete states that meet the hypotheses of the statements about events -/

/-- Bring-up: at reset no stack has trained and START is not done; with all stacks trained a START may come. -/
theorem test_meets_ResetPowerAndStart : State.reset.sec.overtemp = false ∧ State.reset.rdy.hbm.getLsbD 7 = false ∧
    State.reset.conf.startst ≠ 1 ∧ ({ State.reset with rdy := { State.reset.rdy with hbm := 0xFF } } : State).rdy.hbm = 0xFF ∧
    basesOk State.reset.conf = true := by decide +kernel
theorem test_meets_AlarmsAndMemoryErrors : hbmEnd - 1 < hbmEnd ∧ elidedMeta State.reset (hbmEnd - 1) = none ∧
    ((tState 1).slot? 0 0).isSome = true := by decide +kernel
theorem test_meets_SecurityMessagesAnswered : State.reset.sec.negotiated = 0 ∧ State.reset.conf.keygone = false ∧
    State.reset.sec.hssUsed < 2 ^ 40 := by decide +kernel
theorem test_meets_HostAccessesAndRequests :
    let s : State := { State.reset with rdy := { State.reset.rdy with hbm := 1 } }
    s.conf.startst ≠ 1 ∧ s.rdy.hbm.getLsbD 0 = true ∧ s.linePois 0 = false ∧ (s.func 0).mbox.pending = false := by decide +kernel

/-- A part that is started, whose Sieve has a request of code c in function 0's mailbox. -/
def tAsked (c : W32) (args : List W64) : State :=
  let s : State := { State.reset with rdy := { State.reset.rdy with sieve := true }, conf := { State.reset.conf with startst := 1 } }
  s.modFunc 0 (fun f => { f with mbox := { f.mbox with req := some (c, args, true) } })
theorem test_meets_MailboxRequestsPerformed : Asks (tAsked 4 []) 0 4 [] true ∧ (tAsked 4 []).owner 0 = ownHost :=
  ⟨⟨⟨4, by decide +kernel, rfl⟩, by decide +kernel, by decide +kernel⟩, by decide +kernel⟩

/-- A WRITE for this node on link 0, which is up, from a node that INB names as function 1. -/
def tLinked : State :=
  { State.reset with
    rdy := { State.reset.rdy with links := 1 }, conf := { State.reset.conf with inb := [(3, 1)], route := [(3, 0)] }, owners := [(0, 1)] }
def tFlit : Flit :=
  { type := 1, src := 3, dst := 0, flags := 0, lseq := 0, tid := 0, addr := 0, bmask := 1, data := List.replicate 64 7, op := 64,
    otype := 0, opnd := 0, opnd2 := 0, crcOk := true }
/-- 18 R397: a flit that this part would send is read back as it was. -/
theorem test_flit_wire : flitOf (flitWire tFlit) = tFlit := by decide +kernel
theorem test_meets_PeerFlitsAndLinks : tFlit = flitOf (flitWire tFlit) ∧ Arrives tLinked 0 tFlit 1 ∧ Inbound tLinked tFlit 1 0 ∧
    Untraced tLinked ∧ tLinked.writable (.fn 1 .u) 0 = true ∧ tFlit.data.length = 64 :=
  ⟨test_flit_wire.symm, ⟨by decide +kernel, rfl, by decide +kernel, by decide +kernel, rfl, by decide +kernel⟩,
    ⟨by decide +kernel, by decide +kernel, by decide +kernel⟩, ⟨by decide +kernel, by decide +kernel⟩, by decide +kernel, rfl⟩

/-- Barrel, completions and sleeps: a quarter without a run; a lane asleep until now; a load's lane known. -/
theorem test_meets_WaveEventsComplete :
    let s := tBehind.modWave 0 0 (fun v => { v with
      lanes := v.lanes.map (fun x => { x with holds := [.sleep 0] }),
      ops := [{ (default : Op) with opc := 0xA0, lanes := [{ (default : LaneOp) with st := .known }] }] })
    (s.quarter 0 1).run = none ∧ s.slot? 0 16 = none ∧
    ((s.slot? 0 0).bind (fun t => t.wave.lanes[0]?)).map (fun y => y.holds) = some [.sleep 0] ∧
    (s.slot? 0 0).map (fun t => t.wave.ops.map (fun o => (o.opc, o.log, o.lanes.map LaneOp.st))) = some [(0xA0, .none, [.known])] := by
  decide +kernel

/-- Gangs: a gang of one wave with a ring whose stage 0 may be filled. -/
theorem test_meets_GangEventsComplete :
    let s := (tState 1).modRing 0 0 0 (fun r => { r with fills := [⟨0, 0, 0, 0⟩] })
    ((s.gang? 0 0).bind (fun g => g.rings[0]?)).map (fun r => (r.fills.length, r.drainn, r.d)) = some (1, 0, 1) := by decide +kernel

/-- Cards: a queue whose only card has its status. -/
def tQueued : State := State.reset.modQueue 5 (fun q => { q with cards := [{ (default : Card) with status := some 3 }] })
theorem test_meets_QueueEventsComplete : ((tQueued.card? 5 0).map (fun k => (k.closed, k.status))) = some (false, some 3) := by
  decide +kernel
theorem test_meets_PeriodicEventsComplete :
    let s : State := { State.reset with fc := 4096, rdy := { State.reset.rdy with whisk := true } }
    s.rdy.whisk = true ∧ s.sched.whiskFc + 4096 ≤ s.fc := by decide +kernel

/-- A wave all of whose lanes have stopped. -/
def tStopped : State :=
  let s : State := { State.reset with cores := (placeWord State.reset 0).cores }
  (s.modQuarter 0 0 (fun q => { q with run := none })).modSlot 0 0 (fun t =>
    { t with stopping := true, wave := { t.wave with lanes := t.wave.lanes.map (fun x => { x with stopped := true }) } })
theorem test_meets_SavesAndParks : (tStopped.slot? 0 0).map (fun t => (t.stopping, t.parked, allStopped t.wave, t.wave.live == 0)) =
    some (true, false, true, false) ∧ runningWave tStopped 0 0 = false := by decide +kernel

/-- An MXE command and a Ladle command of a wave that is gone, not accepted yet. -/
def tEngines : State := State.reset.modCore 0 (fun k => { k with mx := [default], ladle := [default] })
theorem test_meets_EngineEventsComplete : ((tEngines.core 0).mx.find? (fun q => q.id == 0)).map MCmd.accepted = some false ∧
    ((tEngines.core 0).ladle.find? (fun q => q.id == 0)).map LCmd.accepted = some false ∧
    engReady tEngines 0 (default : MCmd).by_ = true := by decide +kernel

/-- A sub-ring with a record that waits for its page. -/
theorem test_meets_StockpotEventsComplete :
    let s := State.reset.modSlice 2 (fun x => { x with rings := [{ (default : SubRing) with waits := [default] }] })
    ((s.slice 2).rings.find? (fun r => r.world == 0)).map (fun r => r.waits.length) = some 1 := by decide +kernel

/-- An open pass without work, whose DONE is misaligned. -/
theorem test_meets_PassEventsComplete :
    let p : Pass := { (default : Pass) with done := 1 }
    let s : State := { State.reset with passes := [p] }
    s.pass? p.id = some p ∧ p.prims = [] ∧ p.frags = [] ∧ p.finishedBelow p.ndraw = true ∧ p.done.toNat % 16 ≠ 0 := by decide +kernel

/-! ## Events that write what their rules say: states that meet the hypotheses of each clause, and what the step does there -/

/-- The state a meaning answers. -/
def tNext (r : Res) : State := match r with | .next t => t | _ => State.reset

/-- A wave of 32 threads at 0x1000 in slot 0 of core 0, without a run, whose block of one EXIT lies in the L0. -/
def tBarrel : State :=
  let s : State := { State.reset with cores := (placeWord State.reset 0).cores, owners := [(1, 0)] }
  (s.modQuarter 0 0 (fun q => { q with run := none })).modCore 0 (fun k => { k with
    l0 := [{ vf := 0, va := 0x40, spa := 0x440, u := false,
             data := BitVec.ofNat 512 (0x8000000000020001 + 2 ^ 128 * (0x700 * 2 ^ 64 + 0x1C007001C003C006)) }],
    tlb := [tTlb] })

/-- 01 R16: the barrel's visit begins a run of all 32 lanes at their PC and the barrel moves on. -/
theorem test_meets_BarrelStartsRun : (tBarrel.quarter 0 0).run.isNone = true ∧
    (tBarrel.slot? 0 0).map (fun t => (t.parked, t.drains, t.wave.ops.isEmpty, t.wave.stack.isEmpty, t.wave.refill.isNone)) =
      some (false, false, true, true, true) ∧
    (l0Block (tBarrel.core 0) 0 false 0x1000 128).map (fun b => (b.words.length, hdrWait b.hdr)) = some (1, 0) ∧
    ((tNext (exec (.barrelVisit 0 0) tBarrel)).quarter 0 0).slot = 1 ∧
    ((tNext (exec (.barrelVisit 0 0) tBarrel)).quarter 0 0).run.map (fun r => (r.wave, r.idx, r.groups.map (fun g => (g.mask, g.pro)))) =
      some (0, 0, [(0xFFFFFFFF, 0x1000)]) := by
  decide +kernel

/-- 07 R159: a wave with one spilled entry, at RSBASE 0, whose refill is under way. -/
def tRefill : State :=
  { (tBarrel.modWave 0 0 (fun v => { v with spilled := 1, refill := some { tickets := [], freed := 0, from_ := 1, log := .none } })) with
    mem := [(0x10001, 0x20), (0x10008, 0xFF)] }
theorem test_meets_RefillBringsEntryBack :
    tlbFind tRefill (some 0) 0 0 (accR .g) = some tTlb ∧ tRefill.owned (.fn 0 .g) 0x10000 = true ∧
    ((tNext (exec (.reconvRefillComplete 0 0) tRefill)).slot? 0 0).map (fun t => (t.wave.stack, t.wave.spilled, t.wave.refill)) =
      some ([{ rpc := 0x2000, mask := 0xFF }], 0, none) := by decide +kernel

/-- 06 R134: the same wave before its block is in the L0. -/
def tFetch : State :=
  { (tBarrel.modCore 0 (fun k => { k with l0 := [], tlb := [{ tTlb with va := 0x1000, u := false }] })) with
    mem := [(0x10000, 1), (0x10002, 2), (0x10007, 0x80), (0x10010, 0x06)] }
theorem fetchLanes_other (s : State) (v : Wave) (pc : W64) (lv m : Level) (hl : ∀ x, x ∈ v.lanes → x.level = lv) (hm : m ≠ lv) :
    fetchLanes s v pc m = [] := by
  unfold fetchLanes
  rw [List.filter_eq_nil_iff]
  intro l _
  cases h : v.lanes[l]? with
  | none => simp
  | some x =>
    have := hl x (List.mem_of_getElem? h)
    simp [this, Ne.symm hm]
theorem test_wide_level : ∀ s m, m ≠ .h → fetchLanes s wideWave 0x1000 m = [] :=
  fun s m h => fetchLanes_other s _ _ .h m (by decide +kernel) h
theorem test_meets_FetchBringsBlock : fetchLanes tFetch wideWave 0x1000 .h ≠ [] ∧ anyRetried wideWave (fetchLanes tFetch wideWave 0x1000 .h) = false ∧
    tlbFind tFetch (some 0) 0 0x1000 (accX .h) = some { tTlb with va := 0x1000, u := false } ∧
    tFetch.owned (.fn 0 .h) 0x10000 = true ∧
    (l0Block ((tNext (exec (.blockFetchComplete 0 0 0x1000) tFetch)).core 0) 0 false 0x1000 128).map (fun b => (b.hdr, b.words)) =
      some (0x8000000000020001, [6]) := by decide +kernel

/-- A job whose one card has begun, in queue 5 of function 0, which core 0 serves: undealt ranges and held chunks as given. -/
def tJob (u : List (Nat × Nat)) (h : List Chunk) : State :=
  (State.reset.modQueue 5 (fun q => { q with headseq := 0, seq := 1, cards := [{ (default : Card) with
      begun := true, read := true, undealt := u, count := 8, stride := 96, args := 0x4000, divisor := 2, minchunk := 1,
      launch := some { (default : Launch) with entry := 0x2000, vgran := 8, sgran := 8, winit := 1, wmax := 2, coord := 0xFFFF } }] })).modCore 0
    (fun k => { k with ready := true, vf := some 0, held := h })

/-- 01 R18, R19: GANG_CREATE of record 3 makes gang 0 with wave 0 at ENTRY, u0 its argument address and u2 its index. -/
theorem test_meets_GangStartsWave :
    let s := tJob [] [{ q := 5, seq := 0, cls := 0, recs := [3] }]
    ((startOrder s 0).find? (fun x => unitStarts s 0 0 x.2.2)).map (fun x => (x.2.1, x.2.2.isTeam, x.2.2.winit)) = some (3, false, 1) ∧
    roomFor (s.core 0) 8 0 1 = some ([0], []) ∧ freeGang s 0 = 0 ∧
    ((tNext (exec (.gangCreate 0) s)).slot? 0 0).map (fun t => (t.wave.lanes.map Lane.pc).dedup) = some [0x2000] ∧
    ((tNext (exec (.gangCreate 0) s)).slot? 0 0).map (fun t => (t.wave.regs.read (.u 0), t.wave.regs.read (.u 2))) =
      some (0x4120, 3) := by decide +kernel

/-- 09 R219: a GATTACH of one wave at 0x3000. -/
theorem test_meets_AttachPlacesWave :
    let s := (tBarrel.modGang 0 0 (fun g => { g with launch := { g.launch with aregs := 0, vgran := 8 } })).modWave 0 0 (fun v => { v with
      vgran := 8, zmap := [], nextOp := 1,
      ops := [{ (default : Op) with opc := 0x19, n := 1, m := 7, f := tf 3 0 0 0 0 0,
                                    lanes := [{ (default : LaneOp) with lane := 0, src2 := 0x3000 }] }] })
    ((s.gang? 0 0).bind (fun g => attachRoom s 0 g 1)) = some ([16], []) ∧ s.slot? 0 16 = none ∧
    ((tNext (exec (.gangAttach 0 0 0) s)).slot? 0 16).map (fun t => ((t.wave.lanes.map Lane.pc).dedup, t.wave.regs.read (.u 2))) =
      some ([0x3000], 7) ∧
    ((tNext (exec (.gangAttach 0 0 0) s)).slot? 0 0).map (fun t => (t.wave.ops.length, t.wave.regs.read (.p 1 0))) = some (0, 1) := by
  decide +kernel

/-- 01 R20: the only wave of a gang has exited; its gang ends and the unit is finished. -/
theorem test_meets_WaveLeavesGang :
    let s := (tJob [] []).setCore 0 { (tBarrel.core 0) with ready := true, vf := some 0 }
    let s := ((s.modCard 5 0 (fun k => { k with live := 1 })).modGang 0 0 (fun g => { g with unit := some (5, 0, 3) })).modWave 0 0 (fun v =>
      { v with lanes := v.lanes.map (fun x => { x with exited := true }) })
    ((s.slot? 0 0).map (fun t => mayLeave s 0 0 t.wave)) = some true ∧ (s.gang? 0 0).map (fun g => (g.m, gangQuiet s 0 g)) = some (1, true) ∧
    ((tNext (exec (.gangLeave 0 0) s)).slot? 0 0).isNone = true ∧ ((tNext (exec (.gangLeave 0 0) s)).gang? 0 0).isNone = true ∧
    ((tNext (exec (.gangLeave 0 0) s)).card? 5 0).map (fun k => (k.finished, k.live)) = some (1, 0) := by decide +kernel

/-- 01 R22, R23: the only wave's arrival at barrier 2 completes the phase where one is expected, and not where two are. -/
theorem test_meets_ArrivalCounts (e : Nat) (he : e = 1 ∨ e = 2) :
    let s := (tBarrel.modBar 0 0 2 (fun k => { k with e := e })).modWave 0 0 (fun v => { v with
      nextOp := 1, bars := listSet v.bars 2 { (default : WBar) with owes := true },
      ops := [{ (default : Op) with opc := 0x15, n := 2, f := tf 0 0 0 0 0 0, lanes := [{ (default : LaneOp) with lane := 0 }] }] })
    (s.slot? 0 0).map (fun t => t.wave.bars.getD 2 default) = some { (default : WBar) with owes := true } ∧
    ((tNext (exec (.barrierArrival 0 0 2) s)).gang? 0 0).map (fun g => (g.bars.getD 2 default).ph) = some (if e = 1 then 1 else 0) := by
  rcases he with rfl | rfl <;> decide +kernel

/-- 09 R222: the first stage of a ring begins for a wave's RINGFILL.BEGIN. -/
theorem test_meets_StageBeginsForWave :
    let s := (tBarrel.modRing 0 0 0 (fun r => { r with xoff := 1024, fills := [⟨0, 0, 0, 0⟩] })).modWave 0 0 (fun v => { v with
      ops := [{ (default : Op) with opc := 0x1C, n := 0, m := 0, f := tf 2 0 0 0 0 0, lanes := [{ (default : LaneOp) with lane := 0 }] }] })
    ((s.gang? 0 0).bind (fun g => g.rings[0]?)).map (fun r => (r.slotOf 0, r.stages.length, r.d)) = some (0, 1, 1) ∧
    ((tNext (exec (.ringStageBegin 0 0 0 true) s)).slot? 0 0).map (fun t => (t.wave.ops.length, t.wave.regs.read (.u 8), t.wave.regs.read (.u 9))) =
      some (0, 1024, 0) := by decide +kernel

/-- Function 0 with a stage 1 that maps the first GiB onto itself, and the first frames its own. -/
def tPaged : State :=
  { (State.reset.modFunc 0 (fun f => { f with valid := true, s1root := 0x10000 })) with
    owners := [(0, 0), (1, 0), (2, 0)],
    mem := [(0x10000, 0x01), (0x10001, 0x10), (0x10002, 0x01), (0x11000, 0x01), (0x11001, 0x20), (0x11002, 0x01), (0x12000, 0x5F)] }

/-- A card of queue 5 of that function. -/
def tCard (k : Card) : State :=
  tPaged.modQueue 5 (fun q => { q with nent := 16, ctrbase := 0x2000, nctr := 1, seq := 1, cards := [k] })

/-- 15 R341: the dealer cuts the first 4 of 8 undealt records, with DIVISOR 2 and one consumer. -/
theorem test_meets_DealCutsChunk : requestsWork (tJob [(0, 8)] []) 0 = true ∧
    (chooseCard (tJob [(0, 8)] []) 0 (begunCards (tJob [(0, 8)] []) 0)).map (fun p => (p.1, p.2.seq, p.2.undealt)) = some (5, 0, [(0, 8)]) ∧
    ((tNext (exec (.coreWorkRequest 0) (tJob [(0, 8)] []))).core 0).held.map Chunk.recs = [[0, 1, 2, 3]] ∧
    ((tNext (exec (.coreWorkRequest 0) (tJob [(0, 8)] []))).card? 5 0).map Card.undealt = some [(4, 8)] := by decide +kernel

/-- A card for the launch record at 0x1000: GANG dealt, WINIT 1. -/
def tBegin : Card :=
  { (default : Card) with read := true, count := 8, stride := 0, minchunk := 1, divisor := 1, waitc := 0xFFFF, sigc := 0xFFFF, entry := 0x1000 }
def tBegins : State :=
  { tCard tBegin with mem := [(0x1001, 0x20), (0x1008, 8), (0x1009, 8), (0x100E, 1), (0x100F, 2), (0x1010, 3), (0x1014, 0xFF),
      (0x1015, 0xFF), (0x1020, 0x22), (0x1022, 1), (0x1024, 1), (0x1026, 1), (0x1028, 0x11), (0x102A, 1), (0x102C, 1), (0x102E, 1),
      (0x1032, 32), (0x1034, 1), (0x1036, 1)] ++ tPaged.mem }
/-- 15 R339; 01 R25: it begins with that record, all units undealt. -/
theorem test_meets_CardBegins : (nextCard tBegins 5).isSome = true ∧ cardOk (tBegins.queue 5) tBegin = true ∧
    ((tNext (exec (.cardBegin 5) tBegins)).card? 5 0).map (fun k => (k.begun, k.undealt, k.status, k.launch.map Launch.entry)) =
      some (true, [(0, 8)], none, some 0x2000) := by decide +kernel

/-- 15 R340: the counter at CTRBASE reads 0 and the card may go on. -/
theorem test_meets_CounterRead :
    let s := tCard { (default : Card) with read := true, polled := true, waitc := 0, sigc := 0xFFFF }
    (nextCard s 5).isSome = true ∧ (s.queue 5).names 0 = true ∧
    ((tNext (exec (.depctrPoll 5) s)).card? 5 0).map Card.depOk = some true := by decide +kernel

/-- A card with status 3 and 2 units finished, and one that is done without DONE and SIGC. -/
def tOver : State := tCard { (default : Card) with status := some 3, signalled := true, done := 0x3000, tag := 7, finished := 2 }
def tOver0 : State := tCard { (default : Card) with begun := true, read := true, sigc := 0xFFFF }
/-- 01 R33: the first writes TAG, the status and the units at DONE; the second leaves its queue. -/
theorem test_meets_CardCompletes : Untraced tOver ∧
    ((List.range 16).map (fun i => memByte (tNext (exec (.jobComplete 5 0) tOver)).mem (0x3000 + i))) =
      [7, 0, 0, 0, 0, 0, 0, 0, 3, 0, 0, 0, 2, 0, 0, 0] ∧
    ((tOver0.card? 5 0).map (fun k => unstarted tOver0 5 k || !jobReleased tOver0 5 k)) = some false ∧
    ((tNext (exec (.jobComplete 5 0) tOver0)).queue 5).cards.length = 0 ∧
    ((tNext (exec (.jobComplete 5 0) tOver0)).queue 5).headseq = 1 :=
  ⟨⟨by decide +kernel, by decide +kernel⟩, by decide +kernel, by decide +kernel, by decide +kernel, by decide +kernel⟩

/-- 15 R350: a post from function 3 that no filter names is denied. -/
def tPosted : State :=
  let s : State := { tCard (default : Card) with rdy := { State.reset.rdy with sieve := true } }
  { s with sched := { s.sched with posts := [{ (default : Post) with q := 5, poster := 3 }] } }
theorem test_meets_PostDecided : filterFor tPosted 3 5 = none ∧ (tNext (exec .sievePostExamine tPosted)).sched.posts.length = 0 ∧
    ((tNext (exec .sievePostExamine tPosted)).queue 5).headseq = 1 :=
  ⟨by decide +kernel, by decide +kernel, by decide +kernel⟩

/-- 15 R343: a period of the Whisk while no core holds a record. -/
theorem test_meets_WhiskReads :
    let s : State := { tJob [] [] with fc := 4096, rdy := { State.reset.rdy with whisk := true } }
    s.rdy.whisk = true ∧ s.sched.whiskFc + 4096 ≤ s.fc ∧ (∀ p, p ∈ s.cores → p.2.held = []) := by decide +kernel

/-- 15 R345: core 0 holds records 3 and 6 and has a command for core 1; it may move them. -/
def tMoves : State :=
  (tJob [] [{ q := 5, seq := 0, cls := 0, recs := [3, 6] }]).modCore 1 (fun k => { k with ready := true, vf := some 0 })
theorem test_meets_WhiskMoves : migrateFrom tMoves 0 1 = some { q := 5, seq := 0, cls := 0, recs := [3, 6] } := by
  have h : startOrder tMoves 0 = ((startOrder (tJob [] [{ q := 5, seq := 0, cls := 0, recs := [3] }]) 0).map (fun x =>
      [(({ q := 5, seq := 0, cls := 0, recs := [3, 6] } : Chunk), x.2.1, x.2.2), ({ q := 5, seq := 0, cls := 0, recs := [3, 6] }, 6, x.2.2)])).flatten := by
    unfold startOrder
    rw [List.mergeSort_of_pairwise (by decide +kernel)]
    decide +kernel
  simp only [migrateFrom, h]
  decide +kernel

/-- 16 R373: the off phase of a slice ends after TSOFF ticks. -/
theorem test_meets_SliceTurns :
    let s := (tJob [] [{ q := 5, seq := 0, cls := 0, recs := [3] }]).modFunc 2 (fun f => { f with tsoff := 5, ts := true, valid := true })
    let s : State := { s with ticks := 5, sched := { s.sched with slice := some { vf := 2, on := false, began := 0, todo := [], switching := false } } }
    (tNext (exec .timesliceSwitch s)).sched.slice.map TimeSlice.on = some true ∧
    (tNext (exec .timesliceSwitch s)).sched.slice.map TimeSlice.began = some 5 := by decide +kernel

/-- 14 R322; 16 R373: a switch of slices asks for the wave in slot 0; the first frames of the pool are its record. -/
def tSliced : State :=
  let s := tBarrel.modCore 0 (fun k => { k with ready := true, vf := some 0 })
  { s with sched := { s.sched with
      pool := some (0x100000, 32), slice := some { vf := 2, on := true, began := 0, todo := [0], switching := true } } }
theorem test_meets_SieveAsks : sliceAsks tSliced 0 0 = true ∧
    ((tNext (exec (.preemptRequest 0 0) tSliced)).slot? 0 0).map (fun t => t.drain.map Drain.addr) = some (some (some 0x100000)) := by
  decide +kernel

/-- 14 R329: a window asks for the wave in slot 0 of class 3, for a card whose launch needs its cluster. -/
def tWindow : State :=
  let s := ((tJob [(0, 8)] []).setCore 0 { (tBarrel.core 0) with ready := true, vf := some 0 }).modWave 0 0 (fun v => { v with cls := 3 })
  let s := (s.modQueue 5 (fun q => { q with deadline := some (0, 9), need := 1, cards := q.cards.map (fun k => { k with
    launch := k.launch.map (fun l => { l with winit := 64, wmax := 64 }) }) })).modFunc 0 (fun f => { f with clust := 1, valid := true })
  { s with sched := { s.sched with windows := [5], pool := some (0x100000, 32) } }
theorem test_meets_windowAsks : (windowAsks tWindow 0 0).map Prod.fst = some 5 ∧ sliceAsks tWindow 0 0 = false := by decide +kernel

/-- 14 R327, R329: the asked wave, the only one of its gang, has stopped and is the next to be saved. -/
def tSaved : State := tSliced.modSlot 0 0 (fun t => { t with
  drain := some { addr := some 0x100000, req := none, reason := 2, q := 0 },
  wave := { t.wave with lanes := t.wave.lanes.map (fun x => { x with stopped := true }) } })
theorem test_meets_WaveSaved : saveNext tSaved 0 0 = true ∧ hostFrames tSaved 0x100000 (32 * 65536) = true ∧ tSaved.conf.startst ≠ 1 ∧
    (tSaved.gang? 0 0).map Gang.members = some [0] := by decide +kernel

/-- 17 R377: a wave that has stopped parks. -/
theorem test_meets_WaveParks : ((tNext (exec (.wavePark 0 0) tStopped)).slot? 0 0).map (fun t => (t.parked, t.stopping)) =
    some (true, false) := by decide +kernel

/-- A local tile descriptor: SPACE, FMT, ROWS, ROWB, PITCH. -/
def tTile (sp fmt rows rowb pitch : Nat) : W256 :=
  BitVec.ofNat 256 (2 ^ 253 * sp + 2 ^ 248 * fmt + 2 ^ 216 * rows + 2 ^ 196 * rowb + 2 ^ 176 * pitch)

/-- Core 0 of tBarrel with one LFILL of 16 bytes of G. -/
def tLadle (chunks : List Nat) : State := tBarrel.modCore 0 (fun k => { k with
  ladle := [{ (default : LCmd) with opc := 0xD6, f := tf 0 4 2 0 0 0, ta := tTile 1 0 1 16 0, c := 0x55, accepted := true, acquired := true,
                                    chunks := chunks }] })
/-- 10 R234, R240: its chunk is filled; once it is, the command completes. -/
theorem test_meets_ChunkFills : ((tLadle []).core 0).ladle.map (fun q => ((jobOf 0 q).nChunk (tLadle []), chunkFree (tLadle []) 0 (jobOf 0 q) 0,
      ((jobOf 0 q).pieces (tLadle []) 0).map (fun p => match p.src, p.dst with | .own _, .loc b _ => b | _, _ => 9))) = [(1, true, [0])] ∧
    ((tNext (exec (.ladleChunkDone 0 0 0) (tLadle []))).core 0).ladle.map LCmd.chunks = [[0]] := by decide +kernel
theorem test_meets_LadleCompletes : ((tLadle [0]).core 0).ladle.map (fun q => (ladleDone (tLadle [0]) 0 (jobOf 0 q),
      ((jobOf 0 q).dst (tLadle [0])).map (fun d => d.space == 4))) = [(true, some false)] ∧
    ((tNext (exec (.ladleComplete 0 0 []) (tLadle [0]))).slot? 0 0).map (fun t => t.wave.lstat.done) = some 1 := by decide +kernel

/-- Core 0 of tBarrel with one MXLOOP of one k-step, FP16 blocks of G times FP16 blocks of G. -/
def tMatrix (prog : Nat) : State := tBarrel.modCore 0 (fun k => { k with
  mx := [{ (default : MCmd) with opc := 0xD8, f := tf 0 4 4 5 0 0, ta := tTile 1 3 64 64 64, tb := tTile 1 3 32 128 128, param := 0x110001,
                                 zs := [0], acquired := true, checked := true, accepted := true, started := true, prog := prog }] })
/-- The reads of a k-step's operands. -/
def tOperand (b : Bool) : MxGot := (mxOperand (tMatrix 0) 0 ((((tMatrix 0).core 0).mx.head?).getD default) b).2.2
theorem test_meets_KstepDone : ((tMatrix 0).core 0).mx.map (fun q => (q.ksteps, q.isTeam, mxReadable (tMatrix 0) 0 q false, mxReadable (tMatrix 0) 0 q true)) =
    [(1, false, true, true)] := by decide +kernel
theorem test_meets_MxeCompletes : ((tMatrix 1).core 0).mx.map (fun q => mxDone (tMatrix 1) 0 q) = [true] ∧
    ((tNext (exec (.mxeComplete 0 0) (tMatrix 1))).core 0).tiles.length = 1 ∧
    ((tNext (exec (.mxeComplete 0 0) (tMatrix 1))).core 0).mx.length = 0 := by decide +kernel

/-- Core 0 with one query of a 1 by 1 grid of results in G; its record is read. -/
def tQuery : State := tBarrel.modCore 0 (fun k => { k with col := { k.col with
  intake := [{ (default : Query) with qid := 4, opc := 0xE8, f := tf 0 2 0 0 0 0, beam := List.replicate 64 (0 : Byte),
                                        qrec := List.replicate 39 (0 : Byte) ++ [1, 16] ++ List.replicate 23 (0 : Byte) }] } })
theorem test_meets_QueryAccepted : ((tQuery.core 0).col.intake.map (fun q => (queryCodes tQuery 0 { q with acquired := true },
      gridHeld tQuery 0 { q with acquired := true }, q.rg, engReady tQuery 0 q.by_))) = [([], false, true, true)] ∧
    ((tNext (exec (.colanderAccept 0) tQuery)).core 0).col.live.map Query.qid = [4] ∧
    ((tNext (exec (.colanderAccept 0) tQuery)).core 0).col.beams.length = 1 := by decide +kernel

/-- A beam of 2 by 1 sub-rays from the origin along z, to the left and to the right, with a reference in a box to the right. -/
def tRays : Query := { (default : Query) with
  qid := 4, opc := 0xE8, f := tf 0 2 0 0 0 0,
  beam := leBytes 20 (0x7F000000 * 2 ^ 128) ++ leBytes 12 (0x3F800000 * 2 ^ 64) ++ leBytes 12 0x3F800000 ++
    leBytes 8 0x3F800000BF800000 ++ leBytes 8 0 ++ leBytes 4 0x40000001,
  qrec := List.replicate 64 (0 : Byte) }
/-- A beam of that query with its reference in the box from (x0, -1, 1) to (x1, 1, 10). -/
def tBeam (x0 x1 : W32) : Beam := { (default : Beam) with
  qid := 4, cw := 2, ch := 1, box := some [x0, 0xBF800000, 0x3F800000, x1, 0x3F800000, 0x41200000] }
def tNode (b : Beam) : State := tBarrel.modCore 0 (fun k => { k with col := { k.col with live := [tRays], beams := [b] } })
theorem test_meets_NodeVisited : (tBeam 0 0x41200000).classify tRays = .part ∧ (tBeam 0 0x41200000).cells tRays = [(0, 0), (1, 0)] ∧
    (tBeam 0x42200000 0x43200000).meeting tRays = [] ∧ tRays.maxd = 4 ∧ tRays.spol = 0 ∧
    (query? (tNode (tBeam 0 0x41200000)) 0 4).isSome = true ∧
    ((tNode (tBeam 0 0x41200000)).gang? 0 0).map Gang.ending = some false := by
  refine ⟨?_, by decide +kernel, by decide +kernel, by decide +kernel, by decide +kernel, by decide +kernel, by decide +kernel⟩
  have h : (tBeam 0 0x41200000).meeting tRays = [(1, 0)] := by decide +kernel
  have k : (tBeam 0 0x41200000).cells tRays = [(0, 0), (1, 0)] := by decide +kernel
  simp only [Beam.classify, h, k]
  simp [tBeam]
theorem test_meets_KstepDone_poison :
    (mxCompute (tMatrix 0) 0 ((((tMatrix 0).core 0).mx.head?).getD default) 3 3
      (match tOperand false with | .ok a _ => a | _ => []) (match tOperand true with | .ok a _ => a | _ => [])).2.2 = false := by
  decide +kernel

/-- The wave of tBarrel in world 1, with operation opc of lane 0 on key 5, whose entry in its slice has the state given and slot 9. -/
def tStock (opc st : Nat) (l : LaneSt) (src : W128) (bytes : List Byte) : State :=
  let s := tBarrel.modWave 0 0 (fun v => { v with world := 1, flags := listSet v.flags 0 1, ops := [{ (default : Op) with
    opc := opc, f := tf 1 1 0 0 0 0, flag := some 0, bytes := bytes, lanes := [{ (default : LaneOp) with va := 5, src := src, st := l }] }] })
  let s := s.modSlice (keySlice 5) (fun x => { x with
    ready := true, tags := [(16 * keySet 5, { (default : TagEnt) with key := 5, world := 1, state := st, slot := 9 })] })
  let s := s.modFunc 0 (fun f => { f with valid := true })
  { s with worlds := [(1, { (default : World) with tag := 1, grants := 1 })] }
theorem test_meets_LookupAnswers : (tStock 0xE3 2 .ready 0 []).granted 1 0 = true ∧
    ((tStock 0xE3 2 .ready 0 []).slice (keySlice 5)).match? 5 1 = some (16 * keySet 5) ∧
    ((tNext (exec (.stkLookup 0 0 0 0) (tStock 0xE3 2 .ready 0 []))).slot? 0 0).map (fun t =>
      (t.wave.regs.read (.v 8 0), t.wave.regs.read (.v 9 0))) = some (9, 0) := by decide +kernel
theorem test_meets_FillOrDropDone : sliceReady (tStock 0xE5 1 .waiting 9 []) 5 = true ∧
    ((tNext (exec (.stkFillPerform 0 0 0 0) (tStock 0xE5 1 .waiting 9 []))).slot? 0 0).map (fun t =>
      (t.wave.ops.length, t.wave.regs.read (.v 8 0))) = some (0, 0) ∧
    (((tNext (exec (.stkFillPerform 0 0 0 0) (tStock 0xE5 1 .waiting 9 []))).slice (keySlice 5)).tag (16 * keySet 5)).state = 0 ∧
    (List.range 8).all (fun i => State.writable tBarrel .host (64 * i + 512 * 9)) = true := by decide +kernel

/-- A closed batch of 3 records at 0x6000 of world 1 in slice 2, for queue 5, whose ring is at 0x8000. -/
def tBatch : State :=
  (tPaged.modQueue 5 (fun q => { q with enabled := true, ring := 0x8000, nent := 16 })).modSlice 2 (fun x => { x with rings := [{ (default : SubRing) with
    world := 1, closed := [{ addr := 0x6000, count := 3, since := 0, shq := 5, tmpl := List.replicate 64 1 }] }] })
/-- 12 R286: its card names the records, and stands in its slot. -/
theorem test_meets_BatchPosted : (tBatch.queue 5).full = false ∧ Untraced tBatch ∧
    ((tNext (exec (.shadingBatchPost 2 1) tBatch)).card? 5 0).map (fun k => (k.unwritten, k.batch)) = some (false, some (2, 1, 0x6000, 3)) ∧
    (List.range 20).map (fun i => memByte (tNext (exec (.shadingBatchPost 2 1) tBatch)).mem (0x8000 + i)) =
      [1, 1, 1, 1, 1, 1, 1, 1, 0, 0x60, 0, 0, 0, 0, 0, 0, 3, 0, 0, 0] :=
  ⟨by decide +kernel, ⟨by decide +kernel, by decide +kernel⟩, by decide +kernel, by decide +kernel⟩

/-- A triangle over the left lower half of a 2 by 2 target, of a pass of function 0, which holds cluster 0. -/
def tVertex (x y : W32) : Vertex := { pos := [x, y, 0, 0x3F800000], attr := [0, 0, 0, 0] }
def tPass : Pass := { (default : Pass) with
  id := 7, width := 2, height := 2, ndraw := 1, depthb := 0x5000, dpitch := 8, colb := 0x6000, cpitch := 8, done := 0x3000, tag := 9,
  draws := [{ (default : Draw) with addr := 0x1000, nunit := 1, state := 6,
                                    surf := some { (default : Launch) with entry := 0x2000, vgran := 8, sgran := 8, winit := 1, wmax := 1 } }] }
def tPrim : Prim := { (default : Prim) with
  draw := 0x1000, pseq := 12, verts := [tVertex 0xC0400000 0xC0400000, tVertex 0x40400000 0xC0400000, tVertex 0xC0400000 0x40400000] }
def tRaster (p : Pass) : State :=
  { (tPaged.modFunc 0 (fun f => { f with clust := 1 })).modCore 0 (fun k => { k with ready := true, vf := some 0 }) with passes := [p] }
/-- 12 R297: the triangle gives fragments in tile (0, 0), whose home core receives them. -/
theorem test_meets_PrimitiveShared :
    let s := tRaster { tPass with prims := [tPrim] }
    (fragsOf tPass (tPass.draws.headD default) tPrim).map (fun fs => (fs.map fragTile).dedup) = some [(0, 0)] ∧ tileHome s 0 0 0 = some 0 ∧
    ((tNext (exec (.primitiveRasterise 7) s)).pass? 7).map (fun p => (p.prims.length, p.frags.length)) = some (0, 3) ∧
    ((tNext (exec (.primitiveRasterise 7) s)).core 0).shares.map (fun t => (t.frags.length, t.attrs.length)) = [(3, 12)] := by
  decide +kernel

/-- 12 R298: core 0 makes the surface wave of one fragment at (1, 0). -/
theorem test_meets_SurfaceWaveMade :
    let s := (tRaster tPass).modCore 0 (fun k => { k with shares := [{ pass := 7, draw := 0x1000, pseq := 12, cls := 0, frags := [[1, 0, 5, 0, 0]],
                                                                       attrs := List.replicate 12 0 }] })
    (roomFor (s.core 0) 8 0 1) = some ([0], []) ∧
    ((tNext (exec (.surfaceWaveCreate 0) s)).slot? 0 0).map (fun t => (t.wave.regs.read (.u 0), t.wave.regs.read (.u 2),
      t.wave.regs.read (.v 0 0), t.wave.regs.read (.v 1 0), t.wave.lanes.map Lane.exited)) =
        some (0x1000, 12, 1, 5, false :: List.replicate 31 true) := by decide +kernel

/-- 12 R300, R301: a fragment at (1, 0), exported with depth 0.5 and colour ones, under DFUNC ALWAYS; and under NEVER. -/
def tFrag : Frag :=
  { (default : Frag) with draw := 0x1000, pseq := 12, x := 1, export_ := some ([0x3F800000, 0x3F800000, 0x3F800000, 0x3F800000], 0x3F000000) }
def tFrags (state : W32) : State :=
  tRaster { tPass with cfmt := 2, frags := [tFrag], draws := tPass.draws.map (fun d => { d with state := state }) }
theorem test_meets_FragmentApplied : ((tFrags 6).pass? 7).map (fun p => (nextFrag p 1 0).isSome) = some true ∧ Untraced (tFrags 6) ∧
    ((tNext (exec (.fragmentApply 7 1 0) (tFrags 6))).pass? 7).map (fun p => (p.frags.length, p.applied)) = some (0, 1) ∧
    (List.range 4).map (fun i => memByte (tNext (exec (.fragmentApply 7 1 0) (tFrags 6))).mem (0x6004 + i)) = [255, 255, 255, 255] ∧
    (tNext (exec (.fragmentApply 7 1 0) (tFrags 0))).mem = (tFrags 0).mem :=
  ⟨by decide +kernel, ⟨by decide +kernel, by decide +kernel⟩, by decide +kernel, by decide +kernel, by decide +kernel⟩

/-- 12 R302: the pass, whose draw's only unit has ended, writes its record and closes. -/
def tPassDone : State := tRaster { tPass with draws := tPass.draws.map (fun d => { d with ended := [0] }) }
theorem test_meets_PassRecordWritten : (tPassDone.pass? 7).map (fun p => p.finishedBelow 1) = some true ∧ Untraced tPassDone ∧
    (tNext (exec (.passComplete 7) tPassDone)).passes.length = 0 ∧
    (List.range 9).map (fun i => memByte (tNext (exec (.passComplete 7) tPassDone)).mem (0x3000 + i)) = [9, 0, 0, 0, 0, 0, 0, 0, 0] :=
  ⟨by decide +kernel, ⟨by decide +kernel, by decide +kernel⟩, by decide +kernel, by decide +kernel⟩

/-- 18 R398, R417: link 1 is not up; a request of an engine is unanswered for 2^24 fc, and one that nobody waits for. -/
def tLate : State :=
  { tLinked with fc := 2 ^ 24, peers := [{ (default : PeerReq) with tid := 4, cmd := some (0, 0, 3) }, { (default : PeerReq) with tid := 5 }] }
theorem test_meets_LinksAndTimeouts : tLate.rdy.links.getLsbD 1 = false ∧
    (tLate.peers.find? (fun q => q.tid == 4 && q.got.isNone)).map (fun q => q.who.isNone && q.cmd.isSome && q.chunk.isNone) = some true ∧
    (tLate.peers.find? (fun q => q.tid == 5 && q.got.isNone)).map (fun q => q.cmd.isNone) = some true ∧
    tLate.peers.all (fun q => decide (q.since + 2 ^ 24 ≤ tLate.fc)) = true :=
  ⟨by decide +kernel, by decide +kernel, by decide +kernel, by decide +kernel⟩

/-- 18 R393: vector 2's interval ends, with and without an event meanwhile, while nothing masks it. -/
theorem test_meets_Intervals (p : BitVec 8) (hp : p = 0 ∨ p = 4) :
    let s := State.reset.modFunc 0 (fun f => { f with mbox := { f.mbox with open_ := 4, pend := p, msix := List.replicate 32 0, msixEn := true } })
    let s := { s with fc := 1024 }
    (s.func 0).mbox.open_.getLsbD 2 = true ∧ vecMasked (s.func 0).mbox 2 = false ∧
    (tNext (exec (.msixIntervalEnd 0 2) s)).outbox.length = (if p = 0 then 0 else 1) := by
  rcases hp with rfl | rfl <;> decide +kernel

/-- 08 R175; 04 R103; 03 R76: a conversion without a lane left, an add gathered at 0x10040, and a core due for a review of its rings. -/
def tOthers : State :=
  let s := tBarrel.modWave 0 0 (fun v => { v with flags := listSet v.flags 0 1, ops := [{ (default : Op) with
    opc := 0x80, f := tf 1 1 0 0 0 0, level := .h, flag := some 0, writes := [⟨.v 8 0, 7⟩], exc := 4 }] })
  (s.modCore 0 (fun k => { k with clock := 4096 })).modCluster 0 (fun k => { k with
    quant := [{ core := 0, wave := 0, op := 0, lane := 0, spa := 0x10040, n64 := false, amount := 5 }] })
theorem test_meets_completions : runningWave tOthers 0 0 = false ∧ reviewDue (tOthers.core 0) = true ∧
    ((tOthers.cluster 0).quant.all (fun q => quantMay tOthers q && !tOthers.linePois q.spa)) = true ∧
    ((tNext (exec (.conversionComplete 0 0 0) tOthers)).slot? 0 0).map (fun t =>
      (t.wave.ops.length, t.wave.regs.read (.v 8 0), t.wave.wstat, t.wave.flags.getD 0 9)) = some (0, 7, 4, 0) ∧
    memByte (tNext (exec (.quantumGather 0) tOthers)).mem 0x10040 = 5 ∧
    reviewDue ((tNext (exec (.ringDepthReview 0) tOthers)).core 0) = false := by decide +kernel

/-- 11 R271, R272: a query with nothing left to visit, whose status goes to 0x30, and a continuation of one. -/
def tQueryOver : State := tBarrel.modCore 0 (fun k => { k with
  tlb := [tTlb]
  col := { k.col with
    live := [{ tRays with by_ := { tRays.by_ with flag := some 0, level := .h } }]
    conts := [{ (default : Cont) with id := 2, qid := 4, accepted := true, f := tf 0 0 0 0 0 0 }] } })
theorem test_meets_queries : queryWriting tQueryOver 0 4 = false ∧ relDone tQueryOver 0 4 tRays.f = true ∧ tRays.open_ = 0 ∧
    ((tNext (exec (.queryComplete 0 4) tQueryOver)).core 0).col.live.length = 0 ∧
    ((tNext (exec (.beamcontComplete 0 2) tQueryOver)).core 0).col.conts.length = 0 := by decide +kernel

/-- 15 R341, R347; 16 R373: a Deckle of a function's quadrant, a deadline at its lead time, and a core without work in a switch. -/
def tDeckle : State :=
  let s := (tJob [(0, 8)] []).modFunc 0 (fun f => { f with valid := true, clust := 1 })
  let s := s.modQueue 5 (fun q => { q with deadline := some (0, 9), lead := 9, cards := q.cards.map (fun k => { k with kind := 1 }) })
  { s with rdy := { s.rdy with deckles := 1 }, sched := { s.sched with slice := some { vf := 2, on := true, began := 0, todo := [0], switching := true } } }
theorem test_meets_deckle : (chooseCard tDeckle 1023 (deckleCards tDeckle 0)).map Prod.fst = some 5 ∧
    (tNext (exec (.deadlineWindowOpen 5) tDeckle)).sched.windows = [5] ∧
    ((tNext (exec (.timesliceCorePass 0) (tDeckle.modCore 0 (fun k => { k with held := [] })))).core 0).vf = some 2 := by decide +kernel

/-- s with operation opc of lane 0 alone pending in the wave of slot 0 of core 0. -/
def tOp (opc : Nat) (f : Fields) (l : LaneOp) : Op :=
  { (default : Op) with opc := opc, f := f, level := .h, flag := some 0, lanes := [l] }
def tPend (s : State) (o : Op) : State := s.modWave 0 0 (fun v => { v with flags := listSet v.flags 0 1, ops := [o] })
/-- Such a state meets Pends. -/
theorem pends_tPend (s : State) (t : Slot) (opc : Nat) (f : Fields) (l : LaneOp) (h : s.slot? 0 0 = some t) :
    Pends (tPend s (tOp opc f l)) 0 0 { t with wave := { t.wave with flags := listSet t.wave.flags 0 1, ops := [tOp opc f l] } }
      (tOp opc f l) l :=
  ⟨by unfold tPend; rw [State.slot?_modWave, h]; rfl, rfl, rfl, rfl, rfl⟩
/-- After the completion: operations left, v8 of lane 0, flag 0. -/
def tEnded (s : State) : Option (Nat × W32 × Nat) :=
  ((tNext (exec (.memoryOpComplete 0 0 0 0) s)).slot? 0 0).map (fun t => (t.wave.ops.length, t.wave.regs.read (.v 8 0), t.wave.flags.getD 0 9))

/-- 09 R203: an LD and an LDNC of lane 0 at 0x10040 of HBM4, whose line is in no L1; the same LD where the L1 has it. -/
def tLoads (opc : Nat) (k : Option Line) : State :=
  { tPend (tBarrel.modCore 0 (fun c => { c with l1 := match k with | some l => [(0x401, l)] | none => [] }))
      (tOp opc (tf 1 1 0 0 2 0) { (default : LaneOp) with tgt := .hbm 0x10040, st := .ready }) with mem := [(0x10040, 9), (0x10041, 1)] }
def tLine : Line := { (default : Line) with data := 0x55 }
theorem test_meets_ready_loads : (tLoads 0xA4 (some tLine)).owned (.fn 0 .h) 0x10040 = true ∧
    (tLoads 0xA0 none).poisAt 0x10040 4 = false ∧ ((tLoads 0xA0 none).core 0).wq = [] ∧
    tEnded (tLoads 0xA0 none) = some (0, 0x109, 0) ∧ tEnded (tLoads 0xA4 (some tLine)) = some (0, 0x109, 0) ∧
    tEnded (tLoads 0xA0 (some tLine)) = some (0, 0x55, 0) := by decide +kernel

/-- 09 R204: LDCVT of the FP16 value 1.5 there. -/
def tLoadCvt : State :=
  { tPend tBarrel (tOp 0xAD (tf 1 1 0 0 8 0) { (default : LaneOp) with tgt := .hbm 0x10040, st := .ready }) with mem := [(0x10041, 0x3E)] }
theorem test_meets_ready_ldcvt : tEnded tLoadCvt = some (0, 0x3FC00000, 0) := by decide +kernel

/-- 09 R211: ATADD of 5 to the 7 at 0x10040. -/
def tAtomic : State :=
  { tPend tBarrel (tOp 0xC0 (tf 1 1 1 0 0 0) { (default : LaneOp) with tgt := .hbm 0x10040, st := .ready, src := 5 }) with
    mem := [(0x10040, 7)] }
theorem test_meets_ready_atomics : (tAtomic.core 0).wq = [] ∧ tAtomic.linePois 0x10040 = false ∧ Untraced tAtomic ∧
    tAtomic.writable (.fn 0 .h) 0x10040 = true ∧ tEnded tAtomic = some (0, 7, 0) ∧
    memByte (tNext (exec (.memoryOpComplete 0 0 0 0) tAtomic)).mem 0x10040 = 12 :=
  ⟨by decide +kernel, by decide +kernel, ⟨by decide +kernel, by decide +kernel⟩, by decide +kernel, by decide +kernel, by decide +kernel⟩

/-- 03 R67: the first entry of core 0's write queue, two bytes with a hole between them, of an ST of lane 0, drains. -/
def tEntry : WqEntry := { (default : WqEntry) with
  tgt := .hbm 0x10040, bytes := [1, 2, 3], holes := [1], level := .h, who := some (tPend tBarrel default |>.slot? 0 0 |>.map (·.wave.uid) |>.getD 0, 0, 0),
  lanes := [(0, 0, 3)] }
def tDrains : State :=
  let s := tPend tBarrel (tOp 0xA1 (tf 0 1 1 0 0 0) { (default : LaneOp) with tgt := .hbm 0x10040, st := .queued 0 })
  { s.modCore 0 (fun k => { k with wq := [tEntry] }) with agenda := [.drain 0 0], mem := [(0x10041, 8)] }
theorem test_meets_drains : tDrains.powered = true ∧ firstOf (tDrains.core 0).wq tEntry = true ∧
    tDrains.writable tEntry.party 0x10040 = true ∧ Untraced tDrains ∧
    (drainStep tDrains 0 0).map (fun u => (memByte u.mem 0x10040, memByte u.mem 0x10041, memByte u.mem 0x10042, (u.core 0).wq.length,
      (u.slot? 0 0).map (fun t => t.wave.ops.length))) = some (1, 8, 3, 0, some 0) :=
  ⟨by decide +kernel, by decide +kernel, by decide +kernel, ⟨by decide +kernel, by decide +kernel⟩, by decide +kernel⟩

/-- A word of row 0xE or 0xF whose lane's result is known, with operands a and b. -/
def tKnown (s : State) (opc mod : Nat) (a : W64) (b : W128) : State :=
  tPend s (tOp opc (tf 1 1 1 0 mod 0) { (default : LaneOp) with va := a, src := b, st := .known })
/-- 14 R334: OWNSET's four answers: a misaligned address, a frame that is not FREE, a group the function does not hold, and its effect. -/
def tFrames : State := { tBarrel with owners := [(4, 65), (5, 65)] }
theorem test_meets_ownset : tEnded (tKnown tFrames 0xFB 64 0x40001 1) = some (0, 2, 0) ∧
    tEnded (tKnown tFrames 0xFB 64 0x40000 3) = some (0, 1, 0) ∧ tEnded (tKnown tFrames 0xFB 2 0x40000 2) = some (0, 3, 0) ∧
    tEnded (tKnown tFrames 0xFB 64 0x40000 2) = some (0, 0, 0) ∧
    (tNext (exec (.memoryOpComplete 0 0 0 0) (tKnown tFrames 0xFB 64 0x40000 2))).owner 0x50000 = 64 := by decide +kernel
/-- OWNGET: the code, and past HBM4 all ones. SCRUB: a misaligned address, and a frame. -/
theorem test_meets_ownget_scrub : tEnded (tKnown tFrames 0xFC 0 0x40000 0) = some (0, 65, 0) ∧
    tEnded (tKnown tFrames 0xFC 0 (BitVec.ofNat 64 hbmEnd) 0) = some (0, 0xFFFFFFFF, 0) ∧
    tEnded (tKnown tFrames 0xFF 0 0x40001 1) = some (0, 2, 0) ∧
    (let s := { tKnown tBarrel 0xFF 0 0x10000 1 with mem := [(0xFFFF, 1), (0x10000, 2), (0x20000, 3)] }
     let u := tNext (exec (.memoryOpComplete 0 0 0 0) s)
     (memByte u.mem 0xFFFF, memByte u.mem 0x10000, memByte u.mem 0x20000, u.owner 0x10000) = (1, 0, 3, 65)) ∧
    Untraced (tKnown tBarrel 0xFF 0 0x10000 1) :=
  ⟨by decide +kernel, by decide +kernel, by decide +kernel, by decide +kernel, ⟨by decide +kernel, by decide +kernel⟩⟩
/-- 14 R333: TLBINV of one page, by its last byte and past it; TLBINVA of a guest physical page; it waits for a queued write. -/
def tMapped : State := tBarrel.modCore 0 (fun k => { k with tlb := [tTlb] })
def tLeft (s : State) : Nat := ((tNext (exec (.memoryOpComplete 0 0 0 0) s)).core 0).tlb.length
theorem test_meets_tlbinv : wqUsing (tKnown tMapped 0xF9 0 0xFFF 1) (selRange 0 0xFFF 1) = [] ∧
    peersUsing (tKnown tMapped 0xF9 0 0xFFF 1) (selRange 0 0xFFF 1) = [] ∧
    heldUsing (tKnown tMapped 0xF9 0 0xFFF 1) (selRange 0 0xFFF 1) = false ∧ tLeft (tKnown tMapped 0xF9 0 0xFFF 1) = 0 ∧
    tLeft (tKnown tMapped 0xF9 0 0x1000 1) = 1 ∧ tLeft (tKnown tMapped 0xFA 64 0x10000 1) = 0 ∧
    tLeft (tKnown tMapped 0xFA 64 0x10000 0) = 1 ∧ tLeft (tKnown tMapped 0xFA 1 0 0) = 1 ∧ tLeft (tKnown tMapped 0xFA 128 0 0) = 0 ∧
    wqUsing ((tKnown tMapped 0xF9 0 0xFFF 1).modCore 0 (fun k => { k with wq := [{ tEntry with va := 0xFC0 }] })) (selRange 0 0xFFF 1) ≠ [] := by decide +kernel
/-- A meaning that is not enabled. -/
def tWaits (r : Res) : Bool := match r with | .fault .notEnabled => true | _ => false
/-- 14 R336: HALTQ of queue 1024; PAUSE, RESUME and WITHDRAW of queue 5, which is empty. -/
theorem test_meets_haltq : tEnded (tKnown tBarrel 0xFE 0 1024 0) = some (0, 1, 0) ∧ tEnded (tKnown tBarrel 0xFE 0 5 0) = some (0, 0, 0) ∧
    ((tNext (exec (.memoryOpComplete 0 0 0 0) (tKnown tBarrel 0xFE 0 5 0))).queue 5).paused = true ∧
    tEnded (tKnown tBarrel 0xFE 1 5 0) = some (0, 0, 0) ∧ tEnded (tKnown tBarrel 0xFE 2 5 0) = some (1, 0, 1) ∧
    tWaits (exec (.memoryOpComplete 0 0 0 0) ((tKnown tBarrel 0xFE 1 5 0).modQueue 5 (fun q => { q with withdrawn := true }))) = true := by
  decide +kernel
/-- 14 R332: CTXSV of an empty slot, of a misaligned place, of a wave that drains, and of one that does not; CTXLD of no record. -/
def tTwo (drain : Option Drain) : State :=
  { (tBarrel.modCore 0 (fun k => { k with slots := k.slots ++ (k.slots.take 1).map (fun p => (1, { p.2 with drain := drain })) })) with
    owners := [] }
theorem test_meets_ctxsv : tEnded (tKnown (tTwo none) 0xF7 0 0x10000 2) = some (0, 1, 0) ∧
    tEnded (tKnown (tTwo none) 0xF7 0 0x10000 32768) = some (0, 1, 0) ∧ tEnded (tKnown (tTwo none) 0xF7 0 0x10001 1) = some (0, 2, 0) ∧
    tEnded (tKnown (tTwo (some { addr := none, req := none, reason := 1, q := 0 })) 0xF7 0 0x10000 1) = some (0, 3, 0) ∧
    tEnded (tKnown (tTwo none) 0xF7 0 0x10000 1) = some (1, 0, 1) ∧
    ((tNext (exec (.memoryOpComplete 0 0 0 0) (tKnown (tTwo none) 0xF7 0 0x10000 1))).slot? 0 1).map (fun t => t.drain.isSome) = some true ∧
    tEnded (tKnown (tTwo none) 0xF8 0 0x10000 0) = some (0, 2, 0) := by decide +kernel
/-- 12 R287, R288: STKINV of object 5 and STKAGE by 4, with and without the grant. -/
def tWorld (opc st : Nat) (grants : W64) (b : W128) : State :=
  { (tStock opc st .known b []) with worlds := [(1, { (default : World) with tag := 1, grants := grants, wage := 254 })] }
theorem test_meets_stkinv_stkage : (tWorld 0xE6 1 1 1).granted 1 0 = true ∧ (tWorld 0xE6 1 0 1).granted 1 0 = false ∧
    (let u := tNext (exec (.memoryOpComplete 0 0 0 0) (tWorld 0xE6 1 1 1))
     ((u.slice (keySlice 5)).tags.map (fun p => p.2.state), (u.world? 1).map (fun w => (w.genOf 5, w.genOf 6)))) = ([3], some (1, 0)) ∧
    tEnded (tWorld 0xE7 2 1 0) = some (0, 3, 0) ∧ tEnded (tWorld 0xE7 2 0 0) = some (0, 0xFFFFFFFF, 0) := by decide +kernel

/-- s whose group issues at another level. -/
def tAt (lv : Level) (s : State) : State := s.modGroup 0 0 0 (fun g => { g with level := lv })
/-- 14 R320, clause by clause: PSRD of registers 0, 15 and 21 at H, of 15 at G, and of 16, which G may not read. -/
theorem test_meets_PrivilegedRegistersRead : (∀ n, n ∈ [0, 15, 16, 20, 21] → issuesIn (tState 1) 0xF5 (tf 1 0 0 0 n 0) = true) ∧
    issuesIn (tAt .g (tState 1)) 0xF5 (tf 1 0 0 0 15 0) = true ∧ issuesIn (tAt .g (tState 1)) 0xF5 (tf 1 0 0 0 16 0) = true ∧
    (tCtx (tAt .g (tState 1))).g.level ≠ .h := by decide +kernel
/-- PSWR of every register it may write at H, and at G of 15 and of 16, which G may not write. -/
theorem test_meets_PrivilegedRegistersWritten : (∀ n, n ∈ [0, 2, 6, 7, 8, 9, 15, 16, 18, 21] →
      issuesIn (tState 1) 0xF6 (tf 0 2 0 0 n 0) = true) ∧ ((tCtx (tState 1)).active (tf 0 2 0 0 16 0)).head? = some 0 ∧
    issuesIn (tAt .g (tState 1)) 0xF6 (tf 0 2 0 0 15 0) = true ∧ issuesIn (tAt .g (tState 1)) 0xF6 (tf 0 2 0 0 16 0) = true := by
  decide +kernel
/-- 14 R335, clause by clause: WPSET at virtual address 64 with operand b, where another function's watchpoint may stand. -/
def tWatch (lv : Level) (old : Watch) : State :=
  tRegs ((tAt lv (tState 1)).modCore 0 (fun k => { k with watch := listSet k.watch 0 old })) [⟨.u 8, 64⟩]
theorem test_meets_WatchpointsSet :
    (∀ b, b ∈ [0x1FFFF, 0x3FFFF, 0, 0x5FFFF, 0x10000] → issuesIn (tWatch .h Watch.off) 0xFD (tf 0 2 6 0 0 b) = true ∧
      (tCtx (tWatch .h Watch.off)).rd (tf 0 2 6 0 0 b) .imm 0 = BitVec.ofNat 32 b) ∧
    issuesIn (tWatch .g { Watch.off with en := true, vf := 1 }) 0xFD (tf 0 2 6 0 0 0x1FFFF) = true ∧
    (tCtx (tWatch .h Watch.off)).rd64 (tf 0 2 6 0 0 0) (.uni 8) 0 = 64 ∧ canonical 64 = true ∧ inWindow 64 = false ∧ inHeap 64 = false := by
  decide +kernel

/-- 11 R270: BEAMCONT of a record at offset 64 of G that this wave has claimed, behind a store. -/
def tCont : State := tRegs (tBehind.modCore 0 (fun k => { k with col := { k.col with live := [{ (default : Query) with
    qid := 3, by_ := { (default : Query).by_ with gang := (tCtx tBehind).wv.gang }, recs := [{ (default : SplitRec) with
      off := 64, state := 1, claim := (tCtx tBehind).wv.uid }] }] } })) [⟨.u 8, 64⟩]
theorem test_meets_beamcont : issuesIn tCont 0xEA (tf 0 2 0 0 0 0) = true ∧ (tCtx tCont).na (tf 0 2 0 0 0 0) (tf 0 2 0 0 0 0).a 0 = 64 ∧
    (64 + 64 ≤ bufSize tCont 0 (tCtx tCont).wv.gang .g) ∧ (recAt? tCont 0 (tCtx tCont).wv.gang 64).map (fun p =>
      (p.1.qid, p.2.state, p.2.claim == (tCtx tCont).wv.uid, p.2.issued)) = some (3, 1, true, false) ∧
    (tCont.core 0).col.conts.isEmpty = true ∧ ((tCtx tCont).active (tf 0 2 0 0 0 0)).head? = some 0 := by decide +kernel
/-- SQPOP behind an acquire of its wave waits. -/
theorem test_meets_sqpop_waits : (tCtx ((tState 1).modWave 0 0 (fun v => { v with nextOp := 1, ops := [{ (default : Op) with opc := 0xCE }] }))).waits
    (tf 2 2 0 0 0 0) = true ∧ (tCtx (tState 1)).waits (tf 2 2 0 0 0 0) = false := by decide +kernel

/-- Tables of HOST's at 16 MiB, past the frame owner table, with bytes at offsets from there. -/
def tTables (c : W32) (args : List W64) (m : List (Nat × Nat)) : State :=
  let s := tAsked c args
  { s with
    conf := { s.conf with qtbase := 0x1000000, mftbase := 0x1000000, ftbase := 0x1000000, wtbase := 0x1000000 },
    mem := m.map (fun p => (0x1000000 + p.1, BitVec.ofNat 8 p.2)) }
/-- 18 R392, request by request: QSET of queue 5 with 16 entries; FILTER 0; DEADLINE of a class 0 queue; FSET of function 1 with request
rings of 16; WSET of entry 0 for tag 1 with 128 slots; DBGCLAIM and DBGFREE of unit 0; a request that its function may not make. -/
theorem test_meets_qset : let s := tTables 1 [5] [(328, 16)]
    (hostTable s (s.conf.qtbase.toNat + 64 * 5) 64).map (fun b => (queueEntryOk b, (queueOf (s.queue 5) b).enabled)) = some (true, false) ∧
    (s.queue 5).cards = [] ∧ ((tNext (exec (.qset 0) s)).queue 5).nent = 16 := by decide +kernel
theorem test_meets_filter : let s := tTables 2 [0] []
    (hostTable s (s.conf.mftbase.toNat + 32 * 0) 32).isSome = true ∧
    ((tNext (exec (.filter 0) s)).func 0).mbox.rstat = 0 := by decide +kernel
theorem test_meets_deadline : let s := (tTables 3 [5, 20] []).modQueue 5 (fun q => { q with nent := 16, cards := [default] })
    (s.queue 5).cls = 0 ∧ ((s.queue 5).cards.find? (fun k => !k.closed)).isSome = true ∧
    ((tNext (exec (.deadline 0) s)).queue 5).deadline = some (0, 2) := by decide +kernel
theorem test_meets_fset : let s := tTables 5 [1] [(128 + 72, 16), (128 + 74, 16), (128 + 79, 1)]
    (hostTable s (s.conf.ftbase.toNat + 128 * 1) 128).map (fun b =>
      (funcBad s 1 (funcOf (s.func 1) b), funcBusy s 1 (funcOf (s.func 1) b))) = some (false, false) ∧
    ((tNext (exec (.fset 0) s)).func 1).valid = true := by decide +kernel
theorem test_meets_wset : let s := tTables 6 [0] [(0, 1), (2, 9), (4, 32), (12, 128)]
    (s.worlds.get? 0).isNone = true ∧ (hostTable s (s.conf.wtbase.toNat + 64 * 0) 64).map (fun b =>
      (recNat b 0 2, worldBad s 0 (worldOf none b []), (templateAt s (recNat b 2 2) (BitVec.ofNat 64 (recNat b 32 8))).isSome)) =
      some (1, false, true) := by decide +kernel
theorem test_meets_dbgclaim : let s := (tTables 7 [1, 0] []).modFunc 0 (fun f => { f with valid := true })
    (s.func 0).valid = true ∧ s.tracers = [] ∧ (tNext (exec (.dbgclaim 0) s)).tracers.map (fun p => (p.1, p.2.vf, p.2.h)) = [(0, 0, true)] := by
  decide +kernel
theorem test_meets_dbgfree : let s := (tTables 8 [1, 0] []).modFunc 0 (fun f => { f with mbox := { f.mbox with req := some (8, [1, 0], false) } })
    (tNext (exec (.dbgfree 0) { s with tracers := [(0, { vf := 0, h := false, susp := none })] })).tracers = [] := by decide +kernel
theorem test_meets_denied : let s := (tTables 1 [5] []).modFunc 0 (fun f => { f with mbox := { f.mbox with req := some (1, [5], false) } })
    ((tNext (exec (.qset 0) s)).func 0).mbox.rstat = 1 := by decide +kernel

/-- 15 R338: a doorbell for queue 5's next card, for its last free slot, and of a queue that is another function's. -/
def tBell (seq : W32) : State := (tTables 0 [] []).modQueue 5 (fun q => { q with
  enabled := true, hostq := true, nent := 16, seq := seq, headseq := 0 })
theorem test_meets_doorbell : ([(0 : W32), 15].all (fun n => decide ((n + 1 - ((tBell n).queue 5).headseq).toNat ≤ 16) &&
      ((tNext (exec (.doorbell 0 5 (n + 1)) (tBell n))).queue 5).cards.length == 1)) = true ∧ exposed (tBell 0) 0 = true ∧
    ((tNext (exec (.doorbell 1 5 1) (tBell 0))).func 1).err.bell = 1 ∧ ((tNext (exec (.doorbell 0 1024 1) (tBell 0))).func 0).err.bell = 1 := by
  decide +kernel
/-- 16 R365: a RETRY and a REFUSE of the request with sequence 3 of function 0, at each stage, and one of a sequence that is not there. -/
def tRequest (stage : Nat) : State := { tBarrel with reqs := [{ (default : PageReq) with vf := 0, stage := stage, written := true, seq := 3 }] }
theorem test_meets_replies : (tNext (exec (.stage1ReplyRetry 0 3) (tRequest 1))).reqs = [] ∧
    (tNext (exec (.stage2ReplyRefuse 0 3) (tRequest 2))).reqs = [] ∧
    ((tNext (exec (.stage1ReplyRefuse 0 3) (tRequest 2))).func 0).err.stray = 1 := by decide +kernel
/-- 17 R379, R384: a STOPREQ of the wave of slot 0 with and without STOPEN, the RESUME of a parked one, and region 7 armed. -/
def tDebugged (on : Bool) : State := (tBarrel.modFunc 0 (fun f => { f with dbg := { f.dbg with
  stopen := on, vtrs := List.replicate 8 default } })).modSlot 0 0 (fun t => { t with parked := on })
theorem test_meets_stops : ((tNext (exec (.stopreq 0 0) (tDebugged true))).slot? 0 0).map (fun t => t.stopping) = some true ∧
    ((tNext (exec (.stopreq 0 0) (tDebugged false))).slot? 0 0).map (fun t => t.stopping) = some false ∧
    ((tNext (exec (.resume 0 0) (tDebugged true))).slot? 0 0).map (fun t => t.parked) = some false ∧
    (((tNext (exec (.vtrArm 0 7) (tDebugged true))).func 0).dbg.vtrs.getD 7 default).en = true ∧
    (((tNext (exec (.invalidationRegister 0 0 1) tMapped)).core 0).tlb.length, (tMapped.core 0).tlb.length) = (0, 1) := by decide +kernel

/-- 06 R143, R146: words with an RU bit beside a source that is no vector, with two immediates, and with an index beside an absent DST. -/
theorem test_meets_ReservedEncodingsRefused : ([2 ^ 10 + 2 ^ 44, 2 ^ 11 + 2 ^ 58, 2 ^ 12 + 2 ^ 72, 5 * 2 ^ 44 + 5 * 2 ^ 72,
    5 * 2 ^ 58 + 5 * 2 ^ 72, 7 * 2 ^ 30 + 2 ^ 19].all (fun w => match decode (BitVec.ofNat 128 w) with | .error _ => true | .ok _ => false)) =
    true := by decide +kernel
/-- 01 R22: a second arrival at barrier 2 while the wave holds one there stops its lanes. -/
def tHolds (m : Nat) : State := tBarrel.modWave 0 0 (fun v => { v with
  bars := listSet v.bars 2 { (default : WBar) with holds := true },
  ops := [{ (default : Op) with opc := 0x15, n := 2, m := m, lanes := nameLanes [0] .ready }] })
theorem test_meets_second_arrival : ((tHolds 0).slot? 0 0).map (fun t => (t.wave.ops.map (fun o =>
      (gated t.wave o.id none, releaseDone ((tHolds 0).core 0) t.wave o.id (o.f.m 7 4), firstOfGangOrder t.wave o.id)),
      (t.wave.bars.getD 2 default).holds)) = some ([(false, true, true)], true) ∧
    ((tNext (exec (.barrierArrival 0 0 2) (tHolds 0))).slot? 0 0).map (fun t => t.wave.ops.map Op.m) = some [1] ∧
    ((tHolds 1).slot? 0 0).map (fun t => (List.range 32).any (candidate t.wave)) = some false := by decide +kernel
/-- 18 R404: the last register word and the last predicate there can be an error in; 18 R408: a part that is started, not yet ready. -/
theorem test_meets_word_errors : ((tNext (exec (.sramEccError (.register 0 0 0 8191) true) (tState 1))).slot? 0 0).map (fun t =>
      t.wave.regs.vpois.contains 8191) = some true ∧
    ((tNext (exec (.sramEccError (.register 0 0 2 14) true) (tState 1))).slot? 0 0).map (fun t => t.wave.regs.predPois 14) = some true ∧
    ((tNext (exec (.unitReady (.core 511)) (tAsked 0 []))).core 511).ready = true ∧
    (tNext (exec (.unitReady (.deckle 15)) (tAsked 0 []))).rdy.deckles = 0x8000 ∧
    (tNext (exec (.start 1) State.reset)).conf.startWait = true := by decide +kernel

/-- Core 1, as idle as core 0, asks after it: the pool serves core 0 first. -/
def tTwoCores : State :=
  let s := tJob [(0, 8)] []
  s.modCore 1 (fun _ => s.core 0)
theorem test_meets_lower_core : requestsWork tTwoCores 0 = true ∧ (tTwoCores.core 0).vf = some 0 ∧
    (dealable tTwoCores 0 0).isEmpty = false ∧ lowestRequest tTwoCores 0 = true ∧
    tWaits (exec (.coreWorkRequest 1) tTwoCores) = true := by decide +kernel

/-- 09 R204; 12 R296: LDPRB of the mapped page at 0 and of the heap; a gang's 4,097th primitive. -/
theorem test_meets_ldprb : (tCtx (tState 1)).active (tf 3 1 0 0 0 0) = [0] ∧ canonical 0 = true ∧ inWindow 0 = false ∧ inHeap 0 = false ∧
    tlbFind (tState 1) (some 0) 0 0 (accR .h) = some tTlb ∧ tTlb.elide = false := by decide +kernel
def tFull : State := (tState 1).modGang 0 (tCtx (tState 1)).wv.gang (fun g => { g with prims := 4096 })
theorem test_meets_last_primitive : issuesIn tFull 0xEE (tf 0 1 2 0 0 0) = true ∧ (tCtx tFull).active (tf 0 1 2 0 0 0) = [0] ∧
    (tFull.gang? 0 (tCtx tFull).wv.gang).map Gang.prims = some 4096 := by decide +kernel

/-- Traps: a lane at U with TVECG set, and one whose trap halts. -/
theorem test_meets_TrapsTakenAndReturned :
    let s := ((tState 1).modFunc 0 (fun f => { f with tvecg := 0x8000 })).modLane 0 0 0 (fun x => { x with level := .u })
    ((s.slot? 0 0).bind (fun t => t.wave.lanes[0]?)).map Lane.level = some .u ∧ (s.func 0).troute.getLsbD 21 = false ∧
    (s.func 0).tvecg ≠ 0 ∧ (tState 1).tvech = 0 := by decide +kernel

/-- Steps: time may pass, and memory after reset is in canonical form. -/
theorem test_meets_StepKeepsMemoryCanonical : MemInv State.reset ∧
    ∃ t, doMove { State.reset with agenda := [.fc 1] } (.fc 1) = .next t := ⟨rfl, _, rfl⟩
theorem test_meets_StepRunsDecodedInstruction : (tState 1).powered = true ∧
    (placeWord State.reset 0).agenda = [.issue 0 0] ∧ ((placeWord State.reset 0).quarter 0 0).run.isSome = true := by decide +kernel

/-- 14 R316: a lane at U takes cause 21 at TVECG at level G. -/
theorem test_trap_enters_handler :
    let s := ((tState 1).modFunc 0 (fun f => { f with tvecg := 0x8000 })).modLane 0 0 0 (fun x => { x with level := .u })
    (((takeTrap s 0 0 0 { cause := 21, sub := 0, off := 0, spo := 0, res := 0x1000, aux := 7, aux2 := 0 }).slot? 0 0).bind
      (fun t => t.wave.lanes[0]?)).map (fun x => (x.pc, x.level, x.trg.aux)) = some (0x8000, .g, 7) := by decide +kernel

/-- 18 R408: memory after reset is in canonical form. -/
theorem test_reset_mem : MemInv State.reset := rfl

end Sys2Proof.Machine
end

section
open Sys2Proof Sys2Proof.Machine

namespace Sys2Proof.Machine

/-! ## Folds and tables -/

/-- A fold whose every step leaves its start as it is gives the start. -/
theorem foldl_of_fixed {α β : Type} {f : β → α → β} {b : β} {l : List α} (h : ∀ a, a ∈ l → f b a = b) : l.foldl f b = b := by
  induction l with
  | nil => rfl
  | cons a r ih =>
    rw [List.foldl_cons, h a List.mem_cons_self]
    exact ih (fun x hx => h x (List.mem_cons_of_mem _ hx))

/-- A listed key's first entry is the one it reads as. -/
theorem Tab.mem_of_key {α : Type} (d : α) {m : Tab α} {i : Nat} (h : i ∈ m.map Prod.fst) : (i, Tab.get d m i) ∈ m := by
  induction m with
  | nil => cases h
  | cons p r ih =>
    obtain ⟨k, v⟩ := p
    by_cases e : i = k
    · subst e; simp [Tab.get, Tab.get?]
    · have hr : i ∈ r.map Prod.fst := by simpa [e] using h
      have := ih hr
      simp only [Tab.get, Tab.get?, if_neg e] at this ⊢
      exact List.mem_cons_of_mem _ this

/-! ## Bytes of memory after a write -/

theorem memByte_memPut (m : List Host.Cell) (a : Nat) (b : Byte) (x : Nat) :
    memByte (memPut m a b) x = if x = a then b else memByte m x := by
  by_cases h : x = a
  · subst h; simp [memByte, memPut]
  · simp [memByte, memPut, h, Tab.get_put_of_ne _ _ _ h]

theorem memByte_memPuts (bs : List Byte) : ∀ (m : List Host.Cell) (a x : Nat),
    memByte (memPuts m a bs) x = if a ≤ x ∧ x < a + bs.length then bs.getD (x - a) 0 else memByte m x := by
  induction bs with
  | nil => intro m a x; rw [if_neg (by simp)]; rfl
  | cons b r ih =>
    intro m a x
    rw [memPuts, ih, memByte_memPut]
    by_cases h : x = a
    · subst h; simp
    · by_cases g : a + 1 ≤ x ∧ x < a + 1 + r.length
      · have e : x - a = (x - (a + 1)) + 1 := by omega
        rw [if_pos g, if_pos (by simp; omega), e, List.getD_cons_succ]
      · rw [if_neg g, if_neg h, if_neg (by simp; omega)]

theorem memByte_memPutsBut (hs : List Nat) (bs : List Byte) : ∀ (m : List Host.Cell) (a i x : Nat),
    memByte (memPutsBut hs m a i bs) x =
      if a + i ≤ x ∧ x < a + i + bs.length ∧ x - a ∉ hs then bs.getD (x - (a + i)) 0 else memByte m x := by
  induction bs with
  | nil => intro m a i x; rw [if_neg (by simp; omega)]; rfl
  | cons b r ih =>
    intro m a i x
    have hput : memByte (if hs.contains i then m else memPut m (a + i) b) x =
        if x = a + i ∧ i ∉ hs then b else memByte m x := by
      by_cases h : i ∈ hs
      · simp [h]
      · simp [h, memByte_memPut]
    rw [memPutsBut, ih, hput]
    by_cases h : x = a + i
    · subst h
      simp
    · by_cases g : a + (i + 1) ≤ x ∧ x < a + (i + 1) + r.length ∧ x - a ∉ hs
      · have e : x - (a + i) = (x - (a + (i + 1))) + 1 := by omega
        rw [if_pos g, if_pos ⟨by omega, by simp; omega, g.2.2⟩, e, List.getD_cons_succ]
      · rw [if_neg g, if_neg (by simp [h]), if_neg]
        rintro ⟨h1, h2, h3⟩
        exact g ⟨by omega, by simp at h2; omega, h3⟩

/-! ## Writes at the home slice where nothing is traced (03 R64, R84; 04 R90; 17 R384) -/

/-- Without an armed region no VALUE record is made. -/
theorem valueTrace_of_untraced {s : State} (h : ∀ p, p ∈ s.funcs → ∀ v, v ∈ p.2.dbg.vtrs → v.pages = []) (old new : List Host.Cell)
    (w : Nat → Nat → Writer) (spa n : Nat) (hs : List Nat) : valueTrace s old new w spa n hs = s := by
  unfold valueTrace
  refine foldl_of_fixed (fun p hp => foldl_of_fixed (fun x hx => ?_))
  have hv : x.1 ∈ p.2.dbg.vtrs := by
    obtain ⟨v, i⟩ := x
    exact List.mem_of_getElem? (List.mk_mem_zipIdx_iff_getElem?.mp hx)
  simp [h p hp x.1 hv]

theorem homeTouch_funcs (s : State) (line : Nat) : (homeTouch s line).funcs = s.funcs := by rw [homeTouch_frame]

/-- What a write at the home slice is, where nothing is traced. -/
theorem homeWriteBy_of_untraced {s : State} (h : Untraced s) (w : Nat → Nat → Writer) (spa : Nat) (bytes : List Byte) (hs : List Nat) :
    homeWriteBy s w spa bytes hs =
      { homeTouch s (spa / 64) with
        mem := if hs.isEmpty then memPuts s.mem spa bytes else memPutsBut hs s.mem spa 0 bytes,
        memPois := if bytes.length = 64 ∧ hs.isEmpty = true then setDel (homeTouch s (spa / 64)).memPois (spa / 64)
          else (homeTouch s (spa / 64)).memPois,
        llcPois := if bytes.length = 64 ∧ hs.isEmpty = true then (homeTouch s (spa / 64)).llcPois.filter (fun i => i / 16 != spa / 64)
          else (homeTouch s (spa / 64)).llcPois,
        eccs := (homeTouch s (spa / 64)).eccs.filter (fun a =>
          !(decide (spa ≤ a ∧ a < spa + bytes.length) && !hs.contains (a - spa))) } := by
  unfold homeWriteBy
  simp only [homeTouch_mem]
  exact valueTrace_of_untraced (fun p hp => h.regions p (by rwa [← homeTouch_funcs s (spa / 64)])) _ _ _ _ _ _

/-- It changes memory, the marks of its poison and the marks of speculative reads. -/
theorem homeWriteBy_frame {s : State} (h : Untraced s) (w : Nat → Nat → Writer) (spa : Nat) (bytes : List Byte) (hs : List Nat) :
    homeWriteBy s w spa bytes hs = { s with
      mem := (homeWriteBy s w spa bytes hs).mem, memPois := (homeWriteBy s w spa bytes hs).memPois,
      llcPois := (homeWriteBy s w spa bytes hs).llcPois, eccs := (homeWriteBy s w spa bytes hs).eccs,
      specs := (homeWriteBy s w spa bytes hs).specs } := by
  rw [homeWriteBy_of_untraced h, homeTouch_frame]

/-- It puts the bytes it carries into memory, and no others. -/
theorem homeWriteBy_byte {s : State} (h : Untraced s) (w : Nat → Nat → Writer) (spa : Nat) (bytes : List Byte) (hs : List Nat) (x : Nat) :
    memByte (homeWriteBy s w spa bytes hs).mem x =
      if spa ≤ x ∧ x < spa + bytes.length ∧ x - spa ∉ hs then bytes.getD (x - spa) 0 else memByte s.mem x := by
  rw [homeWriteBy_of_untraced h]
  cases hs with
  | nil => simp [memByte_memPuts]
  | cons a r => simp [memByte_memPutsBut]

end Sys2Proof.Machine
end

section
open Sys2Proof Sys2Proof.Machine

namespace Sys2Proof.Machine

/-! ## What a step does with its move -/

/-- With power, the move at the head of the agenda is the step's (11; log 4). -/
theorem step_agenda {s : State} {m : Move} {r : List Move} (hp : s.powered = true) (ha : s.agenda = m :: r) :
    step s = runMove { s with agenda := r } m := by
  simp [step, nextMove, ha, hp]

/-- With power and nothing on the agenda, a run in progress goes on. -/
theorem step_running {s : State} {c q : Nat} (hp : s.powered = true) (ha : s.agenda = []) (hr : runningQuarter s = some (c, q)) :
    step s = runMove s (.issue c q) := by
  simp [step, nextMove, autoStep, ha, hp, hr]

theorem runMove_next {s t : State} {m : Move} (h : doMove s m = .next t) : runMove s m = .next (syncSaved s t) := by
  simp [runMove, h]

theorem runMove_fault {s : State} {m : Move} {e : Fault} (h : doMove s m = .fault e) : runMove s m = .fault e := by
  simp [runMove, h]

/-- An issue slot whose word decodes runs its meaning, and the run moves on. -/
theorem issueMove_decoded {s t : State} {c q : Nat} {r : Run} {x : Ctx} {i : Instr} (hr : (s.quarter c q).run = some r)
    (hx : (beginIssue s c q r).issue? = some x) (hd : decode x.word = .ok i) (he : exec i (beginIssue s c q r) = .next t) :
    issueMove s c q = .next (endIssue t c q) := by
  simp [issueMove, hr, hx, hd, he]

/-- An issue slot whose word stands for no instruction traps (06 R143). -/
theorem issueMove_illegal {s : State} {c q : Nat} {r : Run} {x : Ctx} {e : BadWord} (hr : (s.quarter c q).run = some r)
    (hx : (beginIssue s c q r).issue? = some x) (hd : decode x.word = .error e) :
    issueMove s c q = .next (endIssue (illegalTrap (beginIssue s c q r) x) c q) := by
  simp [issueMove, hr, hx, hd]

/-- A cluster without counter banks counts nothing (17 R387). -/
theorem countEvent_of_no_banks {s : State} {cl : Nat} (h : (s.cluster cl).banks = []) (f code n : Nat) :
    countEvent s cl f code n = s := by
  simp [countEvent, h]

/-- A run of one group whose block goes on has its next word next. -/
theorem Run.next_of_one_group {r : Run} {g : Group} (hg : r.groups = [g]) (hp : g.port = r.port) (hlt : r.port < 2)
    (hw : r.idx + 1 < g.words.length) : r.next r.idx r.port = some (r.idx + 1, r.port) := by
  have h01 : r.port = 0 ∨ r.port = 1 := by omega
  rcases h01 with h | h <;> simp [Run.next, Run.has, hg, hp, h, hw]

/-- A word in the middle of its block, without S, where nothing watches or counts: only the run's index moves. -/
theorem endIssue_mid {s : State} {c q : Nat} {r : Run} {g : Group} {t : Slot} (hr : (s.quarter c q).run = some r)
    (ht : s.slot? c r.wave = some t) (hg : r.groups = [g]) (hp : g.port = r.port) (hlt : r.port < 2)
    (hw : r.idx + 1 < g.words.length) (hs : wordS (g.words.getD r.idx 0) = false) (hwt : t.watches = [])
    (hb : (s.cluster (clusterOf c)).banks = []) :
    endIssue s c q = ({ s with cur := none } : State).modRun c q (fun x =>
      { x with idx := r.idx + 1, port := r.port, snap := if r.idx + 1 = x.idx then x.snap else none }) := by
  have hf : r.groups.find? (fun g => g.port == r.port) = some g := by simp [hg, hp]
  have hr' : (({ s with cur := none } : State).quarter c q).run = some r := hr
  have ht' : ({ s with cur := none } : State).slot? c r.wave = some t := ht
  have hb' : (({ s with cur := none } : State).cluster (clusterOf c)).banks = [] := hb
  simp only [endIssue, hr', hf, ht', hs, hwt, Run.next_of_one_group hg hp hlt hw, List.isEmpty_nil, if_true,
    Bool.false_eq_true, if_false, countEvent_of_no_banks hb']

/-- Settles O60: each move of a step is one of the lemmas above. -/
theorem stepRunsDecodedInstruction : Obligations.StepRunsDecodedInstruction := by
  refine ⟨?event, ?word, ?middle⟩
  case event =>
    intro s i r hp ha s'
    rw [step_agenda hp ha]
    exact ⟨fun t h => runMove_next h, fun e h => runMove_fault h⟩
  case word =>
    intro s s' c q run x hp hm hr hx
    have hstep : step s = runMove s' (.issue c q) := by
      rcases hm with ⟨r, ha, rfl⟩ | ⟨ha, hq, rfl⟩
      · exact step_agenda hp ha
      · exact step_running hp ha hq
    rw [hstep]
    exact ⟨fun i t hd he => runMove_next (issueMove_decoded hr hx hd he), fun e hd => runMove_next (issueMove_illegal hr hx hd)⟩
  case middle =>
    intro s c q r g t hr ht hg hp hlt hw hs hwt hb _
    refine ⟨_, rfl, ?_⟩
    have hr' : (({ s with cur := none } : State).quarter c q).run = some r := hr
    rw [endIssue_mid hr ht hg hp hlt hw hs hwt hb]
    refine ⟨?_, rfl, ?_, rfl⟩
    · simp [hr']
    · exact (State.slot?_modRun _ c q _ _).trans ht

end Sys2Proof.Machine
end

section
open Sys2Proof Sys2Proof.Machine

namespace Sys2Proof.Machine

/-! ## Arms of exec -/

@[simp] theorem exec_coreWorkRequest_eq (c : Nat) (s : State) : exec (.coreWorkRequest c) s = execCoreWorkRequest c s := by rfl
@[simp] theorem exec_cardBegin_eq (q : Nat) (s : State) : exec (.cardBegin q) s = execCardBegin q s := by rfl
@[simp] theorem exec_depctrPoll_eq (q : Nat) (s : State) : exec (.depctrPoll q) s = execDepctrPoll q s := by rfl
@[simp] theorem exec_jobComplete_eq (q : Nat) (n : W32) (s : State) : exec (.jobComplete q n) s = execJobComplete q n s := by rfl
@[simp] theorem exec_sievePostExamine_eq (s : State) : exec .sievePostExamine s = execSievePostExamine s := by rfl
@[simp] theorem exec_deckleWorkRequest_eq (d : Nat) (s : State) : exec (.deckleWorkRequest d) s = execDeckleWorkRequest d s := by rfl

/-! ## Cards of a queue -/

@[simp] theorem State.queue_modCard (s : State) (q : Nat) (n : W32) (g : Card → Card) :
    (s.modCard q n g).queue q = { s.queue q with cards := (s.queue q).cards.map (fun k => if k.seq = n then g k else k) } := by
  simp [State.modCard]

@[simp] theorem State.core_modCard (s : State) (q : Nat) (n : W32) (g : Card → Card) (c : Nat) :
    (s.modCard q n g).core c = s.core c := rfl

@[simp] theorem State.queue_modCore (s : State) (c : Nat) (g : Core → Core) (q : Nat) : (s.modCore c g).queue q = s.queue q := rfl
@[simp] theorem State.card?_modCore (s : State) (c : Nat) (g : Core → Core) (q : Nat) (n : W32) :
    (s.modCore c g).card? q n = s.card? q n := rfl

/-- The card of a SEQ after a change of it that keeps its SEQ. -/
theorem State.card?_modCard {s : State} {q : Nat} {n : W32} {g : Card → Card} (hg : ∀ k, (g k).seq = k.seq) :
    (s.modCard q n g).card? q n = (s.card? q n).map g := by
  simp only [State.card?, State.queue_modCard]
  induction (s.queue q).cards with
  | nil => rfl
  | cons k r ih =>
    by_cases h : k.seq = n
    · simp [h, hg]
    · simp [h, ih]

/-- What a SEQ finds has that SEQ. -/
theorem State.seq_of_card? {s : State} {q : Nat} {n : W32} {k : Card} (h : s.card? q n = some k) : k.seq = n := by
  simpa using List.find?_some h

/-- The only card of a queue is found by its SEQ. -/
theorem State.card?_only {s : State} {q : Nat} {k : Card} (h : (s.queue q).cards = [k]) : s.card? q k.seq = some k := by
  simp [State.card?, h]

/-! ## The dealer (01 R34; 15 R341) -/

/-- A fold that keeps what it has or takes the next element ends with an element of its list. -/
theorem foldl_pick_mem {α : Type} {f : Option α → α → Option α} (hf : ∀ m a, f m a = some a ∨ f m a = m) {p : α} :
    ∀ (l : List α) (m : Option α), l.foldl f m = some p → p ∈ l ∨ m = some p := by
  intro l
  induction l with
  | nil => intro m h; exact .inr h
  | cons a r ih =>
    intro m h
    rcases ih (f m a) h with hp | hp
    · exact .inl (List.mem_cons_of_mem _ hp)
    · rcases hf m a with e | e <;> rw [e] at hp
      · exact .inl (by simp at hp; simp [hp])
      · exact .inr hp

/-- The dealer chooses one of the cards it is shown. -/
theorem chooseCard_mem {s : State} {last : Nat} {cards : List (Nat × Card)} {p : Nat × Card} (h : chooseCard s last cards = some p) :
    p ∈ cards := by
  unfold chooseCard at h
  refine (foldl_pick_mem ?_ cards none h).resolve_right (by simp)
  intro m a
  cases m with
  | none => exact .inl rfl
  | some x => dsimp only; split <;> simp

/-- No begun card of function f with undealt records names coordinates. -/
def Unplaced (s : State) (f : Nat) : Prop := ∀ p, p ∈ begunCards s f → ∀ l, p.2.launch = some l → l.coord = 0xFFFF

/-- The card the dealer deals from is one of the begun ones. -/
theorem chosen_begun {s : State} {f c last q : Nat} {k : Card} (h : chooseCard s last (dealable s f c) = some (q, k)) :
    (q, k) ∈ begunCards s f := List.mem_of_mem_filter (chooseCard_mem h)

/-- The dealer serves a request from a card without coordinates: the first records of its pool, as many as R34 says. -/
theorem execCoreWorkRequest_deals {s : State} {c f q : Nat} {k : Card} {l : Launch} {rs : List Nat} (hf : (s.core c).vf = some f)
    (hrdy : (s.core c).ready = true) (hu : Unplaced s f) (hw : requestsWork s c = true) (hlow : lowestRequest s c = true)
    (hc : chooseCard s (s.core c).lastQ (dealable s f c) = some (q, k)) (hl : k.launch = some l)
    (hrs : (poolFor s q k l c).take (chunkSize (poolFor s q k l c).length k.minchunk k.divisor (eligible s q k l c)) = rs) :
    execCoreWorkRequest c s =
      .next ((s.modCard q k.seq (fun d => { d with undealt := rs.foldl rangesDrop d.undealt })).modCore c
        (fun x => { x with lastQ := q, held := x.held ++ [{ q := q, seq := k.seq, cls := (s.queue q).cls, recs := rs }] })) := by
  have hcoord : l.coord = 0xFFFF := hu (q, k) (chosen_begun hc) l hl
  simp only [execCoreWorkRequest, hf, hrdy]
  rw [foldl_of_fixed]
  · simp [hw, hlow, hc, hl, hcoord, hrs]
  · intro p hp
    split
    · next l' hl' => rw [if_pos (hu p hp l' hl')]
    · rfl

/-- A core waits while one of a lower number has a request that can be served. -/
theorem lowestRequest_false {s : State} {c d f : Nat} (hd : d < c) (hk : d ∈ s.cores.map Prod.fst) (hr : requestsWork s d = true)
    (hf : (s.core d).vf = some f) (hne : dealable s f d ≠ []) : lowestRequest s c = false := by
  have hm : (d, s.core d) ∈ s.cores := Tab.mem_of_key Core.idle hk
  simp only [lowestRequest, List.all_eq_false]
  exact ⟨_, hm, by simp [hf, hr, hne]; omega⟩

theorem execCoreWorkRequest_waits {s : State} {c f : Nat} (hf : (s.core c).vf = some f) (hu : Unplaced s f)
    (hlow : lowestRequest s c = false) (hreq : ∀ r, r ∈ s.reqs → r.cluster ≠ 128) :
    execCoreWorkRequest c s = .fault .notEnabled := by
  have hno : s.reqs.any (fun r => r.cluster == 128) = false := by simpa using hreq
  simp only [execCoreWorkRequest, hf]
  rw [foldl_of_fixed]
  · simp [hlow, hno]
  · intro p hp
    split
    · next l' hl' => rw [if_pos (hu p hp l' hl')]
    · rfl

/-- The pool of one range lists its records. -/
theorem rangesTake_one (a z : Nat) : rangesTake [(a, z)] (rangesLen [(a, z)]) = (List.range (z - a)).map (a + ·) := by
  simp [rangesTake, rangesLen]

/-- A range without its first n records. -/
theorem rangesDrop_first {a z n : Nat} (haz : a < z) (hn : a + n ≤ z) :
    ((List.range n).map (a + ·)).foldl rangesDrop [(a, z)] = if a + n < z then [(a + n, z)] else [] := by
  induction n with
  | zero => simp [haz]
  | succ n ih =>
    have hlt : a + n < z := by omega
    have hge : ¬ z ≤ a + n := by omega
    rw [List.range_succ, List.map_append, List.foldl_append, ih (by omega), if_pos hlt]
    simp [rangesDrop, hge, Nat.add_assoc]

theorem dealCutsChunk : DealCutsChunk := by
  intro s c f q a z k l hf hrdy hu hw hlow hc hl hcoord hcard hpool haz e n
  have hp : poolFor s q k l c = (List.range (z - a)).map (a + ·) := by
    simp only [poolFor, hcoord, if_true, hpool]
    exact rangesTake_one a z
  have hn : chunkSize (z - a) k.minchunk k.divisor (eligible s q k l c) = n := rfl
  have hle : n ≤ z - a := Nat.min_le_left _ _
  have hrs : (poolFor s q k l c).take (chunkSize (poolFor s q k l c).length k.minchunk k.divisor (eligible s q k l c)) =
      (List.range n).map (a + ·) := by
    rw [hp, List.length_map, List.length_range, hn, ← List.map_take, List.take_range, Nat.min_eq_left hle]
  refine ⟨_, (exec_coreWorkRequest_eq c s).trans (execCoreWorkRequest_deals hf hrdy hu hw hlow hc hl hrs), rfl, by simp, by simp, ?_⟩
  rw [State.card?_modCore, State.card?_modCard]
  · simp [hcard, hpool, rangesDrop_first haz (by omega : a + n ≤ z)]
  · exact fun _ => rfl

/-! ## Cards begin, and the counters they wait on (15 R338 to R340) -/

/-- A copy that stands in its slot is not written again. -/
theorem writeSlot_of_written {s : State} {q : Nat} {n : W32} {k : Card} (h : s.card? q n = some k) (hw : k.unwritten = false) :
    writeSlot s q n = s := by
  simp [writeSlot, h, hw]

/-- A slot that has been read is not read again. -/
theorem readSlot_of_read {s : State} {q : Nat} {n : W32} {k : Card} (h : s.card? q n = some k) (hr : k.read = true) :
    readSlot s q n = s := by
  simp [readSlot, h, hr]

/-- A card that is read and waits on no counter begins. -/
theorem execCardBegin_begins {s s' : State} {q : Nat} {k k' : Card} (hn : nextCard s q = some k)
    (hs : readSlot (writeSlot s q k.seq) q k.seq = s') (hk : s'.card? q k.seq = some k') (hst : k'.status = none)
    (hr : k'.read = true) (hc : (s'.queue q).names k'.waitc = false) : execCardBegin q s = .next (beginCard s' q k.seq) := by
  simp [execCardBegin, hn, hs, hk, hst, hr, hc]

/-- A card of KIND 0 with a legal launch record without rings opens with that launch (01 R25, R32). -/
theorem beginCard_launches {s s1 : State} {q : Nat} {n : W32} {k : Card} {ps : Pages} {b : List Byte} {m : List Nat}
    (hk : s.card? q n = some k) (hok : cardOk (s.queue q) k = true) (h0 : k.kind = 0) (he : k.entry.toNat % 64 = 0)
    (hr : engRecord s (queueAt s q) k.waits k.entry.toNat 128 = (s1, ps, .ok b m)) (hl : launchOk s1 (s.queue q).owner b = true)
    (hg : launchRings b = 0) (ha : recNat b 18 2 ≤ k.stride) :
    beginCard s q n = openCard s1 q n (fun k' => { k' with launch := some (parseLaunch k.entry b []), waits := ps }) := by
  have hrings : (parseLaunch k.entry b []).rings = [] := by simp [parseLaunch, hg]
  have hargs : ¬ k.stride < (parseLaunch k.entry b []).argsz := Nat.not_lt.mpr ha
  simp [beginCard, hk, hok, h0, he, hr, hl, hg, hrings, hargs, ringsOk]

/-- A card with records opens: it has begun, and they lie in its pool. -/
theorem openCard_of_count {s : State} {q : Nat} {n : W32} {k : Card} (hk : s.card? q n = some k) (hc : k.count ≠ 0) (g : Card → Card) :
    openCard s q n g = s.modCard q n (fun k' => { g k' with begun := true, undealt := [(0, k'.count)] }) := by
  simp [openCard, hk, hc]

theorem cardBegins : CardBegins := by
  intro s s1 q k ps b m hn hk hread hwr hst hc hok h0 he hcnt hr hk1 hl hg ha
  have hslot : readSlot (writeSlot s q k.seq) q k.seq = s := by rw [writeSlot_of_written hk hwr, readSlot_of_read hk hread]
  have hexec := execCardBegin_begins hn hslot hk hst hread hc
  rw [beginCard_launches hk hok h0 he hr hl hg ha, openCard_of_count hk1 hcnt] at hexec
  refine ⟨_, { k with launch := some (parseLaunch k.entry b []), waits := ps, begun := true, undealt := [(0, k.count)] },
    parseLaunch k.entry b [], (exec_cardBegin_eq q s).trans hexec, rfl, ?_, rfl, rfl, hst, rfl, rfl, by simp [parseLaunch, hg], rfl⟩
  rw [State.card?_modCard]
  · simp [hk1]
  · exact fun _ => rfl

/-- DEPCTR_POLL of the next card, which still waits, reads its counter. -/
theorem execDepctrPoll_polls {s : State} {q : Nat} {k c : Card} (hn : nextCard s q = some k) (hread : k.read = true)
    (hp : k.polled = true) (hd : k.depOk = false) (hc : (s.queue q).names k.waitc = true)
    (hk : (pollCounter s q k.seq).card? q k.seq = some c) (hst : c.status = none) :
    execDepctrPoll q s = .next (pollCounter s q k.seq) := by
  simp [execDepctrPoll, hn, hread, hp, hd, hc, hk, hst]

@[simp] theorem State.card?_homeTouch (s : State) (line q : Nat) (n : W32) : (homeTouch s line).card? q n = s.card? q n := by
  rw [homeTouch_frame]; rfl

/-- A counter in HBM4 is read at its home slice (15 R340). -/
theorem pollCounter_hbm {s s1 : State} {q a : Nat} {n : W32} {k : Card} {ps : Pages} (hk : s.card? q n = some k)
    (hc : counterAt s q k.waitc k.waits = (s1, ps, .at_ (.hbm a))) (hp : s1.linePois a = false) :
    pollCounter s q n = (homeTouch s1 (a / 64)).modCard q n (fun k' =>
      { k' with polled := true, depOk := leNat (s1.bytesAt a 4) == 0, waits := ps }) := by
  simp [pollCounter, hk, hc, ctrRead, hp]

theorem counterRead : CounterRead := by
  intro s s1 q a k ps hn hk hread hp hd hst hc hat hk1 hpois
  have hpoll := pollCounter_hbm hk hat hpois
  have hcard : (pollCounter s q k.seq).card? q k.seq =
      some { k with polled := true, depOk := leNat (s1.bytesAt a 4) == 0, waits := ps } := by
    rw [hpoll, State.card?_modCard]
    · simp [hk1]
    · exact fun _ => rfl
  refine ⟨_, (exec_depctrPoll_eq q s).trans (execDepctrPoll_polls hn hread hp hd hc hcard hst), ?_, hcard⟩
  simp [hpoll]

/-! ## Cards complete (01 R28, R33; 15 R338, R340) -/

/-- A signal given is not given again. -/
theorem signalCounter_of_signalled {s : State} {q : Nat} {n : W32} {k : Card} (h : s.card? q n = some k) (hs : k.signalled = true) :
    signalCounter s q n = s := by
  simp [signalCounter, h, hs]

/-- A card that names no counter has none to signal. -/
theorem signalCounter_of_unnamed {s : State} {q : Nat} {n : W32} {k : Card} (h : s.card? q n = some k) (hs : k.signalled = false)
    (hn : (s.queue q).names k.sigc = false) : signalCounter s q n = s.modCard q n (fun k => { k with signalled := true }) := by
  simp [signalCounter, h, hs, hn]

/-- The last step of a card's completion, once its signal and its record are out: what else ends with it, and its slot. -/
def closeCard (s : State) (q : Nat) (n : W32) (k : Card) : State :=
  ((freeCard (meetDeadline (forgetReads s (queueAt s q)) q n) k).modCard q n (fun k => { k with closed := true, waits := [] })).modQueue q
    (fun k => k.advance k.cards.length)

/-- A card that is signalled closes at once where it asks for no record. -/
theorem finishCard_without_record {s s1 : State} {q : Nat} {n : W32} {k k1 : Card} {st : Nat} (hk : s.card? q n = some k)
    (hst : k.status = some st) (hs : signalCounter s q n = s1) (hk1 : s1.card? q n = some k1) (hst1 : k1.status = some st)
    (hsig : k1.signalled = true) (hcl : k1.closed = false) (hd : k1.done = 0) : finishCard s q n = closeCard s1 q n k1 := by
  simp [finishCard, hk, hst, hs, hk1, hst1, hsig, hcl, hd, closeCard]

/-- With a record due, it closes once the record is written. -/
theorem finishCard_with_record {s s1 : State} {q : Nat} {n : W32} {k : Card} {st : Nat} {ps : Pages} (hk : s.card? q n = some k)
    (hst : k.status = some st) (hsig : k.signalled = true) (hcl : k.closed = false) (hd : k.done ≠ 0) (ha : k.done.toNat % 16 = 0)
    (hw : ownerWrite s (queueAt s q) k.waits k.done (doneRecord k.tag st k.finished) = (s1, ps, true)) :
    finishCard s q n = closeCard s1 q n k := by
  simp [finishCard, hk, hst, signalCounter_of_signalled hk hsig, hsig, hcl, show k.done ≠ 0#64 from hd, ha, hw, closeCard]

/-- HEADSEQ passes the only card of a queue once it is closed. -/
theorem Queue.advance_only {t : Queue} {c : Card} (h : t.cards = [c]) (hc : c.closed = true) :
    t.advance t.cards.length = { t with cards := [], headseq := c.seq + 1 } := by
  simp [h, Queue.advance, hc]

/-- A card that carries no batch and no message leaves nothing behind. -/
theorem freeCard_plain {k : Card} (hb : k.batch = none) (hm : k.mfe = none) (s : State) : freeCard s k = s := by
  simp [freeCard, hb, hm]

theorem meetDeadline_of_none {s : State} {q : Nat} (h : (s.queue q).deadline = none) (n : W32) : meetDeadline s q n = s := by
  simp [meetDeadline, h]

section
variable {s : State} {q : Nat} {k c : Card} (hq : (s.queue q).cards = [c]) (hseq : c.seq = k.seq) (hb : k.batch = none)
  (hm : k.mfe = none) (hdl : (s.queue q).deadline = none)
include hb hm hdl

/-- What closing a plain card of a queue without a deadline changes. -/
theorem closeCard_plain (n : W32) : closeCard s q n k =
    ((forgetReads s (queueAt s q)).modCard q n (fun k => { k with closed := true, waits := [] })).modQueue q
      (fun k => k.advance k.cards.length) := by
  have h : ((forgetReads s (queueAt s q)).queue q).deadline = none := hdl
  simp only [closeCard, freeCard_plain hb hm, meetDeadline_of_none h]

theorem closeCard_mem (n : W32) : (closeCard s q n k).mem = s.mem := by
  rw [closeCard_plain hb hm hdl]; rfl

theorem closeCard_posts (n : W32) : (closeCard s q n k).sched.posts = s.sched.posts := by
  rw [closeCard_plain hb hm hdl]; rfl

include hq hseq

/-- The only card of a queue closes: the queue is empty, HEADSEQ past it. -/
theorem closeCard_only : (closeCard s q k.seq k).queue q = { s.queue q with cards := [], headseq := k.seq + 1 } := by
  have h : (forgetReads s (queueAt s q)).queue q = s.queue q := rfl
  rw [closeCard_plain hb hm hdl, State.queue_modQueue, State.queue_modCard, h, hq,
    Queue.advance_only (c := { c with closed := true, waits := [] }) (by simp [hseq]) rfl, hseq]

end

/-- A queue that is not withdrawn has no withdrawal to end. -/
theorem endWithdraw_of_not {s : State} {q : Nat} (h : (s.queue q).withdrawn = false) : endWithdraw s q = s := by
  simp [endWithdraw, h]

/-- A card all of whose units are done and released completes with status 0, or 4 where its queue is withdrawn. -/
theorem execJobComplete_completes {s : State} {q : Nat} {n : W32} {k : Card} (hk : s.card? q n = some k) (hcl : k.closed = false)
    (hst : k.status = none) (hb : k.begun = true) (hl : k.live = 0) (hu : unstarted s q k = false) (hr : jobReleased s q k = true)
    (hread : k.read = true) (hw : k.unwritten = false) : execJobComplete q n s = .next (completeCard s q n) := by
  simp [execJobComplete, hk, hcl, hst, hb, hl, hu, hr, writeSlot_of_written hk hw, readSlot_of_read hk hread, hread]

/-- A card that has its status goes on to its end. -/
theorem execJobComplete_finishes {s : State} {q : Nat} {n : W32} {k : Card} (hk : s.card? q n = some k) (hcl : k.closed = false)
    (hst : k.status ≠ none) : execJobComplete q n s = .next (endWithdraw (finishCard s q n) q) := by
  simp [execJobComplete, hk, hcl, Option.isSome_iff_ne_none, hst]

/-- The only card of a queue, without a record to write, is over: nothing is written, the queue is empty, HEADSEQ past the card. -/
theorem finishCard_only {s : State} {q st : Nat} {k : Card} (hq : (s.queue q).cards = [k]) (hst : k.status = some st)
    (hcl : k.closed = false) (hb : k.batch = none) (hm : k.mfe = none) (hdl : (s.queue q).deadline = none)
    (hsig : k.signalled = true ∨ (s.queue q).names k.sigc = false) (hd : k.done = 0) :
    (finishCard s q k.seq).mem = s.mem ∧ (finishCard s q k.seq).sched.posts = s.sched.posts ∧
      (finishCard s q k.seq).queue q = { s.queue q with cards := [], headseq := k.seq + 1 } := by
  have hk := State.card?_only hq
  cases hs : k.signalled with
  | true =>
    rw [finishCard_without_record hk hst (signalCounter_of_signalled hk hs) hk hst hs hcl hd]
    exact ⟨closeCard_mem hb hm hdl _, closeCard_posts hb hm hdl _, closeCard_only hq rfl hb hm hdl⟩
  | false =>
    have hn : (s.queue q).names k.sigc = false := hsig.resolve_left (by simp [hs])
    have hq1 : ((s.modCard q k.seq (fun k => { k with signalled := true })).queue q).cards = [{ k with signalled := true }] := by
      simp [hq]
    have hfin := finishCard_without_record (k1 := { k with signalled := true }) hk hst (signalCounter_of_unnamed hk hs hn)
      (State.card?_only hq1) hst rfl hcl hd
    rw [hfin]
    refine ⟨closeCard_mem hb hm (by simpa using hdl) _, closeCard_posts hb hm (by simpa using hdl) _, ?_⟩
    rw [closeCard_only hq1 rfl hb hm (by simpa using hdl)]
    simp

/-- A record of a card is sixteen bytes (01 R33). -/
theorem leBytes_length (n v : Nat) : (leBytes n v).length = n := by
  induction n generalizing v with
  | zero => rfl
  | succ n ih => simp [leBytes, ih]

theorem doneRecord_length (tag : W64) (st n : Nat) : (doneRecord tag st n).length = 16 := by
  simp [doneRecord, leBytes_length]

@[simp] theorem queueAt_core (s : State) (q : Nat) : (queueAt s q).core = none := rfl

/-- A queue's write that reaches HBM4 is a write at the home slice. -/
theorem ownerWrite_hbm {s s1 : State} {q a : Nat} {ps ps' : Pages} {va : W64} {b : List Byte}
    (h : engProbe s (queueAt s q) ps va b.length false = (s1, ps', .to (.hbm a))) :
    ownerWrite s (queueAt s q) ps va b = (homeWriteBy s1 (fun _ _ => (queueAt s q).writer) a b [], ps', true) := by
  simp [ownerWrite, h, engWrite, engPush, EngAt.entry, Target.spa?]

theorem homeWriteBy_queue {s : State} (h : Untraced s) (w : Nat → Nat → Writer) (spa : Nat) (bytes : List Byte) (hs : List Nat)
    (q : Nat) : (homeWriteBy s w spa bytes hs).queue q = s.queue q := by
  rw [homeWriteBy_frame h]; rfl

theorem cardCompletes : CardCompletes := by
  intro s q n k hq hseq hcl hb hm hdl hwd
  subst hseq
  have hk := State.card?_only hq
  refine ⟨?plain, ?record⟩
  case plain =>
    intro hst hbeg hl hu hr hread hw hn hd
    have hq0 : ((s.modCard q k.seq (fun k => { k with begun := true, status := some 0 })).queue q).cards =
        [{ k with begun := true, status := some 0 }] := by simp [hq]
    obtain ⟨hmem, -, hqueue⟩ := finishCard_only hq0 rfl hcl hb hm (by simpa using hdl) (.inr (by simpa [Queue.names] using hn)) hd
    refine ⟨_, (exec_jobComplete_eq q k.seq s).trans (execJobComplete_completes hk hcl hst hbeg hl hu hr hread hw), ?_⟩
    simp only [completeCard, hwd, Bool.false_eq_true, if_false]
    rw [endWithdraw_of_not (by rw [hqueue]; simpa using hwd)]
    exact ⟨hmem, by rw [hqueue], by rw [hqueue]⟩
  case record =>
    intro s1 ps st a hst hsig hd ha hprobe hs1 hun
    have hlen : (doneRecord k.tag st k.finished).length = 16 := doneRecord_length _ _ _
    have hw := ownerWrite_hbm (b := doneRecord k.tag st k.finished) (hlen ▸ hprobe)
    have hqw := (homeWriteBy_queue hun (fun _ _ => (queueAt s q).writer) a (doneRecord k.tag st k.finished) [] q).trans hs1
    have hclosed := closeCard_only (k := k) (hqw ▸ hq) rfl hb hm (hqw ▸ hdl)
    refine ⟨_, (exec_jobComplete_eq q k.seq s).trans (execJobComplete_finishes hk hcl (by simp [hst])), ?_⟩
    rw [finishCard_with_record hk hst hsig hcl hd ha hw, endWithdraw_of_not (by rw [hclosed, hqw]; exact hwd)]
    refine ⟨by rw [hclosed], by rw [hclosed], fun x => ?_⟩
    rw [closeCard_mem hb hm (hqw ▸ hdl), homeWriteBy_byte hun, hlen]
    simp [doneRecord]

/-! ## Posts between tenants (15 R350) -/

@[simp] theorem putPost_mem (s : State) (p : Option Post) : (putPost s p).mem = s.mem := rfl
@[simp] theorem putPost_queue (s : State) (p : Option Post) (q : Nat) : (putPost s p).queue q = s.queue q := rfl

/-- Putting nothing in the place of the post under examination drops it. -/
theorem putPost_none {s : State} {p : Post} {ps : List Post} (h : s.sched.posts = p :: ps) :
    putPost s none = { s with sched := { s.sched with posts := ps } } := by
  simp [putPost, h]

/-- A poster who asked for no record gets none: the post is done with. -/
theorem posterRecord_of_none {s : State} {p : Post} (h : recNat p.card 32 8 = 0) (ok : Bool) : posterRecord s p ok = putPost s none := by
  simp [posterRecord, h]

/-- A post that no filter admits is denied. -/
theorem execSievePostExamine_denies {s : State} {p : Post} {ps : List Post} (hp : s.sched.posts = p :: ps) (hr : s.rdy.sieve = true)
    (hv : p.verdict = none) (hf : filterFor s p.poster p.q = none) : execSievePostExamine s =
      .next (posterRecord (denyPost (putPost s (some { p with verdict := some false })) { p with verdict := some false })
        { p with verdict := some false } false) := by
  simp [execSievePostExamine, hp, hr, hv, hf]

/-- A decided post goes on: an admitted one to its slot and its record. -/
theorem execSievePostExamine_admitted {s : State} {p : Post} {ps : List Post} (hp : s.sched.posts = p :: ps) (hr : s.rdy.sieve = true)
    (hv : p.verdict = some true) : execSievePostExamine s = .next (finishPost s p) := by
  simp [execSievePostExamine, hp, hr, hv]

/-- A denied one to its record. -/
theorem execSievePostExamine_denied {s : State} {p : Post} {ps : List Post} (hp : s.sched.posts = p :: ps) (hr : s.rdy.sieve = true)
    (hv : p.verdict = some false) : execSievePostExamine s = .next (posterRecord s p false) := by
  simp [execSievePostExamine, hp, hr, hv]

/-- A post that a filter admits, and whose message is placed, goes on as admitted. -/
theorem execSievePostExamine_places {s s' : State} {p p' : Post} {ps : List Post} {i : Nat} {e : Filter}
    (hp : s.sched.posts = p :: ps) (hr : s.rdy.sieve = true) (hv : p.verdict = none) (hf : filterFor s p.poster p.q = some (i, e))
    (hcap : e.openMsgs < e.mcap) (hw : (s.queue p.q).withdrawals = p.withdrawals) (hm : placeMessage s p i e = (s', p'))
    (hv' : p'.verdict = some true) : execSievePostExamine s = .next (finishPost (putPost s' (some p')) p') := by
  have hcap' : ¬ e.mcap ≤ e.openMsgs := by omega
  simp [execSievePostExamine, hp, hr, hv, hf, hcap', hw, hm, hv']

/-- A card as its denial leaves it to be completed. -/
def Card.denied (k : Card) : Card :=
  { k with reserved := false, read := true, begun := true, signalled := true, status := some 3, done := 0 }

/-- The card of a denied post, the only one of its queue, completes without running. -/
theorem denyPost_only {s : State} {p : Post} {k : Card} (hq : (s.queue p.q).cards = [k]) (hseq : k.seq = p.seq)
    (hcl : k.closed = false) (hb : k.batch = none) (hm : k.mfe = none) (hdl : (s.queue p.q).deadline = none)
    (hwd : (s.queue p.q).withdrawn = false) :
    (denyPost s p).mem = s.mem ∧ (denyPost s p).sched.posts = s.sched.posts ∧
      (denyPost s p).queue p.q = { s.queue p.q with cards := [], headseq := p.seq + 1 } := by
  have hq0 : (s.modCard p.q p.seq Card.denied).queue p.q = { s.queue p.q with cards := [k.denied] } := by simp [hq, hseq]
  obtain ⟨hmem, hposts, hqueue⟩ := finishCard_only (k := k.denied) (congrArg Queue.cards hq0) rfl hcl hb hm (by rw [hq0]; exact hdl)
    (.inl rfl) rfl
  rw [show k.denied.seq = p.seq from hseq] at hmem hposts hqueue
  have hwd' : ((finishCard (s.modCard p.q p.seq Card.denied) p.q p.seq).queue p.q).withdrawn = false := by
    rw [hqueue, hq0]; exact hwd
  have hden : denyPost s p = finishCard (s.modCard p.q p.seq Card.denied) p.q p.seq := endWithdraw_of_not hwd'
  rw [hden, hqueue, hq0]
  exact ⟨hmem, hposts, rfl⟩

theorem postDecided : PostDecided := by
  intro s p ps k hp hr hd hq hseq
  refine ⟨?denied, ?admitted⟩
  case denied =>
    intro hv hf hcl hb hm hdl hwd
    let p' : Post := { p with verdict := some false }
    obtain ⟨hmem, hposts, hqueue⟩ := denyPost_only (s := putPost s (some p')) (p := p') hq hseq hcl hb hm hdl hwd
    have hposts' : (denyPost (putPost s (some p')) p').sched.posts = p' :: ps := by rw [hposts]; simp [putPost, hp]
    refine ⟨_, (exec_sievePostExamine_eq s).trans (execSievePostExamine_denies hp hr hv hf), ?_⟩
    rw [posterRecord_of_none (p := p') hd, putPost_queue, hqueue, putPost_mem, hmem, putPost_mem]
    exact ⟨rfl, by rw [putPost_none hposts'], rfl, rfl⟩
  case admitted =>
    intro hv hw
    have hk : s.card? p.q p.seq = some k := hseq ▸ State.card?_only hq
    refine (exec_sievePostExamine_eq s).trans ((execSievePostExamine_admitted hp hr hv).trans ?_)
    rw [finishPost, writeSlot_of_written hk hw]
    simp [hk, hw, posterRecord_of_none hd, putPost_none hp]

/-! ## Deckles (10 R237; 01 R34) -/

/-- A Deckle with a record and no run starts the record. -/
theorem execDeckleWorkRequest_starts {s : State} {d r : Nat} {k : Card} {rs : List Nat} {u : DkUnit} {us : List DkUnit}
    (hd : s.deckle d = u :: us) (hr : u.recs = r :: rs) (hn : u.run = none) (hk : s.card? u.q u.seq = some k) :
    execDeckleWorkRequest d s =
      .next ((({ s with nextUid := s.nextUid + 1 } : State).modCard u.q u.seq (fun k => { k with live := k.live + 1 })).setDeckle d
        ({ u with recs := rs, run := some (deckleCmd s u.q k r) } :: us)) := by
  simp [execDeckleWorkRequest, hd, hr, hn, hk]

/-- One without records takes some of the card it chooses. -/
theorem execDeckleWorkRequest_takes {s : State} {d q n : Nat} {k : Card} {rs : List Nat} (hd : s.deckle d = [])
    (hc : chooseCard s 1023 (deckleCards s d) = some (q, k))
    (hn : ((List.range 16).filter (fun d => deckleServes s d (s.queue q).owner && s.deckle d == [])).length = n)
    (hrs : rangesTake k.undealt (chunkSize (rangesLen k.undealt) k.minchunk k.divisor n) = rs) :
    execDeckleWorkRequest d s = .next ((s.modCard q k.seq (fun c => { c with undealt := rs.foldl rangesDrop c.undealt })).setDeckle d
      [{ q := q, seq := k.seq, recs := rs, run := none }]) := by
  simp only [execDeckleWorkRequest, hd, hc, hn, hrs]

/-- Settles O50: each of its clauses is a lemma above. -/
theorem queueEventsComplete : Obligations.QueueEventsComplete := by
  refine ⟨dealCutsChunk, cardBegins, counterRead, cardCompletes, postDecided, ?deals, ?waits, ?begins, ?polls, ?completes, ?finishes,
    ?posts, ?starts, ?takes⟩
  case deals =>
    intro s c f q k l hf hrdy hu hw hlow hc hl
    exact (exec_coreWorkRequest_eq c s).trans (execCoreWorkRequest_deals hf hrdy hu hw hlow hc hl rfl)
  case waits =>
    intro s c d f f' hf hu hd hk hr hf' hne hreq
    exact (exec_coreWorkRequest_eq c s).trans (execCoreWorkRequest_waits hf hu (lowestRequest_false hd hk hr hf' hne) hreq)
  case begins =>
    intro s s' q k k' hn hs hk hst hr hc
    exact (exec_cardBegin_eq q s).trans (execCardBegin_begins hn hs hk hst hr hc)
  case polls =>
    intro s q k c hn hr hp hd hc hk hst
    exact (exec_depctrPoll_eq q s).trans (execDepctrPoll_polls hn hr hp hd hc hk hst)
  case completes =>
    intro s q n k hk hcl hst hb hl hu hr hread hw
    exact (exec_jobComplete_eq q n s).trans (execJobComplete_completes hk hcl hst hb hl hu hr hread hw)
  case finishes =>
    intro s q n k hk hcl hst
    exact (exec_jobComplete_eq q n s).trans (execJobComplete_finishes hk hcl hst)
  case posts =>
    intro s p ps hp hr
    rw [exec_sievePostExamine_eq]
    exact ⟨execSievePostExamine_admitted hp hr, execSievePostExamine_denied hp hr, execSievePostExamine_denies hp hr,
      fun i e s' p' hv hf hcap hw hm hv' => execSievePostExamine_places hp hr hv hf hcap hw hm hv'⟩
  case starts =>
    intro s d r k rs u us hd hr hn hk
    exact (exec_deckleWorkRequest_eq d s).trans (execDeckleWorkRequest_starts hd hr hn hk)
  case takes =>
    intro s d q k hd hc
    exact (exec_deckleWorkRequest_eq d s).trans (execDeckleWorkRequest_takes hd hc rfl rfl)

end Sys2Proof.Machine
end

section
open Sys2Proof Sys2Proof.Machine

namespace Sys2Proof.Machine

/-! ## Arms of exec -/

@[simp] theorem exec_gangCreate_eq (c : Nat) (s : State) : exec (.gangCreate c) s = execGangCreate c s := by rfl
@[simp] theorem exec_gangAttach_eq (c w o : Nat) (s : State) : exec (.gangAttach c w o) s = execGangAttach c w o s := by rfl
@[simp] theorem exec_gangLeave_eq (c w : Nat) (s : State) : exec (.gangLeave c w) s = execGangLeave c w s := by rfl
@[simp] theorem exec_barrierArrival_eq (c w b : Nat) (s : State) : exec (.barrierArrival c w b) s = execBarrierArrival c w b s := by rfl
@[simp] theorem exec_ringStageBegin_eq (c i n : Nat) (fill : Bool) (s : State) :
    exec (.ringStageBegin c i n fill) s = execRingStageBegin c i n fill s := by rfl
@[simp] theorem exec_ringDepthReview_eq (c : Nat) (s : State) : exec (.ringDepthReview c) s = execRingDepthReview c s := by rfl

/-! ## What each event does where it is enabled -/

/-- A unit of one gang starts. -/
theorem execGangCreate_one {s : State} {c f r : Nat} {h : Chunk} {l : Launch} {k : Card} (hf : (s.core c).vf = some f)
    (hs : (startOrder s c).find? (fun x => unitStarts s c f x.2.2) = some (h, r, l)) (hk : s.card? h.q h.seq = some k)
    (hl : l.isTeam = false) :
    execGangCreate c s = .next (closeWindow (unitStarted (startGang ((takeHeld s c h.q h.seq r).modCard h.q h.seq (fun k =>
      { k with live := k.live + 1 })) c h.q k l r none) h.q [c]) h.q) := by
  simp [execGangCreate, hf, hs, hk, hl]

/-- A GATTACH whose turn has come, whether there is room or not. -/
theorem execGangAttach_turn {s : State} {c w id : Nat} {t : Slot} {o : Op} {g : Gang} (hs : s.slot? c w = some t)
    (ho : t.wave.op? id = some o) (hg : s.gang? c t.wave.gang = some g) (hc : o.opc = 0x19) (hn : gated t.wave id none = false)
    (hr : releaseDone (s.core c) t.wave id 2 = true) (hf : firstOfGangOrder t.wave id = true) {room : Option (List Nat × List Nat)}
    (hroom : (if o.n < 1 ∨ 63 < o.n then none else attachRoom s c g o.n) = room) :
    execGangAttach c w id s = .next ((match room with
      | none => s
      | some (ws, zs) => putWaves s c g ws zs (fun i =>
          { pc := (o.lanes.head?.map LaneOp.src2).getD 0, level := if g.priv then .h else .u, check := .call, s0 := g.args,
            s2 := BitVec.ofNat 32 o.m, s3 := BitVec.ofNat 32 i, owes := false })).modWave c w (fun v =>
        ({ v with regs := v.regs.writes (o.lanes.flatMap (fun (l : LaneOp) => wrBool o.f.dst l.lane room.isSome)) }).endOp id)) := by
  simp only [execGangAttach, hs, ho, hg, Option.bind_some, Option.map_some]
  rw [if_neg (by simp [hc, hn, hr, hf]), hroom]
  cases room with
  | none => rfl
  | some r => cases o.lanes <;> rfl

/-- A wave leaves a gang with other members. -/
theorem execGangLeave_stays {s : State} {c w : Nat} {t : Slot} {g : Gang} (hs : s.slot? c w = some t)
    (hm : mayLeave s c w t.wave = true) (hg : s.gang? c t.wave.gang = some g) (h1 : g.m ≠ 1) :
    execGangLeave c w s = .next (endWave (detachAll s c w g t.wave) c w t) := by
  simp [execGangLeave, hs, hm, hg, h1]

/-- The last wave leaves a gang with nothing else left. -/
theorem execGangLeave_last {s : State} {c w : Nat} {t : Slot} {g : Gang} (hs : s.slot? c w = some t)
    (hm : mayLeave s c w t.wave = true) (hg : s.gang? c t.wave.gang = some g) (h1 : g.m = 1) (hq : gangQuiet s c g = true) :
    execGangLeave c w s = .next (endGang (endWave s c w t) c g) := by
  simp [execGangLeave, hs, hm, hg, h1, hq]

/-- The arrival a barrier finds is an arrival at it. -/
theorem Wave.of_arrivalAt {v : Wave} {b : Nat} {o : Op} (h : v.arrivalAt b = some o) : (o.opc = 0x15 ∨ o.opc = 0x17) ∧ o.n = b := by
  simpa using List.find?_some h

/-- An arrival that may be applied or held is, and ends. -/
theorem execBarrierArrival_arrives {s : State} {c w b : Nat} {t : Slot} {o : Op} (hs : s.slot? c w = some t)
    (ho : t.wave.arrivalAt b = some o) (hn : gated t.wave o.id none = false)
    (hr : releaseDone (s.core c) t.wave o.id (o.f.m 7 4) = true) (hf : firstOfGangOrder t.wave o.id = true)
    (hh : (t.wave.bars.getD b default).holds = false) :
    execBarrierArrival c w b s = .next ((barArrive s c t.wave.gang t.wave.uid b).modWave c w (fun v =>
      (bindWaits v o.id b (v.bars.getD b default).arph).endOp o.id)) := by
  obtain ⟨-, hb⟩ := Wave.of_arrivalAt ho
  have hmay : arrivalMay t.wave o = true := by simp only [arrivalMay, hf, hb, hh]; rfl
  simp [execBarrierArrival, hs, ho, hn, hr, hmay]

/-- An arrival behind one that its wave holds there pauses. -/
theorem Op.pause_behind {v : Wave} {o : Op} {b : Nat} (hb : o.n = b) (hf : firstOfGangOrder v o.id = true)
    (hh : (v.bars.getD b default).holds = true) : o.pause v = { o with released := true, m := 1 } := by
  simp only [Op.pause, hf, hb, hh, Bool.and_self, if_true]

theorem execBarrierArrival_pauses {s : State} {c w b : Nat} {t : Slot} {o : Op} (hs : s.slot? c w = some t)
    (ho : t.wave.arrivalAt b = some o) (hn : gated t.wave o.id none = false)
    (hr : releaseDone (s.core c) t.wave o.id (o.f.m 7 4) = true) (hf : firstOfGangOrder t.wave o.id = true)
    (hh : (t.wave.bars.getD b default).holds = true) (hm : o.m ≠ 1) :
    execBarrierArrival c w b s = .next (s.modWave c w (fun v => v.modOp o.id (fun p => p.pause t.wave))) := by
  obtain ⟨-, hb⟩ := Wave.of_arrivalAt ho
  have hmay : arrivalMay t.wave o = false := by simp only [arrivalMay, hf, hb, hh]; rfl
  have hne : o.pause t.wave ≠ o := by
    rw [Op.pause_behind hb hf hh]
    exact fun e => hm (congrArg Op.m e).symm
  simp [execBarrierArrival, hs, ho, hn, hr, hmay, hne]

/-- A wave that waits behind an arrival it holds has no candidates. -/
theorem candidate_of_arrivalWaits {v : Wave} {o : Op} (ho : o ∈ v.ops) (hw : o.arrivalWaits = true) (l : Nat) : candidate v l = false := by
  have : v.ops.any Op.arrivalWaits = true := List.any_eq_true.mpr ⟨o, ho, hw⟩
  unfold candidate
  split
  · simp [this]
  · rfl

/-- The first fill reserved begins where the ring is not full. -/
theorem execRingStageBegin_fill {s : State} {c i n : Nat} {r : Ring} {p : Place} {q : List Place}
    (hr : (s.gang? c i).bind (fun g => g.rings[n]?) = some r) (hp : r.fills = p :: q) (hd : p.stage - r.drainn < BitVec.ofNat 32 r.d) :
    execRingStageBegin c i n true s = .next (stageTo (s.modRing c i n (fun r =>
      ({ (r.setStage p.stage .filling) with filln := p.stage + 1, fills := q } : Ring).note)) c n true p (stageWord r p.stage)) := by
  simp only [execRingStageBegin, hr, hp, if_true]
  rw [if_pos hd]

/-- The first drain reserved begins where its stage is FULL. -/
theorem execRingStageBegin_drain {s : State} {c i n : Nat} {r : Ring} {p : Place} {q : List Place}
    (hr : (s.gang? c i).bind (fun g => g.rings[n]?) = some r) (hp : r.drains = p :: q) (hl : r.live p.stage = true)
    (hf : r.stage p.stage = .full) :
    execRingStageBegin c i n false s = .next (stageTo (s.modRing c i n (fun r =>
      ({ (r.setStage p.stage .draining) with consn := p.stage + 1, drains := q } : Ring).note)) c n false p (stageWord r p.stage)) := by
  have h : (r.live p.stage && r.stage p.stage == .full) = true := by simp [hl, hf]
  simp only [execRingStageBegin, hr, hp, Bool.false_eq_true, if_false]
  rw [if_pos h]

/-! ## The depth review (03 R76) -/

/-- What a change of every value of a table reads as. -/
theorem Tab.get?_map {α : Type} (m : Tab α) (f : α → α) (i : Nat) :
    Tab.get? (m.map (fun p => (p.1, f p.2))) i = (m.get? i).map f := by
  induction m with
  | nil => rfl
  | cons p r ih =>
    by_cases h : i = p.1
    · simp [Tab.get?, h]
    · simpa [Tab.get?, h] using ih

/-- After a review none is due. -/
theorem reviewDue_reviewed (k : Core) (gs : Tab Gang) : reviewDue { k with gangs := gs, reviewed := k.clock } = false := by
  simp [reviewDue]

/-! ## Slots, gangs and cards after changes of the others -/

@[simp] theorem State.slot?_modGang (s : State) (c i w : Nat) (g : Gang → Gang) : (s.modGang c i g).slot? c w = s.slot? c w := by
  simp [State.slot?, State.modGang]

@[simp] theorem State.slot?_modRing (s : State) (c i n w : Nat) (g : Ring → Ring) : (s.modRing c i n g).slot? c w = s.slot? c w := by
  simp [State.modRing]

@[simp] theorem State.slot?_modBar (s : State) (c i b w : Nat) (g : Bar → Bar) : (s.modBar c i b g).slot? c w = s.slot? c w := by
  simp [State.modBar]

@[simp] theorem State.gang?_modWave (s : State) (c w i : Nat) (g : Wave → Wave) : (s.modWave c w g).gang? c i = s.gang? c i := by
  simp [State.modWave]

@[simp] theorem State.modRing_mem (s : State) (c i n : Nat) (g : Ring → Ring) : (s.modRing c i n g).mem = s.mem := rfl
@[simp] theorem State.modBar_mem (s : State) (c i b : Nat) (g : Bar → Bar) : (s.modBar c i b g).mem = s.mem := rfl
@[simp] theorem State.modBar_sched (s : State) (c i b : Nat) (g : Bar → Bar) : (s.modBar c i b g).sched = s.sched := rfl

@[simp] theorem State.gang?_modBar (s : State) (c i b : Nat) (g : Bar → Bar) :
    (s.modBar c i b g).gang? c i = (s.gang? c i).map (fun x => { x with bars := listAdj x.bars b g }) := by
  simp [State.modBar]

theorem listAdj_eq_listSet {α : Type} {f : α → α} {x : α} : ∀ {l : List α} {n : Nat}, l[n]? = some x → listAdj l n f = listSet l n (f x)
  | [], _, h => by simp at h
  | y :: r, 0, h => by simp at h; simp [listAdj, listSet, h]
  | y :: r, n + 1, h => by simp [listAdj, listSet, listAdj_eq_listSet (l := r) (n := n) (by simpa using h)]

theorem getD_listSet_self {α : Type} {x d : α} : ∀ {l : List α} {n : Nat}, n < l.length → (listSet l n x).getD n d = x
  | [], _, h => by simp at h
  | y :: r, 0, _ => rfl
  | y :: r, n + 1, h => by simpa [listSet] using getD_listSet_self (l := r) (n := n) (by simpa using h)

/-! ## The end of an operation -/

/-- The one pending operation of a wave ends. -/
theorem Wave.endOp_alone {v : Wave} {o : Op} (h : v.ops = [o]) : v.endOp o.id = ({ v with ops := [] } : Wave).lower o.flag := by
  simp [Wave.endOp, Wave.op?_alone h, h]

@[simp] theorem Wave.lower_regs (v : Wave) (fl : Option Nat) : (v.lower fl).regs = v.regs := by cases fl <;> rfl
@[simp] theorem Wave.lower_ops (v : Wave) (fl : Option Nat) : (v.lower fl).ops = v.ops := by cases fl <;> rfl
@[simp] theorem Wave.lower_bars (v : Wave) (fl : Option Nat) : (v.lower fl).bars = v.bars := by cases fl <;> rfl

theorem Wave.ops_endOp_alone {v : Wave} {o : Op} (h : v.ops = [o]) : (v.endOp o.id).ops = [] := by
  rw [Wave.endOp_alone h, Wave.lower_ops]

/-- The end of an operation leaves the registers and the wave's part in its barriers. -/
@[simp] theorem Wave.endOp_regs (v : Wave) (id : Nat) : (v.endOp id).regs = v.regs := by
  unfold Wave.endOp; split <;> simp

/-- An operation that has ended is pending no more. -/
theorem Wave.op?_endOp (v : Wave) (id : Nat) : (v.endOp id).op? id = none := by
  unfold Wave.endOp
  split
  · simp [Wave.op?]
  · assumption

/-! ## A stage of a ring begins (03 R75; 09 R222) -/

/-- A pair of uniform registers after a 64-bit write: the low word, then the high one. -/
theorem Regs.writes_uniPair (r : Regs) (d : BitVec 11) (l : Nat) (v : W64) :
    (r.writes (wr64 (.uni d) l v)).read (.u d.toNat) = v.setWidth 32 ∧
    (r.writes (wr64 (.uni d) l v)).read (.u (d.toNat + 1)) = (v >>> 32).setWidth 32 := by
  have hw : wr64 (.uni d) l v = [⟨.u d.toNat, v.setWidth 32⟩, ⟨.u (d.toNat + 1), (v >>> 32).setWidth 32⟩] := by
    simp only [wr64, wrWide, destElems, List.range, List.range.loop, List.map, List.zipIdx]
    congr 2
  have ne : d.toNat ≠ d.toNat + 1 := by omega
  rw [hw]
  simp [Regs.writes, Regs.write, Regs.read, Tab.get_put_of_ne _ _ _ ne]

theorem stageWord_low (r : Ring) (n : W32) : (stageWord r n).setWidth 32 = BitVec.ofNat 32 (r.offOf n) := by
  ext i hi
  have h : (stageWord r n).getLsbD i = (BitVec.ofNat 32 (r.offOf n) : W32).getLsbD i :=
    (BitVec.getLsbD_append (x := n) (y := BitVec.ofNat 32 (r.offOf n))).trans (by simp [hi])
  simpa [hi] using h

theorem stageWord_high (r : Ring) (n : W32) : ((stageWord r n) >>> 32).setWidth 32 = n := by
  ext i hi
  have h : (stageWord r n).getLsbD (32 + i) = n.getLsbD i :=
    (BitVec.getLsbD_append (x := n) (y := BitVec.ofNat 32 (r.offOf n))).trans (by simp)
  simpa [hi] using h

/-- The BEGIN word of a wave receives its stage, and ends. -/
theorem stageTo_wave {s : State} {c n : Nat} {fill : Bool} {p : Place} {t : Slot} {o : Op} {l : LaneOp} (v : W64) (hw : p.who = 0)
    (hs : s.slot? c p.id = some t) (hu : p.op = t.wave.uid) (ho : t.wave.ops = [o]) (hc : o.opc = (if fill then 0x1C else 0x1D))
    (hn : o.n = n) (hm : o.m = p.stage.toNat) (hl : o.lanes = [l]) :
    stageTo s c n fill p v = s.modWave c p.id (fun w => ({ w with regs := w.regs.writes (wr64 o.f.dst l.lane v) }).endOp o.id) := by
  have hfind : t.wave.ops.find? (fun o => o.opc == (if fill then 0x1C else 0x1D) && o.n == n && o.m == p.stage.toNat) = some o := by
    simp [ho, hc, hn, hm]
  simp only [stageTo, hw, findUid, hs, ← hu, if_true, hfind, modUid, hl, List.flatMap_singleton]

/-- The ring of a gang after a change of it. -/
theorem ring_modRing {s : State} {c i n : Nat} {r : Ring} (h : (s.gang? c i).bind (fun g => g.rings[n]?) = some r) (f : Ring → Ring) :
    ((s.modRing c i n f).gang? c i).bind (fun g => g.rings[n]?) = some (f r) := by
  obtain ⟨g, hg, hr⟩ := Option.bind_eq_some_iff.mp h
  simp [State.modRing, hg, listAdj_get?, hr]

/-- The state of the slot of a stage that has just been set. -/
theorem Ring.stage_setStage {r : Ring} {n : W32} (x : Stage) (h : r.slotOf n < r.stages.length) : (r.setStage n x).stage n = x :=
  getD_listSet_self h

theorem stageBeginsForWave : StageBeginsForWave := by
  intro s c i n w r p q t o l d fill hr hwho hid hs hu ho hc hn hm hl hd _ _ hlen hready
  subst hid
  have hpair := Regs.writes_uniPair t.wave.regs d l.lane (stageWord r p.stage)
  rw [stageWord_low, stageWord_high] at hpair
  -- the word of the wave, in the state in which its ring has gone on
  have hto : ∀ f : Ring → Ring, ∃ t', (stageTo (s.modRing c i n f) c n fill p (stageWord r p.stage)).mem = s.mem ∧
      ((stageTo (s.modRing c i n f) c n fill p (stageWord r p.stage)).gang? c i).bind (fun g => g.rings[n]?) = some (f r) ∧
      (stageTo (s.modRing c i n f) c n fill p (stageWord r p.stage)).slot? c p.id = some t' ∧ t'.wave.ops = [] ∧
      t'.wave.regs.read (.u d.toNat) = BitVec.ofNat 32 (r.offOf p.stage) ∧ t'.wave.regs.read (.u (d.toNat + 1)) = p.stage := by
    intro f
    rw [stageTo_wave _ hwho ((State.slot?_modRing ..).trans hs) hu ho hc hn hm hl]
    refine ⟨_, rfl, ?_, by rw [State.slot?_modWave, State.slot?_modRing, hs]; rfl, ?_, ?_, ?_⟩
    · rw [State.gang?_modWave]; exact ring_modRing hr f
    · refine Wave.ops_endOp_alone ?_; exact ho
    · rw [Wave.endOp_regs, hd]; exact hpair.1
    · rw [Wave.endOp_regs, hd]; exact hpair.2
  cases fill with
  | true =>
    obtain ⟨hp, hroom⟩ := hready
    obtain ⟨t', hmem, hring, hrest⟩ := hto (fun r => ({ (r.setStage p.stage .filling) with filln := p.stage + 1, fills := q } : Ring).note)
    exact ⟨_, _, t', (exec_ringStageBegin_eq ..).trans (execRingStageBegin_fill hr hp hroom), hmem, hring,
      Ring.stage_setStage _ hlen, ⟨rfl, rfl⟩, hrest⟩
  | false =>
    obtain ⟨hp, hlive, hfull⟩ := hready
    obtain ⟨t', hmem, hring, hrest⟩ := hto (fun r => ({ (r.setStage p.stage .draining) with consn := p.stage + 1, drains := q } : Ring).note)
    exact ⟨_, _, t', (exec_ringStageBegin_eq ..).trans (execRingStageBegin_drain hr hp hlive hfull), hmem, hring,
      Ring.stage_setStage _ hlen, ⟨rfl, rfl⟩, hrest⟩

/-- Every ring of a core is reviewed, and nothing else is. -/
theorem ringDepthReview_reviews (s : State) (c : Nat) (h : reviewDue (s.core c) = true) :
    ∃ t, exec (.ringDepthReview c) s = .next t ∧ t = { s with cores := t.cores } ∧
    (∀ k, k ≠ c → t.core k = s.core k) ∧
    t.core c = { s.core c with gangs := (t.core c).gangs, reviewed := (t.core c).reviewed } ∧ reviewDue (t.core c) = false ∧
    ∀ i, t.gang? c i = (s.gang? c i).map (fun g => { g with rings := g.rings.map Ring.review }) := by
  refine ⟨_, (exec_ringDepthReview_eq ..).trans (if_pos h), rfl, fun k hk => State.core_modCore_of_ne _ _ hk, ?_, ?_, fun i => ?_⟩
  · rw [State.core_modCore]
  · rw [State.core_modCore]; exact reviewDue_reviewed _ _
  · simp only [State.gang?, State.core_modCore]
    exact Tab.get?_map _ (fun (g : Gang) => { g with rings := g.rings.map Ring.review }) i

/-! ## Arrivals at a barrier of a gang of one wave (01 R22, R23) -/

theorem listAdj_listAdj {α : Type} (f g : α → α) : ∀ (l : List α) (n : Nat), listAdj (listAdj l n f) n g = listAdj l n (fun x => g (f x))
  | [], _ => rfl
  | _ :: _, 0 => rfl
  | _ :: r, n + 1 => congrArg (_ :: ·) (listAdj_listAdj f g r n)

/-- An element after its change. -/
theorem getD_listAdj {α : Type} {l : List α} {n : Nat} {x : α} (h : l[n]? = some x) (f : α → α) (d : α) :
    (listAdj l n f).getD n d = f x := by
  simp [List.getD, listAdj_get?, h]

theorem listSet_get? {α : Type} {l : List α} {n : Nat} {x y : α} (h : l[n]? = some x) : (listSet l n y)[n]? = some y := by
  rw [← listAdj_eq_listSet (f := fun _ => y) h]
  simp [listAdj_get?, h]

theorem listSet_listSet {α : Type} {x y : α} : ∀ (l : List α) (n : Nat), listSet (listSet l n x) n y = listSet l n y
  | [], _ => rfl
  | _ :: _, 0 => rfl
  | _ :: r, n + 1 => congrArg (_ :: ·) (listSet_listSet r n)

/-- States with the same cores hold the same waves and gangs. -/
theorem State.slot?_of_cores {s u : State} (h : s.cores = u.cores) (c w : Nat) : s.slot? c w = u.slot? c w := by
  simp [State.slot?, State.core, h]

theorem State.gang?_of_cores {s u : State} (h : s.cores = u.cores) (c i : Nat) : s.gang? c i = u.gang? c i := by
  simp [State.gang?, State.core, h]

/-- The waves of a gang of one wave are changed: that wave is. -/
theorem modMembers_alone {s : State} {c i w : Nat} {g : Gang} {t : Slot} {p : Nat → Bool} (f : Wave → Wave) (hg : s.gang? c i = some g)
    (hm : g.members = [w]) (hs : s.slot? c w = some t) (hp : p t.wave.uid = true) :
    (modMembers s c i p f).slot? c w = some { t with wave := f t.wave } ∧
    (modMembers s c i p f).gang? c i = some g ∧ (modMembers s c i p f).mem = s.mem := by
  have hcores : (modMembers s c i p f).cores = (s.modWave c w (fun v => if p v.uid then f v else v)).cores := by
    simp only [modMembers, hg, hm, List.foldl_cons, List.foldl_nil]
  refine ⟨?_, ?_, ?_⟩
  · rw [State.slot?_of_cores hcores, State.slot?_modWave, hs]
    simp only [Option.map_some, hp, if_true]
  · rw [State.gang?_of_cores hcores, State.gang?_modWave, hg]
  · simp only [modMembers, hg, hm, List.foldl_cons, List.foldl_nil, State.modWave_mem]

/-- A slot whose wave's part in its barriers is bs. -/
def Slot.withBars (t : Slot) (bs : List WBar) : Slot := { t with wave := { t.wave with bars := bs } }
/-- A gang whose barriers are bs. -/
def Gang.withBars (g : Gang) (bs : List Bar) : Gang := { g with bars := bs }

@[simp] theorem Slot.withBars_bars (t : Slot) (bs : List WBar) : (t.withBars bs).wave.bars = bs := rfl
@[simp] theorem Slot.withBars_ops (t : Slot) (bs : List WBar) : (t.withBars bs).wave.ops = t.wave.ops := rfl
@[simp] theorem Slot.withBars_uid (t : Slot) (bs : List WBar) : (t.withBars bs).wave.uid = t.wave.uid := rfl
@[simp] theorem Slot.withBars_withBars (t : Slot) (as bs : List WBar) : (t.withBars as).withBars bs = t.withBars bs := rfl
@[simp] theorem Gang.withBars_bars (g : Gang) (bs : List Bar) : (g.withBars bs).bars = bs := rfl
@[simp] theorem Gang.withBars_members (g : Gang) (bs : List Bar) : (g.withBars bs).members = g.members := rfl
@[simp] theorem Gang.withBars_m (g : Gang) (bs : List Bar) : (g.withBars bs).m = g.m := rfl
@[simp] theorem Gang.withBars_withBars (g : Gang) (as bs : List Bar) : (g.withBars as).withBars bs = g.withBars bs := rfl

/-- What stands of core c's wave w and gang i in a state: the wave's slot, the gang, and memory. -/
structure Stands (s : State) (c w i : Nat) (t : Slot) (g : Gang) (m : List Host.Cell) : Prop where
  slot : s.slot? c w = some t
  gang : s.gang? c i = some g
  mem : s.mem = m

/-- A barrier and the part of the gang's one wave in it are changed. -/
theorem Stands.modBoth {s : State} {c w i : Nat} {t : Slot} {g : Gang} {m : List Host.Cell} (h : Stands s c w i t g m)
    (hm : g.members = [w]) (b : Nat) {p : Nat → Bool} (hp : p t.wave.uid = true) (f : Bar → Bar) (k : Nat → WBar → WBar) :
    Stands (modWBar (s.modBar c i b f) c i b p k) c w i
      (t.withBars (listAdj t.wave.bars b (k t.wave.uid))) (g.withBars (listAdj g.bars b f)) m := by
  obtain ⟨hslot, hgang, hmem⟩ := h
  have hg' : (s.modBar c i b f).gang? c i = some (g.withBars (listAdj g.bars b f)) := by rw [State.gang?_modBar, hgang]; rfl
  have hs' : (s.modBar c i b f).slot? c w = some t := (State.slot?_modBar ..).trans hslot
  obtain ⟨h1, h2, h3⟩ := modMembers_alone (fun v => { v with bars := listAdj v.bars b (k v.uid) }) hg' hm hs' hp
  exact ⟨h1, h2, h3.trans hmem⟩

/-- No phase passes while an arrival is awaited. -/
theorem completePhases_of_lt {s : State} {c i b : Nat} {g : Gang} (hg : s.gang? c i = some g)
    (h : g.m = 0 ∨ (g.bars.getD b default).a < (g.bars.getD b default).e) (n : Nat) : completePhases s c i b n = s := by
  cases n with
  | zero => rfl
  | succ n => simp only [completePhases, hg]; rw [if_pos h]

/-- A phase passes where no arrival is awaited. -/
theorem completePhases_passes {s : State} {c i b : Nat} {g : Gang} (hg : s.gang? c i = some g) (hm : g.m ≠ 0)
    (h : ¬ (g.bars.getD b default).a < (g.bars.getD b default).e) (n : Nat) :
    completePhases s c i b (n + 1) = completePhases (modWBar (s.modBar c i b (fun k =>
        { k with ph := k.ph + 1, e := g.m, a := k.held.length, held := [] })) c i b (fun _ => true)
      (fun uid x => { x with owes := !(g.bars.getD b default).held.contains uid, holds := false })) c i b n := by
  simp only [completePhases, hg]
  rw [if_neg (not_or.mpr ⟨hm, h⟩)]

/-- An arrival that is owed is one more, before any phase passes. -/
theorem barArrive_owed {s : State} {c i b : Nat} {g : Gang} {w : Nat} {t : Slot} {x : WBar} {k : Bar} (hg : s.gang? c i = some g)
    (hm : g.members = [w]) (hs : s.slot? c w = some t) (hk : g.bars[b]? = some k) (hx : t.wave.bars[b]? = some x) (ho : x.owes = true) :
    barArrive s c i t.wave.uid b = completePhases (modWBar (s.modBar c i b (fun k => { k with a := k.a + 1 })) c i b (· == t.wave.uid)
      (fun _ x => { x with owes := false, arph := k.ph, arrived := true })) c i b 3 := by
  have hmem : member? s c t.wave.uid g = some t.wave := by simp [member?, hm, hs]
  have hx' : t.wave.bars.getD b default = x := by simp [List.getD, hx]
  have hk' : g.bars.getD b default = k := by simp [List.getD, hk]
  simp only [barArrive, hg, hmem, hx', hk', ho, if_true]

/-- No operation but arrivals stands behind a wave's one arrival. -/
theorem bindWaits_alone {v : Wave} {o : Op} (h : v.ops = [o]) (hc : o.opc ≠ 0x16) (b : Nat) (ph : W32) : bindWaits v o.id b ph = v := by
  have : (o.opc == 0x16) = false := by simpa using hc
  simp only [bindWaits, h, List.map_cons, List.map_nil, this, Bool.false_and, Bool.false_eq_true, if_false]
  rw [← h]

@[simp] theorem Wave.endOp_bars (v : Wave) (id : Nat) : (v.endOp id).bars = v.bars := by
  unfold Wave.endOp; split <;> simp

/-- The arrival ends, where the wave's other parts stand. -/
theorem Stands.arrivalEnds {s : State} {c w i : Nat} {t : Slot} {g : Gang} {m : List Host.Cell} {o : Op} (h : Stands s c w i t g m)
    (ho : t.wave.ops = [o]) (hc : o.opc ≠ 0x16) (b : Nat) :
    ∃ t', Stands (s.modWave c w (fun v => (bindWaits v o.id b (v.bars.getD b default).arph).endOp o.id)) c w i t' g m ∧
      t'.wave.ops = [] ∧ t'.wave.bars = t.wave.bars := by
  obtain ⟨hslot, hgang, hmem⟩ := h
  refine ⟨_, ⟨(State.slot?_modWave ..).trans (congrArg (Option.map _) hslot), (State.gang?_modWave ..).trans hgang, hmem⟩, ?_, ?_⟩
  · dsimp only
    rw [bindWaits_alone ho hc, Wave.ops_endOp_alone ho]
  · dsimp only
    rw [bindWaits_alone ho hc, Wave.endOp_bars]

theorem arrivalCounts : ArrivalCounts := by
  intro s c w b t o g k x hs ho hc hn hr hg hid hmem hk hheld hx howes hholds
  have hc16 : o.opc ≠ 0x16 := by rcases hc with h | h <;> rw [h] <;> decide
  have harr : t.wave.arrivalAt b = some o := by rcases hc with h | h <;> simp [Wave.arrivalAt, ho, h, hn]
  have hfirst : firstOfGangOrder t.wave o.id = true := by simp [firstOfGangOrder, ho]
  have hx' : (t.wave.bars.getD b default).holds = false := by simp [List.getD, hx, hholds]
  have hrun := execBarrierArrival_arrives hs harr (gated_alone ho none) hr hfirst hx'
  rw [barArrive_owed hg hmem hs hk hx howes] at hrun
  rw [← hid] at hg hrun
  have h1 := Stands.modBoth ⟨hs, hg, rfl⟩ hmem b (p := (· == t.wave.uid)) (beq_self_eq_true _) (fun k => { k with a := k.a + 1 })
    (fun _ x => { x with owes := false, arph := k.ph, arrived := true })
  rw [listAdj_eq_listSet hk, listAdj_eq_listSet hx] at h1
  have hk1 : (listSet g.bars b { k with a := k.a + 1 })[b]? = some { k with a := k.a + 1 } := listSet_get? hk
  have hx1 : (listSet t.wave.bars b { x with owes := false, arph := k.ph, arrived := true })[b]? =
      some { x with owes := false, arph := k.ph, arrived := true } := listSet_get? hx
  have hbar : (listSet g.bars b { k with a := k.a + 1 }).getD b default = { k with a := k.a + 1 } := by simp [List.getD, hk1]
  constructor
  · intro hlt
    rw [completePhases_of_lt h1.gang (.inr (by rw [Gang.withBars_bars, hbar]; exact hlt))] at hrun
    obtain ⟨t', h2, hops, hbars⟩ := h1.arrivalEnds ho hc16 b
    exact ⟨_, t', (exec_barrierArrival_eq ..).trans hrun, h2.mem, h2.gang, h2.slot, hops, by rw [hbars, Slot.withBars_bars, hholds]⟩
  · intro heq hsaved
    have hone : g.m = 1 := by simp [Gang.m, hmem, hsaved]
    rw [completePhases_passes h1.gang (by rw [Gang.withBars_m, hone]; decide)
      (by rw [Gang.withBars_bars, hbar]; exact Nat.not_lt.mpr heq.ge)] at hrun
    have h2 := h1.modBoth hmem b (p := fun _ => true) rfl
      (fun k => { k with ph := k.ph + 1, e := 1, a := k.held.length, held := [] })
      (fun uid x => { x with owes := !([] : List Nat).contains uid, holds := false })
    rw [Gang.withBars_bars, Slot.withBars_bars, Slot.withBars_withBars, Gang.withBars_withBars, listAdj_eq_listSet hk1,
      listAdj_eq_listSet hx1, listSet_listSet, listSet_listSet, hheld] at h2
    rw [Gang.withBars_bars, hbar, hheld, Gang.withBars_m, hone] at hrun
    have hpassed : (listSet g.bars b { k with ph := k.ph + 1, e := 1, a := ([] : List Nat).length, held := [] }).getD b default =
        { k with ph := k.ph + 1, e := 1, a := 0, held := [] } := by simp [List.getD, listSet_get? hk]
    rw [completePhases_of_lt h2.gang (.inr (by rw [Gang.withBars_bars, hpassed]; exact Nat.one_pos))] at hrun
    obtain ⟨t', h3, hops, hbars⟩ := h2.arrivalEnds ho hc16 b
    exact ⟨_, t', (exec_barrierArrival_eq ..).trans hrun, h3.mem, h3.gang, h3.slot, hops, hbars⟩

/-! ## A new wave in its slot (01 R18, R19) -/

/-- An acquire leaves a core's waves and gangs. -/
theorem acquireAt_core (s : State) (c sc d : Nat) : ((acquireAt s c sc).core d).slots = (s.core d).slots ∧
    ((acquireAt s c sc).core d).gangs = (s.core d).gangs := by
  unfold acquireAt invalidateL1
  split
  · by_cases h : d = c
    · subst h; rw [State.core_modCore]; exact ⟨rfl, rfl⟩
    · rw [State.core_modCore_of_ne _ _ h]; exact ⟨rfl, rfl⟩
  · exact ⟨rfl, rfl⟩

@[simp] theorem slot?_acquireAt (s : State) (c sc d w : Nat) : (acquireAt s c sc).slot? d w = s.slot? d w := by
  simp [State.slot?, (acquireAt_core s c sc d).1]

@[simp] theorem gang?_acquireAt (s : State) (c sc d i : Nat) : (acquireAt s c sc).gang? d i = s.gang? d i := by
  simp [State.gang?, (acquireAt_core s c sc d).2]

@[simp] theorem acquireAt_mem (s : State) (c sc : Nat) : (acquireAt s c sc).mem = s.mem := by unfold acquireAt; split <;> rfl
@[simp] theorem acquireAt_sched (s : State) (c sc : Nat) : (acquireAt s c sc).sched = s.sched := by unfold acquireAt; split <;> rfl

/-- The slot of a wave that has just been put into it. -/
def freshSlot (v : Wave) : Slot := { wave := v, drain := none, parked := false, stopping := false, watches := [] }

theorem slot?_putWave (s : State) (c w : Nat) (g : Gang) (zs : List Nat) (e : Entry) :
    (putWave s c w g zs e).slot? c w = some (freshSlot (newWave s c w g zs e)) := by
  unfold putWave
  rw [State.slot?_modGang]
  simp only [State.slot?, State.core_modCore]
  exact Tab.get?_ins_self _ _ _

theorem slot?_putWave_of_ne (s : State) (c : Nat) {w v : Nat} (g : Gang) (zs : List Nat) (e : Entry) (h : v ≠ w) :
    (putWave s c w g zs e).slot? c v = s.slot? c v := by
  unfold putWave
  rw [State.slot?_modGang]
  simp only [State.slot?, State.core_modCore]
  exact Tab.get?_ins_of_ne _ _ h

/-- The gang has the wave as a member. -/
theorem gang?_putWave (s : State) (c w : Nat) (g : Gang) (zs : List Nat) (e : Entry) :
    (putWave s c w g zs e).gang? c g.id = (s.gang? c g.id).map (fun x => { x with members := setIns x.members w }) := by
  unfold putWave
  rw [State.gang?_modGang]
  simp only [State.gang?, State.core_modCore]
  rfl

@[simp] theorem putWave_mem (s : State) (c w : Nat) (g : Gang) (zs : List Nat) (e : Entry) : (putWave s c w g zs e).mem = s.mem := rfl
@[simp] theorem putWave_sched (s : State) (c w : Nat) (g : Gang) (zs : List Nat) (e : Entry) : (putWave s c w g zs e).sched = s.sched := rfl

/-- One wave takes the first Z slots, and acquires. -/
theorem putWaves_one (s : State) (c : Nat) (g : Gang) (w : Nat) (zs : List Nat) (e : Nat → Entry) :
    putWaves s c g [w] zs e = acquireAt (putWave s c w g (zs.take g.launch.aregs) (e 0)) c g.launch.scope0 := by
  simp [putWaves]

/-- The uniform registers a new wave starts with. -/
theorem newWave_regs (s : State) (c w : Nat) (g : Gang) (zs : List Nat) (e : Entry) :
    (newWave s c w g zs e).regs.read (.u 0) = e.s0.setWidth 32 ∧ (newWave s c w g zs e).regs.read (.u 1) = (e.s0 >>> 32).setWidth 32 ∧
    (newWave s c w g zs e).regs.read (.u 2) = e.s2 ∧ (newWave s c w g zs e).regs.read (.u 3) = e.s3 := by
  simp [newWave, Regs.read, uniFile, Tab.get_put_of_ne]

/-- The lanes a new wave starts with. -/
theorem newWave_lanes (s : State) (c w : Nat) (g : Gang) (zs : List Nat) (e : Entry) :
    (newWave s c w g zs e).lanes.length = 32 ∧ ∀ x, x ∈ (newWave s c w g zs e).lanes → x = freshLane e.pc e.level e.check :=
  ⟨List.length_replicate, fun _ h => List.eq_of_mem_replicate h⟩

theorem newWave_bars (s : State) (c w : Nat) (g : Gang) (zs : List Nat) (e : Entry) :
    ∀ b, b ∈ (newWave s c w g zs e).bars → b.owes = e.owes := by
  intro b hb
  rw [List.eq_of_mem_replicate hb]

/-! ## The one wave of a unit starts (01 R18, R19, R28) -/

/-- A core whose held records changed has the room it had. -/
theorem takeHeld_core (s : State) (c q : Nat) (n : W32) (r : Nat) : ∃ hs, (takeHeld s c q n r).core c = { s.core c with held := hs } :=
  ⟨_, State.core_modCore _ _ _⟩

/-- An end of a window changes the open windows alone. -/
theorem closeWindow_frame (s : State) (q : Nat) :
    closeWindow s q = { s with sched := { s.sched with windows := (closeWindow s q).sched.windows } } := by
  unfold closeWindow
  repeat' split
  all_goals rfl

/-- The windows after the start of a unit: cores, memory and queues stand as they stood. -/
theorem windowed_frame (s : State) (q : Nat) (cs : List Nat) :
    (closeWindow (unitStarted s q cs) q).cores = s.cores ∧ (closeWindow (unitStarted s q cs) q).mem = s.mem ∧
    (closeWindow (unitStarted s q cs) q).sched.queues = s.sched.queues := by
  rw [closeWindow_frame]
  exact ⟨rfl, rfl, rfl⟩

/-- States with the same queues hold the same cards. -/
theorem State.card?_of_queues {s u : State} (h : s.sched.queues = u.sched.queues) (q : Nat) (n : W32) : s.card? q n = u.card? q n := by
  simp [State.card?, State.queue, h]

/-- How the waves of a unit start (01 R19). -/
def unitEntry (s : State) (q r : Nat) (k : Card) (l : Launch) (i : Nat) : Entry :=
  { pc := l.entry, level := if (s.queue q).priv then .h else .u, check := .none, s0 := k.recAt r, s2 := BitVec.ofNat 32 r,
    s3 := BitVec.ofNat 32 i, owes := true }

/-- A gang of one wave starts: the gang, and the wave in its slot. -/
theorem startGang_alone {s : State} {c q r w : Nat} {k : Card} {l : Launch} {zs : List Nat} (h1 : l.winit = 1)
    (hroom : roomFor (s.core c) l.vgran l.aregs 1 = some ([w], zs)) :
    startGang s c q k l r none = acquireAt (putWave (s.modCore c (fun x => { x with
        gangs := x.gangs.ins (newGang s c q k l r none).id (newGang s c q k l r none) })) c w (newGang s c q k l r none) (zs.take l.aregs)
      (unitEntry s q r k l 0)) c l.scope0 := by
  simp only [startGang, h1, hroom]
  exact putWaves_one ..

/-- What stands after it. -/
theorem startGang_alone_stands {s : State} {c q r w : Nat} {k : Card} {l : Launch} {zs : List Nat} (h1 : l.winit = 1)
    (hroom : roomFor (s.core c) l.vgran l.aregs 1 = some ([w], zs)) :
    (startGang s c q k l r none).mem = s.mem ∧ (startGang s c q k l r none).sched = s.sched ∧
    (∃ v zs', (startGang s c q k l r none).slot? c w =
      some (freshSlot (newWave v c w (newGang s c q k l r none) zs' (unitEntry s q r k l 0)))) ∧
    (startGang s c q k l r none).gang? c (freeGang s c) = some { newGang s c q k l r none with members := [w] } := by
  rw [startGang_alone h1 hroom]
  refine ⟨by simp, by simp, ⟨_, _, by rw [slot?_acquireAt, slot?_putWave]⟩, ?_⟩
  have hins : (s.modCore c (fun x => { x with gangs := x.gangs.ins (newGang s c q k l r none).id (newGang s c q k l r none) })).gang? c
      (newGang s c q k l r none).id = some (newGang s c q k l r none) := by
    simp only [State.gang?, State.core_modCore]
    exact Tab.get?_ins_self _ _ _
  have hput := gang?_putWave (s.modCore c (fun x => { x with gangs := x.gangs.ins (newGang s c q k l r none).id (newGang s c q k l r none) }))
    c w (newGang s c q k l r none) (zs.take l.aregs) (unitEntry s q r k l 0)
  rw [hins] at hput
  exact (gang?_acquireAt ..).trans hput

theorem gangStartsWave : GangStartsWave := by
  intro s c f r w h l k zs hf hfind hk hteam h1 hroom hfree hgang
  obtain ⟨hs, hheld⟩ := takeHeld_core s c h.q h.seq r
  -- the state in which the gang starts: one record less is held, and the card has a unit more in flight
  obtain ⟨x, hx⟩ : ∃ x, x = (takeHeld s c h.q h.seq r).modCard h.q h.seq (fun k => { k with live := k.live + 1 }) := ⟨_, rfl⟩
  have hcore : x.core c = { s.core c with held := hs } := by rw [hx, State.core_modCard, hheld]
  have hid : freeGang x c = freeGang s c := by
    have hsaved : x.sched.savedGangs = s.sched.savedGangs := by rw [hx]; rfl
    simp only [freeGang, hcore, hsaved]
  have hpriv : (x.queue h.q).priv = (s.queue h.q).priv := by rw [hx, State.queue_modCard]; rfl
  have hcard : (x.card? h.q h.seq).map Card.live = some (k.live + 1) := by
    have hk' : (takeHeld s c h.q h.seq r).card? h.q h.seq = some k := hk
    rw [hx, State.card?_modCard, hk']
    · rfl
    · exact fun _ => rfl
  obtain ⟨hmem, hsched, ⟨v, zs', hslot⟩, hgang'⟩ := startGang_alone_stands (q := h.q) (r := r) (k := k) (s := x) h1 (by rw [hcore]; exact hroom)
  have hrun := execGangCreate_one hf hfind hk hteam
  rw [← hx] at hrun
  obtain ⟨hcores, hm, hq⟩ := windowed_frame (startGang x c h.q k l r none) h.q [c]
  generalize closeWindow (unitStarted (startGang x c h.q k l r none) h.q [c]) h.q = u at hrun hcores hm hq
  obtain ⟨hlen, hlanes⟩ := newWave_lanes v c w (newGang x c h.q k l r none) zs' (unitEntry x h.q r k l 0)
  obtain ⟨h0, h1', h2, h3⟩ := newWave_regs v c w (newGang x c h.q k l r none) zs' (unitEntry x h.q r k l 0)
  refine ⟨u, freshSlot (newWave v c w (newGang x c h.q k l r none) zs' (unitEntry x h.q r k l 0)),
    { newGang x c h.q k l r none with members := [w] }, (exec_gangCreate_eq ..).trans hrun,
    hm.trans (hmem.trans ?_), (State.slot?_of_cores hcores c w).trans hslot, ?_, hlen, fun y hy => ?_, ?_, h0, h1', h2, h3,
    ?_, rfl, rfl, rfl, ?_, ?_⟩
  · rw [hx]; rfl
  · rw [← hid]; rfl
  · rw [hlanes y hy, ← hpriv]; exact ⟨rfl, rfl, rfl, rfl⟩
  · rw [← hpriv]; rfl
  · rw [← hid, State.gang?_of_cores hcores]; exact hgang'
  · simp [newGang, h1]
  · rw [State.card?_of_queues (hq.trans (congrArg _ hsched)), hcard]

/-! ## A wave attaches another (01 R24; 09 R219) -/

/-- A gang with one member more. -/
def joined (g : Gang) (x : Nat) : Gang := { g with members := setIns g.members x }

/-- What stands after one wave of a gang has been put into a slot: it, the waves of other slots, the gang, and memory. -/
theorem putWaves_one_stands (s : State) (c x : Nat) (g : Gang) (zs : List Nat) (e : Nat → Entry) :
    (putWaves s c g [x] zs e).mem = s.mem ∧
    (putWaves s c g [x] zs e).slot? c x = some (freshSlot (newWave s c x g (zs.take g.launch.aregs) (e 0))) ∧
    (∀ v, v ≠ x → (putWaves s c g [x] zs e).slot? c v = s.slot? c v) ∧
    (putWaves s c g [x] zs e).gang? c g.id = (s.gang? c g.id).map (fun y => joined y x) := by
  rw [putWaves_one]
  exact ⟨by simp, by rw [slot?_acquireAt, slot?_putWave], fun v hv => by rw [slot?_acquireAt, slot?_putWave_of_ne _ _ _ _ _ hv],
    by rw [gang?_acquireAt, gang?_putWave]; rfl⟩

/-- A predicate register of a lane reads the truth value written. -/
theorem Regs.read_wrBool_true (r : Regs) {d : BitVec 11} {l : Nat} (hd : d.toNat < 15) (hl : l < 32) :
    (r.writes (wrBool (.pred d) l true)).read (.p d.toNat l) = 1 := by
  refine Regs.read_write_self r ⟨.p d.toNat l, 1⟩ ⟨hl, .inr rfl⟩ ?_
  simp [RegElem.isP15]; omega

/-- How the waves a GATTACH places start (09 R219). -/
def attachEntry (g : Gang) (o : Op) (i : Nat) : Entry :=
  { pc := (o.lanes.head?.map LaneOp.src2).getD 0, level := if g.priv then .h else .u, check := .call, s0 := g.args,
    s2 := BitVec.ofNat 32 o.m, s3 := BitVec.ofNat 32 i, owes := false }

theorem attachPlacesWave : AttachPlacesWave := by
  intro s c w id x t o l g zs d hs ho hg hid hc hn hr hf h1 hlanes hdst hd hl hroom hx
  have hroom' : (if o.n < 1 ∨ 63 < o.n then none else attachRoom s c g o.n) = some ([x], zs) := by rw [h1]; exact hroom
  have hrun := execGangAttach_turn hs ho hg hc hn hr hf hroom'
  have hxw : x ≠ w := by rintro rfl; rw [hs] at hx; cases hx
  obtain ⟨hmem, hslot, hothers, hgang⟩ := putWaves_one_stands s c x g zs (attachEntry g o)
  obtain ⟨hlen, hall⟩ := newWave_lanes s c x g (zs.take g.launch.aregs) (attachEntry g o 0)
  obtain ⟨r0, r1, r2, r3⟩ := newWave_regs s c x g (zs.take g.launch.aregs) (attachEntry g o 0)
  have howes := newWave_bars s c x g (zs.take g.launch.aregs) (attachEntry g o 0)
  have hw := (hothers w hxw.symm).trans hs
  have hgw : (putWaves s c g [x] zs (attachEntry g o)).gang? c g.id = some (joined g x) := by
    rw [hgang, hid, hg]; rfl
  change _ = Host.Outcome.next ((putWaves s c g [x] zs (attachEntry g o)).modWave c w _) at hrun
  generalize putWaves s c g [x] zs (attachEntry g o) = p at hrun hmem hslot hw hgw
  refine ⟨_, freshSlot (newWave s c x g (zs.take g.launch.aregs) (attachEntry g o 0)), _, (exec_gangAttach_eq ..).trans hrun,
    (State.modWave_mem ..).trans hmem, (State.slot?_modWave_of_ne _ _ _ hxw).trans hslot, rfl, hlen, fun y hy => ?_, rfl, r0, r1, r2, r3,
    howes, ?_, (State.slot?_modWave ..).trans (congrArg (Option.map _) hw), Wave.op?_endOp _ _, ?_⟩
  · rw [hall y hy]
    refine ⟨?_, rfl, rfl, rfl⟩
    simp [attachEntry, freshLane, hlanes]
  · rw [State.gang?_modWave, hgw]; rfl
  · dsimp only
    rw [Wave.endOp_regs, hlanes, List.flatMap_singleton, hdst]
    exact Regs.read_wrBool_true _ hd hl

/-! ## A wave leaves its gang (01 R20, R22, R28) -/

/-- The end of a wave that has no hit to record, no save to answer and no tile to retire: its slot is free; gangs, memory and the
scheduler stand, and so do the other waves. -/
theorem endWave_stands {s : State} {c w : Nat} {t : Slot} (hd : t.drain = none) (hw : t.watches = []) (ht : (s.core c).tiles = []) :
    (endWave s c w t).slot? c w = none ∧ (∀ v, v ≠ w → (endWave s c w t).slot? c v = s.slot? c v) ∧
    (∀ i, (endWave s c w t).gang? c i = s.gang? c i) ∧ (endWave s c w t).mem = s.mem ∧ (endWave s c w t).sched = s.sched := by
  have hend : endWave s c w t =
      freeSlot (dropWaiters (s.modSlot c w (fun t => { t with watches := [] })) t.wave.uid) c w t.wave := by
    have htiles : ((dropWaiters (s.modSlot c w (fun t => { t with watches := [] })) t.wave.uid).core c).tiles = [] := by
      have hcore : (dropWaiters (s.modSlot c w (fun t => { t with watches := [] })) t.wave.uid).core c =
          (s.modSlot c w (fun t => { t with watches := [] })).core c := rfl
      rw [hcore, State.modSlot, State.core_modCore]
      exact ht
    simp only [endWave, flushWatches, hw, hd, List.foldl_nil, dropSave, retireAll, htiles, List.filter_nil]
  have hcore : (endWave s c w t).core c = ({ (s.modSlot c w (fun t => { t with watches := [] })).core c with
      slots := ((s.modSlot c w (fun t => { t with watches := [] })).core c).slots.del w,
      zkeep := ((s.modSlot c w (fun t => { t with watches := [] })).core c).zkeep ++ t.wave.zmap.map (fun z => (z, t.wave.uid)) } : Core).trimKeep := by
    rw [hend]
    exact State.core_modCore _ _ _
  have hslots : ((endWave s c w t).core c).slots = ((s.modSlot c w (fun t => { t with watches := [] })).core c).slots.del w := by
    rw [hcore]; rfl
  refine ⟨?_, fun v hv => ?_, fun i => ?_, ?_, ?_⟩
  · rw [State.slot?, hslots, Tab.get?_del_self]
  · rw [State.slot?, hslots, Tab.get?_del_of_ne _ hv]
    exact State.slot?_modSlot_of_ne _ _ _ hv
  · refine Eq.trans ?_ (State.gang?_modSlot s c w i (fun t => { t with watches := [] }))
    rw [State.gang?, hcore]; rfl
  · rw [hend]; rfl
  · rw [hend]; rfl

/-- What stands while the barriers of a gang see a wave detach: waves, tiles, memory, and the gang. -/
structure Detaching (s u : State) (c i : Nat) (g : Gang) : Prop where
  slots : ∀ v, u.slot? c v = s.slot? c v
  tiles : (u.core c).tiles = (s.core c).tiles
  mem : u.mem = s.mem
  gang : u.gang? c i = some g

/-- Barriers that hold nothing and await an arrival. -/
def Gang.awaiting (g : Gang) : Prop := ∀ b, b ∈ g.bars → b.held = [] ∧ b.a < b.e

theorem listAdj_of_fixed {α : Type} {f : α → α} : ∀ {l : List α} (n : Nat), (∀ x, x ∈ l → f x = x) → listAdj l n f = l
  | [], _, _ => rfl
  | x :: r, 0, h => by rw [listAdj, h x List.mem_cons_self]
  | x :: r, n + 1, h => by rw [listAdj, listAdj_of_fixed n (fun y hy => h y (List.mem_cons_of_mem _ hy))]

/-- The wave owed nothing at a barrier that holds nothing and awaits an arrival: it goes on as it was. -/
theorem Detaching.barDetach {s u : State} {c i : Nat} {g : Gang} (h : Detaching s u c i g) (ha : g.awaiting) (uid : Nat) {b : Nat}
    (hb : b < g.bars.length) : Detaching s (barDetach u c i uid b false) c i g := by
  obtain ⟨hslots, htiles, hmem, hgang⟩ := h
  have hkeep : listAdj g.bars b (fun k => { k with held := k.held.filter (· != uid) }) = g.bars := by
    refine listAdj_of_fixed b (fun x hx => ?_)
    obtain ⟨hh, -⟩ := ha x hx
    have hf : x.held.filter (· != uid) = x.held := by rw [hh]; rfl
    rw [hf]
  have hgang' : (u.modBar c i b (fun k => { k with held := k.held.filter (· != uid) })).gang? c i = some g := by
    rw [State.gang?_modBar, hgang]
    simp [hkeep]
  have hawait : (g.bars.getD b default).a < (g.bars.getD b default).e := by
    rw [List.getD_eq_getElem _ _ hb]
    exact (ha _ (List.getElem_mem hb)).2
  have hstep : Machine.barDetach u c i uid b false = u.modBar c i b (fun k => { k with held := k.held.filter (· != uid) }) :=
    completePhases_of_lt hgang' (.inr hawait) 3
  rw [hstep]
  refine ⟨fun v => (State.slot?_modBar ..).trans (hslots v), ?_, hmem, hgang'⟩
  rw [State.modBar, State.modGang, State.core_modCore]
  exact htiles

/-- A wave that owed nothing detaches from every barrier. -/
theorem detachAll_stands {s : State} {c w : Nat} {g : Gang} {v : Wave} (hg : s.gang? c g.id = some g) (hlen : v.bars.length ≤ g.bars.length)
    (howes : ∀ b, b ∈ v.bars → b.owes = false) (ha : g.awaiting) :
    Detaching s (detachAll s c w g v) c g.id { g with members := g.members.filter (· != w) } := by
  unfold detachAll
  refine List.foldlRecOn (motive := fun u => Detaching s u c g.id { g with members := g.members.filter (· != w) }) _ _ ?_ ?_
  · refine ⟨fun v => State.slot?_modGang .., ?_, rfl, ?_⟩
    · rw [State.modGang, State.core_modCore]
    · rw [State.gang?_modGang, hg]; rfl
  · rintro u hu ⟨x, n⟩ hx
    have hn := List.mk_mem_zipIdx_iff_getElem?.mp hx
    rw [howes x (List.mem_of_getElem? hn)]
    exact hu.barDetach ha v.uid (lt_of_lt_of_le (List.getElem?_eq_some_iff.mp hn).1 hlen)

/-- A gang of no team and without draws ends, and its unit is finished. -/
theorem endGang_of_unit {s : State} {c : Nat} {g : Gang} {q r : Nat} {n : W32} (ht : g.team = none) (hd : g.draws = [])
    (hu : g.unit = some (q, n, r)) : endGang s c g = unitDone (s.modCore c (fun k => { k with gangs := k.gangs.del g.id })) q n := by
  simp [endGang, endDraws, ht, hd, hu]

theorem endGang_stands {s : State} {c : Nat} {g : Gang} {q r : Nat} {n : W32} (ht : g.team = none) (hd : g.draws = [])
    (hu : g.unit = some (q, n, r)) :
    (∀ v, (endGang s c g).slot? c v = s.slot? c v) ∧ (endGang s c g).gang? c g.id = none ∧ (endGang s c g).mem = s.mem ∧
    (endGang s c g).card? q n = (s.card? q n).map (fun k => { k with finished := k.finished + 1, live := k.live - 1 }) := by
  rw [endGang_of_unit ht hd hu]
  refine ⟨fun v => ?_, ?_, rfl, ?_⟩
  · rw [State.slot?, unitDone, State.core_modCard, State.core_modCore]; rfl
  · rw [State.gang?, unitDone, State.core_modCard, State.core_modCore]
    exact Tab.get?_del_self _ _
  · rw [unitDone, State.card?_modCard, State.card?_modCore]
    exact fun _ => rfl

theorem waveLeavesGang : WaveLeavesGang := by
  intro s c w t g hs hm hdrain hwatch htiles hg hid hlen
  constructor
  · intro howes hawait h1
    obtain ⟨dslots, dtiles, dmem, dgang⟩ := detachAll_stands (w := w) (by rw [hid]; exact hg) hlen howes hawait
    obtain ⟨hslot, hothers, hgangs, hmem, -⟩ := endWave_stands (s := detachAll s c w g t.wave) (w := w) hdrain hwatch (dtiles.trans htiles)
    exact ⟨_, (exec_gangLeave_eq ..).trans (execGangLeave_stays hs hm hg h1), hmem.trans dmem, hslot,
      fun v hv => (hothers v hv).trans (dslots v), (hgangs _).trans dgang⟩
  · intro q r n k h1 hquiet hteam hdraws hunit hk
    obtain ⟨hslot, hothers, hgangs, hmem, hsched⟩ := endWave_stands (w := w) hdrain hwatch htiles
    obtain ⟨eslots, egang, emem, ecard⟩ := endGang_stands (s := endWave s c w t) (c := c) hteam hdraws hunit
    refine ⟨_, (exec_gangLeave_eq ..).trans (execGangLeave_last hs hm hg h1 hquiet), emem.trans hmem, (eslots w).trans hslot,
      fun v hv => (eslots v).trans (hothers v hv), egang, ?_⟩
    rw [ecard, State.card?_of_queues (congrArg _ hsched), hk]
    rfl

/-! ## Gangs, barriers and rings -/

/-- A GATTACH that 01 R24 refuses, and one it admits. -/
theorem gangAttach_answers (s : State) (c w id : Nat) (t : Slot) (o : Op) (g : Gang) (hs : s.slot? c w = some t)
    (ho : t.wave.op? id = some o) (hg : s.gang? c t.wave.gang = some g) (hc : o.opc = 0x19) (hn : gated t.wave id none = false)
    (hr : releaseDone (s.core c) t.wave id 2 = true) (hf : firstOfGangOrder t.wave id = true) :
    (o.n < 1 ∨ 63 < o.n ∨ attachRoom s c g o.n = none → exec (.gangAttach c w id) s = .next (s.modWave c w (fun v =>
      ({ v with regs := v.regs.writes (o.lanes.flatMap (fun (l : LaneOp) => wrBool o.f.dst l.lane false)) }).endOp id))) ∧
    (∀ ws zs, 1 ≤ o.n → o.n ≤ 63 → attachRoom s c g o.n = some (ws, zs) →
      exec (.gangAttach c w id) s = .next ((putWaves s c g ws zs (attachEntry g o)).modWave c w (fun v =>
        ({ v with regs := v.regs.writes (o.lanes.flatMap (fun (l : LaneOp) => wrBool o.f.dst l.lane true)) }).endOp id))) := by
  constructor
  · intro hno
    have hroom : (if o.n < 1 ∨ 63 < o.n then none else attachRoom s c g o.n) = none := by
      rcases hno with h | h | h <;> simp [h]
    exact (exec_gangAttach_eq ..).trans (execGangAttach_turn hs ho hg hc hn hr hf hroom)
  · intro ws zs h1 h63 hroom
    have hroom' : (if o.n < 1 ∨ 63 < o.n then none else attachRoom s c g o.n) = some (ws, zs) := by
      rw [if_neg (by omega), hroom]
    exact (exec_gangAttach_eq ..).trans (execGangAttach_turn hs ho hg hc hn hr hf hroom')

/-- An arrival behind one that its wave holds: it pauses once, and then the wave waits. -/
theorem barrierArrival_behind (s : State) (c w b : Nat) (t : Slot) (o : Op) (hs : s.slot? c w = some t)
    (ho : t.wave.arrivalAt b = some o) (hn : gated t.wave o.id none = false)
    (hr : releaseDone (s.core c) t.wave o.id (o.f.m 7 4) = true) (hf : firstOfGangOrder t.wave o.id = true)
    (hh : (t.wave.bars.getD b default).holds = true) :
    o.pause t.wave = { o with released := true, m := 1 } ∧
    (o.m ≠ 1 → exec (.barrierArrival c w b) s = .next (s.modWave c w (fun v => v.modOp o.id (fun p => p.pause t.wave)))) ∧
    (o.m = 1 → ∀ l, candidate t.wave l = false) := by
  obtain ⟨hopc, hb⟩ := Wave.of_arrivalAt ho
  refine ⟨Op.pause_behind hb hf hh, fun hm => (exec_barrierArrival_eq ..).trans (execBarrierArrival_pauses hs ho hn hr hf hh hm),
    fun hm l => candidate_of_arrivalWaits (List.mem_of_find?_eq_some ho) ?_ l⟩
  rcases hopc with h | h <;> simp [Op.arrivalWaits, h, hm]

/-- Settles O49: each event is run to the state that its function gives where it is enabled; the waves, gangs, barriers and rings of that
state are read off by the rules for one wave put into a slot, one gang's barrier and one ring. -/
theorem gangEventsComplete : Obligations.GangEventsComplete := by
  refine ⟨gangStartsWave, attachPlacesWave, waveLeavesGang, arrivalCounts, stageBeginsForWave, ?_, gangAttach_answers, ?_, ?_,
    barrierArrival_behind, ?_, ringDepthReview_reviews⟩
  · intro s c f r h l k hf hfind hk hteam
    exact (exec_gangCreate_eq ..).trans (execGangCreate_one hf hfind hk hteam)
  · intro s c w t g hs hm hg
    exact ⟨fun h1 => (exec_gangLeave_eq ..).trans (execGangLeave_stays hs hm hg h1),
      fun h1 hq => (exec_gangLeave_eq ..).trans (execGangLeave_last hs hm hg h1 hq)⟩
  · intro s c w b t o hs ho hn hr hf hh
    exact (exec_barrierArrival_eq ..).trans (execBarrierArrival_arrives hs ho hn hr hf hh)
  · intro s c i n r p q hr
    exact ⟨fun hp hd => (exec_ringStageBegin_eq ..).trans (execRingStageBegin_fill hr hp hd),
      fun hp hl hf => (exec_ringStageBegin_eq ..).trans (execRingStageBegin_drain hr hp hl hf)⟩

end Sys2Proof.Machine
end

section
open Sys2Proof Sys2Proof.Machine

namespace Sys2Proof.Machine

/-! ## Arms of exec -/

@[simp] theorem exec_barrelVisit_eq (c q : Nat) (s : State) : exec (.barrelVisit c q) s = execBarrelVisit c q s := by rfl
@[simp] theorem exec_reconvRefillComplete_eq (c w : Nat) (s : State) :
    exec (.reconvRefillComplete c w) s = execReconvRefillComplete c w s := by rfl
@[simp] theorem exec_blockFetchComplete_eq (c w : Nat) (pc : W64) (s : State) :
    exec (.blockFetchComplete c w pc) s = execBlockFetchComplete c w pc s := by rfl
@[simp] theorem exec_sleepExpiry_eq (c w l : Nat) (s : State) : exec (.sleepExpiry c w l) s = execSleepExpiry c w l s := by rfl
@[simp] theorem exec_memoryOpComplete_eq (c w o l : Nat) (s : State) :
    exec (.memoryOpComplete c w o l) s = execMemoryOpComplete c w o l s := by rfl
@[simp] theorem exec_conversionComplete_eq (c w o : Nat) (s : State) :
    exec (.conversionComplete c w o) s = execConversionComplete c w o s := by rfl
@[simp] theorem exec_quantumGather_eq (n : Nat) (s : State) : exec (.quantumGather n) s = execQuantumGather n s := by rfl

/-! ## The barrel comes to a slot (01 R16) -/

/-- No spill write is made again where none is logged. -/
theorem replaySpills_of_none {s : State} {c w : Nat} (h : ∀ t, s.slot? c w = some t → t.wave.spillLog = []) : replaySpills s c w = s := by
  unfold replaySpills
  split
  · rfl
  · next t ht => rw [h t ht]; rfl

/-- The visit of a quarter without a run, to a slot whose wave has no operation and no logged spill. -/
theorem execBarrelVisit_quiet {s : State} {c q : Nat} (hq : q < 4) (hr : (s.quarter c q).run = none)
    (hg : openGates s c (16 * q + (s.quarter c q).slot) = s)
    (hp : ∀ t, s.slot? c (16 * q + (s.quarter c q).slot) = some t → t.wave.spillLog = []) :
    execBarrelVisit c q s = .next (visit s c q) := by
  have hc : ¬ (4 ≤ q ∨ (s.quarter c q).run.isSome = true) := by rw [hr]; simp; omega
  simp only [execBarrelVisit]
  rw [if_neg hc, hg, replaySpills_of_none hp]

theorem barrelVisit_quiet (s : State) (c q : Nat) (hq : q < 4) (hr : (s.quarter c q).run = none) :
    let w := 16 * q + (s.quarter c q).slot
    let s' := s.modQuarter c q (fun t => { t with slot := ((s.quarter c q).slot + 1) % 16 })
    (s.slot? c w = none → exec (.barrelVisit c q) s = .next s') ∧
    (∀ t, s.slot? c w = some t → t.wave.ops = [] → t.wave.spillLog = [] →
      exec (.barrelVisit c q) s = .next (if t.parked then countEvent s' (clusterOf c) t.wave.vf 4 1 else visitWave s' c w)) := by
  intro w s'
  have hslot : s'.slot? c w = s.slot? c w := State.slot?_modQuarter ..
  constructor
  · intro hs
    have hg : openGates s c w = s := by simp only [openGates, hs]
    rw [exec_barrelVisit_eq, execBarrelVisit_quiet hq hr hg (fun t ht => by rw [hs] at ht; cases ht)]
    rw [hs] at hslot
    simp only [visit]
    rw [hslot]
  · intro t hs ho hl
    have hg : openGates s c w = s := openGates_of_no_wait hs (fun o h => by rw [ho] at h; cases h)
    rw [exec_barrelVisit_eq, execBarrelVisit_quiet hq hr hg (fun u hu => by rw [hs] at hu; cases hu; exact hl)]
    rw [hs] at hslot
    simp only [visit]
    rw [hslot]

/-! ## One wave changes, and nothing else -/

theorem State.core_modWave_of_ne (s : State) {c d : Nat} (w : Nat) (f : Wave → Wave) (h : d ≠ c) : (s.modWave c w f).core d = s.core d :=
  State.core_modCore_of_ne _ _ h

theorem State.modWave_rest (s : State) (c w : Nat) (f : Wave → Wave) :
    s.modWave c w f = { s with cores := (s.modWave c w f).cores } := rfl

theorem State.slot?_modWave_elsewhere (s : State) (f : Wave → Wave) {c w k v : Nat} (h : k ≠ c ∨ v ≠ w) :
    (s.modWave c w f).slot? k v = s.slot? k v := by
  by_cases hk : k = c
  · subst hk
    exact State.slot?_modWave_of_ne _ _ _ (h.resolve_left (fun e => e rfl))
  · rw [State.slot?, State.core_modWave_of_ne _ _ _ hk]; rfl

/-! ## A sleep ends (09 R215) -/

theorem sleepExpiry_ends (s : State) (c w l : Nat) (t : Slot) (y : Lane) (d : W64) (hs : s.slot? c w = some t)
    (hl : t.wave.lanes[l]? = some y) (hd : .sleep d ∈ y.holds) (hdue : d ≤ (s.core c).clock) :
    ∃ u, exec (.sleepExpiry c w l) s = .next u ∧ u = { s with cores := u.cores } ∧
      (∀ k, k ≠ c → u.core k = s.core k) ∧ (∀ v, v ≠ w → u.slot? c v = s.slot? c v) ∧
      u.slot? c w = some { t with wave := { t.wave with lanes := listSet t.wave.lanes l { y with
        holds := y.holds.filter (fun h => match h with | .sleep e => decide ((s.core c).clock < e) | _ => true) } } } := by
  have hfind : (s.slot? c w).bind (fun t => t.wave.lanes[l]?) = some y := by rw [hs]; exact hl
  have hany : y.holds.any (fun h => match h with | .sleep d => decide (d ≤ (s.core c).clock) | _ => false) = true :=
    List.any_eq_true.mpr ⟨_, hd, by simpa using hdue⟩
  have hrun : execSleepExpiry c w l s = .next (s.modLane c w l (fun y => { y with holds := y.holds.filter (fun h =>
      !(match h with | .sleep d => decide (d ≤ (s.core c).clock) | _ => false)) })) := by
    simp only [execSleepExpiry, hfind]
    exact if_pos hany
  refine ⟨_, (exec_sleepExpiry_eq ..).trans hrun, rfl, fun k hk => State.core_modWave_of_ne _ _ _ hk,
    fun v hv => State.slot?_modWave_of_ne _ _ _ hv, ?_⟩
  rw [State.modLane, State.slot?_modWave, hs, Option.map_some, listAdj_eq_listSet hl]
  have hkeep : ∀ h : Hold, (!(match h with | .sleep d => decide (d ≤ (s.core c).clock) | _ => false)) =
      (match h with | .sleep e => decide ((s.core c).clock < e) | _ => true) := by
    intro h
    cases h with
    | sleep e => simp only [← decide_not, BitVec.not_le]
    | _ => rfl
  simp only [hkeep]

/-! ## The last known lane of a load, and a conversion (02 R58; 08 R175; 09 R200) -/

/-- The end of an operation whose results land leaves what the statements say. -/
theorem Wave.endOp_landed {v : Wave} {o : Op} (h : v.ops = [o]) (r : Regs) (e : Exc) :
    (({ v with regs := r } : Wave).orWstat e).endOp o.id = ((({ v with regs := r, ops := [] } : Wave).orWstat e).lower o.flag) :=
  Wave.endOp_alone (v := ({ v with regs := r } : Wave).orWstat e) h

theorem conversionComplete_lands (s : State) (c w : Nat) (t : Slot) (o : Op) (hs : s.slot? c w = some t) (ho : t.wave.ops = [o])
    (hc : o.opc / 16 = 8 ∨ o.opc / 16 = 9) (hr : runningWave s c w = false) :
    ∃ u, exec (.conversionComplete c w o.id) s = .next u ∧
      u = { s with cores := u.cores } ∧ (∀ k, k ≠ c → u.core k = s.core k) ∧ (∀ v, v ≠ w → u.slot? c v = s.slot? c v) ∧
      u.slot? c w = some { t with wave :=
        ((({ t.wave with regs := t.wave.regs.writes o.writes, ops := [] } : Wave).orWstat o.exc).lower o.flag) } := by
  have hrun : execConversionComplete c w o.id s = .next (s.modWave c w (fun w =>
      (({ w with regs := w.regs.writes o.writes }).orWstat o.exc).endOp o.id)) := by
    have hfind : (s.slot? c w).bind (fun t => t.wave.op? o.id) = some o := by rw [hs]; exact Wave.op?_alone ho
    simp only [execConversionComplete, hfind]
    rw [if_neg (by rcases hc with h | h <;> simp [h, hr])]
  refine ⟨_, (exec_conversionComplete_eq ..).trans hrun, rfl, fun k hk => State.core_modWave_of_ne _ _ _ hk,
    fun v hv => State.slot?_modWave_of_ne _ _ _ hv, ?_⟩
  rw [State.slot?_modWave, hs]
  exact congrArg (fun v => some { t with wave := v }) (Wave.endOp_landed ho _ _)

/-- The completion of the one lane of a wave's one pending operation: what lands, an acquire that the operation carries, its end. -/
theorem finishLane_eq {s : State} {c w : Nat} {t : Slot} {o : Op} {l : LaneOp} (ws : List RegWrite) (e : Exc)
    (h : s.slot? c w = some t) (ha : t.wave.ops = [o]) (hl : o.lanes = [l]) (hg : o.log = .none) :
    finishLane s c w o.id l.lane ws e =
      (if isAtomic o.opc ∧ [5, 7, 8].contains (ordOf o.f) then
          acquireAt (s.modWave c w (fun v => (v.landLane o.id l.lane ws).modOp o.id (fun p => p.doneLane l.lane e))) c (o.f.m 7 4)
        else s.modWave c w (fun v => (v.landLane o.id l.lane ws).modOp o.id (fun p => p.doneLane l.lane e))).modWave c w
        (fun v => (v.orWstat (o.exc ||| e)).endOp o.id) := by
  have hs : ((s.modWave c w (fun v => (v.landLane o.id l.lane ws).modOp o.id (fun p => p.doneLane l.lane e))).slot? c w).bind
      (fun t => t.wave.op? o.id) = some (o.doneLane l.lane e) := by
    rw [State.slot?_modWave, h]
    simp [Wave.landLane, Wave.modOp, ha, Wave.op?, Op.doneLane]
  have hf : freeLog (s.modWave c w (fun v => (v.landLane o.id l.lane ws).modOp o.id (fun p => p.doneLane l.lane e))) c w o.id =
      s.modWave c w (fun v => (v.landLane o.id l.lane ws).modOp o.id (fun p => p.doneLane l.lane e)) := by
    unfold freeLog
    rw [hs]
    simp [Op.doneLane, hg]
  have hd : (o.doneLane l.lane e).allDone = true := by simp [Op.allDone, Op.doneLane, hl]
  unfold finishLane
  simp only [hf, hs, hd, Bool.true_eq_false, if_false]
  rfl

/-- A wave whose one operation o has ended: writes ws in its registers, bits e in WSTAT, its flag lowered. -/
def Slot.ended (t : Slot) (o : Op) (ws : List RegWrite) (e : Exc) : Slot :=
  { t with wave := ((({ t.wave with regs := t.wave.regs.writes ws, ops := [] } : Wave).orWstat e).lower o.flag) }

/-- The writes it kept, and then its own, are in the registers. -/
theorem finishLane_lands {s : State} {c w : Nat} {t : Slot} {o : Op} {l : LaneOp} (ws : List RegWrite) (e : Exc)
    (h : s.slot? c w = some t) (ha : t.wave.ops = [o]) (hl : o.lanes = [l]) (hg : o.log = .none) :
    (finishLane s c w o.id l.lane ws e).slot? c w = some (t.ended o (o.writes.filter (RegWrite.inLane l.lane) ++ ws) (o.exc ||| e)) := by
  have hland : (t.wave.landLane o.id l.lane ws).modOp o.id (fun p => p.doneLane l.lane e) =
      { t.wave with regs := t.wave.regs.writes (o.writes.filter (RegWrite.inLane l.lane) ++ ws), ops := [o.doneLane l.lane e] } := by
    simp [Wave.landLane, Wave.op?_alone ha, Wave.modOp, ha]
  have hone : (s.modWave c w (fun v => (v.landLane o.id l.lane ws).modOp o.id (fun p => p.doneLane l.lane e))).slot? c w =
      some { t with wave := { t.wave with
        regs := t.wave.regs.writes (o.writes.filter (RegWrite.inLane l.lane) ++ ws), ops := [o.doneLane l.lane e] } } := by
    rw [State.slot?_modWave, h, Option.map_some, hland]
  have hend := congrArg (fun v => some { t with wave := v }) (Wave.endOp_alone (v := ({ t.wave with
    regs := t.wave.regs.writes (o.writes.filter (RegWrite.inLane l.lane) ++ ws), ops := [o.doneLane l.lane e] } : Wave).orWstat
      (o.exc ||| e)) (o := o.doneLane l.lane e) rfl)
  rw [finishLane_eq ws e h ha hl hg, State.slot?_modWave]
  split
  · rw [slot?_acquireAt, hone]; exact hend
  · rw [hone]; exact hend

/-- Every other wave of the part stands as it stood. -/
theorem finishLane_elsewhere {s : State} {c w : Nat} {t : Slot} {o : Op} {l : LaneOp} (ws : List RegWrite) (e : Exc)
    (h : s.slot? c w = some t) (ha : t.wave.ops = [o]) (hl : o.lanes = [l]) (hg : o.log = .none) {k v : Nat} (hkv : k ≠ c ∨ v ≠ w) :
    (finishLane s c w o.id l.lane ws e).slot? k v = s.slot? k v := by
  rw [finishLane_eq ws e h ha hl hg, State.slot?_modWave_elsewhere _ _ hkv]
  split
  · rw [slot?_acquireAt, State.slot?_modWave_elsewhere _ _ hkv]
  · rw [State.slot?_modWave_elsewhere _ _ hkv]

/-- The next step of the one lane of a wave's one pending operation. -/
theorem execMemoryOpComplete_alone {s : State} {c w : Nat} {t : Slot} {o : Op} {l : LaneOp} (h : s.slot? c w = some t)
    (ha : t.wave.ops = [o]) (hl : o.lanes = [l]) (hw : o.opc ≠ 0x14 ∧ o.opc ≠ 0x16) :
    execMemoryOpComplete c w o.id l.lane s =
      (laneStep s c w o.id l.lane t.wave o l).elim (.fault .notEnabled) .next := by
  have hg : openGates s c w = s := openGates_of_no_wait h (fun p hp => by rw [ha] at hp; simpa [List.mem_singleton.mp hp] using hw)
  have hfind : o.lanes.find? (fun k => k.lane == l.lane) = some l := by simp [hl]
  simp only [execMemoryOpComplete, hg, h, Wave.op?_alone ha, hfind]
  cases laneStep s c w o.id l.lane t.wave o l <;> rfl

theorem knownLoad_lands (s : State) (c w : Nat) (t : Slot) (o : Op) (l : LaneOp) (hs : s.slot? c w = some t) (ho : t.wave.ops = [o])
    (hl : o.lanes = [l]) (hlo : 0xA0 ≤ o.opc) (hhi : o.opc < 0xC0) (hg : o.log = .none) (hk : l.st = .known) :
    ∃ u, exec (.memoryOpComplete c w o.id l.lane) s = .next u ∧
      u = { s with cores := u.cores } ∧ (∀ k, k ≠ c → u.core k = s.core k) ∧ (∀ v, v ≠ w → u.slot? c v = s.slot? c v) ∧
      u.slot? c w = some { t with wave :=
        ((({ t.wave with regs := t.wave.regs.writes (o.writes.filter (RegWrite.inLane l.lane)), ops := [] } : Wave).orWstat o.exc).lower
          o.flag) } := by
  have hn : isAtomic o.opc = false := by simp [isAtomic]; omega
  have hrun : execMemoryOpComplete c w o.id l.lane s = .next (finishLane s c w o.id l.lane [] 0) := by
    rw [execMemoryOpComplete_alone hs ho hl ⟨by omega, by omega⟩]
    simp only [laneStep, hk, knownStep]
    rw [if_neg (by omega), if_neg (by omega), if_neg (by omega), if_neg (by omega)]
    rfl
  refine ⟨_, (exec_memoryOpComplete_eq ..).trans hrun, finishLane_rest _ _ hs ho hl hg hn, fun k hk => ?_,
    fun v hv => finishLane_others _ _ hs ho hl hg hn v hv, ?_⟩
  · rw [finishLane_alone _ _ hs ho hl hg hn, State.core_modWave_of_ne _ _ _ hk, State.core_modWave_of_ne _ _ _ hk]
  · have h0 : o.exc ||| 0 = o.exc := by simp
    rw [finishLane_lands _ _ hs ho hl hg, List.append_nil, h0]
    rfl

/-! ## Changes of the cores alone -/

/-- u differs from s in its cores alone. -/
def OnlyCores (s u : State) : Prop := u = { s with cores := u.cores }

theorem OnlyCores.refl (s : State) : OnlyCores s s := rfl

theorem OnlyCores.trans {s t u : State} (a : OnlyCores s t) (b : OnlyCores t u) : OnlyCores s u := by
  unfold OnlyCores at *
  rw [b, a]

theorem OnlyCores.modCore (s : State) (c : Nat) (f : Core → Core) : OnlyCores s (s.modCore c f) := rfl
theorem OnlyCores.modWave (s : State) (c w : Nat) (f : Wave → Wave) : OnlyCores s (s.modWave c w f) := rfl

theorem OnlyCores.mem {s u : State} (h : OnlyCores s u) : u.mem = s.mem := by rw [h]
theorem OnlyCores.funcs {s u : State} (h : OnlyCores s u) : u.funcs = s.funcs := by rw [h]

/-- A fold of such changes. -/
theorem OnlyCores.foldl {α : Type} {f : State → α → State} (h : ∀ s a, OnlyCores s (f s a)) (l : List α) (s : State) :
    OnlyCores s (l.foldl f s) :=
  List.foldlRecOn (motive := OnlyCores s) l f (.refl s) (fun t ht a _ => ht.trans (h t a))

theorem OnlyCores.acquireAt (s : State) (c sc : Nat) : OnlyCores s (acquireAt s c sc) := by
  unfold Machine.acquireAt invalidateL1
  split
  · exact .modCore ..
  · exact .refl s

theorem OnlyCores.giveFreed (s : State) (c q : Nat) : OnlyCores s (giveFreed s c q) := by
  unfold Machine.giveFreed
  split
  · exact .modWave ..
  · exact .refl s

theorem OnlyCores.freeLog (s : State) (c w id : Nat) : OnlyCores s (freeLog s c w id) := by
  unfold Machine.freeLog
  split
  · exact .refl s
  · split
    · exact .refl s
    · dsimp only
      split
      · exact (OnlyCores.modWave ..).trans (.giveFreed ..)
      · exact .modWave ..

/-- The completion of a lane. -/
theorem OnlyCores.finishLane (s : State) (c w id l : Nat) (ws : List RegWrite) (e : Exc) : OnlyCores s (finishLane s c w id l ws e) := by
  unfold Machine.finishLane
  refine (OnlyCores.modWave s c w (fun v => (v.landLane id l ws).modOp id (fun o => o.doneLane l e))).trans
    ((OnlyCores.freeLog _ c w id).trans ?_)
  dsimp only
  split
  · exact .refl _
  · split
    · exact .refl _
    · refine OnlyCores.trans ?_ (.modWave ..)
      split
      · exact .acquireAt ..
      · exact .refl _

/-! ## Where nothing is traced -/

/-- The entry of a table for a key is the default, or stands in the table. -/
theorem Tab.get_mem_or {α : Type} (d : α) (m : Tab α) (i : Nat) : Tab.get d m i = d ∨ (i, Tab.get d m i) ∈ m := by
  by_cases h : i ∈ m.map Prod.fst
  · exact .inr (Tab.mem_of_key d h)
  · refine .inl ?_
    unfold Tab.get
    induction m with
    | nil => rfl
    | cons p r ih =>
      simp only [List.map_cons, List.mem_cons, not_or] at h
      simp only [Tab.get?]
      rw [if_neg h.1]
      exact ih h.2

/-- What holds of a table's entries, and of a value, holds of the entries of the table with that value put in. -/
theorem Tab.forall_put {α : Type} [DecidableEq α] {d : α} {m : Tab α} {i : Nat} {v : α} {q : Nat × α → Bool} (hv : q (i, v) = true)
    (hm : m.all q = true) : (Tab.put d m i v).all q = true := by
  unfold Tab.put
  split
  · exact Tab.all_del m i q hm
  · exact Tab.all_ins m i v q hv hm

/-- No watchpoint of a core is armed. -/
def Core.unwatched (k : Core) : Bool := k.watch.all (fun w => !w.en)

theorem Untraced.cores_unwatched {s : State} (h : Untraced s) : s.cores.all (fun p => p.2.unwatched) = true := by
  refine List.all_eq_true.mpr (fun p hp => List.all_eq_true.mpr (fun w hw => ?_))
  rw [h.watches p hp w hw]; rfl

theorem Untraced.of_unwatched {s u : State} (h : Untraced s) (hf : u.funcs = s.funcs) (hc : u.cores.all (fun p => p.2.unwatched) = true) :
    Untraced u := by
  refine ⟨fun p hp => h.regions p (hf ▸ hp), fun p hp w hw => ?_⟩
  have := List.all_eq_true.mp (List.all_eq_true.mp hc p hp) w hw
  simpa using this

theorem Untraced.core_unwatched {s : State} (h : Untraced s) (c : Nat) : (s.core c).unwatched = true := by
  rcases Tab.get_mem_or Core.idle s.cores c with e | e
  · rw [State.core, e]; decide
  · exact List.all_eq_true.mp h.cores_unwatched _ e

/-- A change of a core that keeps its watchpoints. -/
theorem Untraced.modCore {s : State} (h : Untraced s) {c : Nat} {f : Core → Core} (hf : (f (s.core c)).watch = (s.core c).watch) :
    Untraced (s.modCore c f) := by
  refine h.of_unwatched rfl (Tab.forall_put ?_ h.cores_unwatched)
  have := h.core_unwatched c
  simpa only [Core.unwatched, hf] using this

theorem Untraced.dropL1 {s : State} (h : Untraced s) (c line : Nat) : Untraced (dropL1 s c line) := h.modCore rfl

/-- No WATCHE record is made where no watchpoint is armed. -/
theorem watchSlice_of_untraced {s : State} (h : Untraced s) (own : Option Nat) (w : Writer) (spa n : Nat) :
    watchSlice s own w spa n = s := by
  unfold watchSlice
  refine foldl_of_fixed (fun p hp => ?_)
  split
  · rfl
  · refine foldl_of_fixed (fun x hx => ?_)
    have hx' : x.1.en = false := by
      obtain ⟨y, i⟩ := x
      exact h.watches p hp y (List.mem_of_getElem? (List.mk_mem_zipIdx_iff_getElem?.mp hx))
    split
    · rfl
    · rw [hx']; rfl

theorem Untraced.homeWrite {s : State} (h : Untraced s) (w : Writer) (spa : Nat) (bytes : List Byte) : Untraced (homeWrite s w spa bytes) := by
  refine h.of_unwatched ?_ ?_
  · rw [Machine.homeWrite, homeWriteBy_frame h]
  · rw [Machine.homeWrite, homeWriteBy_frame h]; exact h.cores_unwatched

/-- The bytes a write at the home slice leaves. -/
theorem homeWrite_byte {s : State} (h : Untraced s) (w : Writer) (spa : Nat) (bytes : List Byte) (x : Nat) :
    memByte (homeWrite s w spa bytes).mem x = if spa ≤ x ∧ x < spa + bytes.length then bytes.getD (x - spa) 0 else memByte s.mem x := by
  rw [homeWrite, homeWriteBy_byte h]
  simp

/-! ## Gathered adds (04 R103) -/

theorem OnlyCores.quantEnd (s : State) (q : QuantAdd) (base : Nat) : OnlyCores s (quantEnd s q base) := by
  unfold Machine.quantEnd
  split
  · exact .refl s
  · exact .finishLane ..

/-- The cores' copies of a line are dropped. -/
theorem dropL1s_stands {s : State} (h : Untraced s) (line : Nat) (qs : List QuantAdd) :
    Untraced (qs.foldl (fun s x => dropL1 s x.core line) s) ∧ (qs.foldl (fun s x => dropL1 s x.core line) s).mem = s.mem :=
  List.foldlRecOn (motive := fun u => Untraced u ∧ u.mem = s.mem) qs _ ⟨h, rfl⟩ (fun _ hu x _ => ⟨hu.1.dropL1 x.core line, hu.2⟩)

/-- Adds of one location add their sum there, and nothing else of memory changes. -/
theorem quantDo_byte {s : State} (h : Untraced s) (qs : List QuantAdd) (q : QuantAdd) (a : Nat) :
    memByte (quantDo s qs q).mem a = if q.spa ≤ a ∧ a < q.spa + (if q.n64 then 8 else 4)
      then (leBytes (if q.n64 then 8 else 4) ((leNat (s.bytesAt q.spa (if q.n64 then 8 else 4)) + (qs.map QuantAdd.amount).sum) %
        2 ^ (8 * (if q.n64 then 8 else 4)))).getD (a - q.spa) 0 else memByte s.mem a := by
  have hsum : qs.foldl (fun t x => t + x.amount) 0 = (qs.map QuantAdd.amount).sum := by
    rw [List.sum_eq_foldl, List.foldl_map]
  have h1 : Untraced { s with free := s.free + 1 } := ⟨h.regions, h.watches⟩
  obtain ⟨h2, hmem⟩ := dropL1s_stands h1 (q.spa / 64) qs
  simp only [quantDo]
  rw [(OnlyCores.foldl (f := fun s (p : QuantAdd × Nat) => quantEnd s p.1 p.2) (fun s p => OnlyCores.quantEnd s p.1 p.2) _ _).mem,
    watchSlice_of_untraced (h2.homeWrite _ _ _), homeWrite_byte h2, hmem, leBytes_length, hsum]

theorem quantumGather_adds (s : State) (n : Nat) (q : QuantAdd) (hq : q ∈ (s.cluster n).quant) (h : Untraced s)
    (hall : ∀ x, x ∈ (s.cluster n).quant → x.spa = q.spa ∧ x.n64 = q.n64 ∧ quantMay s x = true) (hp : s.linePois q.spa = false) :
    ∃ t, exec (.quantumGather n) s = .next t ∧
      let k := if q.n64 then 8 else 4
      let v := leNat (s.bytesAt q.spa k) + ((s.cluster n).quant.map QuantAdd.amount).sum
      ∀ a, memByte t.mem a = if q.spa ≤ a ∧ a < q.spa + k then (leBytes k (v % 2 ^ (8 * k))).getD (a - q.spa) 0 else memByte s.mem a := by
  obtain ⟨x, r, hx⟩ : ∃ x r, (s.cluster n).quant = x :: r := by
    cases hl : (s.cluster n).quant with
    | nil => rw [hl] at hq; cases hq
    | cons x r => exact ⟨x, r, rfl⟩
  rw [hx] at hall ⊢
  obtain ⟨hspa, hn64, -⟩ := hall x List.mem_cons_self
  have hmine : (x :: r).filter (fun y => y.spa == x.spa && y.n64 == x.n64) = x :: r := by
    refine List.filter_eq_self.mpr (fun y hy => ?_)
    obtain ⟨e1, e2, -⟩ := hall y hy
    simp [e1, e2, hspa, hn64]
  obtain ⟨s1, hs1⟩ : ∃ s1, s1 = s.modCluster n (fun k => { k with quant := k.quant.filter (fun y => !(y.spa == x.spa && y.n64 == x.n64)) }) :=
    ⟨_, rfl⟩
  have hmay : ∀ y, y ∈ x :: r → quantMay s1 y = true := fun y hy => by
    rw [hs1]; exact (hall y hy).2.2
  have hyes : (x :: r).filter (quantMay s1) = x :: r := List.filter_eq_self.mpr hmay
  have hno : (x :: r).filter (fun y => !quantMay s1 y) = [] := by
    refine List.filter_eq_nil_iff.mpr (fun y hy => ?_)
    simp [hmay y hy]
  have hpois : s1.linePois x.spa = false := by rw [hs1, hspa]; exact hp
  have hrun : execQuantumGather n s = .next (quantDo s1 (x :: r) x) := by
    simp only [execQuantumGather, hx, hmine, ← hs1, hyes, hno, List.foldl_nil, hpois, Bool.false_eq_true, if_false]
  refine ⟨_, (exec_quantumGather_eq ..).trans hrun, ?_⟩
  have h1 : Untraced s1 := by rw [hs1]; exact ⟨h.regions, h.watches⟩
  intro k v a
  rw [quantDo_byte h1, hspa, hn64, hs1]
  rfl

/-! ## What a completion leaves of a state whose waves stand as s's -/

/-- The completion of the one lane that pends, in a state where the waves stand as in s. -/
theorem Pends.ends {s x : State} {c w : Nat} {t : Slot} {o : Op} {l : LaneOp} (h : Pends s c w t o l) (hx : ∀ k v, x.slot? k v = s.slot? k v)
    (ws : List RegWrite) (e : Exc) : Ends s (finishLane x c w o.id l.lane ws e) c w t o ws e := by
  have hs : x.slot? c w = some t := (hx c w).trans h.here
  constructor
  · rw [finishLane_lands ws e hs h.alone h.lane h.unlogged, h.unwritten]
    rfl
  · intro k v hkv
    rw [finishLane_elsewhere ws e hs h.alone h.lane h.unlogged hkv, hx]

/-! ## A write of the queue drains (03 R67; 09 R202, R203) -/

/-- What a write leaves of a line's poison changes nothing else. -/
theorem carryPoison_frame (s : State) (a : Nat) (p : List Nat) : carryPoison s a p = { s with memPois := (carryPoison s a p).memPois } := by
  unfold carryPoison
  split <;> rfl

/-- The state in which a drained entry has been written, before it is acknowledged. -/
def drained (s : State) (c : Nat) (e : WqEntry) (a : Nat) : State :=
  carryPoison (homeWriteBy (s.modCore c (fun k => { k with wq := k.wq.filter (fun x => x.id != e.id) })) e.writer a e.bytes e.holes) a e.poison

/-- An entry to HBM4 drains where its party may write. -/
theorem drainStep_hbm {s : State} {c a : Nat} {e : WqEntry} (hf : (s.core c).wq.find? (fun x => x.id == e.id) = some e)
    (h1 : firstOf (s.core c).wq e = true) (ht : e.tgt = .hbm a) (hw : s.writable e.party a = true) :
    drainStep s c e.id = some (ackWrite (drained s c e a) c e) := by
  have hw' : (s.modCore c (fun k => { k with wq := k.wq.filter (fun x => x.id != e.id) })).writable e.party a = true := hw
  simp only [drainStep, hf, h1, performWrite, ht, hw', if_true, Bool.true_eq_false, if_false]
  rfl

/-- What stands after the write: cores but for the queue, and everything else but memory and its marks. -/
theorem drained_stands {s : State} (h : Untraced s) (c a : Nat) (e : WqEntry) :
    drained s c e a = { s with
      mem := (drained s c e a).mem, memPois := (drained s c e a).memPois, llcPois := (drained s c e a).llcPois,
      eccs := (drained s c e a).eccs, specs := (drained s c e a).specs, cores := (drained s c e a).cores } ∧
    (drained s c e a).cores = (s.modCore c (fun k => { k with wq := k.wq.filter (fun x => x.id != e.id) })).cores ∧
    ∀ x, memByte (drained s c e a).mem x =
      if a ≤ x ∧ x < a + e.bytes.length ∧ x - a ∉ e.holes then e.bytes.getD (x - a) 0 else memByte s.mem x := by
  have h1 : Untraced (s.modCore c (fun k => { k with wq := k.wq.filter (fun x => x.id != e.id) })) := h.modCore rfl
  refine ⟨?_, ?_, fun x => ?_⟩
  · rw [drained, carryPoison_frame, homeWriteBy_frame h1]; rfl
  · rw [drained, carryPoison_frame, homeWriteBy_frame h1]
  · rw [drained, carryPoison_frame, homeWriteBy_byte h1]; rfl

theorem OnlyCores.ackWrite (s : State) (c : Nat) (e : WqEntry) : OnlyCores s (ackWrite s c e) := by
  unfold Machine.ackWrite
  split
  · exact .foldl (fun s l => .finishLane ..) _ _
  · exact .refl s

/-- No one waits for an entry without a word. -/
theorem ackWrite_of_none {s : State} {c : Nat} {e : WqEntry} (h : e.who = none) : ackWrite s c e = s := by
  simp only [ackWrite, WqEntry.op?, h]

/-- The lane of an entry's word completes. -/
theorem ackWrite_of_lane {s : State} {c w l id : Nat} {t : Slot} {e : WqEntry} (hs : s.slot? c w = some t) (hw : e.who = some (t.wave.uid, w, id))
    (hl : e.lanes.map Prod.fst = [l]) : ackWrite s c e = finishLane s c w id l [] 0 := by
  simp only [ackWrite, WqEntry.op?, hw, hs, if_true, hl, List.foldl_cons, List.foldl_nil]

/-- The write queue after the completion of a lane. -/
theorem finishLane_wq {s : State} {c w : Nat} {t : Slot} {o : Op} {l : LaneOp} (ws : List RegWrite) (e : Exc)
    (h : s.slot? c w = some t) (ha : t.wave.ops = [o]) (hl : o.lanes = [l]) (hg : o.log = .none) (hn : isAtomic o.opc = false) :
    ((finishLane s c w o.id l.lane ws e).core c).wq = (s.core c).wq := by
  rw [finishLane_alone ws e h ha hl hg hn]
  simp only [State.modWave, State.modSlot, State.core_modCore]

theorem drain_writes (s : State) (c a : Nat) (e : WqEntry) (r : List Move) (hp : s.powered = true) (ha : s.agenda = .drain c e.id :: r)
    (hf : (s.core c).wq.find? (fun x => x.id == e.id) = some e) (h1 : firstOf (s.core c).wq e = true) (ht : e.tgt = .hbm a)
    (hw : s.writable e.party a = true) (hu : Untraced s) :
    let s' : State := { s with agenda := r }
    ∃ u, step s = .next (syncSaved s' u) ∧
      (∀ x, memByte u.mem x = if a ≤ x ∧ x < a + e.bytes.length ∧ x - a ∉ e.holes then e.bytes.getD (x - a) 0 else memByte s.mem x) ∧
      (e.who = none →
        u = { s' with mem := u.mem, memPois := u.memPois, llcPois := u.llcPois, eccs := u.eccs, specs := u.specs, cores := u.cores } ∧
        (u.core c).wq = (s.core c).wq.filter (fun x => x.id != e.id)) ∧
      (∀ w t o l, Pends s c w t o l → e.who = some (t.wave.uid, w, o.id) → e.lanes.map Prod.fst = [l.lane] → isAtomic o.opc = false →
        (u.core c).wq = (s.core c).wq.filter (fun x => x.id != e.id) ∧ Ends s u c w t o [] 0) := by
  intro s'
  have hu' : Untraced s' := ⟨hu.regions, hu.watches⟩
  have hdrain : drainStep s' c e.id = some (ackWrite (drained s' c e a) c e) := drainStep_hbm hf h1 ht hw
  obtain ⟨hrest, hcores, hbytes⟩ := drained_stands hu' c a e
  have hwq : ((drained s' c e a).core c).wq = (s.core c).wq.filter (fun x => x.id != e.id) := by
    rw [State.core, hcores, ← State.core, State.core_modCore]; rfl
  have hslots : ∀ k v, (drained s' c e a).slot? k v = s.slot? k v := by
    intro k v
    rw [State.slot?_of_cores hcores, State.slot?]
    by_cases hk : k = c
    · subst hk; rw [State.core_modCore]; rfl
    · rw [State.core_modCore_of_ne _ _ hk]; rfl
  refine ⟨ackWrite (drained s' c e a) c e, ?_, fun x => ?_, fun hno => ?_, fun w t o l hpend hwho hlane hn => ?_⟩
  · rw [step_agenda hp ha]
    exact runMove_next (show moveIf (drainStep s' c e.id) = _ by rw [hdrain]; rfl)
  · rw [(OnlyCores.ackWrite ..).mem]; exact hbytes x
  · rw [ackWrite_of_none hno]
    exact ⟨hrest, hwq⟩
  · have hs := (hslots c w).trans hpend.here
    rw [ackWrite_of_lane hs hwho hlane]
    exact ⟨(finishLane_wq _ _ hs hpend.alone hpend.lane hpend.unlogged hn).trans hwq, hpend.ends hslots [] 0⟩

/-! ## The one lane of a wave's one pending access (09 R200) -/

/-- Nothing earlier of its wave holds back its one access. -/
theorem sharedBlocked_alone {v : Wave} {o : Op} (h : v.ops = [o]) (va : W64) : sharedBlocked v o.id va = false := by
  simp [sharedBlocked, h]

/-- The lanes that share the request of an operation's only lane: that lane. -/
theorem lineMates_alone {v : Wave} {o : Op} {l : LaneOp} (h : o.lanes = [l]) : lineMates v o l = [l] := by
  simp [lineMates, h]

theorem laneBlocked_alone {o : Op} {l : LaneOp} (h : o.lanes = [l]) (va : W64) : laneBlocked o l.lane va = false := by
  simp [laneBlocked, h]

/-- The loads whose completion the statements name. -/
def plainLoad (o : Nat) : Prop := o ∈ [0xA0, 0xA2, 0xA4, 0xAA, 0xAC, 0xAD]

/-- A plain load goes to the shared space, and is neither an atomic nor a store, nor a word with steps of its own. -/
theorem plainLoad_kind {o : Op} (h : plainLoad o.opc) : localBuf o.opc o.f = none ∧ isShared o = true ∧ isAtomic o.opc = false ∧
    isStore o.opc = false ∧ 0xA0 ≤ o.opc ∧ o.opc ≤ 0xAD ∧ readSize o = accSize o.opc o.f := by
  have hc : o.opc = 0xA0 ∨ o.opc = 0xA2 ∨ o.opc = 0xA4 ∨ o.opc = 0xAA ∨ o.opc = 0xAC ∨ o.opc = 0xAD := by simpa [plainLoad] using h
  rcases hc with e | e | e | e | e | e <;> simp [localBuf, isShared, isLoad, isAtomic, isStore, readSize, e]

/-- A plain load that is ready is performed. -/
theorem laneStep_plainLoad {s : State} {c w : Nat} {t : Slot} {o : Op} {l : LaneOp} (h : Pends s c w t o l) (hr : l.st = .ready)
    (hc : plainLoad o.opc) : laneStep s c w o.id l.lane t.wave o l = loadStep s c w o.id t.wave o l := by
  obtain ⟨hbuf, hshared, hatom, hstore, hlo, hhi, -⟩ := plainLoad_kind hc
  have hexp : [0xED, 0xEE, 0xEF].contains o.opc = false := by simp; omega
  simp only [laneStep, hr, readyStep, gated_alone h.alone, hexp, hbuf, hshared, sharedBlocked_alone h.alone, hatom, hstore,
    Bool.false_eq_true, if_false]
  rw [if_neg (by omega), if_neg (by omega), if_neg (by simp)]

/-- An operation that keeps writes ws and bits e of a lane until it completes. -/
def Op.keeping (o : Op) (lane : Nat) (ws : List RegWrite) (e : Exc) : Op :=
  { o with writes := o.writes ++ ws, exc := o.exc ||| e,
           lanes := o.lanes.map (fun (l : LaneOp) => if l.lane = lane then { l with st := .known } else l) }

/-- The wave's one operation keeps what its one lane's access gave, and its lane is known. -/
theorem keepLane_alone {x : State} {c w : Nat} {t : Slot} {o : Op} {l : LaneOp} (hs : x.slot? c w = some t) (ho : t.wave.ops = [o])
    (ws : List RegWrite) (e : Exc) :
    (keepLane x c w o.id l.lane ws e).slot? c w = some { t with wave := { t.wave with ops := [o.keeping l.lane ws e] } } := by
  have hop : t.wave.modOp o.id (fun p => p.keeping l.lane ws e) = { t.wave with ops := [o.keeping l.lane ws e] } := by
    simp [Wave.modOp, ho]
  refine (State.slot?_modWave ..).trans ?_
  rw [hs]
  exact congrArg (fun v => some { t with wave := v }) hop

/-- A lane whose access gave its writes and bits completes with them. -/
theorem settleLane_keepLane {s x : State} {c w : Nat} {t : Slot} {o : Op} {l : LaneOp} (h : Pends s c w t o l)
    (hx : ∀ k v, x.slot? k v = s.slot? k v) (hc : o.opc < 0xDF) (ws : List RegWrite) (e : Exc) :
    (settleLane (keepLane x c w o.id l.lane ws e) c w o.id l.lane).mem = x.mem ∧
    Ends s (settleLane (keepLane x c w o.id l.lane ws e) c w o.id l.lane) c w t o (ws.filter (RegWrite.inLane l.lane)) e := by
  have hs := keepLane_alone (l := l) ((hx c w).trans h.here) h.alone ws e
  have hlanes : (o.keeping l.lane ws e).lanes = [{ l with st := .known }] := by simp [Op.keeping, h.lane]
  have hset : settleLane (keepLane x c w o.id l.lane ws e) c w o.id l.lane =
      finishLane (keepLane x c w o.id l.lane ws e) c w o.id l.lane [] 0 := by
    have hop : ((keepLane x c w o.id l.lane ws e).slot? c w).bind (fun t => t.wave.op? o.id) = some (o.keeping l.lane ws e) := by
      rw [hs]
      exact Wave.op?_alone (o := o.keeping l.lane ws e) rfl
    have hfind : (o.keeping l.lane ws e).lanes.find? (fun k => k.lane == l.lane) = some { l with st := .known } := by simp [hlanes]
    have hopc : (o.keeping l.lane ws e).opc = o.opc := rfl
    simp only [settleLane, hop, hfind, hopc]
    rw [if_neg (by simp; omega), if_neg (by omega)]
  rw [hset]
  refine ⟨(OnlyCores.finishLane ..).mem, ?_, fun k v hkv => ?_⟩
  · refine (finishLane_lands (o := o.keeping l.lane ws e) [] 0 hs rfl hlanes h.unlogged).trans ?_
    have hw : (o.keeping l.lane ws e).writes = ws := by simp [Op.keeping, h.unwritten]
    have he : (o.keeping l.lane ws e).exc ||| 0 = o.exc ||| e := by simp [Op.keeping]
    rw [hw, he, List.append_nil]
    rfl
  · refine (finishLane_elsewhere (o := o.keeping l.lane ws e) [] 0 hs rfl hlanes h.unlogged hkv).trans ?_
    exact (State.slot?_modWave_elsewhere _ _ hkv).trans (hx k v)

/-- A lane of a plain load that has got its bytes completes. -/
theorem deliver_settles {s x : State} {c w vf : Nat} {t : Slot} {o : Op} {l : LaneOp} (h : Pends s c w t o l) (hc : plainLoad o.opc)
    (hx : ∀ k v, x.slot? k v = s.slot? k v) (b : List Byte) :
    (settleLane (deliver x c w o.id o l vf b false) c w o.id l.lane).mem = x.mem ∧
    Ends s (settleLane (deliver x c w o.id o l vf b false) c w o.id l.lane) c w t o
      ((loadResult o.opc o.f l.lane b).1.filter (RegWrite.inLane l.lane)) (loadResult o.opc o.f l.lane b).2 := by
  obtain ⟨-, -, -, -, hlo, hhi, -⟩ := plainLoad_kind hc
  have hkeep : deliver x c w o.id o l vf b false =
      keepLane x c w o.id l.lane (loadResult o.opc o.f l.lane b).1 (loadResult o.opc o.f l.lane b).2 := by
    simp only [deliver, Bool.false_eq_true, if_false]
    rw [if_neg (by omega), if_neg (by omega), if_neg (by omega)]
  rw [hkeep]
  exact settleLane_keepLane h hx (by omega) _ _

/-! ## The bytes a load takes (03 R64, R67; 09 R203) -/

theorem leNat_drop : ∀ (j : Nat) (bs : List Byte), leNat (bs.drop j) = leNat bs / 256 ^ j
  | 0, bs => by simp
  | j + 1, [] => by simp [leNat]
  | j + 1, b :: r => by
    have hb : b.toNat < 256 := b.isLt
    rw [List.drop_succ_cons, leNat_drop j r, leNat, Nat.pow_succ', ← Nat.div_div_eq_div_mul, Nat.add_mul_div_left _ _ (by decide),
      Nat.div_eq_of_lt hb, Nat.zero_add]

theorem leNat_take : ∀ (k : Nat) (bs : List Byte), leNat (bs.take k) = leNat bs % 256 ^ k
  | 0, bs => by simp [leNat, Nat.mod_one]
  | k + 1, [] => by simp [leNat]
  | k + 1, b :: r => by
    have hb : b.toNat < 256 := b.isLt
    rw [List.take_succ_cons, leNat, leNat, leNat_take k r, Nat.pow_succ', Nat.mod_mul, Nat.add_mul_mod_self_left,
      Nat.mod_eq_of_lt hb, Nat.add_mul_div_left _ _ (by decide), Nat.div_eq_of_lt hb, Nat.zero_add]

/-- A field of a number of little-endian bytes is the number of the field's bytes. -/
theorem extract_leNat (bs : List Byte) {w j k : Nat} (h : 8 * (j + k) ≤ w) :
    (BitVec.ofNat w (leNat bs)).extractLsb' (8 * j) (8 * k) = BitVec.ofNat (8 * k) (leNat ((bs.drop j).take k)) := by
  apply BitVec.eq_of_toNat_eq
  have hj : (256 : Nat) ^ j = 2 ^ (8 * j) := by rw [Nat.pow_mul]
  have hk : (256 : Nat) ^ k = 2 ^ (8 * k) := by rw [Nat.pow_mul]
  have hw : (2 : Nat) ^ w = 2 ^ (8 * j) * 2 ^ (w - 8 * j) := by rw [← Nat.pow_add]; congr 1; omega
  have hd : (2 : Nat) ^ (8 * k) ∣ 2 ^ (w - 8 * j) := Nat.pow_dvd_pow 2 (by omega)
  rw [BitVec.extractLsb'_toNat, BitVec.toNat_ofNat, BitVec.toNat_ofNat, leNat_take, leNat_drop, hj, hk, Nat.mod_mod,
    Nat.shiftRight_eq_div_pow, hw, Nat.mod_mul_right_div_self, Nat.mod_mod_of_dvd _ hd]

@[simp] theorem State.bytesAt_length (s : State) (a n : Nat) : (s.bytesAt a n).length = n := by simp [State.bytesAt]

/-- A part of n bytes from an address. -/
theorem State.bytesAt_part (s : State) (a : Nat) {n j k : Nat} (h : j + k ≤ n) : ((s.bytesAt a n).drop j).take k = s.bytesAt (a + j) k := by
  refine List.ext_getElem ?_ (fun i h1 h2 => ?_)
  · simp; omega
  · simp [State.bytesAt, Nat.add_assoc]

/-- A field of a line as its home slice delivers it. -/
theorem homeLine_field (s : State) {a k : Nat} (h : a % 64 + k ≤ 64) :
    (homeLine s (a / 64)).data.extractLsb' (8 * (a % 64)) (8 * k) = BitVec.ofNat (8 * k) (leNat (s.bytesAt a k)) := by
  have ha : 64 * (a / 64) + a % 64 = a := Nat.div_add_mod a 64
  rw [homeLine, extract_leNat (w := 512) _ (by omega), State.bytesAt_part s _ h, ha]

theorem homeLine_byte (s : State) (a : Nat) : (homeLine s (a / 64)).data.extractLsb' (8 * (a % 64)) 8 = s.byteAt a := by
  have h := homeLine_field s (a := a) (k := 1) (by omega)
  rw [show 8 * 1 = 8 from rfl] at h
  rw [h]
  simp [State.bytesAt, leNat]

/-- Poison of a byte of a line as its home slice delivers it. -/
theorem homeLine_pois (s : State) (a : Nat) : (homeLine s (a / 64)).pois (a % 64) = s.bytePois a := by
  simp only [Line.pois, homeLine, State.bytePois]
  congr 1
  rw [Bool.eq_iff_iff, List.contains_iff_mem, List.contains_iff_mem]
  simp only [List.mem_map, List.mem_filter, beq_iff_eq]
  constructor
  · rintro ⟨i, ⟨hi, h1⟩, h2⟩
    rwa [show a / 4 = i by omega]
  · intro hi
    exact ⟨a / 4, ⟨hi, by omega⟩, by omega⟩

theorem forwarded_of_empty {k : Core} (h : k.wq = []) (a : Nat) (b : Byte × Bool) : forwarded k a b = b := by
  simp [forwarded, forwardedAt, h]

theorem countEvent_cores (s : State) (cl f code n : Nat) : (countEvent s cl f code n).cores = s.cores := by
  unfold countEvent; split <;> rfl

theorem countEvent_mem (s : State) (cl f code n : Nat) : (countEvent s cl f code n).mem = s.mem := by
  unfold countEvent; split <;> rfl

/-- A fill of a core's L1: waves and memory stand, and so does the write queue. -/
theorem coreLine_miss {s : State} {c vf line : Nat} (hl : (s.core c).l1.get? line = none) (hq : (s.core c).wq = []) :
    ∃ x, coreLine s c vf line = (x, homeLine s line) ∧ x.mem = s.mem ∧ (∀ k v, x.slot? k v = s.slot? k v) ∧ (x.core c).wq = [] := by
  have hfill : fillLine s c line = homeLine s line := by simp [fillLine, wqLine, hq]
  refine ⟨_, by simp only [coreLine, hl, hfill]; rfl, ?_, fun k v => ?_, ?_⟩
  · rw [countEvent_mem, State.modCore_mem, homeTouch_mem]
  · rw [State.slot?_of_cores (countEvent_cores ..), State.slot?]
    by_cases hk : k = c
    · subst hk; rw [State.core_modCore, homeTouch_core]; rfl
    · rw [State.core_modCore_of_ne _ _ hk, homeTouch_core]; rfl
  · rw [State.core, countEvent_cores, ← State.core, State.core_modCore, homeTouch_core]; exact hq

/-- A read within a line that no queue and no poison touches gives memory's bytes. -/
theorem coreRead_miss {s : State} {c vf a n : Nat} (hl : (s.core c).l1.get? (a / 64) = none) (hq : (s.core c).wq = [])
    (hp : s.poisAt a n = false) (hn : a % 64 + n ≤ 64) :
    ∃ x, coreRead s c vf a n = (x, s.bytesAt a n, false) ∧ x.mem = s.mem ∧ (∀ k v, x.slot? k v = s.slot? k v) := by
  obtain ⟨x, hline, hmem, hslots, hwq⟩ := coreLine_miss (vf := vf) hl hq
  have hbytes : (List.range n).map (fun i => forwarded (x.core c) (a + i) ((homeLine s (a / 64)).data.extractLsb' (8 * ((a + i) % 64)) 8,
      (homeLine s (a / 64)).pois ((a + i) % 64))) = (List.range n).map (fun i => (s.byteAt (a + i), false)) := by
    refine List.map_congr_left (fun i hi => ?_)
    have hi' := List.mem_range.mp hi
    have hpi : s.bytePois (a + i) = false := by
      simpa using List.any_eq_false.mp hp i hi
    rw [forwarded_of_empty hwq, show a / 64 = (a + i) / 64 by omega, homeLine_byte, homeLine_pois, hpi]
  refine ⟨x, ?_, hmem, hslots⟩
  simp only [coreRead, coreBytes, hline, hbytes]
  simp [State.bytesAt, Function.comp_def]

/-! ## Loads reach their lane (03 R64, R67, R84; 09 R199, R203, R204) -/

/-- What a plain load's bytes give its lane: its register writes, and its exception bits. -/
theorem ends_loadResult {s u : State} {c w : Nat} {t : Slot} {o : Op} {l : LaneOp} {b : List Byte}
    (h : Ends s u c w t o ((loadResult o.opc o.f l.lane b).1.filter (RegWrite.inLane l.lane)) (loadResult o.opc o.f l.lane b).2) :
    let small : Fmt := match o.f.m 3 5 with | 1 => .fp16 | 2 => .bf16 | 3 => .e4m3 | _ => .e5m2
    if o.opc = 0xAD then
      Ends s u c w t o ((wr32 o.f.dst l.lane (BitVec.ofNat 32 (roundV .fp32 1 false (decodeF small (leNat b))).1)).filter
        (RegWrite.inLane l.lane)) (decodeF small (leNat b)).sigExc
    else Ends s u c w t o ((loadWrites o.f (accSize o.opc o.f) (o.f.m 3 1 == 1) l.lane b).filter (RegWrite.inLane l.lane)) 0 := by
  intro small
  by_cases hc : o.opc = 0xAD
  · rw [if_pos hc]
    simp only [loadResult, hc, if_true] at h
    exact h
  · rw [if_neg hc]
    simp only [loadResult, hc, if_false] at h
    exact h

theorem homeTouch_cores (s : State) (line : Nat) : (homeTouch s line).cores = s.cores := by rw [homeTouch_frame]

/-- LDNC reads memory, past the core's copy, where no store of the core to the line is queued. -/
theorem loadHbm_ldnc {s : State} {c w a : Nat} {v : Wave} {o : Op} {l : LaneOp} (hl : o.lanes = [l]) (ht : l.tgt = .hbm a)
    (hc : o.opc = 0xA4) (hq : (s.core c).wq = []) (hown : s.owned (.fn v.vf (v.row o.level)) a = true)
    (hp : s.poisAt a (readSize o) = false) :
    loadHbm s c w o.id v o l a false = some (settleLane (deliver (homeTouch (dropL1 s c (a / 64)) (a / 64)) c w o.id o l v.vf
      (s.bytesAt a (readSize o)) false) c w o.id l.lane) := by
  have hline : wqLine (s.core c) (a / 64) = [] := by simp [wqLine, hq]
  have hspa : l.tgt.spaOr a = a := by rw [ht]; rfl
  simp only [loadHbm, hown, hc, hline, lineMates_alone hl, List.foldl_cons, List.foldl_nil, hspa, hp]
  simp

/-- The other plain loads read as their core sees the line. -/
theorem loadHbm_plain {s x : State} {c w a : Nat} {v : Wave} {o : Op} {l : LaneOp} {b : List Byte} (hl : o.lanes = [l]) (ht : l.tgt = .hbm a)
    (hc : o.opc ≠ 0xA4) (hown : (s.core c).l1.get? (a / 64) = none → s.owned (.fn v.vf (v.row o.level)) a = true)
    (hread : coreRead s c v.vf a (readSize o) = (x, b, false)) :
    loadHbm s c w o.id v o l a false = some (settleLane (deliver x c w o.id o l v.vf b false) c w o.id l.lane) := by
  have hspa : l.tgt.spaOr a = a := by rw [ht]; rfl
  have hmay : (((s.core c).l1.get? (a / 64)).isNone && !s.owned (.fn v.vf (v.row o.level)) a) = false := by
    cases hk : (s.core c).l1.get? (a / 64) with
    | none => simp [hown hk]
    | some k => rfl
  have hc' : (o.opc == 0xA4) = false := by simpa using hc
  simp only [loadHbm, hc', hc, Bool.or_false, Bool.not_false, Bool.true_and, Bool.false_and, hmay, lineMates_alone hl, List.foldl_cons,
    List.foldl_nil, hspa, hread, Bool.false_eq_true, if_false]

/-- A plain load of HBM4 that got its bytes in a state whose waves and memory stand ends with them. -/
theorem plainLoad_ends {s x : State} {c w a : Nat} {t : Slot} {o : Op} {l : LaneOp} {b : List Byte} (h : Pends s c w t o l) (hr : l.st = .ready)
    (ht : l.tgt = .hbm a) (hc : plainLoad o.opc)
    (hload : loadHbm s c w o.id t.wave o l a false = some (settleLane (deliver x c w o.id o l t.wave.vf b false) c w o.id l.lane))
    (hmem : x.mem = s.mem) (hslots : ∀ k v, x.slot? k v = s.slot? k v) :
    ∃ u, exec (.memoryOpComplete c w o.id l.lane) s = .next u ∧ u.mem = s.mem ∧
      Ends s u c w t o ((loadResult o.opc o.f l.lane b).1.filter (RegWrite.inLane l.lane)) (loadResult o.opc o.f l.lane b).2 := by
  obtain ⟨-, -, -, -, hlo, hhi, -⟩ := plainLoad_kind hc
  obtain ⟨hm, hend⟩ := deliver_settles (vf := t.wave.vf) h hc hslots b
  have hrun : execMemoryOpComplete c w o.id l.lane s =
      .next (settleLane (deliver x c w o.id o l t.wave.vf b false) c w o.id l.lane) := by
    rw [execMemoryOpComplete_alone h.here h.alone h.lane ⟨by omega, by omega⟩, laneStep_plainLoad h hr hc]
    simp only [loadStep, ht, hload, Option.elim_some]
  exact ⟨_, (exec_memoryOpComplete_eq ..).trans hrun, hm.trans hmem, hend⟩

theorem slot?_dropL1 (s : State) (c line k v : Nat) : (dropL1 s c line).slot? k v = s.slot? k v := by
  by_cases hk : k = c
  · subst hk; simp [dropL1, State.slot?]
  · rw [dropL1, State.slot?, State.core_modCore_of_ne _ _ hk]; rfl

theorem sharedLoads_complete (s : State) (c w a : Nat) (t : Slot) (o : Op) (l : LaneOp) (h : Pends s c w t o l) (hr : l.st = .ready)
    (ht : l.tgt = .hbm a) (hc : o.opc ∈ [0xA0, 0xA2, 0xA4, 0xAA, 0xAC, 0xAD]) :
    let n := accSize o.opc o.f
    let small : Fmt := match o.f.m 3 5 with | 1 => .fp16 | 2 => .bf16 | 3 => .e4m3 | _ => .e5m2
    let takes := fun (u : State) (b : List Byte) =>
      if o.opc = 0xAD then
        Ends s u c w t o ((wr32 o.f.dst l.lane (BitVec.ofNat 32 (roundV .fp32 1 false (decodeF small (leNat b))).1)).filter
          (RegWrite.inLane l.lane)) (decodeF small (leNat b)).sigExc
      else Ends s u c w t o ((loadWrites o.f n (o.f.m 3 1 == 1) l.lane b).filter (RegWrite.inLane l.lane)) 0
    (o.opc = 0xA4 ∨ (s.core c).l1.get? (a / 64) = none → (s.core c).wq = [] → s.owned (.fn t.wave.vf (t.wave.row o.level)) a = true →
      s.poisAt a n = false → a % 64 + n ≤ 64 →
      ∃ u, exec (.memoryOpComplete c w o.id l.lane) s = .next u ∧ u.mem = s.mem ∧ takes u (s.bytesAt a n)) ∧
    (∀ k, o.opc ≠ 0xA4 → (s.core c).l1.get? (a / 64) = some k →
      let found := (List.range n).map (fun i =>
        forwarded (s.core c) (a + i) (k.data.extractLsb' (8 * ((a + i) % 64)) 8, k.pois ((a + i) % 64)))
      (∀ p, p ∈ found → p.2 = false) →
      ∃ u, exec (.memoryOpComplete c w o.id l.lane) s = .next u ∧ u.mem = s.mem ∧ takes u (found.map Prod.fst)) := by
  intro n small takes
  have hsize : readSize o = n := (plainLoad_kind hc).2.2.2.2.2.2
  constructor
  · intro hmiss hq hown hp hn
    by_cases hA4 : o.opc = 0xA4
    · have hload := loadHbm_ldnc (w := w) h.lane ht hA4 hq hown (by rw [hsize]; exact hp)
      obtain ⟨u, hu, hm, he⟩ := plainLoad_ends h hr ht hc hload (by rw [homeTouch_mem]; rfl)
        (fun k v => by rw [State.slot?_of_cores (homeTouch_cores ..), slot?_dropL1])
      exact ⟨u, hu, hm, hsize ▸ ends_loadResult he⟩
    · obtain ⟨x, hread, hxm, hxs⟩ := coreRead_miss (vf := t.wave.vf) (hmiss.resolve_left hA4) hq hp hn
      have hload := loadHbm_plain (w := w) h.lane ht hA4 (fun _ => hown) (by rw [hsize]; exact hread)
      obtain ⟨u, hu, hm, he⟩ := plainLoad_ends h hr ht hc hload hxm hxs
      exact ⟨u, hu, hm, ends_loadResult he⟩
  · intro k hA4 hk found hfound
    have hread : coreRead s c t.wave.vf a (readSize o) = (s, found.map Prod.fst, false) := by
      have hany : found.any Prod.snd = false := List.any_eq_false.mpr (fun p hp => by simp [hfound p hp])
      simp only [coreRead, coreBytes, coreLine, hk, hsize]
      exact congrArg (fun b => (s, found.map Prod.fst, b)) hany
    have hload := loadHbm_plain (w := w) h.lane ht hA4 (fun e => by rw [hk] at e; cases e) hread
    obtain ⟨u, hu, hm, he⟩ := plainLoad_ends h hr ht hc hload rfl (fun _ _ => rfl)
    exact ⟨u, hu, hm, ends_loadResult he⟩

/-! ## Atomics take the old value and write the new one at once (03 R69; 09 R211) -/

/-- An atomic that does not name G is of the shared space. -/
theorem atomic_kind {o : Op} (h0 : 0xC0 ≤ o.opc) (h1 : o.opc ≤ 0xCC) (hg : o.f.m 14 1 = 0) :
    isAtomic o.opc = true ∧ localBuf o.opc o.f = none ∧ isShared o = true ∧ accSize o.opc o.f = if type64 (o.f.m 11 3) then 8 else 4 := by
  have ha : isAtomic o.opc = true := by simp [isAtomic, h0, h1]
  have hb : localBuf o.opc o.f = none := by
    have e1 : [0xB0, 0xB1, 0xB9, 0xBA, 0xBE, 0xBF].contains o.opc = false := by simp; omega
    have e2 : [0xB3, 0xB4, 0xBB, 0xBC].contains o.opc = false := by simp; omega
    have e3 : [0xB5, 0xB6, 0xB7, 0xB8].contains o.opc = false := by simp; omega
    simp only [localBuf, e1, e2, e3, hg, Bool.false_eq_true, if_false]
    rw [if_neg (by omega), if_neg (by simp)]
  refine ⟨ha, hb, by simp [isShared, ha, hb], by simp [accSize, ha]⟩

/-- The operation of an atomic whose release is done, where it has one to do. -/
def Op.freed (o : Op) : Op := if isAtomic o.opc && atomReleases o && !o.released then { o with released := true } else o

theorem Untraced.modWave {s : State} (h : Untraced s) (c w : Nat) (f : Wave → Wave) : Untraced (s.modWave c w f) := by
  unfold State.modWave State.modSlot
  exact h.modCore rfl

/-- The wave's operation once its release is done: the same but for the mark. -/
theorem atomRelease_stands {s : State} {c w : Nat} {t : Slot} {o : Op} (hs : s.slot? c w = some t) (ho : t.wave.ops = [o])
    (hw : atomWaits (s.core c) t.wave o = false) :
    ∃ x, atomRelease s c w o.id t.wave o = some x ∧ OnlyCores s x ∧ (x.core c).wq = (s.core c).wq ∧ (Untraced s → Untraced x) ∧
      x.slot? c w = some { t with wave := { t.wave with ops := [o.freed] } } ∧ ∀ k v, k ≠ c ∨ v ≠ w → x.slot? k v = s.slot? k v := by
  unfold atomRelease Op.freed
  rw [hw]
  cases hr : (isAtomic o.opc && atomReleases o && !o.released) with
  | false =>
    exact ⟨s, rfl, .refl s, rfl, id, by rw [hs]; simp [← ho], fun _ _ _ => rfl⟩
  | true =>
    have hop : t.wave.modOp o.id (fun o => { o with released := true }) = { t.wave with ops := [{ o with released := true }] } := by
      simp [Wave.modOp, ho]
    refine ⟨_, rfl, .modWave .., ?_, fun h => h.modWave c w _, ?_, fun k v hkv => State.slot?_modWave_elsewhere _ _ hkv⟩
    · simp only [State.modWave, State.modSlot, State.core_modCore]
    · rw [State.slot?_modWave, hs]
      exact congrArg (fun v => some { t with wave := v }) hop

@[simp] theorem Op.freed_id (o : Op) : o.freed.id = o.id := by unfold Op.freed; split <;> rfl
@[simp] theorem Op.freed_lanes (o : Op) : o.freed.lanes = o.lanes := by unfold Op.freed; split <;> rfl
@[simp] theorem Op.freed_log (o : Op) : o.freed.log = o.log := by unfold Op.freed; split <;> rfl
@[simp] theorem Op.freed_writes (o : Op) : o.freed.writes = o.writes := by unfold Op.freed; split <;> rfl
@[simp] theorem Op.freed_exc (o : Op) : o.freed.exc = o.exc := by unfold Op.freed; split <;> rfl
@[simp] theorem Op.freed_flag (o : Op) : o.freed.flag = o.flag := by unfold Op.freed; split <;> rfl

/-- The state in which an atomic of HBM4 has been performed, before its lane completes. -/
def atomDone (s : State) (c w a : Nat) (v : Wave) (o : Op) (l : LaneOp) : State :=
  match (atomAt o l (leNat (s.bytesAt a (accSize o.opc o.f)))).new with
  | some x => homeWrite (homeTouch (dropL1 s c (a / 64)) (a / 64)) (laneWriter c w v.gang o.spo o.off l.lane) a
      (leBytes (accSize o.opc o.f) x)
  | none => homeTouch (dropL1 s c (a / 64)) (a / 64)

theorem Untraced.homeTouch {s : State} (h : Untraced s) (line : Nat) : Untraced (homeTouch s line) := by
  rw [homeTouch_frame]
  exact ⟨h.regions, h.watches⟩

theorem homeWrite_cores {s : State} (h : Untraced s) (w : Writer) (spa : Nat) (bytes : List Byte) :
    (homeWrite s w spa bytes).cores = s.cores := by
  rw [homeWrite, homeWriteBy_frame h]

/-- It stands as the state before but for memory and its marks, where nothing is traced. -/
theorem atomDone_stands {s : State} (h : Untraced s) (c w a : Nat) (v : Wave) (o : Op) (l : LaneOp) :
    Untraced (atomDone s c w a v o l) ∧ (∀ k u, (atomDone s c w a v o l).slot? k u = s.slot? k u) ∧
    ∀ x, memByte (atomDone s c w a v o l).mem x = match (atomAt o l (leNat (s.bytesAt a (accSize o.opc o.f)))).new with
      | some y => if a ≤ x ∧ x < a + accSize o.opc o.f then (leBytes (accSize o.opc o.f) y).getD (x - a) 0 else memByte s.mem x
      | none => memByte s.mem x := by
  have h1 := (h.dropL1 c (a / 64)).homeTouch (a / 64)
  have hslots : ∀ k u, (Machine.homeTouch (Machine.dropL1 s c (a / 64)) (a / 64)).slot? k u = s.slot? k u := by
    intro k u
    rw [State.slot?_of_cores (homeTouch_cores ..), slot?_dropL1]
  unfold atomDone
  cases (atomAt o l (leNat (s.bytesAt a (accSize o.opc o.f)))).new with
  | none => exact ⟨h1, hslots, fun x => by dsimp only; rw [homeTouch_mem]; rfl⟩
  | some y =>
    refine ⟨h1.homeWrite _ _ _, fun k u => ?_, fun x => ?_⟩
    · exact (State.slot?_of_cores (homeWrite_cores h1 ..) k u).trans (hslots k u)
    · refine (homeWrite_byte h1 ..).trans ?_
      rw [leBytes_length, homeTouch_mem]
      rfl

/-- An atomic that its owner admits, and that nothing keeps waiting, is performed. -/
theorem atomHbm_performs {s : State} {c w a : Nat} {v : Wave} {o : Op} {l : LaneOp} (h : Untraced s)
    (hown : (if o.opc = 0xCB then s.owned (.fn v.vf (v.row o.level)) a else s.writable (.fn v.vf (v.row o.level)) a) = true)
    (hq : wqLine (s.core c) (a / 64) = []) (hg : gathers o l = false) (hp : s.linePois a = false) (hs : isSpec o = false) :
    atomHbm s c w o.id v o l a =
      some (atomEnd (atomDone s c w a v o l) c w o.id o l (atomAt o l (leNat (s.bytesAt a (accSize o.opc o.f))))) := by
  have hwatch := watchSlice_of_untraced (atomDone_stands h c w a v o l).1 (some c) (laneWriter c w v.gang o.spo o.off l.lane) a (accSize o.opc o.f)
  unfold atomDone at hwatch ⊢
  simp only [atomHbm, hown, hq, hg, hp, hs, List.isEmpty_nil, Bool.true_eq_false, Bool.false_eq_true, Bool.false_and, if_false]
  cases hn : (atomAt o l (leNat (s.bytesAt a (accSize o.opc o.f)))).new <;> simp only [hn] at hwatch ⊢ <;> rw [hwatch]

theorem sharedAtomics_complete (s : State) (c w a : Nat) (t : Slot) (o : Op) (l : LaneOp) (h : Pends s c w t o l) (hr : l.st = .ready)
    (ht : l.tgt = .hbm a) (h0 : 0xC0 ≤ o.opc) (h1 : o.opc ≤ 0xCC) (hg : o.f.m 14 1 = 0) (hw : atomWaits (s.core c) t.wave o = false)
    (hga : gathers o l = false) (hsp : isSpec o = false) (hq : ∀ e, e ∈ (s.core c).wq → ∀ b, e.tgt.spa? = some b → b / 64 ≠ a / 64)
    (hp : s.linePois a = false)
    (hown : (if o.opc = 0xCB then s.owned (.fn t.wave.vf (t.wave.row o.level)) a else
      s.writable (.fn t.wave.vf (t.wave.row o.level)) a) = true) (hu : Untraced s) :
    let n := if type64 (o.f.m 11 3) then 8 else 4
    let r := atomOn o.opc (o.f.m 11 3) (o.f.m 0 3) (leNat (s.bytesAt a n)) l.src.toNat l.src2.toNat false
    ∃ u, exec (.memoryOpComplete c w o.id l.lane) s = .next u ∧ Ends s u c w t o (atomWrites o.opc o.f l.lane r.old r.ok) r.exc ∧
      ∀ x, memByte u.mem x = match r.new with
        | some v => if a ≤ x ∧ x < a + n then (leBytes n v).getD (x - a) 0 else memByte s.mem x
        | none => memByte s.mem x := by
  intro n r
  obtain ⟨hatom, hbuf, hshared, hsize⟩ := atomic_kind h0 h1 hg
  obtain ⟨x, hx, honly, hwq, hux, hslot, hothers⟩ := atomRelease_stands h.here h.alone hw
  have hline : wqLine (x.core c) (a / 64) = [] := by
    rw [wqLine, hwq]
    refine List.filter_eq_nil_iff.mpr (fun e he => ?_)
    cases hspa : e.tgt.spa? with
    | none => simp
    | some b => simpa using hq e he b hspa
  have hxown : (if o.opc = 0xCB then x.owned (.fn t.wave.vf (t.wave.row o.level)) a else
      x.writable (.fn t.wave.vf (t.wave.row o.level)) a) = true := by rw [honly]; exact hown
  have hxp : x.linePois a = false := by rw [honly]; exact hp
  have hxb : x.bytesAt a n = s.bytesAt a n := by rw [honly]; rfl
  have hres : atomAt o l (leNat (x.bytesAt a (accSize o.opc o.f))) = r := by
    rw [hsize, hxb, atomAt, specLost, hsp]; rfl
  obtain ⟨-, hdslots, hdmem⟩ := atomDone_stands (hux hu) c w a t.wave o l
  have hperf := atomHbm_performs (w := w) (hux hu) hxown hline hga hxp hsp
  rw [hres] at hperf hdmem
  rw [hsize] at hdmem
  have hrun : execMemoryOpComplete c w o.id l.lane s = .next (atomEnd (atomDone x c w a t.wave o l) c w o.id o l r) := by
    have hexp : [0xED, 0xEE, 0xEF].contains o.opc = false := by simp; omega
    rw [execMemoryOpComplete_alone h.here h.alone h.lane ⟨by omega, by omega⟩]
    simp only [laneStep, hr, readyStep, gated_alone h.alone, hexp, hbuf, hshared, sharedBlocked_alone h.alone, hatom, Bool.false_eq_true,
      if_false, if_true, hx, Option.bind_some, atomStep, laneBlocked_alone h.lane, ht, hperf]
    rw [if_neg (by omega), if_neg (by omega), if_neg (by simp), if_neg (by simp)]
    rfl
  refine ⟨_, (exec_memoryOpComplete_eq ..).trans hrun, ?_, fun y => ?_⟩
  · have hd : (atomDone x c w a t.wave o l).slot? c w = some { t with wave := { t.wave with ops := [o.freed] } } := (hdslots c w).trans hslot
    have hlands := finishLane_lands (o := o.freed) (l := l) (atomWrites o.opc o.f l.lane r.old r.ok) r.exc hd rfl
      ((Op.freed_lanes o).trans h.lane) ((Op.freed_log o).trans h.unlogged)
    rw [Op.freed_id, Op.freed_writes, Op.freed_exc, h.unwritten] at hlands
    constructor
    · refine hlands.trans ?_
      simp only [Slot.ended, Op.freed_flag, List.filter_nil, List.nil_append]
    · intro k v hkv
      have helse := finishLane_elsewhere (o := o.freed) (l := l) (atomWrites o.opc o.f l.lane r.old r.ok) r.exc hd rfl
        ((Op.freed_lanes o).trans h.lane) ((Op.freed_log o).trans h.unlogged) hkv
      rw [Op.freed_id] at helse
      exact helse.trans ((hdslots k v).trans (hothers k v hkv))
  · rw [atomEnd, (OnlyCores.finishLane ..).mem, hdmem, honly.mem]

/-! ## A translation that a TLB holds (16 R357, R359) -/

/-- u is s after a look-up of core c's TLBs: TLBs and counters apart, nothing has changed. -/
structure LookedUp (s u : State) (c : Nat) : Prop where
  rest : u = { s with cores := u.cores, clusters := u.clusters }
  others : ∀ k, k ≠ c → u.core k = s.core k
  core : u.core c = { s.core c with tlb := (u.core c).tlb }

theorem LookedUp.slot? {s u : State} {c : Nat} (h : LookedUp s u c) (k v : Nat) : u.slot? k v = s.slot? k v := by
  by_cases hk : k = c
  · subst hk; rw [State.slot?, h.core]; rfl
  · rw [State.slot?, h.others k hk]; rfl

/-- Counts of a cluster's banks leave the cores. -/
theorem LookedUp.countEvent (s : State) (c cl f code n : Nat) : LookedUp s (countEvent s cl f code n) c := by
  unfold Machine.countEvent
  split <;> exact ⟨rfl, fun _ _ => rfl, rfl⟩

theorem LookedUp.trans {s u x : State} {c : Nat} (a : LookedUp s u c) (b : LookedUp u x c) : LookedUp s x c := by
  refine ⟨?_, fun k hk => (b.others k hk).trans (a.others k hk), ?_⟩
  · rw [b.rest, a.rest]
  · rw [b.core, a.core]

/-- An entry that a look-up keeps. -/
theorem LookedUp.tlbKeep (s : State) (c : Nat) (e : TlbEnt) : LookedUp s (tlbKeep s (some c) e) c := by
  unfold Machine.tlbKeep
  simp only [Option.isNone_some, Bool.false_eq_true, if_false]
  have hput : LookedUp s (match askCore (some c) with
      | some c => s.modCore c (fun k => { k with tlb := tlbPut k.tlb e 256 })
      | none => s) c := by
    by_cases hc : c < 65536
    · simp only [askCore, Option.bind_some, hc, if_true]
      exact ⟨rfl, fun k hk => State.core_modCore_of_ne _ _ hk, by rw [State.core_modCore]⟩
    · simp only [askCore, Option.bind_some, hc, if_false]
      exact ⟨rfl, fun _ _ => rfl, rfl⟩
  exact hput.trans ⟨rfl, fun _ _ => rfl, rfl⟩

/-- A look-up that hits. -/
theorem translate_hit {s : State} {c f va : Nat} {a : Acc} {e : TlbEnt} (h : tlbFind s (some c) f va a = some e) (p : Party) :
    ∃ u, translate s (some c) p f va a false = (u, .ok e) ∧ LookedUp s u c := by
  refine ⟨_, by simp only [translate, h, Bool.false_eq_true, if_false]; rfl, ?_⟩
  refine LookedUp.trans ?_ (.tlbKeep _ c e)
  split
  · exact ⟨rfl, fun _ _ => rfl, rfl⟩
  · unfold l1Missed
    split
    · exact .countEvent ..
    · exact ⟨rfl, fun _ _ => rfl, rfl⟩

/-- An entry that a look-up finds allows the access. -/
theorem tlbFind_allows {s : State} {c : Asker} {f va : Nat} {a : Acc} {e : TlbEnt} (h : tlbFind s c f va a = some e) : e.allows a = true := by
  have find_allows : ∀ l : List TlbEnt, l.find? (fun e => e.hits f va && e.allows a) = some e → e.allows a = true := by
    intro l hl
    have := List.find?_some hl
    simp only [Bool.and_eq_true] at this
    exact this.2
  unfold tlbFind at h
  split at h
  · cases h
  · split at h
    · next e' he' =>
      obtain ⟨k, -, hk⟩ := Option.bind_eq_some_iff.mp he'
      cases h
      exact find_allows _ hk
    · exact find_allows _ h

/-! ## A block comes to the L0 (06 R130, R134, R135) -/

/-- Lanes at U read lines that grant U. -/
theorem TlbEnt.u_of_allows {e : TlbEnt} {lv : Level} (h : e.allows (accX lv) = true) : (!(lv == .u) || e.u) = true := by
  simp only [TlbEnt.allows, accX, Bool.and_eq_true] at h
  exact h.2

/-- An address within the one line that the L0 holds. -/
theorem l0Word_of_line {k : Core} {vf : Nat} {u : Bool} {line : L0Line} {b : Nat} (hl : k.l0 = [line]) (hv : line.vf = vf)
    (hb : line.va = b / 64) (hu : (!u || line.u) = true) : l0Word k vf u b = some (line.data.extractLsb' (8 * (b % 64)) 128) := by
  simp [l0Word, hl, hv, hb, hu]

/-- A line that is in the L0 is not fetched. -/
theorem fetchLines_present {s : State} {c : Nat} {v : Wave} {lv : Level} {fresh : Bool} : ∀ {as : List W64} (ts : List Nat),
    (∀ a, a ∈ as → (l0Word (s.core c) v.vf (lv == .u) (a.toNat / 16 * 16)).isSome = true) →
    fetchLines s c v lv fresh as ts = (s, some ts)
  | [], _, _ => rfl
  | a :: r, ts, h => by
    have ha : fetchLine s c v lv a fresh = (s, .ok) := by
      simp only [fetchLine, h a List.mem_cons_self, if_true]
    simp only [fetchLines, ha]
    exact fetchLines_present ts (fun b hb => h b (List.mem_cons_of_mem _ hb))

/-- The line that a fetch of an address brings to an L0. -/
def broughtLine (s : State) (v : Wave) (e : TlbEnt) (va : W64) : L0Line :=
  { vf := v.vf, va := va.toNat / 64, spa := e.apply va.toNat / 64, u := e.u, data := (homeLine s (e.apply va.toNat / 64)).data }

/-- A fetch from where the TLB translates the address brings its line to an empty L0; waves and memory stand. -/
theorem fetchLine_brings {s : State} {c : Nat} {v : Wave} {lv : Level} {va : W64} {e : TlbEnt} (h0 : (s.core c).l0 = [])
    (hcan : canonical va = true) (hwin : inWindow va = false) (hheap : inHeap va = false)
    (htlb : tlbFind s (some c) v.vf va.toNat (accX lv) = some e) (hel : e.elide = false)
    (hown : s.owned (.fn v.vf (v.row lv)) (e.apply va.toNat) = true) :
    ∃ u, fetchLine s c v lv va false = (u, .ok) ∧ u.mem = s.mem ∧ (∀ k v, u.slot? k v = s.slot? k v) ∧
      (u.core c).l0 = [broughtLine s v e va] := by
  obtain ⟨x, hx, hlook⟩ := translate_hit htlb (.fn v.vf (v.row lv))
  have hmiss : l0Word (s.core c) v.vf (lv == .u) (va.toNat / 16 * 16) = none := by simp [l0Word, h0]
  have hxown : x.owned (.fn v.vf (v.row lv)) (e.apply va.toNat) = true := by rw [hlook.rest]; exact hown
  have hlt : ¬ hbmEnd ≤ e.apply va.toNat := by
    simp only [State.owned, Bool.and_eq_true, decide_eq_true_eq] at hown
    exact Nat.not_le.mpr hown.1
  have hline : homeLine x (e.apply va.toNat / 64) = homeLine s (e.apply va.toNat / 64) := by rw [hlook.rest]; rfl
  have hx0 : (x.core c).l0 = [] := by rw [hlook.core]; exact h0
  refine ⟨l0Put (homeTouch x (e.apply va.toNat / 64)) c (broughtLine s v e va), ?_, ?_, fun k w => ?_, ?_⟩
  · simp only [fetchLine, hmiss, hcan, hwin, hheap, hx, hel, hxown, hline, hlt, Option.isSome_none, Bool.false_eq_true, Bool.true_eq_false,
      or_self, if_false]
    rfl
  · rw [l0Put, State.modCore_mem, homeTouch_mem, hlook.rest]
  · rw [← hlook.slot?, l0Put, State.slot?]
    by_cases hk : k = c
    · subst hk; rw [State.core_modCore, homeTouch_core]; rfl
    · rw [State.core_modCore_of_ne _ _ hk, homeTouch_core]; rfl
  · rw [l0Put, State.core_modCore, homeTouch_core, hx0]; rfl

/-- A field of a line that was brought. -/
theorem broughtLine_field (s : State) (v : Wave) (e : TlbEnt) (va : W64) {j : Nat} (ha : e.apply va.toNat % 64 = 0) (hj : j + 16 ≤ 64) :
    (broughtLine s v e va).data.extractLsb' (8 * j) 128 = BitVec.ofNat 128 (leNat (s.bytesAt (e.apply va.toNat + j) 16)) := by
  have h := homeLine_field s (a := e.apply va.toNat + j) (k := 16) (by omega)
  rw [show (e.apply va.toNat + j) / 64 = e.apply va.toNat / 64 by omega, show (e.apply va.toNat + j) % 64 = j by omega] at h
  exact h

/-- The words of a prologue: its header and its landing word. -/
theorem prologue_fields (s : State) (a : Nat) :
    (BitVec.ofNat 128 (leNat (s.bytesAt a 16))).extractLsb' 0 64 = BitVec.ofNat 64 (leNat (s.bytesAt a 8)) ∧
    (BitVec.ofNat 128 (leNat (s.bytesAt a 16))).extractLsb' 64 64 = BitVec.ofNat 64 (leNat (s.bytesAt (a + 8) 8)) := by
  have h0 := extract_leNat (s.bytesAt a 16) (w := 128) (j := 0) (k := 8) (by omega)
  have h1 := extract_leNat (s.bytesAt a 16) (w := 128) (j := 8) (k := 8) (by omega)
  rw [State.bytesAt_part s a (by omega)] at h0 h1
  exact ⟨h0, h1⟩

theorem allSome_map_some {α β : Type} (f : α → β) (l : List α) : allSome (l.map (fun x => some (f x))) = some (l.map f) := by
  induction l with
  | nil => rfl
  | cons x r ih => simp [allSome, ih]

/-- The address of word i of a block of at most three words at the start of a line. -/
theorem wordAddr {pc : W64} {i : Nat} (h : pc.toNat % 64 = 0) (hi : i < 3) :
    (pc + BitVec.ofNat 64 (16 + 16 * i)).toNat = pc.toNat + (16 + 16 * i) := by
  have := pc.isLt
  rw [BitVec.toNat_add, BitVec.toNat_ofNat, Nat.mod_eq_of_lt (a := 16 + 16 * i) (by omega), Nat.mod_eq_of_lt (by omega)]

/-- 16 bytes at an aligned address of the line that was brought. -/
theorem l0Word_brought {s : State} {k : Core} {v : Wave} {e : TlbEnt} {lv : Level} {pc : W64} {j : Nat} (hk : k.l0 = [broughtLine s v e pc])
    (hu : (!(lv == .u) || e.u) = true) (hpc : pc.toNat % 64 = 0) (ha : e.apply pc.toNat % 64 = 0) (hj : j + 16 ≤ 64) :
    l0Word k v.vf (lv == .u) (pc.toNat + j) = some (BitVec.ofNat 128 (leNat (s.bytesAt (e.apply pc.toNat + j) 16))) := by
  have hb : (broughtLine s v e pc).va = (pc.toNat + j) / 64 := by simp only [broughtLine]; omega
  rw [l0Word_of_line (vf := v.vf) hk rfl hb hu, show (pc.toNat + j) % 64 = j by omega, broughtLine_field s v e pc ha hj]

/-- The header word of a block at an address of HBM4, and its landing word (06 R130, R131). -/
def headerAt (s : State) (a : Nat) : W64 := BitVec.ofNat 64 (leNat (s.bytesAt a 8))
/-- See headerAt. -/
def landAt (s : State) (a : Nat) : W64 := BitVec.ofNat 64 (leNat (s.bytesAt (a + 8) 8))

/-- The prologue of the line that was brought. -/
theorem prologue_brought {s : State} {k : Core} {v : Wave} {e : TlbEnt} {lv : Level} {pc : W64} {a : Nat} (hk : k.l0 = [broughtLine s v e pc])
    (hu : (!(lv == .u) || e.u) = true) (hpc : pc.toNat % 64 = 0) (hap : e.apply pc.toNat = a) (ha : a % 64 = 0) :
    ∃ p, l0Word k v.vf (lv == .u) pc.toNat = some p ∧ p.extractLsb' 0 64 = headerAt s a ∧ p.extractLsb' 64 64 = landAt s a := by
  have hp := l0Word_brought (j := 0) hk hu hpc (by rw [hap]; exact ha) (by omega)
  rw [Nat.add_zero, Nat.add_zero, hap] at hp
  exact ⟨_, hp, prologue_fields s a⟩

/-- The block that an L0 with the one line of a PC holds there. -/
theorem l0Block_brought {s : State} {k : Core} {v : Wave} {e : TlbEnt} {lv : Level} {pc : W64} {a : Nat} (hk : k.l0 = [broughtLine s v e pc])
    (hu : (!(lv == .u) || e.u) = true) (hpc : pc.toNat % 64 = 0) (hap : e.apply pc.toNat = a) (ha : a % 64 = 0)
    (hbad : prologueBad (headerAt s a) (landAt s a) v.vgran = false) (hlen : hdrLen (headerAt s a) ≤ 3) :
    l0Block k v.vf (lv == .u) pc v.vgran = some {
      hdr := headerAt s a, land := landAt s a,
      words := (List.range (hdrLen (headerAt s a))).map (fun i => BitVec.ofNat 128 (leNat (s.bytesAt (a + 16 + 16 * i) 16))) } := by
  obtain ⟨p, hp, hh, hl⟩ := prologue_brought hk hu hpc hap ha
  have hwords : (List.range (hdrLen (headerAt s a))).map (fun i => l0Word k v.vf (lv == .u) (pc + BitVec.ofNat 64 (16 + 16 * i)).toNat) =
      (List.range (hdrLen (headerAt s a))).map (fun i => some (BitVec.ofNat 128 (leNat (s.bytesAt (a + 16 + 16 * i) 16)))) := by
    refine List.map_congr_left (fun i hi => ?_)
    have hi' := List.mem_range.mp hi
    rw [wordAddr hpc (by omega), l0Word_brought hk hu hpc (by rw [hap]; exact ha) (by omega), hap, Nat.add_assoc]
  simp only [l0Block, hp, hh, hl, hbad, hwords, allSome_map_some, Bool.false_eq_true, if_false, Option.map_some]

/-- A block of at most three words at the start of a line is fetched with its line. -/
theorem fetchBlock_brings {s : State} {c a : Nat} {v : Wave} {lv : Level} {pc : W64} {e : TlbEnt} (h0 : (s.core c).l0 = [])
    (hpc : pc.toNat % 64 = 0) (hcan : canonical pc = true) (hwin : inWindow pc = false) (hheap : inHeap pc = false)
    (htlb : tlbFind s (some c) v.vf pc.toNat (accX lv) = some e) (hel : e.elide = false) (hap : e.apply pc.toNat = a) (ha : a % 64 = 0)
    (hown : s.owned (.fn v.vf (v.row lv)) a = true)
    (hbad : prologueBad (headerAt s a) (landAt s a) v.vgran = false) (hlen : hdrLen (headerAt s a) ≤ 3) :
    ∃ u, fetchBlock s c v lv pc false = (u, some []) ∧ u.mem = s.mem ∧ (∀ k v, u.slot? k v = s.slot? k v) ∧
      (u.core c).l0 = [broughtLine s v e pc] := by
  obtain ⟨u, hfetch, hmem, hslots, hl0⟩ := fetchLine_brings h0 hcan hwin hheap htlb hel (by rw [hap]; exact hown)
  have hu := TlbEnt.u_of_allows (tlbFind_allows htlb)
  obtain ⟨p, hp, hh, hl⟩ := prologue_brought hl0 hu hpc hap ha
  have hwords : fetchLines u c v lv false ((List.range (hdrLen (headerAt s a))).map
      (fun i => pc + BitVec.ofNat 64 (16 + 16 * i))) [] = (u, some []) := by
    refine fetchLines_present [] (fun b hb => ?_)
    obtain ⟨i, hi, rfl⟩ := List.mem_map.mp hb
    have hi' := List.mem_range.mp hi
    rw [wordAddr hpc (by omega), show (pc.toNat + (16 + 16 * i)) / 16 * 16 = pc.toNat + (16 + 16 * i) by omega,
      l0Word_brought hl0 hu hpc (by rw [hap]; exact ha) (by omega)]
    rfl
  exact ⟨u, by simp only [fetchBlock, fetchLines, hfetch, hp, hh, hl, hbad, hwords, Bool.false_eq_true, if_false], hmem, hslots, hl0⟩

/-! ## BLOCK_FETCH_COMPLETE for the lanes of one level (06 R134) -/

/-- No lane of a level asks for a fetch. -/
theorem fetchFor_of_empty {s : State} {c w : Nat} {v : Wave} {pc : W64} {lv : Level} (h : fetchLanes s v pc lv = []) :
    fetchFor s c w v pc lv = s := by
  simp [fetchFor, h]

/-- The fetch serves the one level whose lanes ask. -/
theorem execBlockFetchComplete_level {s : State} {c w : Nat} {pc : W64} {t : Slot} {lv : Level} (hs : s.slot? c w = some t)
    (hne : fetchLanes s t.wave pc lv ≠ []) (hother : ∀ s' m, m ≠ lv → fetchLanes s' t.wave pc m = []) :
    execBlockFetchComplete c w pc s = .next (fetchFor s c w t.wave pc lv) := by
  have hany : [Level.u, .g, .h].all (fun m => (fetchLanes s t.wave pc m).isEmpty) = false := by
    refine List.all_eq_false.mpr ⟨lv, by cases lv <;> simp, ?_⟩
    simpa using hne
  have hskip : ∀ s' m, m ≠ lv → fetchFor s' c w t.wave pc m = s' := fun s' m hm => fetchFor_of_empty (hother s' m hm)
  simp only [execBlockFetchComplete, hs, hany, Bool.false_eq_true, if_false, List.foldl_cons, List.foldl_nil]
  cases lv with
  | u => rw [hskip _ .g (by decide), hskip _ .h (by decide)]
  | g => rw [hskip _ .u (by decide), hskip _ .h (by decide)]
  | h => rw [hskip _ .u (by decide), hskip _ .g (by decide)]

/-- The lanes that asked, after their fetch, with what holds them now. -/
def fetchHolds (c w : Nat) (ls : List Nat) (s : State) (hs : List Hold) : State :=
  ls.foldl (fun s l => s.modLane c w l (fun x => { x with holds := x.unfetch.holds ++ hs })) s

theorem blockFetchComplete_answers (s : State) (c w : Nat) (pc : W64) (t : Slot) (lv : Level) (hs : s.slot? c w = some t)
    (hne : fetchLanes s t.wave pc lv ≠ []) (hother : ∀ s' m, m ≠ lv → fetchLanes s' t.wave pc m = []) :
    let ls := fetchLanes s t.wave pc lv
    let r := fetchBlock s c t.wave lv pc (anyRetried t.wave ls)
    let then_ := fun (hs : List Hold) => ls.foldl (fun s l => s.modLane c w l (fun x => { x with holds := x.unfetch.holds ++ hs })) r.1
    (r.2 = some [] → exec (.blockFetchComplete c w pc) s = .next (then_ [])) ∧
    (r.2 = none → exec (.blockFetchComplete c w pc) s = .next (then_ [.refused])) ∧
    (∀ k ks, r.2 = some (k :: ks) → exec (.blockFetchComplete c w pc) s = .next (then_ [.fetch (k :: ks)])) := by
  intro ls r then_
  have hrun := (exec_blockFetchComplete_eq c w pc s).trans (execBlockFetchComplete_level hs hne hother)
  have hempty : (fetchLanes s t.wave pc lv).isEmpty = false := by simpa using hne
  have hr : fetchBlock s c t.wave lv pc (anyRetried t.wave (fetchLanes s t.wave pc lv)) = (r.1, r.2) := rfl
  refine ⟨fun h => ?_, fun h => ?_, fun k ks h => ?_⟩ <;>
  · rw [hrun]
    rw [h] at hr
    simp only [fetchFor, hempty, hr, Bool.false_eq_true, if_false]
    rfl

theorem listAdj_of_get? {α : Type} {f : α → α} {x : α} (hf : f x = x) : ∀ {l : List α} {n : Nat}, l[n]? = some x → listAdj l n f = l
  | [], _, h => by simp at h
  | y :: r, 0, h => by
    obtain rfl : y = x := by simpa using h
    rw [listAdj, hf]
  | y :: r, n + 1, h => by rw [listAdj, listAdj_of_get? hf (by simpa using h)]

/-- A lane that asks for a fetch stands among the wave's lanes; nothing holds it where none of them waited for an answer. -/
theorem fetchLanes_free {s : State} {v : Wave} {pc : W64} {lv : Level} (h : anyRetried v (fetchLanes s v pc lv) = false) {l : Nat}
    (hl : l ∈ fetchLanes s v pc lv) : ∃ x, v.lanes[l]? = some x ∧ x.holds = [] := by
  have hfree := List.any_eq_false.mp h l hl
  have hmem := (List.mem_filter.mp hl).2
  cases hx : v.lanes[l]? with
  | none => simp [hx] at hmem
  | some x =>
    simp only [hx] at hfree
    exact ⟨x, rfl, by simpa using hfree⟩

/-- The fetch of lanes that nothing held leaves them as they were. -/
theorem fetchHolds_free {x : State} {c w : Nat} {t : Slot} {ls : List Nat} (hs : x.slot? c w = some t)
    (hls : ∀ l, l ∈ ls → ∃ y, t.wave.lanes[l]? = some y ∧ y.holds = []) :
    (fetchHolds c w ls x []).slot? c w = some t ∧ (fetchHolds c w ls x []).mem = x.mem ∧
    ((fetchHolds c w ls x []).core c).l0 = (x.core c).l0 := by
  refine List.foldlRecOn (motive := fun (u : State) => u.slot? c w = some t ∧ u.mem = x.mem ∧ (u.core c).l0 = (x.core c).l0)
    ls _ ⟨hs, rfl, rfl⟩ (fun u hu l hl => ?_)
  obtain ⟨hus, hum, hul⟩ := hu
  obtain ⟨y, hy, hy0⟩ := hls l hl
  refine ⟨?_, hum, ?_⟩
  · have hkeep : ({ y with holds := y.unfetch.holds ++ [] } : Lane) = y := by
      have : y.unfetch.holds ++ [] = y.holds := by simp [Lane.unfetch, hy0]
      rw [this]
    rw [State.modLane, State.slot?_modWave, hus, Option.map_some, listAdj_of_get? hkeep hy]
  · refine Eq.trans ?_ hul
    simp only [State.modLane, State.modWave, State.modSlot, State.core_modCore]

theorem fetchBringsBlock : FetchBringsBlock := by
  intro s c w a pc t lv e hs h0 hne hfree hother hpc hcan hwin hheap htlb hel hap ha hown h l hbad hlen
  obtain ⟨x, hx, hmem, hslots, hl0⟩ := fetchBlock_brings h0 hpc hcan hwin hheap htlb hel hap ha hown hbad hlen
  obtain ⟨hgot, -, -⟩ := blockFetchComplete_answers s c w pc t lv hs hne hother
  rw [hfree, hx] at hgot
  obtain ⟨hslot, hm, hl⟩ := fetchHolds_free ((hslots c w).trans hs) (fun l hl => fetchLanes_free hfree hl)
  have hrun : exec (.blockFetchComplete c w pc) s = .next (fetchHolds c w (fetchLanes s t.wave pc lv) x []) := hgot rfl
  have hblock := l0Block_brought (hl.trans hl0) (TlbEnt.u_of_allows (tlbFind_allows htlb)) hpc hap ha hbad hlen
  refine ⟨_, hrun, hm.trans hmem, hslot, _, hblock, ?_, ?_, ?_⟩
  · rfl
  · rfl
  · simp only [h, headerAt]

/-! ## A spilled entry comes back (07 R158, R159) -/

/-- A line without poison has no poisoned bytes. -/
theorem poisAt_of_linePois {s : State} {a n : Nat} (h : s.linePois a = false) (hn : a % 64 + n ≤ 64) : s.poisAt a n = false := by
  simp only [State.linePois, Bool.or_eq_false_iff, List.any_eq_false, beq_iff_eq] at h
  obtain ⟨hm, hw⟩ := h
  refine List.any_eq_false.mpr (fun i hi => ?_)
  have hi' := List.mem_range.mp hi
  simp only [State.bytePois, show (a + i) / 64 = a / 64 by omega, hm, Bool.false_or, List.contains_iff_mem]
  exact fun hmem => hw _ hmem (by omega)

/-- The entry that stands at an address of HBM4. -/
def rsEntryAt (s : State) (a : Nat) : RsEntry :=
  { rpc := BitVec.ofNat 64 (leNat (s.bytesAt a 8)), mask := BitVec.ofNat 32 (leNat (s.bytesAt (a + 8) 4)) }

theorem ofBytes_bytesAt (s : State) (a : Nat) : RsEntry.ofBytes (s.bytesAt a 16) = rsEntryAt s a := by
  simp only [RsEntry.ofBytes, rsEntryAt, recNat, State.bytesAt_part s a (n := 16) (j := 0) (k := 8) (by omega),
    State.bytesAt_part s a (n := 16) (j := 8) (k := 4) (by omega), Nat.add_zero]

/-- The read of a spilled entry where the TLB translates its page, and no queue, copy or poison touches it. -/
theorem refillRead_reads {s : State} {c a : Nat} {v : Wave} {e : TlbEnt} (w lane : Nat)
    (htlb : tlbFind s (some c) v.vf v.rsbase.toNat (accR .g) = some e) (hel : e.elide = false) (hap : e.apply v.rsbase.toNat = a)
    (hown : s.owned (.fn v.vf (v.row .g)) a = true) (ha : a % 16 = 0) (hp : s.linePois a = false) (hl : (s.core c).l1 = [])
    (hq : (s.core c).wq = []) :
    ∃ u, refillRead s c w v lane 0 false = (u, .got (rsEntryAt s a)) ∧ u.mem = s.mem ∧ ∀ k x, u.slot? k x = s.slot? k x := by
  obtain ⟨x, hx, hlook⟩ := translate_hit htlb (.fn v.vf (v.row .g))
  have hxown : x.owned (.fn v.vf (v.row .g)) a = true := by rw [hlook.rest]; exact hown
  have hlt : a < hbmEnd := by
    simp only [State.owned, Bool.and_eq_true, decide_eq_true_eq] at hown
    exact hown.1
  have hbytes : x.bytesAt a 16 = s.bytesAt a 16 := by rw [hlook.rest]; rfl
  have hxp : x.linePois a = false := by rw [hlook.rest]; exact hp
  obtain ⟨u, hread, hmem, hslots⟩ := coreRead_miss (vf := v.vf) (a := a) (n := 16) (s := x) (c := c) (by rw [hlook.core]; simp [hl, Tab.get?])
    (by rw [hlook.core]; exact hq) (poisAt_of_linePois hxp (by omega)) (by omega)
  rw [hbytes] at hread
  have hzero : v.rsbase + BitVec.ofNat 64 (16 * 0) = v.rsbase := by simp
  have htgt : targetOf v.vf .g a = .hbm a := by simp [targetOf, hlt]
  refine ⟨u, ?_, by rw [hmem, hlook.rest], fun k y => (hslots k y).trans (hlook.slot? k y)⟩
  simp only [refillRead, hzero, hx, hel, hap, htgt, hxown, hread, ofBytes_bytesAt, Bool.true_eq_false, Bool.false_eq_true, if_false]

theorem refillBringsEntryBack : RefillBringsEntryBack := by
  intro s c w a t r e hs hlog hr htick hrl hfrom hsp hlen htlb hel hap hown ha hp hl1 hq
  obtain ⟨u, hread, hmem, hslots⟩ := refillRead_reads w (lowest (maskLanes r.freed)) htlb hel hap hown ha hp hl1 hq
  have hstep : refillStep s c w = some ((setRefill u c w r none).modWave c w (fun v => v.refilled r [rsEntryAt s a])) := by
    simp [refillStep, hs, hr, hfrom, htick, hlog, unanswered, refusalOf, refillReads, hread]
  have hrun : execReconvRefillComplete c w s = .next ((setRefill u c w r none).modWave c w (fun v => v.refilled r [rsEntryAt s a])) := by
    have hreplay : replaySpills s c w = s := replaySpills_of_none (fun t' ht' => by rw [hs] at ht'; cases ht'; exact hlog)
    simp only [execReconvRefillComplete, hreplay, hstep]
  have hset : setRefill u c w r none = u.modWave c w (fun v => { v with refill := none }) := by simp [setRefill, hrl]
  rw [hset] at hrun
  refine ⟨_, (exec_reconvRefillComplete_eq ..).trans hrun, hmem, ?_⟩
  rw [State.slot?_modWave, State.slot?_modWave, hslots, hs]
  have hn : min 1 (16 - t.wave.stack.length) = 1 := by omega
  simp [Wave.refilled, hsp, hfrom, hn, rsEntryAt]

/-! ## A vote changes one wave (01 R12, R13) -/

/-- u is s after changes of wave w of core c alone, whose slot is t now. -/
structure Voting (s u : State) (c w : Nat) (t : Slot) : Prop where
  rest : OnlyCores s u
  core : u.core c = { s.core c with slots := (u.core c).slots }
  slot : u.slot? c w = some t

theorem Voting.start {s : State} {c w : Nat} {t : Slot} (h : s.slot? c w = some t) : Voting s s c w t := ⟨.refl s, rfl, h⟩

theorem Voting.modWave {s u : State} {c w : Nat} {t : Slot} (h : Voting s u c w t) (f : Wave → Wave) :
    Voting s (u.modWave c w f) c w { t with wave := f t.wave } := by
  obtain ⟨hrest, hcore, hslot⟩ := h
  refine ⟨hrest.trans (.modWave ..), ?_, by rw [State.slot?_modWave, hslot]; rfl⟩
  simp only [State.modWave, State.modSlot, State.core_modCore]
  rw [hcore]

/-! ## Holds and the reconvergence stack at a visit (07 R158; 09 R215) -/

/-- Nothing is tested for a wave whose lanes nothing holds. -/
theorem Voting.testHolds {s u : State} {c w : Nat} {t : Slot} (h : Voting s u c w t) (hl : ∀ x, x ∈ t.wave.lanes → x.holds = []) :
    Voting s (testHolds u c w) c w t := by
  have hpois : chkPoisons u c w = u := by
    simp only [chkPoisons, h.slot]
    refine foldl_of_fixed (fun p hp => ?_)
    obtain ⟨x, i⟩ := p
    have hx : x ∈ t.wave.lanes := List.mem_of_getElem? (List.mk_mem_zipIdx_iff_getElem?.mp hp)
    simp [hl x hx]
  have hsame : t.wave.lanes.map (fun l => { l with holds := (l.holds.filter (fun h => !holdOver u c t.wave h)).map (holdNext u) }) =
      t.wave.lanes := by
    refine (List.map_congr_left (fun x hx => ?_)).trans (List.map_id _)
    have : (x.holds.filter (fun h => !holdOver u c t.wave h)).map (holdNext u) = x.holds := by rw [hl x hx]; rfl
    rw [this]; rfl
  have hnext := h.modWave (fun v => { v with lanes := v.lanes.map (fun l =>
    { l with holds := (l.holds.filter (fun h => !holdOver u c t.wave h)).map (holdNext u) }) })
  rw [hsame] at hnext
  simpa only [Machine.testHolds, hpois, h.slot] using hnext

/-- No entry is complete on an empty stack. -/
theorem settle_of_empty {v : Wave} (h : v.stack = []) (n : Nat) : settle n v = v := by
  cases n with
  | zero => rfl
  | succ n => simp [settle, topDone, h]

/-! ## The sets of a wave whose lanes stand together (01 R13) -/

/-- The masks of all 32 lanes together. -/
theorem foldl_bitOf_range : (List.range 32).foldl (fun m l => m ||| bitOf l) 0 = 0xFFFFFFFF := by decide

/-- All lanes are in the full mask. -/
theorem maskLanes_full : maskLanes 0xFFFFFFFF = List.range 32 := by decide

/-- A lane of 32 equal ones. -/
theorem lanes_getElem? {v : Wave} {y : Lane} (hl : v.lanes = List.replicate 32 y) {l : Nat} (h : l < 32) : v.lanes[l]? = some y := by
  rw [hl, List.getElem?_replicate, if_pos h]

/-- Lanes of one key go into the one set that there is. -/
theorem foldl_ins_one {k : Nat} {f : Tab Mask → Nat → Tab Mask} {ls : List Nat}
    (hf : ∀ t, ∀ l ∈ ls, f t l = t.ins k (Tab.get 0 t k ||| bitOf l)) :
    ∀ m : Mask, ls.foldl f [(k, m)] = [(k, ls.foldl (fun m l => m ||| bitOf l) m)] := by
  induction ls with
  | nil => intro m; rfl
  | cons l ls ih =>
    intro m
    have hstep : f [(k, m)] l = [(k, m ||| bitOf l)] := by
      rw [hf _ l List.mem_cons_self]
      simp [Tab.ins, Tab.get, Tab.get?]
    rw [List.foldl_cons, hstep, ih (fun t x hx => hf t x (List.mem_cons_of_mem _ hx)), List.foldl_cons]

/-- The first of them makes it. -/
theorem foldl_ins_first {k : Nat} {f : Tab Mask → Nat → Tab Mask} {ls : List Nat} (hne : ls ≠ [])
    (hf : ∀ t, ∀ l ∈ ls, f t l = t.ins k (Tab.get 0 t k ||| bitOf l)) :
    ls.foldl f [] = [(k, ls.foldl (fun m l => m ||| bitOf l) 0)] := by
  cases ls with
  | nil => exact absurd rfl hne
  | cons l ls =>
    rw [List.foldl_cons, hf _ l List.mem_cons_self, List.foldl_cons]
    exact foldl_ins_one (fun t x hx => hf t x (List.mem_cons_of_mem _ hx)) _

/-- Lanes that could be chosen, all at one key, are one set. -/
theorem voteSets_of_one {v : Wave} {y : Lane} (hl : v.lanes = List.replicate 32 y) (hc : ∀ l, l < 32 → candidate v l = true) :
    voteSets v = [(voteKey y, 0xFFFFFFFF)] := by
  have hall : (List.range 32).filter (candidate v) = List.range 32 :=
    List.filter_eq_self.mpr (fun l h => hc l (List.mem_range.mp h))
  rw [voteSets, hall, ← foldl_bitOf_range]
  refine foldl_ins_first (by simp) (fun t l h => ?_)
  rw [lanes_getElem? hl (List.mem_range.mp h)]

/-! ## A wave whose lanes stand together at a block that may run (01 R12, R13) -/

/-- The 32 lanes of the wave in slot t stand at one PC, free to run block b, for which the core's queues have room. -/
structure Together (s : State) (c w : Nat) (t : Slot) (y : Lane) (b : Block) : Prop where
  slot : s.slot? c w = some t
  drains : t.drains = false
  ops : t.wave.ops = []
  stack : t.wave.stack = []
  refill : t.wave.refill = none
  lanes : t.wave.lanes = List.replicate 32 y
  exited : y.exited = false
  stopped : y.stopped = false
  holds : y.holds = []
  held : y.held = none
  check : y.check = .none
  stopen : (s.func t.wave.vf).dbg.stopen = false
  block : l0Block (s.core c) t.wave.vf (y.level == .u) y.pc t.wave.vgran = some b
  words : b.words ≠ []
  flags : ∀ n, n < 12 → (hdrWait b.hdr).getLsbD n = true → t.wave.flags.getD n 0 = 0
  room : queuesOk (s.core c) t.wave.gang b.words (reserved (s.core c)).1 (reserved (s.core c)).2.1 (reserved (s.core c)).2.2 = true

theorem Together.lane {s : State} {c w : Nat} {t : Slot} {y : Lane} {b : Block} (h : Together s c w t y b) {x : Lane}
    (hx : x ∈ t.wave.lanes) : x = y := by
  rw [h.lanes] at hx
  exact List.eq_of_mem_replicate hx

/-- Every lane of it could be chosen. -/
theorem Together.candidate {s : State} {c w : Nat} {t : Slot} {y : Lane} {b : Block} (h : Together s c w t y b) (l : Nat) (hl : l < 32) :
    candidate t.wave l = true := by
  simp [Machine.candidate, lanes_getElem? h.lanes hl, h.ops, h.exited, h.stopped, h.holds, reconvHeld, h.stack, h.refill]

/-- A block that the L0 holds with words has a sound prologue, which the L0 holds too. -/
theorem l0Block_prologue {k : Core} {vf : Nat} {u : Bool} {pc : W64} {vgran : Nat} {b : Block} (h : l0Block k vf u pc vgran = some b)
    (hw : b.words ≠ []) : ∃ p : W128, l0Word k vf u pc.toNat = some p ∧ b.hdr = p.extractLsb' 0 64 ∧
      prologueBad (p.extractLsb' 0 64) (p.extractLsb' 64 64) vgran = false := by
  unfold l0Block at h
  split at h
  · cases h
  · next p hp =>
    refine ⟨p, hp, ?_⟩
    dsimp only at h
    split at h
    · cases h; exact absurd rfl hw
    · next hbad =>
      obtain ⟨ws, -, rfl⟩ := Option.map_eq_some_iff.mp h
      exact ⟨rfl, by simpa using hbad⟩

/-- The vote finds its block ready to run. -/
theorem Together.examine {s : State} {c w : Nat} {t : Slot} {y : Lane} {b : Block} (h : Together s c w t y b) :
    examine (s.core c) t.wave 0xFFFFFFFF (reserved (s.core c)).1 (reserved (s.core c)).2.1 (reserved (s.core c)).2.2 = .run b := by
  obtain ⟨p, hp, hhdr, hgood⟩ := l0Block_prologue h.block h.words
  have hfirst : t.wave.lanes[lowest (maskLanes 0xFFFFFFFF)]? = some y := lanes_getElem? h.lanes (by decide)
  have hnone : ¬ ((maskLanes 0xFFFFFFFF).any (fun l => match t.wave.lanes[l]? with
      | some y => y.holds.contains .refused | none => false) = true) := by
    rw [maskLanes_full, List.any_eq_true]
    rintro ⟨l, hl, hr⟩
    rw [lanes_getElem? h.lanes (List.mem_range.mp hl)] at hr
    simp [h.holds] at hr
  have hflags : ¬ (prologueBad (p.extractLsb' 0 64) (p.extractLsb' 64 64) t.wave.vgran = false ∧
      (List.range 12).any (fun n => (hdrWait (p.extractLsb' 0 64)).getLsbD n && t.wave.flags.getD n 0 != 0) = true) := by
    rw [List.any_eq_true]
    rintro ⟨-, n, hn, hw⟩
    rw [Bool.and_eq_true, ← hhdr] at hw
    have hzero := h.flags n (List.mem_range.mp hn) hw.1
    rw [hzero] at hw
    exact absurd hw.2 (by decide)
  have hwords : ¬ (b.words.isEmpty = true) := by simpa using h.words
  simp only [Machine.examine, hfirst]
  refine (if_neg hnone).trans ?_
  simp only [hp]
  refine (if_neg hflags).trans ?_
  simp only [h.block]
  rw [if_neg hwords, if_pos h.room]

/-- It is chosen, alone. -/
theorem Together.choose {s : State} {c w : Nat} {t : Slot} {y : Lane} {b : Block} (h : Together s c w t y b) :
    choose (s.core c) t.wave (reserved (s.core c)).1 (reserved (s.core c)).2.1 (reserved (s.core c)).2.2 (voteSets t.wave) [] [] =
      ([(0xFFFFFFFF, .run b)], []) := by
  simp only [voteSets_of_one h.lanes h.candidate, Machine.choose, h.examine]
  rfl

/-- The sets do not read the waves of the core, so a vote's own changes leave the block, its room and its flags. -/
theorem Together.voted {s u : State} {c w : Nat} {t : Slot} {y : Lane} {b : Block} (h : Together s c w t y b) (hv : Voting s u c w t) :
    Together u c w t y b where
  slot := hv.slot
  drains := h.drains
  ops := h.ops
  stack := h.stack
  refill := h.refill
  lanes := h.lanes
  exited := h.exited
  stopped := h.stopped
  holds := h.holds
  held := h.held
  check := h.check
  stopen := by simpa only [State.func, hv.rest.funcs] using h.stopen
  block := by rw [hv.core]; exact h.block
  words := h.words
  flags := h.flags
  room := by rw [hv.core]; exact h.room

/-! ## The lanes of the chosen set run (06 R132; 07 R155; 17 R378) -/

/-- A vote whose lanes hold no cause and no check, of a wave that does not drain. -/
structure Admits (s u : State) (c w vf : Nat) : Prop where
  voting : ∃ t, Voting s u c w t ∧ t.drains = false ∧ t.wave.vf = vf ∧
    ∀ l, l < 32 → ∃ z, t.wave.lanes[l]? = some z ∧ z.held = none ∧ z.check = .none

/-- Such a lane runs: no trap, no check and no stop holds it. -/
theorem Admits.lane {s u : State} {c w vf l : Nat} {b : Block} (h : Admits s u c w vf) (hs : (s.func vf).dbg.stopen = false) (hl : l < 32) :
    admitLane u c w l (.run b) = (u.modLane c w l (fun z => { z with check := .none, skipStop := false }), true) := by
  obtain ⟨t, hv, hd, rfl, hz⟩ := h.voting
  obtain ⟨z, hz, hheld, hcheck⟩ := hz l hl
  have hdue : heldDue z = none := by simp [heldDue, hheld]
  have htrap : voteTrap u c t.wave l z (.run b) = none := by simp [voteTrap, landFails, hcheck]
  have hstop : ∀ x : State, x.funcs = s.funcs → (if z.skipStop then 0 else stopsAt x t.wave [landSpo b.land]) = 0 := fun x hx => by
    have : (x.func t.wave.vf).dbg.stopen = false := by simpa only [State.func, hx] using hs
    simp [stopsAt, this]
  have hfuncs : (u.modLane c w l (fun z => { z with check := .none, skipStop := false })).funcs = s.funcs := hv.rest.funcs
  simp only [admitLane, hv.slot, hz, hdue, htrap]
  split
  · rfl
  · rw [hstop _ hfuncs]
    simp [dueStop, hd]

theorem Admits.next {s u : State} {c w vf : Nat} (h : Admits s u c w vf) (l : Nat) :
    Admits s (u.modLane c w l (fun z => { z with check := .none, skipStop := false })) c w vf := by
  obtain ⟨t, hv, hd, hvf, hz⟩ := h.voting
  refine ⟨_, hv.modWave _, hd, hvf, fun k hk => ?_⟩
  obtain ⟨z, hz, hheld, hcheck⟩ := hz k hk
  simp only [listAdj_get?, hz]
  split
  · exact ⟨_, rfl, hheld, rfl⟩
  · exact ⟨z, rfl, hheld, hcheck⟩

/-- All lanes of the set run. -/
theorem Admits.foldl {s : State} {c w vf : Nat} {b : Block} (hs : (s.func vf).dbg.stopen = false) (ls : List Nat) :
    ∀ (u : State) (m : Mask), (∀ l ∈ ls, l < 32) → Admits s u c w vf →
      let r := ls.foldl (fun (a : State × Mask) l =>
        let (s, ok) := admitLane a.1 c w l (.run b)
        (s, if ok then a.2 ||| bitOf l else a.2)) (u, m)
      r.2 = ls.foldl (fun m l => m ||| bitOf l) m ∧ Admits s r.1 c w vf := by
  induction ls with
  | nil => intro u m _ h; exact ⟨rfl, h⟩
  | cons l ls ih =>
    intro u m hl h
    simp only [List.foldl_cons, h.lane hs (hl l List.mem_cons_self), if_true]
    exact ih _ _ (fun k hk => hl k (List.mem_cons_of_mem _ hk)) (h.next l)

theorem Admits.admitSet {s u : State} {c w vf : Nat} (b : Block) (h : Admits s u c w vf) (hs : (s.func vf).dbg.stopen = false) :
    (admitSet u c w 0xFFFFFFFF (.run b)).2 = 0xFFFFFFFF ∧ Admits s (admitSet u c w 0xFFFFFFFF (.run b)).1 c w vf := by
  have hfold := Admits.foldl (b := b) hs (List.range 32) u 0 (fun l hl => List.mem_range.mp hl) h
  rw [foldl_bitOf_range] at hfold
  simpa only [Machine.admitSet, maskLanes_full] using hfold

/-! ## The visit that starts a run (01 R12, R13, R15, R16) -/

theorem Together.admits {s u : State} {c w : Nat} {t : Slot} {y : Lane} {b : Block} (h : Together s c w t y b) (hv : Voting s u c w t) :
    Admits s u c w t.wave.vf :=
  ⟨t, hv, h.drains, rfl, fun _ hl => ⟨y, lanes_getElem? h.lanes hl, h.held, h.check⟩⟩

/-- The chosen set is the run's one group. -/
theorem Together.joinRun {s u : State} {c w : Nat} {t : Slot} {y : Lane} {b : Block} (h : Together s c w t y b) (hv : Voting s u c w t) :
    ∃ x, joinRun u c w 0 [(0xFFFFFFFF, .run b)] [] = (x, [mkGroup 0 0xFFFFFFFF y b]) ∧ Admits s x c w t.wave.vf := by
  obtain ⟨hmask, hnext⟩ := (h.admits hv).admitSet b h.stopen
  have hlane : (u.slot? c w).bind (fun t => t.wave.lanes[lowest (maskLanes 0xFFFFFFFF)]?) = some y := by
    rw [hv.slot]
    exact lanes_getElem? h.lanes (by decide)
  refine ⟨_, ?_, hnext⟩
  simp only [Machine.joinRun, hlane, hmask]
  rfl

/-- No lane of it has yielded. -/
theorem Together.not_yielded {s : State} {c w : Nat} {t : Slot} {y : Lane} {b : Block} (h : Together s c w t y b) :
    (List.range 32).filter (fun l => match t.wave.lanes[l]? with | some x => x.holds.contains .yield | none => false) = [] := by
  refine List.filter_eq_nil_iff.mpr (fun l hl => ?_)
  rw [lanes_getElem? h.lanes (List.mem_range.mp hl)]
  simp [h.holds]

/-- Before the vote nothing changes: no hold is tested and no entry completes. -/
theorem Together.before_vote {s : State} {c w : Nat} {t : Slot} {y : Lane} {b : Block} (h : Together s c w t y b) :
    Voting s ((testHolds s c w).modWave c w (settle 17)) c w t := by
  have htest := (Voting.start h.slot).testHolds (fun x hx => by rw [h.lane hx]; exact h.holds)
  have hsettle := htest.modWave (settle 17)
  rwa [settle_of_empty h.stack] at hsettle

/-- The visit starts the run of the block by all of them. -/
theorem Together.visitWave {s : State} {c w : Nat} {t : Slot} {y : Lane} {b : Block} (h : Together s c w t y b) :
    ∃ x, Admits s x c w t.wave.vf ∧
      visitWave s c w = startRun (countEvent x (clusterOf c) t.wave.vf 3 1) c w [mkGroup 0 0xFFFFFFFF y b] := by
  have hv := h.before_vote
  have ht := h.voted hv
  obtain ⟨x, hjoin, hx⟩ := h.joinRun hv
  refine ⟨x, hx, ?_⟩
  have hidle : stopIdle ((testHolds s c w).modWave c w (settle 17)) c w [] = (testHolds s c w).modWave c w (settle 17) := by
    simp only [stopIdle, hv.slot]
    rw [if_pos h.drains]
  have hmiss : ¬ (([((0xFFFFFFFF : Mask), Found.run b)].any (fun x => x.2 == .miss)) = true) := by
    simp
  simp only [Machine.visitWave, h.slot, hv.slot, ht.choose, hidle]
  rw [if_neg hmiss, hjoin]
  exact congrArg (fun who => startRun (countEvent (endYield x c w who) (clusterOf c) t.wave.vf 3 1) c w [mkGroup 0 0xFFFFFFFF y b])
    h.not_yielded

/-- A run that starts stands in its wave's quarter, at the first word of its first group. -/
theorem startRun_run {s : State} {c w : Nat} {t : Quarter} (gs : List Group) (h : (s.core c).quarters[quarterOf w]? = some t) :
    ∃ r, (startRun s c w gs).quarter c (quarterOf w) = { t with run := some r } ∧ r.wave = w ∧ r.idx = 0 ∧ r.port = 0 ∧ r.groups = gs := by
  simp only [startRun, State.quarter, State.modQuarter, State.core_modCore]
  exact ⟨_, getD_listAdj h _ _, rfl, rfl, rfl, rfl⟩

/-- The quarter of a wave number (02 R47). -/
theorem quarterOf_slot {q n : Nat} (h : n < 16) : quarterOf (16 * q + n) = q := by
  simp only [quarterOf]
  omega

/-- The entries that runs in progress have reserved do not depend on the barrel's slots. -/
theorem reserved_listAdj (k : Core) (q n : Nat) :
    reserved { k with quarters := listAdj k.quarters q (fun t => { t with slot := n }) } = reserved k := by
  have hfold : ∀ (f : Nat × Nat × Nat → Quarter → Nat × Nat × Nat), (∀ a t, f a { t with slot := n } = f a t) →
      ∀ (l : List Quarter) (q : Nat) (a : Nat × Nat × Nat),
        (listAdj l q (fun t => { t with slot := n })).foldl f a = l.foldl f a := by
    intro f hf l
    induction l with
    | nil => intro q a; rfl
    | cons t l ih =>
      intro q a
      cases q with
      | zero => rw [listAdj, List.foldl_cons, hf, List.foldl_cons]
      | succ q => rw [listAdj, List.foldl_cons, ih, List.foldl_cons]
  exact hfold _ (fun _ _ => rfl) _ _ _

/-- The statement's wave stands together when the barrel has moved on. -/
theorem Together.moved {s : State} {c w : Nat} {t : Slot} {y : Lane} {b : Block} (h : Together s c w t y b) (q n : Nat) :
    Together (s.modQuarter c q (fun t => { t with slot := n })) c w t y b where
  slot := (State.slot?_modQuarter ..).trans h.slot
  drains := h.drains
  ops := h.ops
  stack := h.stack
  refill := h.refill
  lanes := h.lanes
  exited := h.exited
  stopped := h.stopped
  holds := h.holds
  held := h.held
  check := h.check
  stopen := h.stopen
  block := by rw [State.modQuarter, State.core_modCore]; exact h.block
  words := h.words
  flags := h.flags
  room := by rw [State.modQuarter, State.core_modCore, reserved_listAdj]; exact h.room

theorem barrelStartsRun : BarrelStartsRun := by
  intro s c q t y b hq hquarters hidle hlt hs hparked hdrains hops hspill hstack hrefill hlanes hexited hstopped hholds hheld hcheck
    hstopen hblock hwords hflags hroom
  have hs' : Together s c (16 * q + (s.quarter c q).slot) t y b :=
    ⟨hs, hdrains, hops, hstack, hrefill, hlanes, hexited, hstopped, hholds, hheld, hcheck, hstopen, hblock, hwords, hflags, hroom⟩
  obtain ⟨x, ⟨v, hv, -, -, -⟩, hvisit⟩ := (hs'.moved q (((s.quarter c q).slot + 1) % 16)).visitWave
  have hexec := (barrelVisit_quiet s c q hq hidle).2 t hs hops hspill
  rw [hparked, if_neg (by decide), hvisit] at hexec
  have hold : (s.core c).quarters[q]? = some (s.quarter c q) := by
    have hget : q < (s.core c).quarters.length := by omega
    rw [State.quarter, List.getD_eq_getElem?_getD, List.getElem?_eq_getElem hget]
    rfl
  have hnow : (x.core c).quarters[q]? = some { slot := ((s.quarter c q).slot + 1) % 16, run := none } := by
    rw [hv.core]
    simp only [State.modQuarter, State.core_modCore, listAdj_get?, hold, if_true]
    rw [Option.map_some, hidle]
  have hcores : (countEvent x (clusterOf c) t.wave.vf 3 1).core c = x.core c := by simp only [State.core, countEvent_cores]
  rw [← hcores, ← quarterOf_slot (q := q) hlt] at hnow
  obtain ⟨r, hr, hwave, hidx, hport, hgroups⟩ := startRun_run [mkGroup 0 0xFFFFFFFF y b] hnow
  rw [quarterOf_slot hlt] at hr
  exact ⟨_, r, _, hexec, (countEvent_mem ..).trans hv.rest.mem, hr, hwave, hidx, hport, hgroups, rfl, rfl, rfl, rfl, rfl⟩

/-- Settles O48, by one lemma for each event and access of its list. -/
theorem waveEventsComplete : Obligations.WaveEventsComplete :=
  ⟨⟨barrelVisit_quiet, refillBringsEntryBack, barrelStartsRun, fetchBringsBlock, blockFetchComplete_answers, sleepExpiry_ends,
    knownLoad_lands, conversionComplete_lands, quantumGather_adds⟩, sharedLoads_complete, sharedAtomics_complete, drain_writes⟩

end Sys2Proof.Machine
end

namespace Sys2Proof

/-! ## What a word that decodes holds (06 R136, R143) -/

/-- The code of an operand read from a class and an index is that class and that index (06 R136). -/
theorem Opnd.code_of_ofCode {c : BitVec 3} {i : BitVec 11} {o : Opnd} (h : Opnd.ofCode c i = some o) : o.code = (c, i) := by
  unfold Opnd.ofCode at h
  split at h
  case h_6 hc =>
    obtain ⟨rfl, rfl⟩ : i = 0 ∧ Opnd.imm = o := by simpa using h
    rw [show c = 5 from BitVec.eq_of_toNat_eq hc]; rfl
  case h_8 =>
    obtain ⟨rfl, rfl⟩ : i = 0 ∧ Opnd.absent = o := by simpa using h
    have hc : c.toNat = 7 := by
      have := c.isLt
      simp only [imp_false] at *
      omega
    rw [show c = 7 from BitVec.eq_of_toNat_eq hc]; rfl
  all_goals
    next hc =>
      obtain rfl := Option.some.inj h
      exact Prod.ext (BitVec.eq_of_toNat_eq hc.symm) rfl

/-- Class 5 is the immediate. -/
theorem Opnd.eq_imm_of_ofCode {i : BitVec 11} {o : Opnd} (h : Opnd.ofCode 5 i = some o) : o = .imm := by
  have hc := congrArg Prod.fst (Opnd.code_of_ofCode h)
  cases o with
  | imm => rfl
  | _ => simp [Opnd.code] at hc

/-- A vector register has class 0. -/
theorem Opnd.class_of_isVec {c : BitVec 3} {i : BitVec 11} {o : Opnd} (h : Opnd.ofCode c i = some o) (hv : o.isVec = true) :
    c = 0 := by
  have hc := congrArg Prod.fst (Opnd.code_of_ofCode h)
  cases o with
  | vec r => exact hc.symm
  | _ => cases hv

/-- An index beside class 101 or 111 is no operand (02 R49). -/
theorem Opnd.ofCode_of_index {c : BitVec 3} {i : BitVec 11} (hc : c = 5 ∨ c = 7) (hi : i ≠ 0) : Opnd.ofCode c i = none := by
  obtain rfl | rfl := hc <;> exact if_neg hi

/-- What the fields of an unpacked word are read from (06 R136). -/
structure UnpacksTo (w : W128) (f : Fields) : Prop where
  dst : Opnd.ofCode (field w 30 3) (field w 19 11) = some f.dst
  a : Opnd.ofCode (field w 44 3) (field w 33 11) = some f.a
  b : Opnd.ofCode (field w 58 3) (field w 47 11) = some f.b
  c : Opnd.ofCode (field w 72 3) (field w 61 11) = some f.c
  sf : f.sf = w.getLsbD 13
  ru : f.ru = field w 10 3
  t : f.t = w.getLsbD 9
  s : f.s = w.getLsbD 8

theorem unpacksTo_of_unpack {w : W128} {f : Fields} (h : unpack w = some f) : UnpacksTo w f := by
  simp only [unpack, Option.bind_eq_bind, Option.bind_eq_some_iff, Option.pure_def, Option.some.injEq] at h
  obtain ⟨dst, hd, a, ha, b, hb, c, hc, rfl⟩ := h
  exact ⟨hd, ha, hb, hc, rfl, rfl, rfl, rfl⟩

/-- What a word that no pattern of R143 matches holds: kinds its form permits, one immediate at most, RU bits at vectors alone,
no T with S, no SF where no flag is raised. -/
structure PassesCheck (op : Nat) (f : Fields) : Prop where
  dst : okIn (formOf op f).d f.dst = true
  imms : (f.srcs.filter (fun o => o == .imm)).length ≤ 1
  ruA : f.ru.getLsbD 0 = true → f.a.isVec = true
  ruB : f.ru.getLsbD 1 = true → f.b.isVec = true
  ruC : f.ru.getLsbD 2 = true → f.c.isVec = true
  transient : f.t = true → f.s = false
  flag : f.sf = true → raisesFlag op f = true

/-- A chain of patterns names none when its first does not match and the rest name none. -/
theorem ite_some_eq_none_iff {α : Type} {p : Prop} [Decidable p] {e : α} {r : Option α} :
    (if p then some e else r) = none ↔ ¬ p ∧ r = none := by
  by_cases hp : p <;> simp [hp]

theorem passesCheck_of_check {op : Nat} {f : Fields} (h : check op f = none) : PassesCheck op f := by
  simp only [check, ite_some_eq_none_iff] at h
  obtain ⟨hkinds, -, himm, -, hru, ht, hsf, -⟩ := h
  simp only [Bool.not_eq_true', Bool.not_eq_false, Bool.and_eq_true] at hkinds
  obtain ⟨⟨⟨hdst, -⟩, -⟩, -⟩ := hkinds
  simp only [Bool.or_eq_true, decide_eq_true_eq, not_or, Nat.not_lt] at himm
  simp only [Bool.or_eq_true, Bool.and_eq_true, Bool.not_eq_true', not_or, not_and, Bool.not_eq_false] at hru
  obtain ⟨⟨hruA, hruB⟩, hruC⟩ := hru
  refine ⟨hdst, himm.1, hruA, hruB, hruC, fun h => ?_, fun h => ?_⟩
  · cases hs : f.s with
    | false => rfl
    | true => simp [h, hs] at ht
  · simpa [h] using hsf

/-- Two immediates among A, B and C are one too many. -/
theorem PassesCheck.imm_unique {op : Nat} {f : Fields} (h : PassesCheck op f) :
    ¬ (f.a = .imm ∧ f.b = .imm) ∧ ¬ (f.a = .imm ∧ f.c = .imm) ∧ ¬ (f.b = .imm ∧ f.c = .imm) := by
  have hi := h.imms
  simp only [← List.countP_eq_length_filter, Fields.srcs, List.countP_cons, List.countP_nil, beq_iff_eq] at hi
  refine ⟨?_, ?_, ?_⟩ <;> rintro ⟨h1, h2⟩ <;> simp only [h1, h2, if_true] at hi <;> omega

/-- Rows 0x2 to 0x6 raise no flag (02 R57). -/
theorem raisesFlag_of_fixedRow {op : Nat} {f : Fields} (hlo : 0x20 ≤ op) (hhi : op < 0x70) : raisesFlag op f = false := by
  have hrow : op / 16 = 2 ∨ op / 16 = 3 ∨ op / 16 = 4 ∨ op / 16 = 5 ∨ op / 16 = 6 := by omega
  obtain h | h | h | h | h := hrow <;> simp [raisesFlag, h]

theorem field_getLsbD {w : W128} {lo n j : Nat} (hj : j < n) : (field w lo n).getLsbD j = w.getLsbD (lo + j) := by
  simp [field, hj]

/-- Where a word decodes, its fields passed the check. -/
theorem decode_ok {w : W128} {i : Instr} (h : decode w = .ok i) : ∃ f, UnpacksTo w f ∧ PassesCheck (opOf w) f := by
  unfold decode at h
  split at h
  · cases h
  next f hu =>
    split at h
    · cases h
    next hcheck => exact ⟨f, unpacksTo_of_unpack hu, passesCheck_of_check hcheck⟩

/-- Where a field does not unpack, the word is refused by the pattern of operands. -/
theorem decode_of_unpack {w : W128} (h : unpack w = none) : decode w = .error .operand := by
  simp [decode, h]

/-! ## What a destination may be -/

/-- Whether none of the kinds is immediate or special. -/
def destKinds (ks : List K) : Bool := ks.all (fun k => k != .i && k != .x)

@[simp] theorem destKinds_nil : destKinds [] = true := rfl

@[simp] theorem destKinds_cons (k : K) (ks : List K) : destKinds (k :: ks) = ((k != .i && k != .x) && destKinds ks) := rfl

@[simp] theorem destKinds_vu : destKinds vu = true := rfl

@[simp] theorem destKinds_vu64 : destKinds vu64 = true := rfl

@[simp] theorem destKinds_none' : destKinds none' = true := rfl

@[simp] theorem destKinds_append (ks ls : List K) : destKinds (ks ++ ls) = (destKinds ks && destKinds ls) := List.all_append

@[simp] theorem destKinds_ite (p : Prop) [Decidable p] (ks ls : List K) :
    destKinds (if p then ks else ls) = true ↔ (p → destKinds ks = true) ∧ (¬ p → destKinds ls = true) := by
  by_cases hp : p <;> simp [hp]

@[simp] theorem destKinds_dataV (sz : Nat) : destKinds (dataV sz) = true := by
  unfold dataV; split_ifs <;> rfl

@[simp] theorem destKinds_dataU (sz : Nat) : destKinds (dataU sz) = true := by
  unfold dataU; split_ifs <;> rfl

@[simp] theorem destKinds_cvtD (c : Nat) : destKinds (cvtD c) = true := by
  unfold cvtD; split_ifs <;> rfl

@[simp] theorem form_d (f : Fields) (d a b c : List K) (mask : BitVec 21) (ok : Bool) : (form f d a b c mask ok).d = d := rfl

@[simp] theorem formOwn_d (d a b c : List K) (mask : BitVec 21) (ok immOk : Bool) : (formOwn d a b c mask ok immOk).d = d := rfl

@[simp] theorem ladleForm_d (f : Fields) (d a b c : List K) (extra : BitVec 21) (ok : Bool) :
    (ladleForm f d a b c extra ok).d = d := rfl

@[simp] theorem Form.d_ite (p : Prop) [Decidable p] (g h : Form) : (if p then g else h).d = if p then g.d else h.d := apply_ite ..

/-- The destination kinds of an atomic are those it is given, widened or not (09 R210). -/
@[simp] theorem destKinds_atomForm (f : Fields) (types : List Nat) (b c : Bool) {d : List K} (comm quant spec rm pse : Bool)
    (hd : destKinds d = true) : destKinds (atomForm f types b c d comm quant spec rm pse).d = true := by
  simp only [atomForm, formOwn_d, destKinds, List.all_flatMap]
  refine List.all_eq_true.mpr fun k hk => ?_
  have hkd := List.all_eq_true.mp hd k hk
  split_ifs <;> simp [hkd]

theorem destKinds_forms0 (f : Fields) (n : Nat) : destKinds (forms0 f n).d = true := by
  unfold forms0
  split <;> simp

theorem destKinds_forms1 (f : Fields) (n : Nat) : destKinds (forms1 f n).d = true := by
  unfold forms1
  split <;> simp

theorem destKinds_forms2 (f : Fields) (n : Nat) : destKinds (forms2 f n).d = true := by
  unfold forms2
  split <;> simp

theorem destKinds_forms3 (f : Fields) (n : Nat) : destKinds (forms3 f n).d = true := by
  unfold forms3
  split <;> simp

theorem destKinds_forms4 (f : Fields) (n : Nat) : destKinds (forms4 f n).d = true := by
  unfold forms4
  split <;> simp

theorem destKinds_forms5 (f : Fields) (n : Nat) : destKinds (forms5 f n).d = true := by
  unfold forms5
  split <;> simp

theorem destKinds_forms6 (f : Fields) (n : Nat) : destKinds (forms6 f n).d = true := by
  unfold forms6
  split <;> simp

theorem destKinds_forms7 (f : Fields) (n : Nat) : destKinds (forms7 f n).d = true := by
  unfold forms7
  split <;> simp

theorem destKinds_forms8 (f : Fields) (n : Nat) : destKinds (forms8 f n).d = true := by
  unfold forms8
  split <;> simp

theorem destKinds_forms9 (f : Fields) (n : Nat) : destKinds (forms9 f n).d = true := by
  unfold forms9
  split <;> simp

theorem destKinds_formsA (f : Fields) (n : Nat) : destKinds (formsA f n).d = true := by
  unfold formsA
  split <;> simp

theorem destKinds_formsB (f : Fields) (n : Nat) : destKinds (formsB f n).d = true := by
  unfold formsB
  split <;> simp

theorem destKinds_formsC (f : Fields) (n : Nat) : destKinds (formsC f n).d = true := by
  unfold formsC
  split <;> simp

theorem destKinds_formsD (f : Fields) (n : Nat) : destKinds (formsD f n).d = true := by
  unfold formsD
  split <;> simp

theorem destKinds_formsE (f : Fields) (n : Nat) : destKinds (formsE f n).d = true := by
  unfold formsE
  split <;> simp

theorem destKinds_formsF (f : Fields) (n : Nat) : destKinds (formsF f n).d = true := by
  unfold formsF
  split <;> simp

/-- No opcode's form permits an immediate or special destination. -/
theorem destKinds_formOf (op : Nat) (f : Fields) : destKinds (formOf op f).d = true := by
  unfold formOf
  split
  · exact destKinds_forms0 f _
  · exact destKinds_forms1 f _
  · exact destKinds_forms2 f _
  · exact destKinds_forms3 f _
  · exact destKinds_forms4 f _
  · exact destKinds_forms5 f _
  · exact destKinds_forms6 f _
  · exact destKinds_forms7 f _
  · exact destKinds_forms8 f _
  · exact destKinds_forms9 f _
  · exact destKinds_formsA f _
  · exact destKinds_formsB f _
  · exact destKinds_formsC f _
  · exact destKinds_formsD f _
  · exact destKinds_formsE f _
  · exact destKinds_formsF f _

/-- An operand of a destination's kinds is neither immediate nor special. -/
theorem K.class_of_ok {k : K} {o : Opnd} (hok : k.ok o = true) (hk : (k != .i && k != .x) = true) :
    o.code.1 ≠ 5 ∧ o.code.1 ≠ 6 := by
  cases o with
  | imm =>
    cases k with
    | i => simp at hk
    | _ => cases hok
  | spec r =>
    cases k with
    | x => simp at hk
    | _ => cases hok
  | _ => exact ⟨by simp [Opnd.code], by simp [Opnd.code]⟩

/-- So a word that passes the check has neither as its destination. -/
theorem PassesCheck.dst_class {op : Nat} {f : Fields} (h : PassesCheck op f) : f.dst.code.1 ≠ 5 ∧ f.dst.code.1 ≠ 6 := by
  obtain ⟨k, hk, hok⟩ := List.any_eq_true.mp h.dst
  exact K.class_of_ok hok (List.all_eq_true.mp (destKinds_formOf op f) k hk)

/-! ## The patterns of R143 -/

/-- A field that reads as no operand refuses the word (02 R49). -/
theorem decode_of_no_operand {w : W128} (h : Opnd.ofCode (field w 30 3) (field w 19 11) = none ∨
    Opnd.ofCode (field w 44 3) (field w 33 11) = none ∨ Opnd.ofCode (field w 58 3) (field w 47 11) = none ∨
    Opnd.ofCode (field w 72 3) (field w 61 11) = none) : decode w = .error .operand := by
  cases hu : unpack w with
  | none => exact decode_of_unpack hu
  | some f =>
    obtain ⟨hd, ha, hb, hc, -⟩ := unpacksTo_of_unpack hu
    simp [hd, ha, hb, hc] at h

/-- Settles O4: an index beside class 101 or 111 does not unpack; each other pattern is one of the check's. -/
theorem reservedEncodingsRefused : Obligations.ReservedEncodingsRefused := by
  refine ⟨fun w hk hi => ?_, fun w hk hi => ?_, fun w hk hi => ?_, fun w hk hi => ?_, fun w hk i hok => ?_,
    fun w h1 h2 i hok => ?_, fun w h1 h2 i hok => ?_, fun w h1 h2 i hok => ?_, fun w hlo hhi hsf i hok => ?_,
    fun w hs ht i hok => ?_, fun w hru hk i hok => ?_, fun w hru hk i hok => ?_, fun w hru hk i hok => ?_⟩
  case refine_1 => exact decode_of_no_operand (.inr (.inl (Opnd.ofCode_of_index hk hi)))
  case refine_2 => exact decode_of_no_operand (.inr (.inr (.inl (Opnd.ofCode_of_index hk hi))))
  case refine_3 => exact decode_of_no_operand (.inr (.inr (.inr (Opnd.ofCode_of_index hk hi))))
  case refine_4 => exact decode_of_no_operand (.inl (Opnd.ofCode_of_index (.inr hk) hi))
  all_goals obtain ⟨f, hf, hpass⟩ := decode_ok hok
  case refine_5 =>
    have hcode := hpass.dst_class
    rw [Opnd.code_of_ofCode hf.dst] at hcode
    exact hk.elim hcode.1 hcode.2
  case refine_6 => exact hpass.imm_unique.1 ⟨Opnd.eq_imm_of_ofCode (h1 ▸ hf.a), Opnd.eq_imm_of_ofCode (h2 ▸ hf.b)⟩
  case refine_7 => exact hpass.imm_unique.2.1 ⟨Opnd.eq_imm_of_ofCode (h1 ▸ hf.a), Opnd.eq_imm_of_ofCode (h2 ▸ hf.c)⟩
  case refine_8 => exact hpass.imm_unique.2.2 ⟨Opnd.eq_imm_of_ofCode (h1 ▸ hf.b), Opnd.eq_imm_of_ofCode (h2 ▸ hf.c)⟩
  case refine_9 =>
    have := hpass.flag (hf.sf.trans hsf)
    rw [raisesFlag_of_fixedRow hlo hhi] at this
    cases this
  case refine_10 =>
    have := hpass.transient (hf.t.trans ht)
    rw [hf.s, hs] at this
    cases this
  case refine_11 => exact hk (Opnd.class_of_isVec hf.a (hpass.ruA (by rw [hf.ru, field_getLsbD (by omega)]; exact hru)))
  case refine_12 => exact hk (Opnd.class_of_isVec hf.b (hpass.ruB (by rw [hf.ru, field_getLsbD (by omega)]; exact hru)))
  case refine_13 => exact hk (Opnd.class_of_isVec hf.c (hpass.ruC (by rw [hf.ru, field_getLsbD (by omega)]; exact hru)))

end Sys2Proof

section
open Sys2Proof Sys2Proof.Machine

namespace Sys2Proof.Machine

/-! ## A store whose lines part its addresses' lines (03 R64, R65) -/

/-- A region entry of 4 KiB whose page begins in the middle of a line. -/
def skewEntry : TlbEnt :=
  { vf := 0, va := 0, size := 12, gpa := 0x10000, spa := 0x10020, r := true, w := true, x := true, u := true, elide := false }

/-- ST of one byte from v8 to the address in v8 and v9. -/
def skewFields : Fields :=
  { guard := 15, gneg := false, sf := false, ru := 0, t := false, s := false, dst := .absent, a := .vec 8, b := .vec 8, c := .absent,
    mod := 0, imm := 0 }

/-- Lanes 0, 1 and 2 of a wave, with the addresses 64, 0 and 32 in v8 and v9, issue a word on a core that holds the entry. -/
def skewState : State :=
  let s := (placeWord State.reset 0).modWave 0 0 (fun v => { v with regs := v.regs.writes [⟨.v 8 0, 64⟩, ⟨.v 8 1, 0⟩, ⟨.v 8 2, 32⟩] })
  { ((s.modGroup 0 0 0 (fun g => { g with mask := 7 })).modCore 0 (fun k => { k with tlb := [skewEntry] })).modCluster 0 (fun k =>
      { k with tlb2 := [skewEntry] }) with cur := some { core := 0, quarter := 0, port := 0 } }

theorem skewState_issues : (skewState.issue?).isSome = true := by decide +kernel

/-- The group that issues there. -/
def skewCtx : Ctx := (skewState.issue?).get skewState_issues

/-- The address of a lane. -/
def skewVa (l : Nat) : W64 := skewCtx.rd64 skewFields skewFields.a l + skewFields.imm.signExtend 64

theorem skewState_st_issues : Issues 0xA1 skewFields skewState skewCtx :=
  ⟨(Option.some_get _).symm, by decide +kernel, by decide +kernel, by decide +kernel, by decide +kernel⟩

theorem skewCtx_acting : skewCtx.acting skewFields = [0, 1, 2] := by decide +kernel

theorem skewState_reaches {l : Nat} (hl : l ∈ [0, 1, 2]) :
    Reaches skewState skewCtx (accSize 0xA1 skewFields) (accW skewCtx.g.level) (skewVa l) skewEntry := by
  have h : ∀ l, l ∈ [0, 1, 2] → canonical (skewVa l) = true ∧ (skewVa l).toNat % accSize 0xA1 skewFields = 0 ∧
      (inWindow (skewVa l) = false ∧ inHeap (skewVa l) = false) ∧
      translate skewState (some skewCtx.core) (.fn skewCtx.wv.vf (skewCtx.wv.row skewCtx.g.level)) skewCtx.wv.vf (skewVa l).toNat
        (accW skewCtx.g.level) false = (skewState, .ok skewEntry) ∧
      targetOf skewCtx.wv.vf skewCtx.g.level (skewEntry.apply (skewVa l).toNat) ≠ .none := by decide +kernel
  obtain ⟨h1, h2, h3, h4, h5⟩ := h l hl
  exact ⟨h1, h2, h3, h4, rfl, h5⟩

theorem skewState_straight : Straight skewState skewCtx (accSize 0xA1 skewFields) (accW skewCtx.g.level) skewEntry 0
    (skewCtx.acting skewFields) skewVa := by
  rw [skewCtx_acting]
  exact ⟨by simp, by decide +kernel, by decide +kernel, fun l hl => skewState_reaches hl, by decide +kernel⟩

/-- The lanes of lane 0's line are 0 and 2. -/
theorem skewState_storeLines : storeLines skewCtx skewEntry (skewCtx.acting skewFields) skewVa = [[0, 2], [1]] := by
  decide +kernel

/-- The lanes of the entries in the write queue of core 0 after the word. -/
def skewQueued : List (List Nat) :=
  match execSt skewFields skewState with
  | .next t => (t.core 0).wq.map (fun q => q.lanes.map Prod.fst)
  | _ => []

/-- Lane 2 waits for lane 1, whose address lies in its line of addresses, so that lane 1's entry is the first. -/
theorem skewQueued_eq : skewQueued = [[1], [0, 2]] := by decide +kernel

theorem exec_st_eq (f : Fields) (s : State) : exec (.st f) s = execSt f s := by rfl

/-- No list of entries, one per line in the order of the lines' first lanes, is what the word puts into the queue. -/
theorem not_storesShared_st : ¬ StoresShared 0xA1 .st (fun f x l => x.rd64 f f.a l + f.imm.signExtend 64)
    (fun f x l => dataOf x f f.b (accSize 0xA1 f) l) := by
  intro h
  obtain ⟨t, y, qs, hexec, -, -, -, -, hcore, hlen, hline, -⟩ :=
    h skewFields skewState skewCtx skewEntry 0 skewState_st_issues skewState_straight
  change _ = (storeLines skewCtx skewEntry (skewCtx.acting skewFields) skewVa).length at hlen
  rw [skewState_storeLines] at hlen
  obtain ⟨q, r, rfl⟩ := List.length_eq_two.mp hlen
  have hlanes : q.lanes = [0, 2].map _ :=
    (hline 0 [0, 2] q (congrArg (·[0]?) skewState_storeLines) rfl).lanes
  have hwq : (t.core 0).wq = [q, r] := congrArg Core.wq hcore
  have hqueued := skewQueued_eq
  rw [exec_st_eq] at hexec
  simp [skewQueued, hexec, hwq, hlanes] at hqueued

/-- Refutes O23: nothing asks that the region entry's page begin at a line, as that of an entry from a walk does (16 R357). Where it
begins in the middle of one, lanes 0 and 2 share a line of memory, and lanes 1 and 2 a line of addresses; lane 2 then waits for
lane 1, and the entry of lanes 0 and 2 is not the first. -/
theorem not_sharedStoresEnterWriteQueue : ¬ Obligations.SharedStoresEnterWriteQueue :=
  fun h => not_storesShared_st h.1

end Sys2Proof.Machine
end

section
open Sys2Proof Sys2Proof.Machine

namespace Sys2Proof.Machine

-- The theorems are elaborated one after another: side by side they need more memory than the check gives.
set_option Elab.async false

variable {s t : State}

/-! ## HBM4's bytes stay in canonical form

The memory changes in these ways only: bytes are put at an address (`memPuts`, `memPutsBut`), a range of cells is filtered away, the
reset state replaces it, or it is handed on. Each operation `f` of the model has one lemma `memInv_f`, in the order of the model's
files: from a state in that form it makes a state in that form, because it leaves the memory alone (then the hypothesis proves it by
unfolding) or calls operations with such a lemma on every branch. `memInv_exec` collects the words and the events, `memInv_nextMove`
the moves of a run. -/

/-! ### Writing and dropping bytes -/

theorem wf_memPut {m : List Host.Cell} {a : Nat} {b : Byte} (h : Memory.wf m = true) : Memory.wf (memPut m a b) = true :=
  Tab.wf_put _ _ _ _ h

theorem wf_memPuts {bs : List Byte} {m : List Host.Cell} {a : Nat} (h : Memory.wf m = true) :
    Memory.wf (memPuts m a bs) = true := by
  induction bs generalizing m a with
  | nil => exact h
  | cons b r ih => exact ih (wf_memPut h)

theorem wf_memPutsBut {hs : List Nat} {bs : List Byte} {m : List Host.Cell} {a i : Nat} (h : Memory.wf m = true) :
    Memory.wf (memPutsBut hs m a i bs) = true := by
  induction bs generalizing m a i with
  | nil => exact h
  | cons b r ih =>
    refine ih ?_
    split
    · exact h
    · exact wf_memPut h

theorem wf_filter {m : List Host.Cell} (p : Host.Cell → Bool) (h : Memory.wf m = true) : Memory.wf (m.filter p) = true :=
  Tab.wf_filter _ _ _ h

/-! ### Repeated operations -/

theorem memInv_foldl {α : Type} {f : State → α → State} {l : List α} (h : MemInv s)
    (hf : ∀ s a, MemInv s → MemInv (f s a)) : MemInv (l.foldl f s) := by
  induction l generalizing s with
  | nil => exact h
  | cons a r ih => exact ih (hf s a h)

theorem memInv_foldl_fst {α β : Type} {f : State × β → α → State × β} {l : List α} {x : State × β} (h : MemInv x.1)
    (hf : ∀ x a, MemInv x.1 → MemInv (f x a).1) : MemInv (l.foldl f x).1 := by
  induction l generalizing x with
  | nil => exact h
  | cons a r ih => exact ih (hf x a h)

theorem memInv_of_fst_eq {β : Type} {x : State × β} {b : β} (h : MemInv x.1) (e : x = (t, b)) : MemInv t := by
  subst e
  exact h

theorem memInv_ite {p : Prop} [Decidable p] (hs : MemInv s) (ht : MemInv t) : MemInv (if p then s else t) := by
  split
  · exact hs
  · exact ht

theorem memInv_reset : MemInv State.reset := rfl


/-! ### Access -/

theorem State.memInv_setCore {c : Nat} {k : Core} (h : MemInv s) : MemInv (s.setCore c k) := h

theorem State.memInv_modCore {c : Nat} {g : Core → Core} (h : MemInv s) : MemInv (s.modCore c g) := h

theorem State.memInv_modSlot {c w : Nat} {g : Slot → Slot} (h : MemInv s) : MemInv (s.modSlot c w g) := h

theorem State.memInv_modWave {c w : Nat} {g : Wave → Wave} (h : MemInv s) : MemInv (s.modWave c w g) := h

theorem State.memInv_modLane {c w l : Nat} {g : Lane → Lane} (h : MemInv s) : MemInv (s.modLane c w l g) := h

theorem State.memInv_modQuarter {c q : Nat} {g : Quarter → Quarter} (h : MemInv s) : MemInv (s.modQuarter c q g) := h

theorem State.memInv_modRun {c q : Nat} {g : Run → Run} (h : MemInv s) : MemInv (s.modRun c q g) := h

theorem State.memInv_modGroup {c q p : Nat} {g : Group → Group} (h : MemInv s) : MemInv (s.modGroup c q p g) := h

theorem State.memInv_modGang {c i : Nat} {g : Gang → Gang} (h : MemInv s) : MemInv (s.modGang c i g) := h

theorem State.memInv_modCluster {n : Nat} {g : Cluster → Cluster} (h : MemInv s) : MemInv (s.modCluster n g) := h

theorem State.memInv_modFunc {f : Nat} {g : Func → Func} (h : MemInv s) : MemInv (s.modFunc f g) := h

theorem State.memInv_modQueue {q : Nat} {g : Queue → Queue} (h : MemInv s) : MemInv (s.modQueue q g) := h

theorem State.memInv_modCard {q : Nat} {n : W32} {g : Card → Card} (h : MemInv s) : MemInv (s.modCard q n g) := h

theorem State.memInv_modSlice {n : Nat} {g : Slice → Slice} (h : MemInv s) : MemInv (s.modSlice n g) := h

theorem State.memInv_modErr {f : Nat} {g : ErrCnt → ErrCnt} (h : MemInv s) : MemInv (s.modErr f g) := h

/-! ### Ops -/

theorem memInv_dropPending {x : Ctx} {es : List RegElem} (h : MemInv s) : MemInv (dropPending s x es) := h

theorem memInv_writeFile {x : Ctx} {ws : List RegWrite} (h : MemInv s) : MemInv (writeFile x ws s) := by
  grind [writeFile, memInv_dropPending, State.memInv_modGroup, State.memInv_modWave]

theorem memInv_writeNow {x : Ctx} {f : Fields} {ws : List RegWrite} (h : MemInv s) : MemInv (writeNow x f ws s) := by
  unfold writeNow
  split
  · exact State.memInv_modGroup h
  · exact memInv_writeFile h

theorem memInv_writeEnd {x : Ctx} {f : Fields} {ws : List RegWrite} (h : MemInv s) : MemInv (writeEnd x f ws s) := by
  grind [writeEnd, memInv_dropPending, State.memInv_modGroup, State.memInv_modWave]

theorem memInv_writePromise {x : Ctx} {ws : List RegWrite} (h : MemInv s) : MemInv (writePromise x ws s) := h

theorem memInv_addOp {x : Ctx} {o : Op} (h : MemInv s) : MemInv (addOp x o s) := h

theorem memInv_writeLate {x : Ctx} {op : Nat} {f : Fields} {ws : List RegWrite} {e' : Exc} (h : MemInv s) :
    MemInv (writeLate x op f ws e' s) := h

theorem memInv_orExc {x : Ctx} {e' : Exc} (h : MemInv s) : MemInv (orExc x e' s) := h

theorem State.memInv_send {m : OutMsg} (h : MemInv s) : MemInv (s.send m) := h

theorem memInv_msixEvent {f v : Nat} (h : MemInv s) : MemInv (msixEvent s f v) := by
  grind [msixEvent, State.memInv_modFunc, State.memInv_send]

theorem memInv_homeTouch {line : Nat} (h : MemInv s) : MemInv (homeTouch s line) := by
  unfold homeTouch
  split <;> exact h

theorem memInv_homeTouches {a n : Nat} (h : MemInv s) : MemInv (homeTouches s a n) := by
  unfold homeTouches
  split <;> exact h

theorem memInv_selfWrite {w : Writer} {a : Nat} {bytes : List Byte} (h : MemInv s) : MemInv (selfWrite s w a bytes) :=
  wf_memPuts h

theorem memInv_sieveCount {i : Nat} (h : MemInv s) : MemInv (sieveCount s i) := h

theorem memInv_elog {code f src core : Nat} {addr aux : W64} (h : MemInv s) : MemInv (elog s code f src core addr aux) := by
  grind [elog, memInv_sieveCount, memInv_msixEvent, memInv_selfWrite, MemInv]

theorem memInv_takeTrap {c w l : Nat} {u : Trap} (h : MemInv s) : MemInv (takeTrap s c w l u) := by
  grind [takeTrap, State.memInv_modLane, memInv_elog]

theorem memInv_holdCause {c w l : Nat} {k : Cause} (h : MemInv s) : MemInv (holdCause s c w l k) := by
  grind [holdCause, State.memInv_modLane, State.memInv_modCore]

theorem memInv_completionCause {c w l : Nat} {k : Cause} (h : MemInv s) : MemInv (completionCause s c w l k) := by
  grind [completionCause, memInv_holdCause, State.memInv_modLane, memInv_takeTrap]

theorem memInv_issueTraps {x : Ctx} {ls : List Nat} {cause sub : Nat} {aux : Nat → W64} {aux2 : W32} (h : MemInv s) :
    MemInv (issueTraps s x ls cause sub aux aux2) := by
  grind [issueTraps, State.memInv_modGroup, memInv_takeTrap, memInv_foldl]

theorem memInv_notePoison {c w l : Nat} {k : Cause} (h : MemInv s) : MemInv (notePoison s c w l k) := by
  grind [notePoison, State.memInv_modCore, State.memInv_modWave, memInv_completionCause]

theorem memInv_noteRegPoison {x : Ctx} {op : Nat} {f : Fields} (h : MemInv s) : MemInv (noteRegPoison s x op f) := by
  unfold noteRegPoison
  split
  · exact h
  · exact memInv_foldl h fun _ _ h => memInv_notePoison h

theorem memInv_illegalTrap {x : Ctx} (h : MemInv s) : MemInv (illegalTrap s x) := memInv_issueTraps h

theorem memInv_privTrap {x : Ctx} {op : Nat} (h : MemInv s) : MemInv (privTrap s x op) := memInv_issueTraps h

theorem memInv_issueWord {op : Nat} {f : Fields} {body : Ctx → State → State} (h : MemInv s)
    (hb : ∀ x s, MemInv s → MemInv (body x s)) (e : issueWord op f s body = .next t) : MemInv t := by
  grind [issueWord, memInv_illegalTrap, memInv_noteRegPoison, memInv_privTrap]

theorem memInv_alu32 {op : Nat} {f : Fields} {v : Ctx → Nat → W32} (h : MemInv s) (e : alu32 op f s v = .next t) : MemInv t :=
  memInv_issueWord h (fun _ _ h => memInv_writeNow h) e

theorem memInv_alu64 {op : Nat} {f : Fields} {v : Ctx → Nat → W64} (h : MemInv s) (e : alu64 op f s v = .next t) : MemInv t :=
  memInv_issueWord h (fun _ _ h => memInv_writeNow h) e

theorem memInv_aluB {op : Nat} {f : Fields} {v : Ctx → Nat → Bool} (h : MemInv s) (e : aluB op f s v = .next t) : MemInv t :=
  memInv_issueWord h (fun _ _ h => memInv_writeNow h) e

/-! ### Fp -/

theorem memInv_fpWord {op : Nat} {f : Fields} {late : Bool} {v : Ctx → Nat → List RegWrite × Exc} (h : MemInv s)
    (e : fpWord op f s late v = .next t) : MemInv t := by
  refine memInv_issueWord h (fun x s h => ?_) e
  split
  · exact memInv_orExc (memInv_writeEnd h)
  · exact memInv_writeNow h

theorem memInv_fp32 {op : Nat} {f : Fields} {g : Nat → Nat → Nat → Nat × Exc} (h : MemInv s) (e : fp32 op f s g = .next t) :
    MemInv t := memInv_fpWord h e

theorem memInv_fpRaw {op : Nat} {f : Fields} {g : Ctx → Nat → W32} (h : MemInv s) (e : fpRaw op f s g = .next t) : MemInv t :=
  memInv_fpWord h e

theorem memInv_fpBool {op : Nat} {f : Fields} {g : Ctx → Nat → Bool × Exc} (h : MemInv s) (e : fpBool op f s g = .next t) :
    MemInv t := memInv_fpWord h e

theorem memInv_packed {op : Nat} {f : Fields} {g : Nat → Nat → Nat → Nat × Exc} (h : MemInv s) (e : packed op f s g = .next t) :
    MemInv t := memInv_fpWord h e

theorem memInv_packedCmp {op : Nat} {u : Fmt} {f : Fields} (h : MemInv s) (e : packedCmp op u f s = .next t) : MemInv t :=
  memInv_fpWord h e

theorem memInv_fp64 {op : Nat} {f : Fields} {g : Nat → Nat → Nat → Nat × Exc} (h : MemInv s) (e : fp64 op f s g = .next t) :
    MemInv t := memInv_fpWord h e

theorem memInv_fp64Raw {op : Nat} {f : Fields} {g : W64 → W64 → W64} (h : MemInv s) (e : fp64Raw op f s g = .next t) : MemInv t :=
  memInv_fpWord h e

/-! ### Convert -/

theorem memInv_convWord {op : Nat} {f : Fields} {v : Ctx → Nat → W32 → List RegWrite × Exc × W32} (h : MemInv s)
    (e : convWord op f s v = .next t) : MemInv t := by
  refine memInv_issueWord h (fun x s h => ?_) e
  grind [State.memInv_modLane, memInv_writeLate, memInv_foldl]

theorem memInv_convert {op : Nat} {f : Fields} (h : MemInv s) (e : convert op f s = .next t) : MemInv t := memInv_convWord h e

theorem memInv_convPack {op : Nat} {f : Fields} (h : MemInv s) (e : convPack op f s = .next t) : MemInv t := memInv_convWord h e

theorem memInv_convExtract {op : Nat} {f : Fields} (h : MemInv s) (e : convExtract op f s = .next t) : MemInv t :=
  memInv_convWord h e

theorem memInv_execConversionComplete {core wave op : Nat} (h : MemInv s) (e : execConversionComplete core wave op s = .next t) :
    MemInv t := by
  unfold execConversionComplete at e
  split at e
  · cases e
  split at e
  · cases e
  · cases e
    exact State.memInv_modWave h

/-! ### Links -/

theorem memInv_sendFlit {link : Nat} {f : Flit} (h : MemInv s) : MemInv (sendFlit s link f) := h

theorem memInv_sendReq {q : PeerReq} {f : Flit} (h : MemInv s) : MemInv (sendReq s q f) := by
  unfold sendReq
  split
  · exact h
  · exact memInv_sendFlit h

/-! ### Translate -/

theorem memInv_refuseOwner {f core a : Nat} (h : MemInv s) : MemInv (refuseOwner s f core a) := memInv_elog (State.memInv_modErr h)

theorem memInv_countEvent {cl f code n : Nat} (h : MemInv s) : MemInv (countEvent s cl f code n) := by
  unfold countEvent
  split
  · exact h
  · exact State.memInv_modCluster h

theorem memInv_tlbKeep {c : Asker} {e' : TlbEnt} (h : MemInv s) : MemInv (tlbKeep s c e') := by
  unfold tlbKeep
  split
  · exact h
  split
  · exact State.memInv_modCluster (State.memInv_modCore h)
  · exact h

theorem memInv_walkKeep {c : Asker} {w : Walker} {va : Nat} (h : MemInv s) : MemInv (walkKeep s c w va) := by
  unfold walkKeep
  split
  · exact h
  · exact State.memInv_modCluster h

theorem memInv_l1Missed {c : Asker} {f : Nat} (h : MemInv s) : MemInv (l1Missed s c f) := by
  unfold l1Missed
  split
  · exact memInv_countEvent h
  · exact h

theorem memInv_translate {c : Asker} {p : Party} {f va : Nat} {a : Acc} {fresh : Bool} (h : MemInv s) :
    MemInv (translate s c p f va a fresh).1 := by
  grind [translate, memInv_tlbKeep, memInv_l1Missed, memInv_countEvent, memInv_walkKeep, MemInv]

theorem memInv_translateGpa {f gpa : Nat} {a : Acc} (h : MemInv s) : MemInv (translateGpa s f gpa a).1 := h

theorem memInv_partWrite {p : Party} {f a : Nat} {b : List Byte} (h : MemInv s) (e : partWrite s p f a b = some t) : MemInv t := by
  grind [partWrite, memInv_selfWrite, State.memInv_send, memInv_sendReq]

theorem memInv_writeRecord {r : PageReq} (h : MemInv s) : MemInv (writeRecord s r) := by
  unfold writeRecord
  dsimp only
  split
  · next u hu =>
    obtain ⟨a, -, ha⟩ := Option.bind_eq_some_iff.mp hu
    have := memInv_partWrite h ha
    split <;> exact memInv_msixEvent (memInv_countEvent this)
  · exact memInv_elog (State.memInv_modFunc h)

theorem memInv_request {c : Asker} {f stage cause : Nat} {table meta_ : Bool} {a : Acc} {va gpa : Nat} (h : MemInv s) :
    MemInv (request s c f stage cause table meta_ a va gpa).1 := by
  grind [request, memInv_writeRecord, MemInv]

theorem memInv_requestOf {c : Asker} {f va : Nat} {a : Acc} {stage cause : Nat} {table : Bool} {gpa : Nat} (h : MemInv s) :
    MemInv (requestOf s c f va a stage cause table gpa).1 := memInv_request h

theorem memInv_flushRequests {f stage : Nat} (h : MemInv s) : MemInv (flushRequests s f stage) := by
  refine memInv_foldl h fun _ _ h => ?_
  split
  · exact memInv_writeRecord h
  · exact h

/-! ### Memory -/

theorem memInv_dbgLost {f : Nat} (h : MemInv s) : MemInv (dbgLost s f) := h

theorem memInv_dbgPlace {f : Nat} {r : DbgRec} (h : MemInv s) : MemInv (dbgPlace s f r) := by
  grind [dbgPlace, memInv_dbgLost, memInv_partWrite, memInv_msixEvent, State.memInv_modFunc]

theorem memInv_debugRecord {f : Nat} {r : DbgRec} (h : MemInv s) : MemInv (debugRecord s f r) := by
  grind [debugRecord, memInv_dbgLost, memInv_dbgPlace]

theorem State.memInv_modVtr {f r : Nat} {g : Vtr → Vtr} (h : MemInv s) : MemInv (s.modVtr f r g) := h

theorem memInv_valueRegion {old new : List Host.Cell} {w : Nat → Nat → Writer} {spa n : Nat} {hs : List Nat} {f r : Nat} {v : Vtr}
    (h : MemInv s) : MemInv (valueRegion s old new w spa n hs f r v) := by
  unfold valueRegion
  split
  · exact h
  · refine memInv_foldl h fun s a h => ?_
    dsimp only
    split
    · exact h
    · exact memInv_debugRecord (State.memInv_modVtr h)

theorem memInv_valueTrace {old new : List Host.Cell} {w : Nat → Nat → Writer} {spa n : Nat} {hs : List Nat}
    (h : MemInv s) : MemInv (valueTrace s old new w spa n hs) := by
  refine memInv_foldl h fun s p h => memInv_foldl h fun s q h => ?_
  split
  · exact h
  · exact memInv_valueRegion h

theorem memInv_flushSelf {n : Nat} (h : MemInv s) : MemInv (flushSelf n s) := by
  induction n generalizing s with
  | zero => exact h
  | succ n ih =>
    unfold flushSelf
    split
    · exact h
    · exact ih (memInv_valueTrace h)

theorem memInv_homeWriteBy {w : Nat → Nat → Writer} {spa : Nat} {bytes : List Byte} {hs : List Nat} (h : MemInv s) :
    MemInv (homeWriteBy s w spa bytes hs) := by
  refine memInv_valueTrace ?_
  change Memory.wf (if hs.isEmpty then _ else _) = true
  rw [homeTouch_mem]
  split
  · exact wf_memPuts h
  · exact wf_memPutsBut h

theorem memInv_homeWrite {w : Writer} {spa : Nat} {bytes : List Byte} (h : MemInv s) : MemInv (homeWrite s w spa bytes) :=
  memInv_homeWriteBy h

theorem memInv_dropL1 {c line : Nat} (h : MemInv s) : MemInv (dropL1 s c line) := h

theorem memInv_coreLine {c vf line : Nat} (h : MemInv s) : MemInv (coreLine s c vf line).1 := by
  grind [coreLine, memInv_countEvent, State.memInv_modCore, memInv_homeTouch]

theorem memInv_coreBytes {c vf a n : Nat} (h : MemInv s) : MemInv (coreBytes s c vf a n).1 := memInv_coreLine h

theorem memInv_coreRead {c vf a n : Nat} (h : MemInv s) : MemInv (coreRead s c vf a n).1 := by
  grind [coreRead, memInv_coreBytes]

theorem memInv_enqueue {c : Nat} {e' : WqEntry} (h : MemInv s) : MemInv (enqueue s c e').1 := h

theorem memInv_invalidateL1 {c : Nat} (h : MemInv s) : MemInv (invalidateL1 s c) := h

theorem memInv_acquireAt {c scope : Nat} (h : MemInv s) : MemInv (acquireAt s c scope) := by
  unfold acquireAt
  split
  · exact memInv_invalidateL1 h
  · exact h

theorem memInv_portWrite {c port a f : Nat} {b : List Byte} (h : MemInv s) : MemInv (portWrite s c port a f b) := h

theorem memInv_flushPort {c port : Nat} (h : MemInv s) (e : flushPort s c port = some t) : MemInv t := by
  grind [flushPort, State.memInv_send, State.memInv_modCore]

theorem memInv_locWrite {c gang : Nat} {b : Buf} {o : Nat} {bytes : List Byte} (h : MemInv s) :
    MemInv (locWrite s c gang b o bytes) := by
  unfold locWrite
  split <;> grind [State.memInv_modGang, State.memInv_modCore]

theorem memInv_locPoison {c gang : Nat} {b : Buf} {o : Nat} {ps : List Nat} (h : MemInv s) :
    MemInv (locPoison s c gang b o ps) := by
  unfold locPoison
  split <;> grind [State.memInv_modGang, State.memInv_modCore]

theorem memInv_zWrite {c i : Nat} {v : W32} (h : MemInv s) : MemInv (zWrite s c i v) := h

theorem memInv_poisonSeen {c w l : Nat} {level : Level} {spo : W32} {off : Nat} {addr : W64} {vf : Nat} (h : MemInv s) :
    MemInv (poisonSeen s c w l level spo off addr vf) := memInv_countEvent (memInv_notePoison h)

/-! ### Barrel -/

theorem memInv_chkPoison {c w : Nat} {v : Wave} {l : Nat} {k : Hold} (h : MemInv s) : MemInv (chkPoison s c w v l k) := by
  unfold chkPoison
  split <;> grind [State.memInv_modWave, memInv_notePoison]

theorem memInv_chkPoisons {c w : Nat} (h : MemInv s) : MemInv (chkPoisons s c w) := by
  grind [chkPoisons, memInv_chkPoison, memInv_foldl]

theorem memInv_testHolds {c w : Nat} (h : MemInv s) : MemInv (testHolds s c w) := by
  grind [testHolds, memInv_chkPoisons, State.memInv_modWave]

theorem memInv_spillWrite {c w d : Nat} {e' : RsEntry} (h : MemInv s) : MemInv (spillWrite s c w d e') := by
  grind [spillWrite, memInv_translate, memInv_enqueue, memInv_requestOf, State.memInv_modWave, memInv_refuseOwner]

theorem memInv_pushEntry {c w : Nat} {e' : RsEntry} (h : MemInv s) : MemInv (pushEntry s c w e') := by
  grind [pushEntry, State.memInv_modWave, memInv_spillWrite]

theorem memInv_takeLowest {c w l : Nat} {level : Level} {ts : List Trap} (h : MemInv s) : MemInv (takeLowest s c w l level ts) := by
  grind [takeLowest, memInv_holdCause, memInv_takeTrap, memInv_foldl]

theorem memInv_takeDue {c w l : Nat} {own : List Trap} {due : List Cause} (h : MemInv s) : MemInv (takeDue s c w l own due) := by
  grind [takeDue, memInv_holdCause, memInv_takeLowest, memInv_foldl]

theorem memInv_endLane {c w : Nat} {g : Group} {l : Nat} (h : MemInv s) : MemInv (endLane s c w g l) := by
  unfold endLane
  split <;> grind [memInv_takeDue, State.memInv_modLane, State.memInv_modWave]

theorem memInv_groupPush {c w : Nat} {g : Group} {m : Mask} (h : MemInv s) : MemInv (groupPush s c w g m) := by
  grind [groupPush, memInv_takeTrap, memInv_pushEntry, memInv_foldl]

theorem memInv_dueStop {c w l : Nat} {b : BitVec 5} (h : MemInv s) : MemInv (dueStop s c w l b) := by
  unfold dueStop
  split
  · exact h
  · exact State.memInv_modSlot h

theorem memInv_dueStopAll {c w : Nat} {b : BitVec 5} (h : MemInv s) : MemInv (dueStopAll s c w b) := by
  grind [dueStopAll, memInv_dueStop, memInv_foldl]

theorem memInv_groupStops {c w : Nat} {g : Group} (h : MemInv s) : MemInv (groupStops s c w g) := by
  grind [groupStops, memInv_dueStop, State.memInv_modLane, memInv_foldl]

theorem memInv_endGroup {c w : Nat} {g : Group} (h : MemInv s) : MemInv (endGroup s c w g) := by
  grind [endGroup, State.memInv_modWave, memInv_endLane, memInv_groupPush, memInv_groupStops, memInv_foldl]

theorem memInv_endRun {c q : Nat} (h : MemInv s) : MemInv (endRun s c q) := by
  grind [endRun, memInv_endGroup, State.memInv_modQuarter, memInv_foldl]

theorem memInv_beginIssue {c q : Nat} {r : Run} (h : MemInv s) : MemInv (beginIssue s c q r) := by
  grind [beginIssue, State.memInv_modRun, MemInv]

theorem memInv_endIssue {c q : Nat} (h : MemInv s) : MemInv (endIssue s c q) := by
  grind [endIssue, State.memInv_modGroup, State.memInv_modSlot, memInv_countEvent, State.memInv_modRun, memInv_endRun, MemInv]

theorem memInv_admitLane {c w l : Nat} {x : Found} (h : MemInv s) : MemInv (admitLane s c w l x).1 := by
  unfold admitLane
  split <;> grind [State.memInv_modLane, memInv_takeLowest, memInv_takeTrap, memInv_dueStop]

theorem memInv_admitSet {c w : Nat} {m : Mask} {x : Found} (h : MemInv s) : MemInv (admitSet s c w m x).1 :=
  memInv_foldl_fst h fun _ _ h => memInv_admitLane h

theorem memInv_joinRun {c w : Nat} {ms : List (Mask × Found)} {p : Nat} {gs : List Group} (h : MemInv s) :
    MemInv (joinRun s c w p ms gs).1 := by
  induction ms generalizing s p gs with
  | nil => exact h
  | cons a r ih => grind [joinRun, memInv_admitSet]

theorem memInv_startRun {c w : Nat} {gs : List Group} (h : MemInv s) : MemInv (startRun s c w gs) := h

theorem memInv_stopIdle {c w : Nat} {no : List Mask} (h : MemInv s) : MemInv (stopIdle s c w no) := by
  unfold stopIdle
  split
  · exact h
  split
  · exact h
  · exact State.memInv_modWave h

theorem memInv_endYield {c w : Nat} {who : List Nat} (h : MemInv s) : MemInv (endYield s c w who) :=
  memInv_foldl h fun _ _ h => State.memInv_modLane h

theorem memInv_visitWave {c w : Nat} (h : MemInv s) : MemInv (visitWave s c w) := by
  grind [visitWave, memInv_testHolds, State.memInv_modWave, memInv_stopIdle, memInv_joinRun, memInv_endYield, memInv_countEvent,
    memInv_startRun]

theorem memInv_visit {c q : Nat} (h : MemInv s) : MemInv (visit s c q) := by
  grind [visit, State.memInv_modQuarter, memInv_countEvent, memInv_visitWave]

theorem memInv_l0Put {c : Nat} {e' : L0Line} (h : MemInv s) : MemInv (l0Put s c e') := h

theorem memInv_fetchLine {c : Nat} {v : Wave} {l : Level} {va : W64} {fresh : Bool} (h : MemInv s) :
    MemInv (fetchLine s c v l va fresh).1 := by
  grind [fetchLine, memInv_translate, memInv_refuseOwner, memInv_requestOf, memInv_l0Put, memInv_homeTouch]

theorem memInv_fetchLines {c : Nat} {v : Wave} {l : Level} {fresh : Bool} {as : List W64} {ts : List Nat} (h : MemInv s) :
    MemInv (fetchLines s c v l fresh as ts).1 := by
  induction as generalizing s ts with
  | nil => exact h
  | cons a r ih => grind [fetchLines, memInv_fetchLine]

theorem memInv_fetchBlock {c : Nat} {v : Wave} {l : Level} {pc : W64} {fresh : Bool} (h : MemInv s) :
    MemInv (fetchBlock s c v l pc fresh).1 := by
  grind [fetchBlock, memInv_fetchLines]

/-! ### Lsu -/

theorem memInv_openGates {c w : Nat} (h : MemInv s) : MemInv (openGates s c w) := by
  grind [openGates, memInv_acquireAt, State.memInv_modWave, memInv_foldl]

theorem memInv_takeLog {c w id : Nat} (h : MemInv s) : MemInv (takeLog s c w id) := by
  unfold takeLog
  split
  · exact h
  split
  · exact h
  · exact State.memInv_modWave h

theorem memInv_giveFreed {c q : Nat} (h : MemInv s) : MemInv (giveFreed s c q) := by
  unfold giveFreed
  split
  · exact State.memInv_modWave h
  · exact h

theorem memInv_freeLog {c w id : Nat} (h : MemInv s) : MemInv (freeLog s c w id) := by
  grind [freeLog, State.memInv_modWave, memInv_giveFreed]

theorem memInv_setLane {c w id lane : Nat} {st : LaneSt} (h : MemInv s) : MemInv (setLane s c w id lane st) := h

theorem memInv_finishLane {c w id lane : Nat} {ws : List RegWrite} {e' : Exc} (h : MemInv s) :
    MemInv (finishLane s c w id lane ws e') := by
  grind [finishLane, State.memInv_modWave, memInv_freeLog, memInv_acquireAt]

theorem memInv_failLane {c w id lane code sub : Nat} {aux2 : W32} (h : MemInv s) :
    MemInv (failLane s c w id lane code sub aux2) := by
  grind [failLane, State.memInv_modWave, memInv_finishLane, memInv_completionCause]

theorem memInv_lookRegion {c f : Nat} {l : Level} {a : Acc} {va : Nat} {fresh : Bool} (h : MemInv s) :
    MemInv (lookRegion s c f l a va fresh).1 := by
  grind [lookRegion, memInv_translate, memInv_requestOf, memInv_refuseOwner]

theorem memInv_placeLane {c f : Nat} {lv : Level} {w : Want} {r : LaneX} (h : MemInv s) : MemInv (placeLane s c f lv w r).1 := by
  unfold placeLane
  split <;> grind [memInv_refuseOwner]

theorem memInv_checkWant {x : Ctx} {o n : Nat} {a : Acc} {w : Want} {seen : List (Nat × LaneX)} (h : MemInv s) :
    MemInv (checkWant s x o n a w seen).1 := by
  grind [checkWant, memInv_placeLane, memInv_lookRegion]

theorem memInv_checkWants {x : Ctx} {o n : Nat} {a : Acc} {ws : List Want} {seen : List (Nat × LaneX)} {ts : List (Nat × Nat × W64)}
    {ls : List LaneOp} (h : MemInv s) : MemInv (checkWants s x o n a ws seen ts ls).1 := by
  induction ws generalizing s seen ts ls with
  | nil => exact h
  | cons w r ih => grind [checkWants, memInv_checkWant]

theorem memInv_laneTraps {x : Ctx} {ts : List (Nat × Nat × W64)} (h : MemInv s) : MemInv (laneTraps s x ts) :=
  memInv_foldl h fun _ _ h => memInv_issueTraps h

theorem memInv_storeGo {c w id lane : Nat} (h : MemInv s) (e : storeGo s c w id lane = some t) : MemInv t := by
  unfold storeGo at e
  split at e <;> grind [memInv_enqueue, memInv_setLane, memInv_foldl]

theorem memInv_kickStore {c w id lane : Nat} (h : MemInv s) : MemInv (kickStore s c w id lane) := by
  unfold kickStore
  cases e : storeGo s c w id lane with
  | none => exact h
  | some t => exact memInv_storeGo h e

theorem memInv_watchHit {x : Ctx} {u : Nat} {ls : List LaneOp} (h : MemInv s) : MemInv (watchHit s x u ls) := by
  unfold watchHit
  split <;> grind [State.memInv_modSlot, memInv_dueStop, memInv_debugRecord, memInv_foldl]

theorem memInv_watchHits {x : Ctx} {n : Nat} {ls : List LaneOp} (h : MemInv s) : MemInv (watchHits s x n ls) :=
  memInv_foldl h fun _ _ h => memInv_watchHit h

theorem memInv_sharedWord {o : Nat} {f : Fields} {acc : Level → Acc} {known : Ctx → List (Nat × List RegWrite)}
    {wants : Ctx → List Want} (h : MemInv s) (e : sharedWord o f s acc known wants = .next t) : MemInv t := by
  refine memInv_issueWord h (fun x s h => ?_) e
  grind [memInv_checkWants, memInv_laneTraps, memInv_addOp, memInv_takeLog, memInv_watchHits, memInv_kickStore, memInv_foldl]

/-! ### Atomic -/

theorem State.memInv_useFree (h : MemInv s) : MemInv (s.useFree) := h

/-! ### Window -/

theorem memInv_winPut {c w : Nat} {e' : WinWord} {x : W32} (h : MemInv s) : MemInv (winPut s c w e' x) := by
  unfold winPut
  split <;> grind [State.memInv_modWave, memInv_zWrite]

theorem memInv_winWrite {p : WinParty} {a : Nat} {x : W32} (h : MemInv s) : MemInv (winWrite s p a x).1 := by
  grind [winWrite, memInv_winPut, memInv_finishLane, State.memInv_modWave, memInv_foldl]

theorem memInv_winStore {p : WinParty} {a n : Nat} {bs : List Byte} (h : MemInv s) : MemInv (winStore s p a n bs).1 := by
  unfold winStore
  split
  · exact h
  · exact memInv_foldl_fst h fun _ _ h => memInv_winWrite h

/-! ### Local -/

theorem memInv_locPoisonSeen {p : LocAt} {v : Wave} {lane off : Nat} (h : MemInv s) : MemInv (locPoisonSeen s p v lane off) :=
  memInv_poisonSeen h

theorem memInv_zLoads {p : LocAt} {v : Wave} {o : Nat} {f : Fields} {lane : Nat} {off : Int} (h : MemInv s) :
    MemInv (zLoads s p v o f lane off).1 := by
  grind [zLoads, memInv_locPoisonSeen]

theorem memInv_zStores {p : LocAt} {v : Wave} {o : Nat} {f : Fields} {lane : Nat} {off : Int} {b : Nat} (h : MemInv s) :
    MemInv (zStores s p v o f lane off b).1 := by
  grind [zStores, memInv_locPoisonSeen, memInv_zWrite, memInv_foldl_fst]

theorem memInv_gAtomic {p : LocAt} {v : Wave} {o : Nat} {f : Fields} {l : LaneOp} {off : Nat} (h : MemInv s) :
    MemInv (gAtomic s p v o f l off).1 := by
  grind [gAtomic, memInv_locPoisonSeen, memInv_locWrite]

theorem memInv_localDo {p : LocAt} {v : Wave} {o : Nat} {f : Fields} {b : Buf} {l : LaneOp} {off : Nat} (h : MemInv s) :
    MemInv (localDo s p v o f b l off).1 := by
  grind [localDo, memInv_gAtomic, memInv_zLoads, memInv_zStores, memInv_locWrite, memInv_locPoisonSeen]

theorem memInv_localAll {p : LocAt} {v : Wave} {o : Nat} {f : Fields} {b : Buf} {ls : List LaneOp} (h : MemInv s) :
    MemInv (localAll s p v o f b ls).1 := by
  refine memInv_foldl_fst h fun _ _ h => ?_
  split
  · exact memInv_localDo h
  · exact h

theorem memInv_zBefore {x : Ctx} {b : Buf} (h : MemInv s) : MemInv (zBefore s x b) := by
  unfold zBefore
  split
  · exact State.memInv_modCore h
  · exact h

theorem memInv_zAfter {cur : Core} {x : Ctx} {b : Buf} {is_ : List Nat} (h : MemInv s) : MemInv (zAfter cur s x b is_) := by
  unfold zAfter
  split
  · exact State.memInv_modCore h
  · exact h

theorem memInv_localWord {o : Nat} {f : Fields} {b : Buf} {known : Ctx → List (Nat × List RegWrite)} {wants : Ctx → List LocWant}
    (h : MemInv s) (e : localWord o f s b known wants = .next t) : MemInv t := by
  refine memInv_issueWord h (fun x s h => ?_) e
  grind [memInv_laneTraps, memInv_addOp, memInv_localAll, memInv_zBefore, memInv_zAfter]

theorem memInv_locAccess {o : Nat} {f : Fields} {b : Buf} {q : Bool} (h : MemInv s) (e : locAccess o f s b q = .next t) :
    MemInv t := memInv_localWord h e

theorem memInv_zAccess {o : Nat} {f : Fields} (h : MemInv s) (e : zAccess o f s = .next t) : MemInv t := memInv_localWord h e

theorem memInv_atomWord {o : Nat} {f : Fields} (h : MemInv s) (e : atomWord o f s = .next t) : MemInv t := by
  grind [atomWord, memInv_localWord, memInv_sharedWord]

/-! ### Shared -/

theorem memInv_loadWord {o : Nat} {f : Fields} {q : Bool} (h : MemInv s) (e : loadWord o f s q = .next t) : MemInv t :=
  memInv_sharedWord h e

theorem memInv_storeWord {o : Nat} {f : Fields} {q : Bool} (h : MemInv s) (e : storeWord o f s q = .next t) : MemInv t :=
  memInv_sharedWord h e

theorem memInv_winWord_ {o : Nat} {f : Fields} (h : MemInv s) (e : winWord_ o f s = .next t) : MemInv t := memInv_sharedWord h e

theorem memInv_probe {x : Ctx} {va : W64} (h : MemInv s) : MemInv (probe s x va).1 := by
  grind [probe, memInv_translate]

theorem memInv_execLdprb {f : Fields} (h : MemInv s) (e : execLdprb f s = .next t) : MemInv t := by
  refine memInv_issueWord h (fun x s h => ?_) e
  grind [memInv_probe, memInv_addOp, memInv_foldl_fst]

theorem memInv_prefetch {x : Ctx} {va : W64} (h : MemInv s) : MemInv (prefetch s x va) := by
  grind [prefetch, memInv_translate, memInv_coreLine]

theorem memInv_execPref {f : Fields} (h : MemInv s) (e : execPref f s = .next t) : MemInv t := by
  refine memInv_issueWord h (fun x s h => ?_) e
  split
  · exact h
  · exact memInv_foldl h fun _ _ h => memInv_prefetch h

theorem memInv_cacheWord {o : Nat} {f : Fields} {g : Ctx → Nat → Nat → State → State} (h : MemInv s)
    (hg : ∀ x y z s, MemInv s → MemInv (g x y z s)) (e : cacheWord o f s g = .next t) : MemInv t := by
  refine memInv_issueWord h (fun x s h => ?_) e
  grind [memInv_addOp]

theorem memInv_execCinv {f : Fields} (h : MemInv s) (e : execCinv f s = .next t) : MemInv t := by
  grind [execCinv, memInv_cacheWord, memInv_invalidateL1, State.memInv_modCore]

theorem memInv_execIinv {f : Fields} (h : MemInv s) (e : execIinv f s = .next t) : MemInv t := by
  grind [execIinv, memInv_cacheWord, State.memInv_modCore]

/-! ### Gangs -/

theorem memInv_modUid {c w uid : Nat} {g : Wave → Wave} (h : MemInv s) : MemInv (modUid s c w uid g) := by
  grind [modUid, State.memInv_modWave, MemInv]

theorem memInv_modMembers {c i : Nat} {p : Nat → Bool} {f : Wave → Wave} (h : MemInv s) : MemInv (modMembers s c i p f) := by
  unfold modMembers
  split
  · exact h
  · exact memInv_foldl h fun _ _ h => State.memInv_modWave h

theorem State.memInv_modBar {c i b : Nat} {f : Bar → Bar} (h : MemInv s) : MemInv (s.modBar c i b f) := h

theorem memInv_modWBar {c i b : Nat} {p : Nat → Bool} {f : Nat → WBar → WBar} (h : MemInv s) : MemInv (modWBar s c i b p f) :=
  memInv_modMembers h

theorem memInv_completePhases {c i b n : Nat} (h : MemInv s) : MemInv (completePhases s c i b n) := by
  induction n generalizing s with
  | zero => exact h
  | succ n ih => grind [completePhases, State.memInv_modBar, memInv_modWBar]

theorem memInv_barArrive {c i uid b : Nat} (h : MemInv s) : MemInv (barArrive s c i uid b) := by
  grind [barArrive, memInv_modWBar, State.memInv_modBar, memInv_completePhases]

theorem memInv_barDetach {c i uid b : Nat} {owed : Bool} (h : MemInv s) : MemInv (barDetach s c i uid b owed) :=
  memInv_completePhases (State.memInv_modBar h)

theorem memInv_putWave {c w : Nat} {g : Gang} {zmap : List Nat} {e' : Entry} (h : MemInv s) : MemInv (putWave s c w g zmap e') := h

theorem memInv_putWaves {c : Nat} {g : Gang} {ws zs : List Nat} {e' : Nat → Entry} (h : MemInv s) :
    MemInv (putWaves s c g ws zs e') := by
  grind [putWaves, memInv_acquireAt, memInv_putWave, memInv_foldl]

theorem State.memInv_modRing {c i r : Nat} {f : Ring → Ring} (h : MemInv s) : MemInv (s.modRing c i r f) := h

theorem memInv_execRingDepthReview {core : Nat} (h : MemInv s) (e : execRingDepthReview core s = .next t) : MemInv t := by
  unfold execRingDepthReview at e
  split at e
  · cases e
    exact State.memInv_modCore h
  · cases e

theorem memInv_stageTo {c ring : Nat} {fill : Bool} {p : Place} {v : W64} (h : MemInv s) : MemInv (stageTo s c ring fill p v) := by
  grind [stageTo, memInv_modUid, State.memInv_modCore, MemInv]

theorem memInv_execRingStageBegin {core gang ring : Nat} {fill : Bool} (h : MemInv s)
    (e : execRingStageBegin core gang ring fill s = .next t) : MemInv t := by
  grind [execRingStageBegin, State.memInv_modRing, memInv_stageTo]

/-! ### Special -/

theorem memInv_lateWord {op : Nat} {f : Fields} {v : Ctx → Nat → List RegWrite × Exc} (h : MemInv s)
    (e : lateWord op f s v = .next t) : MemInv t := memInv_issueWord h (fun _ _ h => memInv_writeLate h) e

theorem memInv_special {op : Nat} {f : Fields} {g : Nat → Nat × Exc} (h : MemInv s) (e : special op f s g = .next t) : MemInv t :=
  memInv_lateWord h e

theorem memInv_dotWord {op : Nat} {f : Fields} {n : Nat} {ta tb : Fmt} (h : MemInv s) (e : dotWord op f s n ta tb = .next t) :
    MemInv t := memInv_lateWord h e

theorem memInv_intDot {op : Nat} {f : Fields} {w : Nat} (h : MemInv s) (e : intDot op f s w = .next t) : MemInv t :=
  memInv_lateWord h e

theorem memInv_execSrseed {f : Fields} (h : MemInv s) (e : execSrseed f s = .next t) : MemInv t :=
  memInv_issueWord h (fun _ _ h => memInv_foldl h fun _ _ h => State.memInv_modLane h) e

/-! ### Waits -/

theorem memInv_holdWord {o : Nat} {f : Fields} {k : Ctx → Nat → Hold} (h : MemInv s) (e : holdWord o f s k = .next t) : MemInv t :=
  memInv_issueWord h (fun _ _ h => State.memInv_modGroup h) e

theorem memInv_execSleepExpiry {core wave lane : Nat} (h : MemInv s) (e : execSleepExpiry core wave lane s = .next t) :
    MemInv t := by
  grind [execSleepExpiry, State.memInv_modLane]

theorem memInv_chunkWord {o : Nat} {f : Fields} {g : Ctx → W32 → W32 → Option W32 → State → State} (h : MemInv s)
    (hg : ∀ x a b v s, MemInv s → MemInv (g x a b v s)) (e : chunkWord o f s g = .next t) : MemInv t := by
  refine memInv_issueWord h (fun x s h => ?_) e
  split
  · exact h
  dsimp only
  split
  · exact memInv_issueTraps h
  split
  · exact memInv_issueTraps h
  split
  · exact hg _ _ _ _ _ h
  refine hg _ _ _ _ _ ?_
  split
  · exact memInv_locPoisonSeen h
  · exact h

theorem memInv_turnBack {x : Ctx} {ls : List Nat} (h : MemInv s) : MemInv (turnBack x ls s) := h

theorem memInv_execChkprom {f : Fields} (h : MemInv s) (e : execChkprom f s = .next t) : MemInv t := by
  refine memInv_chunkWord h (fun x a b v s h => ?_) e
  split
  · exact memInv_turnBack h
  split
  · exact h
  · exact memInv_issueTraps h

theorem memInv_execWaitchk {f : Fields} (h : MemInv s) (e : execWaitchk f s = .next t) : MemInv t := by
  refine memInv_chunkWord h (fun x a b v s h => ?_) e
  split
  · exact h
  · exact State.memInv_modGroup (memInv_addOp h)

theorem memInv_arriveOp {x : Ctx} {o : Nat} {f : Fields} (h : MemInv s) : MemInv (arriveOp x o f s) := h

theorem memInv_waitOp {x : Ctx} {f : Fields} (h : MemInv s) : MemInv (waitOp x f s) := by
  grind [waitOp, memInv_acquireAt, memInv_addOp, State.memInv_modGroup]

theorem memInv_groupWord {o : Nat} {f : Fields} {g : Ctx → State → State} (h : MemInv s) (hg : ∀ x s, MemInv s → MemInv (g x s))
    (e : groupWord o f s g = .next t) : MemInv t := by
  refine memInv_issueWord h (fun x s h => ?_) e
  grind

theorem memInv_execBararv {f : Fields} (h : MemInv s) (e : execBararv f s = .next t) : MemInv t :=
  memInv_groupWord h (fun _ _ h => memInv_arriveOp h) e

theorem memInv_execBarwait {f : Fields} (h : MemInv s) (e : execBarwait f s = .next t) : MemInv t :=
  memInv_groupWord h (fun _ _ h => memInv_waitOp h) e

theorem memInv_execBarsync {f : Fields} (h : MemInv s) (e : execBarsync f s = .next t) : MemInv t :=
  memInv_groupWord h (fun _ _ h => memInv_waitOp (memInv_arriveOp h)) e

theorem memInv_gangRead {o : Nat} {f : Fields} {g : Ctx → Gang → State → W64} (h : MemInv s) (e : gangRead o f s g = .next t) :
    MemInv t := by
  refine memInv_issueWord h (fun x s h => ?_) e
  split
  · exact h
  · exact memInv_writeEnd h

theorem memInv_execBarinfo {f : Fields} (h : MemInv s) (e : execBarinfo f s = .next t) : MemInv t := memInv_gangRead h e

theorem memInv_execGinfo {f : Fields} (h : MemInv s) (e : execGinfo f s = .next t) : MemInv t := memInv_gangRead h e

theorem memInv_execBarrierArrival {core wave barrier : Nat} (h : MemInv s) (e : execBarrierArrival core wave barrier s = .next t) :
    MemInv t := by
  grind [execBarrierArrival, memInv_barArrive, State.memInv_modWave]

theorem memInv_execGattach {f : Fields} (h : MemInv s) (e : execGattach f s = .next t) : MemInv t := by
  refine memInv_issueWord h (fun x s h => ?_) e
  split
  · exact h
  · exact memInv_addOp h

theorem memInv_execGangAttach {core wave op : Nat} (h : MemInv s) (e : execGangAttach core wave op s = .next t) : MemInv t := by
  grind [execGangAttach, memInv_putWaves, State.memInv_modWave]

theorem memInv_execGdetach {f : Fields} (h : MemInv s) (e : execGdetach f s = .next t) : MemInv t :=
  memInv_groupWord h (fun _ _ h => State.memInv_modGroup h) e

theorem memInv_ringBegin {o : Nat} {f : Fields} {fill : Bool} (h : MemInv s) (e : ringBegin o f s fill = .next t) : MemInv t := by
  refine memInv_issueWord h (fun x s h => ?_) e
  split
  · exact State.memInv_modRing (memInv_addOp h)
  · exact h

theorem memInv_ringEnd {o : Nat} {f : Fields} {fill : Bool} (h : MemInv s) (e : ringEnd o f s fill = .next t) : MemInv t := by
  refine memInv_issueWord h (fun x s h => ?_) e
  grind [State.memInv_modRing, memInv_issueTraps]

theorem memInv_execPhase {f : Fields} (h : MemInv s) (e : execPhase f s = .next t) : MemInv t :=
  memInv_groupWord h (fun _ _ h => memInv_addOp h) e

theorem memInv_redWord {o : Nat} {f : Fields} {dst : Ctx → List Nat} {terms : List Nat → Nat → List Nat} (h : MemInv s)
    (e : redWord o f s dst terms = .next t) :
    MemInv t := memInv_issueWord h (fun _ _ h => State.memInv_modGroup (memInv_writeEnd h)) e

/-! ### Engine -/

theorem memInv_engPage {g : EngAt} {ps : Pages} {va : Nat} {a : Acc} (h : MemInv s) : MemInv (engPage s g ps va a).1 := by
  grind [engPage, memInv_translate, memInv_requestOf, memInv_refuseOwner]

theorem memInv_elideMeta {g : EngAt} {ps : Pages} {gpa : Nat} {a : Acc} (h : MemInv s) : MemInv (elideMeta s g ps gpa a).1 := by
  grind [elideMeta, memInv_translateGpa, memInv_refuseOwner, memInv_request]

theorem memInv_elideSettle {f spa m : Nat} (h : MemInv s) : MemInv (elideSettle s f spa m) := by
  grind [elideSettle, State.memInv_modFunc, memInv_homeTouches, memInv_selfWrite, MemInv]

theorem memInv_elideStore {w : Writer} {spa m : Nat} {puts : List ElidePut} (h : MemInv s) :
    MemInv (elideStore s w spa m puts) := by
  grind [elideStore, memInv_homeWrite, memInv_foldl]

theorem memInv_engHbm {g : EngAt} {a n : Nat} (h : MemInv s) : MemInv (engHbm s g a n).1 := by
  grind [engHbm, memInv_coreBytes, memInv_homeTouches]

theorem memInv_portRead {f port a n : Nat} (h : MemInv s) : MemInv (portRead s f port a n).1 := h

theorem memInv_engPort {g : EngAt} {port a n : Nat} (h : MemInv s) : MemInv (engPort s g port a n).1 := by
  grind [engPort, memInv_portRead]

theorem memInv_engPeer {g : EngAt} {node r n : Nat} (h : MemInv s) : MemInv (engPeer s g node r n).1 := by
  grind [engPeer, memInv_sendReq]

theorem memInv_engRead {g : EngAt} {ps : Pages} {va : W64} {n : Nat} {need : Bool} (h : MemInv s) :
    MemInv (engRead s g ps va n need).1 := by
  grind [engRead, memInv_engHbm, memInv_engPage, memInv_refuseOwner, memInv_elideMeta, memInv_elideSettle, memInv_engPort,
    memInv_engPeer]

theorem memInv_engProbe {g : EngAt} {ps : Pages} {va : W64} {n : Nat} {need : Bool} (h : MemInv s) :
    MemInv (engProbe s g ps va n need).1 := by
  grind [engProbe, memInv_engPage, memInv_refuseOwner, memInv_elideMeta, memInv_elideSettle]

theorem memInv_engPush {g : EngAt} {e' : WqEntry} (h : MemInv s) : MemInv (engPush s g e') := by
  grind [engPush, memInv_enqueue, State.memInv_send, memInv_sendReq, memInv_homeWriteBy, memInv_foldl, MemInv]

theorem memInv_engWrite {g : EngAt} {u : Target} {va : W64} {b : List Byte} {hs pois : List Nat} {chunk : Nat} (h : MemInv s) :
    MemInv (engWrite s g u va b hs pois chunk).1 := by
  unfold engWrite
  split <;> grind [memInv_winWrite, memInv_engPush]

theorem memInv_engPoison {g : EngAt} (h : MemInv s) : MemInv (engPoison s g) := by
  unfold engPoison
  split
  · exact memInv_countEvent h
  · exact h

theorem memInv_locPut {c gang buf o : Nat} {bs : List Byte} {pois : List Nat} (h : MemInv s) :
    MemInv (locPut s c gang buf o bs pois) := memInv_locPoison (memInv_locWrite h)

/-! ### Ladle -/

theorem memInv_keepSector {j : Job} {l : Loc} (h : MemInv s) : MemInv (keepSector s j l).1 := by
  grind [keepSector, memInv_engRead]

theorem memInv_keepLocal {j : Job} {buf o n : Nat} (h : MemInv s) : MemInv (keepLocal s j buf o n).1 :=
  memInv_foldl_fst h fun _ _ h => memInv_keepSector h

theorem memInv_keepIndex {j : Job} (h : MemInv s) : MemInv (keepIndex s j).1 := by
  unfold keepIndex
  split
  · exact memInv_keepLocal h
  · exact h

theorem memInv_readPiece {j : Job} {ps : Pages} {a : Piece} (h : MemInv s) : MemInv (readPiece s j ps a).1 := by
  grind [readPiece, memInv_engPeer]

theorem memInv_readPieces {j : Job} {as : List Piece} (h : MemInv s) : MemInv (readPieces s j as).1 := by
  grind [readPieces, memInv_keepSector, memInv_readPiece, memInv_foldl_fst]

theorem memInv_probePiece {j : Job} {ps : Pages} {a : Piece} {got : Got} (h : MemInv s) : MemInv (probePiece s j ps a got).1 := by
  unfold probePiece
  split <;> grind [memInv_engProbe, memInv_engRead]

theorem memInv_probePieces {j : Job} {ps : Pages} {as : List (Piece × Got)} (h : MemInv s) : MemInv (probePieces s j ps as).1 :=
  memInv_foldl_fst h fun _ _ h => memInv_probePiece h

theorem memInv_sendLast {j : Job} {flags : Nat} (h : MemInv s) : MemInv (sendLast s j flags).1 := by
  unfold sendLast
  split
  · exact h
  · exact memInv_engPush h

theorem memInv_writePiece {j : Job} {k : Nat} {x : Wrote} {w : Write} (h : MemInv s) : MemInv (writePiece s j k x w).1 := by
  unfold writePiece
  split <;> grind [memInv_engWrite, memInv_locPut]

theorem memInv_writeSectors {j : Job} {chunk : Nat} {ps : List Put} (h : MemInv s) : MemInv (writeSectors s j chunk ps).1 := by
  grind [writeSectors, memInv_sendLast, memInv_engPush, memInv_foldl_fst]

theorem memInv_writeElided {w : Writer} {es : List (Nat × Nat × ElidePut)} (h : MemInv s) : MemInv (writeElided s w es) :=
  memInv_foldl h fun _ _ h => memInv_elideStore h

theorem memInv_watchLadle {g : EngAt} {sectors : List Nat} (h : MemInv s) : MemInv (watchLadle s g sectors) := by
  grind [watchLadle, memInv_debugRecord, memInv_dueStopAll, memInv_foldl]

theorem memInv_watchSlice {own : Option Nat} {w : Writer} {spa n : Nat} (h : MemInv s) : MemInv (watchSlice s own w spa n) := by
  grind [watchSlice, memInv_debugRecord, memInv_foldl]

theorem memInv_setChunkBit {c gang bm i : Nat} {v : Bool} (h : MemInv s) : MemInv (setChunkBit s c gang bm i v) := h

theorem memInv_engRecord {g : EngAt} {ps : Pages} {va n : Nat} (h : MemInv s) : MemInv (engRecord s g ps va n).1 :=
  memInv_foldl_fst h fun _ _ h => memInv_engRead h

theorem memInv_readRecords {j : Job} {n : Nat} (h : MemInv s) : MemInv (readRecords s j n).1 := by
  induction n generalizing s j with
  | zero => exact h
  | succ n ih => grind [readRecords, memInv_engRecord, memInv_engPoison]

theorem memInv_acceptNow {j : Job} (h : MemInv s) : MemInv (acceptNow s j).1 := by
  grind [acceptNow, memInv_setChunkBit, State.memInv_modRing, memInv_foldl]

theorem memInv_acceptJob {j : Job} (h : MemInv s) : MemInv (acceptJob s j).1 := by
  grind [acceptJob, memInv_acquireAt, memInv_readRecords, memInv_acceptNow]

theorem memInv_readSource {j : Job} (h : MemInv s) : MemInv (readSource s j).1 := by
  grind [readSource, memInv_readPieces, memInv_engPoison]

theorem memInv_computeStream {j : Job} (h : MemInv s) : MemInv (computeStream s j).1 := by
  unfold computeStream
  split <;> grind [memInv_readSource, State.memInv_modErr]

theorem memInv_endChunk {j : Job} {k : Nat} {w : Wrote} (h : MemInv s) : MemInv (endChunk s j k w).1 := by
  unfold endChunk
  split <;> grind [memInv_setChunkBit]

theorem memInv_countLadle {j : Job} {n : Nat} (h : MemInv s) : MemInv (countLadle s j n) := by
  unfold countLadle
  split
  · exact memInv_countEvent h
  · exact h

theorem memInv_copyChunk {j : Job} {k : Nat} (h : MemInv s) : MemInv (copyChunk s j k).1 := by
  grind [copyChunk, memInv_keepIndex, memInv_readPieces, memInv_probePieces, memInv_writePiece, memInv_writeSectors,
    memInv_writeElided, memInv_watchLadle, memInv_countLadle, memInv_engPoison, memInv_endChunk, memInv_foldl_fst]

theorem memInv_scredAt {j : Job} {ps : Pages} {va : W64} {need : Bool} (h : MemInv s) : MemInv (scredAt s j ps va need).1 := by
  grind [scredAt, memInv_engPage, memInv_refuseOwner, memInv_elideMeta, memInv_elideSettle]

theorem memInv_scredDo {j : Job} {fmt : Nat} {st : State × Wrote} {u : WTo} {x : Nat} {xp : Bool} (h : MemInv st.1) :
    MemInv (scredDo j fmt st u x xp).1 := by
  unfold scredDo
  split
  grind [memInv_homeWrite, memInv_dropL1, memInv_watchSlice, memInv_elideStore, MemInv]

theorem memInv_scredRow {j : Job} {k : Nat} (h : MemInv s) : MemInv (scredRow s j k).1 := by
  unfold scredRow
  split
  · dsimp only
    split
    · exact memInv_endChunk (memInv_keepIndex h)
    split
    · exact memInv_foldl_fst (memInv_keepLocal (memInv_keepIndex h)) fun _ _ h => memInv_scredAt h
    · refine memInv_endChunk (memInv_countLadle (memInv_ite (memInv_engPoison ?_) ?_))
      all_goals
        refine memInv_foldl_fst ?_ fun _ _ h => memInv_scredDo h
        exact memInv_foldl_fst (memInv_keepLocal (memInv_keepIndex h)) fun _ _ h => memInv_scredAt h
  · exact h

/-! ### LadleCmd -/

theorem memInv_stampTry {c : Nat} (h : MemInv s) : MemInv (stampTry s c) := by
  grind [stampTry, memInv_engProbe, State.memInv_modCore, memInv_engWrite, memInv_modUid]

theorem memInv_retireTile {c : Nat} {q : MCmd} {tout : W64} (h : MemInv s) : MemInv (retireTile s c q tout) := by
  grind [retireTile, State.memInv_modCore, State.memInv_modGang, memInv_stampTry]

theorem memInv_retireSlots {c ord : Nat} {zs : List Nat} {tout : W64} (h : MemInv s) : MemInv (retireSlots s c ord zs tout) :=
  memInv_foldl h fun _ _ h => memInv_retireTile h

theorem memInv_putJob {c : Nat} {j : Job} (h : MemInv s) : MemInv (putJob s c j) := h

theorem memInv_tryAccept {c id : Nat} (h : MemInv s) : MemInv (tryAccept s c id) := by
  unfold tryAccept
  split
  · exact h
  split
  · exact memInv_putJob (memInv_acceptJob h)
  · exact h

theorem memInv_ladleIssue {op : Nat} {f : Fields} {u : Ctx → W256 × W256} {c : Ctx → Nat → W64} (h : MemInv s)
    (e : ladleIssue op f s u c = .next t) : MemInv t := by
  refine memInv_issueWord h (fun x s h => ?_) e
  grind [memInv_issueTraps, State.memInv_modCore, State.memInv_modRun, State.memInv_modWave, memInv_writePromise,
    State.memInv_useFree, memInv_tryAccept]

theorem memInv_execLstat {f : Fields} (h : MemInv s) (e : execLstat f s = .next t) : MemInv t := by
  refine memInv_groupWord h (fun x s h => ?_) e
  split
  · exact State.memInv_modWave (memInv_writeEnd h)
  · exact memInv_writeEnd h

theorem memInv_writeTail {j : Job} {k : Nat} (h : MemInv s) : MemInv (writeTail s j k).1 := by
  grind [writeTail, memInv_engProbe, memInv_sendLast, memInv_writeSectors, memInv_writeElided, memInv_watchLadle, memInv_countLadle,
    memInv_foldl_fst]

theorem memInv_lastStep {x : State × Job} (h : MemInv x.1) : MemInv (lastStep x).1 := by
  unfold lastStep
  split
  · exact memInv_sendLast h
  · exact h

theorem memInv_chunkStep {j : Job} {k : Nat} {x : State × Job} (h : MemInv s) (e : chunkStep s j k = some x) : MemInv x.1 := by
  unfold chunkStep at e
  split at e
  · cases e
    exact memInv_writeTail h
  split at e
  · cases e
  split at e
  · split at e
    · cases e
    · cases e
      exact memInv_lastStep (memInv_computeStream h)
  split at e
  · cases e
  · cases e
    refine memInv_lastStep ?_
    split
    · exact memInv_scredRow h
    · exact memInv_copyChunk h

theorem memInv_execLadleChunkDone {core cmd chunk : Nat} (h : MemInv s) (e : execLadleChunkDone core cmd chunk s = .next t) :
    MemInv t := by
  unfold execLadleChunkDone at e
  split at e
  · cases e
  split at e
  · split at e
    · cases e
      exact memInv_tryAccept h
    · cases e
  dsimp only at e
  split at e
  · cases e
  split at e
  · cases e
  · next x hx =>
    cases e
    exact memInv_putJob (memInv_chunkStep h hx)

theorem memInv_collDone {j : Job} {members : List (List Byte)} (h : MemInv s) : MemInv (collDone s j members).1 := by
  grind [collDone, memInv_readSource]

theorem memInv_ladleEnd {c : Nat} {j : Job} (h : MemInv s) : MemInv (ladleEnd s c j) := by
  grind [ladleEnd, State.memInv_modRing, memInv_modUid, memInv_retireSlots, State.memInv_modCore, MemInv]

theorem memInv_execLadleComplete {core cmd : Nat} {members : List (List Byte)} (h : MemInv s)
    (e : execLadleComplete core cmd members s = .next t) : MemInv t := by
  grind [execLadleComplete, memInv_collDone, memInv_putJob, memInv_ladleEnd]

/-! ### Mxe -/

theorem memInv_mxShared {g : EngAt} {ps : Pages} {d : Side} {ext : List Nat} {org : List Int} (h : MemInv s) :
    MemInv (mxShared s g ps d ext org).1 := by
  grind [mxShared, memInv_readPieces]

theorem memInv_mxOperand {c : Nat} {q : MCmd} {b : Bool} (h : MemInv s) : MemInv (mxOperand s c q b).1 := by
  unfold mxOperand
  split
  · exact h
  split
  · exact memInv_mxShared h
  · exact h

theorem memInv_mxCompute {c : Nat} {q : MCmd} {fa fb : Nat} {as bs : List MxEl} (h : MemInv s) :
    MemInv (mxCompute s c q fa fb as bs).1 := by
  unfold mxCompute
  split
  · exact h
  · exact State.memInv_setCore h

theorem memInv_mxRecords {c : Nat} {q : MCmd} {n : Nat} (h : MemInv s) : MemInv (mxRecords s c q n).1 := by
  induction n generalizing s q with
  | zero => exact h
  | succ n ih => grind [mxRecords, memInv_engRecord, memInv_engPoison]

theorem memInv_modMx {c id : Nat} {g : MCmd → MCmd} (h : MemInv s) : MemInv (modMx s c id g) := h

theorem memInv_mxPlaces {c : Nat} {q : MCmd} (h : MemInv s) : MemInv (mxPlaces s c q).1 := by
  grind [mxPlaces, State.memInv_modRing]

theorem memInv_modTeam {q : MCmd} {g : TeamCmd → TeamCmd} (h : MemInv s) : MemInv (modTeam s q g) := by
  unfold modTeam
  split <;> exact h

theorem memInv_joinTeam {c : Nat} {q : MCmd} {refused : Bool} (h : MemInv s) : MemInv (joinTeam s c q refused) := by
  unfold joinTeam
  split
  · exact h
  split <;> exact memInv_modTeam h

theorem memInv_mxAcceptNow {c : Nat} {q : MCmd} {st : Nat} (h : MemInv s) : MemInv (mxAcceptNow s c q st) := by
  grind [mxAcceptNow, memInv_modMx, memInv_mxPlaces, memInv_retireSlots]

theorem memInv_mxAccept {c id : Nat} (h : MemInv s) : MemInv (mxAccept s c id) := by
  grind [mxAccept, memInv_mxAcceptNow, memInv_acquireAt, memInv_mxRecords, memInv_modMx, memInv_joinTeam]

theorem memInv_mxIssue {op : Nat} {f : Fields} (h : MemInv s) (e : mxIssue op f s = .next t) : MemInv t := by
  refine memInv_issueWord h (fun x s h => ?_) e
  grind [State.memInv_modCore, State.memInv_modRun, State.memInv_modGang, State.memInv_modWave, memInv_mxAccept]

theorem memInv_execMxteam {f : Fields} (h : MemInv s) (e : execMxteam f s = .next t) : MemInv t :=
  memInv_groupWord h (fun _ _ h => memInv_writeEnd h) e

theorem memInv_execMxstat {f : Fields} (h : MemInv s) (e : execMxstat f s = .next t) : MemInv t := by
  refine memInv_groupWord h (fun x s h => ?_) e
  grind [memInv_writeEnd, State.memInv_modWave]

theorem memInv_mxqset {f : Fields} {stamp : Bool} (h : MemInv s) (e : mxqset f stamp s = .next t) : MemInv t := by
  refine memInv_groupWord h (fun x s h => ?_) e
  grind [State.memInv_modGang, memInv_writeEnd]

theorem memInv_execMxeCommandStart {core cmd : Nat} (h : MemInv s) (e : execMxeCommandStart core cmd s = .next t) : MemInv t := by
  grind [execMxeCommandStart, memInv_mxAccept, memInv_modMx]

theorem memInv_mxDrain {c : Nat} {q : MCmd} {b : Bool} (h : MemInv s) : MemInv (mxDrain s c q b).1 := by
  grind [mxDrain, State.memInv_modRing]

theorem memInv_mxDrainAll {c : Nat} {q : MCmd} {n : Nat} (h : MemInv s) : MemInv (mxDrainAll s c q n).1 := by
  induction n generalizing s q with
  | zero => exact h
  | succ n ih => grind [mxDrainAll, memInv_mxDrain]

theorem memInv_teamFetch {q : MCmd} {step : Nat} (h : MemInv s) : MemInv (teamFetch s q step).1 := by
  unfold teamFetch
  split <;> grind [memInv_mxShared, memInv_modTeam]

theorem memInv_mxOperandB {c : Nat} {q : MCmd} (h : MemInv s) : MemInv (mxOperandB s c q).1 := by
  unfold mxOperandB
  split
  · exact memInv_teamFetch h
  · exact memInv_mxOperand h

theorem memInv_teamProg {q : MCmd} {n : Nat} (h : MemInv s) : MemInv (teamProg s q n) := by
  grind [teamProg, memInv_modTeam]

theorem memInv_mxDo {c : Nat} {q : MCmd} {as bs : List MxEl} {pois : Bool} (h : MemInv s) : MemInv (mxDo s c q as bs pois) := by
  grind [mxDo, memInv_mxCompute, memInv_engPoison, memInv_mxDrain, memInv_countEvent, State.memInv_modCore, memInv_teamProg,
    memInv_modMx]

theorem memInv_execMxeKstep {core cmd : Nat} (h : MemInv s) (e : execMxeKstep core cmd s = .next t) : MemInv t := by
  grind [execMxeKstep, memInv_mxDrainAll, memInv_modMx, memInv_mxOperand, memInv_mxOperandB, memInv_mxDo, memInv_teamProg]

theorem memInv_mxEnd {c : Nat} {q : MCmd} (h : MemInv s) : MemInv (mxEnd s c q) := by
  grind [mxEnd, State.memInv_modCore, memInv_teamProg, memInv_modUid, memInv_retireTile, MemInv]

theorem memInv_execMxeComplete {core cmd : Nat} (h : MemInv s) (e : execMxeComplete core cmd s = .next t) : MemInv t := by
  unfold execMxeComplete at e
  split at e
  · cases e
  split at e
  · cases e
    exact memInv_mxEnd h
  · cases e

/-! ### Colander -/

theorem memInv_modCol {c : Nat} {g : Colander → Colander} (h : MemInv s) : MemInv (modCol s c g) := h

theorem memInv_modQuery {c : Nat} {qid : W32} {g : Query → Query} (h : MemInv s) : MemInv (modQuery s c qid g) := h

theorem memInv_mergeRecs {c : Nat} {g : EngAt} {q : Query} {ps : Pages} {rs : List (Nat × List W32)} (h : MemInv s) :
    MemInv (mergeRecs s c g q ps rs).1 := by
  grind [mergeRecs, memInv_locPut, memInv_engProbe, memInv_engPush, memInv_foldl_fst, memInv_foldl]

theorem memInv_setRec {c : Nat} {q : Query} {seq : W32} {g : SplitRec → SplitRec} (h : MemInv s) : MemInv (setRec s c q seq g) := by
  unfold setRec
  split
  · exact h
  · exact memInv_locPut (memInv_modQuery h)

theorem memInv_addBeams {c : Nat} {bs : List Beam} (h : MemInv s) : MemInv (addBeams s c bs) := h

theorem memInv_dropBeam {c id : Nat} (h : MemInv s) : MemInv (dropBeam s c id) := h

theorem memInv_waitBeam {c id : Nat} {ps : Pages} (h : MemInv s) : MemInv (waitBeam s c id ps) := h

theorem memInv_failBeam {c : Nat} {g : EngAt} {q : Query} {b : Beam} {code : Nat} (h : MemInv s) :
    MemInv (failBeam s c g q b code) := by
  grind [failBeam, memInv_mergeRecs, memInv_waitBeam, memInv_modQuery, memInv_dropBeam]

theorem memInv_colPoison {c : Nat} {g : EngAt} {qid : W32} {bad : Bool} (h : MemInv s) : MemInv (colPoison s c g qid bad) := by
  unfold colPoison
  split
  · exact memInv_modQuery (memInv_engPoison h)
  · exact h

theorem memInv_colRead {g : EngAt} {ps : Pages} {va n : Nat} (h : MemInv s) : MemInv (colRead s g ps va n).1 := by
  grind [colRead, memInv_engRecord, memInv_foldl_fst]

theorem memInv_leafVisit {c : Nat} {g : EngAt} {q : Query} {b : Beam} {bytes : List Byte} (h : MemInv s) :
    MemInv (leafVisit s c g q b bytes) := by
  grind [leafVisit, memInv_failBeam, memInv_mergeRecs, memInv_waitBeam, memInv_modQuery, memInv_dropBeam]

theorem memInv_innerVisit {c : Nat} {b : Beam} {bytes : List Byte} (h : MemInv s) : MemInv (innerVisit s c b bytes) := h

theorem memInv_instVisit {c : Nat} {q : Query} {b : Beam} {bytes : List Byte} (h : MemInv s) :
    MemInv (instVisit s c q b bytes) := by
  unfold instVisit
  split
  · exact memInv_dropBeam h
  · exact memInv_addBeams h

theorem memInv_descend {c : Nat} {g : EngAt} {q : Query} {b : Beam} (h : MemInv s) : MemInv (descend s c g q b) := by
  grind [descend, memInv_failBeam, memInv_dropBeam, memInv_colRead, memInv_waitBeam, memInv_colPoison, memInv_innerVisit,
    memInv_leafVisit, memInv_instVisit]

theorem memInv_asRays {c : Nat} {q : Query} {b : Beam} (h : MemInv s) : MemInv (asRays s c q b) := h

theorem memInv_splitChild {c : Nat} {qid : W32} {b : Beam} (h : MemInv s) : MemInv (splitChild s c qid b) := by
  grind [splitChild, memInv_asRays, memInv_modQuery, memInv_countEvent, memInv_locPut, memInv_putWaves]

theorem memInv_partVisit {c : Nat} {q : Query} {b : Beam} (h : MemInv s) : MemInv (partVisit s c q b) := by
  grind [partVisit, memInv_dropBeam, memInv_asRays, memInv_addBeams, memInv_foldl]

theorem memInv_takeOpen {c gang : Nat} (h : MemInv s) : MemInv (takeOpen s c gang) := by
  grind [takeOpen, memInv_setRec, memInv_modCol, memInv_modQuery, memInv_asRays, memInv_foldl]

theorem memInv_execColanderNodeVisit {core beam : Nat} (h : MemInv s) (e : execColanderNodeVisit core beam s = .next t) :
    MemInv t := by
  unfold execColanderNodeVisit at e
  split at e <;> grind [memInv_takeOpen, memInv_dropBeam, memInv_splitChild, memInv_colRead, memInv_waitBeam, memInv_colPoison,
    memInv_descend, memInv_partVisit, memInv_failBeam]

theorem memInv_queryIssue {op : Nat} {f : Fields} (h : MemInv s) (e : queryIssue op f s = .next t) : MemInv t := by
  refine memInv_issueWord h (fun x s h => ?_) e
  grind [memInv_checkWant, memInv_issueTraps, State.memInv_modCore, State.memInv_modRun, State.memInv_modWave, memInv_addOp,
    memInv_writePromise, memInv_takeLog]

theorem memInv_queryLoaded {c : Nat} {qid : W32} {b : List Byte} {bad : Bool} (h : MemInv s) : MemInv (queryLoaded s c qid b bad) :=
  h

theorem memInv_queryDropped {c : Nat} {qid : W32} (h : MemInv s) : MemInv (queryDropped s c qid) := by
  unfold queryDropped
  split
  · exact h
  · exact memInv_modUid h

theorem memInv_contAccept {c id : Nat} (h : MemInv s) : MemInv (contAccept s c id) := by
  grind [contAccept, memInv_acquireAt, memInv_modCol, memInv_addBeams]

theorem memInv_execBeamcont {f : Fields} (h : MemInv s) (e : execBeamcont f s = .next t) : MemInv t := by
  refine memInv_issueWord h (fun x s h => ?_) e
  grind [memInv_issueTraps, memInv_modQuery, State.memInv_modCore, State.memInv_modRun, State.memInv_modWave, memInv_contAccept,
    memInv_writePromise]

theorem memInv_popQueue {c gang uid a : Nat} (h : MemInv s) : MemInv (popQueue s c gang uid a).1 := by
  unfold popQueue
  split
  · exact h
  split
  · exact h
  · exact memInv_setRec h

theorem memInv_queueWord {o : Nat} {f : Fields} {act : State → Nat → Nat → Nat → Nat → State × W32} (h : MemInv s)
    (ha : ∀ s x y z u, MemInv s → MemInv (act s x y z u).1) (e : queueWord o f s act = .next t) : MemInv t := by
  refine memInv_groupWord h (fun x s h => ?_) e
  grind [memInv_addOp, memInv_writeEnd]

theorem memInv_execSqpop {f : Fields} (h : MemInv s) (e : execSqpop f s = .next t) : MemInv t := by
  grind [execSqpop, memInv_queueWord, memInv_popQueue]

theorem memInv_execSqpeek {f : Fields} (h : MemInv s) (e : execSqpeek f s = .next t) : MemInv t := by
  grind [execSqpeek, memInv_queueWord]

theorem memInv_queueStep {c w id lane : Nat} {v : Wave} {o : Op} (h : MemInv s) : MemInv (queueStep s c w id lane v o) := by
  grind [queueStep, memInv_popQueue, memInv_finishLane]

theorem memInv_queryBeam {c : Nat} {q : Query} (h : MemInv s) : MemInv (queryBeam s c q).1 := by
  grind [queryBeam, memInv_colRead, memInv_engPoison]

theorem memInv_goLive {c : Nat} {q : Query} (h : MemInv s) : MemInv (goLive s c q) := h

theorem memInv_keepIntake {c : Nat} {q : Query} (h : MemInv s) : MemInv (keepIntake s c q) := h

theorem memInv_queryAccept {c : Nat} {q : Query} (h : MemInv s) : MemInv (queryAccept s c q) := by
  grind [queryAccept, memInv_acquireAt, memInv_queryBeam, memInv_keepIntake, memInv_goLive, memInv_mergeRecs, memInv_addBeams]

theorem memInv_execColanderAccept {core : Nat} (h : MemInv s) (e : execColanderAccept core s = .next t) : MemInv t := by
  unfold execColanderAccept at e
  dsimp only at e
  split at e
  · next u hu =>
    cases e
    obtain ⟨x, -, hx⟩ := List.exists_of_findSome?_eq_some hu
    split_ifs at hx
    cases hx
    exact memInv_contAccept h
  split at e
  · cases e
  split at e
  · cases e
  · cases e
    exact memInv_queryAccept h

theorem memInv_execQueryComplete {core query : Nat} (h : MemInv s) (e : execQueryComplete core query s = .next t) : MemInv t := by
  grind [execQueryComplete, memInv_engProbe, memInv_modQuery, State.memInv_modErr, memInv_engWrite, memInv_modUid, memInv_modCol,
    MemInv]

theorem memInv_execBeamcontComplete {core cont : Nat} (h : MemInv s) (e : execBeamcontComplete core cont s = .next t) :
    MemInv t := by
  grind [execBeamcontComplete, memInv_setRec, memInv_modUid, memInv_modCol]

/-! ### Queues -/

theorem memInv_placeAt {g : EngAt} {write : Bool} {spa : Nat} (h : MemInv s) : MemInv (placeAt s g write spa).1 := by
  grind [placeAt, memInv_refuseOwner]

theorem memInv_slotAt {g : EngAt} {ps : Pages} {gpa : Nat} {a : Acc} (h : MemInv s) : MemInv (slotAt s g ps gpa a).1 := by
  grind [slotAt, memInv_translateGpa, memInv_placeAt, memInv_request, memInv_refuseOwner]

theorem memInv_placeRead {g : EngAt} {u : Target} {n : Nat} (h : MemInv s) : MemInv (placeRead s g u n).1 := by
  unfold placeRead
  split <;> grind [memInv_homeTouches, memInv_portRead, memInv_engPeer]

theorem memInv_forgetReads {g : EngAt} (h : MemInv s) : MemInv (forgetReads s g) := h

theorem memInv_counterAt {q k : Nat} {ps : Pages} (h : MemInv s) : MemInv (counterAt s q k ps).1 := by
  grind [counterAt, memInv_engPage, memInv_placeAt]

theorem memInv_enterCard {q : Nat} {g : Card → Card} {bytes : List Byte} {unwritten : Bool} (h : MemInv s) :
    MemInv (enterCard s q g bytes unwritten) := h

theorem memInv_slotRefused {q : Nat} (h : MemInv s) : MemInv (slotRefused s q) := h

theorem memInv_writeSlot {q : Nat} {n : W32} (h : MemInv s) : MemInv (writeSlot s q n) := by
  grind [writeSlot, memInv_slotAt, State.memInv_modCard, memInv_engWrite, memInv_slotRefused]

theorem memInv_readSlot {q : Nat} {n : W32} (h : MemInv s) : MemInv (readSlot s q n) := by
  grind [readSlot, State.memInv_modCard, memInv_slotRefused, memInv_slotAt, memInv_placeRead, memInv_forgetReads]

theorem memInv_ctrSend {id node r v : Nat} (h : MemInv s) : MemInv (ctrSend s id node r v) := memInv_sendReq h

theorem memInv_ctrDrop {id : Nat} (h : MemInv s) : MemInv (ctrDrop s id) := h

theorem memInv_ctrRead {f id : Nat} {u : Target} (h : MemInv s) : MemInv (ctrRead s f id u).1 := by
  unfold ctrRead
  split <;> grind [memInv_homeTouch, memInv_portRead, memInv_ctrSend, memInv_ctrDrop]

theorem memInv_pollCounter {q : Nat} {n : W32} (h : MemInv s) : MemInv (pollCounter s q n) := by
  grind [pollCounter, State.memInv_modCard, memInv_counterAt, memInv_ctrRead]

theorem memInv_pollAgain (h : MemInv s) : MemInv (pollAgain s) := h

theorem memInv_ctrLower {g : EngAt} {id : Nat} {u : Target} (h : MemInv s) : MemInv (ctrLower s g id u).1 := by
  unfold ctrLower
  split <;> grind [memInv_homeTouch, memInv_homeWrite, memInv_portRead, State.memInv_send, memInv_ctrSend, memInv_ctrDrop]

theorem memInv_signalCounter {q : Nat} {n : W32} (h : MemInv s) : MemInv (signalCounter s q n) := by
  grind [signalCounter, State.memInv_modCard, memInv_counterAt, memInv_ctrLower, State.memInv_modErr, memInv_pollAgain]

theorem memInv_ownerWrite {g : EngAt} {ps : Pages} {va : W64} {b : List Byte} (h : MemInv s) :
    MemInv (ownerWrite s g ps va b).1 := by
  grind [ownerWrite, memInv_engProbe, memInv_engWrite, memInv_elideStore]

theorem memInv_meetDeadline {q : Nat} {n : W32} (h : MemInv s) : MemInv (meetDeadline s q n) := by
  grind [meetDeadline, State.memInv_modQueue, MemInv]

theorem memInv_freeCard {k : Card} (h : MemInv s) : MemInv (freeCard s k) := by
  grind [freeCard, State.memInv_modSlice, MemInv]

theorem memInv_finishCard {q : Nat} {n : W32} (h : MemInv s) : MemInv (finishCard s q n) := by
  grind [finishCard, memInv_signalCounter, memInv_ownerWrite, State.memInv_modCard, memInv_freeCard, memInv_meetDeadline,
    memInv_forgetReads, State.memInv_modQueue]

theorem memInv_endAtBegin {q : Nat} {n : W32} {st : Nat} (h : MemInv s) : MemInv (endAtBegin s q n st) :=
  memInv_finishCard (State.memInv_modCard (memInv_forgetReads h))

theorem memInv_openCard {q : Nat} {n : W32} {g : Card → Card} (h : MemInv s) : MemInv (openCard s q n g) := by
  unfold openCard
  split
  · exact h
  split
  · exact memInv_endAtBegin h
  · exact State.memInv_modCard h

theorem memInv_beginCard {q : Nat} {n : W32} (h : MemInv s) : MemInv (beginCard s q n) := by
  unfold beginCard
  split <;> grind [memInv_endAtBegin, memInv_engRecord, State.memInv_modCard, memInv_openCard]

theorem memInv_execCardBegin {q : Nat} (h : MemInv s) (e : execCardBegin q s = .next t) : MemInv t := by
  grind [execCardBegin, memInv_readSlot, memInv_writeSlot, memInv_finishCard, memInv_pollCounter, memInv_beginCard]

theorem memInv_execDepctrPoll {q : Nat} (h : MemInv s) (e : execDepctrPoll q s = .next t) : MemInv t := by
  grind [execDepctrPoll, memInv_pollCounter, memInv_finishCard]

theorem memInv_endWithdraw {q : Nat} (h : MemInv s) : MemInv (endWithdraw s q) := by
  unfold endWithdraw
  split
  · exact State.memInv_modQueue h
  · exact h

theorem memInv_completeCard {q : Nat} {n : W32} (h : MemInv s) : MemInv (completeCard s q n) :=
  memInv_endWithdraw (memInv_finishCard (State.memInv_modCard h))

theorem memInv_execJobComplete {q : Nat} {seq : W32} (h : MemInv s) (e : execJobComplete q seq s = .next t) : MemInv t := by
  grind [execJobComplete, memInv_endWithdraw, memInv_finishCard, memInv_readSlot, memInv_writeSlot, memInv_completeCard]

/-! ### Deal -/

theorem memInv_ownHome {q : Nat} {k : Card} {l : Launch} {n : Nat} (h : MemInv s) : MemInv (ownHome s q k l n).1 := by
  grind [ownHome, memInv_engRecord]

theorem memInv_homeOf {q : Nat} {k : Card} {l : Launch} {n : Nat} (h : MemInv s) : MemInv (homeOf s q k l n).1 := by
  grind [homeOf, memInv_ownHome]

theorem memInv_cardHomes {q : Nat} {k : Card} {l : Launch} (h : MemInv s) : MemInv (cardHomes s q k l).1 := by
  grind [cardHomes, memInv_homeOf, State.memInv_modCard, memInv_foldl_fst]

theorem memInv_execCoreWorkRequest {core : Nat} (h : MemInv s) (e : execCoreWorkRequest core s = .next t) : MemInv t := by
  grind [execCoreWorkRequest, memInv_cardHomes, State.memInv_modCard, State.memInv_modCore, memInv_foldl]

theorem memInv_startGang {c q : Nat} {k : Card} {l : Launch} {r : Nat} {team : Option (Nat × Nat × Nat)} (h : MemInv s) :
    MemInv (startGang s c q k l r team) := by
  unfold startGang
  split
  · exact h
  · exact memInv_putWaves (State.memInv_modCore h)

theorem memInv_closeWindow {q : Nat} (h : MemInv s) : MemInv (closeWindow s q) := by
  grind [closeWindow, MemInv]

theorem memInv_takeHeld {c q : Nat} {n : W32} {r : Nat} (h : MemInv s) : MemInv (takeHeld s c q n r) := h

theorem memInv_unitStarted {q : Nat} {cs : List Nat} (h : MemInv s) : MemInv (unitStarted s q cs) := h

theorem memInv_execGangCreate {core : Nat} (h : MemInv s) (e : execGangCreate core s = .next t) : MemInv t := by
  unfold execGangCreate at e
  split at e <;> grind [State.memInv_modCard, memInv_takeHeld, memInv_unitStarted, memInv_startGang, memInv_closeWindow,
    memInv_foldl, MemInv]

theorem memInv_unitDone {q : Nat} {n : W32} (h : MemInv s) : MemInv (unitDone s q n) := h

theorem memInv_execWhiskPeriod (h : MemInv s) (e : execWhiskPeriod s = .next t) : MemInv t := by
  grind [execWhiskPeriod, State.memInv_modCore, memInv_foldl, MemInv]

theorem memInv_execWhiskMigrate {source : Nat} (h : MemInv s) (e : execWhiskMigrate source s = .next t) : MemInv t := by
  grind [execWhiskMigrate, State.memInv_modCore, memInv_takeHeld, memInv_foldl]

theorem State.memInv_setDeckle {d : Nat} {us : List DkUnit} (h : MemInv s) : MemInv (s.setDeckle d us) := h

theorem memInv_deckleStep {q : LCmd} {x : State × Option LCmd} (h : MemInv s) (e : deckleStep s q = some x) : MemInv x.1 := by
  unfold deckleStep at e
  dsimp only at e
  split at e
  · cases e
    exact memInv_acceptJob h
  split at e
  · split at e
    · cases e
    · cases e
      exact h
  split at e
  · cases e
  · next y hy =>
    cases e
    obtain ⟨k, -, hk⟩ := List.exists_of_findSome?_eq_some hy
    exact memInv_chunkStep h hk

theorem memInv_execDeckleWorkRequest {quadrant : Nat} (h : MemInv s) (e : execDeckleWorkRequest quadrant s = .next t) :
    MemInv t := by
  unfold execDeckleWorkRequest at e
  split at e
  · split at e
    · split at e
      · cases e
      · next hx =>
        cases e
        exact State.memInv_setDeckle (memInv_deckleStep h hx)
      · next hx =>
        cases e
        exact memInv_unitDone (State.memInv_setDeckle (memInv_deckleStep h hx))
    · split at e <;> cases e <;> exact h
  · split at e <;> cases e
    exact h

/-! ### Sieve -/

theorem memInv_submitAt {f : Nat} {k : Bool} {token : W32} (h : MemInv s) : MemInv (submitAt s f k token) := by
  grind [submitAt, State.memInv_modErr, State.memInv_modFunc]

theorem memInv_execSubmit {vf : Nat} {token : W32} (h : MemInv s) (e : execSubmit vf token s = .next t) : MemInv t := by
  unfold execSubmit at e
  split at e
  · cases e
    exact memInv_submitAt h
  · cases e

theorem memInv_mailReply {f status : Nat} (h : MemInv s) : MemInv (mailReply s f status) :=
  memInv_msixEvent (State.memInv_modFunc h)

theorem memInv_mailRequest {f code : Nat} {body : (Nat → W64) → Bool → State × Nat} (h : MemInv s) (hb : ∀ y b, MemInv (body y b).1)
    (e : mailRequest s f code body = .next t) : MemInv t := by
  grind [mailRequest, memInv_mailReply]

theorem memInv_execQset {vf : Nat} (h : MemInv s) (e : execQset vf s = .next t) : MemInv t := by
  grind [execQset, memInv_mailRequest, State.memInv_modQueue, MemInv]

theorem memInv_execFilter {vf : Nat} (h : MemInv s) (e : execFilter vf s = .next t) : MemInv t := by
  grind [execFilter, memInv_mailRequest, MemInv]

theorem memInv_execDeadline {vf : Nat} (h : MemInv s) (e : execDeadline vf s = .next t) : MemInv t := by
  grind [execDeadline, memInv_mailRequest, State.memInv_modQueue, MemInv]

theorem memInv_execSavepool {vf : Nat} (h : MemInv s) (e : execSavepool vf s = .next t) : MemInv t := by
  grind [execSavepool, memInv_mailRequest, MemInv]

theorem memInv_execDeadlineWindowOpen {q : Nat} (h : MemInv s) (e : execDeadlineWindowOpen q s = .next t) : MemInv t := by
  grind [execDeadlineWindowOpen, MemInv]

theorem memInv_ring {f q : Nat} {v : W32} (h : MemInv s) : MemInv (ring s f q v) := by
  grind [ring, State.memInv_modErr, memInv_enterCard, memInv_foldl]

theorem memInv_execDoorbell {vf q : Nat} {value : W32} (h : MemInv s) (e : execDoorbell vf q value s = .next t) : MemInv t := by
  unfold execDoorbell at e
  split at e
  · cases e
    exact memInv_ring h
  · cases e

theorem memInv_postCard {vf : Nat} {level : Level} {b : Nat} {card : List Byte} (h : MemInv s) :
    MemInv (postCard s vf level b card).1 := by
  grind [postCard, memInv_writeSlot, memInv_enterCard, MemInv]

theorem memInv_jobpostGot {c w id lane : Nat} {b : List Byte} (h : MemInv s) : MemInv (jobpostGot s c w id lane b) := by
  unfold jobpostGot
  split
  · exact h
  · exact State.memInv_modWave h

theorem memInv_jobpostEnd {c w id lane st : Nat} {n : W32} (h : MemInv s) : MemInv (jobpostEnd s c w id lane st n) := by
  unfold jobpostEnd
  split
  · exact h
  · exact memInv_finishLane h

theorem memInv_jobpostStep {c w id lane : Nat} (h : MemInv s) (e : jobpostStep s c w id lane = some t) : MemInv t := by
  grind [jobpostStep, State.memInv_modWave, memInv_postCard, memInv_jobpostEnd, memInv_finishCard, memInv_writeSlot]

theorem memInv_putPost {p : Option Post} (h : MemInv s) : MemInv (putPost s p) := h

theorem memInv_placeMessage {p : Post} {i : Nat} {e' : Filter} (h : MemInv s) : MemInv (placeMessage s p i e').1 := by
  grind [placeMessage, memInv_engProbe, memInv_ownerWrite, State.memInv_modCard, MemInv]

theorem memInv_denyPost {p : Post} (h : MemInv s) : MemInv (denyPost s p) :=
  memInv_endWithdraw (memInv_finishCard (State.memInv_modCard h))

theorem memInv_posterRecord {p : Post} {ok : Bool} (h : MemInv s) : MemInv (posterRecord s p ok) := by
  grind [posterRecord, memInv_putPost, memInv_ownerWrite]

theorem memInv_finishPost {p : Post} (h : MemInv s) : MemInv (finishPost s p) := by
  grind [finishPost, memInv_writeSlot, memInv_posterRecord]

theorem memInv_execSievePostExamine (h : MemInv s) (e : execSievePostExamine s = .next t) : MemInv t := by
  grind [execSievePostExamine, memInv_finishPost, memInv_posterRecord, memInv_denyPost, memInv_putPost, memInv_placeMessage]

/-! ### Stockpot -/

theorem State.memInv_modWorld {tag : Nat} {g : World → World} (h : MemInv s) : MemInv (s.modWorld tag g) := h

theorem memInv_dropTag {slice n : Nat} (h : MemInv s) : MemInv (dropTag s slice n) := h

theorem memInv_acquireSlot {c slot : Nat} (h : MemInv s) : MemInv (acquireSlot s c slot) :=
  memInv_foldl h fun _ _ h => memInv_dropL1 h

theorem memInv_wakeOne {w : Waiter} {filled : Bool} {slot : Nat} (h : MemInv s) : MemInv (wakeOne s w filled slot) := by
  unfold wakeOne
  split
  · exact memInv_modUid (memInv_acquireSlot h)
  · exact memInv_modUid h

theorem memInv_wakeSome {slice : Nat} {p : Waiter → Bool} {filled : Bool} {slot : Nat} (h : MemInv s) :
    MemInv (wakeSome s slice p filled slot) := by
  grind [wakeSome, State.memInv_modSlice, memInv_wakeOne, memInv_foldl]

theorem memInv_dropEntry {slice n : Nat} (h : MemInv s) : MemInv (dropEntry s slice n) := memInv_wakeSome (memInv_dropTag h)

theorem memInv_putRing {slice : Nat} {r : SubRing} (h : MemInv s) : MemInv (putRing s slice r) := h

theorem memInv_writeShading {slice : Nat} {r : SubRing} {q : ShRec} (h : MemInv s) : MemInv (writeShading s slice r q) := by
  grind [writeShading, memInv_engProbe, memInv_putRing, memInv_refuseOwner, memInv_dropEntry, memInv_ownerWrite]

theorem memInv_execShadingBatchPost {slice world : Nat} (h : MemInv s) (e : execShadingBatchPost slice world s = .next t) :
    MemInv t := by
  grind [execShadingBatchPost, memInv_writeShading, memInv_putRing, memInv_enterCard, memInv_finishCard, memInv_writeSlot]

theorem memInv_addWaiter {slice n : Nat} {k : Look} {slot : Nat} (h : MemInv s) : MemInv (addWaiter s slice n k slot).1 := by
  unfold addWaiter
  split
  · exact h
  · exact State.memInv_modSlice h

theorem memInv_lookMiss {slice : Nat} {w : World} {k : Look} (h : MemInv s) : MemInv (lookMiss s slice w k).1 := by
  unfold lookMiss
  split <;> grind [State.memInv_modSlice, memInv_dropTag, memInv_addWaiter, memInv_putRing, MemInv]

theorem memInv_lookup {k : Look} (h : MemInv s) : MemInv (lookup s k).1 := by
  grind [lookup, memInv_lookMiss, memInv_dropTag, State.memInv_modSlice, memInv_addWaiter]

theorem memInv_lookCounts {c vf code : Nat} {posted : Bool} (h : MemInv s) : MemInv (lookCounts s c vf code posted) := by
  grind [lookCounts, memInv_countEvent]

theorem memInv_execStk {f : Fields} (h : MemInv s) (e : execStk f s = .next t) : MemInv t := by
  refine memInv_issueWord h (fun x s h => ?_) e
  grind [memInv_addOp]

theorem memInv_execStkLookup {core wave op lane : Nat} (h : MemInv s) (e : execStkLookup core wave op lane s = .next t) :
    MemInv t := by
  unfold execStkLookup at e
  (repeat' split at e) <;> grind [memInv_lookup, memInv_lookCounts, memInv_acquireSlot, State.memInv_modWave, memInv_writeShading]

theorem memInv_execStkfill {f : Fields} (h : MemInv s) (e : execStkfill f s = .next t) : MemInv t := by
  refine memInv_issueWord h (fun x s h => ?_) e
  grind [memInv_laneTraps, memInv_addOp]

theorem memInv_execStkdrop {f : Fields} (h : MemInv s) (e : execStkdrop f s = .next t) : MemInv t := by
  refine memInv_issueWord h (fun x s h => ?_) e
  grind [memInv_addOp]

theorem memInv_fillSlot {w : Writer} {slot : Nat} {b : List Byte} (h : MemInv s) : MemInv (fillSlot s w slot b) := by
  grind [fillSlot, memInv_refuseOwner, memInv_homeWrite, memInv_foldl, MemInv]

theorem memInv_fillAt {c vf world : Nat} {w : Writer} {k : W64} {slot : Nat} {data : Option (List Byte)} (h : MemInv s) :
    MemInv (fillAt s c vf world w k slot data).1 := by
  grind [fillAt, memInv_dropEntry, memInv_acquireSlot, memInv_fillSlot, State.memInv_modSlice, memInv_dropTag, memInv_wakeSome]

theorem memInv_execStkFillPerform {core wave op lane : Nat} (h : MemInv s) (e : execStkFillPerform core wave op lane s = .next t) :
    MemInv t := by
  grind [execStkFillPerform, State.memInv_modWave, memInv_fillAt, memInv_finishLane]

theorem memInv_onceWord {o : Nat} {f : Fields} {a b : Ctx → Nat → W64} (h : MemInv s) (e : onceWord o f s a b = .next t) :
    MemInv t := by
  refine memInv_issueWord h (fun x s h => ?_) e
  split
  · exact h
  · exact memInv_addOp h

theorem memInv_mapTags {g : TagEnt → TagEnt} (h : MemInv s) : MemInv (mapTags s g) := h

theorem memInv_invalidateObjects {vf world a b : Nat} (h : MemInv s) : MemInv (invalidateObjects s vf world a b) := by
  unfold invalidateObjects
  split
  · exact h
  · exact memInv_mapTags (State.memInv_modWorld h)

theorem memInv_ageWorld {vf world n : Nat} (h : MemInv s) : MemInv (ageWorld s vf world n).1 := by
  unfold ageWorld
  split
  · exact h
  · exact memInv_mapTags (State.memInv_modWorld h)

theorem memInv_stkOnce {c w id lane : Nat} {v : Wave} {o : Op} {l : LaneOp} (h : MemInv s)
    (e : stkOnce s c w id lane v o l = some t) : MemInv t := by
  grind [stkOnce, memInv_finishLane, memInv_invalidateObjects, memInv_ageWorld]

theorem memInv_dropWaiters {uid : Nat} (h : MemInv s) : MemInv (dropWaiters s uid) := h

theorem memInv_withdrawWorld {tag : Nat} (h : MemInv s) : MemInv (withdrawWorld s tag) := by
  grind [withdrawWorld, memInv_dropEntry, State.memInv_modSlice, memInv_foldl]

theorem memInv_clearGrant {tag f : Nat} (h : MemInv s) : MemInv (clearGrant s tag f) :=
  memInv_foldl h fun _ _ h => memInv_wakeSome h

/-! ### Texture -/

theorem memInv_texFinish {c w id lane : Nat} (h : MemInv s) : MemInv (texFinish s c w id lane) := by
  grind [texFinish, memInv_poisonSeen, State.memInv_modWave, memInv_finishLane, memInv_foldl]

theorem memInv_texFail {c w id lane code sub : Nat} {va : W64} {aux2 : W32} (h : MemInv s) :
    MemInv (texFail s c w id lane code sub va aux2) := by
  grind [texFail, memInv_completionCause, memInv_finishLane, memInv_foldl]

theorem memInv_texWord {o : Nat} {f : Fields} (h : MemInv s) (e : texWord o f s = .next t) : MemInv t := by
  refine memInv_issueWord h (fun x s h => ?_) e
  grind [memInv_issueTraps, memInv_checkWants, memInv_laneTraps, memInv_addOp, memInv_takeLog, MemInv]

theorem memInv_execTexq {f : Fields} (h : MemInv s) (e : execTexq f s = .next t) : MemInv t := by
  refine memInv_issueWord h (fun x s h => ?_) e
  grind [memInv_issueTraps, memInv_addOp]

/-! ### Raster -/

theorem State.memInv_modPass {id : Nat} {g : Pass → Pass} (h : MemInv s) : MemInv (s.modPass id g) := h

theorem memInv_findDraw {c vf : Nat} {level : Level} {ps : Pages} {addr : W64} (h : MemInv s) :
    MemInv (findDraw s c vf level ps addr).1 := by
  unfold findDraw
  split <;> grind [memInv_engRecord, State.memInv_modPass, MemInv]

theorem memInv_exportTraps {x : Ctx} {ls : List Nat} {bad : Nat → Bool} (h : MemInv s) : MemInv (exportTraps s x ls bad).1 :=
  memInv_issueTraps h

theorem memInv_exportOp {x : Ctx} {o : Nat} {f : Fields} {ls : List LaneOp} {bytes : List Byte} (h : MemInv s) :
    MemInv (exportOp x o f ls bytes s) := by
  unfold exportOp
  split
  · exact h
  · exact memInv_addOp h

theorem memInv_execExpvtx {f : Fields} (h : MemInv s) (e : execExpvtx f s = .next t) : MemInv t :=
  memInv_issueWord h (fun _ _ h => memInv_exportOp (memInv_exportTraps h)) e

theorem memInv_execExpprim {f : Fields} (h : MemInv s) (e : execExpprim f s = .next t) : MemInv t := by
  refine memInv_issueWord h (fun x s h => ?_) e
  grind [memInv_exportTraps, memInv_issueTraps, State.memInv_modGang, memInv_exportOp, memInv_foldl_fst]

theorem memInv_execExpprimEnd {f : Fields} (h : MemInv s) (e : execExpprimEnd f s = .next t) : MemInv t :=
  memInv_issueWord h (fun _ _ h => memInv_exportOp h) e

theorem memInv_execExpfrag {f : Fields} (h : MemInv s) (e : execExpfrag f s = .next t) : MemInv t :=
  memInv_issueWord h (fun _ _ h => memInv_exportOp (State.memInv_modWave (memInv_exportTraps h))) e

theorem memInv_endDraw {pass addr : Nat} {u : Option Nat} (h : MemInv s) : MemInv (endDraw s pass addr u) := by
  unfold endDraw
  split
  · exact h
  · exact State.memInv_modPass h

theorem memInv_acceptVertices {c gang : Nat} {o : Op} (h : MemInv s) : MemInv (acceptVertices s c gang o) :=
  memInv_foldl h fun _ _ h => State.memInv_modGang h

theorem memInv_acceptFrags {v : Wave} {o : Op} (h : MemInv s) : MemInv (acceptFrags s v o) := by
  grind [acceptFrags, State.memInv_modPass, memInv_foldl]

theorem memInv_finishExport {c w id : Nat} {o : Op} (h : MemInv s) : MemInv (finishExport s c w id o) :=
  memInv_foldl h fun _ _ h => memInv_finishLane h

theorem memInv_exportStep {c w id : Nat} {v : Wave} {o : Op} (h : MemInv s) (e : exportStep s c w id v o = some t) : MemInv t := by
  grind [exportStep, memInv_finishExport, memInv_acceptVertices, memInv_acceptFrags, memInv_findDraw, State.memInv_modCore,
    State.memInv_modGang, memInv_endDraw, State.memInv_modPass, memInv_foldl]

theorem memInv_endDraws {g : Gang} (h : MemInv s) : MemInv (endDraws s g) := memInv_foldl h fun _ _ h => memInv_endDraw h

/-- The share that `sendShare` gives the core c, where the tile has a home. -/
def shareTo (s : State) (p : Pass) (q : Prim) (frags : List (List Nat)) (u : Nat × Nat) (home : Option Nat) : State :=
  match home with
  | none => s
  | some c => s.modCore c (fun k => { k with shares := k.shares ++
      [{ pass := p.id, draw := q.draw, pseq := q.pseq, cls := q.cls, frags := frags.filter (fun g => fragTile g == u),
         attrs := q.verts.flatMap Vertex.attr }] })

/-- Stated with `shareTo`, so that the kernel does not evaluate the hash in `tileHome` to see that the match waits for it. -/
theorem sendShare_eq {p : Pass} {q : Prim} {frags : List (List Nat)} {u : Nat × Nat} :
    sendShare s p q frags u = shareTo s p q frags u (tileHome s p.vf u.1 u.2) := rfl

theorem memInv_shareTo {p : Pass} {q : Prim} {frags : List (List Nat)} {u : Nat × Nat} {home : Option Nat} (h : MemInv s) :
    MemInv (shareTo s p q frags u home) := by
  cases home with
  | none => exact h
  | some c => exact State.memInv_modCore h

theorem memInv_sendShare {p : Pass} {q : Prim} {frags : List (List Nat)} {u : Nat × Nat} (h : MemInv s) :
    MemInv (sendShare s p q frags u) := by
  rw [sendShare_eq]
  exact memInv_shareTo h

theorem memInv_execPrimitiveRasterise {pass : Nat} (h : MemInv s) (e : execPrimitiveRasterise pass s = .next t) : MemInv t := by
  unfold execPrimitiveRasterise at e
  split at e <;> grind [State.memInv_modPass, memInv_sendShare, memInv_foldl]

theorem memInv_dropShare {u : TileShare} {ps : List (List Nat)} (h : MemInv s) : MemInv (dropShare s u ps) := h

theorem memInv_readSurf {c : Nat} {p : Pass} {d : Draw} (h : MemInv s) : MemInv (readSurf s c p d) := by
  grind [readSurf, State.memInv_modPass, memInv_engRecord]

theorem memInv_startSurface {c : Nat} {p : Pass} {d : Draw} {l : Launch} {u : TileShare} {fs : List (List Nat)} (h : MemInv s) :
    MemInv (startSurface s c p d l u fs) := by
  grind [startSurface, State.memInv_modCore, memInv_putWaves, State.memInv_modWave]

theorem memInv_execSurfaceWaveCreate {core : Nat} (h : MemInv s) (e : execSurfaceWaveCreate core s = .next t) : MemInv t := by
  grind [execSurfaceWaveCreate, State.memInv_modCore, memInv_dropShare, memInv_readSurf, memInv_startSurface]

theorem memInv_targetRead {g : EngAt} {ps : Pages} {va : W64} {n : Nat} (h : MemInv s) : MemInv (targetRead s g ps va n).1 := by
  grind [targetRead, memInv_engRead]

theorem memInv_targetProbe {g : EngAt} {ps : Pages} {va : W64} {n : Nat} (h : MemInv s) : MemInv (targetProbe s g ps va n).1 := by
  grind [targetProbe, memInv_engProbe]

theorem memInv_targetWrite {g : EngAt} {u : Option Target} {va : W64} {b : List Byte} (h : MemInv s) :
    MemInv (targetWrite s g u va b) := by
  unfold targetWrite
  split
  · exact memInv_engPush h
  · exact h

theorem memInv_dropReads {g : EngAt} (h : MemInv s) : MemInv (dropReads s g) := h

theorem memInv_leaveFrag {p : Pass} {q : Frag} {applied : Bool} (h : MemInv s) : MemInv (leaveFrag s p q applied) := h

theorem memInv_applyFrag {p : Pass} {d : Draw} {q : Frag} {c : List W32} {z : W32} (h : MemInv s) :
    MemInv (applyFrag s p d q c z) := by
  unfold applyFrag
  dsimp only
  split
  · next e => exact State.memInv_modPass (memInv_of_fst_eq (memInv_targetRead h) e)
  next e =>
  have h := memInv_of_fst_eq (memInv_targetRead h) e
  split
  · exact memInv_leaveFrag (memInv_dropReads (State.memInv_modPass h))
  split
  · next e => exact State.memInv_modPass (memInv_of_fst_eq (memInv_targetRead h) e)
  next e =>
  have h := memInv_of_fst_eq (memInv_targetRead h) e
  split
  · next e =>
    refine State.memInv_modPass (memInv_of_fst_eq ?_ e)
    split
    · exact memInv_targetProbe h
    · exact h
  next s ps td e =>
  have h : MemInv s := by
    refine memInv_of_fst_eq ?_ e
    split
    · exact memInv_targetProbe h
    · exact h
  split
  · next e => exact State.memInv_modPass (memInv_of_fst_eq (memInv_targetProbe h) e)
  · next e =>
    have h := memInv_of_fst_eq (memInv_targetProbe h) e
    exact memInv_leaveFrag (memInv_dropReads (State.memInv_modPass (memInv_targetWrite (memInv_targetWrite h))))

theorem memInv_execFragmentApply {pass x y : Nat} (h : MemInv s) (e : execFragmentApply pass x y s = .next t) : MemInv t := by
  grind [execFragmentApply, memInv_leaveFrag, memInv_applyFrag]

theorem memInv_execPassComplete {pass : Nat} (h : MemInv s) (e : execPassComplete pass s = .next t) : MemInv t := by
  grind [execPassComplete, memInv_ownerWrite, State.memInv_modPass, MemInv]

/-! ### Save -/

theorem memInv_putRecord {a : Nat} {b : List Byte} (h : MemInv s) : MemInv (putRecord s a b) := by
  unfold putRecord
  split
  · exact memInv_selfWrite h
  · exact memInv_refuseOwner h

theorem memInv_finishUid {c w uid id lane : Nat} {ws : List RegWrite} (h : MemInv s) : MemInv (finishUid s c w uid id lane ws) :=
  memInv_modUid h

theorem memInv_answerSave {req : Option (Nat × Nat × Nat)} {st : Nat} (h : MemInv s) : MemInv (answerSave s req st) := by
  unfold answerSave
  split <;> grind [memInv_finishUid]

theorem memInv_vacate {c w : Nat} {v : Wave} (h : MemInv s) : MemInv (vacate s c w v) := h

theorem memInv_freePool {p : Saved} {size : Nat} (h : MemInv s) : MemInv (freePool s p size) := by
  unfold freePool
  split <;> exact h

theorem memInv_cancelSave {c w : Nat} {d : Drain} (h : MemInv s) : MemInv (cancelSave s c w d) :=
  memInv_answerSave (State.memInv_modSlot h)

theorem memInv_saveWave {c w : Nat} {u : Slot} {d : Drain} {addr : Nat} {grec : Bool} (h : MemInv s) :
    MemInv (saveWave s c w u d addr grec) := by
  grind [saveWave, memInv_cancelSave, memInv_freePool, memInv_putRecord, memInv_vacate, State.memInv_modGang, State.memInv_modCore,
    memInv_answerSave, MemInv]

theorem memInv_saveSlot {c w : Nat} {grec : Bool} (h : MemInv s) (e : saveSlot s c w grec = .next t) : MemInv t := by
  grind [saveSlot, memInv_saveWave]

theorem memInv_execWaveQuiesce {core wave : Nat} (h : MemInv s) (e : execWaveQuiesce core wave s = .next t) : MemInv t :=
  memInv_saveSlot h e

theorem memInv_execGangRecordSave {core gang : Nat} (h : MemInv s) (e : execGangRecordSave core gang s = .next t) : MemInv t := by
  unfold execGangRecordSave at e
  split at e
  · exact memInv_saveSlot h e
  · cases e

theorem memInv_loadRingsX {c a : Nat} {l : Launch} (h : MemInv s) : MemInv (loadRingsX s c a l) :=
  memInv_foldl_fst h fun _ _ h => State.memInv_modCore h

theorem memInv_seqTicket {f : Nat} {q : W32} {answered refused : Bool} (h : MemInv s) :
    MemInv (seqTicket s f q answered refused).1 := by
  unfold seqTicket
  split <;> grind [MemInv]

theorem memInv_entryReqs {f : Nat} {b : List Byte} (h : MemInv s) : MemInv (entryReqs s f b).1 :=
  memInv_foldl_fst h fun _ _ h => memInv_seqTicket h

theorem memInv_entryTexels {v : Wave} {o : Op} {b : List Byte} {ts : List Nat} (h : MemInv s) : MemInv (entryTexels s v o b ts).1 :=
  h

theorem memInv_entryQuery {c w : Nat} {v : Wave} {o : Op} (h : MemInv s) : MemInv (entryQuery s c w v o).1 := by
  unfold entryQuery
  split
  · exact h
  · exact State.memInv_modCore h

theorem memInv_entryOp {c w : Nat} {v : Wave} {id : Nat} {fl : Option Nat} {old : Option Op} {b : List Byte} (h : MemInv s) :
    MemInv (entryOp s c w v id fl old b).1 := by
  grind [entryOp, memInv_entryReqs, memInv_entryTexels, memInv_entryQuery]

theorem memInv_loadOps {c w a : Nat} {m : RecMap} {p : Option Saved} {v : Wave} (h : MemInv s) :
    MemInv (loadOps s c w a m p v).1 := by
  grind [loadOps, memInv_entryOp, memInv_foldl_fst]

theorem memInv_loadSpills {a : Nat} {m : RecMap} {p : Option Saved} {v : Wave} (h : MemInv s) :
    MemInv (loadSpills s a m p v).1 := by
  grind [loadSpills, memInv_entryReqs, memInv_foldl_fst]

theorem memInv_loadAcc {c a : Nat} {m : RecMap} {zs : List Nat} {uid : Nat} {pois : List Nat} (h : MemInv s) :
    MemInv (loadAcc s c a m zs uid pois) := memInv_foldl h fun _ _ h => State.memInv_modCore h

theorem memInv_requeueMx {c : Nat} {qs : List MCmd} (h : MemInv s) : MemInv (requeueMx s c qs) :=
  memInv_foldl h fun _ _ h => State.memInv_modCore h

theorem memInv_restoreGang {a c gi ga : Nat} (h : MemInv s) : MemInv (restoreGang s a c gi ga) :=
  memInv_loadRingsX (State.memInv_modCore h)

theorem memInv_restoreWave {a c w gi : Nat} {m : RecMap} {g : Gang} {p : Option Saved} {size : Nat} (h : MemInv s) :
    MemInv (restoreWave s a c w gi m g p size) := by
  unfold restoreWave
  split <;> grind [memInv_loadOps, memInv_loadSpills, memInv_loadAcc, State.memInv_modCore, State.memInv_modGang, memInv_requeueMx,
    memInv_freePool, MemInv]

theorem memInv_restoreRecord {a : Nat} (h : MemInv s) : MemInv (restoreRecord s a).1 := by
  grind [restoreRecord, memInv_restoreGang, memInv_restoreWave]

theorem memInv_requestSave {c w : Nat} {d : Drain} (h : MemInv s) : MemInv (requestSave s c w d) := h

theorem memInv_poolRequest {c w reason q : Nat} {u : Slot} (h : MemInv s) (e : poolRequest s c w u reason q = some t) :
    MemInv t := by
  obtain ⟨f, -, rfl⟩ := Option.map_eq_some_iff.mp e
  exact memInv_requestSave h

theorem memInv_noteAsked {q c w : Nat} {l : Launch} (h : MemInv s) : MemInv (noteAsked s q c w l) := h

theorem memInv_execPreemptRequest {core wave : Nat} (h : MemInv s) (e : execPreemptRequest core wave s = .next t) : MemInv t := by
  grind [execPreemptRequest, memInv_poolRequest, memInv_noteAsked, memInv_elog, memInv_sieveCount]

theorem memInv_restoreMove {uid : Nat} (h : MemInv s) (e : restoreMove s uid = .next t) : MemInv t := by
  grind [restoreMove, memInv_restoreRecord]

/-! ### Priv -/

theorem memInv_execPsrd {f : Fields} (h : MemInv s) (e : execPsrd f s = .next t) : MemInv t := by
  refine memInv_issueWord h (fun x s h => ?_) e
  grind [memInv_privTrap, memInv_writeEnd]

theorem memInv_privPut {x : Ctx} {n : Nat} {v : W64} (h : MemInv s) : MemInv (privPut s x n v) := by
  unfold privPut
  split <;> grind [State.memInv_modWave, State.memInv_modFunc, MemInv]

theorem memInv_execPswr {f : Fields} (h : MemInv s) (e : execPswr f s = .next t) : MemInv t := by
  refine memInv_issueWord h (fun x s h => ?_) e
  grind [memInv_privTrap, State.memInv_modLane, memInv_privPut, memInv_foldl]

theorem memInv_flushTlbs {u : TlbSel} (h : MemInv s) : MemInv (flushTlbs s u) := h

theorem memInv_setOwners {f n code : Nat} (h : MemInv s) : MemInv (setOwners s f n code) := h

theorem memInv_ownSet {a n own : Nat} (h : MemInv s) : MemInv (ownSet s a n own).1 := by
  grind [ownSet, memInv_setOwners]

theorem memInv_scrubTrace {old : List Host.Cell} {w : Writer} {a n : Nat} (h : MemInv s) : MemInv (scrubTrace s old w a n) :=
  memInv_foldl h fun _ _ h => memInv_valueTrace h

theorem memInv_scrub {w : Writer} {a n : Nat} (h : MemInv s) : MemInv (scrub s w a n).1 := by
  unfold scrub
  split
  · exact h
  · exact memInv_setOwners (memInv_scrubTrace (wf_filter _ h))

theorem memInv_watchSpa {x : Ctx} {va : W64} (h : MemInv s) : MemInv (watchSpa s x va).1 := by
  grind [watchSpa, memInv_translate]

theorem memInv_wpSet {x : Ctx} {n : Nat} {a : W64} {b : W32} (h : MemInv s) : MemInv (wpSet s x n a b) := by
  grind [wpSet, memInv_watchSpa, State.memInv_modCore]

theorem memInv_execWpset {f : Fields} (h : MemInv s) (e : execWpset f s = .next t) : MemInv t := by
  refine memInv_issueWord h (fun x s h => ?_) e
  split
  · exact h
  · exact memInv_addOp (memInv_wpSet h)

theorem memInv_discardRecs {q : Nat} (h : MemInv s) : MemInv (discardRecs s q) := h

theorem memInv_withdrawQueue {q : Nat} (h : MemInv s) : MemInv (withdrawQueue s q) :=
  memInv_endWithdraw (State.memInv_modQueue (memInv_discardRecs h))

theorem memInv_markAsked {c w id : Nat} (h : MemInv s) : MemInv (markAsked s c w id) := h

theorem memInv_ctxsvStep {c w id lane : Nat} {v : Wave} {o : Op} {l : LaneOp} (h : MemInv s) :
    MemInv (ctxsvStep s c w id lane v o l) := by
  grind [ctxsvStep, memInv_finishLane, memInv_setLane, memInv_markAsked, memInv_requestSave]

theorem memInv_haltqStep {c w id lane : Nat} {o : Op} {l : LaneOp} (h : MemInv s) (e : haltqStep s c w id lane o l = some t) :
    MemInv t := by
  grind [haltqStep, memInv_finishLane, State.memInv_modQueue, memInv_markAsked, memInv_withdrawQueue]

theorem memInv_invStep {c w id lane : Nat} {o : Op} {u : TlbSel} (h : MemInv s) (e : invStep s c w id lane o u = some t) :
    MemInv t := by
  unfold invStep at e
  split at e
  · cases e
    exact memInv_finishLane (memInv_flushTlbs h)
  · cases e

theorem memInv_privOnce {c w id lane : Nat} {v : Wave} {o : Op} {l : LaneOp} (h : MemInv s)
    (e : privOnce s c w id lane v o l = some t) : MemInv t := by
  grind [privOnce, memInv_finishLane, memInv_ctxsvStep, memInv_restoreRecord, memInv_invStep, memInv_ownSet, memInv_haltqStep,
    memInv_scrub]

/-! ### Parts -/

theorem memInv_returnHeld {c : Nat} (h : MemInv s) : MemInv (returnHeld s c) := by
  grind [returnHeld, State.memInv_modCard, State.memInv_modCore, memInv_foldl]

theorem memInv_passCore {c f : Nat} (h : MemInv s) : MemInv (passCore s c f) :=
  State.memInv_modCluster (State.memInv_modCore (memInv_returnHeld h))

theorem memInv_settleCores (h : MemInv s) : MemInv (settleCores s) := by
  grind [settleCores, memInv_passCore, State.memInv_modCore, memInv_returnHeld, memInv_foldl]

theorem memInv_sliceFor {f : Nat} (h : MemInv s) : MemInv (sliceFor s f) := by
  grind [sliceFor, MemInv]

theorem memInv_applyFunc {f : Nat} {x : Func} (h : MemInv s) : MemInv (applyFunc s f x) :=
  memInv_settleCores (memInv_sliceFor (State.memInv_modFunc h))

theorem memInv_execFset {vf : Nat} (h : MemInv s) (e : execFset vf s = .next t) : MemInv t := by
  grind [execFset, memInv_mailRequest, memInv_applyFunc]

theorem memInv_execTimesliceSwitch (h : MemInv s) (e : execTimesliceSwitch s = .next t) : MemInv t := by
  grind [execTimesliceSwitch, memInv_returnHeld, memInv_foldl, MemInv]

theorem memInv_execTimesliceCorePass {core : Nat} (h : MemInv s) (e : execTimesliceCorePass core s = .next t) : MemInv t := by
  grind [execTimesliceCorePass, memInv_passCore, MemInv]

theorem memInv_restartRings {tag : Nat} (h : MemInv s) : MemInv (restartRings s tag) :=
  memInv_foldl h fun _ _ h => State.memInv_modSlice h

theorem memInv_applyWorld {i : Nat} {w : World} (h : MemInv s) : MemInv (applyWorld s i w) := by
  grind [applyWorld, memInv_withdrawWorld, memInv_clearGrant, memInv_restartRings, memInv_foldl, MemInv]

theorem memInv_execWset {vf : Nat} (h : MemInv s) (e : execWset vf s = .next t) : MemInv t := by
  grind [execWset, memInv_mailRequest, memInv_applyWorld]

theorem memInv_claimBank {f : Nat} {k : Bool} {c slot : Nat} {codes : List Nat} (h : MemInv s) :
    MemInv (claimBank s f k c slot codes).1 := by
  grind [claimBank, State.memInv_modCluster]

theorem memInv_claimUnit {f : Nat} {k : Bool} (h : MemInv s) : MemInv (claimUnit s f k).1 := by
  grind [claimUnit, MemInv]

theorem memInv_execDbgclaim {vf : Nat} (h : MemInv s) (e : execDbgclaim vf s = .next t) : MemInv t := by
  grind [execDbgclaim, memInv_mailRequest, memInv_claimBank, memInv_claimUnit]

theorem memInv_freeBank {f : Nat} {k : Bool} {c slot : Nat} (h : MemInv s) : MemInv (freeBank s f k c slot).1 := by
  grind [freeBank, State.memInv_modCluster]

theorem memInv_freeUnit {f : Nat} {k : Bool} (h : MemInv s) : MemInv (freeUnit s f k).1 := by
  grind [freeUnit, MemInv]

theorem memInv_execDbgfree {vf : Nat} (h : MemInv s) (e : execDbgfree vf s = .next t) : MemInv t := by
  grind [execDbgfree, memInv_mailRequest, memInv_freeBank, memInv_freeUnit]

theorem memInv_startWith (h : MemInv s) : MemInv (startWith s) := by
  unfold startWith
  dsimp only
  split
  · exact h
  split
  · exact h
  · exact memInv_applyFunc (wf_filter _ h)

theorem memInv_startPut {value : W32} (h : MemInv s) : MemInv (startPut s value) := by
  unfold startPut
  split
  · exact h
  split
  · exact h
  · exact memInv_startWith h

theorem memInv_execStart {value : W32} (h : MemInv s) (e : execStart value s = .next t) : MemInv t := by
  cases e
  exact memInv_startPut h

/-! ### Debug -/

theorem memInv_flushWatches {c w : Nat} {u : Slot} (h : MemInv s) : MemInv (flushWatches s c w u) := by
  grind [flushWatches, State.memInv_modSlot, memInv_debugRecord, memInv_foldl]

theorem memInv_execWavePark {core wave : Nat} (h : MemInv s) (e : execWavePark core wave s = .next t) : MemInv t := by
  grind [execWavePark, memInv_debugRecord, memInv_flushWatches, State.memInv_modSlot]

theorem memInv_stopReq {f : Nat} {v : W64} (h : MemInv s) : MemInv (stopReq s f v) := by
  unfold stopReq
  split
  · exact h
  split
  · exact memInv_dueStopAll h
  · exact h

theorem memInv_resumeReq {f : Nat} {v : W64} (h : MemInv s) : MemInv (resumeReq s f v) := by
  grind [resumeReq, State.memInv_modSlot]

theorem memInv_execStopreq {vf : Nat} {value : W64} (h : MemInv s) (e : execStopreq vf value s = .next t) : MemInv t := by
  cases e
  exact memInv_stopReq h

theorem memInv_execResume {vf : Nat} {value : W64} (h : MemInv s) (e : execResume vf value s = .next t) : MemInv t := by
  cases e
  exact memInv_resumeReq h

theorem memInv_clearLost {f : Nat} (h : MemInv s) : MemInv (clearLost s f) := h

theorem memInv_execLost {vf : Nat} (h : MemInv s) (e : execLost vf s = .next t) : MemInv t := by
  cases e
  exact memInv_clearLost h

theorem memInv_armVtr {f r : Nat} (h : MemInv s) : MemInv (armVtr s f r) := h

theorem memInv_execVtrArm {vf region : Nat} (h : MemInv s) (e : execVtrArm vf region s = .next t) : MemInv t := by
  unfold execVtrArm at e
  split at e
  · cases e
    exact memInv_armVtr h
  · cases e
    exact h

theorem memInv_dbgPut {f off : Nat} {w : W32} (h : MemInv s) : MemInv (dbgPut s f off w) := by
  unfold dbgPut
  (repeat' split)
  any_goals exact h

/-! ### Alarm -/

theorem memInv_fireAlarm {src : Nat} (h : MemInv s) : MemInv (fireAlarm s src) := by
  grind [fireAlarm, memInv_elog, MemInv]

theorem memInv_execVglitch (h : MemInv s) (e : execVglitch s = .next t) : MemInv t := by
  cases e
  exact memInv_fireAlarm h

theorem memInv_execCglitch (h : MemInv s) (e : execCglitch s = .next t) : MemInv t := by
  cases e
  exact memInv_fireAlarm h

theorem memInv_execLid (h : MemInv s) (e : execLid s = .next t) : MemInv t := by
  cases e
  exact memInv_fireAlarm h

theorem memInv_execTherm (h : MemInv s) (e : execTherm s = .next t) : MemInv t := by
  cases e
  exact memInv_fireAlarm h

theorem memInv_putAlarmPol {w : W32} (h : MemInv s) : MemInv (putAlarmPol s w) := h

theorem memInv_execAlarmpolWrite {value : W32} (h : MemInv s) (e : execAlarmpolWrite value s = .next t) : MemInv t := by
  cases e
  exact memInv_putAlarmPol h

theorem memInv_fwCommit {w : W32} (h : MemInv s) : MemInv (fwCommit s w) := by
  grind [fwCommit, memInv_fireAlarm, MemInv]

theorem memInv_execFwcommit {value : W32} (h : MemInv s) (e : execFwcommit value s = .next t) : MemInv t := by
  cases e
  exact memInv_fwCommit h

theorem memInv_onDoe {pf : Nat} (h : MemInv s) (e : onDoe pf s = .next t) : MemInv t := by
  unfold onDoe at e
  split at e
  · cases e
    exact h
  · cases e

theorem memInv_spdmSend {pf code : Nat} {body : List Nat} (h : MemInv s) : MemInv (spdmSend s pf code body) := h

theorem memInv_spdmError {pf code : Nat} (h : MemInv s) : MemInv (spdmError s pf code) := h

theorem memInv_spdmAfter {pf : Nat} (h : MemInv s) (ht : MemInv t) : MemInv (spdmAfter s pf t) := by
  unfold spdmAfter
  split
  · exact ht
  · exact memInv_spdmError h

theorem memInv_spdmSigned {pf code : Nat} {b : List Nat} (h : MemInv s) : MemInv (spdmSigned s pf code b) := by
  unfold spdmSigned
  split
  · exact memInv_spdmError h
  · exact memInv_spdmSend h

theorem memInv_execGetVersion {pf : Nat} (h : MemInv s) (e : execGetVersion pf s = .next t) : MemInv t := by
  grind [execGetVersion, memInv_onDoe, State.memInv_send, MemInv]

theorem memInv_execGetCapabilities {pf : Nat} (h : MemInv s) (e : execGetCapabilities pf s = .next t) : MemInv t :=
  memInv_onDoe (memInv_spdmSend h) e

theorem memInv_execNegotiateAlgorithms {pf : Nat} (h : MemInv s) (e : execNegotiateAlgorithms pf s = .next t) : MemInv t := by
  grind [execNegotiateAlgorithms, memInv_onDoe, memInv_spdmSend, MemInv]

theorem memInv_execGetDigests {pf : Nat} (h : MemInv s) (e : execGetDigests pf s = .next t) : MemInv t := by
  grind [execGetDigests, memInv_onDoe, memInv_spdmAfter, memInv_spdmSend]

theorem memInv_execGetCertificate {pf slot offset length : Nat} (h : MemInv s)
    (e : execGetCertificate pf slot offset length s = .next t) : MemInv t := by
  grind [execGetCertificate, memInv_onDoe, memInv_spdmAfter, memInv_spdmError, memInv_spdmSend]

theorem memInv_execChallenge {pf slot _nonce : Nat} (h : MemInv s) (e : execChallenge pf slot _nonce s = .next t) : MemInv t := by
  grind [execChallenge, memInv_onDoe, memInv_spdmAfter, memInv_spdmError, memInv_spdmSigned]

theorem memInv_execGetMeasurements {pf index : Nat} {signed : Bool} {_nonce : Nat} (h : MemInv s)
    (e : execGetMeasurements pf index signed _nonce s = .next t) : MemInv t := by
  grind [execGetMeasurements, memInv_onDoe, memInv_spdmAfter, memInv_spdmError, memInv_spdmSigned, memInv_spdmSend]

theorem memInv_spdmOther {pf code : Nat} (h : MemInv s) (e : spdmOther s pf code = .next t) : MemInv t := by
  unfold spdmOther at e
  split at e
  · cases e
  · exact memInv_onDoe (memInv_spdmError h) e

theorem memInv_execDebugUnlockChallenge {ok : Bool} (h : MemInv s) (e : execDebugUnlockChallenge ok s = .next t) : MemInv t := by
  grind [execDebugUnlockChallenge, memInv_fireAlarm, MemInv]

theorem memInv_execDoeDiscovery {pf index : Nat} (h : MemInv s) (e : execDoeDiscovery pf index s = .next t) : MemInv t :=
  memInv_onDoe (State.memInv_send h) e

theorem memInv_stackCount {n : Nat} {bad : Bool} (h : MemInv s) : MemInv (stackCount s n bad) := h

theorem memInv_execHbmEccError {spa : Nat} {uncorrectable : Bool} (h : MemInv s)
    (e : execHbmEccError spa uncorrectable s = .next t) : MemInv t := by
  grind [execHbmEccError, memInv_stackCount, memInv_selfWrite, memInv_elog, MemInv]

theorem memInv_coreEcc {c : Nat} {bad : Bool} (h : MemInv s) : MemInv (coreEcc s c bad) := h

theorem memInv_poisonReg {c w cls i : Nat} (h : MemInv s) : MemInv (poisonReg s c w cls i) := by
  unfold poisonReg
  split <;> grind [State.memInv_modWave, State.memInv_modCore]

theorem memInv_zeroReg {c w cls i : Nat} (h : MemInv s) : MemInv (zeroReg s c w cls i) := h

theorem memInv_poisonLocal {c buf gang w : Nat} (h : MemInv s) : MemInv (poisonLocal s c buf gang w) := by
  unfold poisonLocal
  split <;> grind [State.memInv_modGang, State.memInv_modCore]

theorem memInv_llcEcc {bad : Bool} (h : MemInv s) : MemInv (llcEcc s bad) := h

theorem memInv_execSramEccError {site : SramSite} {uncorrectable : Bool} (h : MemInv s)
    (e : execSramEccError site uncorrectable s = .next t) : MemInv t := by
  unfold execSramEccError at e
  split at e <;> grind [memInv_coreEcc, memInv_llcEcc, memInv_elog, memInv_poisonReg, memInv_zeroReg, memInv_poisonLocal,
    memInv_dropEntry, MemInv]

theorem memInv_readyEvent (h : MemInv s) : MemInv (readyEvent s) := memInv_msixEvent h

theorem memInv_execStackTrained {stack : Nat} (h : MemInv s) (e : execStackTrained stack s = .next t) : MemInv t := by
  unfold execStackTrained at e
  split at e
  · cases e
  · cases e
    split
    · exact memInv_startWith (memInv_readyEvent (wf_filter _ h))
    · exact memInv_readyEvent (wf_filter _ h)

theorem memInv_coreReady {c : Nat} (h : MemInv s) : MemInv (coreReady s c) := h

theorem memInv_execUnitReady {unit : ReadyUnit} (h : MemInv s) (e : execUnitReady unit s = .next t) : MemInv t := by
  unfold execUnitReady at e
  split at e <;> grind [memInv_readyEvent, State.memInv_modSlice, memInv_coreReady, MemInv]

theorem memInv_execReset (e : execReset s = .next t) : MemInv t := by
  unfold execReset at e
  split at e
  · cases e
  · cases e
    exact memInv_reset

theorem memInv_execOvertempShutdown (e : execOvertempShutdown s = .next t) : MemInv t := by
  cases e
  exact memInv_reset

theorem memInv_execPowerLoss (e : execPowerLoss s = .next t) : MemInv t := by
  cases e
  exact memInv_reset

/-! ### Control -/

theorem memInv_actAtEnd {x : Ctx} {f : Fields} {a : Nat → EndAct} (h : MemInv s) : MemInv (actAtEnd x f a s) := h

theorem memInv_writeLink {x : Ctx} {f : Fields} (h : MemInv s) : MemInv (writeLink x f s) := memInv_writeEnd h

theorem memInv_execNop {f : Fields} (h : MemInv s) (e : execNop f s = .next t) : MemInv t := memInv_issueWord h (fun _ _ h => h) e

theorem memInv_execBra {f : Fields} (h : MemInv s) (e : execBra f s = .next t) : MemInv t :=
  memInv_issueWord h (fun _ _ h => memInv_actAtEnd h) e

theorem memInv_execBrx {f : Fields} (h : MemInv s) (e : execBrx f s = .next t) : MemInv t :=
  memInv_issueWord h (fun _ _ h => memInv_actAtEnd h) e

theorem memInv_execCall {f : Fields} (h : MemInv s) (e : execCall f s = .next t) : MemInv t :=
  memInv_issueWord h (fun _ _ h => memInv_writeLink (memInv_actAtEnd h)) e

theorem memInv_execCallx {f : Fields} (h : MemInv s) (e : execCallx f s = .next t) : MemInv t :=
  memInv_issueWord h (fun _ _ h => memInv_writeLink (memInv_actAtEnd h)) e

theorem memInv_execRet {f : Fields} (h : MemInv s) (e : execRet f s = .next t) : MemInv t :=
  memInv_issueWord h (fun _ _ h => memInv_actAtEnd h) e

theorem memInv_execExit {f : Fields} (h : MemInv s) (e : execExit f s = .next t) : MemInv t :=
  memInv_issueWord h (fun _ _ h => memInv_actAtEnd h) e

theorem memInv_execTrap {f : Fields} (h : MemInv s) (e : execTrap f s = .next t) : MemInv t :=
  memInv_issueWord h (fun _ _ h => memInv_actAtEnd h) e

theorem memInv_execBrk {f : Fields} (h : MemInv s) (e : execBrk f s = .next t) : MemInv t := by
  refine memInv_issueWord h (fun x s h => ?_) e
  split
  · exact memInv_actAtEnd h
  · exact h

theorem memInv_execRte {f : Fields} (h : MemInv s) (e : execRte f s = .next t) : MemInv t :=
  memInv_issueWord h (fun _ _ h => memInv_actAtEnd h) e

theorem memInv_execSrd {f : Fields} (h : MemInv s) (e : execSrd f s = .next t) : MemInv t :=
  memInv_issueWord h (fun _ _ h => memInv_writeEnd h) e

theorem memInv_swr {f : Fields} {g : BitVec 8 → BitVec 8 → BitVec 8} (h : MemInv s) (e : swr f s g = .next t) : MemInv t := by
  refine memInv_issueWord h (fun x s h => ?_) e
  split
  · exact h
  · exact State.memInv_modWave h

/-! ### IntAlu -/

theorem memInv_carryWord {op : Nat} {f : Fields} {g : Int → Int → Int → Int} {c : Int → Bool} (h : MemInv s)
    (e : carryWord op f s g c = .next t) : MemInv t := memInv_issueWord h (fun _ _ h => memInv_writeFile (memInv_writeNow h)) e

theorem memInv_satWord {op : Nat} {f : Fields} {g : Int → Int → Int} (h : MemInv s) (e : satWord op f s g = .next t) : MemInv t :=
  memInv_issueWord h (fun _ _ h => memInv_orExc (memInv_writeNow h)) e

theorem memInv_execMovt {f : Fields} (h : MemInv s) (e : execMovt f s = .next t) : MemInv t :=
  memInv_issueWord h (fun _ _ h => memInv_writeNow h) e

theorem memInv_execS2p {f : Fields} (h : MemInv s) (e : execS2p f s = .next t) : MemInv t :=
  memInv_issueWord h (fun _ _ h => memInv_writeFile h) e

/-! ### Lanes -/

theorem memInv_vote {op : Nat} {f : Fields} {g : List Bool → Bool} (h : MemInv s) (e : vote op f s g = .next t) : MemInv t :=
  memInv_issueWord h (fun _ _ h => memInv_writeEnd h) e

theorem memInv_execVballot {f : Fields} (h : MemInv s) (e : execVballot f s = .next t) : MemInv t :=
  memInv_issueWord h (fun _ _ h => memInv_writeEnd h) e

theorem memInv_execVmatch {f : Fields} (h : MemInv s) (e : execVmatch f s = .next t) : MemInv t :=
  memInv_issueWord h (fun _ _ h => memInv_writeEnd h) e

theorem memInv_exchange {op : Nat} {f : Fields} {src : Nat → Nat → W32 → Option Nat} (h : MemInv s)
    (e : exchange op f s src = .next t) : MemInv t := memInv_issueWord h (fun _ _ h => memInv_writeEnd h) e

theorem memInv_execRdlane {f : Fields} (h : MemInv s) (e : execRdlane f s = .next t) : MemInv t :=
  memInv_issueWord h (fun _ _ h => memInv_writeEnd h) e

/-! ### Regs -/

theorem memInv_reply {f stage : Nat} {seq : W32} {refuse : Bool} (h : MemInv s) : MemInv (reply s f stage seq refuse) := by
  unfold reply
  split
  · exact h
  split
  · exact State.memInv_modErr h
  · exact memInv_flushRequests h

theorem memInv_execStage1ReplyRetry {vf : Nat} {seq : W32} (h : MemInv s) (e : execStage1ReplyRetry vf seq s = .next t) :
    MemInv t := by
  cases e
  exact memInv_reply h

theorem memInv_execStage1ReplyRefuse {vf : Nat} {seq : W32} (h : MemInv s) (e : execStage1ReplyRefuse vf seq s = .next t) :
    MemInv t := by
  cases e
  exact memInv_reply h

theorem memInv_execStage2ReplyRetry {vf : Nat} {seq : W32} (h : MemInv s) (e : execStage2ReplyRetry vf seq s = .next t) :
    MemInv t := by
  cases e
  exact memInv_reply h

theorem memInv_execStage2ReplyRefuse {vf : Nat} {seq : W32} (h : MemInv s) (e : execStage2ReplyRefuse vf seq s = .next t) :
    MemInv t := by
  cases e
  exact memInv_reply h

theorem memInv_replyBytes {f stage : Nat} {b : List Byte} (h : MemInv s) : MemInv (replyBytes s f stage b) := by
  grind [replyBytes, State.memInv_modErr, memInv_reply]

theorem memInv_invRegister {f : Nat} {pages : W32} (h : MemInv s) : MemInv (invRegister s f pages) := h

theorem memInv_execInvalidationRegister {vf : Nat} {va : W64} {pages : W32} (h : MemInv s)
    (e : execInvalidationRegister vf va pages s = .next t) : MemInv t := by
  cases e
  exact memInv_invRegister (State.memInv_modFunc h)

theorem memInv_confPut {off : Nat} {w : W32} (h : MemInv s) : MemInv (confPut s off w) := by
  refine memInv_ite (memInv_ite h ?base) <| memInv_ite h <| memInv_ite h <| memInv_ite (memInv_startPut h) <| memInv_ite h <|
    memInv_ite h <| memInv_ite (memInv_fwCommit h) <| memInv_ite (memInv_ite h h) <| memInv_ite h <| memInv_ite h <| memInv_ite h h
  case base => split <;> exact h

theorem memInv_msixPut {f off : Nat} {w : W32} (h : MemInv s) : MemInv (msixPut s f off w) := by
  grind [msixPut, State.memInv_modFunc, memInv_msixEvent]

theorem memInv_msixFlush {f : Nat} (h : MemInv s) : MemInv (msixFlush s f) := by
  grind [msixFlush, memInv_msixEvent, State.memInv_modFunc, memInv_foldl]

theorem memInv_msixControl {f : Nat} {en mask : Bool} (h : MemInv s) : MemInv (msixControl s f en mask) := by
  unfold msixControl
  split
  · exact memInv_msixFlush h
  · exact h

theorem State.memInv_modMbox {f : Nat} {g : Mailbox → Mailbox} (h : MemInv s) : MemInv (s.modMbox f g) := h

theorem memInv_blockPut {f : Nat} {k : Bool} {off : Nat} {w : W32} (h : MemInv s) : MemInv (blockPut s f k off w) := by
  grind [blockPut, State.memInv_modMbox, memInv_submitAt, memInv_invRegister, memInv_dbgPut, memInv_ring, memInv_msixPut,
    memInv_confPut]

theorem memInv_replyPut {f off : Nat} {b : List Byte} (h : MemInv s) : MemInv (replyPut s f off b) := by
  unfold replyPut
  dsimp only
  split
  · exact h
  · exact memInv_replyBytes h

theorem memInv_regWrite {f : Nat} {k : Bool} {off : Nat} {b : List Byte} (h : MemInv s) : MemInv (regWrite s f k off b) := by
  grind [regWrite, memInv_replyPut, memInv_stopReq, memInv_resumeReq, memInv_blockPut, memInv_foldl]

theorem memInv_execRegisterWrite {vf off : Nat} {bytes : List Byte} (h : MemInv s)
    (e : execRegisterWrite vf off bytes s = .next t) : MemInv t := by
  unfold execRegisterWrite at e
  split at e
  · cases e
  · cases e
    split
    · exact memInv_regWrite h
    · exact memInv_refuseOwner h

theorem memInv_bar2At {f addr bits : Nat} (h : MemInv s) : MemInv (bar2At s f addr bits).1 := by
  grind [bar2At, memInv_translateGpa, memInv_refuseOwner]

theorem memInv_execHostWrite {vf addr : Nat} {bytes : List Byte} (h : MemInv s) (e : execHostWrite vf addr bytes s = .next t) :
    MemInv t := by
  grind [execHostWrite, memInv_bar2At, memInv_homeWrite, memInv_watchSlice, memInv_foldl]

theorem memInv_hostPart {f a n : Nat} (h : MemInv s) : MemInv (hostPart s f a n).1 := by
  grind [hostPart, memInv_bar2At, memInv_homeTouches, MemInv]

theorem memInv_execHostRead {bar vf addr n : Nat} (h : MemInv s) (e : execHostRead bar vf addr n s = .next t) : MemInv t := by
  grind [execHostRead, State.memInv_send, memInv_refuseOwner, memInv_hostPart, memInv_foldl_fst]

theorem memInv_execMsixIntervalEnd {vf vector : Nat} (h : MemInv s) (e : execMsixIntervalEnd vf vector s = .next t) : MemInv t := by
  grind [execMsixIntervalEnd, State.memInv_modMbox, memInv_msixEvent]

theorem memInv_execVfEnable {pf numVFs : Nat} (h : MemInv s) (e : execVfEnable pf numVFs s = .next t) : MemInv t := by
  grind [execVfEnable, State.memInv_send, MemInv]

/-! ### Drain -/

theorem memInv_failAccess {c w id lane code sub : Nat} {aux2 : W32} (h : MemInv s) :
    MemInv (failAccess s c w id lane code sub aux2) := by
  grind [failAccess, memInv_texFail, memInv_failLane, memInv_queryDropped]

theorem memInv_engFailed {c kind cmd chunk : Nat} {more : List Nat} {code : Nat} (h : MemInv s) :
    MemInv (engFailed s c kind cmd chunk more code) := by
  unfold engFailed
  split <;> grind [State.memInv_modCore, memInv_modQuery, State.memInv_modErr, MemInv]

theorem memInv_ackWrite {c : Nat} {e' : WqEntry} (h : MemInv s) : MemInv (ackWrite s c e') := by
  unfold ackWrite
  split
  · exact memInv_foldl h fun _ _ h => memInv_finishLane h
  · exact h

theorem memInv_failWrite {c : Nat} {e' : WqEntry} {code sub engCode : Nat} {aux2 : W32} (h : MemInv s) :
    MemInv (failWrite s c e' code sub engCode aux2) := by
  grind [failWrite, memInv_dropL1, memInv_engFailed, memInv_failAccess, memInv_foldl]

theorem memInv_carryPoison {a : Nat} {p : List Nat} (h : MemInv s) : MemInv (carryPoison s a p) := by
  unfold carryPoison
  split <;> exact h

theorem memInv_performWrite {c : Nat} {e' : WqEntry} (h : MemInv s) : MemInv (performWrite s c e') := by
  grind [performWrite, memInv_ackWrite, memInv_carryPoison, memInv_homeWriteBy, memInv_failWrite, memInv_refuseOwner,
    memInv_portWrite, memInv_sendReq, memInv_setLane, memInv_regWrite, memInv_foldl]

theorem memInv_drainStep {c id : Nat} (h : MemInv s) (e : drainStep s c id = some t) : MemInv t := by
  unfold drainStep at e
  split at e
  · cases e
  split at e
  · cases e
  · cases e
    exact memInv_performWrite (State.memInv_modCore h)

/-! ### Perform -/

theorem memInv_keepLane {c w id lane : Nat} {ws : List RegWrite} {e' : Exc} (h : MemInv s) :
    MemInv (keepLane s c w id lane ws e') := h

theorem memInv_deliver {c w id : Nat} {o : Op} {l : LaneOp} {vf : Nat} {b : List Byte} {bad : Bool} (h : MemInv s) :
    MemInv (deliver s c w id o l vf b bad) := by
  grind [deliver, memInv_poisonSeen, State.memInv_modWave, memInv_jobpostGot, memInv_keepLane, memInv_queryLoaded]

theorem memInv_settleLane {c w id lane : Nat} (h : MemInv s) : MemInv (settleLane s c w id lane) := by
  grind [settleLane, memInv_texFinish, memInv_finishLane]

theorem memInv_refuseAt {c w id lane vf a : Nat} (h : MemInv s) : MemInv (refuseAt s c w id lane vf a) :=
  memInv_failAccess (memInv_refuseOwner h)

theorem memInv_loadHbm {c w id : Nat} {v : Wave} {o : Op} {l : LaneOp} {a : Nat} {heap : Bool} (h : MemInv s)
    (e : loadHbm s c w id v o l a heap = some t) : MemInv t := by
  grind [loadHbm, memInv_failAccess, memInv_refuseAt, memInv_deliver, memInv_homeTouch, memInv_dropL1, memInv_settleLane,
    memInv_coreRead, memInv_foldl]

theorem memInv_loadPort {c w id : Nat} {v : Wave} {o : Op} {l : LaneOp} {port : Nat} (h : MemInv s) :
    MemInv (loadPort s c w id v o l port) := by
  grind [loadPort, memInv_deliver, memInv_portRead, memInv_settleLane, memInv_foldl]

theorem memInv_loadPeer {c w id : Nat} {v : Wave} {o : Op} {l : LaneOp} {node r : Nat} (h : MemInv s)
    (e : loadPeer s c w id v o l node r = some t) : MemInv t := by
  grind [loadPeer, memInv_failAccess, memInv_sendReq, memInv_setLane, memInv_foldl]

theorem memInv_loadBlock {c w id : Nat} {v : Wave} {o : Op} {l : LaneOp} {f : Nat} (h : MemInv s)
    (e : loadBlock s c w id v o l f = some t) : MemInv t := by
  grind [loadBlock, memInv_deliver, memInv_refuseAt, memInv_settleLane, memInv_foldl]

theorem memInv_failWindow {c w id lane : Nat} {r : WinRes} (h : MemInv s) : MemInv (failWindow s c w id lane r) := by
  unfold failWindow
  split <;> grind [memInv_failAccess]

theorem memInv_loadWindow {c w id : Nat} {v : Wave} {o : Op} {l : LaneOp} {a : Nat} (h : MemInv s)
    (e : loadWindow s c w id v o l a = some t) : MemInv t := by
  grind [loadWindow, memInv_failAccess, memInv_failWindow, memInv_deliver, memInv_settleLane, memInv_foldl]

theorem memInv_loadStep {c w id : Nat} {v : Wave} {o : Op} {l : LaneOp} (h : MemInv s) (e : loadStep s c w id v o l = some t) :
    MemInv t := by
  grind [loadStep, memInv_loadHbm, memInv_loadPort, memInv_loadPeer, memInv_loadBlock, memInv_loadWindow, memInv_failAccess]

theorem memInv_storeStep {c w id : Nat} {v : Wave} {o : Op} {l : LaneOp} (h : MemInv s) (e : storeStep s c w id v o l = some t) :
    MemInv t := by
  grind [storeStep, memInv_failAccess, memInv_winStore, memInv_failWindow, memInv_finishLane, memInv_storeGo]

theorem memInv_atomEnd {c w id : Nat} {o : Op} {l : LaneOp} {r : AtomRes} (h : MemInv s) : MemInv (atomEnd s c w id o l r) :=
  memInv_finishLane h

theorem memInv_atomPoisoned {c w id : Nat} {v : Wave} {o : Op} {l : LaneOp} (h : MemInv s) : MemInv (atomPoisoned s c w id v o l) :=
  memInv_finishLane (memInv_poisonSeen h)

theorem memInv_specBegin {c w : Nat} {v : Wave} {o : Op} {l : LaneOp} {a old : Nat} (h : MemInv s) :
    MemInv (specBegin s c w v o l a old) := h

theorem memInv_specEnd {c w id : Nat} {v : Wave} {o : Op} {l : LaneOp} {old : Nat} (h : MemInv s) :
    MemInv (specEnd s c w id v o l old) := by
  grind [specEnd, memInv_refuseAt, memInv_homeWrite, memInv_atomEnd, memInv_watchSlice, MemInv]

theorem memInv_atomHbm {c w id : Nat} {v : Wave} {o : Op} {l : LaneOp} {a : Nat} (h : MemInv s)
    (e : atomHbm s c w id v o l a = some t) : MemInv t := by
  grind [atomHbm, memInv_refuseAt, memInv_setLane, State.memInv_modCluster, memInv_atomPoisoned, memInv_homeTouch, memInv_dropL1,
    memInv_specBegin, memInv_homeWrite, memInv_atomEnd, memInv_watchSlice]

theorem memInv_atomPort {c w id : Nat} {v : Wave} {o : Op} {l : LaneOp} {port a : Nat} (h : MemInv s)
    (e : atomPort s c w id v o l port a = some t) : MemInv t := by
  grind [atomPort, memInv_portRead, memInv_portWrite, memInv_atomEnd]

theorem memInv_atomPeer {c w id : Nat} {v : Wave} {o : Op} {l : LaneOp} {node r : Nat} (h : MemInv s)
    (e : atomPeer s c w id v o l node r = some t) : MemInv t := by
  grind [atomPeer, memInv_failAccess, memInv_sendReq, memInv_setLane]

theorem memInv_atomRegs {c w id : Nat} {v : Wave} {o : Op} {l : LaneOp} {f off : Nat} (h : MemInv s) :
    MemInv (atomRegs s c w id v o l f off) := by
  grind [atomRegs, memInv_regWrite, memInv_atomEnd, memInv_refuseAt]

theorem memInv_atomStep {c w id : Nat} {v : Wave} {o : Op} {l : LaneOp} (h : MemInv s) (e : atomStep s c w id v o l = some t) :
    MemInv t := by
  grind [atomStep, memInv_atomHbm, memInv_atomPort, memInv_atomPeer, memInv_atomRegs, memInv_failAccess]

theorem memInv_localStep {c w id lane : Nat} {v : Wave} {o : Op} {b : Buf} (h : MemInv s)
    (e : localStep s c w id lane v o b = some t) : MemInv t := by
  grind [localStep, memInv_localAll, State.memInv_modWave, memInv_finishLane]

theorem memInv_relook {c : Nat} {v : Wave} {o : Op} {l : LaneOp} {fresh : Bool} (h : MemInv s) :
    MemInv (relook s c v o l fresh).1 := by
  grind [relook, memInv_lookRegion, memInv_placeLane]

theorem memInv_replace {c w id : Nat} {v : Wave} {o : Op} {l : LaneOp} {fresh : Bool} (h : MemInv s) :
    MemInv (replace s c w id v o l fresh) := by
  grind [replace, memInv_relook, memInv_freeLog, memInv_failAccess, State.memInv_modWave, memInv_takeLog, memInv_kickStore]

theorem memInv_replayLane {c w id lane : Nat} (h : MemInv s) : MemInv (replayLane s c w id lane) := by
  unfold replayLane
  split <;> grind [memInv_failAccess, memInv_replace]

theorem memInv_replayStep {c w id : Nat} {o : Op} (h : MemInv s) (e : replayStep s c w id o = some t) : MemInv t := by
  unfold replayStep at e
  split at e
  · cases e
  · cases e
    exact memInv_foldl h fun _ _ h => memInv_replayLane h

theorem memInv_behindStep {c w id : Nat} {v : Wave} {o : Op} {l : LaneOp} (h : MemInv s) (e : behindStep s c w id v o l = some t) :
    MemInv t := by
  unfold behindStep at e
  split at e
  · cases e
  · cases e
    exact memInv_replace h

theorem memInv_knownStep {c w id lane : Nat} {v : Wave} {o : Op} {l : LaneOp} (h : MemInv s)
    (e : knownStep s c w id lane v o l = some t) : MemInv t := by
  grind [knownStep, memInv_jobpostStep, memInv_texFinish, memInv_stkOnce, memInv_privOnce, memInv_finishLane]

theorem memInv_atomRelease {c w id : Nat} {v : Wave} {o : Op} (h : MemInv s) (e : atomRelease s c w id v o = some t) :
    MemInv t := by
  grind [atomRelease, State.memInv_modWave]

theorem memInv_atomRelease_bind {c w id : Nat} {v : Wave} {o : Op} {g : State → Option State} (h : MemInv s)
    (hg : ∀ s, MemInv s → g s = some t → MemInv t) (e : (atomRelease s c w id v o).bind g = some t) : MemInv t := by
  obtain ⟨u, hu, e⟩ := Option.bind_eq_some_iff.mp e
  exact hg u (memInv_atomRelease h hu) e

theorem memInv_readyStep {c w id lane : Nat} {v : Wave} {o : Op} {l : LaneOp} (h : MemInv s)
    (e : readyStep s c w id lane v o l = some t) : MemInv t := by
  unfold readyStep at e
  (repeat' split at e)
  any_goals cases e
  · exact memInv_finishLane (memInv_acquireAt h)
  · exact memInv_exportStep h e
  · exact memInv_queueStep h
  · exact memInv_atomRelease_bind h (fun s h e => memInv_localStep h e) e
  · exact memInv_atomRelease_bind h (fun s h e => memInv_atomStep h e) e
  · exact memInv_storeStep h e
  · exact memInv_loadStep h e

theorem memInv_laneStep {c w id lane : Nat} {v : Wave} {o : Op} {l : LaneOp} (h : MemInv s)
    (e : laneStep s c w id lane v o l = some t) : MemInv t := by
  grind [laneStep, memInv_specEnd, memInv_knownStep, memInv_replayStep, memInv_behindStep, memInv_drainStep, memInv_readyStep]

theorem memInv_execMemoryOpComplete {core wave op lane : Nat} (h : MemInv s)
    (e : execMemoryOpComplete core wave op lane s = .next t) : MemInv t := by
  unfold execMemoryOpComplete at e
  grind [memInv_openGates, memInv_laneStep]

theorem memInv_quantEnd {q : QuantAdd} {base : Nat} (h : MemInv s) : MemInv (quantEnd s q base) := by
  unfold quantEnd
  split
  · exact h
  · exact memInv_finishLane h

theorem memInv_quantPoisoned {q : QuantAdd} (h : MemInv s) : MemInv (quantPoisoned s q) := by
  grind [quantPoisoned, memInv_atomPoisoned]

theorem memInv_quantDo {qs : List QuantAdd} {q : QuantAdd} (h : MemInv s) : MemInv (quantDo s qs q) := by
  grind [quantDo, memInv_dropL1, memInv_homeWrite, memInv_watchSlice, memInv_quantEnd, memInv_foldl, MemInv]

theorem memInv_execQuantumGather {cluster : Nat} (h : MemInv s) (e : execQuantumGather cluster s = .next t) : MemInv t := by
  grind [execQuantumGather, State.memInv_modCluster, memInv_refuseAt, memInv_quantPoisoned, memInv_quantDo, memInv_foldl]

/-! ### Peers -/

theorem memInv_dropReq {q : PeerReq} (h : MemInv s) : MemInv (dropReq s q) := h

theorem memInv_failReq {q : PeerReq} {sub : Nat} (h : MemInv s) : MemInv (failReq s q sub) := by
  grind [failReq, memInv_failAccess, memInv_dropReq, memInv_engFailed, memInv_foldl, MemInv]

theorem memInv_setLink {link : Nat} {up : Bool} (h : MemInv s) : MemInv (setLink s link up) := memInv_msixEvent h

theorem memInv_linkDown {link : Nat} (h : MemInv s) : MemInv (linkDown s link) := by
  grind [linkDown, memInv_elog, memInv_setLink, memInv_failReq, memInv_foldl]

theorem memInv_askReplay {link : Nat} (h : MemInv s) : MemInv (askReplay s link) := by
  grind [askReplay, State.memInv_send, memInv_sieveCount, memInv_linkDown, MemInv]

theorem memInv_execLinkRetrained {link : Nat} (h : MemInv s) (e : execLinkRetrained link s = .next t) : MemInv t := by
  unfold execLinkRetrained at e
  split at e
  · cases e
  · cases e
    exact memInv_setLink h

theorem memInv_sendTo {f : Flit} (h : MemInv s) : MemInv (sendTo s f) := by
  grind [sendTo, memInv_sendFlit]

theorem memInv_nak {f : Flit} (h : MemInv s) : MemInv (nak s f) := memInv_sendTo h

theorem memInv_forward {f : Flit} (h : MemInv s) : MemInv (forward s f) := by
  grind [forward, memInv_sendFlit, memInv_nak]

theorem memInv_receive {link : Nat} {f : Flit} {type : Nat} {act : State → State} (h : MemInv s)
    (ha : ∀ s, MemInv s → MemInv (act s)) (e : receive link f type s act = .next t) : MemInv t := by
  grind [receive, memInv_askReplay, memInv_sieveCount, memInv_forward, MemInv]

theorem memInv_inbound {f : Flit} {write : Bool} (h : MemInv s) : MemInv (inbound s f write).1 := by
  grind [inbound, memInv_refuseOwner]

theorem memInv_inWrite {f : Flit} (h : MemInv s) : MemInv (inWrite s f) := by
  grind [inWrite, memInv_inbound, memInv_nak, memInv_homeWrite, memInv_sendTo, memInv_foldl]

theorem memInv_inRead {f : Flit} (h : MemInv s) : MemInv (inRead s f) := by
  grind [inRead, memInv_inbound, memInv_nak, memInv_homeTouch, memInv_sendTo]

theorem memInv_inAtomic {f : Flit} (h : MemInv s) : MemInv (inAtomic s f) := by
  grind [inAtomic, memInv_inbound, memInv_nak, memInv_sendTo, memInv_homeTouch, State.memInv_useFree, memInv_homeWrite,
    memInv_watchSlice]

theorem memInv_readAnswer {f : Flit} (h : MemInv s) : MemInv (readAnswer s f) := by
  grind [readAnswer, memInv_settleLane, memInv_deliver, memInv_dropReq, memInv_foldl, MemInv]

theorem memInv_atomAnswer {f : Flit} (h : MemInv s) : MemInv (atomAnswer s f) := by
  grind [atomAnswer, memInv_atomEnd, memInv_dropReq, memInv_foldl, MemInv]

theorem memInv_creditAnswer {link : Nat} {f : Flit} (h : MemInv s) : MemInv (creditAnswer s link f) := by
  grind [creditAnswer, memInv_finishLane, memInv_dropReq, memInv_foldl, MemInv]

theorem memInv_nakAnswer {f : Flit} (h : MemInv s) : MemInv (nakAnswer s f) := by
  unfold nakAnswer
  split
  · exact memInv_failReq h
  · exact h

theorem memInv_execFlitWrite {link : Nat} {flit : BitVec 1024} (h : MemInv s) (e : execFlitWrite link flit s = .next t) :
    MemInv t := by
  grind [execFlitWrite, memInv_receive, memInv_inWrite]

theorem memInv_execFlitRead {link : Nat} {flit : BitVec 1024} (h : MemInv s) (e : execFlitRead link flit s = .next t) :
    MemInv t := by
  grind [execFlitRead, memInv_receive, memInv_inRead]

theorem memInv_execFlitReadrsp {link : Nat} {flit : BitVec 1024} (h : MemInv s) (e : execFlitReadrsp link flit s = .next t) :
    MemInv t := by
  grind [execFlitReadrsp, memInv_receive, memInv_readAnswer]

theorem memInv_execFlitAtomic {link : Nat} {flit : BitVec 1024} (h : MemInv s) (e : execFlitAtomic link flit s = .next t) :
    MemInv t := by
  grind [execFlitAtomic, memInv_receive, memInv_inAtomic]

theorem memInv_execFlitAtomrsp {link : Nat} {flit : BitVec 1024} (h : MemInv s) (e : execFlitAtomrsp link flit s = .next t) :
    MemInv t := by
  grind [execFlitAtomrsp, memInv_receive, memInv_atomAnswer]

theorem memInv_execFlitCredit {link : Nat} {flit : BitVec 1024} (h : MemInv s) (e : execFlitCredit link flit s = .next t) :
    MemInv t := by
  grind [execFlitCredit, memInv_receive, memInv_creditAnswer]

theorem memInv_execFlitNak {link : Nat} {flit : BitVec 1024} (h : MemInv s) (e : execFlitNak link flit s = .next t) : MemInv t := by
  grind [execFlitNak, memInv_receive, memInv_nakAnswer]

theorem memInv_execPeerTimeout {tid : Nat} (h : MemInv s) (e : execPeerTimeout tid s = .next t) : MemInv t := by
  unfold execPeerTimeout at e
  split at e
  · cases e
  split at e
  · cases e
  · cases e
    exact memInv_failReq h

/-! ### Leave -/

theorem memInv_dropSpill {c w : Nat} {e' : Spill} (h : MemInv s) : MemInv (dropSpill s c w e') := by
  unfold dropSpill
  split
  · exact memInv_giveFreed h
  · exact State.memInv_modWave h

theorem memInv_replaySpills {c w : Nat} (h : MemInv s) : MemInv (replaySpills s c w) := by
  grind [replaySpills, memInv_dropSpill, memInv_spillWrite, memInv_foldl]

theorem memInv_refillRead {c w : Nat} {v : Wave} {lane d : Nat} {fresh : Bool} (h : MemInv s) :
    MemInv (refillRead s c w v lane d fresh).1 := by
  grind [refillRead, memInv_translate, memInv_requestOf, memInv_refuseOwner, memInv_coreRead, memInv_poisonSeen]

theorem memInv_refillReads {c w lane : Nat} {v : Wave} {fresh : Bool} {ds : List Nat} {es : List RsEntry} {ts : List Nat}
    (h : MemInv s) : MemInv (refillReads s c w v lane fresh ds es ts).1 := by
  induction ds generalizing s es ts with
  | nil => exact h
  | cons d r ih => grind [refillReads, memInv_refillRead]

theorem memInv_setRefill {c w : Nat} {old : Refilling} {new : Option Refilling} (h : MemInv s) :
    MemInv (setRefill s c w old new) := by
  unfold setRefill
  split <;> grind [State.memInv_modWave, memInv_giveFreed]

theorem memInv_refillRefused {c w : Nat} {v : Wave} {r : Refilling} {d sub : Nat} {seq : W32} (h : MemInv s) :
    MemInv (refillRefused s c w v r d sub seq) := by
  grind [refillRefused, memInv_setRefill, memInv_completionCause, memInv_foldl]

theorem memInv_refillStep {c w : Nat} (h : MemInv s) (e : refillStep s c w = some t) : MemInv t := by
  unfold refillStep at e
  split at e <;> grind [memInv_refillRefused, memInv_refillReads, State.memInv_modWave, memInv_setRefill]

theorem memInv_execReconvRefillComplete {core wave : Nat} (h : MemInv s) (e : execReconvRefillComplete core wave s = .next t) :
    MemInv t := by
  grind [execReconvRefillComplete, memInv_replaySpills, memInv_refillStep]

theorem memInv_execBarrelVisit {core quarter : Nat} (h : MemInv s) (e : execBarrelVisit core quarter s = .next t) : MemInv t := by
  grind [execBarrelVisit, memInv_visit, memInv_replaySpills, memInv_openGates]

theorem memInv_fetchFor {c w : Nat} {v : Wave} {pc : W64} {lv : Level} (h : MemInv s) : MemInv (fetchFor s c w v pc lv) := by
  grind [fetchFor, State.memInv_modLane, memInv_fetchBlock, memInv_foldl]

theorem memInv_execBlockFetchComplete {core wave : Nat} {pc : W64} (h : MemInv s)
    (e : execBlockFetchComplete core wave pc s = .next t) : MemInv t := by
  grind [execBlockFetchComplete, memInv_fetchFor]

theorem memInv_dropSave {c : Nat} {v : Wave} {d : Option Drain} (h : MemInv s) : MemInv (dropSave s c v d) := by
  unfold dropSave
  split <;> grind [memInv_answerSave, MemInv]

theorem memInv_retireAll {c uid : Nat} (h : MemInv s) : MemInv (retireAll s c uid) :=
  memInv_foldl h fun _ _ h => memInv_retireTile h

theorem memInv_freeSlot {c w : Nat} {v : Wave} (h : MemInv s) : MemInv (freeSlot s c w v) := h

theorem memInv_endGang {c : Nat} {g : Gang} (h : MemInv s) : MemInv (endGang s c g) := by
  grind [endGang, memInv_endDraws, State.memInv_modCore, memInv_unitDone, MemInv]

theorem memInv_detachAll {c w : Nat} {g : Gang} {v : Wave} (h : MemInv s) : MemInv (detachAll s c w g v) := by
  grind [detachAll, State.memInv_modGang, memInv_barDetach, memInv_foldl]

theorem memInv_endWave {c w : Nat} {u : Slot} (h : MemInv s) : MemInv (endWave s c w u) := by
  grind [endWave, memInv_flushWatches, memInv_dropWaiters, memInv_retireAll, memInv_freeSlot, memInv_dropSave]

theorem memInv_execGangLeave {core wave : Nat} (h : MemInv s) (e : execGangLeave core wave s = .next t) : MemInv t := by
  grind [execGangLeave, memInv_endWave, memInv_detachAll, memInv_endGang, memInv_takeOpen, State.memInv_modGang]

/-! ### Run -/

theorem memInv_passClock {c n : Nat} (h : MemInv s) : MemInv (passClock s c n) := by
  grind [passClock, State.memInv_modCore, memInv_countEvent]

theorem memInv_turnBarrels {c : Nat} (h : MemInv s) : MemInv (turnBarrels s c) :=
  memInv_foldl h fun s q h => by
    split
    · next u hu => exact memInv_execBarrelVisit h hu
    · exact h

theorem memInv_periods (h : MemInv s) : MemInv (periods s) := by
  grind [periods, memInv_execPreemptRequest, memInv_execWhiskPeriod, memInv_execRingDepthReview, memInv_execDepctrPoll,
    memInv_execMsixIntervalEnd, memInv_foldl]

theorem memInv_tick (h : MemInv s) : MemInv (tick s) := by
  grind [tick, memInv_passClock, memInv_turnBarrels, memInv_periods, memInv_foldl, MemInv]

/-! ### The words and the events, and the moves of a run -/

theorem memInv_exec {i : Instr} (h : MemInv s) (e : exec i s = .next t) : MemInv t := by
  cases i with
  | stackTrained _ => exact memInv_execStackTrained h e
  | unitReady _ => exact memInv_execUnitReady h e
  | start _ => exact memInv_execStart h e
  | fwcommit _ => exact memInv_execFwcommit h e
  | alarmpolWrite _ => exact memInv_execAlarmpolWrite h e
  | vglitch => exact memInv_execVglitch h e
  | cglitch => exact memInv_execCglitch h e
  | lid => exact memInv_execLid h e
  | therm => exact memInv_execTherm h e
  | hbmEccError _ _ => exact memInv_execHbmEccError h e
  | sramEccError _ _ => exact memInv_execSramEccError h e
  | msixIntervalEnd _ _ => exact memInv_execMsixIntervalEnd h e
  | vfEnable _ _ => exact memInv_execVfEnable h e
  | hostWrite _ _ _ => exact memInv_execHostWrite h e
  | hostRead _ _ _ _ => exact memInv_execHostRead h e
  | registerWrite _ _ _ => exact memInv_execRegisterWrite h e
  | doorbell _ _ _ => exact memInv_execDoorbell h e
  | invalidationRegister _ _ _ => exact memInv_execInvalidationRegister h e
  | stage1ReplyRetry _ _ => exact memInv_execStage1ReplyRetry h e
  | stage1ReplyRefuse _ _ => exact memInv_execStage1ReplyRefuse h e
  | stage2ReplyRetry _ _ => exact memInv_execStage2ReplyRetry h e
  | stage2ReplyRefuse _ _ => exact memInv_execStage2ReplyRefuse h e
  | stopreq _ _ => exact memInv_execStopreq h e
  | resume _ _ => exact memInv_execResume h e
  | lost _ => exact memInv_execLost h e
  | vtrArm _ _ => exact memInv_execVtrArm h e
  | qset _ => exact memInv_execQset h e
  | filter _ => exact memInv_execFilter h e
  | deadline _ => exact memInv_execDeadline h e
  | savepool _ => exact memInv_execSavepool h e
  | fset _ => exact memInv_execFset h e
  | wset _ => exact memInv_execWset h e
  | dbgclaim _ => exact memInv_execDbgclaim h e
  | dbgfree _ => exact memInv_execDbgfree h e
  | getVersion _ => exact memInv_execGetVersion h e
  | getCapabilities _ => exact memInv_execGetCapabilities h e
  | negotiateAlgorithms _ => exact memInv_execNegotiateAlgorithms h e
  | getDigests _ => exact memInv_execGetDigests h e
  | getCertificate _ _ _ _ => exact memInv_execGetCertificate h e
  | debugUnlockChallenge _ => exact memInv_execDebugUnlockChallenge h e
  | flitWrite _ _ => exact memInv_execFlitWrite h e
  | flitRead _ _ => exact memInv_execFlitRead h e
  | flitReadrsp _ _ => exact memInv_execFlitReadrsp h e
  | flitAtomic _ _ => exact memInv_execFlitAtomic h e
  | flitAtomrsp _ _ => exact memInv_execFlitAtomrsp h e
  | flitCredit _ _ => exact memInv_execFlitCredit h e
  | flitNak _ _ => exact memInv_execFlitNak h e
  | linkRetrained _ => exact memInv_execLinkRetrained h e
  | peerTimeout _ => exact memInv_execPeerTimeout h e
  | barrelVisit _ _ => exact memInv_execBarrelVisit h e
  | reconvRefillComplete _ _ => exact memInv_execReconvRefillComplete h e
  | blockFetchComplete _ _ _ => exact memInv_execBlockFetchComplete h e
  | sleepExpiry _ _ _ => exact memInv_execSleepExpiry h e
  | memoryOpComplete _ _ _ _ => exact memInv_execMemoryOpComplete h e
  | conversionComplete _ _ _ => exact memInv_execConversionComplete h e
  | quantumGather _ => exact memInv_execQuantumGather h e
  | gangCreate _ => exact memInv_execGangCreate h e
  | gangAttach _ _ _ => exact memInv_execGangAttach h e
  | gangLeave _ _ => exact memInv_execGangLeave h e
  | barrierArrival _ _ _ => exact memInv_execBarrierArrival h e
  | ringStageBegin _ _ _ _ => exact memInv_execRingStageBegin h e
  | ringDepthReview _ => exact memInv_execRingDepthReview h e
  | coreWorkRequest _ => exact memInv_execCoreWorkRequest h e
  | cardBegin _ => exact memInv_execCardBegin h e
  | depctrPoll _ => exact memInv_execDepctrPoll h e
  | jobComplete _ _ => exact memInv_execJobComplete h e
  | sievePostExamine => exact memInv_execSievePostExamine h e
  | whiskPeriod => exact memInv_execWhiskPeriod h e
  | whiskMigrate _ => exact memInv_execWhiskMigrate h e
  | deadlineWindowOpen _ => exact memInv_execDeadlineWindowOpen h e
  | timesliceSwitch => exact memInv_execTimesliceSwitch h e
  | timesliceCorePass _ => exact memInv_execTimesliceCorePass h e
  | preemptRequest _ _ => exact memInv_execPreemptRequest h e
  | waveQuiesce _ _ => exact memInv_execWaveQuiesce h e
  | gangRecordSave _ _ => exact memInv_execGangRecordSave h e
  | wavePark _ _ => exact memInv_execWavePark h e
  | ladleChunkDone _ _ _ => exact memInv_execLadleChunkDone h e
  | ladleComplete _ _ _ => exact memInv_execLadleComplete h e
  | mxeCommandStart _ _ => exact memInv_execMxeCommandStart h e
  | mxeKstep _ _ => exact memInv_execMxeKstep h e
  | mxeComplete _ _ => exact memInv_execMxeComplete h e
  | colanderAccept _ => exact memInv_execColanderAccept h e
  | colanderNodeVisit _ _ => exact memInv_execColanderNodeVisit h e
  | queryComplete _ _ => exact memInv_execQueryComplete h e
  | beamcontComplete _ _ => exact memInv_execBeamcontComplete h e
  | stkLookup _ _ _ _ => exact memInv_execStkLookup h e
  | shadingBatchPost _ _ => exact memInv_execShadingBatchPost h e
  | stkFillPerform _ _ _ _ => exact memInv_execStkFillPerform h e
  | primitiveRasterise _ => exact memInv_execPrimitiveRasterise h e
  | surfaceWaveCreate _ => exact memInv_execSurfaceWaveCreate h e
  | fragmentApply _ _ _ => exact memInv_execFragmentApply h e
  | passComplete _ => exact memInv_execPassComplete h e
  | nop _ => exact memInv_execNop h e
  | bra _ => exact memInv_execBra h e
  | brx _ => exact memInv_execBrx h e
  | call _ => exact memInv_execCall h e
  | callx _ => exact memInv_execCallx h e
  | ret _ => exact memInv_execRet h e
  | exit _ => exact memInv_execExit h e
  | vballot _ => exact memInv_execVballot h e
  | vmatch _ => exact memInv_execVmatch h e
  | rdlane _ => exact memInv_execRdlane h e
  | waitf _ | sleep _ | sleepuntil _ | waitmx _ | yield _ => exact memInv_holdWord h e
  | chkprom _ => exact memInv_execChkprom h e
  | waitchk _ => exact memInv_execWaitchk h e
  | bararv _ => exact memInv_execBararv h e
  | barwait _ => exact memInv_execBarwait h e
  | barsync _ => exact memInv_execBarsync h e
  | barinfo _ => exact memInv_execBarinfo h e
  | gattach _ => exact memInv_execGattach h e
  | gdetach _ => exact memInv_execGdetach h e
  | ginfo _ => exact memInv_execGinfo h e
  | ringfillBegin _ | ringdrainBegin _ => exact memInv_ringBegin h e
  | ringfillEnd _ | ringdrainEnd _ => exact memInv_ringEnd h e
  | iadd _ | isub _ | isum3 _ | ineg _ | iabs _ | iabsd _ | and _ | or _ | xor _ | not _ | blut3 _ | imul _ | imulhi _ | imad _
    | shl _ | shr _ | sar _ | rotl _ | rotr _ | funnel _ | bfe _ | bfi _ | popc _ | clz _ | brev _ | ffs _ | sel _ | imin _
    | imax _ | iclamp _ | mov _ | p2s _ => exact memInv_alu32 h e
  | iadds _ | isubs _ => exact memInv_satWord h e
  | ixadd _ | imadw _ | selw _ | iminw _ | imaxw _ | movw _ => exact memInv_alu64 h e
  | icmp _ | icmpw _ | pmov _ | plut3 _ => exact memInv_aluB h e
  | movt _ => exact memInv_execMovt h e
  | s2p _ => exact memInv_execS2p h e
  | fneg _ | fabs _ | fcpsgn _ | fgetexp _ | hneg2 _ | habs2 _ => exact memInv_fpRaw h e
  | fscale _ | fclass _ | dcmp _ | dscale _ | dclass _ | dgetexp _ => exact memInv_fpWord h e
  | hcmp2 _ | bcmp2 _ => exact memInv_packedCmp h e
  | cvtf _ | cvtfi _ | cvtif _ | cvtfw _ | cvtifw _ => exact memInv_convert h e
  | cvtpk2 _ | cvtpk4 _ | cvtpk8 _ => exact memInv_convPack h e
  | cvtex2 _ | cvtex4 _ | cvtex8 _ => exact memInv_convExtract h e
  | fdot2h _ | fdot2b _ | fdot4e _ => exact memInv_dotWord h e
  | idot4 _ | idot8 _ => exact memInv_intDot h e
  | ddot2 _ | srread _ => exact memInv_lateWord h e
  | srseed _ => exact memInv_execSrseed h e
  | ld _ | lds _ | ldnc _ | ldq _ | ldcvt _ => exact memInv_loadWord h e
  | st _ | sts _ | stq _ | stzero _ => exact memInv_storeWord h e
  | ldwin _ | stwin _ => exact memInv_winWord_ h e
  | pref _ => exact memInv_execPref h e
  | cinv _ => exact memInv_execCinv h e
  | iinv _ => exact memInv_execIinv h e
  | ldbc _ | jobpost _ => exact memInv_sharedWord h e
  | ldprb _ => exact memInv_execLdprb h e
  | ldg _ | stg _ | ldw _ | ldx _ | stx _ | ldgq _ | stgq _ | ldxq _ | stxq _ | ldwq _ => exact memInv_locAccess h e
  | cvlz _ | cvsz _ | cvlzT _ | cvszAdd _ => exact memInv_zAccess h e
  | gfill _ | ldgbc _ => exact memInv_localWord h e
  | atadd _ | atmin _ | atmax _ | atand _ | ator _ | atxor _ | atxchg _ | atcas _ | atinc _ | atdec _ | atfadd _ | atld _
    | atst _ => exact memInv_atomWord h e
  | phase _ => exact memInv_execPhase h e
  | lstat _ => exact memInv_execLstat h e
  | mxloop _ | mxstep _ | mxzero _ => exact memInv_mxIssue h e
  | mxteam _ => exact memInv_execMxteam h e
  | mxqsetCmdr _ | mxqsetStmr _ => exact memInv_mxqset h e
  | mxstat _ => exact memInv_execMxstat h e
  | tex _ | texg _ => exact memInv_texWord h e
  | texq _ => exact memInv_execTexq h e
  | stk _ => exact memInv_execStk h e
  | stkfill _ => exact memInv_execStkfill h e
  | stkdrop _ => exact memInv_execStkdrop h e
  | stkinv _ | stkage _ | ctxsv _ | ctxld _ | tlbinv _ | tlbinva _ | ownset _ | ownget _ | haltqPause _ | haltqResume _
    | haltqWithdraw _ | scrub _ => exact memInv_onceWord h e
  | beamq _ | rayq _ => exact memInv_queryIssue h e
  | beamcont _ => exact memInv_execBeamcont h e
  | sqpop _ => exact memInv_execSqpop h e
  | sqpeek _ => exact memInv_execSqpeek h e
  | expvtx _ => exact memInv_execExpvtx h e
  | expprim _ => exact memInv_execExpprim h e
  | expprimEnd _ => exact memInv_execExpprimEnd h e
  | expfrag _ => exact memInv_execExpfrag h e
  | trap _ => exact memInv_execTrap h e
  | brk _ => exact memInv_execBrk h e
  | srd _ => exact memInv_execSrd h e
  | swrSet _ => exact memInv_swr h e
  | rte _ => exact memInv_execRte h e
  | psrd _ => exact memInv_execPsrd h e
  | pswr _ => exact memInv_execPswr h e
  | wpset _ => exact memInv_execWpset h e
  | submit _ _ => exact memInv_execSubmit h e
  | deckleWorkRequest _ => exact memInv_execDeckleWorkRequest h e
  | doeDiscovery _ _ => exact memInv_execDoeDiscovery h e
  | reset => exact memInv_execReset e
  | overtempShutdown => exact memInv_execOvertempShutdown e
  | challenge _ _ nonce => exact memInv_execChallenge (_nonce := nonce) h e
  | getMeasurements _ _ _ nonce => exact memInv_execGetMeasurements (_nonce := nonce) h e
  | vall f => exact memInv_vote h (show execVall f s = .next t from e)
  | vany f => exact memInv_vote h (show execVany f s = .next t from e)
  | lxpick f => exact memInv_exchange h (show execLxpick f s = .next t from e)
  | lxshift f => exact memInv_exchange h (show execLxshift f s = .next t from e)
  | lxrot f => exact memInv_exchange h (show execLxrot f s = .next t from e)
  | lxswap f => exact memInv_exchange h (show execLxswap f s = .next t from e)
  | iaddc f => exact memInv_carryWord h (show execIaddc f s = .next t from e)
  | isubb f => exact memInv_carryWord h (show execIsubb f s = .next t from e)
  | fadd f => exact memInv_fp32 h (show execFadd f s = .next t from e)
  | fsub f => exact memInv_fp32 h (show execFsub f s = .next t from e)
  | fmul f => exact memInv_fp32 h (show execFmul f s = .next t from e)
  | ffma f => exact memInv_fp32 h (show execFfma f s = .next t from e)
  | fmin f => exact memInv_fp32 h (show execFmin f s = .next t from e)
  | fmax f => exact memInv_fp32 h (show execFmax f s = .next t from e)
  | fmed3 f => exact memInv_fp32 h (show execFmed3 f s = .next t from e)
  | fcmp f => exact memInv_fpBool h (show execFcmp f s = .next t from e)
  | frint f => exact memInv_fp32 h (show execFrint f s = .next t from e)
  | ffrc f => exact memInv_fp32 h (show execFfrc f s = .next t from e)
  | hadd2 f => exact memInv_packed h (show execHadd2 f s = .next t from e)
  | hsub2 f => exact memInv_packed h (show execHsub2 f s = .next t from e)
  | hmul2 f => exact memInv_packed h (show execHmul2 f s = .next t from e)
  | hfma2 f => exact memInv_packed h (show execHfma2 f s = .next t from e)
  | hmin2 f => exact memInv_packed h (show execHmin2 f s = .next t from e)
  | hmax2 f => exact memInv_packed h (show execHmax2 f s = .next t from e)
  | badd2 f => exact memInv_packed h (show execBadd2 f s = .next t from e)
  | bsub2 f => exact memInv_packed h (show execBsub2 f s = .next t from e)
  | bmul2 f => exact memInv_packed h (show execBmul2 f s = .next t from e)
  | bfma2 f => exact memInv_packed h (show execBfma2 f s = .next t from e)
  | bmin2 f => exact memInv_packed h (show execBmin2 f s = .next t from e)
  | bmax2 f => exact memInv_packed h (show execBmax2 f s = .next t from e)
  | dadd f => exact memInv_fp64 h (show execDadd f s = .next t from e)
  | dsub f => exact memInv_fp64 h (show execDsub f s = .next t from e)
  | dmul f => exact memInv_fp64 h (show execDmul f s = .next t from e)
  | dfma f => exact memInv_fp64 h (show execDfma f s = .next t from e)
  | dmin f => exact memInv_fp64 h (show execDmin f s = .next t from e)
  | dmax f => exact memInv_fp64 h (show execDmax f s = .next t from e)
  | dneg f => exact memInv_fp64Raw h (show execDneg f s = .next t from e)
  | dabs f => exact memInv_fp64Raw h (show execDabs f s = .next t from e)
  | dcpsgn f => exact memInv_fp64Raw h (show execDcpsgn f s = .next t from e)
  | drint f => exact memInv_fp64 h (show execDrint f s = .next t from e)
  | drcp f => exact memInv_fp64 h (show execDrcp f s = .next t from e)
  | drsq f => exact memInv_fp64 h (show execDrsq f s = .next t from e)
  | cvtii f => exact memInv_convWord h (show execCvtii f s = .next t from e)
  | cvtsc f => exact memInv_convWord h (show execCvtsc f s = .next t from e)
  | cvtqs f => exact memInv_convWord h (show execCvtqs f s = .next t from e)
  | bpick f => exact memInv_convWord h (show execBpick f s = .next t from e)
  | swzh f => exact memInv_convWord h (show execSwzh f s = .next t from e)
  | frcp f => exact memInv_special h (show execFrcp f s = .next t from e)
  | frsq f => exact memInv_special h (show execFrsq f s = .next t from e)
  | fsqrt f => exact memInv_special h (show execFsqrt f s = .next t from e)
  | fexp2 f => exact memInv_special h (show execFexp2 f s = .next t from e)
  | flog2 f => exact memInv_special h (show execFlog2 f s = .next t from e)
  | fsin f => exact memInv_special h (show execFsin f s = .next t from e)
  | fcos f => exact memInv_special h (show execFcos f s = .next t from e)
  | ftanh f => exact memInv_special h (show execFtanh f s = .next t from e)
  | wred f => exact memInv_redWord h (show execWred f s = .next t from e)
  | wscan f => exact memInv_redWord h (show execWscan f s = .next t from e)
  | lcopy f => exact memInv_ladleIssue h (show execLcopy f s = .next t from e)
  | lcopyo f => exact memInv_ladleIssue h (show execLcopyo f s = .next t from e)
  | lgath f => exact memInv_ladleIssue h (show execLgath f s = .next t from e)
  | lscred f => exact memInv_ladleIssue h (show execLscred f s = .next t from e)
  | lrcopyPush f => exact memInv_ladleIssue h (show execLrcopyPush f s = .next t from e)
  | lrcopyPull f => exact memInv_ladleIssue h (show execLrcopyPull f s = .next t from e)
  | lcoll f => exact memInv_ladleIssue h (show execLcoll f s = .next t from e)
  | lfill f => exact memInv_ladleIssue h (show execLfill f s = .next t from e)
  | dkrun f => exact memInv_ladleIssue h (show execDkrun f s = .next t from e)
  | swrWrite f => exact memInv_swr h (show execSwrWrite f s = .next t from e)
  | swrClear f => exact memInv_swr h (show execSwrClear f s = .next t from e)
  | powerLoss => exact memInv_execPowerLoss e

theorem memInv_issueMove {c q : Nat} (h : MemInv s) (e : issueMove s c q = .next t) : MemInv t := by
  unfold issueMove at e
  split at e
  · cases e
  dsimp only at e
  split at e
  · cases e
  split at e
  · cases e
    exact memInv_endIssue (memInv_illegalTrap (memInv_beginIssue h))
  split at e
  · next u hu =>
    cases e
    exact memInv_endIssue (memInv_exec (memInv_beginIssue h) hu)
  · next hno => exact absurd e (hno t)

theorem memInv_moveIf {u : Option State} (h : ∀ s, u = some s → MemInv s) (e : moveIf u = .next t) : MemInv t := by
  cases u with
  | none => cases e
  | some u =>
    cases e
    exact h _ rfl

theorem memInv_doMove {m : Move} (h : MemInv s) (e : doMove s m = .next t) : MemInv t := by
  cases m with
  | event i => exact memInv_exec h e
  | issue c q => exact memInv_issueMove h e
  | drain c id => exact memInv_moveIf (fun _ => memInv_drainStep h) e
  | flushPort c p => exact memInv_moveIf (fun _ => memInv_flushPort h) e
  | restore uid => exact memInv_restoreMove h e
  | spdmOther pf code => exact memInv_spdmOther h e
  | evictL1 c line | evictL0 c | evictTlb c n | evictTlb2 c n | evictWalk c n | fc n | ticks n =>
    cases e
    exact h
  | cc c n =>
    simp only [doMove] at e
    split at e
    · cases e
      exact memInv_passClock h
    · cases e
  | stamp c =>
    simp only [doMove] at e
    split at e
    · cases e
    · cases e
      exact memInv_stampTry h
  | msixControl f en mask =>
    simp only [doMove] at e
    split at e
    · cases e
      exact memInv_msixControl h
    · cases e

theorem memInv_syncRecord {after : State} {old new : Saved} (h : MemInv after) : MemInv (syncRecord s after old new) :=
  memInv_foldl h fun _ _ h => memInv_selfWrite h

theorem memInv_syncRecords {after : State} (h : MemInv after) : MemInv (syncRecords s after) := by
  grind [syncRecords, memInv_syncRecord, memInv_foldl, MemInv]

theorem memInv_syncSaved {after : State} (h : MemInv after) : MemInv (syncSaved s after) := by
  grind [syncSaved, memInv_syncRecords, memInv_flushSelf]

theorem memInv_runMove {m : Move} (h : MemInv s) (e : runMove s m = .next t) : MemInv t := by
  unfold runMove at e
  split at e
  · next u hu =>
    cases e
    exact memInv_syncSaved (memInv_doMove h hu)
  · next hno => exact absurd e (hno t)

theorem memInv_firstMove {ms : List Move} (h : MemInv s) (e : firstMove s ms = some t) : MemInv t := by
  induction ms with
  | nil => cases e
  | cons m r ih => grind [firstMove, memInv_runMove]

theorem memInv_autoStep (h : MemInv s) (e : autoStep s = .next t) : MemInv t := by
  unfold autoStep at e
  split at e
  · exact memInv_runMove h e
  split at e
  · next u hu =>
    cases e
    exact memInv_firstMove h hu
  · cases e
    exact memInv_syncSaved (memInv_tick h)

theorem memInv_nextMove (h : MemInv s) (e : nextMove s = .next t) : MemInv t := by
  unfold nextMove at e
  split at e
  · split at e
    · cases e
    · refine memInv_runMove ?_ e
      exact h
  · split at e
    · cases e
    · exact memInv_autoStep h e

/-- Settles O59: a step performs one move, every operation of a move hands the bytes on or writes them through `memPut`,
and an insertion into canonical bytes is canonical. -/
theorem stepKeepsMemoryCanonical : Obligations.StepKeepsMemoryCanonical := fun _ _ => memInv_nextMove

end Sys2Proof.Machine

end

section
open Sys2Proof Sys2Proof.Machine

namespace Sys2Proof.Machine

/-! ## Arms of exec -/

@[simp] theorem exec_ladleChunkDone_eq (c id k : Nat) (s : State) : exec (.ladleChunkDone c id k) s = execLadleChunkDone c id k s := by rfl
@[simp] theorem exec_ladleComplete_eq (c id : Nat) (m : List (List Byte)) (s : State) :
    exec (.ladleComplete c id m) s = execLadleComplete c id m s := by rfl
@[simp] theorem exec_mxeCommandStart_eq (c id : Nat) (s : State) : exec (.mxeCommandStart c id) s = execMxeCommandStart c id s := by rfl
@[simp] theorem exec_mxeKstep_eq (c id : Nat) (s : State) : exec (.mxeKstep c id) s = execMxeKstep c id s := by rfl
@[simp] theorem exec_mxeComplete_eq (c id : Nat) (s : State) : exec (.mxeComplete c id) s = execMxeComplete c id s := by rfl
@[simp] theorem exec_colanderAccept_eq (c : Nat) (s : State) : exec (.colanderAccept c) s = execColanderAccept c s := by rfl
@[simp] theorem exec_colanderNodeVisit_eq (c id : Nat) (s : State) :
    exec (.colanderNodeVisit c id) s = execColanderNodeVisit c id s := by rfl
@[simp] theorem exec_queryComplete_eq (c n : Nat) (s : State) : exec (.queryComplete c n) s = execQueryComplete c n s := by rfl
@[simp] theorem exec_beamcontComplete_eq (c id : Nat) (s : State) :
    exec (.beamcontComplete c id) s = execBeamcontComplete c id s := by rfl

/-! ## Commands by their numbers -/

/-- A list in which the element of a number is changed into one of that number holds the changed one under it. -/
theorem find?_map_id {α : Type} {key : α → Nat} {g : α → α} {n : Nat} (hg : ∀ a, key a = n → key (g a) = n) (l : List α) :
    (l.map (fun a => if key a = n then g a else a)).find? (fun a => key a == n) = (l.find? (fun a => key a == n)).map g := by
  induction l with
  | nil => rfl
  | cons a r ih =>
    by_cases h : key a = n
    · simp [h, hg a h]
    · simpa [h] using ih

theorem LCmd.id_of_find? {l : List LCmd} {id : Nat} {q : LCmd} (h : l.find? (fun q => q.id == id) = some q) : q.id = id := by
  simpa using List.find?_some h

theorem MCmd.id_of_find? {l : List MCmd} {id : Nat} {q : MCmd} (h : l.find? (fun q => q.id == id) = some q) : q.id = id := by
  simpa using List.find?_some h

theorem Beam.id_of_find? {l : List Beam} {id : Nat} {b : Beam} (h : l.find? (fun b => b.id == id) = some b) : b.id = id := by
  simpa using List.find?_some h

/-- A command put back stands under its number, where one stood. -/
theorem find?_putJob {s : State} {c id : Nat} {q : LCmd} {j : Job} (h : (s.core c).ladle.find? (fun q => q.id == id) = some q)
    (hj : j.q.id = id) : ((putJob s c j).core c).ladle.find? (fun q => q.id == id) = some j.q := by
  subst hj
  rw [putJob, State.core_modCore]
  exact (find?_map_id (key := LCmd.id) (g := fun _ => j.q) (fun _ _ => rfl) _).trans (by rw [h]; rfl)

/-- A changed MXE command stands under its number. -/
theorem find?_modMx {s : State} {c id : Nat} {g : MCmd → MCmd} {q : MCmd} (hg : ∀ p, p.id = id → (g p).id = id)
    (h : (s.core c).mx.find? (fun q => q.id == id) = some q) :
    ((modMx s c id g).core c).mx.find? (fun q => q.id == id) = some (g q) := by
  rw [modMx, State.core_modCore]
  exact (find?_map_id (key := MCmd.id) hg _).trans (by rw [h]; rfl)

/-! ## The wave that issued a command (14 R325) -/

theorem modUid_mem (s : State) (c w uid : Nat) (g : Wave → Wave) : (modUid s c w uid g).mem = s.mem := by
  unfold modUid
  split
  · split <;> rfl
  · rfl

/-- A wave's change leaves all of its core but the slots. -/
theorem modUid_core (s : State) (c w uid : Nat) (g : Wave → Wave) :
    (modUid s c w uid g).core c = { s.core c with slots := ((modUid s c w uid g).core c).slots } := by
  unfold modUid
  split
  · split
    · rw [State.modWave, State.modSlot, State.core_modCore]
    · rfl
  · rfl

/-- The change of a wave that stands in its slot. -/
theorem modUid_resident {s : State} {c w uid : Nat} {t : Slot} (hs : s.slot? c w = some t) (hu : t.wave.uid = uid) (g : Wave → Wave) :
    modUid s c w uid g = s.modWave c w g := by
  simp only [modUid, hs, hu, if_true]

/-- A change that keeps its number is found. -/
theorem findUid_modUid {s : State} {c w uid : Nat} {g : Wave → Wave} {v : Wave} (hg : ∀ v, (g v).uid = v.uid)
    (h : findUid s c w uid = some v) : findUid (modUid s c w uid g) c w uid = some (g v) := by
  have hsaved (l : List Saved) (hl : (l.find? (fun p => p.wave.uid == uid)).map Saved.wave = some v) :
      ((l.map (fun p => if p.wave.uid = uid then { p with wave := g p.wave } else p)).find? (fun p => p.wave.uid == uid)).map
        Saved.wave = some (g v) := by
    rw [find?_map_id (key := fun p : Saved => p.wave.uid) (g := fun p => { p with wave := g p.wave })
      (fun p hp => (hg p.wave).trans hp), Option.map_map]
    obtain ⟨p, hp, rfl⟩ := Option.map_eq_some_iff.mp hl
    rw [hp]
    rfl
  unfold findUid at h
  cases hs : s.slot? c w with
  | none =>
    rw [hs] at h
    have hx : (modUid s c w uid g).slot? c w = none := by simp only [modUid, hs]; exact hs
    simp only [findUid, hx]
    simp only [modUid, hs]
    exact hsaved _ h
  | some t =>
    by_cases hu : t.wave.uid = uid
    · have hv : t.wave = v := by simpa [hs, hu] using h
      subst hv
      simp only [modUid_resident hs hu, findUid, State.slot?_modWave, hs, Option.map_some, hg, hu, if_true]
    · rw [hs] at h
      have hx : (modUid s c w uid g).slot? c w = some t := by simp only [modUid, hs, hu, if_false]; exact hs
      simp only [hu, if_false] at h
      simp only [findUid, hx, hu, if_false]
      simp only [modUid, hs, hu, if_false]
      exact hsaved _ h

/-- A wave is found alike where its slot and the saved waves stand alike. -/
theorem findUid_congr {s u : State} {c w : Nat} (hslot : u.slot? c w = s.slot? c w) (hsaved : u.sched.saved = s.sched.saved) (uid : Nat) :
    findUid u c w uid = findUid s c w uid := by
  simp only [findUid, hslot, hsaved]

@[simp] theorem Wave.lower_uid (v : Wave) (fl : Option Nat) : (v.lower fl).uid = v.uid := by cases fl <;> rfl
@[simp] theorem Wave.lower_lstat (v : Wave) (fl : Option Nat) : (v.lower fl).lstat = v.lstat := by cases fl <;> rfl
@[simp] theorem Wave.lower_mstat (v : Wave) (fl : Option Nat) : (v.lower fl).mstat = v.mstat := by cases fl <;> rfl

/-! ## Work in a core's local buffers (03 R70; 04 R107, R108) -/

/-- u is s after work of an engine of core c in the core's local buffers: these, its write queue and the counters apart, nothing of
the core, of memory or of the rest has changed. -/
structure LocalWork (s u : State) (c : Nat) : Prop where
  rest : u = { s with cores := u.cores, clusters := u.clusters }
  core : u.core c = { s.core c with
    gangs := (u.core c).gangs, w := (u.core c).w, wpois := (u.core c).wpois, x := (u.core c).x, xpois := (u.core c).xpois,
    l1 := (u.core c).l1, wq := (u.core c).wq, nextWq := (u.core c).nextWq }

namespace LocalWork

variable {s t u : State} {c : Nat}

theorem refl (s : State) (c : Nat) : LocalWork s s c := ⟨rfl, rfl⟩

theorem trans (a : LocalWork s t c) (b : LocalWork t u c) : LocalWork s u c where
  rest := by rw [b.rest, a.rest]
  core := by rw [b.core, a.core]

theorem mem (h : LocalWork s u c) : u.mem = s.mem := by rw [h.rest]
theorem sched (h : LocalWork s u c) : u.sched = s.sched := by rw [h.rest]
theorem ladle (h : LocalWork s u c) : (u.core c).ladle = (s.core c).ladle := by rw [h.core]
theorem col (h : LocalWork s u c) : (u.core c).col = (s.core c).col := by rw [h.core]
theorem slot? (h : LocalWork s u c) (w : Nat) : u.slot? c w = s.slot? c w := by rw [State.slot?, h.core]; rfl

/-- A fold of such work. -/
theorem foldl {α : Type} {f : State → α → State} (h : ∀ s a, LocalWork s (f s a) c) (l : List α) (s : State) :
    LocalWork s (l.foldl f s) c :=
  List.foldlRecOn (motive := fun u => LocalWork s u c) l f (.refl s c) (fun t ht a _ => ht.trans (h t a))

theorem modGang (s : State) (c i : Nat) (g : Gang → Gang) : LocalWork s (s.modGang c i g) c :=
  ⟨rfl, by rw [State.modGang, State.core_modCore]⟩

theorem countEvent (s : State) (c cl f code n : Nat) : LocalWork s (countEvent s cl f code n) c := by
  unfold Machine.countEvent
  split <;> exact ⟨rfl, rfl⟩

theorem locWrite (s : State) (c i : Nat) (b : Buf) (o : Nat) (bs : List Byte) : LocalWork s (locWrite s c i b o bs) c := by
  cases b with
  | g => exact modGang ..
  | w => exact ⟨rfl, by simp only [Machine.locWrite, State.core_modCore]⟩
  | x => exact ⟨rfl, by simp only [Machine.locWrite, State.core_modCore]⟩
  | z => exact refl ..

theorem locPoison (s : State) (c i : Nat) (b : Buf) (o : Nat) (ps : List Nat) : LocalWork s (locPoison s c i b o ps) c := by
  cases b with
  | g => exact modGang ..
  | w => exact ⟨rfl, by simp only [Machine.locPoison, State.core_modCore]⟩
  | x => exact ⟨rfl, by simp only [Machine.locPoison, State.core_modCore]⟩
  | z => exact refl ..

theorem locPut (s : State) (c i buf o : Nat) (bs : List Byte) (ps : List Nat) : LocalWork s (locPut s c i buf o bs ps) c :=
  (locWrite s c i _ o bs).trans (locPoison ..)

theorem setChunkBit (s : State) (c i bm k : Nat) (v : Bool) : LocalWork s (setChunkBit s c i bm k v) c := modGang ..

/-- An engine's write goes into its core's write queue. -/
theorem engPush (s : State) {g : EngAt} (e : WqEntry) (h : g.core = some c) : LocalWork s (engPush s g e) c := by
  simp only [Machine.engPush, h]
  exact ⟨rfl, by simp only [enqueue, State.core_modCore]⟩

end LocalWork

/-! ## An LFILL into a local buffer (04 R108; 10 R234, R240) -/

/-- A fold that hands two states on as they are and adds one element of a kind for each of its list: it adds such elements alone. -/
theorem foldl_collects {α β σ π : Type} {P : α → β → Prop} {f : σ × π × List β → α → σ × π × List β} {s : σ} {p : π} {l : List α}
    (h : ∀ a, a ∈ l → ∃ b, P a b ∧ ∀ bs, f (s, p, bs) a = (s, p, bs ++ [b])) (bs : List β) :
    ∃ cs, l.foldl f (s, p, bs) = (s, p, bs ++ cs) ∧ ∀ b, b ∈ cs → ∃ a, a ∈ l ∧ P a b := by
  induction l generalizing bs with
  | nil => exact ⟨[], by simp, by simp⟩
  | cons a r ih =>
    obtain ⟨b, hb, hf⟩ := h a List.mem_cons_self
    obtain ⟨cs, hcs, hall⟩ := ih (fun x hx => h x (List.mem_cons_of_mem _ hx)) (bs ++ [b])
    refine ⟨b :: cs, by simp [hf, hcs], fun x hx => ?_⟩
    rcases List.mem_cons.mp hx with rfl | hx
    · exact ⟨a, List.mem_cons_self, hb⟩
    · obtain ⟨y, hy, hp⟩ := hall x hx
      exact ⟨y, List.mem_cons_of_mem _ hy, hp⟩

/-- A piece whose source is the command's own value, and whose destination is a local buffer. -/
def Piece.Fills (a : Piece) : Prop := ∃ n b o, a.src = .own n ∧ a.dst = .loc b o

/-- Bytes of LFILL's value: none is poisoned. -/
theorem Job.own_value {j : Job} (h : j.q.stream = none) (s : State) (p n : Nat) : ∃ b, j.own s p n = (b, []) := by
  simp only [Job.own, h]
  exact ⟨_, rfl⟩

theorem readPiece_fill {s : State} {j : Job} (hj : j.q.stream = none) {a : Piece} (ha : a.Fills) (ps : Pages) :
    ∃ b, readPiece s j ps a = (s, ps, .ok b []) := by
  obtain ⟨n, _, _, hsrc, -⟩ := ha
  obtain ⟨b, hb⟩ := Job.own_value hj s n a.n
  exact ⟨b, by simp only [readPiece, hsrc, hb]⟩

/-- Pieces of the command's own value are read as they stand. -/
theorem readPieces_fill {s : State} {j : Job} (hj : j.q.stream = none) {as : List Piece} (ha : ∀ a, a ∈ as → a.Fills) :
    ∃ rs, readPieces s j as = (s, j, rs) ∧ ∀ r, r ∈ rs → r.1.Fills ∧ ∃ b, r.2 = .ok b [] := by
  have hkeep : as.foldl (fun (x : State × Job) a => keepSector x.1 x.2 a.src) (s, j) = (s, j) :=
    foldl_of_fixed fun a h => by
      obtain ⟨n, _, _, hsrc, -⟩ := ha a h
      simp only [hsrc, keepSector, Loc.sector]
  obtain ⟨rs, hrs, hall⟩ := foldl_collects (P := fun a r => r.1 = a ∧ ∃ b, r.2 = Got.ok b [])
    (f := fun (x : State × Pages × List (Piece × Got)) a =>
      ((readPiece x.1 j x.2.1 a).1, (readPiece x.1 j x.2.1 a).2.1, x.2.2 ++ [(a, (readPiece x.1 j x.2.1 a).2.2)]))
    (s := s) (p := j.q.waits) (l := as) (fun a h => by
      obtain ⟨b, hb⟩ := readPiece_fill (s := s) hj (ha a h) j.q.waits
      exact ⟨(a, .ok b []), ⟨rfl, b, rfl⟩, fun bs => by simp only [hb]⟩) []
  refine ⟨rs, ?_, fun r hr => ?_⟩
  · simp only [readPieces, hkeep, hrs, List.nil_append]
  · obtain ⟨a, h, rfl, hb⟩ := hall r hr
    exact ⟨ha _ h, hb⟩

/-- A write of unpoisoned bytes to a local buffer. -/
def Write.Fills (w : Write) : Prop := w.to_ = .to .none ∧ (∃ b o, w.a.dst = .loc b o) ∧ ∃ b, w.got = .ok b []

/-- A local buffer needs no translation. -/
theorem probePieces_fill {s : State} {j : Job} {ps : Pages} {rs : List (Piece × Got)}
    (hr : ∀ r, r ∈ rs → r.1.Fills ∧ ∃ b, r.2 = Got.ok b []) :
    ∃ ws, probePieces s j ps rs = (s, ps, ws) ∧ ∀ w, w ∈ ws → w.Fills := by
  obtain ⟨ws, hws, hall⟩ := foldl_collects (P := fun (_ : Piece × Got) (w : Write) => w.Fills)
    (f := fun (x : State × Pages × List Write) a =>
      ((probePiece x.1 j x.2.1 a.1 a.2).1, (probePiece x.1 j x.2.1 a.1 a.2).2.1, x.2.2 ++ [(probePiece x.1 j x.2.1 a.1 a.2).2.2]))
    (s := s) (p := ps) (l := rs) (fun r h => by
      obtain ⟨⟨_, b, o, -, hdst⟩, d, hd⟩ := hr r h
      have hp : probePiece s j ps r.1 r.2 = (s, ps, { a := r.1, got := r.2, to_ := .to .none, old := 0 }) := by
        simp only [probePiece, hd, hdst]
      exact ⟨{ a := r.1, got := r.2, to_ := .to .none, old := 0 }, ⟨rfl, ⟨b, o, hdst⟩, d, hd⟩, fun bs => by simp only [hp]⟩) []
  exact ⟨ws, hws, fun w hw => (hall w hw).elim fun _ h => h.2⟩

/-- Nothing is gathered for shared memory, and no poison is met. -/
structure Wrote.Local (x : Wrote) : Prop where
  puts : x.puts = []
  sectors : x.sectors = []
  elided : x.elided = []
  pois : x.pois = false

theorem writePiece_fill {s : State} {j : Job} {k : Nat} {x : Wrote} {w : Write} (hw : w.Fills) (hx : x.Local) :
    LocalWork s (writePiece s j k x w).1 j.core ∧ (writePiece s j k x w).2.Local := by
  obtain ⟨hto, ⟨buf, o, hdst⟩, b, hgot⟩ := hw
  obtain ⟨hputs, hsectors, helided, hpois⟩ := hx
  simp only [writePiece, hto, hdst, hgot]
  exact ⟨.locPut .., ⟨hputs, hsectors, helided, by simp [Wrote.more, hpois]⟩⟩

theorem writePieces_fill {j : Job} {k : Nat} (ws : List Write) (hw : ∀ w, w ∈ ws → w.Fills) (s : State) :
    ∃ u x, ws.foldl (fun (a : State × Wrote) w => writePiece a.1 j k a.2 w) (s, default) = (u, x) ∧ LocalWork s u j.core ∧ x.Local :=
  ⟨_, _, rfl, List.foldlRecOn (motive := fun a : State × Wrote => LocalWork s a.1 j.core ∧ a.2.Local) ws _ ⟨.refl .., ⟨rfl, rfl, rfl, rfl⟩⟩
    fun _ ha w h => (writePiece_fill (hw w h) ha.2).imp_left ha.1.trans⟩

/-- Without sectors written there is nothing to watch. -/
theorem watchLadle_nil (s : State) (g : EngAt) : watchLadle s g [] = s := by
  unfold watchLadle
  split
  · rfl
  · exact foldl_of_fixed fun p _ => by simp

theorem countLadle_localWork {s : State} {j : Job} {c : Nat} (n : Nat) : LocalWork s (countLadle s j n) c := by
  unfold countLadle
  split
  · exact .countEvent ..
  · exact .refl ..

/-- What is booked for a chunk finished with: it is one of the command's chunks, and its bit may be set. -/
theorem endChunk_books (s : State) (j : Job) (k : Nat) (x : Wrote) :
    LocalWork s (endChunk s j k x).1 j.core ∧ (endChunk s j k x).2.g = j.g ∧ (endChunk s j k x).2.q.id = j.q.id ∧
    (endChunk s j k x).2.q.chunks = setIns j.q.chunks k := by
  unfold endChunk
  dsimp only
  refine ⟨?_, rfl, rfl, rfl⟩
  split
  · split
    · exact .refl ..
    · exact .setChunkBit ..
  · exact .refl ..

/-- The copy of a chunk whose pieces are all LFILL's value into local buffers. -/
theorem copyChunk_fill {s : State} {j : Job} {k : Nat} (hopc : j.q.opc = 0xD6) (hj : j.q.stream = none)
    (hp : ∀ a, a ∈ j.pieces s k → a.Fills) :
    LocalWork s (copyChunk s j k).1 j.core ∧ (copyChunk s j k).2.g = j.g ∧ (copyChunk s j k).2.q.id = j.q.id ∧
    (copyChunk s j k).2.q.chunks = setIns j.q.chunks k := by
  have hindex : keepIndex s j = (s, j) := by simp [keepIndex, hopc]
  obtain ⟨rs, hrs, hr⟩ := readPieces_fill (s := s) hj hp
  have hwait : anyWait rs = false := by
    simp only [anyWait, List.any_eq_false]
    intro r h
    obtain ⟨-, b, hb⟩ := hr r h
    simp [hb]
  obtain ⟨ws, hws, hw⟩ := probePieces_fill (s := s) (j := j) (ps := j.q.waits) hr
  have hto : (ws.any fun w => w.to_ == .wait) = false := by
    simp only [List.any_eq_false]
    intro w h
    simp [(hw w h).1]
  obtain ⟨u, x, hfold, hwork, hputs, hsectors, helided, hpois⟩ := writePieces_fill (j := j) (k := k) ws hw s
  have hcopy : copyChunk s j k = endChunk (countLadle u j x.n) j k x := by
    simp only [copyChunk, hindex, hrs, hwait, hws, hto, hfold, hputs, hsectors, helided, hpois, Bool.false_eq_true, if_false,
      writeSectors, sectorKeys, writeElided, List.foldl_nil, watchLadle_nil]
  obtain ⟨hend, hbooked⟩ := endChunk_books (countLadle u j x.n) j k x
  rw [hcopy]
  exact ⟨(hwork.trans (countLadle_localWork _)).trans hend, hbooked⟩

/-- The last flit of a command leaves into its core's write queue; the command keeps its number and its chunks. -/
theorem lastStep_keeps (s : State) (j : Job) {c : Nat} (hc : j.g.core = some c) :
    LocalWork s (lastStep (s, j)).1 c ∧ (lastStep (s, j)).2.q.id = j.q.id ∧ (lastStep (s, j)).2.q.chunks = j.q.chunks := by
  unfold lastStep
  split
  · unfold sendLast
    split
    · exact ⟨.refl .., rfl, rfl⟩
    · exact ⟨.engPush _ _ hc, rfl, rfl⟩
  · exact ⟨.refl .., rfl, rfl⟩

/-- The step of a chunk of an LFILL that is not done yet. -/
theorem chunkStep_fill {s : State} {j : Job} {k : Nat} (hopc : j.q.opc = 0xD6) (href : j.q.refused = false)
    (hnew : j.q.chunks.contains k = false) (hwhole : j.q.whole = false) (hk : k < j.nChunk s) :
    chunkStep s j k = some (lastStep (copyChunk s j k)) := by
  have htail : needsTail s j = false := by simp [needsTail, hopc]
  have hle : ¬ j.nChunk s ≤ k := by omega
  have hmem : k ∉ j.q.chunks := by simpa using hnew
  simp [chunkStep, htail, href, hmem, hwhole, hle, hopc]

/-- An accepted command's step. -/
theorem execLadleChunkDone_step {s s' : State} {c id k : Nat} {q : LCmd} {j : Job}
    (hq : (s.core c).ladle.find? (fun q => q.id == id) = some q) (ha : q.accepted = true)
    (hfree : q.refused = true ∨ chunkFree s c (jobOf c q) k = true) (hstep : chunkStep s (jobOf c q) k = some (s', j)) :
    execLadleChunkDone c id k s = .next (putJob s' c j) := by
  have hheld : ¬ (q.refused = false ∧ chunkFree s c (jobOf c q) k = false) := by
    rintro ⟨hr, hf⟩
    rcases hfree with h | h
    · rw [hr] at h; cases h
    · rw [hf] at h; cases h
  simp only [execLadleChunkDone, hq, ha, hheld, hstep, Bool.true_eq_false, if_false]

theorem chunkFills : ChunkFills := by
  intro s c id k q hq ha href hopc hwhole hstream hnew hk hfree hp
  obtain ⟨hwork, hg, hid, hchunks⟩ := copyChunk_fill (s := s) (j := jobOf c q) hopc hstream hp
  obtain ⟨hlast, hid', hchunks'⟩ := lastStep_keeps (copyChunk s (jobOf c q) k).1 (copyChunk s (jobOf c q) k).2
    (c := c) (by rw [hg]; rfl)
  have hall : LocalWork s (lastStep (copyChunk s (jobOf c q) k)).1 c := LocalWork.trans hwork hlast
  have hfound : ((lastStep (copyChunk s (jobOf c q) k)).1.core c).ladle.find? (fun q => q.id == id) = some q := by rw [hall.ladle, hq]
  refine ⟨_, _, (exec_ladleChunkDone_eq ..).trans
    (execLadleChunkDone_step hq ha (.inr hfree) (chunkStep_fill hopc href hnew hwhole hk)), hall.mem,
    find?_putJob hfound ((hid'.trans hid).trans (LCmd.id_of_find? hq)), hchunks'.trans hchunks⟩

/-! ## Ladle commands (04 R109; 10 R225, R226, R236) -/

/-- A command that nothing holds is accepted in its place of the core's order (log 56). -/
theorem execLadleChunkDone_accepts {s : State} {c id : Nat} {q : LCmd} (hq : (s.core c).ladle.find? (fun q => q.id == id) = some q)
    (ha : q.accepted = false) (hr : engReady s c q.by_ = true) (k : Nat) :
    ((∃ p, p ∈ (s.core c).ladle ∧ p.ord < q.ord ∧ p.accepted = false ∧ engReady s c p.by_ = true) →
      execLadleChunkDone c id k s = .next s) ∧
    ((∀ p, p ∈ (s.core c).ladle → p.ord < q.ord → p.accepted = false → engReady s c p.by_ = false) →
      execLadleChunkDone c id k s = .next (putJob (acceptJob s (jobOf c q)).1 c (acceptJob s (jobOf c q)).2)) := by
  have hexec : execLadleChunkDone c id k s = .next (tryAccept s c id) := by simp only [execLadleChunkDone, hq, ha, hr, if_true]
  rw [hexec]
  constructor
  · rintro ⟨p, hp, hlt, hnot, hready⟩
    have hany : ((s.core c).ladle.any fun p => decide (p.ord < q.ord) && !p.accepted && engReady s c p.by_) = true :=
      List.any_eq_true.mpr ⟨p, hp, by simp [hlt, hnot, hready]⟩
    simp [tryAccept, hq, hany]
  · intro hall
    have hany : ((s.core c).ladle.any fun p => decide (p.ord < q.ord) && !p.accepted && engReady s c p.by_) = false := by
      simp only [List.any_eq_false, Bool.and_eq_true, decide_eq_true_eq, Bool.not_eq_true', not_and, Bool.not_eq_true]
      exact fun p hp h => hall p hp h.1 h.2
    simp [tryAccept, hq, hr, hany]

/-- A command that is done completes, but that a collective first asks its members. -/
theorem execLadleComplete_done {s : State} {c id : Nat} {q : LCmd} (hq : (s.core c).ladle.find? (fun q => q.id == id) = some q)
    (hopc : q.opc ≠ 0xD5) (hd : ladleDone s c (jobOf c q) = true) (m : List (List Byte)) :
    execLadleComplete c id m s = .next (ladleEnd s c (jobOf c q)) := by
  simp [execLadleComplete, hq, hopc, hd]

/-- Where no completed tile stands, none retires. -/
theorem retireSlots_of_no_tiles {s : State} {c : Nat} (h : (s.core c).tiles = []) (ord : Nat) (zs : List Nat) (tout : W64) :
    retireSlots s c ord zs tout = s := by
  simp [retireSlots, retiredBy, h]

/-- A command's requests to peers are forgotten. -/
def dropPeers (s : State) (c kind id : Nat) : State := { s with peers := s.peers.filter (fun p => p.cmd != some (c, kind, id)) }

@[simp] theorem dropPeers_mem (s : State) (c kind id : Nat) : (dropPeers s c kind id).mem = s.mem := rfl
@[simp] theorem dropPeers_core (s : State) (c kind id d : Nat) : (dropPeers s c kind id).core d = s.core d := rfl
@[simp] theorem dropPeers_slot? (s : State) (c kind id d w : Nat) : (dropPeers s c kind id).slot? d w = s.slot? d w := rfl

/-- A change of a core that keeps its slots keeps its waves. -/
theorem State.slot?_modCore {s : State} {c : Nat} {g : Core → Core} (h : (g (s.core c)).slots = (s.core c).slots) (w : Nat) :
    (s.modCore c g).slot? c w = s.slot? c w := by
  rw [State.slot?, State.core_modCore, h]
  rfl

/-- The core of a wave that changes. -/
theorem State.core_modWave (s : State) (c w : Nat) (g : Wave → Wave) : (s.modWave c w g).core c =
    { s.core c with slots := (s.core c).slots.adj w (fun t => { t with wave := g t.wave }) } := by
  rw [State.modWave, State.modSlot, State.core_modCore]

/-- The completion of a command that fills no ring and copies no tile out, whose wave is resident. -/
theorem ladleEnd_plain {s : State} {c : Nat} {q : LCmd} {t : Slot} (hdst : ∀ d, (jobOf c q).dst s = some d → d.space ≠ 4)
    (htiles : (s.core c).tiles = []) (hs : s.slot? c q.by_.wave = some t) (hu : t.wave.uid = q.by_.uid) :
    ladleEnd s c (jobOf c q) =
      (dropPeers (s.modWave c q.by_.wave (fun w => ({ w with lstat := w.lstat.complete q } : Wave).lower q.by_.flag)) c 0 q.id).modCore c
        (fun k => ({ k with ladle := k.ladle.filter (fun p => p.id != q.id) } : Core).trimKeep) := by
  have htiles' (f : Wave → Wave) : ((s.modWave c q.by_.wave f).core c).tiles = [] := by
    rw [State.core_modWave, htiles]
  cases hd : (jobOf c q).dst s with
  | none =>
    simp only [ladleEnd, hd]
    simp only [jobOf, modUid_resident hs hu, retireSlots_of_no_tiles (htiles' _), ite_self, dropPeers]
  | some d =>
    have hring : ¬ (d.space = 4 ∧ (jobOf c q).q.refused = false) := fun h => hdst d hd h.1
    cases hstage : (jobOf c q).q.stage <;>
      simp only [ladleEnd, hd, hstage, hring, if_false] <;>
      simp only [jobOf, modUid_resident hs hu, retireSlots_of_no_tiles (htiles' _), ite_self, dropPeers]

theorem ladleCompletes : LadleCompletes := by
  intro s c id q t hq hopc hd hdst htiles hs hu m
  refine ⟨_, { t with wave := ({ t.wave with lstat := t.wave.lstat.complete q } : Wave).lower q.by_.flag },
    (exec_ladleComplete_eq ..).trans (execLadleComplete_done hq hopc hd m), ?_⟩
  rw [ladleEnd_plain hdst htiles hs hu]
  have hdone : (t.wave.lstat.complete q).done = t.wave.lstat.done + 1 := by
    unfold LStat.complete
    dsimp only
    split
    · rfl
    · split <;> rfl
  refine ⟨rfl, ?_, ?_, ?_, ?_, Wave.lower_regs ..⟩
  · simp only [State.core_modCore, Core.trimKeep, dropPeers_core, State.core_modWave, LCmd.id_of_find? hq]
  · rw [State.slot?_modCore rfl, dropPeers_slot?, State.slot?_modWave, hs]
    rfl
  · simpa using hdone
  · cases q.by_.flag <;> rfl

/-! ## MXE commands (10 R243, R246, R248) -/

/-- The event goes on with the acceptance of a command that may begin. -/
theorem execMxeCommandStart_accepts {s : State} {c id : Nat} {q : MCmd} (hq : (s.core c).mx.find? (fun q => q.id == id) = some q)
    (ha : q.accepted = false) (hr : engReady s c q.by_ = true) : execMxeCommandStart c id s = .next (mxAccept s c id) := by
  simp only [execMxeCommandStart, hq, ha, hr, if_true]

/-- A command's start, where its accumulators and first operands are free. -/
theorem execMxeCommandStart_starts {s : State} {c id : Nat} {q : MCmd} (hq : (s.core c).mx.find? (fun q => q.id == id) = some q)
    (ha : q.accepted = true) (hsp : q.spilled = false) (hst : q.started = false) (hqu : quiescing s c q.by_.uid = false)
    (h0 : q.status = 0) (hw : q.writes.any (writeHeld s c q.ord) = false)
    (hr : q.opc = 0xDA ∨ mxReadable s c q false = true ∧ mxReadable s c q true = true) :
    execMxeCommandStart c id s = .next (s.modCore c (fun k => { k with mx := k.mx.map (fun p =>
      if p.id = id then { p with started := true, tIn := if p.prog = 0 then (s.core c).clock else p.tIn } else p) })) := by
  have hread : (q.opc != 0xDA && !(mxReadable s c q false && mxReadable s c q true)) = false := by
    rcases hr with h | ⟨h, h'⟩
    · simp [h]
    · simp [h, h']
  simp only [execMxeCommandStart, hq, ha, hsp, hst, hqu, h0, hw, hread, bne_self_eq_false, Bool.or_self, Bool.true_eq_false,
    Bool.false_eq_true, if_false, modMx]

/-- A k-step whose operands are read. -/
theorem execMxeKstep_does {s s1 s2 : State} {c id : Nat} {q q1 q2 : MCmd} {as bs : List MxEl} {pa pb : Bool}
    (hq : (s.core c).mx.find? (fun q => q.id == id) = some q) (h0 : q.status = 0) (hst : q.started = true) (hopc : q.opc ≠ 0xDA)
    (hk : q.prog < q.ksteps) (ht : teamMay s q = true) (ha : mxReadable s c q false = true) (hb : mxReadable s c q true = true)
    (hA : mxOperand s c q false = (s1, q1, .ok as pa)) (hB : mxOperandB s1 c q1 = (s2, q2, .ok bs pb)) :
    execMxeKstep c id s = .next (mxDo s2 c q2 as bs (pa || pb)) := by
  have hle : decide (q.ksteps ≤ q.prog) = false := by simpa using hk
  simp [execMxeKstep, hq, h0, hst, hopc, hle, ht, ha, hb, hA, hB]

theorem execMxeComplete_done {s : State} {c id : Nat} {q : MCmd} (hq : (s.core c).mx.find? (fun q => q.id == id) = some q)
    (hd : mxDone s c q = true) : execMxeComplete c id s = .next (mxEnd s c q) := by
  simp only [execMxeComplete, hq, hd, if_true]

/-- The change of an accumulator leaves a core's queues. -/
theorem zSetSlot_mx (k : Core) (z : Nat) (ws : List W32) : (zSetSlot k z ws).mx = k.mx := rfl

theorem mxBlock_mx (k : Core) (t fa fb : Fmt) (fresh : Bool) (zs : List Nat) (rows cols : List (List MxEl)) :
    (mxBlock k t fa fb fresh zs rows cols).1.mx = k.mx :=
  List.foldlRecOn (motive := fun x : Core => x.mx = k.mx) _ _ rfl fun _ h _ _ => (zSetSlot_mx ..).trans h

/-- The arithmetic of a k-step changes the accumulators of its core: the queue of commands stands, and so does all beside the cores. -/
theorem mxCompute_keeps (s : State) (c : Nat) (q : MCmd) (fa fb : Nat) (as bs : List MxEl) :
    OnlyCores s (mxCompute s c q fa fb as bs).1 ∧ ((mxCompute s c q fa fb as bs).1.core c).mx = (s.core c).mx := by
  unfold mxCompute
  split
  · exact ⟨.refl s, rfl⟩
  · dsimp only
    refine ⟨rfl, ?_⟩
    rw [State.core_setCore]
    exact List.foldlRecOn (motive := fun x : Core × Exc × Bool => x.1.mx = (s.core c).mx) _ _ rfl
      fun _ h _ _ => (mxBlock_mx ..).trans h

/-- A command that holds no stage ends no drain. -/
theorem mxDrain_of_no_stage {q : MCmd} (hA : q.stA = []) (hB : q.stB = []) (s : State) (c : Nat) (b : Bool) :
    mxDrain s c q b = (s, q) := by
  cases b <;> simp [mxDrain, hA, hB]

theorem teamProg_of_none {q : MCmd} (h : q.team = none) (s : State) (n : Nat) : teamProg s q n = s := by simp only [teamProg, h]

theorem teamMay_of_solo {q : MCmd} (h : q.isTeam = false) (s : State) : teamMay s q = true := by simp [teamMay, h]

@[simp] theorem MCmd.waitFrom_id (q : MCmd) (t : W64) : (q.waitFrom t).id = q.id := by unfold MCmd.waitFrom; split <;> rfl
@[simp] theorem MCmd.waitFrom_prog (q : MCmd) (t : W64) : (q.waitFrom t).prog = q.prog := by unfold MCmd.waitFrom; split <;> rfl
@[simp] theorem MCmd.waitFrom_tDone (q : MCmd) (t : W64) : (q.waitFrom t).tDone = q.tDone := by unfold MCmd.waitFrom; split <;> rfl

/-- A change of the queue of commands leaves the accumulators. -/
theorem modMx_z (s : State) (c id : Nat) (g : MCmd → MCmd) : ((modMx s c id g).core c).z = (s.core c).z := by
  rw [modMx, State.core_modCore]

/-- A command with its k-step booked: it stands in the queue, and may wait for its next operands since now. -/
theorem kstep_booked {s s0 : State} {c id : Nat} {p q : MCmd} {z : Tab W32}
    (h : (s.core c).mx.find? (fun q => q.id == id) = some p) (hid : q.id = id) (hmem : s.mem = s0.mem) (hz : (s.core c).z = z)
    {d : Prop} {_ : Decidable d} {clock : W64} :
    let u := if d then modMx (modMx s c id (fun _ => q)) c id (fun q => q.waitFrom clock) else modMx s c id (fun _ => q)
    ∃ r, u.mem = s0.mem ∧ (u.core c).z = z ∧
      (u.core c).mx.find? (fun q => q.id == id) = some r ∧ r.prog = q.prog ∧ r.tDone = q.tDone := by
  have hput : ((modMx s c id (fun _ => q)).core c).mx.find? (fun q => q.id == id) = some q :=
    find?_modMx (g := fun _ => q) (fun _ _ => hid) h
  have hputz : ((modMx s c id (fun _ => q)).core c).z = z := (modMx_z ..).trans hz
  by_cases hd : d
  · simp only [hd, if_true]
    exact ⟨_, hmem, (modMx_z ..).trans hputz, find?_modMx (fun p hp => (MCmd.waitFrom_id ..).trans hp) hput,
      MCmd.waitFrom_prog .., MCmd.waitFrom_tDone ..⟩
  · simp only [hd, if_false]
    exact ⟨q, hmem, hputz, hput, rfl, rfl⟩

/-- An operand that is read has a side. -/
theorem mxOperand_side {s s' : State} {c : Nat} {q q' : MCmd} {b pois : Bool} {els : List MxEl}
    (h : mxOperand s c q b = (s', q', .ok els pois)) : ∃ d, q.side b (nRings s c q.by_.gang) = some d := by
  cases hd : q.side b (nRings s c q.by_.gang) with
  | none => simp [mxOperand, hd] at h
  | some d => exact ⟨d, rfl⟩

/-- A k-step of a command of its own, without rings and without poison. -/
theorem mxDo_solo {s : State} {c id : Nat} {q : MCmd} {a b : Side} {as bs : List MxEl}
    (hq : (s.core c).mx.find? (fun q => q.id == id) = some q) (hteam : q.team = none) (hA : q.stA = []) (hB : q.stB = [])
    (ha : q.side false (nRings s c q.by_.gang) = some a) (hb : q.side true (nRings s c q.by_.gang) = some b)
    (hpois : (mxCompute s c q a.fmt b.fmt as bs).2.2 = false) :
    ∃ q', (mxDo s c q as bs false).mem = s.mem ∧
      ((mxDo s c q as bs false).core c).z = ((mxCompute s c q a.fmt b.fmt as bs).1.core c).z ∧
      ((mxDo s c q as bs false).core c).mx.find? (fun q => q.id == id) = some q' ∧ q'.prog = q.prog + 1 ∧
      q'.tDone = (s.core c).clock := by
  obtain ⟨honly, hmx⟩ := mxCompute_keeps s c q a.fmt b.fmt as bs
  obtain ⟨x, hx⟩ : ∃ x, x = (countEvent (mxCompute s c q a.fmt b.fmt as bs).1 (clusterOf c) q.by_.vf 10 1).modCore c
    (fun k => { k with mxLast := (s.core c).clock }) := ⟨_, rfl⟩
  have hcore : x.core c = { (mxCompute s c q a.fmt b.fmt as bs).1.core c with mxLast := (s.core c).clock } := by
    rw [hx, State.core_modCore, State.core, countEvent_cores]
    rfl
  have hfound : (x.core c).mx.find? (fun q => q.id == id) = some q := by rw [hcore, hmx, hq]
  have hmem : x.mem = s.mem := by rw [hx, State.modCore_mem, countEvent_mem, honly.mem]
  simp only [mxDo, ha, hb, hpois, Bool.or_self, Bool.false_eq_true, if_false, mxDrain_of_no_stage hA hB, teamProg_of_none, hteam, ← hx,
    MCmd.id_of_find? hq]
  exact kstep_booked hfound (by rfl) hmem (congrArg Core.z hcore)

theorem kstepDone : KstepDone := by
  intro s c id q as bs hq h0 hst hopc hk hteam hsolo hA hB hra hrb hopA hopB fmt n r hpois
  obtain ⟨a, ha⟩ := mxOperand_side hopA
  obtain ⟨b, hb⟩ := mxOperand_side hopB
  have hr : r = mxCompute s c q a.fmt b.fmt as bs := by simp only [r, n, ha, hb, fmt]
  have hopB' : mxOperandB s c q = (s, q, .ok bs false) := by
    simp only [mxOperandB, hsolo, Bool.false_and, Bool.false_eq_true, if_false, hopB]
  rw [hr] at hpois ⊢
  obtain ⟨q', h⟩ := mxDo_solo hq hteam hA hB ha hb hpois
  exact ⟨_, q', (exec_mxeKstep_eq ..).trans (execMxeKstep_does hq h0 hst hopc hk (teamMay_of_solo hsolo s) hra hrb hopA hopB'), h⟩

/-- Where no command lies in a spill ring, none returns from one. -/
theorem Core.unspill_of_none {k : Core} (h : ∀ p, p ∈ k.mx → p.spilled = false) : k.unspill = k := by
  have hfold (l : List MCmd) (hl : ∀ p, p ∈ l → p.spilled = false) (a : Nat × List MCmd) :
      l.foldl (fun (a : Nat × List MCmd) (q : MCmd) =>
        if q.spilled && decide (a.1 < 64) then (a.1 + 1, a.2 ++ [{ q with spilled := false }]) else (a.1, a.2 ++ [q])) a = (a.1, a.2 ++ l) := by
    induction l generalizing a with
    | nil => simp
    | cons p r ih =>
      have hp : p.spilled = false := hl p List.mem_cons_self
      rw [List.foldl_cons, hp, Bool.false_and, if_neg Bool.false_ne_true, ih (fun x hx => hl x (List.mem_cons_of_mem _ hx))]
      simp
  simp only [Core.unspill, hfold k.mx h, List.nil_append]

theorem teamOf?_of_none {q : MCmd} (h : q.team = none) (s : State) : teamOf? s q = none := by simp only [teamOf?, h]

/-- Changes of a core that agree on it as it stands are one. -/
theorem State.modCore_congr {s : State} {c : Nat} {f g : Core → Core} (h : f (s.core c) = g (s.core c)) : s.modCore c f = s.modCore c g :=
  congrArg (s.setCore c) h

/-- A command as its tile's record has it: one without k-steps has its times from its completion. -/
def MCmd.ended (q : MCmd) (clock : W64) : MCmd :=
  { q with tIn := if q.prog = 0 then clock else q.tIn, tDone := if q.prog = 0 then clock else q.tDone }

/-- The completion of a matrix product of its own, the newest of its queue, whose wave is resident: its tile stands. -/
theorem mxEnd_solo {s : State} {c : Nat} {q : MCmd} {t : Slot} (hopc : q.opc ≠ 0xDA) (hteam : q.team = none)
    (hmx : ∀ p, p ∈ (s.core c).mx → p.spilled = false ∧ p.ord ≤ q.ord) (hs : s.slot? c q.by_.wave = some t)
    (hu : t.wave.uid = q.by_.uid) :
    mxEnd s c q =
      (dropPeers (s.modWave c q.by_.wave (fun w =>
        ({ w with mstat := w.mstat.complete (q.ended (s.core c).clock) } : Wave).lower q.by_.flag)) c 1 q.id).modCore c
        (fun k => ({ k with
          mx := k.mx.filter (fun p => p.id != q.id), tiles := k.tiles ++ [TileRec.mk (q.ended (s.core c).clock)] } : Core).trimKeep) := by
  unfold mxEnd
  extract_lets clock s1 tin r s2 s3 s4 sched s5 named s6 gone
  have h1 : s1 = s := if_neg (fun h => hopc h.1)
  have h2 : s2 = s := (teamProg_of_none hteam s1 65536).trans h1
  have h3 : s3 = s.modWave c q.by_.wave (fun w =>
      ({ w with mstat := w.mstat.complete (q.ended (s.core c).clock) } : Wave).lower q.by_.flag) := by
    rw [← modUid_resident hs hu, ← h2]
    rfl
  have h4 : s4 = dropPeers s3 c 1 q.id := rfl
  have h5 : s5 = s4 := by simp only [s5, teamOf?_of_none (show r.team = none from hteam)]
  have hmx5 : (s5.core c).mx = (s.core c).mx := by rw [h5, h4, h3, dropPeers_core, State.core_modWave]
  have hnamed : named = false := List.any_eq_false.mpr fun p hp => by
    rw [hmx5] at hp
    have hord : ¬ r.ord < p.ord := Nat.not_lt.mpr (hmx p hp).2
    simp [hord]
  have h6 : s6 = s5.modCore c (fun k => ({ k with
      mx := k.mx.filter (fun p => p.id != q.id), tiles := k.tiles ++ [TileRec.mk (q.ended (s.core c).clock)] } : Core).trimKeep) := by
    refine State.modCore_congr (congrArg Core.trimKeep (Core.unspill_of_none fun p hp => ?_))
    have hp' : p ∈ (s5.core c).mx := List.mem_of_mem_filter hp
    rw [hmx5] at hp'
    exact (hmx p hp').1
  have hslot : s6.slot? c q.by_.wave = some { t with wave :=
      ({ t.wave with mstat := t.wave.mstat.complete (q.ended (s.core c).clock) } : Wave).lower q.by_.flag } := by
    rw [h6, State.slot?_modCore rfl, h5, h4, h3, dropPeers_slot?, State.slot?_modWave, hs]
    rfl
  have hgone : gone = false := by
    have huid : (({ t.wave with mstat := t.wave.mstat.complete (q.ended (s.core c).clock) } : Wave).lower q.by_.flag).uid = q.by_.uid :=
      (Wave.lower_uid ..).trans hu
    simp only [gone, findUid, show r.by_ = q.by_ from rfl, hslot, huid, if_true, Option.isNone_some]
  rw [hnamed, hgone, Bool.or_self, if_neg Bool.false_ne_true, h6, h5, h4, h3]

theorem mxeCompletes : MxeCompletes := by
  intro s c id q t hq hd hopc hteam hmx hs hu
  refine ⟨_, { t with wave := ({ t.wave with mstat := t.wave.mstat.complete (q.ended (s.core c).clock) } : Wave).lower q.by_.flag },
    TileRec.mk (q.ended (s.core c).clock), (exec_mxeComplete_eq ..).trans (execMxeComplete_done hq hd), ?_⟩
  rw [mxEnd_solo hopc hteam hmx hs hu]
  have hexc : (t.wave.mstat.complete (q.ended (s.core c).clock)).exc = t.wave.mstat.exc ||| q.exc := by
    unfold MStat.complete
    dsimp only
    split <;> rfl
  refine ⟨rfl, ?_, ?_, rfl, ?_, ?_, ?_, Wave.lower_regs ..⟩
  · simp only [State.core_modCore, Core.trimKeep, dropPeers_core, State.core_modWave, MCmd.id_of_find? hq]
  · simp only [State.core_modCore, Core.trimKeep, dropPeers_core, State.core_modWave]
  · rw [State.slot?_modCore rfl, dropPeers_slot?, State.slot?_modWave, hs]
    rfl
  · simpa using hexc
  · cases q.by_.flag <;> rfl

/-! ## The Colander's lists (11 R265, R270) -/

@[simp] theorem core_modCol (s : State) (c : Nat) (g : Colander → Colander) :
    (modCol s c g).core c = { s.core c with col := g (s.core c).col } := State.core_modCore ..

@[simp] theorem modCol_mem (s : State) (c : Nat) (g : Colander → Colander) : (modCol s c g).mem = s.mem := rfl

@[simp] theorem slot?_modCol (s : State) (c : Nat) (g : Colander → Colander) (w : Nat) : (modCol s c g).slot? c w = s.slot? c w :=
  State.slot?_modCore rfl w

@[simp] theorem gang?_modCol (s : State) (c : Nat) (g : Colander → Colander) (i : Nat) : (modCol s c g).gang? c i = s.gang? c i := by
  rw [State.gang?, core_modCol]
  rfl

@[simp] theorem dropBeam_beams (s : State) (c id : Nat) :
    ((dropBeam s c id).core c).col.beams = (s.core c).col.beams.filter (fun b => b.id != id) := by
  rw [dropBeam, core_modCol]

/-- References that become pending have numbers of their own. -/
theorem addBeams_beams (s : State) (c : Nat) (bs : List Beam) : ((addBeams s c bs).core c).col.beams =
    (s.core c).col.beams ++ bs.zipIdx.map (fun b => { b.1 with id := (s.core c).col.nextId + b.2, waits := [] }) := by
  rw [addBeams, core_modCol]

/-- A gang that does not end leaves its records to its waves (11 R268). -/
theorem takeOpen_of_going {s : State} {c i : Nat} (h : ∀ g, s.gang? c i = some g → g.ending = false) : takeOpen s c i = s := by
  unfold takeOpen
  split
  · rfl
  · next g hg => rw [if_pos (h g hg)]

/-! ## A query is accepted (11 R257, R265, R270, R271) -/

/-- The first query of the intake queue is taken where no continuation waits. -/
theorem execColanderAccept_first {s : State} {c : Nat} {q : Query} {qs : List Query} (hconts : (s.core c).col.conts = [])
    (hq : (s.core c).col.intake = q :: qs) (hrec : q.qrec ≠ []) (hlive : (s.core c).col.live.length < 128)
    (hready : engReady s c q.by_ = true) : execColanderAccept c s = .next (queryAccept s c q) := by
  have hno : ¬ (q.qrec = [] ∨ 128 ≤ (s.core c).col.live.length ∨ engReady s c q.by_ = false) := by
    simp only [hrec, hready, not_or]
    exact ⟨id, by omega, Bool.noConfusion⟩
  simp only [execColanderAccept, hconts, List.findSome?_nil, hq, if_neg hno]

/-- Records merged into a grid in G are written at once (11 R271). -/
theorem mergeRecs_grid {s : State} {c : Nat} {q : Query} (h : q.rg = true) (g : EngAt) (ps : Pages) (rs : List (Nat × List W32)) :
    ∃ u, mergeRecs s c g q ps rs = (u, ps, some (rs.map (fun _ => none))) ∧ LocalWork s u c := by
  refine ⟨_, by simp only [mergeRecs, h, if_true]; rfl, .foldl (fun s r => ?_) rs s⟩
  exact .locPut ..

/-- Merges that are all made meet no code. -/
theorem refusals_none {α : Type} (l : List α) : refusals (l.map (fun _ => none)) = [] := by
  simp [refusals]

/-- A legal query whose beam record is read and whose grid in G nothing holds goes live with its starting references. -/
theorem queryAccept_grid {s : State} {c : Nat} {q a : Query} (ha : { q with acquired := true } = a) (hacq : q.f.m 3 1 = 0)
    (hbeam : a.beam ≠ []) (hcodes : queryCodes s c a = []) (hheld : gridHeld s c a = false) (hrg : a.rg = true) :
    ∃ u, queryAccept s c q = addBeams (goLive u c a) c (rootBeams a) ∧ LocalWork s u c := by
  obtain ⟨u, hmerge, hwork⟩ := mergeRecs_grid (s := s) (c := c) hrg (colAt c a.by_ a.qid) a.waits
    ((List.range (a.w * a.h)).map (fun i => (i, missRec)))
  have hread : queryBeam s c a = (s, a, some 0) := by
    have hskip : (a.beam != []) = true := by simpa using hbeam
    simp only [queryBeam, hskip, Bool.true_or, if_true]
  have hno : ((q.f.m 3 1 == 1) && !q.acquired) = false := by rw [hacq]; rfl
  refine ⟨u, ?_, hwork⟩
  simp only [queryAccept, hno, ha, hread, hcodes, hheld, hmerge, refusals_none, Bool.false_eq_true, if_false, if_true, List.append_nil,
    List.foldl_nil]

theorem rootBeams_length (q : Query) : (rootBeams q).length = if q.opc = 0xE9 then q.rays else 1 := by
  unfold rootBeams
  split <;> simp

theorem queryAccepted : QueryAccepted := by
  intro s c q qs hconts hq hrec hlive hready hacq hbeam hcodes hheld hrg
  obtain ⟨u, haccept, hwork⟩ := queryAccept_grid rfl hacq hbeam hcodes hheld hrg
  refine ⟨_, { q with acquired := true }, (exec_colanderAccept_eq ..).trans (execColanderAccept_first hconts hq hrec hlive hready), ?_⟩
  rw [haccept]
  refine ⟨hwork.mem, ?_, ?_, rfl, rfl, ?_⟩
  · simp only [addBeams, goLive, core_modCol, hwork.col]
  · simp only [addBeams, goLive, core_modCol, hwork.col]
  · rw [addBeams_beams, List.length_append, List.length_map, List.length_zipIdx, rootBeams_length]
    simp only [goLive, core_modCol, hwork.col]

/-! ## A pending reference is visited (11 R265 to R268) -/

/-- A reference all of whose sub-rays are absent is dropped. -/
theorem execColanderNodeVisit_empty {s : State} {c id : Nat} {b : Beam} {q : Query}
    (hb : (s.core c).col.beams.find? (fun b => b.id == id) = some b) (hq : query? s c b.qid = some q) (h : b.cells q = []) :
    execColanderNodeVisit c id s = .next (takeOpen (dropBeam s c b.id) c q.by_.gang) := by
  simp only [execColanderNodeVisit, hb, hq, h, List.isEmpty_nil, if_true]

/-- A child of a split goes to its record, or goes on as rays. -/
theorem execColanderNodeVisit_child {s : State} {c id : Nat} {b : Beam} {q : Query}
    (hb : (s.core c).col.beams.find? (fun b => b.id == id) = some b) (hq : query? s c b.qid = some q) (h : b.cells q ≠ [])
    (hchild : b.child = true) : execColanderNodeVisit c id s =
      .next (takeOpen (splitChild (dropBeam s c b.id) c q.qid { b with child := false }) c q.by_.gang) := by
  simp only [execColanderNodeVisit, hb, hq, List.isEmpty_iff, h, hchild, if_false, if_true]

/-- Any other reference in world space is descended where it is a starting one, and else as its classification says. -/
theorem execColanderNodeVisit_classifies {s : State} {c id : Nat} {b : Beam} {q : Query}
    (hb : (s.core c).col.beams.find? (fun b => b.id == id) = some b) (hq : query? s c b.qid = some q) (hi : b.inst = none)
    (h : b.cells q ≠ []) (hchild : b.child = false) :
    (b.start = true ∨ b.classify q = .in_ → execColanderNodeVisit c id s =
      .next (takeOpen (descend s c (colAt c (beamIssuer s c q b) q.qid) q b) c q.by_.gang)) ∧
    (b.start = false → b.classify q = .out → execColanderNodeVisit c id s = .next (takeOpen (dropBeam s c b.id) c q.by_.gang)) ∧
    (b.start = false → b.classify q = .part → execColanderNodeVisit c id s = .next (takeOpen (partVisit s c q b) c q.by_.gang)) := by
  have hopen : b.inst.isNone = true ∨ b.instM ≠ [] := .inl (by rw [hi]; rfl)
  have hexec : execColanderNodeVisit c id s =
      if b.start then .next (takeOpen (descend s c (colAt c (beamIssuer s c q b) q.qid) q b) c q.by_.gang)
      else match b.classify q with
        | .out => .next (takeOpen (dropBeam s c b.id) c q.by_.gang)
        | .in_ => .next (takeOpen (descend s c (colAt c (beamIssuer s c q b) q.qid) q b) c q.by_.gang)
        | .part => .next (takeOpen (partVisit s c q b) c q.by_.gang) := by
    simp only [execColanderNodeVisit, hb, hq, List.isEmpty_iff, h, hchild, Bool.false_eq_true, if_false, if_pos hopen] <;> rfl
  rw [hexec]
  refine ⟨?_, fun hs hc => by rw [hs, hc]; rfl, fun hs hc => by rw [hs, hc]; rfl⟩
  cases hs : b.start with
  | true => exact fun _ => rfl
  | false => exact fun hc => by rw [hc.resolve_left Bool.noConfusion]; rfl

/-- A part of a beam, one level deeper: columns u and rows v, each a first cell and a count. -/
def Beam.sub (b : Beam) (u v : Nat × Nat) : Beam := { b with x0 := u.1, y0 := v.1, cw := u.2, ch := v.2, depth := b.depth + 1 }

/-- The cells of a beam lie in its window and hold a sub-ray. -/
theorem Beam.mem_cells {b : Beam} {q : Query} {p : Nat × Nat} : p ∈ b.cells q ↔
    (b.x0 ≤ p.1 ∧ p.1 < b.x0 + b.cw) ∧ (b.y0 ≤ p.2 ∧ p.2 < b.y0 + b.ch) ∧ (q.ray p.1 p.2).1 = true := by
  obtain ⟨x, y⟩ := p
  simp only [Beam.cells, List.mem_filter, List.mem_flatMap, List.mem_map, List.mem_range, Prod.mk.injEq]
  constructor
  · rintro ⟨⟨j, hj, i, hi, rfl, rfl⟩, hray⟩
    exact ⟨⟨by omega, by omega⟩, ⟨by omega, by omega⟩, hray⟩
  · rintro ⟨⟨hx, hx'⟩, ⟨hy, hy'⟩, hray⟩
    exact ⟨⟨y - b.y0, by omega, x - b.x0, by omega, by omega, by omega⟩, hray⟩

/-- The halves of a range lie in it. -/
theorem halves_within {x n : Nat} {u : Nat × Nat} (h : u ∈ halves x n) : x ≤ u.1 ∧ u.1 + u.2 ≤ x + n := by
  unfold halves at h
  split at h
  · obtain rfl : u = (x, n) := by simpa using h
    exact ⟨by simp, by simp⟩
  · rcases List.mem_pair.mp h with rfl | rfl
    · exact ⟨by simp, by simp only; omega⟩
    · exact ⟨by simp, by simp only; omega⟩

/-- They cover it. -/
theorem halves_cover {x n i : Nat} (h : x ≤ i ∧ i < x + n) : ∃ u, u ∈ halves x n ∧ u.1 ≤ i ∧ i < u.1 + u.2 := by
  unfold halves
  split
  · exact ⟨(x, n), by simp, h⟩
  · by_cases hi : i < x + (n + 1) / 2
    · exact ⟨(x, (n + 1) / 2), by simp, h.1, hi⟩
    · exact ⟨(x + (n + 1) / 2, n / 2), by simp, by simp only; omega, by simp only; omega⟩

/-- A reference x that is k, pending under a number of its own. -/
def Beam.PendsAs (k x : Beam) : Prop := ∃ i, x = { k with id := i, waits := [] }

/-- References that become pending one after another, each as f makes it, stand after those that pend already. -/
theorem addBeams_each (f : Beam → Beam) (c : Nat) (ks : List Beam) (s : State) :
    let u := ks.foldl (fun s k => addBeams s c [f k]) s
    u.mem = s.mem ∧ (∀ i, u.gang? c i = s.gang? c i) ∧ ∃ new, (u.core c).col.beams = (s.core c).col.beams ++ new ∧
      (∀ x, x ∈ new → ∃ k, k ∈ ks ∧ (f k).PendsAs x) ∧ ∀ k, k ∈ ks → ∃ x, x ∈ new ∧ (f k).PendsAs x := by
  induction ks generalizing s with
  | nil => exact ⟨rfl, fun _ => rfl, [], by simp⟩
  | cons k r ih =>
    obtain ⟨hmem, hgang, new, hbeams, hfrom, hall⟩ := ih (addBeams s c [f k])
    refine ⟨hmem.trans rfl, fun i => (hgang i).trans (gang?_modCol ..), { f k with id := (s.core c).col.nextId, waits := [] } :: new, ?_, ?_, ?_⟩
    · rw [List.foldl_cons, hbeams, addBeams_beams, List.append_assoc]
      rfl
    · intro x hx
      rcases List.mem_cons.mp hx with rfl | hx
      · exact ⟨k, List.mem_cons_self, _, rfl⟩
      · obtain ⟨a, ha, hp⟩ := hfrom x hx
        exact ⟨a, List.mem_cons_of_mem _ ha, hp⟩
    · intro a ha
      rcases List.mem_cons.mp ha with rfl | ha
      · exact ⟨_, List.mem_cons_self, _, rfl⟩
      · obtain ⟨x, hx, hp⟩ := hall a ha
        exact ⟨x, List.mem_cons_of_mem _ hx, hp⟩

/-- The parts of a beam that is split, but those without a sub-ray. -/
def Beam.parts (b : Beam) (q : Query) : List Beam :=
  ((halves b.y0 b.ch).flatMap (fun v => (halves b.x0 b.cw).map (fun u => b.sub u v))).filter (fun k => !(k.cells q).isEmpty)

/-- They are one level deeper and lie in its window. -/
theorem Beam.parts_within {b k : Beam} {q : Query} (h : k ∈ b.parts q) : k.qid = b.qid ∧ k.ref = b.ref ∧ k.depth = b.depth + 1 ∧
    b.x0 ≤ k.x0 ∧ k.x0 + k.cw ≤ b.x0 + b.cw ∧ b.y0 ≤ k.y0 ∧ k.y0 + k.ch ≤ b.y0 + b.ch := by
  obtain ⟨v, hv, hk⟩ := List.mem_flatMap.mp (List.mem_of_mem_filter h)
  obtain ⟨u, hu, rfl⟩ := List.mem_map.mp hk
  exact ⟨rfl, rfl, rfl, (halves_within hu).1, (halves_within hu).2, (halves_within hv).1, (halves_within hv).2⟩

/-- Every cell of the beam is a cell of one of them. -/
theorem Beam.parts_cover {b : Beam} {q : Query} {p : Nat × Nat} (h : p ∈ b.cells q) : ∃ k, k ∈ b.parts q ∧ p ∈ k.cells q := by
  obtain ⟨hx, hy, hray⟩ := Beam.mem_cells.mp h
  obtain ⟨u, hu, hux⟩ := halves_cover hx
  obtain ⟨v, hv, hvy⟩ := halves_cover hy
  have hcell : p ∈ (b.sub u v).cells q := Beam.mem_cells.mpr ⟨hux, hvy, hray⟩
  refine ⟨b.sub u v, List.mem_filter.mpr ⟨List.mem_flatMap.mpr ⟨v, hv, List.mem_map.mpr ⟨u, hu, rfl⟩⟩, ?_⟩, hcell⟩
  cases hc : (b.sub u v).cells q with
  | nil => rw [hc] at hcell; cases hcell
  | cons a r => rfl

/-- A part of a split as it pends: it may have a record of its own to go to (11 R267). -/
def Beam.asChild (q : Query) (k : Beam) : Beam :=
  { k with child := !(k.cw * k.ch == 1 || (q.spol == 0 && decide (k.depth ≤ k.base + 3))) }

/-- A beam that may be split is. -/
theorem partVisit_splits {q : Query} {b : Beam} (hpol : q.spol ≠ 2) (hd : b.depth < q.maxd) (s : State) (c : Nat) :
    partVisit s c q b = (b.parts q).foldl (fun s k => addBeams s c [k.asChild q]) (dropBeam s c b.id) := by
  have hno : ¬ (q.spol = 2 ∨ q.maxd ≤ b.depth) := by omega
  simp only [partVisit, if_neg hno]
  rfl

theorem nodeVisited : NodeVisited := by
  intro s c id b q hb hq hi hchild hstart hgoing
  constructor
  · intro hcells hout
    have hlive : ∀ g, (dropBeam s c b.id).gang? c q.by_.gang = some g → g.ending = false := fun g hg =>
      hgoing g ((gang?_modCol ..).symm.trans hg)
    have hexec := (execColanderNodeVisit_classifies hb hq hi hcells hchild).2.1 hstart hout
    rw [takeOpen_of_going hlive] at hexec
    refine ⟨_, (exec_colanderNodeVisit_eq ..).trans hexec, rfl, ?_⟩
    rw [dropBeam_beams, Beam.id_of_find? hb]
  · intro hcells hpart hpol hd
    obtain ⟨hmem, hgang, new, hbeams, hfrom, hall⟩ := addBeams_each (Beam.asChild q) c (b.parts q) (dropBeam s c b.id)
    have hlive : ∀ g, (partVisit s c q b).gang? c q.by_.gang = some g → g.ending = false := fun g hg => by
      rw [partVisit_splits hpol hd] at hg
      exact hgoing g (((hgang _).trans (gang?_modCol ..)).symm.trans hg)
    have hexec := (execColanderNodeVisit_classifies hb hq hi hcells hchild).2.2 hstart hpart
    rw [takeOpen_of_going hlive, partVisit_splits hpol hd] at hexec
    refine ⟨_, new, (exec_colanderNodeVisit_eq ..).trans hexec, hmem, ?_, fun x hx => ?_, fun p hp => ?_⟩
    · rw [hbeams, dropBeam_beams, Beam.id_of_find? hb]
    · obtain ⟨k, hk, i, rfl⟩ := hfrom x hx
      have hwithin := Beam.parts_within hk
      exact hwithin
    · obtain ⟨k, hk, hcell⟩ := Beam.parts_cover hp
      obtain ⟨x, hx, i, rfl⟩ := hall k hk
      exact ⟨_, hx, hcell⟩

/-! ## Queries and continuations complete (11 R267, R271, R272) -/

/-- A query without references, open records or writes on their way completes, its status written. -/
theorem execQueryComplete_done {s s1 s2 : State} {c n : Nat} {q : Query} {ps : Pages} {t : Target}
    (hq : query? s c (BitVec.ofNat 32 n) = some q) (hbeams : ∀ b, b ∈ (s.core c).col.beams → b.qid ≠ BitVec.ofNat 32 n)
    (hopen : q.open_ = 0) (hwriting : queryWriting s c (BitVec.ofNat 32 n) = false) (hrel : relDone s c (BitVec.ofNat 32 n) q.f = true)
    (hprobe : engProbe s (colAt c q.by_ (BitVec.ofNat 32 n)) q.waits (q.addr + 48) 16 false = (s1, ps, .to t))
    (hwrite : engWrite s1 (colAt c q.by_ (BitVec.ofNat 32 n)) t (q.addr + 48) (queryStatus q) [] [] (1 + q.by_.vf) = (s2, none)) :
    execQueryComplete c n s = .next (modCol
      (dropPeers (modUid s2 c q.by_.wave q.by_.uid (fun w => w.lower q.by_.flag)) c 2 (BitVec.ofNat 32 n).toNat) c
      (fun k => { k with live := k.live.filter (fun p => p.qid != BitVec.ofNat 32 n) })) := by
  have hany : ((s.core c).col.beams.any fun b => b.qid == BitVec.ofNat 32 n) = false :=
    List.any_eq_false.mpr fun b hb => by simpa using hbeams b hb
  simp only [execQueryComplete, hq, hany, hopen, hwriting, hrel, hprobe, hwrite, ne_eq, not_true_eq_false, decide_false, Bool.not_true,
    Bool.or_self, Bool.false_eq_true, if_false, Option.isSome_none]
  rfl

theorem queryComplete_lowers (s s1 s2 : State) (c n : Nat) (q : Query) (ps : Pages) (t : Target)
    (hq : query? s c (BitVec.ofNat 32 n) = some q) (hbeams : ∀ b, b ∈ (s.core c).col.beams → b.qid ≠ BitVec.ofNat 32 n)
    (hopen : q.open_ = 0) (hwriting : queryWriting s c (BitVec.ofNat 32 n) = false) (hrel : relDone s c (BitVec.ofNat 32 n) q.f = true)
    (hprobe : engProbe s (colAt c q.by_ (BitVec.ofNat 32 n)) q.waits (q.addr + 48) 16 false = (s1, ps, .to t))
    (hwrite : engWrite s1 (colAt c q.by_ (BitVec.ofNat 32 n)) t (q.addr + 48) (queryStatus q) [] [] (1 + q.by_.vf) = (s2, none)) :
    ∃ u, exec (.queryComplete c n) s = .next u ∧
      (u.core c).col.live = (s2.core c).col.live.filter (fun p => p.qid != BitVec.ofNat 32 n) ∧
      (∀ v, findUid s2 c q.by_.wave q.by_.uid = some v → findUid u c q.by_.wave q.by_.uid = some (v.lower q.by_.flag)) ∧
      u.mem = s2.mem ∧ (u.core c).wq = (s2.core c).wq := by
  refine ⟨_, (exec_queryComplete_eq ..).trans (execQueryComplete_done hq hbeams hopen hwriting hrel hprobe hwrite), ?_, fun v hv => ?_, ?_, ?_⟩
  · rw [core_modCol, dropPeers_core, modUid_core]
  · rw [findUid_congr ((slot?_modCol ..).trans (dropPeers_slot? ..)) rfl]
    exact findUid_modUid (fun v => Wave.lower_uid ..) hv
  · rw [modCol_mem, dropPeers_mem, modUid_mem]
  · rw [core_modCol, dropPeers_core, modUid_core]

/-- A change of a split record's STATE, in the Colander and in G, leaves waves, continuations and memory (11 R267). -/
theorem setRec_keeps (s : State) (c : Nat) (q : Query) (seq : W32) (g : SplitRec → SplitRec) :
    (setRec s c q seq g).mem = s.mem ∧ (setRec s c q seq g).sched = s.sched ∧
    (∀ w, (setRec s c q seq g).slot? c w = s.slot? c w) ∧ ((setRec s c q seq g).core c).col.conts = (s.core c).col.conts := by
  unfold setRec
  split
  · exact ⟨rfl, rfl, fun _ => rfl, rfl⟩
  · next r _ =>
    have hwork := LocalWork.locPut (modQuery s c q.qid (fun q => { q with recs := q.recs.map (fun r => if r.seq = seq then g r else r) })) c
      q.by_.gang 0 (r.off + 37) (leBytes 1 (g r).state) []
    refine ⟨hwork.mem, hwork.sched, fun w => (hwork.slot? w).trans (slot?_modCol ..), ?_⟩
    rw [hwork.col, modQuery, core_modCol]

/-- A continuation without references left completes: its record is DONE. -/
theorem execBeamcontComplete_done {s : State} {c id : Nat} {k : Cont} {q : Query}
    (hk : (s.core c).col.conts.find? (fun k => k.id == id) = some k) (ha : k.accepted = true)
    (hbeams : ∀ b, b ∈ (s.core c).col.beams → b.cont ≠ some id) (hrel : relDone s c k.qid k.f = true) (hq : query? s c k.qid = some q) :
    execBeamcontComplete c id s = .next (modCol
      (modUid (setRec s c q k.seq (fun r => { r with state := 2 })) c k.by_.wave k.by_.uid (fun w => w.lower k.by_.flag)) c
      (fun u => { u with conts := u.conts.filter (fun x => x.id != id) })) := by
  have hany : ((s.core c).col.beams.any fun b => b.cont == some id) = false :=
    List.any_eq_false.mpr fun b hb => by simpa using hbeams b hb
  simp only [execBeamcontComplete, hk, ha, hany, hrel, hq, Bool.true_eq_false, Bool.false_eq_true, or_self, if_false]

theorem beamcontComplete_lowers (s : State) (c id : Nat) (k : Cont) (q : Query)
    (hk : (s.core c).col.conts.find? (fun k => k.id == id) = some k) (ha : k.accepted = true)
    (hbeams : ∀ b, b ∈ (s.core c).col.beams → b.cont ≠ some id) (hrel : relDone s c k.qid k.f = true) (hq : query? s c k.qid = some q) :
    ∃ u, exec (.beamcontComplete c id) s = .next u ∧
      (u.core c).col.conts = (s.core c).col.conts.filter (fun x => x.id != id) ∧
      (∀ v, findUid s c k.by_.wave k.by_.uid = some v → findUid u c k.by_.wave k.by_.uid = some (v.lower k.by_.flag)) ∧
      u.mem = s.mem := by
  obtain ⟨hmem, hsched, hslot, hconts⟩ := setRec_keeps s c q k.seq (fun r => { r with state := 2 })
  refine ⟨_, (exec_beamcontComplete_eq ..).trans (execBeamcontComplete_done hk ha hbeams hrel hq), ?_, fun v hv => ?_, ?_⟩
  · rw [core_modCol, modUid_core]
    exact congrArg _ hconts
  · rw [findUid_congr (slot?_modCol ..) rfl]
    exact findUid_modUid (fun v => Wave.lower_uid ..) ((findUid_congr (hslot _) (by rw [hsched]) _).trans hv)
  · rw [modCol_mem, modUid_mem, hmem]

/-- Settles O53: each event is run to the state that its function gives where it is enabled. A chunk of LFILL's value, a k-step and the
records merged into G change a core's local buffers, accumulators and queues, and not memory; a completion takes its command out of its
list and lowers its flag; the parts of a split beam cover its cells. -/
theorem engineEventsComplete : Obligations.EngineEventsComplete := by
  refine ⟨chunkFills, ladleCompletes, kstepDone, mxeCompletes, queryAccepted, nodeVisited, ?ladle, ?matrix, ?accept, ?visit,
    queryComplete_lowers, beamcontComplete_lowers⟩
  case ladle =>
    intro s c id q hq
    simp only [exec_ladleChunkDone_eq, exec_ladleComplete_eq]
    exact ⟨fun ha hr k => execLadleChunkDone_accepts hq ha hr k, fun ha k s' j hfree hstep => execLadleChunkDone_step hq ha hfree hstep,
      fun hopc hd m => execLadleComplete_done hq hopc hd m⟩
  case matrix =>
    intro s c id q hq
    simp only [exec_mxeCommandStart_eq, exec_mxeKstep_eq, exec_mxeComplete_eq]
    exact ⟨fun ha hr => execMxeCommandStart_accepts hq ha hr,
      fun ha hsp hst hqu h0 hw hr => execMxeCommandStart_starts hq ha hsp hst hqu h0 hw hr,
      fun h0 hst hopc hk ht hra hrb s1 q1 as pa s2 q2 bs pb hA hB => execMxeKstep_does hq h0 hst hopc hk ht hra hrb hA hB,
      execMxeComplete_done hq⟩
  case accept =>
    intro s c q qs hconts hq hrec hlive hready _
    exact (exec_colanderAccept_eq ..).trans (execColanderAccept_first hconts hq hrec hlive hready)
  case visit =>
    intro s c id b q hb hq hi
    simp only [exec_colanderNodeVisit_eq]
    refine ⟨fun hcells hchild => execColanderNodeVisit_child hb hq hcells hchild, ?drops,
      fun hcells hchild h => (execColanderNodeVisit_classifies hb hq hi hcells hchild).1 h,
      fun hcells hchild hstart h => (execColanderNodeVisit_classifies hb hq hi hcells hchild).2.2 hstart h⟩
    rintro (hcells | ⟨hchild, hstart, hout⟩)
    · exact execColanderNodeVisit_empty hb hq hcells
    · by_cases hcells : b.cells q = []
      · exact execColanderNodeVisit_empty hb hq hcells
      · exact (execColanderNodeVisit_classifies hb hq hi hcells hchild).2.1 hstart hout
end Sys2Proof.Machine
end

namespace Sys2Proof

/-! ## The fields of a word (06 R136) -/

/-- Two neighbouring fields are one longer field. -/
theorem field_append_field (w : W128) {lo hi m n : Nat} (h : hi = lo + m) : field w hi n ++ field w lo m = field w lo (n + m) :=
  BitVec.extractLsb'_append_extractLsb'_eq_extractLsb' h

/-- A word is its fields in R136's order, from bit 127 down. -/
theorem fields_of_word (w : W128) :
    field w 96 32 ++ field w 75 21 ++ field w 72 3 ++ field w 61 11 ++ field w 58 3 ++ field w 47 11 ++ field w 44 3 ++ field w 33 11 ++
      field w 30 3 ++ field w 19 11 ++ field w 18 1 ++ field w 14 4 ++ field w 13 1 ++ field w 10 3 ++ field w 9 1 ++ field w 8 1 ++
      field w 0 8 = w := by
  iterate 16 rw [field_append_field w (by rfl)]
  exact BitVec.extractLsb'_eq_self

/-- Two concatenations of the same widths are equal where their parts are. -/
theorem append_eq_append_iff {m n : Nat} {a c : BitVec m} {b d : BitVec n} : a ++ b = c ++ d ↔ a = c ∧ b = d := by
  refine ⟨fun h => ⟨?_, ?_⟩, fun ⟨h1, h2⟩ => by rw [h1, h2]⟩
  · simpa only [BitVec.extractLsb'_append_eq_left] using congrArg (·.extractLsb' n m) h
  · simpa only [BitVec.extractLsb'_append_eq_right] using congrArg (·.extractLsb' 0 n) h

/-- A field of one bit is that bit. -/
theorem bit1_eq_field_iff {b : Bool} {w : W128} {n : Nat} : bit1 b = field w n 1 ↔ b = w.getLsbD n := by
  have hbit : field w n 1 = bit1 (w.getLsbD n) := by
    refine BitVec.eq_of_getLsbD_eq fun i hi => ?_
    obtain rfl : i = 0 := by omega
    simp [field, bit1]
  rw [hbit]
  exact BitVec.ofBool_eq_iff_eq

/-- An operand is packed into a class and an index where it is read from them (06 R136). -/
theorem Opnd.ofCode_eq_some_iff {c : BitVec 3} {i : BitVec 11} {o : Opnd} : Opnd.ofCode c i = some o ↔ o.code.1 = c ∧ o.code.2 = i := by
  constructor
  · intro h
    rw [Opnd.code_of_ofCode h]
    exact ⟨rfl, rfl⟩
  · rintro ⟨rfl, rfl⟩
    cases o <;> rfl

/-- Fields are packed into a word where each is the word's field at its place (06 R136). -/
theorem packWord_eq_iff {op : Nat} {f : Fields} {w : W128} : packWord op f = w ↔
    f.imm = field w 96 32 ∧ f.mod = field w 75 21 ∧ (f.c.code.1 = field w 72 3 ∧ f.c.code.2 = field w 61 11) ∧
    (f.b.code.1 = field w 58 3 ∧ f.b.code.2 = field w 47 11) ∧ (f.a.code.1 = field w 44 3 ∧ f.a.code.2 = field w 33 11) ∧
    (f.dst.code.1 = field w 30 3 ∧ f.dst.code.2 = field w 19 11) ∧ f.gneg = w.getLsbD 18 ∧ f.guard = field w 14 4 ∧
    f.sf = w.getLsbD 13 ∧ f.ru = field w 10 3 ∧ f.t = w.getLsbD 9 ∧ f.s = w.getLsbD 8 ∧ BitVec.ofNat 8 op = field w 0 8 := by
  conv_lhs => rw [← fields_of_word w, packWord, append_eq_append_iff]
  simp only [append_eq_append_iff, bit1_eq_field_iff, and_assoc]

/-- A word unpacks to the fields that it is packed from, its opcode among what is packed. -/
theorem unpack_eq_some_iff {w : W128} {f : Fields} : unpack w = some f ↔ packWord (opOf w) f = w := by
  obtain ⟨guard, gneg, sf, ru, t, s, dst, a, b, c, mod, imm⟩ := f
  simp only [unpack, Option.bind_eq_bind, Option.bind_eq_some_iff, Option.pure_def, Option.some.injEq, Fields.mk.injEq]
  rw [packWord_eq_iff]
  simp only [← Opnd.ofCode_eq_some_iff, opOf, BitVec.ofNat_toNat, BitVec.setWidth_eq, and_true]
  constructor
  · rintro ⟨_, hd, _, ha, _, hb, _, hc, rfl, rfl, rfl, rfl, rfl, rfl, rfl, rfl, rfl, rfl, rfl, rfl⟩
    exact ⟨rfl, rfl, hc, hb, ha, hd, rfl, rfl, rfl, rfl, rfl, rfl⟩
  · rintro ⟨rfl, rfl, hc, hb, ha, hd, rfl, rfl, rfl, rfl, rfl, rfl⟩
    exact ⟨_, hd, _, ha, _, hb, _, hc, rfl, rfl, rfl, rfl, rfl, rfl, rfl, rfl, rfl, rfl, rfl, rfl⟩

/-- The opcode of a packed word. -/
theorem opOf_packWord {op : Nat} (hop : op < 256) (f : Fields) : opOf (packWord op f) = op := by
  obtain ⟨-, -, -, -, -, -, -, -, -, -, -, -, h⟩ := packWord_eq_iff.mp (rfl : packWord op f = _)
  rw [opOf, ← h, BitVec.toNat_ofNat]
  exact Nat.mod_eq_of_lt hop

/-! ## What an opcode builds (06 R140)

Column n of a row is goal n + 1; the split columns, where a MOD field selects a constructor, are closed first. -/

/-- Two constructors that a MOD field selects between are of one opcode. -/
theorem word_ite {p : Prop} [Decidable p] {i j : Instr} {r : Option (Nat × Fields)} (hi : i.word = r) (hj : j.word = r) :
    (if p then i else j).word = r := by
  split
  · exact hi
  · exact hj

theorem word_build1 {n : Nat} (h : n < 16) (f : Fields) : (build1 f n).word = some (0x10 + n, f) := by
  interval_cases n
  on_goal 14 => exact word_ite rfl rfl
  on_goal 13 => exact word_ite rfl rfl
  all_goals rfl

theorem word_buildD {n : Nat} (h : n < 16) (f : Fields) : (buildD f n).word = some (0xD0 + n, f) := by
  interval_cases n
  on_goal 13 => exact word_ite rfl rfl
  on_goal 5 => exact word_ite rfl rfl
  all_goals rfl

theorem word_buildE {n : Nat} (h : n < 16) (f : Fields) : (buildE f n).word = some (0xE0 + n, f) := by
  interval_cases n
  on_goal 15 => exact word_ite rfl rfl
  all_goals rfl

theorem word_buildF {n : Nat} (h : n < 16) (f : Fields) : (buildF f n).word = some (0xF0 + n, f) := by
  interval_cases n
  on_goal 15 => exact word_ite rfl (word_ite rfl rfl)
  on_goal 4 => exact word_ite rfl (word_ite rfl rfl)
  all_goals rfl

/-- What an opcode and fields build is a word of that opcode with those fields; in rows 0x1, 0xD, 0xE and 0xF a MOD field may select among
several such words. -/
theorem word_build {op : Nat} (hop : op < 256) (f : Fields) : (build op f).word = some (op, f) := by
  obtain ⟨r, c, hr, hc, rfl⟩ : ∃ r c, r < 16 ∧ c < 16 ∧ op = 16 * r + c := ⟨op / 16, op % 16, by omega, by omega, by omega⟩
  have hrow : (16 * r + c) / 16 = r := by omega
  have hcol : (16 * r + c) % 16 = c := by omega
  simp only [build, hrow, hcol]
  interval_cases r
  on_goal 16 => exact word_buildF hc f
  on_goal 15 => exact word_buildE hc f
  on_goal 14 => exact word_buildD hc f
  on_goal 2 => exact word_build1 hc f
  all_goals interval_cases c <;> rfl

/-- An opcode past the last row, which no word has, builds what row 0xF does. -/
theorem build_of_past_rows {op : Nat} (hop : 256 ≤ op) (f : Fields) : build op f = buildF f (op % 16) := by
  unfold build
  split
  case h_16 => rfl
  all_goals omega

/-- So what is built is a word of its opcode among the 256 of R140 alone. -/
theorem opcode_lt_of_word_build {op : Nat} {f : Fields} (h : (build op f).word = some (op, f)) : op < 256 := by
  by_contra hop
  rw [build_of_past_rows (by omega), word_buildF (by omega)] at h
  have hsame : 0xF0 + op % 16 = op := congrArg Prod.fst (Option.some.inj h)
  omega

/-! ## The decoder and the encoder (06 R136, R143) -/

/-- A word decodes to what its opcode and fields build, where no pattern of R143 matches them. -/
theorem decode_eq_ok_iff {w : W128} {i : Instr} :
    decode w = .ok i ↔ ∃ f, packWord (opOf w) f = w ∧ check (opOf w) f = none ∧ build (opOf w) f = i := by
  simp only [← unpack_eq_some_iff]
  cases hu : unpack w with
  | none => simp [decode, hu]
  | some f => cases hc : check (opOf w) f <;> simp [decode, hu, hc]

/-- A word encodes to its opcode and fields, packed. -/
theorem encode_eq_some_iff {i : Instr} {w : W128} : encode i = some w ↔ ∃ op f, i.word = some (op, f) ∧ packWord op f = w := by
  simp [encode]

/-- A well-formed word is one of the 256 opcodes, no pattern of R143 matches it, and it is what they build. -/
theorem Instr.WF.of_word {i : Instr} {op : Nat} {f : Fields} (hi : i.WF) (hw : i.word = some (op, f)) :
    op < 256 ∧ check op f = none ∧ build op f = i := by
  obtain ⟨hlegal, hsame⟩ := hi
  simp only [Instr.legal, hw, Option.isNone_iff_eq_none] at hlegal
  simp only [Instr.Same, hw] at hsame
  exact ⟨opcode_lt_of_word_build (hsame.symm ▸ hw), hlegal, hsame⟩

/-- Settles O1: the encoder packs an opcode and fields into a word, which unpacks to them; they pass the check and build the instruction. -/
theorem decodeEncodeRoundTrip : Obligations.DecodeEncodeRoundTrip := by
  intro i hi w hw
  obtain ⟨op, f, hword, rfl⟩ := encode_eq_some_iff.mp hw
  obtain ⟨hop, hcheck, hbuild⟩ := hi.of_word hword
  rw [decode_eq_ok_iff, opOf_packWord hop]
  exact ⟨f, rfl, hcheck, hbuild⟩

/-- Settles O2: what a word's opcode and fields build is a word of that opcode with those fields, and they pack to the word. -/
theorem encodeDecodeRoundTrip : Obligations.EncodeDecodeRoundTrip := by
  intro w i hdecode
  obtain ⟨f, hpack, -, rfl⟩ := decode_eq_ok_iff.mp hdecode
  exact encode_eq_some_iff.mpr ⟨opOf w, f, word_build (field w 0 8).isLt f, hpack⟩

/-- Settles O3: each word is decoded field by field. -/
theorem writtenWordsDecode : Obligations.WrittenWordsDecode := by
  unfold Obligations.WrittenWordsDecode
  decide +kernel

end Sys2Proof

section
open Sys2Proof Sys2Proof.Machine

namespace Sys2Proof.Machine

/-! ## Words above the level of their lanes, and illegal ones (06 R142, R143) -/

/-- The words of row 0xF that need G or H, with their opcodes. -/
noncomputable def privWords : List (Nat × (Fields → Instr)) :=
  [(0xF4, .rte), (0xF5, .psrd), (0xF6, .pswr), (0xF9, .tlbinv), (0xFD, .wpset), (0xF7, .ctxsv), (0xF8, .ctxld), (0xFA, .tlbinva),
    (0xFB, .ownset), (0xFC, .ownget), (0xFE, .haltqPause), (0xFE, .haltqResume), (0xFE, .haltqWithdraw), (0xFF, .scrub)]

@[simp] theorem exec_rte_eq (f : Fields) (s : State) : exec (.rte f) s = execRte f s := by rfl
@[simp] theorem exec_psrd_eq (f : Fields) (s : State) : exec (.psrd f) s = execPsrd f s := by rfl
@[simp] theorem exec_pswr_eq (f : Fields) (s : State) : exec (.pswr f) s = execPswr f s := by rfl
@[simp] theorem exec_tlbinv_eq (f : Fields) (s : State) : exec (.tlbinv f) s = execTlbinv f s := by rfl
@[simp] theorem exec_wpset_eq (f : Fields) (s : State) : exec (.wpset f) s = execWpset f s := by rfl
@[simp] theorem exec_ctxsv_eq (f : Fields) (s : State) : exec (.ctxsv f) s = execCtxsv f s := by rfl
@[simp] theorem exec_ctxld_eq (f : Fields) (s : State) : exec (.ctxld f) s = execCtxld f s := by rfl
@[simp] theorem exec_tlbinva_eq (f : Fields) (s : State) : exec (.tlbinva f) s = execTlbinva f s := by rfl
@[simp] theorem exec_ownset_eq (f : Fields) (s : State) : exec (.ownset f) s = execOwnset f s := by rfl
@[simp] theorem exec_ownget_eq (f : Fields) (s : State) : exec (.ownget f) s = execOwnget f s := by rfl
@[simp] theorem exec_haltqPause_eq (f : Fields) (s : State) : exec (.haltqPause f) s = execHaltqPause f s := by rfl
@[simp] theorem exec_haltqResume_eq (f : Fields) (s : State) : exec (.haltqResume f) s = execHaltqResume f s := by rfl
@[simp] theorem exec_haltqWithdraw_eq (f : Fields) (s : State) : exec (.haltqWithdraw f) s = execHaltqWithdraw f s := by rfl
@[simp] theorem exec_scrub_eq (f : Fields) (s : State) : exec (.scrub f) s = execScrub f s := by rfl

/-- A word that acts once issues as a word of its opcode. -/
theorem onceWord_issues (op : Nat) (f : Fields) (s : State) (a b : Ctx → Nat → W64) :
    ∃ body, onceWord op f s a b = issueWord op f s body := ⟨_, rfl⟩

/-- Each of them issues as a word of its opcode. -/
theorem exec_privWord {op : Nat} {mk : Fields → Instr} (h : (op, mk) ∈ privWords) (f : Fields) (s : State) :
    ∃ body, exec (mk f) s = issueWord op f s body := by
  simp only [privWords, List.mem_cons, List.not_mem_nil, or_false, Prod.mk.injEq] at h
  rcases h with ⟨rfl, rfl⟩ | ⟨rfl, rfl⟩ | ⟨rfl, rfl⟩ | ⟨rfl, rfl⟩ | ⟨rfl, rfl⟩ | ⟨rfl, rfl⟩ | ⟨rfl, rfl⟩ |
    ⟨rfl, rfl⟩ | ⟨rfl, rfl⟩ | ⟨rfl, rfl⟩ | ⟨rfl, rfl⟩ | ⟨rfl, rfl⟩ | ⟨rfl, rfl⟩ | ⟨rfl, rfl⟩
  · exact ⟨_, exec_rte_eq f s⟩
  · exact ⟨_, exec_psrd_eq f s⟩
  · exact ⟨_, exec_pswr_eq f s⟩
  · exact exec_tlbinv_eq f s ▸ onceWord_issues ..
  · exact ⟨_, exec_wpset_eq f s⟩
  · exact exec_ctxsv_eq f s ▸ onceWord_issues ..
  · exact exec_ctxld_eq f s ▸ onceWord_issues ..
  · exact exec_tlbinva_eq f s ▸ onceWord_issues ..
  · exact exec_ownset_eq f s ▸ onceWord_issues ..
  · exact exec_ownget_eq f s ▸ onceWord_issues ..
  · exact exec_haltqPause_eq f s ▸ onceWord_issues ..
  · exact exec_haltqResume_eq f s ▸ onceWord_issues ..
  · exact exec_haltqWithdraw_eq f s ▸ onceWord_issues ..
  · exact exec_scrub_eq f s ▸ onceWord_issues ..

/-- It needs G at least, and H but for RTE, PSRD, PSWR, TLBINV and WPSET. -/
theorem levelOf_privWord {op : Nat} {mk : Fields → Instr} (h : (op, mk) ∈ privWords) :
    levelOf op = if op ∈ [0xF4, 0xF5, 0xF6, 0xF9, 0xFD] then 1 else 2 := by
  have hop : op ∈ privWords.map Prod.fst := List.mem_map_of_mem h
  have hlevel : ∀ n ∈ privWords.map Prod.fst, levelOf n = if n ∈ [0xF4, 0xF5, 0xF6, 0xF9, 0xFD] then 1 else 2 := by
    simp only [privWords, List.map_cons, List.map_nil]
    decide
  exact hlevel op hop

/-- A legal word above the level of its lanes traps PRIVILEGED. -/
theorem issueWord_privileged {op : Nat} {f : Fields} {s : State} {x : Ctx} (hx : s.issue? = some x) (hcheck : check op f = none)
    (hplace : x.placeOk op f (ringCount s x) = true) (hlevel : x.g.level.code < levelOf op) (body : Ctx → State → State) :
    issueWord op f s body = .next (privTrap s x op) := by
  simp [issueWord, hx, hcheck, hplace, hlevel]

/-- A word with an illegal encoding or placement traps ILLEGAL_ENCODING at any level. -/
theorem issueWord_illegal {op : Nat} {f : Fields} {s : State} {x : Ctx} (hx : s.issue? = some x)
    (h : check op f ≠ none ∨ x.placeOk op f (ringCount s x) = false) (body : Ctx → State → State) :
    issueWord op f s body = .next (illegalTrap s x) := by
  have hbad : ((check op f).isSome || !x.placeOk op f (ringCount s x)) = true := by
    simpa [Option.isSome_iff_ne_none] using h
  simp [issueWord, hx, hbad]

/-- PSRD of a register that only H may read, in lanes below H (14 R320). -/
theorem execPsrd_privileged {f : Fields} {s : State} {x : Ctx} (h : Issues 0xF5 f s x) (hreg : psrReadH (f.m 0 8) = true)
    (hlevel : x.g.level ≠ .h) : execPsrd f s = .next (privTrap s x 0xF5) := by
  simp [execPsrd, issueWord_eq h, hreg, hlevel]

/-- PSWR of a register that only H may write, in lanes below H (14 R320). -/
theorem execPswr_privileged {f : Fields} {s : State} {x : Ctx} (h : Issues 0xF6 f s x) (hreg : psrWriteH (f.m 0 8) = true)
    (hlevel : x.g.level ≠ .h) : execPswr f s = .next (privTrap s x 0xF6) := by
  simp [execPswr, issueWord_eq h, hreg, hlevel]

/-- Settles O57: each word of row 0xF is an issue of its opcode, which makes the checks of R143, then those of R142; PSRD and PSWR check
their registers next. -/
theorem levelsAndEncodingsTrapped : Obligations.LevelsAndEncodingsTrapped := by
  refine ⟨fun f s x op mk hmem hx => ?word, fun f s x hg => ⟨fun h hreg => ?psrd, fun h hreg => ?pswr⟩, fun s x cause aux2 l _ => ?lane⟩
  case word =>
    obtain ⟨body, hexec⟩ := exec_privWord hmem f s
    have hneeds := levelOf_privWord hmem
    rw [hexec]
    refine ⟨fun hcheck hplace hlevel => issueWord_privileged hx hcheck hplace ?_ body, fun h => issueWord_illegal hx h body⟩
    rcases hlevel with hu | ⟨hg, hop⟩
    · rw [hu, hneeds]
      split <;> decide
    · rw [hg, hneeds, if_neg hop]
      decide
  case psrd =>
    have hreg : psrReadH (f.m 0 8) = true := by
      simp only [List.mem_cons, List.not_mem_nil, or_false] at hreg
      simp only [psrReadH, decide_eq_true_eq]
      omega
    rw [exec_psrd_eq, execPsrd_privileged h hreg (by simp [hg])]
    rfl
  case pswr =>
    have hreg : psrWriteH (f.m 0 8) = true := by
      simp only [List.mem_cons, List.not_mem_nil, or_false] at hreg
      simp only [psrWriteH, Bool.or_eq_true, beq_iff_eq, decide_eq_true_eq]
      omega
    rw [exec_pswr_eq, execPswr_privileged h hreg (by simp [hg])]
    rfl
  case lane =>
    simp only [issueTraps, List.foldl_cons, List.foldl_nil, List.contains_cons, List.contains_nil, Bool.or_false]

end Sys2Proof.Machine
end


section
open Sys2Proof Sys2Proof.Machine

namespace Sys2Proof.Machine

/-! ## Words that write at issue or for the end of their run (07 R153) -/

/-- No exception bits leave the issuing group as it stood. -/
theorem Moves.eq_of_orExc_zero {s t : State} {x y z : Ctx} (hy : Moves s t x y) (hcore : y.core = x.core) (hwid : y.wid = x.wid)
    (hz : Moves s (orExc x 0 t) x z) : z = y := by
  have h := (orExc_moves hy.1 0).1
  have hsame : orExc y 0 t = orExc x 0 t := by simp only [orExc, hcore, hwid]
  rw [hsame, hz.1] at h
  simpa using h

/-- Elements written in the file change the wave and its run alone. -/
theorem writeFile_moves {s : State} {x : Ctx} (h : s.issue? = some x) (ws : List RegWrite) :
    ∃ y, Moves s (writeFile x ws s) x y ∧ y.core = x.core ∧ y.wid = x.wid := by
  have drop := dropPending_moves h (ws.map RegWrite.elem)
  have trans := modGroup_moves drop.1 (fun g => { g with trans := g.trans.filter (fun t => !(ws.map RegWrite.elem).contains t.elem) })
    (fun _ => rfl) rfl rfl
  have regs := modWave_moves trans.1 (fun w => { w with regs := w.regs.writes ws }) rfl rfl rfl
  exact ⟨_, (drop.step rfl rfl rfl trans).step rfl rfl rfl regs, rfl, rfl⟩

theorem writeNow_moves {s : State} {x : Ctx} (h : s.issue? = some x) (f : Fields) (ws : List RegWrite) :
    ∃ y, Moves s (writeNow x f ws s) x y ∧ y.core = x.core ∧ y.wid = x.wid := by
  unfold writeNow
  split
  · exact ⟨_, modGroup_moves h _ (fun _ => rfl) rfl rfl, rfl, rfl⟩
  · exact writeFile_moves h ws

/-- writeNow does what WroteNow says, without exception bits. -/
theorem writeNow_wrote_noExc {s : State} {x : Ctx} (h : s.issue? = some x) (f : Fields) (ws : List RegWrite)
    (ok : ∀ w, w ∈ ws → w.ok) (nd : (ws.map RegWrite.elem).Nodup) :
    ∃ y, Moves s (writeNow x f ws s) x y ∧ WroteNow f.t x y ws 0 := by
  obtain ⟨y, hy, hcore, hwid⟩ := writeNow_moves h f ws
  obtain ⟨z, hz, hwrote⟩ := writeNow_wrote h f ws 0 ok nd
  exact ⟨y, hy, hy.eq_of_orExc_zero hcore hwid hz ▸ hwrote⟩

/-- writeFile does what WroteNow says of a word without T. -/
theorem writeFile_wrote {s : State} {x : Ctx} (h : s.issue? = some x) (ws : List RegWrite)
    (ok : ∀ w, w ∈ ws → w.ok) (nd : (ws.map RegWrite.elem).Nodup) :
    ∃ y, Moves s (writeFile x ws s) x y ∧ WroteNow false x y ws 0 :=
  writeNow_wrote_noExc h (default : Fields) ws ok nd

/-- A write for the end of the run changes the wave and its run alone. -/
theorem writeEnd_moves {s : State} {x : Ctx} (h : s.issue? = some x) (f : Fields) (ws : List RegWrite) :
    ∃ y, Moves s (writeEnd x f ws s) x y ∧ y.core = x.core ∧ y.wid = x.wid := by
  have drop := dropPending_moves h (ws.map RegWrite.elem)
  have pend := modGroup_moves drop.1 (fun g => { g with writes := g.writes ++ ws, raised := g.raised ++ (flagOf x.g.hdr f.sf).toList })
    (fun _ => rfl) rfl rfl
  have hraise (w : Wave) : (w.raise (flagOf x.g.hdr f.sf)).uid = w.uid ∧ (w.raise (flagOf x.g.hdr f.sf)).gang = w.gang ∧
      (w.raise (flagOf x.g.hdr f.sf)).live = w.live := by
    cases flagOf x.g.hdr f.sf <;> exact ⟨rfl, rfl, rfl⟩
  have flag := modWave_moves pend.1 (fun w => w.raise (flagOf x.g.hdr f.sf)) (hraise _).1 (hraise _).2.1 (hraise _).2.2
  exact ⟨_, (drop.step rfl rfl rfl pend).step rfl rfl rfl flag, rfl, rfl⟩

/-- writeEnd does what WroteEnd says, without exception bits. -/
theorem writeEnd_wrote_noExc {s : State} {x : Ctx} (h : s.issue? = some x) (f : Fields) (ws : List RegWrite) :
    ∃ y, Moves s (writeEnd x f ws s) x y ∧ WroteEnd (flagOf x.g.hdr f.sf) x y ws 0 := by
  obtain ⟨y, hy, hcore, hwid⟩ := writeEnd_moves h f ws
  obtain ⟨z, hz, hwrote⟩ := writeEnd_wrote h f ws 0
  exact ⟨y, hy, hy.eq_of_orExc_zero hcore hwid hz ▸ hwrote⟩

/-- A word whose effect is one write for the end of its run. -/
theorem writesAtEnd_of_writeEnd {op : Nat} {mk : Fields → Instr} {ws us : Fields → Ctx → List RegWrite}
    (hexec : ∀ f s, exec (mk f) s = issueWord op f s (fun x s => writeEnd x f (us f x) s)) (hws : ∀ f x, us f x = ws f x) :
    WritesAtEnd op mk Always (fun f _ x => ws f x) (fun _ _ => 0) := by
  intro f s x h _
  obtain ⟨y, ⟨hissue, honly⟩, hwrote⟩ := writeEnd_wrote_noExc h.here f (ws f x)
  exact ⟨_, y, by rw [hexec, issueWord_eq h, hws], hissue, honly, hwrote⟩

theorem excOf_noExc (f : Fields) (x : Ctx) : excOf noExc f x = 0 := by
  unfold excOf
  induction x.destLanes f with
  | nil => rfl
  | cons l ls ih => simpa [noExc] using ih

/-- A word whose effect is one write for the end of its run in its destination lanes. -/
theorem endsWith_of_writeEnd {op : Nat} {mk : Fields → Instr} {v u : Fields → Ctx → Nat → List RegWrite}
    (hexec : ∀ f s, exec (mk f) s = issueWord op f s (fun x s => writeEnd x f ((x.destLanes f).flatMap (u f x)) s))
    (hv : ∀ f x l, u f x l = v f x l) : EndsWith op mk v noExc := by
  have h := writesAtEnd_of_writeEnd (ws := writesOf v) hexec (fun f x => by rw [writesOf, funext (hv f x)])
  simpa only [EndsWith, excOf_noExc] using h

/-- A word whose effect is one write at its issue. -/
theorem writesAtIssue_of_writeNow {op : Nat} {mk : Fields → Instr} {ws us : Fields → Ctx → List RegWrite}
    (hexec : ∀ f s, exec (mk f) s = issueWord op f s (fun x s => writeNow x f (us f x) s))
    (hws : ∀ f x, check op f = none → us f x = ws f x)
    (ok : ∀ f x, check op f = none → ∀ w, w ∈ ws f x → w.ok)
    (nd : ∀ f x, check op f = none → ((ws f x).map RegWrite.elem).Nodup) :
    WritesAtIssue op mk ws (fun _ _ => 0) := by
  intro f s x h
  obtain ⟨y, ⟨hissue, honly⟩, hwrote⟩ := writeNow_wrote_noExc h.here f (ws f x) (ok f x h.legal) (nd f x h.legal)
  exact ⟨_, y, by rw [hexec, issueWord_eq h, hws f x h.legal], hissue, honly, hwrote⟩

/-! ## What destination lanes are written -/

/-- Kinds of registers of 32 and 64 bits alone. -/
def regKinds (ks : List K) : Bool := ks.all (fun k => [K.v, K.v64, K.u, K.u64].contains k)

theorem isRegOpnd_of_okIn {ks : List K} {o : Opnd} (hks : regKinds ks = true) (ho : okIn ks o = true) : isRegOpnd o = true := by
  obtain ⟨k, hk, hok⟩ := List.any_eq_true.mp ho
  have hreg := List.all_eq_true.mp hks k hk
  cases o with
  | vec i => rfl
  | uni i => rfl
  | _ => cases k <;> simp [K.ok] at hok hreg

/-- Kinds of registers of 32 bits and predicates alone. -/
def truthKinds (ks : List K) : Bool := ks.all (fun k => [K.v, K.u, K.p].contains k)

theorem isReg_or_isPred_of_okIn {ks : List K} {o : Opnd} (hks : truthKinds ks = true) (ho : okIn ks o = true) :
    isRegOpnd o = true ∨ o.isPred = true := by
  obtain ⟨k, hk, hok⟩ := List.any_eq_true.mp ho
  have hreg := List.all_eq_true.mp hks k hk
  cases o with
  | vec i => exact .inl rfl
  | uni i => exact .inl rfl
  | pred i => exact .inr rfl
  | _ => cases k <;> simp [K.ok] at hok hreg

theorem wr32_ok {o : Opnd} {l : Nat} {v : W32} (ho : isRegOpnd o = true) (hl : l < 32) : ∀ w, w ∈ wr32 o l v → w.ok :=
  fun w hw => destElems_ok o l 1 hl w (wr32_elems o l v ▸ List.mem_map_of_mem hw) ho

theorem wr64_ok {o : Opnd} {l : Nat} {v : W64} (ho : isRegOpnd o = true) (hl : l < 32) : ∀ w, w ∈ wr64 o l v → w.ok :=
  fun w hw => destElems_ok o l 2 hl w (wrWide_elems o l 2 _ ▸ List.mem_map_of_mem hw) ho

theorem RegWrite.ok_pred {i l : Nat} {b : Bool} (hl : l < 32) : (⟨.p i l, if b then 1 else 0⟩ : RegWrite).ok :=
  ⟨hl, by cases b <;> simp⟩

theorem wrBool_ok {o : Opnd} {l : Nat} {b : Bool} (ho : isRegOpnd o = true ∨ o.isPred = true) (hl : l < 32) :
    ∀ w, w ∈ wrBool o l b → w.ok := by
  intro w hw
  cases o with
  | pred i =>
    obtain rfl := List.mem_singleton.mp hw
    exact RegWrite.ok_pred hl
  | vec i => exact wr32_ok rfl hl w hw
  | uni i => exact wr32_ok rfl hl w hw
  | _ => simp [isRegOpnd, Opnd.isPred] at ho

/-- Writes of the destination's elements, lane by lane, name each element once. -/
theorem laneWrites_nodup (x : Ctx) (f : Fields) (n : Nat) {g : Nat → List RegWrite}
    (hg : ∀ l, (g l).map RegWrite.elem = destElems f.dst l n) : (((x.destLanes f).flatMap g).map RegWrite.elem).Nodup := by
  rw [List.map_flatMap, funext hg]
  exact destElems_nodup x f n

theorem laneWrites_ok {x : Ctx} {f : Fields} {g : Nat → List RegWrite} (hg : ∀ l, l < 32 → ∀ w, w ∈ g l → w.ok) :
    ∀ w, w ∈ (x.destLanes f).flatMap g → w.ok := by
  intro w hw
  obtain ⟨l, hl, hw⟩ := List.mem_flatMap.mp hw
  exact hg l (x.destLanes_lt f l hl) w hw

/-! ## Words with one value per destination lane (07 R152) -/

section LaneValues

variable {op : Nat} {mk : Fields → Instr}

theorem gives32_of_alu32 {u v : Fields → Ctx → Nat → W32} (hdst : ∀ f, regKinds (formOf op f).d = true)
    (hexec : ∀ f s, exec (mk f) s = alu32 op f s (u f)) (hv : ∀ f x l, u f x l = v f x l) : Gives32 op mk v :=
  writesAtIssue_of_writeNow hexec (fun f x _ => by simp only [hv])
    (fun f x hcheck => laneWrites_ok fun l hl => wr32_ok (isRegOpnd_of_okIn (hdst f) (passesCheck_of_check hcheck).dst) hl)
    (fun f x _ => laneWrites_nodup x f 1 fun l => wr32_elems ..)

theorem gives64_of_alu64 {u v : Fields → Ctx → Nat → W64} (hdst : ∀ f, regKinds (formOf op f).d = true)
    (hexec : ∀ f s, exec (mk f) s = alu64 op f s (u f)) (hv : ∀ f x l, u f x l = v f x l) : Gives64 op mk v :=
  writesAtIssue_of_writeNow hexec (fun f x _ => by simp only [hv])
    (fun f x hcheck => laneWrites_ok fun l hl => wr64_ok (isRegOpnd_of_okIn (hdst f) (passesCheck_of_check hcheck).dst) hl)
    (fun f x _ => laneWrites_nodup x f 2 fun l => wrWide_elems ..)

theorem givesBool_of_aluB {u v : Fields → Ctx → Nat → Bool} (hdst : ∀ f, truthKinds (formOf op f).d = true)
    (hexec : ∀ f s, exec (mk f) s = aluB op f s (u f)) (hv : ∀ f x l, u f x l = v f x l) : GivesBool op mk v :=
  writesAtIssue_of_writeNow hexec (fun f x _ => by simp only [hv])
    (fun f x hcheck => laneWrites_ok fun l hl => wrBool_ok (isReg_or_isPred_of_okIn (hdst f) (passesCheck_of_check hcheck).dst) hl)
    (fun f x _ => laneWrites_nodup x f 1 fun l => wrBool_elems ..)

end LaneValues

end Sys2Proof.Machine
end

section
open Sys2Proof Sys2Proof.Machine

namespace Sys2Proof.Machine

/-! ## Values of integers and bits -/

/-- A field of MOD is smaller than its width allows. -/
theorem modField_lt (f : Fields) (lo n : Nat) : f.m lo n < 2 ^ n := (f.mod.extractLsb' lo n).isLt

theorem ofNat_add_toNat {n : Nat} (a b : BitVec n) : BitVec.ofNat n (a.toNat + b.toNat) = a + b := by
  simp [BitVec.ofNat_add]

theorem ofNat_mul_toNat {n : Nat} (a b : BitVec n) : BitVec.ofNat n (a.toNat * b.toNat) = a * b := by
  simp [BitVec.ofNat_mul]

theorem ofInt_sub {n : Nat} (i j : Int) : BitVec.ofInt n (i - j) = BitVec.ofInt n i - BitVec.ofInt n j := by
  rw [Int.sub_eq_add_neg, BitVec.ofInt_add, BitVec.ofInt_neg, BitVec.sub_eq_add_neg]

theorem ofInt_toNat {n : Nat} (a : BitVec n) : BitVec.ofInt n a.toNat = a := by simp

theorem ofInt_ns32 (ns : Nat) (a : W32) : BitVec.ofInt 32 (ns32 ns a) = a := by
  unfold ns32
  split
  · exact BitVec.ofInt_toInt
  · exact ofInt_toNat a

theorem ofInt_ns64 (ns : Nat) (a : W64) : BitVec.ofInt 64 (ns64 ns a) = a := by
  unfold ns64
  split
  · exact BitVec.ofInt_toInt
  · exact ofInt_toNat a

/-- The absolute value of IABS, 2^31 for -2^31 (07 R163). -/
theorem ofNat_natAbs_toInt (a : W32) : BitVec.ofNat 32 a.toInt.natAbs = if a.msb then 0 - a else a := by
  have hlt := a.isLt
  rw [BitVec.toInt_eq_msb_cond]
  cases a.msb with
  | false => simp
  | true =>
    simp only [if_true]
    have habs : ((a.toNat : Int) - (2 ^ 32 : Nat)).natAbs = 2 ^ 32 - a.toNat := by omega
    apply BitVec.eq_of_toNat_eq
    rw [habs, BitVec.toNat_ofNat, BitVec.toNat_sub]
    simp

theorem shiftLeft_eq_ofInt_mul {n : Nat} (i : Int) (k : Nat) : BitVec.ofInt n i <<< k = BitVec.ofInt n (i * 2 ^ k) := by
  have hpow : BitVec.ofInt n (2 ^ k) = BitVec.twoPow n k := by
    apply BitVec.eq_of_toNat_eq
    rw [show (2 : Int) ^ k = ((2 ^ k : Nat) : Int) by simp, BitVec.ofInt_natCast, BitVec.toNat_ofNat, BitVec.toNat_twoPow]
  rw [BitVec.ofInt_mul, hpow, BitVec.shiftLeft_eq_mul_twoPow]

/-- A 64-bit base plus a 32-bit index, extended either way and scaled (07 R163). -/
theorem add_scaled_eq_ofInt (signed : Prop) [Decidable signed] (a : W32) (b : W64) (k : Nat) :
    b + ((if signed then a.signExtend 64 else a.setWidth 64) <<< k) =
      BitVec.ofInt 64 (b.toNat + (if signed then a.toInt else (a.toNat : Int)) * 2 ^ k) := by
  have hext : (if signed then a.signExtend 64 else a.setWidth 64) = BitVec.ofInt 64 (if signed then a.toInt else (a.toNat : Int)) := by
    split
    · rfl
    · simp
  rw [hext, shiftLeft_eq_ofInt_mul, BitVec.ofInt_add, ofInt_toNat]

/-! ### Words from their bits -/

theorem ofBits32_getLsbD (g : Nat → Bool) {n : Nat} (hn : n < 32) : (ofBits32 g).getLsbD n = g n := by
  have hfold : ∀ k, k ≤ 32 → ((List.range k).foldl (fun (v : W32) n => if g n then v ||| bitOf n else v) 0).getLsbD n =
      (decide (n < k) && g n) := by
    intro k hk
    induction k with
    | zero => simp
    | succ k ih =>
      rw [List.range_succ, List.foldl_append, List.foldl_cons, List.foldl_nil, apply_ite (BitVec.getLsbD · n), BitVec.getLsbD_or,
        bitOf_get k n (by omega), ih (by omega)]
      by_cases hnk : n = k
      · subst hnk
        cases g n <;> simp
      · have hlt : n < k + 1 ↔ n < k := by omega
        simp [hnk, hlt]
  have h := hfold 32 (le_refl _)
  rw [decide_eq_true hn, Bool.true_and] at h
  exact h

theorem maskOf_getLsbD (p : Nat → Bool) {n : Nat} (hn : n < 32) : (maskOf p).getLsbD n = p n := ofBits32_getLsbD p hn

theorem popcount_toNat (a : W32) : popcount 32 a.toNat = (List.range 32).countP (fun n => a.getLsbD n) :=
  List.countP_eq_length_filter.symm

/-- The leading zeros of CLZ: the bits above the highest one bit (07 R164). -/
theorem leadingZeros_spec (a : W32) {v : Nat} (hv : v = if a.toNat = 0 then 32 else 31 - a.toNat.log2) :
    v ≤ 32 ∧ (∀ n, n < v → a.getLsbD (31 - n) = false) ∧ (v < 32 → a.getLsbD (31 - v) = true) := by
  by_cases ha : a.toNat = 0
  · obtain rfl : a = 0 := BitVec.eq_of_toNat_eq ha
    simp [hv]
  · have hlog : a.toNat.log2 < 32 := (Nat.log2_lt ha).mpr a.isLt
    rw [if_neg ha] at hv
    refine ⟨by omega, fun n hn => ?_, fun _ => ?_⟩
    · exact Nat.testBit_lt_two_pow ((Nat.log2_lt ha).mp (by omega))
    · rw [show 31 - v = a.toNat.log2 by omega]
      exact Nat.testBit_log2 ha

/-- The index of FFS: the lowest one bit, 32 where there is none (07 R164). -/
theorem lowestBit_spec (a : W32) {v : Nat} (hv : v = lowestBit 32 a.toNat) :
    v ≤ 32 ∧ (∀ n, n < v → a.getLsbD n = false) ∧ (v < 32 → a.getLsbD v = true) := by
  unfold lowestBit at hv
  cases hfind : (List.range 32).find? (fun i => a.toNat.testBit i) with
  | none =>
    rw [hfind] at hv
    obtain rfl : v = 32 := hv
    exact ⟨le_refl _, fun n hn => Bool.not_eq_true' _ |>.mp (List.find?_range_eq_none.mp hfind n hn), fun h => absurd h (lt_irrefl _)⟩
  | some i =>
    rw [hfind] at hv
    obtain rfl : v = i := hv
    obtain ⟨hbit, hmem, hbelow⟩ := List.find?_range_eq_some.mp hfind
    exact ⟨(List.mem_range.mp hmem).le, fun n hn => Bool.not_eq_true' _ |>.mp (hbelow n hn), fun _ => hbit⟩

/-! ### Shifts, rotations and fields -/

/-- The amount of a shift, at most 32 (07 R165). -/
theorem shiftAmount_eq_min (x : Ctx) (f : Fields) (l : Nat) : shiftAmount f (x.rd f f.b l) = min (x.amount f l) 32 := by
  simp only [shiftAmount, Ctx.amount, Ctx.na]
  split <;> omega

theorem shiftLeft_min_width (a : W32) (k : Nat) : a <<< min k 32 = BitVec.ofNat 32 (a.toNat * 2 ^ k) := by
  have hk : a <<< k = BitVec.ofNat 32 (a.toNat * 2 ^ k) := BitVec.eq_of_toNat_eq (by simp [Nat.shiftLeft_eq])
  rw [← hk]
  rcases le_total k 32 with h | h
  · rw [min_eq_left h]
  · rw [min_eq_right h, BitVec.shiftLeft_eq_zero h, BitVec.shiftLeft_eq_zero (le_refl 32)]

theorem ushiftRight_min_width (a : W32) (k : Nat) : a >>> min k 32 = BitVec.ofNat 32 (a.toNat / 2 ^ k) := by
  have hk : a >>> k = BitVec.ofNat 32 (a.toNat / 2 ^ k) := by
    apply BitVec.eq_of_toNat_eq
    have hlt : a.toNat / 2 ^ k < 2 ^ 32 := (Nat.div_le_self _ _).trans_lt a.isLt
    rw [BitVec.toNat_ushiftRight, Nat.shiftRight_eq_div_pow, BitVec.toNat_ofNat, Nat.mod_eq_of_lt hlt]
  rw [← hk]
  rcases le_total k 32 with h | h
  · rw [min_eq_left h]
  · rw [min_eq_right h, BitVec.ushiftRight_eq_zero h, BitVec.ushiftRight_eq_zero (le_refl 32)]

theorem sshiftRight_min_width (a : W32) (k : Nat) : a.sshiftRight (min k 32) = BitVec.ofInt 32 (a.toInt.fdiv (2 ^ k)) := by
  have hk : a.sshiftRight k = BitVec.ofInt 32 (a.toInt.fdiv (2 ^ k)) := by
    rw [BitVec.sshiftRight_eq, Int.shiftRight_eq_div_pow, Int.fdiv_eq_ediv_of_nonneg _ (by positivity)]
    norm_cast
  rw [← hk]
  rcases le_total k 32 with h | h
  · rw [min_eq_left h]
  · apply BitVec.eq_of_getLsbD_eq
    intro i hi
    rw [min_eq_right h, BitVec.getLsbD_sshiftRight, BitVec.getLsbD_sshiftRight, if_neg (by omega), if_neg (by omega)]

theorem rotateLeft_getLsbD (a : W32) (b : Nat) {n : Nat} (hn : n < 32) :
    (a.rotateLeft (b % 32)).getLsbD ((n + b) % 32) = a.getLsbD n := by
  rw [BitVec.getLsbD_rotateLeft, Nat.mod_mod]
  by_cases hwrap : (n + b) % 32 < b % 32
  · have hi : 32 - b % 32 + (n + b) % 32 = n := by omega
    simp [hwrap, hi]
  · have hi : (n + b) % 32 - b % 32 = n := by omega
    have hlt : (n + b) % 32 < 32 := by omega
    simp [hwrap, hi, hlt]

theorem rotateRight_getLsbD (a : W32) (b : Nat) {n : Nat} (hn : n < 32) :
    (a.rotateRight (b % 32)).getLsbD n = a.getLsbD ((n + b) % 32) := by
  rw [BitVec.getLsbD_rotateRight, Nat.mod_mod]
  by_cases hwrap : n < 32 - b % 32
  · have hi : b % 32 + n = (n + b) % 32 := by omega
    simp [hwrap, hi]
  · have hi : n - (32 - b % 32) = (n + b) % 32 := by omega
    simp [hwrap, hi, hn]

/-- FUNNEL's low word of the pair shifted right (07 R164). -/
theorem funnel_eq_ofNat (a b : W32) (k : Nat) :
    (((b ++ a : W64) >>> k).setWidth 32 : W32) = BitVec.ofNat 32 ((b.toNat * 2 ^ 32 + a.toNat) / 2 ^ k) := by
  apply BitVec.eq_of_toNat_eq
  rw [BitVec.toNat_setWidth, BitVec.toNat_ushiftRight, BitVec.toNat_append, ← Nat.shiftLeft_add_eq_or_of_lt a.isLt,
    Nat.shiftLeft_eq, Nat.shiftRight_eq_div_pow, BitVec.toNat_ofNat]

/-- BFE's field, cut at bit 31, extended by zeros or by its top bit (07 R166). -/
theorem bitField_eq (ns : Nat) (a : W32) (pos len : Nat) (hns : ns < 2) :
    bitField ns a pos len = if len = 0 ∨ 32 ≤ pos then 0
      else if ns = 1 then BitVec.ofNat 32 (a.toNat / 2 ^ pos % 2 ^ min len (32 - pos))
      else (BitVec.ofNat (min len (32 - pos)) (a.toNat / 2 ^ pos)).signExtend 32 := by
  unfold bitField
  split
  · rfl
  · next hfield =>
    obtain ⟨w, hw⟩ : ∃ w, min len (32 - pos) = w + 1 := ⟨min len (32 - pos) - 1, by omega⟩
    rw [hw]
    simp only [Nat.add_sub_cancel]
    set v := a.toNat / 2 ^ pos % 2 ^ (w + 1)
    have hsigned : (BitVec.ofNat (w + 1) (a.toNat / 2 ^ pos)).signExtend 32 =
        BitVec.ofInt 32 (if 2 * v < 2 ^ (w + 1) then (v : Int) else v - (2 ^ (w + 1) : Nat)) := by
      rw [BitVec.signExtend, BitVec.toInt_eq_toNat_cond, BitVec.toNat_ofNat]
    obtain rfl | rfl : ns = 0 ∨ ns = 1 := by omega
    · rw [if_neg (by decide : ¬ 0 = 1), hsigned]
      by_cases hneg : 2 ^ w ≤ v
      · rw [if_pos ⟨rfl, hneg⟩, if_neg (by rw [Nat.pow_succ]; omega)]
        norm_cast
      · rw [if_neg (fun h => hneg h.2), if_pos (by rw [Nat.pow_succ]; omega), BitVec.ofInt_natCast]
    · rw [if_pos rfl, if_neg (fun h => absurd h.1 (by decide))]

/-- The mask of len bits from pos. -/
theorem fieldMask_getLsbD (pos len : Nat) {n : Nat} (hn : n < 32) :
    (BitVec.ofNat 32 ((2 ^ len - 1) * 2 ^ pos)).getLsbD n = decide (pos ≤ n ∧ n < pos + len) := by
  rw [BitVec.getLsbD_ofNat, Nat.testBit_mul_two_pow, Nat.testBit_two_pow_sub_one]
  by_cases h : pos ≤ n
  · have : n - pos < len ↔ n < pos + len := by omega
    simp [h, hn, this]
  · simp [h]

/-- Bits of a in place of len bits of b from pos (07 R166). -/
theorem bitInsert_getLsbD (a b : W32) (pos len : Nat) {n : Nat} (hn : n < 32) :
    ((b &&& ~~~(BitVec.ofNat 32 ((2 ^ len - 1) * 2 ^ pos))) ||| ((a <<< pos) &&& BitVec.ofNat 32 ((2 ^ len - 1) * 2 ^ pos))).getLsbD n =
      if pos ≤ n ∧ n < pos + len then a.getLsbD (n - pos) else b.getLsbD n := by
  simp only [BitVec.getLsbD_or, BitVec.getLsbD_and, BitVec.getLsbD_not, BitVec.getLsbD_shiftLeft, fieldMask_getLsbD pos len hn, hn]
  by_cases h : pos ≤ n ∧ n < pos + len
  · have hpos : ¬ n < pos := by omega
    simp [h, hpos]
  · simp [h]

/-! ## Row 0x2 (07 R163) -/

/-- IADDC and ISUBB: the value as any word writes it, then the carry in the file. -/
theorem carries_of_carryWord {op : Nat} {mk : Fields → Instr} {g : Int → Int → Int → Int} {c : Int → Bool}
    (hdst : ∀ f, regKinds (formOf op f).d = true) (hexec : ∀ f s, exec (mk f) s = carryWord op f s g c) : Carries op mk g c := by
  intro f s x h t
  have hreg := isRegOpnd_of_okIn (hdst f) (passesCheck_of_check h.legal).dst
  obtain ⟨y, hy, hvalue⟩ := writeNow_wrote_noExc h.here f ((x.destLanes f).flatMap (fun l => wr32 f.dst l (BitVec.ofInt 32 (t l))))
    (laneWrites_ok fun l hl => wr32_ok hreg hl) (laneWrites_nodup x f 1 fun l => wr32_elems ..)
  obtain ⟨z, hz, hcarry⟩ := writeFile_wrote hy.1 ((x.destLanes f).map (fun l => ⟨.p (f.m 0 4) l, if c (t l) then 1 else 0⟩))
    (by
      intro w hw
      obtain ⟨l, hl, rfl⟩ := List.mem_map.mp hw
      exact RegWrite.ok_pred (x.destLanes_lt f l hl))
    (by
      rw [List.map_map]
      exact ((x.destLanes_sub f).nodup (x.active_nodup f)).map fun a b hab => by simpa using hab)
  have hplace := hvalue.place
  have hfile : ∀ ws t, writeFile y ws t = writeFile x ws t := fun ws t => by rw [hplace]; rfl
  have hmoves := hy.step (by rw [hplace]) (by rw [hplace]) (by rw [hplace]) hz
  exact ⟨_, y, z, by rw [hexec, carryWord, issueWord_eq h, hfile]; rfl, hmoves.1, hmoves.2, hvalue, hcarry⟩

/-- IADDS and ISUBS. -/
theorem saturates_of_satWord {op : Nat} {mk : Fields → Instr} {g : Int → Int → Int}
    (hdst : ∀ f, regKinds (formOf op f).d = true) (hexec : ∀ f s, exec (mk f) s = satWord op f s g) : Saturates op mk g := by
  intro f s x h
  have hreg := isRegOpnd_of_okIn (hdst f) (passesCheck_of_check h.legal).dst
  obtain ⟨y, ⟨hissue, honly⟩, hwrote⟩ := writeNow_wrote h.here f _ _
    (laneWrites_ok fun l hl => wr32_ok hreg hl) (laneWrites_nodup x f 1 fun l => wr32_elems ..)
  exact ⟨_, y, by rw [hexec, satWord, issueWord_eq h], hissue, honly, hwrote⟩

/-- Settles O5: each word writes one value per destination lane, which is the value of R163. -/
theorem integerRow2Results : Obligations.IntegerRow2Results := by
  refine ⟨?iadd, ?isub, ?iaddc, ?isubb, ?iadds, ?isubs, ?isum3, ?ineg, ?iabs, ?iabsd, ?ixadd, ?and, ?or, ?xor, ?not, ?blut3⟩
  case iadd => exact gives32_of_alu32 (fun _ => rfl) (fun _ _ => rfl) fun f x l => (ofNat_add_toNat ..).symm
  case isub => exact gives32_of_alu32 (fun _ => rfl) (fun _ _ => rfl) fun f x l => by simp only [ofInt_sub, Ctx.na, ofInt_toNat]
  case iaddc => exact carries_of_carryWord (fun _ => rfl) (fun _ _ => rfl)
  case isubb => exact carries_of_carryWord (fun _ => rfl) (fun _ _ => rfl)
  case iadds => exact saturates_of_satWord (fun _ => rfl) (fun _ _ => rfl)
  case isubs => exact saturates_of_satWord (fun _ => rfl) (fun _ _ => rfl)
  case isum3 => exact gives32_of_alu32 (fun _ => rfl) (fun _ _ => rfl) fun f x l => by simp [Ctx.na, BitVec.ofNat_add]
  case ineg => exact gives32_of_alu32 (fun _ => rfl) (fun _ _ => rfl) fun f x l => by simp [Ctx.na, BitVec.ofInt_neg]
  case iabs => exact gives32_of_alu32 (fun _ => rfl) (fun _ _ => rfl) fun f x l => (ofNat_natAbs_toInt _).symm
  case iabsd => exact gives32_of_alu32 (fun _ => rfl) (fun _ _ => rfl) fun f x l => by simp [Ctx.na, BitVec.ofNat_add]
  case ixadd => exact gives64_of_alu64 (fun _ => rfl) (fun _ _ => rfl) fun f x l => add_scaled_eq_ofInt ..
  case and => exact gives32_of_alu32 (fun _ => rfl) (fun _ _ => rfl) fun f x l => rfl
  case or => exact gives32_of_alu32 (fun _ => rfl) (fun _ _ => rfl) fun f x l => rfl
  case xor => exact gives32_of_alu32 (fun _ => rfl) (fun _ _ => rfl) fun f x l => rfl
  case not => exact gives32_of_alu32 (fun _ => rfl) (fun _ _ => rfl) fun f x l => rfl
  case blut3 =>
    exact ⟨_, gives32_of_alu32 (fun _ => rfl) (fun _ _ => rfl) fun f x l => rfl, fun f x l n hn => ofBits32_getLsbD _ hn⟩

end Sys2Proof.Machine
end

section
open Sys2Proof Sys2Proof.Machine

namespace Sys2Proof.Machine

/-! ## Row 0x3 (07 R164 to R166) -/

/-- Settles O6: each word writes one value per destination lane, which is the value of R164. -/
theorem integerRow3Results : Obligations.IntegerRow3Results := by
  refine ⟨?imul, ?imulhi, ?imad, ?imadw, ?shl, ?shr, ?sar, ?rotl, ?rotr, ?funnel, ?bfe, ?bfi, ?popc, ?clz, ?brev, ?ffs⟩
  case imul => exact gives32_of_alu32 (fun _ => rfl) (fun _ _ => rfl) fun f x l => (ofNat_mul_toNat ..).symm
  case imulhi =>
    exact gives32_of_alu32 (fun _ => rfl) (fun _ _ => rfl) fun f x l => by rw [Int.fdiv_eq_ediv_of_nonneg _ (by decide)]
  case imad => exact gives32_of_alu32 (fun _ => rfl) (fun _ _ => rfl) fun f x l => by simp [Ctx.na, BitVec.ofNat_add, BitVec.ofNat_mul]
  case imadw => exact gives64_of_alu64 (fun _ => rfl) (fun _ _ => rfl) fun f x l => by rw [BitVec.ofInt_add, ofInt_toNat]
  case shl =>
    exact gives32_of_alu32 (fun _ => rfl) (fun _ _ => rfl) fun f x l => by rw [shiftAmount_eq_min]; exact shiftLeft_min_width ..
  case shr =>
    exact gives32_of_alu32 (fun _ => rfl) (fun _ _ => rfl) fun f x l => by rw [shiftAmount_eq_min]; exact ushiftRight_min_width ..
  case sar =>
    exact gives32_of_alu32 (fun _ => rfl) (fun _ _ => rfl) fun f x l => by rw [shiftAmount_eq_min]; exact sshiftRight_min_width ..
  case rotl =>
    exact ⟨_, gives32_of_alu32 (fun _ => rfl) (fun _ _ => rfl) fun f x l => rfl, fun f x l n hn => rotateLeft_getLsbD _ _ hn⟩
  case rotr =>
    exact ⟨_, gives32_of_alu32 (fun _ => rfl) (fun _ _ => rfl) fun f x l => rfl, fun f x l n hn => rotateRight_getLsbD _ _ hn⟩
  case funnel => exact gives32_of_alu32 (fun _ => rfl) (fun _ _ => rfl) fun f x l => funnel_eq_ofNat ..
  case bfe =>
    exact ⟨_, gives32_of_alu32 (fun _ => rfl) (fun _ _ => rfl) fun f x l => rfl, fun f x l => bitField_eq _ _ _ _ (modField_lt f 0 1)⟩
  case bfi =>
    refine ⟨_, gives32_of_alu32 (fun _ => rfl) (fun _ _ => rfl) fun f x l => rfl, fun f x l n hn => ?_⟩
    have hpos : (f.imm.extractLsb' 0 8).toNat = f.imm.toNat % 256 := by simp
    have hlen : (f.imm.extractLsb' 8 8).toNat = f.imm.toNat / 256 % 256 := by simp [Nat.shiftRight_eq_div_pow]
    dsimp only
    rw [hpos, hlen]
    exact bitInsert_getLsbD _ _ _ _ hn
  case popc =>
    exact gives32_of_alu32 (fun _ => rfl) (fun _ _ => rfl) fun f x l => by rw [popcount_toNat]
  case clz =>
    refine ⟨_, gives32_of_alu32 (fun _ => rfl) (fun _ _ => rfl) fun f x l => rfl, fun f x l => leadingZeros_spec _ ?_⟩
    rw [BitVec.toNat_ofNat, Nat.mod_eq_of_lt]
    split <;> omega
  case brev =>
    exact ⟨_, gives32_of_alu32 (fun _ => rfl) (fun _ _ => rfl) fun f x l => rfl, fun f x l n hn => ofBits32_getLsbD _ hn⟩
  case ffs =>
    refine ⟨_, gives32_of_alu32 (fun _ => rfl) (fun _ _ => rfl) fun f x l => rfl, fun f x l => lowestBit_spec _ ?_⟩
    rw [BitVec.toNat_ofNat, Nat.mod_eq_of_lt]
    exact (lowestBit_spec _ rfl).1.trans_lt (by decide)

/-! ## Row 0x4 (07 R167 to R170) -/

theorem ofInt_min_ns32 (ns : Nat) (a b : W32) : BitVec.ofInt 32 (min (ns32 ns a) (ns32 ns b)) =
    if ns32 ns a ≤ ns32 ns b then a else b := by
  rw [min_def, apply_ite (BitVec.ofInt 32), ofInt_ns32, ofInt_ns32]

theorem ofInt_max_ns32 (ns : Nat) (a b : W32) : BitVec.ofInt 32 (max (ns32 ns a) (ns32 ns b)) =
    if ns32 ns a ≤ ns32 ns b then b else a := by
  rw [max_def, apply_ite (BitVec.ofInt 32), ofInt_ns32, ofInt_ns32]

theorem ofInt_min_ns64 (ns : Nat) (a b : W64) : BitVec.ofInt 64 (min (ns64 ns a) (ns64 ns b)) =
    if ns64 ns a ≤ ns64 ns b then a else b := by
  rw [min_def, apply_ite (BitVec.ofInt 64), ofInt_ns64, ofInt_ns64]

theorem ofInt_max_ns64 (ns : Nat) (a b : W64) : BitVec.ofInt 64 (max (ns64 ns a) (ns64 ns b)) =
    if ns64 ns a ≤ ns64 ns b then b else a := by
  rw [max_def, apply_ite (BitVec.ofInt 64), ofInt_ns64, ofInt_ns64]

theorem saysCompareSelectMoveResults : SaysCompareSelectMoveResults := by
  refine ⟨?icmp, ?icmpw, ?sel, ?selw, ?imin, ?imax, ?iminw, ?imaxw, ?iclamp, ?mov, ?movw, ?pmov, ?plut3, ?p2s⟩
  case icmp => exact givesBool_of_aluB (fun _ => rfl) (fun _ _ => rfl) fun f x l => rfl
  case icmpw => exact givesBool_of_aluB (fun _ => rfl) (fun _ _ => rfl) fun f x l => rfl
  case sel => exact gives32_of_alu32 (fun _ => rfl) (fun _ _ => rfl) fun f x l => rfl
  case selw => exact gives64_of_alu64 (fun _ => rfl) (fun _ _ => rfl) fun f x l => rfl
  case imin => exact gives32_of_alu32 (fun _ => rfl) (fun _ _ => rfl) fun f x l => (ofInt_min_ns32 ..).symm
  case imax => exact gives32_of_alu32 (fun _ => rfl) (fun _ _ => rfl) fun f x l => (ofInt_max_ns32 ..).symm
  case iminw => exact gives64_of_alu64 (fun _ => rfl) (fun _ _ => rfl) fun f x l => (ofInt_min_ns64 ..).symm
  case imaxw => exact gives64_of_alu64 (fun _ => rfl) (fun _ _ => rfl) fun f x l => (ofInt_max_ns64 ..).symm
  case iclamp => exact gives32_of_alu32 (fun _ => rfl) (fun _ _ => rfl) fun f x l => rfl
  case mov => exact gives32_of_alu32 (fun _ => rfl) (fun _ _ => rfl) fun f x l => rfl
  case movw => exact gives64_of_alu64 (fun _ => rfl) (fun _ _ => rfl) fun f x l => rfl
  case pmov =>
    exact givesBool_of_aluB (fun _ => rfl) (fun _ _ => rfl) fun f x l => by
      rw [Bool.eq_iff_iff]
      cases f.a <;> simp [Opnd.code]
  case plut3 => exact givesBool_of_aluB (fun _ => rfl) (fun _ _ => rfl) fun f x l => rfl
  case p2s =>
    exact ⟨_, gives32_of_alu32 (fun _ => rfl) (fun _ _ => rfl) fun f x l => rfl, fun f x l n hn => by
      rw [ofBits32_getLsbD _ hn]
      simp only [Bool.and_eq_true, decide_eq_true_eq]⟩

/-- The destination that MOVT's form permits: a uniform register where it reads a word of a tile, else a tile (07 R169). -/
theorem movt_dst_of_check {f : Fields} (h : check 0x4B f = none) :
    (f.m 0 2 = 2 ∧ ∃ i, f.dst = .uni i) ∨ (f.m 0 2 ≠ 2 ∧ ∃ i, f.dst = .tile i) := by
  have hdst : okIn (formOf 0x4B f).d f.dst = true := (passesCheck_of_check h).dst
  have hkinds : (formOf 0x4B f).d = if f.m 0 2 = 2 then [.u] else [.t] := rfl
  rw [hkinds] at hdst
  by_cases hread : f.m 0 2 = 2
  · refine .inl ⟨hread, ?_⟩
    cases hd : f.dst <;> simp [hread, hd, okIn, K.ok] at hdst ⊢
  · refine .inr ⟨hread, ?_⟩
    cases hd : f.dst <;> simp [hread, hd, okIn, K.ok] at hdst ⊢

/-- What MOVT writes in its lane. -/
def movtWrites (f : Fields) (x : Ctx) (l : Nat) : List RegWrite :=
  match f.m 0 2, f.dst with
  | 0, .tile i => (List.range 8).map (fun w => ⟨.t i.toNat w, (x.rdT f.a).extractLsb' (32 * w) 32⟩)
  | 1, .tile i => [⟨.t i.toNat (f.m 2 3), x.rd f f.a l⟩]
  | 2, .uni i => [⟨.u i.toNat, (x.rdT f.a).extractLsb' (32 * f.m 2 3) 32⟩]
  | _, _ => []

theorem movtWrites_ok (f : Fields) (x : Ctx) (l : Nat) : ∀ w, w ∈ movtWrites f x l → w.ok := by
  intro w hw
  unfold movtWrites at hw
  split at hw
  · obtain ⟨k, hk, rfl⟩ := List.mem_map.mp hw
    exact List.mem_range.mp hk
  · obtain rfl := List.mem_singleton.mp hw
    exact modField_lt f 2 3
  · obtain rfl := List.mem_singleton.mp hw
    trivial
  · cases hw

theorem movtWrites_nodup (f : Fields) (x : Ctx) (l : Nat) : ((movtWrites f x l).map RegWrite.elem).Nodup := by
  unfold movtWrites
  split
  · rw [List.map_map]
    exact List.nodup_range.map fun a b hab => by simpa using hab
  · exact List.nodup_singleton _
  · exact List.nodup_singleton _
  · exact List.nodup_nil

/-- A destination that is held per wave is written in one lane, so that its writes name an element once where that lane's do. -/
theorem onceWrites_nodup (x : Ctx) {f : Fields} {g : Nat → List RegWrite} (honce : isOnce f.dst = true)
    (hg : ∀ l, ((g l).map RegWrite.elem).Nodup) : (((x.destLanes f).flatMap g).map RegWrite.elem).Nodup := by
  rw [Ctx.destLanes, if_pos honce]
  cases x.active f with
  | nil => exact List.nodup_nil
  | cons l ls => simpa using hg l

theorem writesAtIssue_movt : WritesAtIssue 0x4B .movt (fun f x => (x.destLanes f).flatMap (movtWrites f x)) (fun _ _ => 0) := by
  refine writesAtIssue_of_writeNow (fun _ _ => rfl) (fun f x hcheck => ?writes) (fun f x _ => laneWrites_ok fun l _ => movtWrites_ok f x l)
    (fun f x hcheck => onceWrites_nodup x ?once (movtWrites_nodup f x))
  case writes =>
    congr 1
    funext l
    unfold movtWrites
    obtain ⟨hm, i, hd⟩ | ⟨hm, i, hd⟩ := movt_dst_of_check hcheck
    · rw [hm, hd]
      simp [wr32, destElems, tileWord]
    · have hlt := modField_lt f 0 2
      obtain hm | hm | hm : f.m 0 2 = 0 ∨ f.m 0 2 = 1 ∨ f.m 0 2 = 3 := by omega
      all_goals
        rw [hm, hd]
        rfl
  case once =>
    obtain ⟨-, i, hd⟩ | ⟨-, i, hd⟩ := movt_dst_of_check hcheck <;> rw [hd] <;> rfl

/-- What S2P writes in a lane: the predicates of MASK but p15 (07 R170). -/
def s2pWrites (f : Fields) (x : Ctx) (l : Nat) : List RegWrite :=
  ((List.range 15).filter (fun n => f.mod.getLsbD n)).map (fun n => ⟨.p n l, if (x.rd f f.a l).getLsbD n then 1 else 0⟩)

theorem s2pWrites_ok {f : Fields} {x : Ctx} {l : Nat} (hl : l < 32) : ∀ w, w ∈ s2pWrites f x l → w.ok := by
  intro w hw
  obtain ⟨n, -, rfl⟩ := List.mem_map.mp hw
  exact RegWrite.ok_pred hl

theorem mem_s2pWrites_elems {f : Fields} {x : Ctx} {l : Nat} {e : RegElem} (he : e ∈ (s2pWrites f x l).map RegWrite.elem) :
    ∃ n, e = .p n l := by
  obtain ⟨w, hw, rfl⟩ := List.mem_map.mp he
  obtain ⟨n, -, rfl⟩ := List.mem_map.mp hw
  exact ⟨n, rfl⟩

/-- S2P's writes name a predicate of each lane once. -/
theorem s2pWrites_nodup (f : Fields) (x : Ctx) {ls : List Nat} (hls : ls.Nodup) :
    ((ls.flatMap (s2pWrites f x)).map RegWrite.elem).Nodup := by
  rw [List.map_flatMap, List.nodup_flatMap]
  refine ⟨fun l _ => ?_, hls.imp fun hne e h1 h2 => ?_⟩
  · rw [s2pWrites, List.map_map]
    exact (List.nodup_range.filter _).map fun a b hab => by simpa using hab
  · obtain ⟨n, rfl⟩ := mem_s2pWrites_elems h1
    obtain ⟨m, hm⟩ := mem_s2pWrites_elems h2
    injection hm with _ hlane
    exact hne hlane

theorem saysTileMoveAndPredicateUnpack : SaysTileMoveAndPredicateUnpack := by
  refine ⟨writesAtIssue_movt, fun f s x h => ?_⟩
  have hok : ∀ w, w ∈ (x.active f).flatMap (s2pWrites f x) → w.ok := by
    intro w hw
    obtain ⟨l, hl, hw⟩ := List.mem_flatMap.mp hw
    exact s2pWrites_ok (x.active_lt f l hl) w hw
  obtain ⟨y, ⟨hissue, honly⟩, hwrote⟩ := writeFile_wrote h.here _ hok (s2pWrites_nodup f x (x.active_nodup f))
  exact ⟨_, y, issueWord_eq h _, hissue, honly, hwrote⟩

/-- Settles O7: each word writes the values of its lanes, MOVT once, S2P the predicates of MASK in each active lane. -/
theorem compareSelectMoveResults : Obligations.CompareSelectMoveResults :=
  ⟨saysCompareSelectMoveResults, saysTileMoveAndPredicateUnpack⟩

end Sys2Proof.Machine
end

section
open Sys2Proof Sys2Proof.Machine

namespace Sys2Proof.Machine

/-! ## Arms of exec -/

@[simp] theorem exec_brk_eq (f : Fields) (s : State) : exec (.brk f) s = execBrk f s := by rfl
@[simp] theorem exec_call_eq (f : Fields) (s : State) : exec (.call f) s = execCall f s := by rfl
@[simp] theorem exec_callx_eq (f : Fields) (s : State) : exec (.callx f) s = execCallx f s := by rfl
@[simp] theorem exec_lxpick_eq (f : Fields) (s : State) : exec (.lxpick f) s = execLxpick f s := by rfl
@[simp] theorem exec_lxshift_eq (f : Fields) (s : State) : exec (.lxshift f) s = execLxshift f s := by rfl
@[simp] theorem exec_lxrot_eq (f : Fields) (s : State) : exec (.lxrot f) s = execLxrot f s := by rfl
@[simp] theorem exec_lxswap_eq (f : Fields) (s : State) : exec (.lxswap f) s = execLxswap f s := by rfl
@[simp] theorem exec_rdlane_eq (f : Fields) (s : State) : exec (.rdlane f) s = execRdlane f s := by rfl
@[simp] theorem exec_srd_eq (f : Fields) (s : State) : exec (.srd f) s = execSrd f s := by rfl
@[simp] theorem exec_swrWrite_eq (f : Fields) (s : State) : exec (.swrWrite f) s = execSwrWrite f s := by rfl
@[simp] theorem exec_swrSet_eq (f : Fields) (s : State) : exec (.swrSet f) s = execSwrSet f s := by rfl
@[simp] theorem exec_swrClear_eq (f : Fields) (s : State) : exec (.swrClear f) s = execSwrClear f s := by rfl

/-! ## Transfers, ends of threads, traps by word and calls (07 R154, R155, R171; 14 R318) -/

/-- The target of a direct transfer: 16 bytes a word (07 R154). -/
theorem directTarget_eq (x : Ctx) (f : Fields) : directTarget x f = x.g.pro + f.imm.signExtend 64 * 16 := by
  unfold directTarget
  rw [BitVec.shiftLeft_eq_mul_twoPow]
  rfl

/-- actAtEnd does what Acted says. -/
theorem actAtEnd_acted {s : State} {x : Ctx} (h : s.issue? = some x) (f : Fields) (a : Nat → EndAct) :
    ∃ y, Moves s (actAtEnd x f a s) x y ∧ Acted x y ((x.active f).map (fun l => (l, a l))) :=
  ⟨_, modGroup_moves h _ (fun _ => rfl) rfl rfl, rfl, rfl, rfl⟩

/-- A word whose effect, where hyp holds, is what its active lanes do at the end of the run. -/
theorem actsAtEnd_of_actAtEnd {op : Nat} {mk : Fields → Instr} {hyp : Fields → State → Ctx → Prop}
    {a : Fields → Ctx → Nat → EndAct} {body : Fields → Ctx → State → State} (hexec : ∀ f s, exec (mk f) s = issueWord op f s (body f))
    (hbody : ∀ f s x, hyp f s x → body f x s = actAtEnd x f (a f x) s) : ActsAtEnd op mk hyp a := by
  intro f s x h hhyp
  obtain ⟨y, ⟨hissue, honly⟩, hacted⟩ := actAtEnd_acted h.here f (a f x)
  exact ⟨_, y, by rw [hexec, issueWord_eq h, hbody f s x hhyp], hissue, honly, hacted⟩

/-- A word whose active lanes act at the end of the run and whose link is written then (07 R154). -/
theorem links_of_writeLink {op : Nat} {mk : Fields → Instr} {a : Fields → Ctx → Nat → EndAct}
    {body : Fields → Ctx → State → State} (hexec : ∀ f s, exec (mk f) s = issueWord op f s (body f))
    (hbody : ∀ f s x, body f x s = writeLink x f (actAtEnd x f (a f x) s)) : Links op mk a := by
  intro f s x h
  obtain ⟨y, hy, hacted⟩ := actAtEnd_acted h.here f (a f x)
  obtain ⟨z, hz, hlink⟩ := writeEnd_wrote_noExc hy.1 f ((x.destLanes f).flatMap (fun l => wr64 f.dst l (fallThrough x.g.pro x.g.hdr)))
  have hplace := hacted.place
  have hgroup := hacted.group
  have hhdr : y.g.hdr = x.g.hdr := by rw [hgroup]
  have hsame : ∀ t, writeEnd y f ((x.destLanes f).flatMap (fun l => wr64 f.dst l (fallThrough x.g.pro x.g.hdr))) t = writeLink x f t := by
    intro t
    rw [hplace, hgroup]
    rfl
  rw [hsame] at hz
  rw [hhdr] at hlink
  have hmoves := hy.step (by rw [hplace]) (by rw [hplace]) (by rw [hplace]) hz
  exact ⟨_, y, z, by rw [hexec, issueWord_eq h, hbody], hmoves.1, hmoves.2, hacted, hlink⟩

theorem saysTransfersActAtEndOfRun : SaysTransfersActAtEndOfRun := by
  refine ⟨fun f s x h => ?nop, ?bra, ?brx, ?ret, ?exit, ?trap, ?brk, fun f s x h hbrken => ?brkOff, ?rte⟩
  case nop => exact issueWord_eq h fun _ s => s
  case bra => exact actsAtEnd_of_actAtEnd (fun _ _ => rfl) fun f s x _ => by rw [directTarget_eq]
  case brx => exact actsAtEnd_of_actAtEnd (fun _ _ => rfl) fun f s x _ => rfl
  case ret => exact actsAtEnd_of_actAtEnd (fun _ _ => rfl) fun f s x _ => rfl
  case exit => exact actsAtEnd_of_actAtEnd (fun _ _ => rfl) fun f s x _ => rfl
  case trap => exact actsAtEnd_of_actAtEnd (fun _ _ => rfl) fun f s x _ => rfl
  case brk => exact actsAtEnd_of_actAtEnd exec_brk_eq fun f s x hbrken => if_pos hbrken
  case brkOff =>
    rw [exec_brk_eq, execBrk, issueWord_eq h, hbrken, if_neg (by decide)]
  case rte => exact actsAtEnd_of_actAtEnd exec_rte_eq fun f s x _ => rfl

theorem saysCallsTransferAndLink : SaysCallsTransferAndLink := by
  refine ⟨?call, ?callx⟩
  case call => exact links_of_writeLink exec_call_eq fun f s x => by rw [directTarget_eq]
  case callx => exact links_of_writeLink exec_callx_eq fun f s x => rfl

/-- Settles O13: each word's active lanes are listed for the end of the run; a call's link is a write for it. -/
theorem transfersAndCalls : Obligations.TransfersAndCalls := ⟨saysTransfersActAtEndOfRun, saysCallsTransferAndLink⟩

/-! ## Votes (07 R161) -/

/-- Lanes of one 64-bit comparison, of pairs or of words made wide. -/
theorem wide_beq_iff (w : Prop) [Decidable w] (a b : W32) (c d : W64) :
    ((if w then c else a.setWidth 64) == (if w then d else b.setWidth 64)) = true ↔ if w then c = d else a = b := by
  split
  · exact beq_iff_eq
  · rw [beq_iff_eq]
    exact ⟨fun h => by simpa using congrArg (BitVec.setWidth 32) h, fun h => by rw [h]⟩

/-- Settles O14: VALL and VANY fold the active lanes' predicates, VBALLOT and VMATCH build a mask of lanes. -/
theorem votesOverActiveLanes : Obligations.VotesOverActiveLanes := by
  refine ⟨?vall, ?vany, ?vballot, ?vmatch⟩
  case vall =>
    refine endsWith_of_writeEnd (fun _ _ => rfl) fun f x l => congrArg (wrBool f.dst l) ?_
    rw [Bool.eq_iff_iff]
    simp
  case vany =>
    refine endsWith_of_writeEnd (fun _ _ => rfl) fun f x l => congrArg (wrBool f.dst l) ?_
    rw [Bool.eq_iff_iff]
    simp
  case vballot =>
    refine ⟨_, endsWith_of_writeEnd (fun _ _ => rfl) fun f x l => rfl, fun f x n hn => ?_⟩
    rw [maskOf_getLsbD _ hn, Bool.eq_iff_iff]
    simp
  case vmatch =>
    refine ⟨_, writesAtEnd_of_writeEnd (fun _ _ => rfl) fun f x => rfl, fun f x l n hn => ?_⟩
    rw [maskOf_getLsbD _ hn, Bool.eq_iff_iff, Bool.and_eq_true, wide_beq_iff, decide_eq_true_eq, List.contains_iff_mem]

/-! ## Lane exchange (07 R162) -/

/-- Fill: the lane read where it is one of EXEC, else the fill. -/
theorem fillFrom_eq (x : Ctx) (rd : Nat → W64) (j : Option Nat) (fill : W64) :
    fillFrom x rd j fill = ((j.filter (fun j => decide (j < 32) && x.exec.getLsbD j)).map rd).getD fill := by
  cases j with
  | none => rfl
  | some j =>
    rw [Option.filter_some]
    by_cases h : (decide (j < 32) && x.exec.getLsbD j) = true
    · rw [if_pos h]
      exact if_pos h
    · rw [if_neg h]
      exact if_neg h

/-- A source of a pair, or of a word made wide. -/
def wideSource (x : Ctx) (f : Fields) (o : Opnd) (pair : Bool) (l : Nat) : W64 :=
  if pair then x.rd64 f o l else (x.rd f o l).setWidth 64

/-- What is written in lane l of a value read from lane j, or of the fill. -/
def exchangeWrites (f : Fields) (x : Ctx) (pair : Bool) (l : Nat) (j : Option Nat) : List RegWrite :=
  let v := fillFrom x (wideSource x f f.a pair) j (wideSource x f f.c pair l)
  if pair then wr64 f.dst l v else wr32 f.dst l (v.setWidth 32)

theorem exchangeWrites_pair (f : Fields) (x : Ctx) (l : Nat) (j : Option Nat) :
    exchangeWrites f x true l j = wr64 f.dst l (match j.filter (fun j => decide (j < 32) && x.exec.getLsbD j) with
      | some j => x.rd64 f f.a j
      | none => x.rd64 f f.c l) := by
  simp only [exchangeWrites, fillFrom_eq, if_true]
  cases j.filter (fun j => decide (j < 32) && x.exec.getLsbD j) <;> rfl

theorem exchangeWrites_word (f : Fields) (x : Ctx) (l : Nat) (j : Option Nat) :
    exchangeWrites f x false l j = wr32 f.dst l (match j.filter (fun j => decide (j < 32) && x.exec.getLsbD j) with
      | some j => x.rd f f.a j
      | none => x.rd f f.c l) := by
  simp only [exchangeWrites, fillFrom_eq, Bool.false_eq_true, if_false]
  cases j.filter (fun j => decide (j < 32) && x.exec.getLsbD j) <;> simp [wideSource]

/-- A lane exchange whose sources, in segments of a lane at least, are src's. -/
theorem exchanges_of_exchange {op : Nat} {mk : Fields → Instr} {src : Nat → W32 → Nat → Option Nat}
    {from_ : Nat → Nat → W32 → Option Nat} (hexec : ∀ f s, exec (mk f) s = exchange op f s from_)
    (hfrom : ∀ n b l, 0 < n → from_ n l b = src n b l) : Exchanges op mk src := by
  intro v hv
  refine writesAtEnd_of_writeEnd (us := fun f x => (x.active f).flatMap (fun l =>
    exchangeWrites f x (decide (f.m 0 1 = 1)) l (from_ (2 ^ f.m 1 3) l (x.rd f f.b l)))) hexec fun f x => ?_
  congr 1
  funext l
  rw [hfrom _ _ _ (Nat.two_pow_pos _), hv]
  by_cases hpair : f.m 0 1 = 1
  · rw [decide_eq_true hpair, if_pos hpair]
    exact exchangeWrites_pair ..
  · rw [decide_eq_false hpair, if_neg hpair]
    exact exchangeWrites_word ..

/-- LXROT's source: b lanes below, around the lane's segment (07 R162). -/
theorem rotateSource_eq (l b : Nat) {n : Nat} (hn : 0 < n) :
    ((l : Int) - (l : Int) % n + (((l % n : Nat) : Int) - b).emod n).toNat =
      l - l % n + (((l : Int) - ((l - l % n : Nat) : Int) - b).emod n).toNat := by
  have hle := Nat.mod_le l n
  have hoff : (l : Int) - ((l - l % n : Nat) : Int) = ((l % n : Nat) : Int) := by omega
  have hpos : 0 ≤ (((l % n : Nat) : Int) - b).emod n := Int.emod_nonneg _ (by omega)
  have hmod : (l : Int) % n = ((l % n : Nat) : Int) := rfl
  rw [hoff, hmod]
  omega

/-- Settles O15: an exchange reads the lane that its formula names, from the group before the word. -/
theorem laneExchangesReadBefore : Obligations.LaneExchangesReadBefore := by
  refine ⟨?pick, ?shift, ?rot, ?swap, ?rdlane⟩
  case pick => exact exchanges_of_exchange exec_lxpick_eq fun n b l _ => rfl
  case shift => exact exchanges_of_exchange exec_lxshift_eq fun n b l _ => rfl
  case rot => exact exchanges_of_exchange exec_lxrot_eq fun n b l hn => congrArg some (rotateSource_eq l b.toNat hn)
  case swap => exact exchanges_of_exchange exec_lxswap_eq fun n b l _ => rfl
  case rdlane =>
    refine writesAtEnd_of_writeEnd (us := fun f x => (x.destLanes f).flatMap (fun l =>
      exchangeWrites f x (decide (f.m 0 1 = 1)) l (some (x.na f f.b l)))) exec_rdlane_eq fun f x => ?_
    unfold writesOf
    congr 1
    funext l
    dsimp only
    by_cases hpair : f.m 0 1 = 1
    · rw [decide_eq_true hpair, exchangeWrites_pair, Option.filter_some, if_pos hpair]
      cases decide (x.na f f.b l < 32) && x.exec.getLsbD (x.na f f.b l) <;> rfl
    · rw [decide_eq_false hpair, exchangeWrites_word, Option.filter_some, if_neg hpair]
      cases decide (x.na f f.b l < 32) && x.exec.getLsbD (x.na f f.b l) <;> rfl

/-! ## The status word (07 R172, R173) -/

/-- A word's low byte replaced, the others kept. -/
theorem replaceLowByte_eq (w : W32) (b : BitVec 8) : (w &&& 0xFFFFFF00) ||| b.setWidth 32 = w.extractLsb' 8 24 ++ b := by
  have hmask : ∀ i : Fin 32, (0xFFFFFF00 : W32).getLsbD i = decide (8 ≤ i.val) := by decide
  apply BitVec.eq_of_getLsbD_eq
  intro i hi
  rw [BitVec.getLsbD_or, BitVec.getLsbD_and, hmask ⟨i, hi⟩, BitVec.getLsbD_setWidth, BitVec.getLsbD_append, BitVec.getLsbD_extractLsb']
  by_cases h : i < 8
  · have hge : ¬ 8 ≤ i := by omega
    simp [h, hge, hi]
  · have hlt : i - 8 < 24 := by omega
    have hi8 : 8 + (i - 8) = i := by omega
    simp [h, hlt, hi8, Nat.not_lt.mp h]

/-- SWR changes bits 7:0 of WSTAT and nothing else (07 R173). -/
theorem swr_wrote {f : Fields} {s : State} {x : Ctx} {l : Nat} (h : Issues 0xF3 f s x) (hl : (x.active f).head? = some l)
    (g : BitVec 8 → BitVec 8 → BitVec 8) :
    ∃ t y, swr f s g = .next t ∧ t.issue? = some y ∧ OnlyWave s t x.core x.quarter x.wid ∧
      y = { x with sl := { x.sl with wave := { x.wv with
        wstat := x.wv.wstat.extractLsb' 8 24 ++ g (x.wv.wstat.extractLsb' 0 8) ((x.rd f f.a l).extractLsb' 0 8) } } } := by
  obtain ⟨ls, hls⟩ := List.head?_eq_some_iff.mp hl
  have hlow (w : W32) : w.setWidth 8 = w.extractLsb' 0 8 := BitVec.eq_of_toNat_eq (by simp)
  have hmoves := modWave_moves h.here (fun w =>
    { w with wstat := (w.wstat &&& 0xFFFFFF00) ||| (g (w.wstat.setWidth 8) ((x.rd f f.a l).setWidth 8)).setWidth 32 }) rfl rfl rfl
  refine ⟨_, _, by rw [swr, issueWord_eq h, hls], hmoves.1, hmoves.2, ?_⟩
  simp only [replaceLowByte_eq, hlow]

theorem swr_of_no_active {f : Fields} {s : State} {x : Ctx} (h : Issues 0xF3 f s x) (hnone : x.active f = [])
    (g : BitVec 8 → BitVec 8 → BitVec 8) : swr f s g = .next s := by
  rw [swr, issueWord_eq h, hnone]

/-- The register that SRD names (07 R172). -/
theorem userReg_eq (x : Ctx) (n : Nat) : userReg x n = match n with
    | 0 => match x.run.snap with | some n => n.wstat | none => x.wv.wstatNow
    | 1 => BitVec.ofNat 32 (x.wv.stack.length + x.wv.spilled)
    | _ => BitVec.ofNat 32 ((x.wv.ops.filter (fun o => o.log == .entry)).length + (x.wv.spillLog.filter (fun e => e.log == .entry)).length +
        (match x.wv.refill with | some r => if r.log = .entry then 1 else 0 | none => 0)) := by
  rcases n with _ | _ | n <;> rfl

/-- Settles O16: SRD's value is the register's before the word; SWR changes the wave's WSTAT alone. -/
theorem statusWordReadAndWritten : Obligations.StatusWordReadAndWritten := by
  refine ⟨?srd, fun f s x l h hl mk g hform => ?swr, fun f s x h hnone => ?off⟩
  case srd => exact endsWith_of_writeEnd exec_srd_eq fun f x l => congrArg (wr32 f.dst l) (userReg_eq ..)
  case swr =>
    have hexec : exec (mk f) s = swr f s g := by obtain ⟨rfl, rfl⟩ | ⟨rfl, rfl⟩ | ⟨rfl, rfl⟩ := hform <;> rfl
    rw [hexec]
    exact swr_wrote h hl g
  case off =>
    rw [exec_swrWrite_eq, exec_swrSet_eq, exec_swrClear_eq]
    exact ⟨swr_of_no_active h hnone _, swr_of_no_active h hnone _, swr_of_no_active h hnone _⟩

end Sys2Proof.Machine
end

section
open Sys2Proof Sys2Proof.Machine

namespace Sys2Proof.Machine

/-! ## Words of rows 0x5 to 0x7 (08 R174, R175) -/

/-- What a word of rows 0x5 and 0x6 writes in a lane: a value of destination o, or a truth value where o may be a predicate. -/
inductive WritesDest (o : Opnd) (l : Nat) : List RegWrite → Prop
  | word (v : W32) (ho : isRegOpnd o = true) : WritesDest o l (wr32 o l v)
  | truth (b : Bool) (ho : isRegOpnd o = true ∨ o.isPred = true) : WritesDest o l (wrBool o l b)

theorem WritesDest.ok {o : Opnd} {l : Nat} {ws : List RegWrite} (h : WritesDest o l ws) (hl : l < 32) : ∀ w, w ∈ ws → w.ok := by
  cases h with
  | word v ho => exact wr32_ok ho hl
  | truth b ho => exact wrBool_ok ho hl

theorem WritesDest.elems {o : Opnd} {l : Nat} {ws : List RegWrite} (h : WritesDest o l ws) :
    ws.map RegWrite.elem = destElems o l 1 := by
  cases h with
  | word v ho => exact wr32_elems ..
  | truth b ho => exact wrBool_elems ..

/-- A destination of a truth value that is no predicate is a register. -/
theorem isRegOpnd_of_ne_pred {o : Opnd} (ho : isRegOpnd o = true ∨ o.isPred = true) (hne : ∀ i, o = .pred i → False) :
    isRegOpnd o = true :=
  ho.resolve_right fun hp => by
    cases o with
    | pred i => exact hne i rfl
    | _ => cases hp

theorem writesDest_wrClass {f : Fields} (ho : isRegOpnd f.dst = true ∨ f.dst.isPred = true) (l m : Nat) (b : W32) :
    WritesDest f.dst l (wrClass f l m b) := by
  unfold wrClass
  split
  case h_1 => exact .truth _ ho
  case h_2 hne => exact .word _ (isRegOpnd_of_ne_pred ho hne)

theorem writesDest_packedCmp {f : Fields} (ho : isRegOpnd f.dst = true ∨ f.dst.isPred = true) (t : Fmt) (x : Ctx) (l : Nat) :
    WritesDest f.dst l (packedCmpValue t f x l).1 := by
  unfold packedCmpValue
  dsimp only
  split
  case h_1 => exact .truth _ ho
  case h_2 hne => exact .word _ (isRegOpnd_of_ne_pred ho hne)

section FloatWords

variable {op : Nat} {mk : Fields → Instr}

/-- A word of rows 0x5 and 0x6: what its destination lanes are written at issue, and all their bits. -/
theorem givesExc_of_fpWord {u v : Fields → Ctx → Nat → List RegWrite × Exc}
    (hexec : ∀ f s, exec (mk f) s = fpWord op f s false (u f)) (hv : ∀ f x l, u f x l = v f x l)
    (hdest : ∀ f x l, check op f = none → WritesDest f.dst l (v f x l).1) : GivesExc op mk v := by
  intro f s x h
  obtain ⟨y, ⟨hissue, honly⟩, hwrote⟩ := writeNow_wrote h.here f ((x.destLanes f).flatMap (fun l => (v f x l).1))
    (((x.destLanes f).map (fun l => (v f x l).2)).foldl (· ||| ·) 0)
    (laneWrites_ok fun l hl => (hdest f x l h.legal).ok hl) (laneWrites_nodup x f 1 fun l => (hdest f x l h.legal).elems)
  refine ⟨_, y, ?_, hissue, honly, hwrote⟩
  rw [hexec, fpWord, issueWord_eq h, funext (hv f x)]
  simp only [List.flatMap_map, List.map_map]
  rfl

/-- The same for a word with a 32-bit value. -/
theorem givesExc_word {u : Fields → Ctx → Nat → List RegWrite × Exc} {v : Fields → Ctx → Nat → W32} {e : Fields → Ctx → Nat → Exc}
    (hdst : ∀ f, regKinds (formOf op f).d = true) (hexec : ∀ f s, exec (mk f) s = fpWord op f s false (u f))
    (hv : ∀ f x l, u f x l = (wr32 f.dst l (v f x l), e f x l)) : GivesExc op mk (fun f x l => (wr32 f.dst l (v f x l), e f x l)) :=
  givesExc_of_fpWord hexec hv fun f _ _ hcheck => .word _ (isRegOpnd_of_okIn (hdst f) (passesCheck_of_check hcheck).dst)

theorem givesExc_fp32 {g : Fields → Nat → Nat → Nat → Nat × Exc} (hdst : ∀ f, regKinds (formOf op f).d = true)
    (hexec : ∀ f s, exec (mk f) s = fp32 op f s (g f)) : GivesExc op mk (fp32Value g) :=
  givesExc_word hdst hexec fun _ _ _ => rfl

theorem givesExc_packed {g : Fields → Nat → Nat → Nat → Nat × Exc} (hdst : ∀ f, regKinds (formOf op f).d = true)
    (hexec : ∀ f s, exec (mk f) s = packed op f s (g f)) : GivesExc op mk (packedValue g) :=
  givesExc_word hdst hexec fun _ _ _ => rfl

theorem givesExc_packedCmp {t : Fmt} (hdst : ∀ f, truthKinds (formOf op f).d = true)
    (hexec : ∀ f s, exec (mk f) s = packedCmp op t f s) : GivesExc op mk (packedCmpValue t) :=
  givesExc_of_fpWord hexec (fun _ _ _ => rfl) fun f x l hcheck =>
    writesDest_packedCmp (isReg_or_isPred_of_okIn (hdst f) (passesCheck_of_check hcheck).dst) t x l

/-- A word of row 0x7: its writes for the end of the run, and its bits at issue. -/
theorem endsWith_of_fpWord {u : Fields → Ctx → Nat → List RegWrite × Exc} {v : Fields → Ctx → Nat → List RegWrite}
    {e : Fields → Ctx → Nat → Exc} (hexec : ∀ f s, exec (mk f) s = fpWord op f s true (u f))
    (hv : ∀ f x l, u f x l = (v f x l, e f x l)) : EndsWith op mk v e := by
  intro f s x h _
  obtain ⟨y, ⟨hissue, honly⟩, hwrote⟩ := writeEnd_wrote h.here f (writesOf v f x) (excOf e f x)
  refine ⟨_, y, ?_, hissue, honly, hwrote⟩
  rw [hexec, fpWord, issueWord_eq h, funext (hv f x)]
  simp only [List.flatMap_map, List.map_map]
  rfl

theorem gives64Exc_fp64 {g : Fields → Nat → Nat → Nat → Nat × Exc} (hexec : ∀ f s, exec (mk f) s = fp64 op f s (g f)) :
    Gives64Exc op mk g :=
  endsWith_of_fpWord hexec fun _ _ _ => rfl

end FloatWords

/-- Settles O8: each word of row 0x5 is a word of FP32 values, of bits or of truth values, written at issue. -/
theorem singleFloatResults : Obligations.SingleFloatResults := by
  refine ⟨?fadd, ?fsub, ?fmul, ?ffma, ?fmin, ?fmax, ?fmed3, ?fcmp, ?fneg, ?fabs, ?fcpsgn, ?frint, ?fscale, ?fclass, ?fgetexp, ?ffrc⟩
  case fadd => exact givesExc_fp32 (fun _ => rfl) fun _ _ => rfl
  case fsub => exact givesExc_fp32 (fun _ => rfl) fun _ _ => rfl
  case fmul => exact givesExc_fp32 (fun _ => rfl) fun _ _ => rfl
  case ffma => exact givesExc_fp32 (fun _ => rfl) fun _ _ => rfl
  case fmin => exact givesExc_fp32 (fun _ => rfl) fun _ _ => rfl
  case fmax => exact givesExc_fp32 (fun _ => rfl) fun _ _ => rfl
  case fmed3 => exact givesExc_fp32 (fun _ => rfl) fun _ _ => rfl
  case fcmp =>
    exact givesExc_of_fpWord (fun _ _ => rfl) (fun _ _ _ => rfl) fun f _ _ hcheck =>
      .truth _ (isReg_or_isPred_of_okIn rfl (passesCheck_of_check hcheck).dst)
  case fneg => exact givesExc_word (fun _ => rfl) (fun _ _ => rfl) fun _ _ _ => rfl
  case fabs => exact givesExc_word (fun _ => rfl) (fun _ _ => rfl) fun _ _ _ => rfl
  case fcpsgn => exact givesExc_word (fun _ => rfl) (fun _ _ => rfl) fun _ _ _ => rfl
  case frint => exact givesExc_fp32 (fun _ => rfl) fun _ _ => rfl
  case fscale => exact givesExc_word (fun _ => rfl) (fun _ _ => rfl) fun _ _ _ => rfl
  case fclass =>
    exact givesExc_of_fpWord (fun _ _ => rfl) (fun _ _ _ => rfl) fun f _ l hcheck =>
      writesDest_wrClass (isReg_or_isPred_of_okIn rfl (passesCheck_of_check hcheck).dst) l _ _
  case fgetexp => exact givesExc_word (fun _ => rfl) (fun _ _ => rfl) fun _ _ _ => rfl
  case ffrc => exact givesExc_fp32 (fun _ => rfl) fun _ _ => rfl

/-- Settles O9: each word of row 0x6 does an operation or a compare on both halves, or changes bits. -/
theorem packedFloatResults : Obligations.PackedFloatResults := by
  refine ⟨?hadd2, ?hsub2, ?hmul2, ?hfma2, ?hmin2, ?hmax2, ?hcmp2, ?hneg2, ?habs2, ?badd2, ?bsub2, ?bmul2, ?bfma2, ?bmin2, ?bmax2, ?bcmp2⟩
  case hadd2 => exact givesExc_packed (fun _ => rfl) fun _ _ => rfl
  case hsub2 => exact givesExc_packed (fun _ => rfl) fun _ _ => rfl
  case hmul2 => exact givesExc_packed (fun _ => rfl) fun _ _ => rfl
  case hfma2 => exact givesExc_packed (fun _ => rfl) fun _ _ => rfl
  case hmin2 => exact givesExc_packed (fun _ => rfl) fun _ _ => rfl
  case hmax2 => exact givesExc_packed (fun _ => rfl) fun _ _ => rfl
  case hcmp2 => exact givesExc_packedCmp (fun _ => rfl) fun _ _ => rfl
  case hneg2 => exact givesExc_word (fun _ => rfl) (fun _ _ => rfl) fun _ _ _ => rfl
  case habs2 => exact givesExc_word (fun _ => rfl) (fun _ _ => rfl) fun _ _ _ => rfl
  case badd2 => exact givesExc_packed (fun _ => rfl) fun _ _ => rfl
  case bsub2 => exact givesExc_packed (fun _ => rfl) fun _ _ => rfl
  case bmul2 => exact givesExc_packed (fun _ => rfl) fun _ _ => rfl
  case bfma2 => exact givesExc_packed (fun _ => rfl) fun _ _ => rfl
  case bmin2 => exact givesExc_packed (fun _ => rfl) fun _ _ => rfl
  case bmax2 => exact givesExc_packed (fun _ => rfl) fun _ _ => rfl
  case bcmp2 => exact givesExc_packedCmp (fun _ => rfl) fun _ _ => rfl

/-- Settles O10: each word of row 0x7 writes for the end of the run, and its operands' widening adds to its bits. -/
theorem doubleFloatResults : Obligations.DoubleFloatResults := by
  refine ⟨?dadd, ?dsub, ?dmul, ?dfma, ?dmin, ?dmax, ?dcmp, ?dneg, ?dabs, ?dcpsgn, ?drint, ?dscale, ?dclass, ?dgetexp, ?drcp, ?drsq⟩
  case dadd => exact gives64Exc_fp64 fun _ _ => rfl
  case dsub => exact gives64Exc_fp64 fun _ _ => rfl
  case dmul => exact gives64Exc_fp64 fun _ _ => rfl
  case dfma => exact gives64Exc_fp64 fun _ _ => rfl
  case dmin => exact gives64Exc_fp64 fun _ _ => rfl
  case dmax => exact gives64Exc_fp64 fun _ _ => rfl
  case dcmp => exact endsWith_of_fpWord (fun _ _ => rfl) fun _ _ _ => rfl
  case dneg => exact endsWith_of_fpWord (fun _ _ => rfl) fun _ _ _ => rfl
  case dabs => exact endsWith_of_fpWord (fun _ _ => rfl) fun _ _ _ => rfl
  case dcpsgn => exact endsWith_of_fpWord (fun _ _ => rfl) fun _ _ _ => rfl
  case drint => exact gives64Exc_fp64 fun _ _ => rfl
  case dscale => exact endsWith_of_fpWord (fun _ _ => rfl) fun _ _ _ => rfl
  case dclass => exact endsWith_of_fpWord (fun _ _ => rfl) fun _ _ _ => rfl
  case dgetexp => exact endsWith_of_fpWord (fun _ _ => rfl) fun _ _ _ => rfl
  case drcp => exact gives64Exc_fp64 fun _ _ => rfl
  case drsq => exact gives64Exc_fp64 fun _ _ => rfl

end Sys2Proof.Machine
end

section
open Sys2Proof Sys2Proof.Machine

namespace Sys2Proof.Machine

/-! ## Arms of exec -/

@[simp] theorem exec_cvtii_eq (f : Fields) (s : State) : exec (.cvtii f) s = execCvtii f s := by rfl
@[simp] theorem exec_cvtsc_eq (f : Fields) (s : State) : exec (.cvtsc f) s = execCvtsc f s := by rfl
@[simp] theorem exec_cvtqs_eq (f : Fields) (s : State) : exec (.cvtqs f) s = execCvtqs f s := by rfl
@[simp] theorem exec_bpick_eq (f : Fields) (s : State) : exec (.bpick f) s = execBpick f s := by rfl
@[simp] theorem exec_swzh_eq (f : Fields) (s : State) : exec (.swzh f) s = execSwzh f s := by rfl
@[simp] theorem exec_srseed_eq (f : Fields) (s : State) : exec (.srseed f) s = execSrseed f s := by rfl

/-! ## Lanes changed at issue (08 R197) -/

/-- Distinct elements of a list changed one after the other, each by its own function. -/
theorem foldl_listAdj_eq {α : Type} {ns : List Nat} (hns : ns.Nodup) (k : Nat → α → α) (l : List α) :
    ns.foldl (fun l n => listAdj l n (k n)) l = l.zipIdx.map (fun p => if p.2 ∈ ns then k p.2 p.1 else p.1) := by
  apply List.ext_getElem?
  intro i
  rw [List.getElem?_map, List.getElem?_zipIdx, Option.map_map]
  induction ns generalizing l with
  | nil => simp [Function.comp_def]
  | cons n ns ih =>
    obtain ⟨hn, hns⟩ := List.nodup_cons.mp hns
    rw [List.foldl_cons, ih hns, listAdj_get?]
    by_cases hi : i = n
    · subst hi
      cases l[i]? <;> simp [hn]
    · cases l[i]? <;> simp [hi]

/-- A lane changed, but for whether it has exited, leaves the mask of live lanes as it was. -/
theorem Wave.live_listAdj (w : Wave) (l : Nat) {k : Lane → Lane} (hk : ∀ y, (k y).exited = y.exited) :
    ({ w with lanes := listAdj w.lanes l k } : Wave).live = w.live := by
  unfold Wave.live
  congr 1
  funext i
  rw [listAdj_get?]
  cases w.lanes[i]? with
  | none => simp
  | some y => by_cases hi : i = l <;> simp [hi, hk]

/-- A group whose wave has other lanes. -/
def Ctx.withLanes (x : Ctx) (lanes : List Lane) : Ctx := { x with sl := { x.sl with wave := { x.wv with lanes := lanes } } }

/-- Lanes changed one after the other change the wave alone. -/
theorem modLanes_moves {s : State} {x : Ctx} (h : s.issue? = some x) (ls : List Nat) {k : Nat → Lane → Lane}
    (hk : ∀ l y, (k l y).exited = y.exited) :
    Moves s (ls.foldl (fun s l => s.modLane x.core x.wid l (k l)) s) x
      (x.withLanes (ls.foldl (fun v l => listAdj v l (k l)) x.wv.lanes)) := by
  induction ls generalizing s x with
  | nil => exact ⟨h, OnlyWave.refl ..⟩
  | cons l ls ih =>
    have hone := modWave_moves h (fun w => { w with lanes := listAdj w.lanes l (k l) }) rfl rfl (x.wv.live_listAdj l (hk l))
    exact hone.step rfl rfl rfl (ih hone.1)

/-- What a word writes for its completion does not depend on its wave's lanes. -/
theorem writeLate_withLanes (x : Ctx) (lanes : List Lane) (op : Nat) (f : Fields) (ws : List RegWrite) (e : Exc) (s : State) :
    writeLate (x.withLanes lanes) op f ws e s = writeLate x op f ws e s := rfl

/-- The generator state that a word finds in a lane (08 R197). -/
def Ctx.srgOf (x : Ctx) (l : Nat) : W32 :=
  match x.wv.lanes[l]? with
  | some y => y.srg
  | none => 0

theorem Ctx.srgOf_eq (x : Ctx) (l : Nat) : x.srgOf l = ((x.wv.lanes[l]?).map Lane.srg).getD 0 := by
  unfold Ctx.srgOf
  cases x.wv.lanes[l]? <;> rfl

/-- Generator states set at issue in distinct lanes. -/
theorem setSrg_moves {s : State} {x : Ctx} (h : s.issue? = some x) {ls : List Nat} (hls : ls.Nodup) (g : Nat → W32) :
    Moves s (ls.foldl (fun s l => s.modLane x.core x.wid l (fun y => { y with srg := g l })) s) x
      (x.withLanes (x.wv.lanes.zipIdx.map (fun p => if p.2 ∈ ls then { p.1 with srg := g p.2 } else p.1))) := by
  have hmoves := modLanes_moves h ls (k := fun l y => { y with srg := g l }) fun _ _ => rfl
  rwa [foldl_listAdj_eq hls] at hmoves

/-! ## Words of rows 0x8 and 0x9 (08 R175) -/

section LateWords

variable {op : Nat} {mk : Fields → Instr}

/-- A word of row 0x8: the generator state of each destination lane at issue, then an operation with its writes and bits. -/
theorem converts_of_convWord {u v : Fields → Ctx → Nat → W32 → List RegWrite × Exc × W32}
    (hexec : ∀ f s, exec (mk f) s = convWord op f s (u f)) (hv : ∀ f x l srg, u f x l srg = v f x l srg) : Converts op mk v := by
  intro f s x h
  simp only [← Ctx.srgOf_eq]
  have hseed := setSrg_moves h.here ((x.destLanes_sub f).nodup (x.active_nodup f)) (fun l => (v f x l (x.srgOf l)).2.2)
  obtain ⟨y, hy, hlate, hlanes⟩ := writeLate_wrote hseed.1 op f ((x.destLanes f).flatMap (fun l => (v f x l (x.srgOf l)).1))
    (((x.destLanes f).map (fun l => (v f x l (x.srgOf l)).2.1)).foldl (· ||| ·) 0)
  rw [writeLate_withLanes] at hy
  have hmoves := hseed.step rfl rfl rfl hy
  refine ⟨_, y, ?exec, hmoves.1, hmoves.2,
    ⟨hlate.ops, hlate.nextOp, hlate.flags, hlate.wave, hlate.group, hlate.run⟩, ?seeded⟩
  case exec =>
    have hrow : convWord op f s (u f) = issueWord op f s (fun x s =>
        let rs := (x.destLanes f).map (fun l => (l, u f x l (x.srgOf l)))
        writeLate x op f (rs.flatMap (fun r => r.2.1)) ((rs.map (fun r => r.2.2.1)).foldl (· ||| ·) 0)
          (rs.foldl (fun s r => s.modLane x.core x.wid r.1 (fun y => { y with srg := r.2.2.2 })) s)) := rfl
    rw [hexec, hrow, issueWord_eq h]
    simp only [hv, List.foldl_map, List.flatMap_map]
  case seeded =>
    rw [hlanes]
    refine List.map_congr_left fun p hp => ?_
    have hsrg : x.srgOf p.2 = p.1.srg := by rw [Ctx.srgOf_eq, List.mem_zipIdx_iff_getElem?.mp hp]; rfl
    rw [hsrg]

/-- A word of row 0x9: an operation with its writes and bits. -/
theorem computes_of_lateWord {u v : Fields → Ctx → Nat → List RegWrite × Exc}
    (hexec : ∀ f s, exec (mk f) s = lateWord op f s (u f)) (hv : ∀ f x l, u f x l = v f x l) : Computes op mk v := by
  intro f s x h
  obtain ⟨y, ⟨hissue, honly⟩, hlate, hlanes⟩ := writeLate_wrote h.here op f ((x.destLanes f).flatMap (fun l => (v f x l).1))
    (((x.destLanes f).map (fun l => (v f x l).2)).foldl (· ||| ·) 0)
  refine ⟨_, y, ?_, hissue, honly, hlate, hlanes⟩
  rw [hexec, lateWord, issueWord_eq h, funext (hv f x)]
  simp only [List.flatMap_map, List.map_map]
  rfl

theorem converts_convert (hexec : ∀ f s, exec (mk f) s = convert op f s) : Converts op mk cvtValue :=
  converts_of_convWord hexec fun _ _ _ _ => rfl

theorem converts_convPack (hexec : ∀ f s, exec (mk f) s = convPack op f s) : Converts op mk cvtPackValue :=
  converts_of_convWord hexec fun _ _ _ _ => rfl

theorem converts_convExtract (hexec : ∀ f s, exec (mk f) s = convExtract op f s) : Converts op mk cvtExtractValue :=
  converts_of_convWord hexec fun _ _ _ _ => rfl

theorem computes_special {g : Fields → Nat → Nat × Exc} (hexec : ∀ f s, exec (mk f) s = special op f s (g f)) :
    Computes op mk (specialValue g) :=
  computes_of_lateWord hexec fun _ _ _ => rfl

theorem computes_dotWord {n : Nat} {ta tb : Fields → Fmt} (hexec : ∀ f s, exec (mk f) s = dotWord op f s n (ta f) (tb f)) :
    Computes op mk (dotValue n ta tb) :=
  computes_of_lateWord hexec fun _ _ _ => rfl

theorem computes_intDot {w : Nat} (hexec : ∀ f s, exec (mk f) s = intDot op f s w) : Computes op mk (intDotValue w) :=
  computes_of_lateWord hexec fun _ _ _ => rfl

end LateWords

/-- Settles O11: each word of row 0x8 is a conversion of its lanes with their generator states; CVTSC's scale is B's low byte. -/
theorem conversionResults : Obligations.ConversionResults := by
  refine ⟨?cvtf, ?cvtfi, ?cvtif, ?cvtii, ?cvtfw, ?cvtifw, ?cvtpk2, ?cvtpk4, ?cvtpk8, ?cvtex2, ?cvtex4, ?cvtex8, ?cvtsc, ?cvtqs, ?bpick,
    ?swzh⟩
  case cvtf => exact converts_convert fun _ _ => rfl
  case cvtfi => exact converts_convert fun _ _ => rfl
  case cvtif => exact converts_convert fun _ _ => rfl
  case cvtii => exact converts_of_convWord exec_cvtii_eq fun _ _ _ _ => rfl
  case cvtfw => exact converts_convert fun _ _ => rfl
  case cvtifw => exact converts_convert fun _ _ => rfl
  case cvtpk2 => exact converts_convPack fun _ _ => rfl
  case cvtpk4 => exact converts_convPack fun _ _ => rfl
  case cvtpk8 => exact converts_convPack fun _ _ => rfl
  case cvtex2 => exact converts_convExtract fun _ _ => rfl
  case cvtex4 => exact converts_convExtract fun _ _ => rfl
  case cvtex8 => exact converts_convExtract fun _ _ => rfl
  case cvtsc =>
    refine converts_of_convWord exec_cvtsc_eq fun f x l srg => ?_
    have hscale : ((x.rd f f.b l).extractLsb' 0 8).toNat = x.na f f.b l % 256 := by simp [Ctx.na]
    unfold cvtScaleValue
    rw [← hscale]
    rfl
  case cvtqs => exact converts_of_convWord exec_cvtqs_eq fun _ _ _ _ => rfl
  case bpick => exact converts_of_convWord exec_bpick_eq fun _ _ _ _ => rfl
  case swzh => exact converts_of_convWord exec_swzh_eq fun _ _ _ _ => rfl

/-- Settles O12: each word of row 0x9 is a special function, a dot product or a read of the generator state, pending for its completion;
SRSEED sets the generator states of the active lanes. -/
theorem specialFunctionResults : Obligations.SpecialFunctionResults := by
  refine ⟨?frcp, ?frsq, ?fsqrt, ?fexp2, ?flog2, ?fsin, ?fcos, ?ftanh, ?fdot2h, ?fdot2b, ?fdot4e, ?idot4, ?idot8, ?ddot2,
    fun f s x h => ?srseed, ?srread⟩
  case frcp => exact computes_special fun _ _ => rfl
  case frsq => exact computes_special fun _ _ => rfl
  case fsqrt => exact computes_special fun _ _ => rfl
  case fexp2 => exact computes_special fun _ _ => rfl
  case flog2 => exact computes_special fun _ _ => rfl
  case fsin => exact computes_special fun _ _ => rfl
  case fcos => exact computes_special fun _ _ => rfl
  case ftanh => exact computes_special fun _ _ => rfl
  case fdot2h => exact computes_dotWord fun _ _ => rfl
  case fdot2b => exact computes_dotWord fun _ _ => rfl
  case fdot4e => exact computes_dotWord fun _ _ => rfl
  case idot4 => exact computes_intDot fun _ _ => rfl
  case idot8 => exact computes_intDot fun _ _ => rfl
  case ddot2 => exact computes_of_lateWord (fun _ _ => rfl) fun _ _ _ => rfl
  case srseed =>
    obtain ⟨hissue, honly⟩ := setSrg_moves h.here (x.active_nodup f) (fun l => x.rd f f.a l)
    exact ⟨_, _, (exec_srseed_eq f s).trans (issueWord_eq h _), hissue, honly, rfl⟩
  case srread => exact computes_of_lateWord (fun _ _ => rfl) fun f x l => congrArg (fun v => (wr32 f.dst l v, 0)) (x.srgOf_eq l)

end Sys2Proof.Machine
end

section
open Sys2Proof Sys2Proof.Machine

namespace Sys2Proof.Machine

/-! ## Arms of exec -/

@[simp] theorem exec_barinfo_eq (f : Fields) (s : State) : exec (.barinfo f) s = execBarinfo f s := by rfl
@[simp] theorem exec_ginfo_eq (f : Fields) (s : State) : exec (.ginfo f) s = execGinfo f s := by rfl
@[simp] theorem exec_gattach_eq (f : Fields) (s : State) : exec (.gattach f) s = execGattach f s := by rfl
@[simp] theorem exec_wred_eq (f : Fields) (s : State) : exec (.wred f) s = execWred f s := by rfl
@[simp] theorem exec_wscan_eq (f : Fields) (s : State) : exec (.wscan f) s = execWscan f s := by rfl

/-! ## The issuing group and the waves after a change of the core -/

/-- %ringdepth of a gang, zero where there is none (02 R47). -/
def gangDepth (g : Option Gang) : W32 :=
  match g with
  | some g => g.ringdepth
  | none => 0

theorem gangDepth_eq (g : Option Gang) : gangDepth g = (g.map Gang.ringdepth).getD 0 := by cases g <;> rfl

/-- The issuing group stays as it is where its core changes outside its waves, runs, clock and matrix queue, and its gang's rings keep
their depths. -/
theorem State.issue?_modCore {s : State} {x : Ctx} (h : s.issue? = some x) {k : Core → Core}
    (hslots : (k (s.core x.core)).slots = (s.core x.core).slots) (hquarters : (k (s.core x.core)).quarters = (s.core x.core).quarters)
    (hclock : (k (s.core x.core)).clock = (s.core x.core).clock) (hmx : (k (s.core x.core)).mx = (s.core x.core).mx)
    (hdepth : ((k (s.core x.core)).gangs.get? x.wv.gang).map Gang.ringdepth = ((s.core x.core).gangs.get? x.wv.gang).map Gang.ringdepth) :
    (s.modCore x.core k).issue? = some x := by
  obtain ⟨u, hu, hc, hq, hpt, hr, hw, ht, hg, he, hcl, hm, hrd⟩ := State.issue?_eq h
  rw [hc] at hslots hquarters hclock hmx hdepth ⊢
  have hcore : (s.modCore u.core k).core u.core = k (s.core u.core) := State.core_modCore ..
  have hprog : (k (s.core u.core)).mxprog x.wv.uid = x.mxprog := by rw [Core.mxprog, hmx, hm]; rfl
  have hrings : gangDepth ((k (s.core u.core)).gangs.get? x.wv.gang) = x.ringdepth := by
    rw [gangDepth_eq, hdepth, ← gangDepth_eq]
    exact hrd.symm
  refine (State.issue?_of (s := s.modCore u.core k) (u := u) (r := x.run) (t := x.sl) (g := x.g) hu
    (by rw [State.quarter, hcore, hquarters]; exact hr) (by rw [hcore, hslots]; exact ht) hg).trans (congrArg some ?_)
  rw [hcore, hclock, ← hcl, ← he, ← hc, ← hq, ← hpt, ← hw]
  rw [← hc] at hprog hrings
  exact congrArg₂ (fun p d => ({ x with mxprog := p, ringdepth := d } : Ctx)) hprog hrings

/-- t differs from s in one wave of a core at most. -/
structure OnlySlot (s t : State) (c w : Nat) : Prop where
  rest : t = { s with cores := t.cores }
  cores : ∀ k, k ≠ c → t.core k = s.core k
  core : t.core c = { s.core c with slots := (t.core c).slots }
  slots : ∀ v, v ≠ w → t.slot? c v = s.slot? c v

theorem OnlySlot.refl (s : State) (c w : Nat) : OnlySlot s s c w := ⟨rfl, fun _ _ => rfl, rfl, fun _ _ => rfl⟩

theorem OnlySlot.modWave (s : State) (c w : Nat) (k : Wave → Wave) : OnlySlot s (s.modWave c w k) c w :=
  ⟨rfl, fun _ h => State.core_modCore_of_ne s _ h, by rw [State.core_modWave], fun _ h => State.slot?_modWave_of_ne s c k h⟩

theorem OnlySlot.addOp (s : State) (x : Ctx) (o : Op) : OnlySlot s (addOp x o s) x.core x.wid := .modWave ..

theorem OnlySlot.gang? {s t : State} {c w : Nat} (h : OnlySlot s t c w) (i : Nat) : t.gang? c i = s.gang? c i := by
  rw [State.gang?, h.core]
  rfl

/-! ## Words whose one effect is an operation (02 R58; 09 R200) -/

/-- x with operation o attached to its wave (02 R58). -/
def Ctx.attach (x : Ctx) (o : Op) : Ctx :=
  { x with sl := { x.sl with wave := { x.wv with
    flags := bumpFlag (bumpFlag x.wv.flags o.flag) o.wake, ops := x.wv.ops ++ [{ o with id := x.wv.nextOp }], nextOp := x.wv.nextOp + 1 } } }

theorem Ctx.attached (x : Ctx) (o : Op) : Attached x (x.attach o) o := ⟨rfl, rfl⟩

/-- addOp attaches its operation, one without a wake flag, and changes nothing else. -/
theorem addOp_attach {s : State} {x : Ctx} (h : s.issue? = some x) {o : Op} (hwake : o.wake = none) :
    Moves s (addOp x o s) x (x.attach o) := by
  have hmoves := addOp_moves h o hwake
  have hflags : bumpFlag (bumpFlag x.wv.flags o.flag) o.wake = bumpFlag x.wv.flags o.flag := by rw [hwake]; rfl
  rw [Ctx.attach, hflags]
  exact hmoves

/-- A word whose effect, where it issues and hyp holds, is one operation. -/
theorem attaches_of_addOp {op : Nat} {mk : Fields → Instr} {hyp : Fields → State → Ctx → Prop} {o : Fields → Ctx → Op}
    (hexec : ∀ f s x, Issues op f s x → hyp f s x → exec (mk f) s = .next (addOp x (o f x) s)) (hwake : ∀ f x, (o f x).wake = none) :
    Attaches op mk hyp o := by
  intro f s x h hhyp
  have hmoves := addOp_attach h.here (hwake f x)
  exact ⟨_, _, hexec f s x h hhyp, hmoves.1, hmoves.2, x.attached _⟩

/-- A word that acts once in a group with an active lane. -/
theorem groupWord_eq {op : Nat} {f : Fields} {s : State} {x : Ctx} (h : Issues op f s x) (hsome : x.active f ≠ [])
    (g : Ctx → State → State) : groupWord op f s g = .next (g x s) := by
  rw [groupWord, issueWord_eq h, if_neg (by simpa using hsome)]

/-! ## Barriers (09 R218) -/

/-- The operation of an arrival. -/
def arrivalOp (o : Nat) (f : Fields) (x : Ctx) : Op := { x.op o f with n := f.m 0 4, lanes := nameLanes (x.active f) .ready }

theorem pendingArrival_attach (f : Fields) (x : Ctx) : pendingArrival (x.attach (arrivalOp 0x17 f x)).wv (f.m 0 4) = true := by
  simp [pendingArrival, Ctx.attach, arrivalOp, Ctx.op]

/-- BARWAIT's operation: with its phase, unless it waits behind an arrival of its wave. -/
def barWaitOp (f : Fields) (x : Ctx) (pend : Bool) : Op :=
  { x.op 0x16 f with n := f.m 0 4, m := (x.wv.bars.getD (f.m 0 4) default).arph.toNat, released := !pend,
                     lanes := nameLanes (x.active f) .ready }

/-- The phase of barrier b of a gang. -/
def barPhase (g : Option Gang) (b : Nat) : W32 :=
  match g with
  | some g => (g.bars.getD b default).ph
  | none => 0

/-- No arrival of the wave at barrier b is pending, and a phase it arrived in has passed: BARWAIT has nothing to wait for. -/
def barOver (v : Wave) (ph : W32) (b : Nat) : Bool :=
  !pendingArrival v b && (!(v.bars.getD b default).arrived || phasePassed ph (v.bars.getD b default).arph)

/-- BARWAIT's lanes held until the operation it is about to attach is over. -/
def holdForBar (f : Fields) (x : Ctx) (s : State) : State :=
  s.modGroup x.core x.quarter x.port (fun g => { g with holds := g.holds ++ (x.active f).map (fun l => (l, .barwait x.wv.nextOp)) })

theorem waitOp_eq {s : State} {x : Ctx} (hx : s.issue? = some x) (f : Fields) :
    waitOp x f s = if barOver x.wv (barPhase (s.gang? x.core x.wv.gang) (f.m 0 4)) (f.m 0 4) = true then
      (if acquireMay x.wv x.wv.nextOp (f.m 7 4) then acquireAt s x.core (f.m 7 4)
       else addOp x { x.op 0x16 f with
         n := f.m 0 4, m := (barPhase (s.gang? x.core x.wv.gang) (f.m 0 4) - 1).toNat, released := true,
         lanes := nameLanes (x.active f) .ready } s)
    else addOp x (barWaitOp f x (pendingArrival x.wv (f.m 0 4))) (holdForBar f x s) := by
  unfold waitOp
  rw [State.slot?_issue hx]
  rfl

/-- BARWAIT with something to wait for: its lanes are held until its operation is over. -/
theorem waitOp_open {s : State} {x : Ctx} (hx : s.issue? = some x) {f : Fields}
    (hopen : barOver x.wv (barPhase (s.gang? x.core x.wv.gang) (f.m 0 4)) (f.m 0 4) = false) :
    ∃ y z, Moves s (waitOp x f s) x z ∧ Attached x y (barWaitOp f x (pendingArrival x.wv (f.m 0 4))) ∧ z.sl = y.sl ∧
      z.g = { x.g with holds := x.g.holds ++ (x.active f).map (fun k => (k, .barwait x.wv.nextOp)) } := by
  have hold := modGroup_moves hx (fun g => { g with holds := g.holds ++ (x.active f).map (fun l => (l, .barwait x.wv.nextOp)) })
    (fun _ => rfl) rfl rfl
  have hop := addOp_moves hold.1 (barWaitOp f x (pendingArrival x.wv (f.m 0 4))) rfl
  rw [waitOp_eq hx, if_neg (by simp [hopen])]
  exact ⟨{ x with sl := _ }, _, hold.step rfl rfl rfl hop, ⟨rfl, rfl⟩, rfl, rfl⟩

/-- Settles O18: an arrival is an operation; a wait is one that holds its lanes, where there is something to wait for. -/
theorem barrierWordsAttach : Obligations.BarrierWordsAttach := by
  refine ⟨?bararv, fun f s x g h hsome hg hopen => ?barwait, fun f s x g h hsome hg hpend hpassed => ?passed,
    fun f s x h hsome => ?barsync⟩
  case bararv => exact attaches_of_addOp (fun f s x h hsome => groupWord_eq h hsome _) fun _ _ => rfl
  case barwait =>
    have hover : barOver x.wv (barPhase (s.gang? x.core x.wv.gang) (f.m 0 4)) (f.m 0 4) = false := by
      rw [hg]
      rcases hopen with hpend | ⟨harrived, hpassed⟩
      · rw [barOver, hpend]; rfl
      · rw [barOver, harrived, barPhase, hpassed, Bool.and_comm]; rfl
    obtain ⟨y, z, ⟨hissue, honly⟩, hattached, hsl, hgroup⟩ := waitOp_open h.here hover
    exact ⟨_, y, z, groupWord_eq h hsome _, hissue, honly, hattached, hsl, hgroup⟩
  case passed =>
    have hover : barOver x.wv (barPhase (s.gang? x.core x.wv.gang) (f.m 0 4)) (f.m 0 4) = true := by
      rw [hg, barOver, hpend, barPhase]
      rcases hpassed with harrived | hpassed
      · rw [harrived]; rfl
      · rw [hpassed, Bool.or_true]; rfl
    have hexec : exec (.barwait f) s = .next (waitOp x f s) := groupWord_eq h hsome _
    rw [hexec, waitOp_eq h.here, if_pos hover, hg]
    refine ⟨fun hmay => by rw [if_pos hmay]; rfl, fun hmay => ?_⟩
    rw [hmay, if_neg Bool.false_ne_true]
    have hmoves := addOp_attach h.here (o := { x.op 0x16 f with
      n := f.m 0 4, m := ((g.bars.getD (f.m 0 4) default).ph - 1).toNat, released := true, lanes := nameLanes (x.active f) .ready }) rfl
    exact ⟨_, _, rfl, hmoves.1, hmoves.2, x.attached _⟩
  case barsync =>
    have harrive := addOp_attach h.here (o := arrivalOp 0x17 f x) rfl
    have hpend := pendingArrival_attach f x
    obtain ⟨y, z, hwait, hattached, hsl, hgroup⟩ := waitOp_open (f := f) harrive.1 (by rw [barOver, hpend]; rfl)
    have hmoves := harrive.step rfl rfl rfl hwait
    have hsame : waitOp x f (arriveOp x 0x17 f s) = waitOp (x.attach (arrivalOp 0x17 f x)) f (addOp x (arrivalOp 0x17 f x) s) := rfl
    have hexec : exec (.barsync f) s = .next (waitOp x f (arriveOp x 0x17 f s)) :=
      groupWord_eq h hsome fun x s => waitOp x f (arriveOp x 0x17 f s)
    refine ⟨_, z, hexec.trans (congrArg _ hsame), hmoves.1, hmoves.2, ?_, hgroup⟩
    rw [hsl, hattached.wave, hpend]
    simp only [Ctx.attach, List.append_assoc]
    rfl

/-! ## Gang words (09 R214, R218 to R221) -/

/-- A word that reads its gang at issue and writes its lanes for the end of the run. -/
theorem writesAtEnd_of_gangRead {op : Nat} {mk : Fields → Instr} {g : Fields → Ctx → Gang → State → W64}
    {v : Fields → State → Ctx → Nat → List RegWrite} (hexec : ∀ f s, exec (mk f) s = gangRead op f s (g f))
    (hv : ∀ f s x gg l, s.gang? x.core x.wv.gang = some gg →
      (if f.m 0 2 = 3 ∧ op = 0x1B then wr64 f.dst l (g f x gg s) else wr32 f.dst l ((g f x gg s).setWidth 32)) = v f s x l) :
    WritesAtEnd op mk (fun _ s x => s.gang? x.core x.wv.gang ≠ none) (fun f s x => (x.destLanes f).flatMap (v f s x)) (fun _ _ => 0) := by
  intro f s x h hgang
  obtain ⟨gg, hgg⟩ := Option.ne_none_iff_exists'.mp hgang
  obtain ⟨y, ⟨hissue, honly⟩, hwrote⟩ := writeEnd_wrote_noExc h.here f ((x.destLanes f).flatMap (v f s x))
  refine ⟨_, y, ?_, hissue, honly, hwrote⟩
  rw [hexec, gangRead, issueWord_eq h, hgg]
  simp only [fun l => hv f s x gg l hgg]

/-- A truth value as a word. -/
theorem ofNat_toNat_bool (b : Bool) : BitVec.ofNat 32 b.toNat = if b then 1 else 0 := by cases b <;> rfl

theorem saysGangFieldsRead : SaysGangFieldsRead := by
  refine ⟨writesAtEnd_of_gangRead exec_barinfo_eq fun f s x gg l hgg => ?barinfo,
    writesAtEnd_of_gangRead exec_ginfo_eq fun f s x gg l hgg => ?ginfo⟩
  case barinfo =>
    rw [if_neg (fun h => absurd h.2 (by decide)), BitVec.setWidth_setWidth_of_le _ (by decide), BitVec.setWidth_eq]
    simp only [hgg, Option.getD_some, ofNat_toNat_bool]
    rfl
  case ginfo =>
    have hfield : f.m 0 2 < 4 := modField_lt f 0 2
    simp only [hgg, Option.getD_some]
    obtain h | h | h | h : f.m 0 2 = 0 ∨ f.m 0 2 = 1 ∨ f.m 0 2 = 2 ∨ f.m 0 2 = 3 := by omega
    all_goals
      rw [h]
      rfl

theorem saysGangWordsAttach : SaysGangWordsAttach := by
  refine ⟨?gattach, fun f s x h hsome => ?gdetach, ?phase⟩
  case gattach =>
    refine attaches_of_addOp (fun f s x h hsome => ?_) fun _ _ => rfl
    obtain ⟨l, ls, hl⟩ := List.exists_cons_of_ne_nil hsome
    rw [exec_gattach_eq, execGattach, issueWord_eq h, hl]
    rfl
  case gdetach =>
    have hmoves := modGroup_moves h.here (fun g => { g with detach := true }) (fun _ => rfl) rfl rfl
    exact ⟨_, _, groupWord_eq h hsome fun x s => s.modGroup x.core x.quarter x.port (fun g => { g with detach := true }),
      hmoves.1, hmoves.2, rfl, rfl⟩
  case phase => exact attaches_of_addOp (fun f s x h hsome => groupWord_eq h hsome _) fun _ _ => rfl

/-- Settles O19: GINFO and BARINFO are a write for the end of the run, GATTACH and PHASE one operation, GDETACH a mark of the group. -/
theorem gangWords : Obligations.GangWords := ⟨saysGangFieldsRead, saysGangWordsAttach⟩

/-! ## Rings (09 R222) -/

theorem State.gang?_modGang_of_ne (s : State) (c : Nat) {i j : Nat} (g : Gang → Gang) (h : j ≠ i) :
    (s.modGang c i g).gang? c j = s.gang? c j := by
  simp [State.gang?, State.modGang, Tab.get?_adj_of_ne _ _ h]

theorem State.core_modGang (s : State) (c i : Nat) (g : Gang → Gang) :
    (s.modGang c i g).core c = { s.core c with gangs := (s.core c).gangs.adj i g } := State.core_modCore ..

/-- A change of ring n, beside one of the wave, is a change of that ring alone. -/
theorem OnlySlot.onlyRing {s u : State} {x : Ctx} (h : OnlySlot s u x.core x.wid) {g : Gang} {n : Nat} {r : Ring}
    (hg : s.gang? x.core x.wv.gang = some g) (hr : g.rings[n]? = some r) (f : Ring → Ring) :
    OnlyRing s (u.modRing x.core x.wv.gang n f) x g n (f r) where
  rest := by rw [h.rest]; rfl
  cores k hk := (State.core_modCore_of_ne u _ hk).trans (h.cores k hk)
  core := by rw [State.modRing, State.core_modGang, h.core]
  slots v hv := by rw [State.slot?_modRing, h.slots v hv]
  gangs k hk := by rw [State.modRing, State.gang?_modGang_of_ne _ _ _ hk, h.gang?]
  gang := by rw [State.modRing, State.gang?_modGang, h.gang?, hg, Option.map_some, listAdj_eq_listSet hr]

theorem listAdj_map {α β : Type} {p : α → β} {f : α → α} (hf : ∀ a, p (f a) = p a) : ∀ (l : List α) (n : Nat),
    (listAdj l n f).map p = l.map p
  | [], _ => rfl
  | a :: r, 0 => by simp only [listAdj, List.map_cons, hf]
  | a :: r, n + 1 => by simp only [listAdj, List.map_cons, listAdj_map hf r n]

/-- %ringdepth comes of the depths of a gang's rings alone. -/
theorem Gang.ringdepth_eq (g : Gang) :
    g.ringdepth = ((g.rings.map Ring.d).zipIdx).foldl (fun v p => v ||| (BitVec.ofNat 32 (p.1 % 16) <<< (4 * p.2))) 0 := by
  rw [List.zipIdx_map, List.foldl_map]
  rfl

theorem modRing_issue? {s : State} {x : Ctx} (h : s.issue? = some x) (n : Nat) {f : Ring → Ring} (hf : ∀ r, (f r).d = r.d) :
    (s.modRing x.core x.wv.gang n f).issue? = some x := by
  refine State.issue?_modCore h rfl rfl rfl rfl ?_
  rw [Tab.get?_adj_self, Option.map_map]
  refine congrArg (Option.map · _) (funext fun g => ?_)
  simp only [Function.comp_apply, Gang.ringdepth_eq, listAdj_map hf]

/-- What a ring's place in issue order changes of the ring. -/
def Ring.reserve (r : Ring) (fill : Bool) (p : Place) : Ring :=
  (if fill then { r with fills := r.fills ++ [p] } else { r with drains := r.drains ++ [p] }).note

/-- A BEGIN's stage number in issue order. -/
def Ring.nextStage (r : Ring) (fill : Bool) : W32 := if fill then r.nextFill else r.nextDrain

/-- BEGIN reserves the ring's next place and attaches an operation that waits for it. -/
theorem ringBegin_reserves {op : Nat} {f : Fields} {s : State} {x : Ctx} {l : Nat} {g : Gang} {r : Ring} (h : Issues op f s x)
    (hl : (x.active f).head? = some l) (hg : s.gang? x.core x.wv.gang = some g) (hid : g.id = x.wv.gang)
    (hr : g.rings[f.m 0 3]? = some r) (fill : Bool) :
    ∃ t y, ringBegin op f s fill = .next t ∧ t.issue? = some y ∧
      OnlyRing s t x g (f.m 0 3) (r.reserve fill ⟨r.nextStage fill, 0, x.wid, x.wv.uid⟩) ∧
      Attached x y { x.op op f with n := f.m 0 3, m := (r.nextStage fill).toNat, lanes := nameLanes [l] .ready } := by
  have hop := addOp_attach h.here (o := { x.op op f with
    n := f.m 0 3, m := (r.nextStage fill).toNat, lanes := nameLanes [l] .ready }) rfl
  have hissue := modRing_issue? hop.1 (f.m 0 3) (f := fun r' => r'.reserve fill ⟨r.nextStage fill, 0, x.wid, x.wv.uid⟩)
    (fun r => by cases fill <;> rfl)
  refine ⟨_, _, ?_, hissue, (OnlySlot.addOp ..).onlyRing hg hr _, x.attached _⟩
  rw [ringBegin, issueWord_eq h, hl, hg]
  simp only [List.getD_eq_getElem?_getD, hr, Option.getD_some, hid]
  rfl

/-- END of a stage that is live and in the state it ends changes its ring alone. -/
theorem ringEnd_ends {op : Nat} {f : Fields} {s : State} {x : Ctx} {l : Nat} {g : Gang} {r : Ring} (h : Issues op f s x)
    (hl : (x.active f).head? = some l) (hg : s.gang? x.core x.wv.gang = some g) (hid : g.id = x.wv.gang)
    (hr : g.rings[f.m 0 3]? = some r) (fill : Bool) (hlive : r.live (x.rd f f.a l) = true)
    (hstage : r.stage (x.rd f f.a l) = if fill then .filling else .draining)
    (hdrained : fill = false → r.drained.getD (r.slotOf (x.rd f f.a l)) false = false) :
    ∃ t, ringEnd op f s fill = .next t ∧
      OnlyRing s t x g (f.m 0 3) (if fill then r.fillEnd (x.rd f f.a l) else r.drainEnd (x.rd f f.a l)) ∧
      t.slot? x.core x.wid = some x.sl := by
  refine ⟨_, ?_, (OnlySlot.refl ..).onlyRing hg hr fun r => if fill then r.fillEnd (x.rd f f.a l) else r.drainEnd (x.rd f f.a l),
    by rw [State.slot?_modRing, State.slot?_issue h.here]⟩
  rw [ringEnd, issueWord_eq h, hl, hg]
  simp only [List.getD_eq_getElem?_getD, hr, Option.getD_some, hid]
  rw [if_pos]
  rw [hlive, hstage]
  cases fill with
  | true => rfl
  | false =>
    have := hdrained rfl
    rw [List.getD_eq_getElem?_getD] at this
    rw [this]
    rfl

/-- END of a stage in another state traps RINGSTATE. -/
theorem ringEnd_traps {op : Nat} {f : Fields} {s : State} {x : Ctx} {l : Nat} {g : Gang} {r : Ring} (h : Issues op f s x)
    (hl : (x.active f).head? = some l) (hg : s.gang? x.core x.wv.gang = some g) (hr : g.rings[f.m 0 3]? = some r) (fill : Bool)
    (hstage : r.stage (x.rd f f.a l) ≠ if fill then .filling else .draining) :
    ringEnd op f s fill =
      .next (issueTraps s x (x.active f) 16 0 (fun _ => (x.rd f f.a l).setWidth 64) (BitVec.ofNat 32 (f.m 0 3))) := by
  rw [ringEnd, issueWord_eq h, hl, hg]
  simp only [List.getD_eq_getElem?_getD, hr, Option.getD_some]
  rw [if_neg]
  simp only [Bool.and_eq_true, beq_iff_eq]
  rintro ⟨⟨-, hsame⟩, -⟩
  exact hstage hsame

/-- Settles O20: BEGIN is a place of its ring and an operation, END a change of its ring, or a trap. -/
theorem ringWordsReserveAndEnd : Obligations.RingWordsReserveAndEnd := by
  intro f s x l g r hl hg hid hr a
  refine ⟨fun h => ?fillBegin, fun h => ?drainBegin, fun h hlive hstage => ringEnd_ends h hl hg hid hr true hlive hstage nofun,
    fun h hlive hstage hdrained => ringEnd_ends h hl hg hid hr false hlive hstage fun _ => hdrained,
    fun h hstage => ringEnd_traps h hl hg hr true hstage, fun h hstage => ringEnd_traps h hl hg hr false hstage⟩
  case fillBegin =>
    obtain ⟨t, y, hexec, hissue, honly, hattached⟩ := ringBegin_reserves h hl hg hid hr true
    exact ⟨t, y, hexec, hissue, honly, hattached.wave⟩
  case drainBegin =>
    obtain ⟨t, y, hexec, hissue, honly, hattached⟩ := ringBegin_reserves h hl hg hid hr false
    exact ⟨t, y, hexec, hissue, honly, hattached.wave⟩

/-! ## Reductions (09 R213) -/

/-- A reduction: its writes and its exception bits wait for the end of the run. -/
theorem redWord_reduces {op : Nat} {f : Fields} {s : State} {x : Ctx} (h : Issues op f s x) (dst : Ctx → List Nat)
    (terms : List Nat → Nat → List Nat) :
    ∃ t y z, redWord op f s dst terms = .next t ∧ t.issue? = some z ∧ OnlyWave s t x.core x.quarter x.wid ∧
      WroteEnd (flagOf x.g.hdr f.sf) x y ((dst x).flatMap (fun l =>
        let r := reduce (f.m 3 4) (f.m 11 3) (f.m 0 3) ((terms (x.active f) l).map (redSrc x f))
        if type64 (f.m 11 3) then wr64 f.dst l r.1 else wr32 f.dst l (r.1.setWidth 32))) 0 ∧
      z.g = { y.g with exc := x.g.exc ||| ((dst x).map (fun l =>
        (reduce (f.m 3 4) (f.m 11 3) (f.m 0 3) ((terms (x.active f) l).map (redSrc x f))).2)).foldl (· ||| ·) 0 } ∧ z.sl = y.sl := by
  obtain ⟨y, hy, hwrote⟩ := writeEnd_wrote_noExc h.here f ((dst x).flatMap (fun l =>
        let r := reduce (f.m 3 4) (f.m 11 3) (f.m 0 3) ((terms (x.active f) l).map (redSrc x f))
        if type64 (f.m 11 3) then wr64 f.dst l r.1 else wr32 f.dst l (r.1.setWidth 32)))
  have hbits := modGroup_moves hy.1 (fun g => { g with exc := g.exc ||| ((dst x).map (fun l =>
        (reduce (f.m 3 4) (f.m 11 3) (f.m 0 3) ((terms (x.active f) l).map (redSrc x f))).2)).foldl (· ||| ·) 0 }) (fun _ => rfl) rfl rfl
  have hplace := hwrote.place
  have hmoves := hy.step (by rw [hplace]) (by rw [hplace]) (by rw [hplace]) hbits
  refine ⟨_, y, _, ?_, hmoves.1, hmoves.2, hwrote, ?_, rfl⟩
  · rw [redWord, issueWord_eq h, hplace]
    simp only [List.flatMap_map, List.map_map]
    rfl
  · rw [hwrote.group]

/-- Settles O21: both words are reductions, of the active lanes and of those up to each lane. -/
theorem reductionsOverActiveLanes : Obligations.ReductionsOverActiveLanes := by
  refine ⟨fun f s x h => ?wred, fun f s x h => ?wscan⟩
  case wred =>
    rw [exec_wred_eq]
    exact redWord_reduces h (fun x => x.destLanes f) (fun d _ => d)
  case wscan =>
    rw [exec_wscan_eq]
    exact redWord_reduces h (fun x => x.active f) (fun d l => d.filter (fun j => if f.m 14 1 = 1 then j < l else j ≤ l))

end Sys2Proof.Machine
end

section
open Sys2Proof Sys2Proof.Machine

namespace Sys2Proof.Machine

/-! ## Concrete states for refutations: lane 0 of a wave issues -/

@[simp] theorem exec_atadd_eq (f : Fields) (s : State) : exec (.atadd f) s = execAtadd f s := by rfl
@[simp] theorem exec_stwin_eq (f : Fields) (s : State) : exec (.stwin f) s = execStwin f s := by rfl
@[simp] theorem exec_cvlz_eq (f : Fields) (s : State) : exec (.cvlz f) s = execCvlz f s := by rfl

/-- Lane 0 of the wave in slot 0 of core 0 issues a word, in a part as after reset. -/
def loneState : State :=
  { (placeWord State.reset 0).modGroup 0 0 0 (fun g => { g with mask := 1 }) with cur := some { core := 0, quarter := 0, port := 0 } }

/-- Fields of a word without a guard, with operands d, a, b and c. -/
def loneFields (d a b c : Opnd) (mod : Nat) : Fields :=
  { guard := 15, gneg := false, sf := false, ru := 0, t := false, s := false, dst := d, a := a, b := b, c := c,
    mod := BitVec.ofNat 21 mod, imm := 0 }

/-- The state that a word answers. -/
def Res.state? : Res → Option State
  | .next t => some t
  | _ => none

/-- The group that issues next, where a word answers a state. -/
def Res.issue? (r : Res) : Option Ctx := r.state?.bind State.issue?

theorem Res.issue?_of_next {r : Res} {t : State} {y : Ctx} (h : r = .next t) (hy : t.issue? = some y) : r.issue? = some y := by
  rw [h]
  exact hy

/-! ## CHKPROM behind an ordering word (04 R94 to R97; 09 R216) -/

/-- CHKPROM of the word at offset 0 of G. -/
def chkFields : Fields := loneFields .absent (.uni 8) (.uni 8) .absent 0

/-- A PHASE of the wave is pending. -/
def phaseState : State := loneState.modWave 0 0 (fun v => { v with ops := [{ (default : Op) with opc := 0xCE }], nextOp := 1 })

theorem phaseState_issues : phaseState.issue?.isSome = true := by decide +kernel

/-- The group that issues there. -/
def phaseCtx : Ctx := phaseState.issue?.get phaseState_issues

theorem phaseState_chkprom_issues : Issues 0x13 chkFields phaseState phaseCtx :=
  ⟨(Option.some_get _).symm, by decide +kernel, by decide +kernel, by decide +kernel, by decide +kernel⟩

/-- Refutes O17: where CHKPROM waits behind an earlier PHASE its lanes leave the run, and with that EXEC (01 R14), which the statement
says is as before. -/
theorem not_waitsAndChunkBits : ¬ Obligations.WaitsAndChunkBits := by
  intro h
  obtain ⟨-, -, hwaits, -⟩ := h.2 chkFields phaseState phaseCtx 0 (by decide +kernel) (by decide +kernel) (by decide +kernel)
    (by decide +kernel)
  obtain ⟨t, y, -, hissue, -, -, hsame, hgone⟩ := hwaits phaseState_chkprom_issues (by decide +kernel)
  have hout : y.g.gone.getLsbD 0 = true := by
    rw [hgone 0 (by decide)]
    decide +kernel
  have hin : phaseCtx.exec.getLsbD 0 = true := by decide +kernel
  have hexec : phaseCtx.exec = y.exec := (congrArg Ctx.exec hsame).symm
  rw [hexec, Ctx.exec_eq hissue, BitVec.getLsbD_and, BitVec.getLsbD_and, BitVec.getLsbD_not, hout] at hin
  simp at hin

end Sys2Proof.Machine
end

section
open Sys2Proof Sys2Proof.Machine

namespace Sys2Proof.Machine

/-! ## STWIN to a watched address (09 R205; 17 R380) -/

/-- STWIN of 4 bytes of v8 to the window address that v8 names as node, register and offset. -/
def stwinFields : Fields := loneFields .absent (.vec 8) (.vec 8) (.vec 8) 2

/-- A watchpoint of the core on the first byte of the register window is armed, and its function may stop. -/
def watchedState : State :=
  (loneState.modCore 0 (fun k => { k with
    watch := [{ en := true, eng := false, vf := 0, addr := 0xFF00000000000000, bmask := 1, spa := none, gang := 0 }] })).modFunc 0
      (fun f => { f with dbg := { f.dbg with stopen := true } })

theorem watchedState_issues : watchedState.issue?.isSome = true := by decide +kernel

/-- The group that issues there. -/
def watchedCtx : Ctx := watchedState.issue?.get watchedState_issues

theorem watchedState_stwin_issues : Issues 0xA6 stwinFields watchedState watchedCtx :=
  ⟨(Option.some_get _).symm, by decide +kernel, by decide +kernel, by decide +kernel, by decide +kernel⟩

/-- STWIN leaves a WATCH record due in the wave's slot. -/
theorem watchedState_watches : (execStwin stwinFields watchedState).issue?.map (fun y => y.sl.watches.length) = some 1 := by
  decide +kernel

/-- Refutes O27: nothing asks that no watchpoint of the core watch the address that STWIN writes; where one does, the word also makes
a WATCH record and a stop due in its wave. -/
theorem not_windowWordsIssue : ¬ Obligations.WindowWordsIssue := by
  intro h
  have hacting : watchedCtx.acting stwinFields = [0] := by decide +kernel
  obtain ⟨t, y, hexec, hissue, -, hattached⟩ := h.2 stwinFields watchedState watchedCtx watchedState_stwin_issues (by
    refine ⟨by decide +kernel, by simp [hacting], fun l hl => ?_⟩
    rw [hacting, List.mem_singleton] at hl
    subst hl
    decide +kernel)
  rw [exec_stwin_eq] at hexec
  have hwatches := watchedState_watches
  have hnone : watchedCtx.sl.watches = [] := by decide +kernel
  rw [Res.issue?_of_next hexec hissue, Option.map_some, hattached.wave, hnone] at hwatches
  simp at hwatches

end Sys2Proof.Machine
end

section
open Sys2Proof Sys2Proof.Machine

namespace Sys2Proof.Machine

/-! ## An atomic under .G takes no free value (09 R211) -/

/-- ATADD.G of v8 at offset v8 of G. -/
def gaddFields : Fields := loneFields .absent (.vec 8) (.vec 8) .absent 0x4000

theorem loneState_issues : loneState.issue?.isSome = true := by decide +kernel

/-- The group that issues there. -/
def loneCtx : Ctx := loneState.issue?.get loneState_issues

theorem loneState_atadd_issues : Issues 0xC0 gaddFields loneState loneCtx :=
  ⟨(Option.some_get _).symm, by decide +kernel, by decide +kernel, by decide +kernel, by decide +kernel⟩

theorem loneState_inBuffer : InBuffer loneState loneCtx .g (accSize 0xC0 gaddFields) (accSize 0xC0 gaddFields) [0] (locOff loneCtx gaddFields) :=
  ⟨by simp, by decide +kernel, by decide +kernel, by decide +kernel, by decide +kernel, by decide +kernel⟩

theorem loneState_free : (execAtadd gaddFields loneState).state?.map State.free = some loneState.free := by decide +kernel

/-- Refutes O25: the statement has one free value taken, and the word takes none. -/
theorem not_localAtomicsPerform : ¬ Obligations.LocalAtomicsPerform := by
  intro h
  obtain ⟨t, y, hexec, -, honly, -⟩ := h 0xC0 .atadd gaddFields loneState loneCtx 0 List.mem_cons_self loneState_atadd_issues
    (by decide +kernel) (by decide +kernel) (by decide +kernel) loneState_inBuffer
  rw [exec_atadd_eq] at hexec
  have hfree := loneState_free
  rw [hexec, Res.state?, Option.map_some, honly.rest, Option.some_inj] at hfree
  exact absurd hfree (Nat.succ_ne_self _)

/-! ## A convert-load of the second group of a cc (02 R50; 09 R209) -/

/-- CVLZ of the element at offset v8 into v8. -/
def cvlzFields : Fields := loneFields (.vec 8) (.vec 8) .absent .absent 0

/-- What Z held before this cc, at word 0: FP32 one. -/
def zBeforeSnap : Snap := { (default : Snap) with z := [(0, 0x3F800000)] }

/-- The group on port 0 has issued in this cc, and word 0 of Z, which was one before, is zero. -/
def snapState : State := loneState.modRun 0 0 (fun r => { r with snap := some zBeforeSnap })

theorem snapState_issues : snapState.issue?.isSome = true := by decide +kernel

/-- The group that issues there. -/
def snapCtx : Ctx := snapState.issue?.get snapState_issues

theorem snapState_cvlz_issues : Issues 0xB5 cvlzFields snapState snapCtx :=
  ⟨(Option.some_get _).symm, by decide +kernel, by decide +kernel, by decide +kernel, by decide +kernel⟩

/-- CVLZ's operation holds the one that stood in Z before this cc. -/
theorem snapState_loads : (execCvlz cvlzFields snapState).issue?.map (fun y => y.wv.ops.map Op.writes) = some [[⟨.v 8 0, 0x3F800000⟩]] := by
  decide +kernel

/-- An attached operation stands last among its wave's. -/
theorem Attached.ops {x y : Ctx} {o : Op} (h : Attached x y o) : y.wv.ops = x.wv.ops ++ [{ o with id := x.wv.nextOp }] :=
  congrArg (fun sl : Slot => sl.wave.ops) h.wave

/-- Refutes O30: a group on port 1 reads Z as it stood before the cc in which it issues (02 R50); the statement has it read what stands
there now. -/
theorem not_accumulatorWordsConvert : ¬ Obligations.AccumulatorWordsConvert := by
  intro h
  obtain ⟨t, y, hexec, hissue, -, hattached⟩ := (h cvlzFields snapState snapCtx 0 (by decide +kernel) (by decide +kernel) 0xB5
    (by decide +kernel) [0] (by decide +kernel) (by decide +kernel) (by decide +kernel)).1 (.inl rfl) snapState_cvlz_issues
  rw [if_pos rfl, exec_cvlz_eq] at hexec
  have hloads := snapState_loads
  rw [Res.issue?_of_next hexec hissue, Option.map_some, hattached.ops] at hloads
  exact absurd hloads (by decide +kernel)

end Sys2Proof.Machine
end

section
open Sys2Proof Sys2Proof.Machine

namespace Sys2Proof.Machine

/-! ## Words of the shared space whose lanes go straight to their operation (09 R198 to R200) -/

/-- The lane of an operation that a lane's access through entry e becomes. -/
def laneAt (x : Ctx) (e : TlbEnt) (w : Want) : LaneOp :=
  { lane := w.lane, va := w.va, src := w.src, src2 := w.src2, tgt := targetOf x.wv.vf x.g.level (e.apply w.va.toNat), st := .ready }

/-- An access that reaches its place through an entry has it. -/
theorem placeLane_reaches {s : State} {x : Ctx} {n : Nat} {a : Acc} {w : Want} {e : TlbEnt} (h : Reaches s x n a w.va e) :
    placeLane s x.core x.wv.vf x.g.level w (.ok e) = (s, .ok (laneAt x e w)) := by
  simp only [placeLane, h.stored, Bool.false_eq_true, if_false, laneAt]
  have hthere := h.there
  split
  · contradiction
  · rfl

/-- Each lane's check: the first lane looks its region up, the others find it looked up (03 R64). -/
theorem checkWant_reaches {s : State} {x : Ctx} {o n : Nat} {a : Acc} {w : Want} {e : TlbEnt} {r : Nat} {seen : List (Nat × LaneX)}
    (halone : x.wv.ops = []) (h : Reaches s x n a w.va e) (hr : w.va.toNat / 4096 = r) (hseen : seen = [] ∨ seen = [(r, .ok e)]) :
    checkWant s x o n a w seen = (s, [(r, .ok e)], .ok (laneAt x e w)) := by
  obtain ⟨hwindow, hheap⟩ := h.plain
  simp only [checkWant, h.form, h.aligned, hwindow, hheap, halone, List.any_nil, hr, Bool.true_eq_false, Bool.false_eq_true, if_false,
    ne_eq, not_true_eq_false]
  rcases hseen with rfl | rfl
  · simp only [List.find?_nil, lookRegion, h.hit, placeLane_reaches h]
  · simp only [List.find?_cons, beq_self_eq_true, placeLane_reaches h]

/-- No lane traps or waits where all reach one region through one entry. -/
theorem checkWants_reaches {s : State} {x : Ctx} {o n : Nat} {a : Acc} {e : TlbEnt} {r : Nat} (halone : x.wv.ops = []) :
    ∀ (ws : List Want) (seen : List (Nat × LaneX)) (ls : List LaneOp), (∀ w, w ∈ ws → Reaches s x n a w.va e) →
      (∀ w, w ∈ ws → w.va.toNat / 4096 = r) → (seen = [] ∨ seen = [(r, .ok e)]) →
      checkWants s x o n a ws seen [] ls = (s, [], ls ++ ws.map (laneAt x e))
  | [], _, ls, _, _, _ => by rw [checkWants, List.map_nil, List.append_nil]
  | w :: ws, seen, ls, hreach, hr, hseen => by
    rw [checkWants, checkWant_reaches halone (hreach w List.mem_cons_self) (hr w List.mem_cons_self) hseen]
    simp only
    rw [checkWants_reaches halone ws _ _ (fun v hv => hreach v (List.mem_cons_of_mem _ hv))
      (fun v hv => hr v (List.mem_cons_of_mem _ hv)) (.inr rfl), List.map_cons, List.append_assoc]
    rfl

/-- An operation none of whose lanes is logged takes no log entry. -/
theorem takeLog_of_not_logged {s : State} {c w id : Nat} {t : Slot} {o : Op} (ht : s.slot? c w = some t) (ho : t.wave.op? id = some o)
    (hlogged : o.anyLogged = false) : takeLog s c w id = s := by
  simp only [takeLog, ht, Option.bind_some, ho, hlogged, Bool.not_false, Bool.true_or, if_true]

/-- Lanes of which none is logged. -/
theorem anyLogged_eq_false {o : Op} (h : ∀ l, l ∈ o.lanes → l.st = .ready ∨ l.st = .known) : o.anyLogged = false := by
  rw [Op.anyLogged, List.any_eq_false]
  intro l hl
  rcases h l hl with h | h <;> simp [h]

/-- Accesses that no armed watchpoint sees leave nothing (17 R380). -/
theorem watchHits_unwatched {s : State} {x : Ctx} (h : ∀ p, p ∈ (s.core x.core).watch → p.en = false) (n : Nat) (ls : List LaneOp) :
    watchHits s x n ls = s := by
  refine foldl_of_fixed fun p hp => ?_
  have hen : p.1.en = false := h p.1 (List.fst_mem_of_mem_zipIdx hp)
  have hnone : ls.filter (fun l => p.1.covers x.wv.vf l.va.toNat n) = [] := by simp [Watch.covers, hen]
  rw [hnone]
  rfl

/-- The lane of an operation whose result is known at its issue. -/
def knownLane (l : Nat) : LaneOp := { lane := l, va := 0, src := 0, src2 := 0, tgt := .none, st := .known }

/-- A word of the shared space, no store, whose lanes all go on: its one effect is its operation. -/
theorem sharedWord_eq {op : Nat} {f : Fields} {s : State} {x : Ctx} {acc : Level → Acc} {known : Ctx → List (Nat × List RegWrite)}
    {wants : Ctx → List Want} {ls : List LaneOp} (h : Issues op f s x) (halone : x.wv.ops = [])
    (hchecks : checkWants s x op (accSize op f) (acc x.g.level) (wants x) [] [] [] = (s, [], ls))
    (hready : ∀ l, l ∈ ls → l.st = .ready) (hsome : ls ≠ [] ∨ known x ≠ []) (hstore : isStore op = false)
    (hwatch : isAtomic op = true → ∀ p, p ∈ (s.core x.core).watch → p.en = false) :
    sharedWord op f s acc known wants = .next (addOp x { x.op op f with
      lanes := (known x).map (fun k => knownLane k.1) ++ ls, writes := (known x).flatMap Prod.snd } s) := by
  set o : Op := { x.op op f with lanes := (known x).map (fun k => knownLane k.1) ++ ls, writes := (known x).flatMap Prod.snd } with ho
  have hslot : (addOp x o s).slot? x.core x.wid = some (x.attach o).sl := State.slot?_issue (addOp_attach h.here rfl).1
  have hlog : takeLog (addOp x o s) x.core x.wid x.wv.nextOp = addOp x o s := by
    refine takeLog_of_not_logged hslot (o := { o with id := x.wv.nextOp }) ?_ (anyLogged_eq_false fun l hl => ?_)
    · simp [Ctx.attach, Wave.op?, halone]
    · rcases List.mem_append.mp hl with hl | hl
      · obtain ⟨k, -, rfl⟩ := List.mem_map.mp hl
        exact .inr rfl
      · exact .inl (hready l hl)
  have hhits : (if isStore op = true ∨ (isAtomic op = true ∧ op ≠ 0xCB) then watchHits (addOp x o s) x (accSize op f) ls
      else addOp x o s) = addOp x o s := by
    split
    · next hsees =>
      refine watchHits_unwatched (fun p hp => hwatch ?_ p ?_) _ _
      · rcases hsees with hs | ⟨ha, -⟩
        · rw [hstore] at hs
          cases hs
        · exact ha
      · rw [(OnlySlot.addOp s x o).core] at hp
        exact hp
    · rfl
  have hnonempty : ¬ (ls.isEmpty = true ∧ (known x).isEmpty = true) := by
    rw [List.isEmpty_iff, List.isEmpty_iff, not_and_or]
    exact hsome
  rw [sharedWord, issueWord_eq h]
  simp only [hchecks]
  rw [if_neg hnonempty, hstore, if_neg Bool.false_ne_true, ← hstore]
  change Host.Outcome.next (if isStore op = true ∨ (isAtomic op = true ∧ op ≠ 0xCB) then
    watchHits (takeLog (addOp x o s) x.core x.wid x.wv.nextOp) x (accSize op f) ls
    else takeLog (addOp x o s) x.core x.wid x.wv.nextOp) = _
  rw [hlog, hhits]

/-- A word of the shared space, no store, whose lanes ls reach one region. -/
theorem accessesShared_of_sharedWord {op : Nat} {mk : Fields → Instr} {form : Fields → Prop} {acc : Level → Acc}
    {ls : Fields → Ctx → List Nat} {va : Fields → Ctx → Nat → W64} {src : Fields → Ctx → Nat → W128} {src2 : Fields → Ctx → Nat → W64}
    (hexec : ∀ f s, form f → exec (mk f) s = sharedWord op f s acc (fun _ => []) (fun x => (ls f x).map (fun l =>
      { lane := l, va := va f x l, src := src f x l, src2 := src2 f x l })))
    (hstore : isStore op = false) : AccessesShared op mk form acc ls va src src2 := by
  intro f s x e r h hform hstraight
  have hchecks := checkWants_reaches (o := op) (e := e) hstraight.alone ((ls f x).map (fun l =>
      ({ lane := l, va := va f x l, src := src f x l, src2 := src2 f x l } : Want))) [] []
    (by
      intro w hw
      obtain ⟨l, hl, rfl⟩ := List.mem_map.mp hw
      exact hstraight.reach l hl)
    (by
      intro w hw
      obtain ⟨l, hl, rfl⟩ := List.mem_map.mp hw
      exact hstraight.region l hl) (.inl rfl)
  have hmoves := addOp_attach h.here (o := sharedOp op f x e (ls f x) (va f x) (src f x) (src2 f x)) rfl
  refine ⟨_, _, ?_, hmoves.1, hmoves.2, x.attached _⟩
  rw [hexec f s hform, sharedWord_eq h hstraight.alone hchecks ?ready ?some hstore fun _ => hstraight.unwatched]
  case ready =>
    intro l hl
    rw [List.nil_append] at hl
    obtain ⟨w, -, rfl⟩ := List.mem_map.mp hl
    rfl
  case some => exact .inl (by simpa using hstraight.some)
  rw [List.nil_append, List.map_map]
  rfl

/-- Settles O22: each word is the operation of its lanes' accesses. -/
theorem sharedLoadsIssue : Obligations.SharedLoadsIssue := by
  refine ⟨?ld, ?lds, ?ldnc, ?ldcvt, ?ldq, ?jobpost⟩
  case ld => exact accessesShared_of_sharedWord (fun _ _ _ => rfl) rfl
  case lds => exact accessesShared_of_sharedWord (fun _ _ _ => rfl) rfl
  case ldnc => exact accessesShared_of_sharedWord (fun _ _ _ => rfl) rfl
  case ldcvt => exact accessesShared_of_sharedWord (fun _ _ _ => rfl) rfl
  case ldq => exact accessesShared_of_sharedWord (fun _ _ _ => rfl) rfl
  case jobpost => exact accessesShared_of_sharedWord (fun _ _ _ => rfl) rfl

/-- An atomic without .G is a word of the shared space (09 R210). -/
theorem accessesShared_of_atomWord {op : Nat} {mk : Fields → Instr} (hexec : ∀ f s, exec (mk f) s = atomWord op f s)
    (hstore : isStore op = false) :
    AccessesShared op mk (fun f => f.m 14 1 = 0) accRW (fun f x => x.acting f) (fun f x l => x.rd64 f f.a l + f.imm.signExtend 64)
      (fun f x l => (atomSrc x f f.b l).setWidth 128) (fun f x l => atomSrc x f f.c l) := by
  refine accessesShared_of_sharedWord (fun f s hform => ?_) hstore
  rw [hexec, atomWord, if_neg (by rw [hform]; decide)]
  rfl

/-- Settles O24: each word is the operation of its lanes' accesses. -/
theorem sharedAtomicsIssue : Obligations.SharedAtomicsIssue := by
  refine ⟨?atadd, ?atmin, ?atmax, ?atand, ?ator, ?atxor, ?atxchg, ?atcas, ?atinc, ?atdec, ?atfadd, ?atld, ?atst⟩
  case atadd => exact accessesShared_of_atomWord (fun _ _ => rfl) rfl
  case atmin => exact accessesShared_of_atomWord (fun _ _ => rfl) rfl
  case atmax => exact accessesShared_of_atomWord (fun _ _ => rfl) rfl
  case atand => exact accessesShared_of_atomWord (fun _ _ => rfl) rfl
  case ator => exact accessesShared_of_atomWord (fun _ _ => rfl) rfl
  case atxor => exact accessesShared_of_atomWord (fun _ _ => rfl) rfl
  case atxchg => exact accessesShared_of_atomWord (fun _ _ => rfl) rfl
  case atcas => exact accessesShared_of_atomWord (fun _ _ => rfl) rfl
  case atinc => exact accessesShared_of_atomWord (fun _ _ => rfl) rfl
  case atdec => exact accessesShared_of_atomWord (fun _ _ => rfl) rfl
  case atfadd => exact accessesShared_of_atomWord (fun _ _ => rfl) rfl
  case atld => exact accessesShared_of_atomWord (fun _ _ => rfl) rfl
  case atst => exact accessesShared_of_atomWord (fun _ _ => rfl) rfl

end Sys2Proof.Machine
end

section
open Sys2Proof Sys2Proof.Machine

namespace Sys2Proof.Machine

/-! ## What reads leave behind -/

@[simp] theorem exec_pref_eq (f : Fields) (s : State) : exec (.pref f) s = execPref f s := by rfl
@[simp] theorem exec_cinv_eq (f : Fields) (s : State) : exec (.cinv f) s = execCinv f s := by rfl
@[simp] theorem exec_iinv_eq (f : Fields) (s : State) : exec (.iinv f) s = execIinv f s := by rfl
@[simp] theorem exec_ldprb_eq (f : Fields) (s : State) : exec (.ldprb f) s = execLdprb f s := by rfl

/-- t differs from s in what reads leave behind: TLBs, walk caches, L1 copies, counters, marks of speculative reads and free values. -/
structure ReadOnly (s t : State) : Prop where
  mem : t.mem = s.mem
  funcs : t.funcs = s.funcs
  owners : t.owners = s.owners
  slots : ∀ c w, t.slot? c w = s.slot? c w
  gangs : ∀ c g, t.gang? c g = s.gang? c g

namespace ReadOnly

variable {s t u : State}

theorem refl (s : State) : ReadOnly s s := ⟨rfl, rfl, rfl, fun _ _ => rfl, fun _ _ => rfl⟩

theorem trans (a : ReadOnly s t) (b : ReadOnly t u) : ReadOnly s u :=
  ⟨b.mem.trans a.mem, b.funcs.trans a.funcs, b.owners.trans a.owners, fun c w => (b.slots c w).trans (a.slots c w),
    fun c g => (b.gangs c g).trans (a.gangs c g)⟩

theorem foldl {α : Type} {f : State → α → State} (h : ∀ s a, ReadOnly s (f s a)) (l : List α) (s : State) : ReadOnly s (l.foldl f s) :=
  List.foldlRecOn (motive := ReadOnly s) l f (refl s) (fun t ht a _ => ht.trans (h t a))

/-- A change of a core outside its waves and gangs. -/
theorem modCore (s : State) (c : Nat) {k : Core → Core} (hslots : (k (s.core c)).slots = (s.core c).slots)
    (hgangs : (k (s.core c)).gangs = (s.core c).gangs) : ReadOnly s (s.modCore c k) := by
  refine ⟨rfl, rfl, rfl, fun d w => ?_, fun d g => ?_⟩
  · by_cases hd : d = c
    · rw [hd, State.slot?_modCore hslots]
    · rw [State.slot?, State.core_modCore_of_ne _ _ hd, ← State.slot?]
  · by_cases hd : d = c
    · rw [hd, State.gang?, State.core_modCore, hgangs, ← State.gang?]
    · rw [State.gang?, State.core_modCore_of_ne _ _ hd, ← State.gang?]

theorem of_lookedUp {c : Nat} (h : LookedUp s t c) : ReadOnly s t := by
  refine ⟨by rw [h.rest], by rw [h.rest], by rw [h.rest], h.slot?, fun d g => ?_⟩
  by_cases hd : d = c
  · rw [hd, State.gang?, h.core, ← State.gang?]
  · rw [State.gang?, h.others d hd, ← State.gang?]

theorem countEvent (s : State) (cl f code n : Nat) : ReadOnly s (countEvent s cl f code n) := of_lookedUp (.countEvent s 0 cl f code n)

theorem l1Missed (s : State) (c : Asker) (f : Nat) : ReadOnly s (l1Missed s c f) := by
  unfold Machine.l1Missed
  split
  · exact countEvent ..
  · exact refl s

theorem walkKeep (s : State) (c : Asker) (w : Walker) (va : Nat) : ReadOnly s (walkKeep s c w va) := by
  unfold Machine.walkKeep
  split
  · exact refl s
  · exact ⟨rfl, rfl, rfl, fun _ _ => rfl, fun _ _ => rfl⟩

/-- A translation for a core, whatever it finds (16 R357, R359). -/
theorem translate (s : State) (c : Nat) (p : Party) (f va : Nat) (a : Acc) (fresh : Bool) :
    ReadOnly s (translate s (some c) p f va a fresh).1 := by
  have hwalk : ReadOnly s { (Machine.countEvent (Machine.l1Missed s (some c) f) (askCluster (some c)) f 7 1) with
      free := (Machine.countEvent (Machine.l1Missed s (some c) f) (askCluster (some c)) f 7 1).free + 1 } :=
    ((l1Missed s (some c) f).trans (countEvent ..)).trans ⟨rfl, rfl, rfl, fun _ _ => rfl, fun _ _ => rfl⟩
  unfold Machine.translate
  split
  · split
    · exact of_lookedUp (.tlbKeep s c _)
    · exact (l1Missed ..).trans (of_lookedUp (.tlbKeep _ c _))
  · dsimp only
    split
    · exact hwalk.trans (of_lookedUp (.tlbKeep _ c _))
    · split
      · dsimp only
        exact (hwalk.trans (of_lookedUp (.tlbKeep _ c _))).trans (walkKeep ..)
      · exact hwalk

/-- A read of a line (03 R67). -/
theorem coreLine (s : State) (c vf line : Nat) : ReadOnly s (coreLine s c vf line).1 := by
  unfold Machine.coreLine
  split
  · exact refl s
  · have htouch : ReadOnly s (homeTouch s line) := by
      rw [homeTouch_frame]
      exact ⟨rfl, rfl, rfl, fun _ _ => rfl, fun _ _ => rfl⟩
    exact (htouch.trans (modCore _ c rfl rfl)).trans (countEvent ..)

/-- PREF of a lane (09 R206). -/
theorem prefetch (s : State) (x : Ctx) (va : W64) : ReadOnly s (prefetch s x va) := by
  unfold Machine.prefetch
  have hread := translate s x.core (.fn x.wv.vf (x.wv.row x.g.level)) x.wv.vf va.toNat (accR x.g.level) false
  split
  · exact refl s
  · split
    · next u e hu =>
      rw [hu] at hread
      dsimp only
      split
      · exact hread
      · exact hread.trans (coreLine ..)
    · next u r hu =>
      rw [hu] at hread
      exact hread

end ReadOnly

/-! ## The cache words (09 R204, R206) -/

/-- CINV and IINV with b = 0: the leader empties a cache of its core, and the word's operation is complete. -/
theorem cacheWord_empties {op : Nat} {f : Fields} {s : State} {x : Ctx} {res : Res} {g : Ctx → Nat → Nat → State → State}
    {k : Core → Core} (hexec : res = cacheWord op f s g) (h : Issues op f s x) (hsome : x.active f ≠ [])
    (hg : ∀ a, g x a (x.rd f f.b ((x.active f).headD 0)).toNat s = s.modCore x.core k)
    (hk : ∀ c : Core, (k c).slots = c.slots ∧ (k c).quarters = c.quarters ∧ (k c).clock = c.clock ∧ (k c).mx = c.mx ∧ (k c).gangs = c.gangs) :
    ∃ t y, res = .next t ∧ t.issue? = some y ∧
      t.core x.core = { k (s.core x.core) with slots := (t.core x.core).slots } ∧
      Attached x y { x.op op f with lanes := [knownLane ((x.active f).headD 0)] } ∧
      OnlyWave (s.modCore x.core k) t x.core x.quarter x.wid := by
  obtain ⟨l, ls, hl⟩ := List.exists_cons_of_ne_nil hsome
  obtain ⟨hslots, hquarters, hclock, hmx, hgangs⟩ := hk (s.core x.core)
  have hissue := State.issue?_modCore h.here hslots hquarters hclock hmx (by rw [hgangs])
  have hmoves := addOp_attach hissue (o := { x.op op f with lanes := [knownLane ((x.active f).headD 0)] }) rfl
  refine ⟨_, _, ?_, hmoves.1, ?_, x.attached _, hmoves.2⟩
  · rw [hexec, cacheWord, issueWord_eq h]
    rw [hl] at hg ⊢
    exact congrArg (fun t => Host.Outcome.next (addOp x { x.op op f with lanes := [knownLane l] } t)) (hg _)
  · rw [(OnlySlot.addOp (s.modCore x.core k) x _).core, State.core_modCore]

/-- LDPRB's operation, whose lanes are known at its issue, with the answers ws. -/
def probeOp (f : Fields) (x : Ctx) (ws : List RegWrite) : Op :=
  { x.op 0xAE f with lanes := (x.active f).map knownLane, writes := ws }

/-- One lane's probe: its answer is written behind those of the lanes before it. -/
def probeStep (f : Fields) (x : Ctx) (q : State × List RegWrite) (l : Nat) : State × List RegWrite :=
  ((probe q.1 x (baseOff x f l)).1, q.2 ++ wrBool f.dst l (probe q.1 x (baseOff x f l)).2)

/-- LDPRB's operation holds the answers of its lanes' probes. -/
theorem execLdprb_eq {f : Fields} {s : State} {x : Ctx} (h : Issues 0xAE f s x) (hsome : x.active f ≠ []) :
    execLdprb f s = .next (addOp x (probeOp f x ((x.active f).foldl (probeStep f x) (s, [])).2)
      ((x.active f).foldl (probeStep f x) (s, [])).1) := by
  rw [execLdprb, issueWord_eq h]
  exact congrArg _ (if_neg (by simpa using hsome))

/-- An address that is not canonical is answered false, without a look-up. -/
theorem foldl_probeStep_not_canonical {f : Fields} {s : State} {x : Ctx} : ∀ (ls : List Nat) (ws : List RegWrite),
    (∀ l, l ∈ ls → canonical (baseOff x f l) = false) →
      ls.foldl (probeStep f x) (s, ws) = (s, ws ++ ls.flatMap (fun l => wrBool f.dst l false))
  | [], ws, _ => by simp
  | l :: ls, ws, hls => by
    have hprobe : probe s x (baseOff x f l) = (s, false) := by simp [probe, hls l List.mem_cons_self]
    rw [List.foldl_cons, probeStep, hprobe, foldl_probeStep_not_canonical ls _ (fun k hk => hls k (List.mem_cons_of_mem _ hk)),
      List.flatMap_cons, List.append_assoc]

/-- LDPRB of one lane answers what its probe says. -/
theorem execLdprb_lane {f : Fields} {s u : State} {x : Ctx} {l : Nat} {b : Bool} (h : Issues 0xAE f s x) (hl : x.active f = [l])
    (hprobe : probe s x (baseOff x f l) = (u, b)) :
    execLdprb f s = .next (addOp x { x.op 0xAE f with lanes := [knownLane l], writes := wrBool f.dst l b } u) := by
  rw [execLdprb_eq h (by simp [hl]), probeOp, hl, List.foldl_cons, List.foldl_nil, probeStep, hprobe]
  rfl

/-- A probe of the heap aperture looks its grant up (12 R281). -/
theorem probe_heap {s : State} {x : Ctx} {va : W64} (hform : canonical va = true) (hwindow : inWindow va = false)
    (hheap : inHeap va = true) : probe s x va = (s, heapReadable s x.wv.vf va) := by
  simp [probe, hform, hwindow, hheap]

/-- A probe elsewhere says whether a read is translated to a page that is not elided. -/
theorem probe_translated {s u : State} {x : Ctx} {va : W64} {r : Xlate} (hform : canonical va = true) (hwindow : inWindow va = false)
    (hheap : inHeap va = false) :
    translate s (some x.core) (.fn x.wv.vf (x.wv.row x.g.level)) x.wv.vf va.toNat (accR x.g.level) false = (u, r) →
      probe s x va = (u, match r with | .ok e => !e.elide | _ => false) := by
  intro hr
  simp only [probe, hform, hwindow, hheap, hr, Bool.true_eq_false, Bool.false_eq_true, if_false]
  cases r <;> rfl

/-- Settles O28: PREF is reads alone; CINV and IINV empty a cache; LDPRB's operation holds what its probes say. -/
theorem cacheWords : Obligations.CacheWords := by
  refine ⟨fun f s x h hkeep => ?keep, fun f s x h hkeep => ?pref, fun f s x h hsome hb => ?cinv, fun f s x h hsome hb => ?iinv,
    ?bad, fun f s x l h hl hform hwindow => ⟨fun hheap => ?heap, fun hheap u r hr => ?plain⟩⟩
  case keep => rw [exec_pref_eq, execPref, issueWord_eq h, if_pos hkeep]
  case pref =>
    have hread := ReadOnly.foldl (fun s l => ReadOnly.prefetch s x (baseOff x f l)) (x.acting f) s
    exact ⟨_, by rw [exec_pref_eq, execPref, issueWord_eq h, if_neg hkeep], hread.mem, hread.funcs, hread.owners, hread.slots, hread.gangs⟩
  case cinv =>
    obtain ⟨t, y, hexec, hissue, hcore, hattached, honly⟩ := cacheWord_empties (exec_cinv_eq f s) h hsome (k := fun k => { k with l1 := [] })
      (fun a => by rw [hb]; rfl) (fun _ => ⟨rfl, rfl, rfl, rfl, rfl⟩)
    exact ⟨t, y, hexec, hissue, by rw [hcore], hattached, honly⟩
  case iinv =>
    obtain ⟨t, y, hexec, hissue, hcore, hattached, honly⟩ := cacheWord_empties (exec_iinv_eq f s) h hsome (k := fun k => { k with l0 := [] })
      (fun a => by rw [hb]; rfl) (fun _ => ⟨rfl, rfl, rfl, rfl, rfl⟩)
    exact ⟨t, y, hexec, hissue, by rw [hcore], hattached, honly⟩
  case bad =>
    refine attaches_of_addOp (fun f s x h hyp => ?_) fun _ _ => rfl
    rw [exec_ldprb_eq, execLdprb_eq h hyp.1, foldl_probeStep_not_canonical _ _ hyp.2, List.nil_append]
    rfl
  case heap => exact execLdprb_lane h hl (probe_heap hform hwindow hheap)
  case plain => exact execLdprb_lane h hl (probe_translated hform hwindow hheap hr)

end Sys2Proof.Machine
end

section
open Sys2Proof Sys2Proof.Machine

namespace Sys2Proof.Machine

/-! ## Words of the local buffers that are performed at their issue (09 R200, R207) -/

/-- A local access before it is performed. -/
def LocWant.ready (w : LocWant) : LaneOp :=
  { lane := w.lane, va := BitVec.ofInt 64 w.off, src := w.src, src2 := w.src2, tgt := .loc w.off.toNat, st := .ready }

/-- Where the reads of the issuing word's lanes are noted. -/
def Ctx.locAt (x : Ctx) : LocAt := { core := x.core, wid := x.wid, level := x.g.level, spo := x.spo, off := x.idx }

/-- The accesses of a word of G, W or X, performed lane by lane. -/
def localDone (op : Nat) (f : Fields) (s : State) (x : Ctx) (b : Buf) (ws : List LocWant) : State × List RegWrite × Exc :=
  localAll s x.locAt x.wv op f b (ws.map LocWant.ready)

/-- Only words of Z look at Z as it was before this cc (02 R50). -/
theorem zBefore_of_ne_z (s : State) (x : Ctx) {b : Buf} (hb : b ≠ .z) : zBefore s x b = s := by
  cases b with
  | g => rfl
  | w => rfl
  | x => rfl
  | z => contradiction

theorem zAfter_of_ne_z (k : Core) (s : State) (x : Ctx) {b : Buf} (hb : b ≠ .z) (is_ : List Nat) : zAfter k s x b is_ = s := by
  cases b with
  | g => rfl
  | w => rfl
  | x => rfl
  | z => contradiction

theorem laneTraps_nil (s : State) (x : Ctx) : laneTraps s x [] = s := by rfl

/-- A local word none of whose lanes traps, in a wave without operations: its accesses are performed, and its operation holds what
they read. -/
theorem localWord_eq {op : Nat} {f : Fields} {s : State} {x : Ctx} {b : Buf} {known : Ctx → List (Nat × List RegWrite)}
    {wants : Ctx → List LocWant} (h : Issues op f s x) (halone : x.wv.ops = []) (hb : b ≠ .z) (hatomic : isAtomic op = false)
    (hchecks : ∀ w, w ∈ wants x → locCheck s x.core x.wv op f b w = none) (hsome : wants x ≠ [] ∨ known x ≠ []) :
    localWord op f s b known wants = .next (addOp x { x.op op f with
      lanes := (known x).map (fun k => knownLane k.1) ++ (wants x).map (fun w => locLane w.lane w.off w.src w.src2),
      writes := (known x).flatMap Prod.snd ++ (localDone op f s x b (wants x)).2.1,
      exc := (localDone op f s x b (wants x)).2.2 } (localDone op f s x b (wants x)).1) := by
  have htraps : ((wants x).map (fun w => (w, locCheck s x.core x.wv op f b w))).filterMap (fun r =>
      r.2.map (fun c => (r.1.lane, c, BitVec.ofInt 64 r.1.off))) = ([] : List (Nat × Nat × W64)) := by
    rw [List.filterMap_eq_nil_iff]
    intro r hr
    obtain ⟨w, hw, rfl⟩ := List.mem_map.mp hr
    simp only [hchecks w hw, Option.map_none]
  have hlanes : (((wants x).map (fun w => (w, locCheck s x.core x.wv op f b w))).filter (fun r => r.2.isNone)).map (fun r =>
      ({ lane := r.1.lane, va := BitVec.ofInt 64 r.1.off, src := r.1.src, src2 := r.1.src2, tgt := .loc r.1.off.toNat,
         st := .ready } : LaneOp)) = (wants x).map LocWant.ready := by
    rw [List.filter_eq_self.mpr, List.map_map]
    · rfl
    · intro r hr
      obtain ⟨w, hw, rfl⟩ := List.mem_map.mp hr
      simp only [hchecks w hw, Option.isNone_none]
  have hnonempty : ¬ (((wants x).map LocWant.ready).isEmpty = true ∧ (known x).isEmpty = true) := by
    rw [List.isEmpty_iff, List.isEmpty_iff, List.map_eq_nil_iff, not_and_or]
    exact hsome
  have hfree : ¬ ((((wants x).map LocWant.ready).any (fun l => gated x.wv x.wv.nextOp (some l.lane)) || localBlocked x.wv x.wv.nextOp ||
      (isAtomic op && decide (5 ≤ ordOf f))) = true) := by
    simp [gated, localBlocked, halone, hatomic]
  rw [localWord, issueWord_eq h]
  dsimp only
  rw [htraps, hlanes, if_neg hnonempty, laneTraps_nil, if_neg hfree, zBefore_of_ne_z s x hb, zAfter_of_ne_z _ _ x hb, List.map_map]
  rfl

/-- One access behind those performed before it. -/
def accessStep (op : Nat) (f : Fields) (x : Ctx) (b : Buf) (q : State × List RegWrite × Exc) (w : LocWant) :
    State × List RegWrite × Exc :=
  let r := localDo q.1 x.locAt x.wv op f b w.ready w.off.toNat
  (r.1, q.2.1 ++ r.2.1, q.2.2 ||| r.2.2)

theorem localDone_eq (op : Nat) (f : Fields) (s : State) (x : Ctx) (b : Buf) (ws : List LocWant) :
    localDone op f s x b ws = ws.foldl (accessStep op f x b) (s, [], 0) := by
  rw [localDone, localAll, List.foldl_map]
  rfl

/-- Accesses that change nothing: what each reads pends, in their order. -/
theorem localDone_reads {op : Nat} {f : Fields} {s : State} {x : Ctx} {b : Buf} {g : LocWant → List RegWrite} {ws : List LocWant}
    (h : ∀ w, w ∈ ws → localDo s x.locAt x.wv op f b w.ready w.off.toNat = (s, g w, 0)) :
    localDone op f s x b ws = (s, ws.flatMap g, 0) := by
  have hfold : ∀ rs, ws.foldl (accessStep op f x b) (s, rs, 0) = (s, rs ++ ws.flatMap g, 0) := by
    induction ws with
    | nil => simp
    | cons w ws ih =>
      intro rs
      have hstep : accessStep op f x b (s, rs, 0) w = (s, rs ++ g w, 0) := by simp [accessStep, h w List.mem_cons_self]
      rw [List.foldl_cons, hstep, ih (fun v hv => h v (List.mem_cons_of_mem _ hv)), List.flatMap_cons, List.append_assoc]
  rw [localDone_eq, hfold, List.nil_append]

/-- Accesses that write bytes alone. -/
theorem localDone_writes {op : Nat} {f : Fields} {x : Ctx} {b : Buf} {g : State → LocWant → State} {ws : List LocWant}
    (h : ∀ s w, w ∈ ws → localDo s x.locAt x.wv op f b w.ready w.off.toNat = (g s w, [], 0)) (s : State) :
    localDone op f s x b ws = (ws.foldl g s, [], 0) := by
  rw [localDone_eq]
  induction ws generalizing s with
  | nil => rfl
  | cons w ws ih =>
    have hstep : accessStep op f x b (s, [], 0) w = (g s w, [], 0) := by simp [accessStep, h s w List.mem_cons_self]
    rw [List.foldl_cons, hstep, ih fun t v hv => h t v (List.mem_cons_of_mem _ hv), List.foldl_cons]

/-- op names one access of accSize bytes a lane to a buffer of bytes (09 R207). -/
structure ByteWord (op : Nat) (b : Buf) : Prop where
  atomic : isAtomic op = false
  fill : op ≠ 0xBE
  buf : ∀ f, localBuf op f = some b
  bytes : b ≠ .z

/-- An aligned access inside its buffer does not trap (09 R200). -/
theorem ByteWord.locCheck {op : Nat} {b : Buf} (h : ByteWord op b) {f : Fields} {s : State} {c : Nat} {v : Wave} {w : LocWant}
    (haligned : w.off.emod (accSize op f) = 0) (hinside : 0 ≤ w.off ∧ w.off + accSize op f ≤ (bufSize s c v.gang b : Nat)) :
    locCheck s c v op f b w = none := by
  have halign : locAlign op f = accSize op f := by
    rw [locAlign, if_neg]
    rintro (hz | hfill)
    · exact h.bytes (Option.some.inj ((h.buf f).symm.trans hz))
    · exact h.fill hfill
  simp [Machine.locCheck, locInside, h.fill, h.bytes, hinside, halign, haligned]

/-! ### Loads -/

theorem locReadFor_eq {s : State} {c uid : Nat} (hbits : pendingBits (s.core c) uid = []) (gang : Nat) (b : Buf) (o n : Nat) :
    locReadFor s c gang uid b o n = locRead s c gang b o n := by
  rw [locReadFor, hbits]
  exact ite_self _

/-- The n bytes of a buffer at o. -/
def locData (s : State) (x : Ctx) (b : Buf) (o n : Nat) : List Byte :=
  (List.range n).map (fun k => locByte s x.core x.wv.gang b (o + k))

/-- A load of a lane reads the bytes as they stand. -/
theorem ByteWord.localDo_load {op : Nat} {b : Buf} (h : ByteWord op b) (hload : isLocalStore op = false) {f : Fields} {s : State} {x : Ctx}
    {l : LaneOp} {o : Nat} (hbits : pendingBits (s.core x.core) x.wv.uid = [])
    (hclean : (locRead s x.core x.wv.gang b o (accSize op f)).2 = false) :
    localDo s x.locAt x.wv op f b l o =
      (s, loadWrites f (accSize op f) (f.m 3 1 == 1) l.lane (locData s x b o (accSize op f)), 0) := by
  simp only [localDo, h.atomic, h.bytes, h.fill, hload, Ctx.locAt, locReadFor_eq hbits, hclean, Bool.false_eq_true, if_false]
  rfl

/-- The lanes of a load inside its buffer. -/
theorem ByteWord.localDone_loads {op : Nat} {b : Buf} (h : ByteWord op b) (hload : isLocalStore op = false) {f : Fields} {s : State}
    {x : Ctx} {off : Nat → Int} {src : Nat → W128} {src2 : Nat → W64} {ls : List Nat} (hbits : pendingBits (s.core x.core) x.wv.uid = [])
    (hclean : ∀ l, l ∈ ls → (locRead s x.core x.wv.gang b (off l).toNat (accSize op f)).2 = false) :
    localDone op f s x b (ls.map (fun l => { lane := l, off := off l, src := src l, src2 := src2 l })) =
      (s, ls.flatMap (fun l =>
        loadWrites f (accSize op f) (f.m 3 1 == 1) l (locData s x b (off l).toNat (accSize op f))), 0) := by
  rw [localDone_reads (g := fun w => loadWrites f (accSize op f) (f.m 3 1 == 1) w.lane (locData s x b w.off.toNat (accSize op f))),
    List.flatMap_map]
  intro w hw
  obtain ⟨l, hl, rfl⟩ := List.mem_map.mp hw
  exact h.localDo_load hload hbits (hclean l hl)

/-- A local load is the operation of its lanes' bytes. -/
theorem loadsLocal {op : Nat} {mk : Fields → Instr} {b : Buf} {q : Bool} (h : ByteWord op b) (hload : isLocalStore op = false)
    (hexec : ∀ f s, exec (mk f) s = locAccess op f s b q) : LoadsLocal op mk b q := by
  intro f s x hissues off hin
  have hmoves := addOp_attach hissues.here (o := { x.op op f with
    lanes := (x.acting f).map (fun l => locLane l (off l) (dataOf x f f.b (accSize op f) l) 0),
    writes := (x.acting f).flatMap (fun l =>
      loadWrites f (accSize op f) (f.m 3 1 == 1) l (locData s x b (off l).toNat (accSize op f))) }) rfl
  refine ⟨_, _, ?_, hmoves.1, hmoves.2, x.attached _⟩
  rw [hexec, locAccess, localWord_eq hissues hin.alone h.bytes h.atomic ?check ?some, h.localDone_loads hload hin.bits hin.clean]
  case check =>
    intro w hw
    obtain ⟨l, hl, rfl⟩ := List.mem_map.mp hw
    exact h.locCheck (hin.aligned l hl) (hin.inside l hl)
  case some => exact .inl (by simpa using hin.some)
  rw [List.map_map]
  rfl

theorem saysLocalLoadsRead : SaysLocalLoadsRead := by
  refine ⟨?ldg, ?ldw, ?ldx, ?ldgq, ?ldxq, ?ldwq⟩
  case ldg => exact loadsLocal ⟨rfl, by decide, fun _ => rfl, by decide⟩ rfl fun _ _ => rfl
  case ldw => exact loadsLocal ⟨rfl, by decide, fun _ => rfl, by decide⟩ rfl fun _ _ => rfl
  case ldx => exact loadsLocal ⟨rfl, by decide, fun _ => rfl, by decide⟩ rfl fun _ _ => rfl
  case ldgq => exact loadsLocal ⟨rfl, by decide, fun _ => rfl, by decide⟩ rfl fun _ _ => rfl
  case ldxq => exact loadsLocal ⟨rfl, by decide, fun _ => rfl, by decide⟩ rfl fun _ _ => rfl
  case ldwq => exact loadsLocal ⟨rfl, by decide, fun _ => rfl, by decide⟩ rfl fun _ _ => rfl

end Sys2Proof.Machine
end

section
open Sys2Proof Sys2Proof.Machine

namespace Sys2Proof.Machine

/-! ### The bounds-checked loads (09 R204) -/

@[simp] theorem exec_ldbc_eq (f : Fields) (s : State) : exec (.ldbc f) s = execLdbc f s := by rfl
@[simp] theorem exec_ldgbc_eq (f : Fields) (s : State) : exec (.ldgbc f) s = execLdgbc f s := by rfl

/-- Lanes whose n bytes at b lie beyond c. -/
def lanesBeyond (f : Fields) (n : Nat) (x : Ctx) : List Nat := (x.acting f).filter (fun l => decide (x.na f f.c l < x.na f f.b l + n))

/-- Lanes whose n bytes at b lie within c. -/
def lanesWithin (f : Fields) (n : Nat) (x : Ctx) : List Nat := (x.acting f).filter (fun l => decide (x.na f f.b l + n ≤ x.na f f.c l))

/-- Every acting lane lies within its bound or beyond it. -/
theorem lanesWithin_or_lanesBeyond {f : Fields} {x : Ctx} (hsome : x.acting f ≠ []) (n : Nat) :
    lanesWithin f n x ≠ [] ∨ lanesBeyond f n x ≠ [] := by
  obtain ⟨l, hl⟩ := List.exists_mem_of_ne_nil _ hsome
  rcases Nat.lt_or_ge (x.na f f.c l) (x.na f f.b l + n) with hout | hin
  · exact .inr (List.ne_nil_of_mem (List.mem_filter.mpr ⟨hl, decide_eq_true hout⟩))
  · exact .inl (List.ne_nil_of_mem (List.mem_filter.mpr ⟨hl, decide_eq_true hin⟩))

theorem filter_not_boundsOut (f : Fields) (n : Nat) (x : Ctx) :
    (x.acting f).filter (fun l => !boundsOut x f n l) = lanesWithin f n x :=
  List.filter_congr fun l _ => by
    rw [boundsOut, ← decide_not]
    exact decide_eq_decide.mpr Nat.not_lt

/-- What a lane beyond its bound reads: zeros. -/
def zeroRead (f : Fields) (n l : Nat) : List RegWrite := loadWrites f n false l (List.replicate n 0)

/-- LDBC's access of a lane. -/
def boundedWant (f : Fields) (x : Ctx) (l : Nat) : Want :=
  { lane := l, va := x.rd64 f f.a l + (x.rd f f.b l).setWidth 64, src := 0, src2 := 0 }

theorem execLdbc_eq (f : Fields) (s : State) :
    execLdbc f s = sharedWord 0xAC f s accR (fun x => (lanesBeyond f (accSize 0xAC f) x).map (fun l => (l, zeroRead f (accSize 0xAC f) l)))
      (fun x => (lanesWithin f (accSize 0xAC f) x).map (boundedWant f x)) := by
  simp only [← filter_not_boundsOut]
  rfl

/-- LDGBC's offset of a lane. -/
def boundedOff (f : Fields) (x : Ctx) (l : Nat) : Int := ((x.na f f.a l : Nat) : Int) + x.na f f.b l

theorem execLdgbc_eq (f : Fields) (s : State) :
    execLdgbc f s = localWord 0xBF f s .g (fun x => (lanesBeyond f (accSize 0xBF f) x).map (fun l => (l, zeroRead f (accSize 0xBF f) l)))
      (fun x => (lanesWithin f (accSize 0xBF f) x).map (fun l => { lane := l, off := boundedOff f x l, src := 0, src2 := 0 })) := by
  simp only [← filter_not_boundsOut]
  rfl

theorem ldgbcWord : ByteWord 0xBF .g := ⟨rfl, by decide, fun _ => rfl, by decide⟩

/-- LDGBC's reads of G, none where no lane lies within its bound. -/
theorem localDone_bounded {f : Fields} {s : State} {x : Ctx}
    (hin : lanesWithin f (accSize 0xBF f) x = [] ∨
      InBuffer s x .g (accSize 0xBF f) (accSize 0xBF f) (lanesWithin f (accSize 0xBF f) x) (boundedOff f x)) :
    localDone 0xBF f s x .g ((lanesWithin f (accSize 0xBF f) x).map (fun l => { lane := l, off := boundedOff f x l, src := 0, src2 := 0 })) =
      (s, (lanesWithin f (accSize 0xBF f) x).flatMap (fun l =>
        loadWrites f (accSize 0xBF f) (f.m 3 1 == 1) l (locData s x .g (boundedOff f x l).toNat (accSize 0xBF f))), 0) := by
  rcases hin with hnone | hin
  · rw [hnone]
    rfl
  · exact ldgbcWord.localDone_loads rfl hin.bits hin.clean

/-- Settles O26: the lanes beyond their bounds are known at issue, the others are accesses as a load's. -/
theorem boundsCheckedLoads : Obligations.BoundsCheckedLoads := by
  refine ⟨?ldbc, ?ldgbc⟩
  case ldbc =>
    intro f s x e r h hsome va hstraight halone
    have hreach : ∀ l, l ∈ lanesWithin f (accSize 0xAC f) x →
        Reaches s x (accSize 0xAC f) (accR x.g.level) (va l) e ∧ (va l).toNat / 4096 = r := by
      intro l hl
      rcases hstraight with hnone | hstraight
      · exact absurd hnone (List.ne_nil_of_mem hl)
      · exact ⟨hstraight.reach l hl, hstraight.region l hl⟩
    have hmoves := addOp_attach h.here (o := { x.op 0xAC f with
      lanes := (lanesBeyond f (accSize 0xAC f) x).map knownLane ++
        (sharedOp 0xAC f x e (lanesWithin f (accSize 0xAC f) x) va (fun _ => 0) (fun _ => 0)).lanes,
      writes := (lanesBeyond f (accSize 0xAC f) x).flatMap (zeroRead f (accSize 0xAC f)) }) rfl
    refine ⟨_, _, ?_, hmoves.1, hmoves.2, x.attached _⟩
    rw [exec_ldbc_eq, execLdbc_eq, sharedWord_eq h halone (checkWants_reaches halone _ [] [] ?reach ?region (.inl rfl)) ?ready ?some rfl
      (fun hatomic => absurd hatomic (by decide))]
    case reach => exact List.forall_mem_map.mpr fun l hl => (hreach l hl).1
    case region => exact List.forall_mem_map.mpr fun l hl => (hreach l hl).2
    case ready => exact List.forall_mem_map.mpr fun _ _ => rfl
    case some => simpa using lanesWithin_or_lanesBeyond hsome (accSize 0xAC f)
    rw [List.map_map, List.flatMap_map, List.nil_append, List.map_map]
    rfl
  case ldgbc =>
    intro f s x h hsome halone off hin
    have hmoves := addOp_attach h.here (o := { x.op 0xBF f with
      lanes := (lanesBeyond f (accSize 0xBF f) x).map knownLane ++ (lanesWithin f (accSize 0xBF f) x).map (fun l => locLane l (off l) 0 0),
      writes := (lanesBeyond f (accSize 0xBF f) x).flatMap (zeroRead f (accSize 0xBF f)) ++
        (lanesWithin f (accSize 0xBF f) x).flatMap (fun l =>
          loadWrites f (accSize 0xBF f) (f.m 3 1 == 1) l (locData s x .g (off l).toNat (accSize 0xBF f))) }) rfl
    refine ⟨_, _, ?_, hmoves.1, hmoves.2, x.attached _⟩
    rw [exec_ldgbc_eq, execLdgbc_eq, localWord_eq h halone ldgbcWord.bytes ldgbcWord.atomic ?check ?some, localDone_bounded hin]
    case check =>
      refine List.forall_mem_map.mpr fun l hl => ?_
      rcases hin with hnone | hin
      · exact absurd hnone (List.ne_nil_of_mem hl)
      · exact ldgbcWord.locCheck (hin.aligned l hl) (hin.inside l hl)
    case some => simpa using lanesWithin_or_lanesBeyond hsome (accSize 0xBF f)
    rw [List.map_map, List.flatMap_map, List.map_map]
    rfl

end Sys2Proof.Machine
end

section
open Sys2Proof Sys2Proof.Machine

namespace Sys2Proof.Machine

/-! ### Bytes written to a local buffer (03 R65, R70) -/

namespace OnlyBuffer

variable {s t u : State} {c gang w : Nat} {b : Buf}

theorem refl (s : State) (c gang w : Nat) (b : Buf) : OnlyBuffer s s c gang w b where
  rest := rfl
  cores _ _ := rfl
  slots _ _ := rfl
  core := by simp only [ite_self]
  gangs _ _ := rfl
  gang := by cases s.gang? c gang <;> rfl

theorem trans (h : OnlyBuffer s t c gang w b) (k : OnlyBuffer t u c gang w b) : OnlyBuffer s u c gang w b where
  rest := by rw [k.rest, h.rest]
  cores d hd := (k.cores d hd).trans (h.cores d hd)
  slots v hv := (k.slots v hv).trans (h.slots v hv)
  core := by
    rw [k.core, h.core]
    cases b <;> rfl
  gangs i hi := (k.gangs i hi).trans (h.gangs i hi)
  gang := by
    have ht := h.gang
    have hu := k.gang
    cases hs : s.gang? c gang with
    | none =>
      rw [hs, Option.map_none] at ht
      rw [hu, ht]
      rfl
    | some a =>
      obtain ⟨a', ha'⟩ : ∃ a', t.gang? c gang = some a' := by rw [ht, hs]; exact ⟨_, rfl⟩
      obtain ⟨a'', ha''⟩ : ∃ a'', u.gang? c gang = some a'' := by rw [hu, ha']; exact ⟨_, rfl⟩
      rw [hs, ha', Option.map_some] at ht
      rw [ha', ha'', Option.map_some] at hu
      have hat : a' = { a with g := a'.g, gpois := a'.gpois } := Option.some.inj ht
      have hau : a'' = { a' with g := a''.g, gpois := a''.gpois } := Option.some.inj hu
      rw [ha'', Option.map_some]
      refine congrArg some (hau.trans ?_)
      rw [hat]

/-- A change of one wave. -/
theorem of_onlySlot (h : OnlySlot s t c w) : OnlyBuffer s t c gang w b where
  rest := h.rest
  cores := h.cores
  slots := h.slots
  core := by
    rw [h.core]
    simp only [ite_self]
  gangs i _ := h.gang? i
  gang := by
    rw [h.gang?]
    cases s.gang? c gang <;> rfl

/-- A change of a core that leaves its waves and gangs alone. -/
theorem modCore {s : State} {c : Nat} {b : Buf} {k : Core → Core} (hslots : (k (s.core c)).slots = (s.core c).slots)
    (hgangs : (k (s.core c)).gangs = (s.core c).gangs)
    (hcore : k (s.core c) = { s.core c with
      w := if b = .w then (k (s.core c)).w else (s.core c).w, wpois := if b = .w then (k (s.core c)).wpois else (s.core c).wpois,
      x := if b = .x then (k (s.core c)).x else (s.core c).x, xpois := if b = .x then (k (s.core c)).xpois else (s.core c).xpois })
    (gang w : Nat) : OnlyBuffer s (s.modCore c k) c gang w b := by
  have hgang : ∀ i, (s.modCore c k).gang? c i = s.gang? c i := fun i => by rw [State.gang?, State.core_modCore, hgangs, State.gang?]
  refine ⟨rfl, fun _ hd => State.core_modCore_of_ne s _ hd, fun v _ => State.slot?_modCore hslots v, ?_, fun i _ => hgang i, ?_⟩
  · simp only [State.core_modCore, hslots, hgangs, ite_self]
    refine hcore.trans ?_
    rw [hcore]
    simp only [ite_self]
  · rw [hgang]
    cases s.gang? c gang <;> rfl

theorem locWrite (s : State) (c gang w : Nat) (b : Buf) (o : Nat) (bs : List Byte) :
    OnlyBuffer s (locWrite s c gang b o bs) c gang w b := by
  cases b with
  | g =>
    refine ⟨rfl, fun _ hd => State.core_modCore_of_ne s _ hd, fun _ _ => State.slot?_modGang .., ?_,
      fun _ hi => State.gang?_modGang_of_ne s c _ hi, ?_⟩
    · rw [Machine.locWrite, State.core_modGang]
      rfl
    · rw [Machine.locWrite, State.gang?_modGang]
      cases s.gang? c gang <;> rfl
  | w =>
    unfold Machine.locWrite
    exact modCore rfl rfl rfl gang w
  | x =>
    unfold Machine.locWrite
    exact modCore rfl rfl rfl gang w
  | z => exact refl ..

end OnlyBuffer

/-- A write to a buffer changes nothing of what the issuing group is. -/
theorem issue?_locWrite {s : State} {x : Ctx} (h : s.issue? = some x) (b : Buf) (o : Nat) (bs : List Byte) :
    (locWrite s x.core x.wv.gang b o bs).issue? = some x := by
  cases b with
  | g =>
    refine State.issue?_modCore h rfl rfl rfl rfl ?_
    rw [Tab.get?_adj_self, Option.map_map]
    rfl
  | w => exact State.issue?_modCore h rfl rfl rfl rfl rfl
  | x => exact State.issue?_modCore h rfl rfl rfl rfl rfl
  | z => exact h

theorem bufSize_locWrite (s : State) (c gang : Nat) (b : Buf) (o : Nat) (bs : List Byte) :
    bufSize (locWrite s c gang b o bs) c gang b = bufSize s c gang b := by
  cases b with
  | g =>
    rw [locWrite, bufSize, bufSize, State.gang?_modGang]
    cases s.gang? c gang <;> rfl
  | w => rfl
  | x => rfl
  | z => rfl

/-- A byte of a buffer after a write inside it. -/
theorem locByte_locWrite {s : State} {c gang : Nat} {b : Buf} (hb : b ≠ .z) {o : Nat} {bs : List Byte}
    (hin : bs.length = 0 ∨ o + bs.length ≤ bufSize s c gang b) (k : Nat) :
    locByte (locWrite s c gang b o bs) c gang b k =
      if o ≤ k ∧ k < o + bs.length then bs.getD (k - o) 0 else locByte s c gang b k := by
  cases b with
  | g =>
    cases hg : s.gang? c gang with
    | none =>
      have hempty : ¬ (o ≤ k ∧ k < o + bs.length) := by
        simp only [bufSize, hg] at hin
        omega
      rw [if_neg hempty]
      simp only [locByte, bufCells, locWrite, State.gang?_modGang, hg, Option.map_none]
    | some g =>
      simp only [locByte, bufCells, locWrite, State.gang?_modGang, hg, Option.map_some]
      exact memByte_memPuts ..
  | w =>
    simp only [locByte, bufCells, locWrite, State.core_modCore]
    exact memByte_memPuts ..
  | x =>
    simp only [locByte, bufCells, locWrite, State.core_modCore]
    exact memByte_memPuts ..
  | z => contradiction

/-- A change of one wave leaves every buffer as it was. -/
theorem OnlySlot.locByte {s t : State} {c w : Nat} (h : OnlySlot s t c w) (gang : Nat) (b : Buf) (o : Nat) :
    locByte t c gang b o = locByte s c gang b o := by
  have hcells : bufCells t c gang b = bufCells s c gang b := by
    cases b with
    | g => rw [bufCells, bufCells, h.gang?]
    | w => rw [bufCells, bufCells, h.core]
    | x => rw [bufCells, bufCells, h.core]
    | z => rfl
  rw [Machine.locByte, hcells, Machine.locByte]

/-- Lanes ls write their bytes at their offsets, in their order. -/
def writeLanes (s : State) (c gang : Nat) (b : Buf) (off : Nat → Nat) (bytes : Nat → List Byte) (ls : List Nat) : State :=
  ls.foldl (fun t l => locWrite t c gang b (off l) (bytes l)) s

section
variable {s : State} {x : Ctx} {b : Buf} {off : Nat → Nat} {bytes : Nat → List Byte}

theorem issue?_writeLanes (h : s.issue? = some x) (ls : List Nat) : (writeLanes s x.core x.wv.gang b off bytes ls).issue? = some x :=
  List.foldlRecOn (motive := fun (t : State) => t.issue? = some x) ls _ h fun _ ht l _ => issue?_locWrite ht b (off l) (bytes l)

theorem onlyBuffer_writeLanes (s : State) (c gang w : Nat) (ls : List Nat) : OnlyBuffer s (writeLanes s c gang b off bytes ls) c gang w b :=
  List.foldlRecOn (motive := fun t => OnlyBuffer s t c gang w b) ls _ (.refl ..) fun _ ht _ _ => ht.trans (.locWrite ..)

theorem bufSize_writeLanes (s : State) (c gang : Nat) (ls : List Nat) :
    bufSize (writeLanes s c gang b off bytes ls) c gang b = bufSize s c gang b :=
  List.foldlRecOn (motive := fun t => bufSize t c gang b = bufSize s c gang b) ls _ rfl fun _ ht _ _ => (bufSize_locWrite ..).trans ht

end

theorem lastAt_append_singleton (ls : List Nat) (l : Nat) (off : Nat → Int) (n : Nat → Nat) (o : Nat) :
    lastAt (ls ++ [l]) off n o = if (off l).toNat ≤ o ∧ o < (off l).toNat + n l then some l else lastAt ls off n o := by
  rw [lastAt, List.filter_append, List.getLast?_append, List.filter_singleton]
  by_cases h : (off l).toNat ≤ o ∧ o < (off l).toNat + n l
  · rw [if_pos h, decide_eq_true h]
    rfl
  · rw [if_neg h, decide_eq_false h]
    rfl

theorem lastAt_congr {ls : List Nat} {off : Nat → Int} {n m : Nat → Nat} (h : ∀ l, l ∈ ls → n l = m l) (o : Nat) :
    lastAt ls off n o = lastAt ls off m o :=
  congrArg List.getLast? (List.filter_congr fun l hl => by rw [h l hl])

/-- A lane that wrote a byte is one of the lanes, and its range holds the byte. -/
theorem of_lastAt {ls : List Nat} {off : Nat → Int} {n : Nat → Nat} {o l : Nat} (h : lastAt ls off n o = some l) :
    l ∈ ls ∧ (off l).toNat ≤ o ∧ o < (off l).toNat + n l := by
  have hmem := List.mem_filter.mp (List.mem_of_getLast? h)
  exact ⟨hmem.1, of_decide_eq_true hmem.2⟩

/-- After the writes of lanes a byte is that of the last lane that wrote it (03 R65). -/
theorem locByte_writeLanes {s : State} {c gang : Nat} {b : Buf} (hb : b ≠ .z) {off : Nat → Int} {bytes : Nat → List Byte}
    {ls : List Nat} (hin : ∀ l, l ∈ ls → (bytes l).length = 0 ∨ (off l).toNat + (bytes l).length ≤ bufSize s c gang b) (o : Nat) :
    locByte (writeLanes s c gang b (fun l => (off l).toNat) bytes ls) c gang b o =
      match lastAt ls off (fun l => (bytes l).length) o with
      | some l => (bytes l).getD (o - (off l).toNat) 0
      | none => locByte s c gang b o := by
  induction ls using List.reverseRecOn with
  | nil => rfl
  | append_singleton ls l ih =>
    have hlast : writeLanes s c gang b (fun l => (off l).toNat) bytes (ls ++ [l]) =
        locWrite (writeLanes s c gang b (fun l => (off l).toNat) bytes ls) c gang b (off l).toNat (bytes l) := by
      simp [writeLanes]
    rw [hlast, locByte_locWrite hb (by rw [bufSize_writeLanes]; exact hin l (by simp)), lastAt_append_singleton,
      ih fun k hk => hin k (List.mem_append_left _ hk)]
    split <;> rfl

/-! ### Stores (09 R207) -/

theorem leBytes_getD : ∀ {n : Nat} (v : Nat) {k : Nat}, k < n → (leBytes n v).getD k 0 = BitVec.ofNat 8 (v / 2 ^ (8 * k))
  | 0, _, _, h => absurd h (Nat.not_lt_zero _)
  | n + 1, v, 0, _ => by simp [leBytes]
  | n + 1, v, k + 1, h => by
    rw [leBytes, List.getD_cons_succ, leBytes_getD _ (Nat.lt_of_succ_lt_succ h), Nat.div_div_eq_div_mul, Nat.mul_succ, Nat.pow_add']

/-- Byte k of a value. -/
theorem leBytes_getD_toNat {n w k : Nat} (v : BitVec w) (h : k < n) : (leBytes n v.toNat).getD k 0 = v.extractLsb' (8 * k) 8 := by
  rw [leBytes_getD _ h, BitVec.extractLsb', Nat.shiftRight_eq_div_pow]

/-- A fill's bytes: the value's, over and over. -/
theorem fill_getD {m : Nat} (bs : List Byte) (hm : bs.length = m) : ∀ {n k : Nat}, k < n * m →
    (List.replicate n bs).flatten.getD k 0 = bs.getD (k % m) 0 
  | 0, k, h => by simp at h
  | n + 1, k, h => by
    rw [List.replicate_succ, List.flatten_cons]
    by_cases hk : k < m
    · rw [List.getD_append _ _ _ _ (by omega), Nat.mod_eq_of_lt hk]
    · rw [List.getD_append_right _ _ _ _ (by omega), hm, fill_getD bs hm (by rw [Nat.succ_mul] at h; omega),
        ← Nat.mod_eq_sub_mod (by omega)]

/-- A local word whose lanes write bytes, one after the other, is a store (03 R65). -/
theorem storesLocal {op : Nat} {mk : Fields → Instr} {b : Buf} {m : Nat → Nat} {off : Fields → Ctx → Nat → Int}
    {n : Fields → Ctx → Nat → Nat} {src : Fields → Ctx → Nat → W128} {src2 : Fields → Ctx → Nat → W64}
    {byte : Fields → Ctx → Nat → Nat → Byte} (bytes : Fields → Ctx → Nat → List Byte) (hb : b ≠ .z) (hatomic : isAtomic op = false)
    (hexec : ∀ f s, exec (mk f) s = localWord op f s b (fun _ => []) (fun x =>
      (x.acting f).map (fun l => { lane := l, off := off f x l, src := src f x l, src2 := src2 f x l })))
    (hcheck : ∀ f s x l, (off f x l).emod (m (accSize op f)) = 0 → n f x l % m (accSize op f) = 0 →
      (n f x l = 0 ∨ (0 ≤ off f x l ∧ off f x l + n f x l ≤ (bufSize s x.core x.wv.gang b : Nat))) →
        locCheck s x.core x.wv op f b { lane := l, off := off f x l, src := src f x l, src2 := src2 f x l } = none)
    (hdo : ∀ f s x l, localDo s x.locAt x.wv op f b
      (LocWant.ready { lane := l, off := off f x l, src := src f x l, src2 := src2 f x l }) (off f x l).toNat =
        (locWrite s x.core x.wv.gang b (off f x l).toNat (bytes f x l), [], 0))
    (hlen : ∀ f x l, n f x l % m (accSize op f) = 0 → (bytes f x l).length = n f x l)
    (hbyte : ∀ f x l k, k < (bytes f x l).length → (bytes f x l).getD k 0 = byte f x l k) :
    StoresLocal op mk b m off n src src2 byte := by
  intro f s x h hsome halone hform
  have hdone : localDone op f s x b ((x.acting f).map (fun l =>
      { lane := l, off := off f x l, src := src f x l, src2 := src2 f x l })) =
        (writeLanes s x.core x.wv.gang b (fun l => (off f x l).toNat) (bytes f x) (x.acting f), [], 0) := by
    rw [localDone_writes (g := fun t w => locWrite t x.core x.wv.gang b w.off.toNat (bytes f x w.lane)), List.foldl_map]
    · rfl
    · exact fun t => List.forall_mem_map.mpr fun l _ => hdo f t x l
  have hlens : ∀ l, l ∈ x.acting f → (bytes f x l).length = n f x l := fun l hl => hlen f x l (hform l hl).2.1
  have hin : ∀ l, l ∈ x.acting f →
      (bytes f x l).length = 0 ∨ (off f x l).toNat + (bytes f x l).length ≤ bufSize s x.core x.wv.gang b := by
    intro l hl
    rw [hlens l hl]
    have hinside := (hform l hl).2.2
    omega
  have hmoves := addOp_attach (issue?_writeLanes h.here (b := b) (off := fun l => (off f x l).toNat) (bytes := bytes f x) (x.acting f))
    (o := { x.op op f with lanes := (x.acting f).map (fun l => locLane l (off f x l) (src f x l) (src2 f x l)) }) rfl
  refine ⟨_, _, ?_, hmoves.1, (onlyBuffer_writeLanes ..).trans (.of_onlySlot (.addOp ..)), x.attached _, fun o => ?_⟩
  · rw [hexec, localWord_eq h halone hb hatomic ?check ?some, hdone]
    case check => exact List.forall_mem_map.mpr fun l hl => hcheck f s x l (hform l hl).1 (hform l hl).2.1 (hform l hl).2.2
    case some => exact .inl (by simpa using hsome)
    rw [List.map_map]
    rfl
  · rw [(OnlySlot.addOp ..).locByte, locByte_writeLanes hb hin, lastAt_congr hlens]
    cases hlast : lastAt (x.acting f) (off f x) (n f x) o with
    | none => rfl
    | some l =>
      obtain ⟨hl, hfrom, hto⟩ := of_lastAt hlast
      exact hbyte f x l _ (by rw [hlens l hl]; omega)

/-- A store's bytes are its data's. -/
theorem ByteWord.localDo_store {op : Nat} {b : Buf} (h : ByteWord op b) (hstore : isLocalStore op = true) (f : Fields) (s : State) (x : Ctx)
    (l : LaneOp) (o : Nat) :
    localDo s x.locAt x.wv op f b l o = (locWrite s x.core x.wv.gang b o (leBytes (accSize op f) l.src.toNat), [], 0) := by
  simp only [localDo, h.atomic, h.bytes, h.fill, hstore, Bool.false_eq_true, if_false, if_true]
  rfl

/-- A store of a lane's data, accSize bytes of it. -/
theorem dataStoresLocal {op : Nat} {mk : Fields → Instr} {b : Buf} {off : Fields → Ctx → Nat → Int} (h : ByteWord op b)
    (hstore : isLocalStore op = true) (hsize : ∀ f, 0 < accSize op f)
    (hexec : ∀ f s, exec (mk f) s = localWord op f s b (fun _ => []) (fun x => (x.acting f).map (fun l =>
      { lane := l, off := off f x l, src := dataOf x f f.b (accSize op f) l, src2 := 0 }))) :
    StoresLocal op mk b (fun n => n) off (fun f _ _ => accSize op f) (fun f x l => dataOf x f f.b (accSize op f) l) (fun _ _ _ => 0)
      (fun f x l k => (dataOf x f f.b (accSize op f) l).extractLsb' (8 * k) 8) := by
  refine storesLocal (fun f x l => leBytes (accSize op f) (dataOf x f f.b (accSize op f) l).toNat) h.bytes h.atomic hexec ?check
    (fun f s x l => h.localDo_store hstore f s x _ _) (fun _ _ _ _ => leBytes_length ..) ?byte
  case check =>
    intro f s x l haligned _ hinside
    exact h.locCheck haligned (hinside.resolve_left (hsize f).ne')
  case byte =>
    intro f x l k hk
    rw [leBytes_length] at hk
    exact leBytes_getD_toNat _ hk

/-- GFILL's bytes: its value's four, as often as its length holds them. -/
def fillBytes (f : Fields) (x : Ctx) (l : Nat) : List Byte :=
  (List.replicate (x.na f f.c l / 4) (leBytes 4 (x.na f f.b l))).flatten

theorem fillBytes_length (f : Fields) (x : Ctx) (l : Nat) : (fillBytes f x l).length = x.na f f.c l / 4 * 4 := by
  simp [fillBytes, leBytes_length]

/-- A fill of whole words inside G does not trap; one of no bytes lies anywhere (03 R71). -/
theorem locCheck_fill {f : Fields} {s : State} {c : Nat} {v : Wave} {w : LocWant} (haligned : w.off.emod 4 = 0)
    (hwords : w.src2.toNat % 4 = 0)
    (hinside : w.src2.toNat = 0 ∨ (0 ≤ w.off ∧ w.off + w.src2.toNat ≤ (bufSize s c v.gang .g : Nat))) :
    locCheck s c v 0xBE f .g w = none := by
  have hin : locInside s c v 0xBE f .g w = true := by
    rcases hinside with hzero | hinside
    · simp [locInside, BitVec.eq_of_toNat_eq (y := 0) hzero]
    · simp [locInside, hinside]
  have halign : locAlign 0xBE f = 4 := by rfl
  simp [locCheck, hin, halign, haligned, hwords]

/-- A fill writes its value's four bytes, over and over. -/
theorem localDo_fill (f : Fields) (s : State) (x : Ctx) (l : LaneOp) (o : Nat) : localDo s x.locAt x.wv 0xBE f .g l o =
    (locWrite s x.core x.wv.gang .g o (List.replicate (l.src2.toNat / 4) (leBytes 4 l.src.toNat)).flatten, [], 0) := by rfl

theorem locAccess_plain (op : Nat) (f : Fields) (s : State) (b : Buf) :
    locAccess op f s b false = localWord op f s b (fun _ => []) (fun x => (x.acting f).map (fun l =>
      { lane := l, off := locOff x f l, src := dataOf x f f.b (accSize op f) l, src2 := 0 })) := by
  simp only [locAccess, Bool.false_eq_true, if_false, Int.add_zero]

theorem saysLocalStoresWrite : SaysLocalStoresWrite := by
  refine ⟨?stg, ?stx, ?stgq, ?stxq, ?gfill⟩
  case stg =>
    exact dataStoresLocal ⟨rfl, by decide, fun _ => rfl, by decide⟩ rfl (fun _ => Nat.two_pow_pos _) fun f s => locAccess_plain 0xB1 f s .g
  case stx =>
    exact dataStoresLocal ⟨rfl, by decide, fun _ => rfl, by decide⟩ rfl (fun _ => Nat.two_pow_pos _) fun f s => locAccess_plain 0xB4 f s .x
  case stgq => exact dataStoresLocal ⟨rfl, by decide, fun _ => rfl, by decide⟩ rfl (fun _ => Nat.two_pow_pos _) fun _ _ => rfl
  case stxq => exact dataStoresLocal ⟨rfl, by decide, fun _ => rfl, by decide⟩ rfl (fun _ => Nat.two_pow_pos _) fun _ _ => rfl
  case gfill =>
    refine storesLocal fillBytes (by decide) rfl (fun _ _ => rfl) ?check ?written ?len ?byte
    case check =>
      intro f s x l haligned hwords hinside
      have hn : ((x.rd f f.c l).setWidth 64).toNat = x.na f f.c l := BitVec.toNat_setWidth_of_le (by decide)
      exact locCheck_fill haligned (hn ▸ hwords) (hn ▸ hinside)
    case written =>
      intro f s x l
      rw [localDo_fill, fillBytes]
      simp only [LocWant.ready, BitVec.toNat_setWidth_of_le, Nat.reduceLeDiff]
      rfl
    case len =>
      intro f x l hn
      rw [fillBytes_length]
      exact Nat.div_mul_cancel (Nat.dvd_of_mod_eq_zero hn)
    case byte =>
      intro f x l k hk
      rw [fillBytes_length] at hk
      rw [fillBytes, fill_getD _ (leBytes_length ..) hk]
      exact leBytes_getD_toNat _ (Nat.mod_lt _ (by decide))

/-- Settles O29: loads hold the bytes they read, stores write theirs lane after lane. -/
theorem localLoadsAndStores : Obligations.LocalLoadsAndStores := ⟨saysLocalLoadsRead, saysLocalStoresWrite⟩

end Sys2Proof.Machine
end

section
open Sys2Proof Sys2Proof.Machine

namespace Sys2Proof.Machine

/-! ## Words of the Ladle and the matrix engine (10 R225 to R250) -/

/-! ### Arms of exec -/

@[simp] theorem exec_lstat_eq (f : Fields) (s : State) : exec (.lstat f) s = execLstat f s := by rfl
@[simp] theorem exec_mxstat_eq (f : Fields) (s : State) : exec (.mxstat f) s = execMxstat f s := by rfl
@[simp] theorem exec_mxteam_eq (f : Fields) (s : State) : exec (.mxteam f) s = execMxteam f s := by rfl

/-! ### What an engine word leaves alone -/

theorem OnlyWave.gang? {s t : State} {c q w : Nat} (h : OnlyWave s t c q w) (i : Nat) : t.gang? c i = s.gang? c i := by
  rw [State.gang?, h.core]
  rfl

namespace OnlyQueue

variable {s t u : State} {x : Ctx}

theorem refl (s : State) (x : Ctx) : OnlyQueue s s x := ⟨rfl, fun _ _ => rfl, rfl, fun _ _ => rfl, fun _ _ => rfl⟩

theorem trans (h : OnlyQueue s t x) (k : OnlyQueue t u x) : OnlyQueue s u x where
  rest := by rw [k.rest, h.rest]
  cores d hd := (k.cores d hd).trans (h.cores d hd)
  core := by rw [k.core, h.core]
  slots v hv := (k.slots v hv).trans (h.slots v hv)
  gangs i hi := (k.gangs i hi).trans (h.gangs i hi)

theorem of_onlyWave (h : OnlyWave s t x.core x.quarter x.wid) : OnlyQueue s t x where
  rest := by
    have hfree : t.free = s.free := by rw [h.rest]
    rw [hfree]
    exact h.rest
  cores := h.cores
  core := by rw [h.core]
  slots := h.slots
  gangs i _ := h.gang? i

/-- A change of the core's engine queues and numbers. -/
theorem modCore (s : State) (x : Ctx) {k : Core → Core} (hcore : k (s.core x.core) = { s.core x.core with
      ladle := (k (s.core x.core)).ladle, mx := (k (s.core x.core)).mx, col := (k (s.core x.core)).col,
      nextCmd := (k (s.core x.core)).nextCmd, nextOrd := (k (s.core x.core)).nextOrd }) : OnlyQueue s (s.modCore x.core k) x where
  rest := rfl
  cores _ hd := State.core_modCore_of_ne s _ hd
  core := by
    rw [State.core_modCore, hcore]
  slots v _ := State.slot?_modCore (by rw [hcore]) v
  gangs i _ := by
    rw [State.gang?, State.core_modCore, hcore]
    rfl

theorem modGang (s : State) (x : Ctx) (k : Gang → Gang) : OnlyQueue s (s.modGang x.core x.wv.gang k) x where
  rest := rfl
  cores _ hd := State.core_modCore_of_ne s _ hd
  core := by rw [State.core_modGang]
  slots _ _ := State.slot?_modGang ..
  gangs _ hi := State.gang?_modGang_of_ne s _ k hi

theorem useFree (s : State) (x : Ctx) : OnlyQueue s s.useFree x := ⟨rfl, fun _ _ => rfl, rfl, fun _ _ => rfl, fun _ _ => rfl⟩

end OnlyQueue

/-! ### The issuing group after changes of its core, its run and its wave -/

/-- The group where its commands and its gang's rings have come to p and d. -/
def Ctx.progress (x : Ctx) (p d : W32) : Ctx := { x with mxprog := p, ringdepth := d }

/-- The issuing group after its core changes outside its waves, runs and clock: of the group, only the progress of its commands and the
depths of its rings may differ. -/
theorem State.issue?_modCore_progress {s : State} {x : Ctx} (h : s.issue? = some x) {k : Core → Core}
    (hslots : (k (s.core x.core)).slots = (s.core x.core).slots) (hquarters : (k (s.core x.core)).quarters = (s.core x.core).quarters)
    (hclock : (k (s.core x.core)).clock = (s.core x.core).clock) :
    ∃ p d, (s.modCore x.core k).issue? = some (x.progress p d) := by
  obtain ⟨u, hu, hc, hq, hpt, hr, hw, ht, hg, he, hcl, -, -⟩ := State.issue?_eq h
  rw [hc] at hslots hquarters hclock
  have hcore : (s.modCore u.core k).core u.core = k (s.core u.core) := State.core_modCore ..
  have hissue := State.issue?_of (s := s.modCore u.core k) (u := u) (r := x.run) (t := x.sl) (g := x.g) hu
    (by rw [State.quarter, hcore, hquarters]; exact hr) (by rw [hcore, hslots]; exact ht) hg
  rw [hcore, hclock, ← hcl, ← he, ← hc, ← hq, ← hpt, ← hw] at hissue
  exact ⟨_, _, hissue⟩

/-- A change of the issuing run that keeps its wave and groups. -/
theorem modRun_moves {s : State} {x : Ctx} (h : s.issue? = some x) (k : Run → Run) (hwave : (k x.run).wave = x.run.wave)
    (hgroups : (k x.run).groups = x.run.groups) :
    Moves s (s.modRun x.core x.quarter k) x { x with run := k x.run } := by
  refine ⟨?_, OnlyWave.modRun ..⟩
  obtain ⟨u, hu, hc, hq, hpt, hr, hw, ht, hg, he, hcl, hm, hrd⟩ := State.issue?_eq h
  rw [hc, hq]
  have hcore : ∀ {α : Type} (p : Core → α), (∀ k, p { s.core u.core with quarters := k } = p (s.core u.core)) →
      p ((s.modRun u.core u.quarter k).core u.core) = p (s.core u.core) := by
    intro α p hp
    rw [State.modRun, State.modQuarter, State.core_modCore, hp]
  refine (State.issue?_of (s := s.modRun u.core u.quarter k) (u := u) (r := k x.run) (t := x.sl) (g := x.g) hu
    (by rw [State.run_modRun, hr]; rfl) (by rw [hwave, hcore Core.slots fun _ => rfl]; exact ht)
    (by rw [hgroups]; exact hg)).trans (congrArg some ?_)
  rw [hcore Core.clock fun _ => rfl, hcore (Core.mxprog · _) fun _ => rfl, hcore Core.gangs fun _ => rfl, hwave,
    ← hcl, ← he, ← hm, ← hc, ← hq, ← hpt, ← hw]
  rw [← hc] at hrd
  exact congrArg (fun d => ({ x with run := k x.run, ringdepth := d } : Ctx)) hrd.symm

/-- Raising a flag is a change of the counts alone (02 R58). -/
theorem Wave.raise_eq (w : Wave) (fl : Option Nat) : w.raise fl = { w with flags := bumpFlag w.flags fl } := by cases fl <;> rfl

@[simp] theorem State.issue?_useFree (s : State) : s.useFree.issue? = s.issue? := rfl
@[simp] theorem State.core_useFree (s : State) (c : Nat) : s.useFree.core c = s.core c := rfl

theorem writePromise_useFree (s : State) (x : Ctx) (ws : List RegWrite) : writePromise x ws s.useFree = (writePromise x ws s).useFree := by
  rfl

/-- A write promised for the end of the run. -/
theorem writePromise_moves {s : State} {x : Ctx} (h : s.issue? = some x) (ws : List RegWrite) :
    ∃ y, Moves s (writePromise x ws s) x y ∧ y.core = x.core ∧ y.wid = x.wid ∧
      y.wv = { x.wv with ops := x.wv.ops.map (fun o => { o with writes := dropElems (ws.map RegWrite.elem) o.writes }) } ∧
      y.run.resL = x.run.resL ∧ y.g.writes = dropElems (ws.map RegWrite.elem) x.g.writes ++ ws := by
  have drop := dropPending_moves h (ws.map RegWrite.elem)
  have pend := modGroup_moves drop.1 (fun g => { g with writes := g.writes ++ ws }) (fun _ => rfl) rfl rfl
  exact ⟨_, drop.step rfl rfl rfl pend, rfl, rfl, rfl, rfl, rfl⟩

/-! ### A command behind a write of its wave waits (04 R94, R106) -/

/-- A command that x issued is not ready while, of the wave as it now stands, a write from before it is not performed. -/
theorem engReady_of_behindWrite {s : State} {x y : Ctx} (h : s.issue? = some y) (hbehind : BehindWrite y) (hcore : y.core = x.core)
    (hwid : y.wid = x.wid) (huid : y.wv.uid = x.wv.uid) (hnext : y.wv.nextOp = x.wv.nextOp) (op : Nat) (f : Fields) (l : Nat) :
    engReady s x.core (issuerOf x op f l) = false := by
  obtain ⟨o, ho, hid, hwrite, lane, hlane, hready⟩ := hbehind
  have hfind : findUid s x.core x.wid x.wv.uid = some y.wv := by
    rw [findUid, ← hcore, ← hwid, State.slot?_issue h, ← huid]
    exact if_pos rfl
  rw [engReady, issuerOf, hfind]
  refine Bool.and_eq_false_imp.mpr fun _ => List.all_eq_false.mpr ⟨o, ho, fun hall => ?_⟩
  rw [← hnext, decide_eq_false (Nat.not_le.mpr hid), hwrite] at hall
  simpa only [hready, Bool.false_eq_true] using List.all_eq_true.mp hall lane hlane

/-- A Ladle command that is not ready is not accepted. -/
theorem tryAccept_of_not_ready {s : State} {c : Nat} {q : LCmd} (hqueue : (s.core c).ladle = [q]) (hready : engReady s c q.by_ = false) :
    tryAccept s c q.id = s := by
  have hfind : (s.core c).ladle.find? (fun p => p.id == q.id) = some q := by
    rw [hqueue]
    exact List.find?_cons_of_pos (beq_self_eq_true _)
  rw [tryAccept, hfind]
  exact if_neg (by rw [hready, Bool.false_and]; exact Bool.false_ne_true)

/-- An MXE command that is not ready is not accepted. -/
theorem mxAccept_of_not_ready {s : State} {c : Nat} {q : MCmd} (hqueue : (s.core c).mx = [q]) (hready : engReady s c q.by_ = false) :
    mxAccept s c q.id = s := by
  have hfind : (s.core c).mx.find? (fun p => p.id == q.id) = some q := by
    rw [hqueue]
    exact List.find?_cons_of_pos (beq_self_eq_true _)
  rw [mxAccept, hfind]
  exact if_pos (by rw [hready, Bool.not_false, Bool.or_true, Bool.true_or])

/-! ### The Ladle's commands (10 R225, R226, R231) -/

/-- A promise lies at least 8 cc after its issue. -/
theorem le_promiseOf (clock : W64) (k : Nat) : clock + 8 ≤ promiseOf clock k := by
  have hlt := (clock + 8).isLt
  have hextra : Config.promiseExtra k % (2 ^ 64 - (clock + 8).toNat) < 2 ^ 64 - (clock + 8).toNat := Nat.mod_lt _ (by omega)
  rw [promiseOf, BitVec.le_def, BitVec.toNat_add (clock + 8), BitVec.toNat_ofNat, Nat.mod_eq_of_lt (a := _ % (2 ^ 64 - _)) (by omega),
    Nat.mod_eq_of_lt (by omega)]
  omega

/-- Command q at the end of the core's Ladle queue, which takes the core's next numbers. -/
def ladleQueue (x : Ctx) (q : LCmd) (s : State) : State :=
  s.modCore x.core (fun k => { k with ladle := k.ladle ++ [q], nextCmd := k.nextCmd + 1, nextOrd := k.nextOrd + 1 })

/-- Command q queued, counted in LSTAT and attached to its flag. -/
def ladleEnter (x : Ctx) (q : LCmd) (s : State) : State :=
  ((ladleQueue x q s).modRun x.core x.quarter (fun r => { r with resL := r.resL - 1 })).modWave x.core x.wid (fun w =>
    ({ w with lstat := { w.lstat with issued := w.lstat.issued + 1 } }).raise q.by_.flag)

/-- Command q of lane l entered, its promise written for the end of the run. -/
def ladlePut (x : Ctx) (f : Fields) (l : Nat) (q : LCmd) (s : State) : State :=
  writePromise x (wr64 f.dst l (promiseOf x.clock s.free)) (ladleEnter x q s).useFree

/-- q is the command of a Ladle-queue word as it issues in x, on a core that stands as k (10 R225, R231). -/
structure LadleCommand (op : Nat) (f : Fields) (x : Ctx) (l : Nat) (k : Core) (ta tb : W256) (c : W64) (q : LCmd) : Prop where
  opc : q.opc = op
  fields : q.f = f
  ta : q.ta = ta
  tb : q.tb = tb
  c : q.c = c
  id : q.id = k.nextCmd
  ord : q.ord = k.nextOrd
  ordinal : q.ordinal = x.wv.lstat.issued
  issuer : q.by_ = issuerOf x op f l
  accepted : q.accepted = false
  written : q.written = 0

/-- A Ladle-queue word without a trap puts its command and tries to accept it. -/
theorem ladleIssue_eq {op : Nat} {f : Fields} {s : State} {x : Ctx} {l : Nat} {t : Ctx → W256 × W256} {c : Ctx → Nat → W64}
    (h : Issues op f s x) (hl : (x.active f).head? = some l) (htrap : ladleTrap s x op f (c x l) = none) :
    ∃ q, ladleIssue op f s t c = .next (tryAccept (ladlePut x f l q s) x.core q.id) ∧
      LadleCommand op f x l (s.core x.core) (t x).1 (t x).2 (c x l) q := by
  rw [ladleIssue, issueWord_eq h, hl]
  simp only [htrap]
  exact ⟨_, rfl, rfl, rfl, rfl, rfl, rfl, rfl, rfl, rfl, rfl, rfl, rfl⟩

/-- The wave whose command q has entered the Ladle's queue. -/
def Wave.countLadle (v : Wave) (q : LCmd) : Wave :=
  { v with lstat := { v.lstat with issued := v.lstat.issued + 1 }, flags := bumpFlag v.flags q.by_.flag }

theorem ladleEnter_moves {s : State} {x : Ctx} (h : s.issue? = some x) (q : LCmd) :
    Moves (ladleQueue x q s) (ladleEnter x q s) x
      { x with sl := { x.sl with wave := x.wv.countLadle q }, run := { x.run with resL := x.run.resL - 1 } } := by
  have hqueue : (ladleQueue x q s).issue? = some x := State.issue?_modCore h rfl rfl rfl rfl rfl
  have hrun := modRun_moves hqueue (fun r => { r with resL := r.resL - 1 }) rfl rfl
  have hcount := modWave_moves hrun.1 (fun w => w.countLadle q) rfl rfl rfl
  have henter : ladleEnter x q s =
      ((ladleQueue x q s).modRun x.core x.quarter (fun r => { r with resL := r.resL - 1 })).modWave x.core x.wid (·.countLadle q) :=
    congrArg (State.modWave _ x.core x.wid) (funext fun w => Wave.raise_eq ..)
  rw [henter]
  exact hrun.step rfl rfl rfl hcount

/-- What stands after a command has entered the Ladle's queue. -/
theorem ladlePut_puts {s : State} {x : Ctx} (h : s.issue? = some x) (f : Fields) (l : Nat) (q : LCmd) :
    ∃ y, (ladlePut x f l q s).issue? = some y ∧ OnlyQueue s (ladlePut x f l q s) x ∧
      (ladlePut x f l q s).core x.core = { s.core x.core with
        slots := ((ladlePut x f l q s).core x.core).slots, quarters := ((ladlePut x f l q s).core x.core).quarters,
        ladle := (s.core x.core).ladle ++ [q], nextCmd := (s.core x.core).nextCmd + 1, nextOrd := (s.core x.core).nextOrd + 1 } ∧
      y.core = x.core ∧ y.wid = x.wid ∧
      y.wv = { x.wv.countLadle q with
        ops := x.wv.ops.map (fun o => { o with writes := dropElems (destElems f.dst l 2) o.writes }) } ∧
      y.run.resL = x.run.resL - 1 ∧
      y.g.writes = dropElems (destElems f.dst l 2) x.g.writes ++ wr64 f.dst l (promiseOf x.clock s.free) := by
  have henter := ladleEnter_moves h q
  obtain ⟨y, hpromise, hycore, hywid, hywv, hres, hwrites⟩ := writePromise_moves henter.1 (wr64 f.dst l (promiseOf x.clock s.free))
  have hmoves : Moves (ladleQueue x q s) (writePromise x (wr64 f.dst l (promiseOf x.clock s.free)) (ladleEnter x q s)) x y :=
    henter.step rfl rfl rfl hpromise
  have helems : (wr64 f.dst l (promiseOf x.clock s.free)).map RegWrite.elem = destElems f.dst l 2 := wrWide_elems ..
  rw [helems] at hywv hwrites
  have hput : ladlePut x f l q s = (writePromise x (wr64 f.dst l (promiseOf x.clock s.free)) (ladleEnter x q s)).useFree := writePromise_useFree ..
  have hqueue : OnlyQueue s (ladleQueue x q s) x := .modCore s x rfl
  have hcore : (ladleQueue x q s).core x.core = { s.core x.core with
    ladle := (s.core x.core).ladle ++ [q], nextCmd := (s.core x.core).nextCmd + 1, nextOrd := (s.core x.core).nextOrd + 1 } :=
    State.core_modCore ..
  rw [hput, State.issue?_useFree, State.core_useFree]
  have hkept := hmoves.2.core
  rw [hcore] at hkept
  exact ⟨y, hmoves.1, (hqueue.trans (.of_onlyWave hmoves.2)).trans (.useFree ..), hkept, hycore, hywid, hywv, hres, hwrites⟩

/-- A Ladle-queue word behind a write puts its command, which waits there. -/
theorem queuesLadle {op : Nat} {mk : Fields → Instr} {ta tb : Fields → Ctx → W256} {c : Fields → Ctx → Nat → W64}
    (hexec : ∀ f s, exec (mk f) s = ladleIssue op f s (fun x => (ta f x, tb f x)) (c f)) :
    QueuesLadle op mk ta tb c := by
  intro f s x l h hl htrap hbehind hempty
  obtain ⟨q, hissue, hq⟩ := ladleIssue_eq (t := fun x => (ta f x, tb f x)) (c := c f) h hl htrap
  obtain ⟨y, hy, honly, hcore, hycore, hywid, hywv, hres, hwrites⟩ := ladlePut_puts h.here f l q
  rw [hempty, List.nil_append] at hcore
  have hbehindAfter : BehindWrite y := by
    obtain ⟨o, ho, hrest⟩ := hbehind
    rw [BehindWrite, hywv]
    exact ⟨_, List.mem_map_of_mem ho, hrest⟩
  have hready : engReady (ladlePut x f l q s) x.core q.by_ = false := by
    rw [hq.issuer]
    exact engReady_of_behindWrite hy hbehindAfter hycore hywid (by rw [hywv]; rfl) (by rw [hywv]; rfl) op f l
  rw [tryAccept_of_not_ready (by rw [hcore]) hready] at hissue
  have hflags : y.wv.flags = bumpFlag x.wv.flags (x.flag op f) := by
    rw [hywv]
    exact congrArg (fun i : Issuer => bumpFlag x.wv.flags i.flag) hq.issuer
  exact ⟨_, y, q, (hexec f s).trans hissue, hy, honly, by rw [hcore], hq.opc, hq.fields, hq.ta, hq.tb, hq.c, hq.id, hq.ord, hq.issuer,
    hq.ordinal, hq.accepted, hq.written, by rw [hcore], by rw [hcore], by rw [hcore], by rw [hcore], by rw [hcore], by rw [hywv]; rfl,
    by rw [hywv]; rfl, hflags, hres, hwrites, fun _ => le_promiseOf ..⟩

/-- Settles O31: each word puts one command, which waits behind the write. -/
theorem ladleWordsQueueCommands : Obligations.LadleWordsQueueCommands :=
  ⟨queuesLadle fun _ _ => rfl, queuesLadle fun _ _ => rfl, queuesLadle fun _ _ => rfl, queuesLadle fun _ _ => rfl,
    queuesLadle fun _ _ => rfl, queuesLadle fun _ _ => rfl, queuesLadle fun _ _ => rfl, queuesLadle fun _ _ => rfl,
    queuesLadle fun _ _ => rfl⟩

/-! ### The status words (10 R236, R247, R250) -/

/-- A word that writes for the end of its run and then, where b holds, changes its wave by k. -/
theorem writeEnd_then_modWave {s : State} {x : Ctx} (h : s.issue? = some x) (f : Fields) (ws : List RegWrite) {b : Prop} [Decidable b]
    {k : Wave → Wave} (huid : ∀ w, (k w).uid = w.uid) (hgang : ∀ w, (k w).gang = w.gang) (hlive : ∀ w, (k w).live = w.live) :
    ∃ y, Moves s (if b then (writeEnd x f ws s).modWave x.core x.wid k else writeEnd x f ws s) x
        { y with sl := { y.sl with wave := if b then k y.wv else y.wv } } ∧
      WroteEnd (flagOf x.g.hdr f.sf) x y ws 0 := by
  obtain ⟨y, hy, hwrote⟩ := writeEnd_wrote_noExc h f ws
  refine ⟨y, ?_, hwrote⟩
  split
  · have hplace := hwrote.place
    have hcore : y.core = x.core := by rw [hplace]
    have hquarter : y.quarter = x.quarter := by rw [hplace]
    have hwid : y.wid = x.wid := by rw [hplace]
    refine hy.step hcore hquarter hwid ?_
    rw [← hcore, ← hwid]
    exact modWave_moves hy.1 k (huid _) (hgang _) (hlive _)
  · exact hy

/-- Settles O32: a read of the status at issue, and a change of the wave where it is cleared. -/
theorem engineStatusRead : Obligations.EngineStatusRead := by
  refine ⟨fun f s x h hsome => ?lstat, fun f s x h hsome => ?mxstat, fun f s x h hsome => ?mxteam⟩
  case lstat =>
    obtain ⟨y, ⟨hissue, honly⟩, hwrote⟩ := writeEnd_then_modWave h.here f
      (writesOf (fun f x l => wr32 f.dst l (x.wv.lstat.field (f.m 0 3))) f x) (b := f.m 3 1 = 1)
      (k := fun w => { w with lstat := w.lstat.clear }) (fun _ => rfl) (fun _ => rfl) (fun _ => rfl)
    have hlstat : y.wv.lstat = x.wv.lstat := by rw [Ctx.wv, hwrote.wave]
    rw [exec_lstat_eq, execLstat, groupWord_eq h hsome]
    refine ⟨_, y, _, rfl, hissue, honly, hwrote, ?_⟩
    split
    · rw [hlstat]
    · rw [← hlstat]
  case mxstat =>
    obtain ⟨y, ⟨hissue, honly⟩, hwrote⟩ := writeEnd_then_modWave h.here f
      (writesOf (fun f x l => wr32 f.dst l (match f.m 0 3 with
        | 0 => BitVec.ofNat 32 ((s.core x.core).mx.filter (fun q => q.by_.uid == x.wv.uid)).length
        | 1 => x.wv.mstat.exc.setWidth 32
        | 2 => (x.wv.mstat.errSeq <<< 8) ||| x.wv.mstat.err.setWidth 32
        | _ => x.wv.mstat.stamps)) f x) (b := f.m 3 1 = 1)
      (k := fun w => { w with mstat := { w.mstat with exc := 0, err := 0, errSeq := 0 } }) (fun _ => rfl) (fun _ => rfl) (fun _ => rfl)
    have hmstat : y.wv.mstat = x.wv.mstat := by rw [Ctx.wv, hwrote.wave]
    rw [exec_mxstat_eq, execMxstat, groupWord_eq h hsome]
    refine ⟨_, y, _, rfl, hissue, honly, hwrote, rfl, ?_⟩
    rw [← hmstat]
    split <;> rfl
  case mxteam =>
    rw [exec_mxteam_eq, execMxteam, groupWord_eq h hsome]
    obtain ⟨y, ⟨hissue, honly⟩, hwrote⟩ := writeEnd_wrote_noExc h.here f _
    exact ⟨_, y, rfl, hissue, honly, hwrote⟩

/-! ### The matrix engine's commands (10 R243, R244) -/

/-- Command q at the end of the core's MXE queue, which takes the core's next numbers. -/
def mxQueue (x : Ctx) (q : MCmd) (s : State) : State :=
  s.modCore x.core (fun k => { k with mx := k.mx ++ [q], nextCmd := k.nextCmd + 1, nextOrd := k.nextOrd + 1 })

/-- The gang counts a team command. -/
def teamCount (x : Ctx) (team : Bool) (s : State) : State :=
  if team then s.modGang x.core x.wv.gang (fun g => { g with teamN := g.teamN + 1 }) else s

/-- The issuing run has used one of its places in the MXE's queue. -/
def mxReserve (x : Ctx) (s : State) : State := s.modRun x.core x.quarter (fun r => { r with resM := r.resM - 1 })

/-- The wave counts command q in MXSTAT, which is attached to its flag. -/
def mxCount (x : Ctx) (q : MCmd) (s : State) : State :=
  s.modWave x.core x.wid (fun w => ({ w with mstat := { w.mstat with issued := w.mstat.issued + 1 } }).raise q.by_.flag)

/-- Command q entered: queued, counted by its wave and, for a team, by its gang. -/
def mxPut (x : Ctx) (team : Bool) (q : MCmd) (s : State) : State :=
  mxCount x q (teamCount x team (mxReserve x (mxQueue x q s)))

/-- PARAM of a word (10 R244). -/
def mxParam (op : Nat) (f : Fields) (x : Ctx) (l : Nat) : W32 := if op = 0xD9 then x.rd f f.c l else if op = 0xD8 then f.imm else 0

/-- q is the command of an MXE-queue word as it issues in x, on a core that stands as k (10 R243, R244). -/
structure MatrixCommand (op : Nat) (f : Fields) (x : Ctx) (l : Nat) (k : Core) (q : MCmd) : Prop where
  opc : q.opc = op
  fields : q.f = f
  ta : q.ta = x.rdT f.a
  tb : q.tb = x.rdT f.b
  param : q.param = mxParam op f x l
  acc : q.acc = if op = 0xD9 then bits (mxParam op f x l).toNat 29 25 else x.na f f.c l
  issuer : q.by_ = issuerOf x op f l
  id : q.id = k.nextCmd
  ord : q.ord = k.nextOrd
  ordinal : q.ordinal = x.wv.mstat.issued
  spilled : q.spilled = decide (64 ≤ (k.mx.filter (fun m => !m.spilled)).length)
  accepted : q.accepted = false
  started : q.started = false

/-- An MXE-queue word puts its command and tries to accept it. -/
theorem mxIssue_eq {op : Nat} {f : Fields} {s : State} {x : Ctx} {l : Nat} (h : Issues op f s x) (hl : (x.active f).head? = some l) :
    ∃ q, mxIssue op f s = .next (mxAccept (mxPut x (op != 0xDA && (mxParam op f x l).getLsbD 24) q s) x.core q.id) ∧
      MatrixCommand op f x l (s.core x.core) q := by
  rw [mxIssue, issueWord_eq h, hl]
  exact ⟨_, rfl, rfl, rfl, rfl, rfl, rfl, rfl, rfl, rfl, rfl, rfl, rfl, rfl, rfl⟩

/-- The wave whose command q has entered the MXE's queue. -/
def Wave.countMatrix (v : Wave) (q : MCmd) : Wave :=
  { v with mstat := { v.mstat with issued := v.mstat.issued + 1 }, flags := bumpFlag v.flags q.by_.flag }

/-- The group whose command q is counted. -/
def Ctx.countMatrix (x : Ctx) (q : MCmd) : Ctx := { x with sl := { x.sl with wave := x.wv.countMatrix q } }

/-- The group whose run has used a place in the MXE's queue. -/
def Ctx.reserveMatrix (x : Ctx) : Ctx := { x with run := { x.run with resM := x.run.resM - 1 } }

theorem mxQueue_issue? {s : State} {x : Ctx} (h : s.issue? = some x) (q : MCmd) : ∃ p d, (mxQueue x q s).issue? = some (x.progress p d) :=
  State.issue?_modCore_progress h rfl rfl rfl

theorem mxReserve_moves {s : State} {x : Ctx} (h : s.issue? = some x) : Moves s (mxReserve x s) x x.reserveMatrix :=
  modRun_moves h (fun r => { r with resM := r.resM - 1 }) rfl rfl

theorem mxCount_moves {s : State} {x : Ctx} (h : s.issue? = some x) (q : MCmd) : Moves s (mxCount x q s) x (x.countMatrix q) := by
  have hcount : mxCount x q s = s.modWave x.core x.wid (fun w => w.countMatrix q) :=
    congrArg (State.modWave _ x.core x.wid) (funext fun w => Wave.raise_eq ..)
  rw [hcount]
  exact modWave_moves h (fun w => w.countMatrix q) rfl rfl rfl

/-- A change of the wave's gang that keeps the depths of its rings. -/
theorem modGang_issue? {s : State} {x : Ctx} (h : s.issue? = some x) {k : Gang → Gang} (hk : ∀ g, (k g).ringdepth = g.ringdepth) :
    (s.modGang x.core x.wv.gang k).issue? = some x := by
  rw [State.modGang]
  refine State.issue?_modCore h rfl rfl rfl rfl ?_
  rw [Tab.get?_adj_self, Option.map_map]
  exact congrArg (Option.map · _) (funext hk)

theorem teamCount_issue? {s : State} {x : Ctx} (h : s.issue? = some x) (team : Bool) : (teamCount x team s).issue? = some x := by
  cases team with
  | false => exact h
  | true => exact modGang_issue? h fun _ => rfl

theorem teamCount_onlyQueue (s : State) (x : Ctx) (team : Bool) : OnlyQueue s (teamCount x team s) x := by
  cases team with
  | false => exact .refl s x
  | true => exact .modGang ..

theorem teamCount_core (s : State) (x : Ctx) (team : Bool) :
    (teamCount x team s).core x.core = { s.core x.core with gangs := ((teamCount x team s).core x.core).gangs } := by
  cases team with
  | false => rfl
  | true =>
    rw [teamCount, if_pos rfl, State.core_modGang]

theorem teamCount_gang? (s : State) (x : Ctx) (team : Bool) :
    (teamCount x team s).gang? x.core x.wv.gang =
      (s.gang? x.core x.wv.gang).map (fun g => if team = true then { g with teamN := g.teamN + 1 } else g) := by
  cases team with
  | false => exact (congrFun Option.map_id _).symm
  | true => exact State.gang?_modGang ..

/-- What stands after a command has entered the MXE's queue. -/
theorem mxPut_puts {s : State} {x : Ctx} (h : s.issue? = some x) (team : Bool) (q : MCmd) :
    ∃ y, (mxPut x team q s).issue? = some y ∧ OnlyQueue s (mxPut x team q s) x ∧
      (mxPut x team q s).core x.core = { s.core x.core with
        slots := ((mxPut x team q s).core x.core).slots, quarters := ((mxPut x team q s).core x.core).quarters,
        gangs := ((mxPut x team q s).core x.core).gangs,
        mx := (s.core x.core).mx ++ [q], nextCmd := (s.core x.core).nextCmd + 1, nextOrd := (s.core x.core).nextOrd + 1 } ∧
      y.core = x.core ∧ y.wid = x.wid ∧ y.wv = x.wv.countMatrix q ∧ y.run.resM = x.run.resM - 1 ∧
      (mxPut x team q s).gang? x.core x.wv.gang =
        (s.gang? x.core x.wv.gang).map (fun g => if team = true then { g with teamN := g.teamN + 1 } else g) := by
  obtain ⟨p, d, hissue⟩ := mxQueue_issue? h q
  have hreserve : Moves (mxQueue x q s) (mxReserve x (mxQueue x q s)) (x.progress p d) (x.progress p d).reserveMatrix :=
    mxReserve_moves hissue
  have hteam : (teamCount x team (mxReserve x (mxQueue x q s))).issue? = some (x.progress p d).reserveMatrix :=
    teamCount_issue? hreserve.1 team
  have hcount : Moves (teamCount x team (mxReserve x (mxQueue x q s))) (mxPut x team q s) (x.progress p d).reserveMatrix
      ((x.progress p d).reserveMatrix.countMatrix q) := mxCount_moves hteam q
  have hreserveOnly : OnlyWave (mxQueue x q s) (mxReserve x (mxQueue x q s)) x.core x.quarter x.wid := hreserve.2
  have hcountOnly : OnlyWave (teamCount x team (mxReserve x (mxQueue x q s))) (mxPut x team q s) x.core x.quarter x.wid := hcount.2
  have hqueue : OnlyQueue s (mxQueue x q s) x := .modCore s x rfl
  have hqueueCore : (mxQueue x q s).core x.core = { s.core x.core with
    mx := (s.core x.core).mx ++ [q], nextCmd := (s.core x.core).nextCmd + 1, nextOrd := (s.core x.core).nextOrd + 1 } :=
    State.core_modCore ..
  refine ⟨_, hcount.1, ((hqueue.trans (.of_onlyWave hreserveOnly)).trans (teamCount_onlyQueue _ x team)).trans (.of_onlyWave hcountOnly),
    ?core, rfl, rfl, rfl, rfl, ?gang⟩
  case core =>
    have hkept := hcountOnly.core
    have hgangs : ((mxPut x team q s).core x.core).gangs = ((teamCount x team (mxReserve x (mxQueue x q s))).core x.core).gangs := by
      rw [hkept]
    rw [teamCount_core, hreserveOnly.core, hqueueCore, ← hgangs] at hkept
    exact hkept
  case gang =>
    rw [hcountOnly.gang?, teamCount_gang?, hreserveOnly.gang?, State.gang?, hqueueCore]
    rfl

/-- The words of the MXE's queue (10 R244). -/
theorem exec_matrixWord {op : Nat} {mk : Fields → Instr}
    (hword : (op, mk) ∈ ([(0xD8, .mxloop), (0xD9, .mxstep), (0xDA, .mxzero)] : List (Nat × (Fields → Instr)))) (f : Fields) (s : State) :
    exec (mk f) s = mxIssue op f s := by
  simp only [List.mem_cons, Prod.mk.injEq, List.not_mem_nil, or_false] at hword
  obtain ⟨rfl, rfl⟩ | ⟨rfl, rfl⟩ | ⟨rfl, rfl⟩ := hword <;> rfl

theorem saysMatrixWordsQueueCommands : SaysMatrixWordsQueueCommands := by
  intro f s x l op mk hword h hl hbehind hempty param
  obtain ⟨q, hissue, hq⟩ := mxIssue_eq h hl
  obtain ⟨y, hy, honly, hcore, hycore, hywid, hywv, hres, hgang⟩ :=
    mxPut_puts h.here (op != 0xDA && (mxParam op f x l).getLsbD 24) q
  generalize mxPut x _ q s = t at hissue hy honly hcore hgang
  rw [hempty, List.nil_append] at hcore
  have hbehindAfter : BehindWrite y := by
    rw [BehindWrite, hywv]
    exact hbehind
  have hready : engReady t x.core q.by_ = false := by
    rw [hq.issuer]
    exact engReady_of_behindWrite hy hbehindAfter hycore hywid (by rw [hywv]; rfl) (by rw [hywv]; rfl) op f l
  rw [mxAccept_of_not_ready (by rw [hcore]) hready] at hissue
  have hflags : y.wv.flags = bumpFlag x.wv.flags (x.flag op f) := by
    rw [hywv]
    exact congrArg (fun i : Issuer => bumpFlag x.wv.flags i.flag) hq.issuer
  have hspilled : q.spilled = false := by rw [hq.spilled, hempty]; rfl
  have hcounted : t.gang? x.core x.wv.gang = (s.gang? x.core x.wv.gang).map (fun g =>
      if op ≠ 0xDA ∧ param.getLsbD 24 = true then { g with teamN := g.teamN + 1 } else g) := by
    rw [hgang]
    simp only [Bool.and_eq_true, bne_iff_ne]
    rfl
  exact ⟨t, y, q, (exec_matrixWord hword f s).trans hissue, hy, honly, by rw [hcore], hq.opc, hq.fields, hq.ta, hq.tb, hq.param, hq.acc,
    hq.issuer, hq.id, hq.ord, hq.ordinal, hspilled, hq.accepted, hq.started, by rw [hcore], by rw [hcore], by rw [hywv]; rfl,
    by rw [hywv]; rfl, hflags, hres, hcounted⟩

/-! ### The rings of spilled commands and stamps (10 R243) -/

/-- The powers of two that a ring's count may be. -/
theorem pow2In_ring_iff (n : Nat) :
    pow2In n 64 65536 = true ↔ n ∈ [64, 128, 256, 512, 1024, 2048, 4096, 8192, 16384, 32768, 65536] := by
  constructor
  · intro h
    simp only [pow2In, Bool.and_eq_true, decide_eq_true_eq, beq_iff_eq] at h
    obtain ⟨⟨hlo, hhi⟩, hpow⟩ := h
    rw [hpow] at hlo hhi
    have hleast : 6 ≤ n.log2 := (Nat.pow_le_pow_iff_right (a := 2) (by decide)).mp hlo
    have hmost : n.log2 ≤ 16 := (Nat.pow_le_pow_iff_right (a := 2) (by decide)).mp hhi
    rw [hpow]
    generalize n.log2 = k at hleast hmost
    interval_cases k <;> decide
  · exact fun h => (by decide : ∀ m ∈ [64, 128, 256, 512, 1024, 2048, 4096, 8192, 16384, 32768, 65536], pow2In m 64 65536 = true) n h

/-- A ring's base or count out of form. -/
theorem ring_out_of_form_iff (base : W64) (n : Nat) :
    (base.toNat % 64 ≠ 0 ∨ ¬(n = 0 ∨ pow2In n 64 65536 = true)) ↔
      (base.toNat % 64 ≠ 0 ∨ n ∉ [0, 64, 128, 256, 512, 1024, 2048, 4096, 8192, 16384, 32768, 65536]) := by
  rw [pow2In_ring_iff, ← List.mem_cons]

/-- MXQSET's change of its gang where its status is st. -/
def ringSet (x : Ctx) (stamp : Bool) (base : W64) (n : Nat) (st : W32) (s : State) : State :=
  if st ≠ 0 then s
  else s.modGang x.core x.wv.gang (fun g => if stamp then { g with stBase := base, stN := n } else { g with spBase := base, spN := n })

theorem ringSet_issue? {s : State} {x : Ctx} (h : s.issue? = some x) (stamp : Bool) (base : W64) (n : Nat) (st : W32) :
    (ringSet x stamp base n st s).issue? = some x := by
  unfold ringSet
  split
  · exact h
  · exact modGang_issue? h fun g => by cases stamp <;> rfl

theorem ringSet_onlyQueue (s : State) (x : Ctx) (stamp : Bool) (base : W64) (n : Nat) (st : W32) :
    OnlyQueue s (ringSet x stamp base n st s) x := by
  unfold ringSet
  split
  · exact .refl s x
  · exact .modGang ..

theorem ringSet_gang? {s : State} {x : Ctx} {g : Gang} (hg : s.gang? x.core x.wv.gang = some g) (stamp : Bool) (base : W64) (n : Nat) (st : W32) :
    (ringSet x stamp base n st s).gang? x.core x.wv.gang = some (if st ≠ 0 then g
      else if stamp then { g with stBase := base, stN := n } else { g with spBase := base, spN := n }) := by
  unfold ringSet
  split
  · exact hg
  · rw [State.gang?_modGang, hg]
    rfl

/-- MXQSET's status. -/
def ringStatus (s : State) (x : Ctx) (stamp : Bool) (base : W64) (n : Nat) : W32 :=
  if base.toNat % 64 ≠ 0 ∨ n ∉ [0, 64, 128, 256, 512, 1024, 2048, 4096, 8192, 16384, 32768, 65536] then 2
  else if !stamp && (s.core x.core).mx.any (fun q => q.spilled && q.by_.gang == x.wv.gang) then 1 else 0

theorem mxqset_eq {f : Fields} {s : State} {x : Ctx} {l : Nat} (h : Issues 0xDC f s x) (hl : (x.active f).head? = some l) (stamp : Bool) :
    let st := ringStatus s x stamp (x.rd64 f f.a l) (x.na f f.b l)
    mxqset f stamp s = .next (writeEnd x f (writesOf (fun f _ l => wr32 f.dst l st) f x)
      (ringSet x stamp (x.rd64 f f.a l) (x.na f f.b l) st s)) := by
  have hsome : x.active f ≠ [] := fun hnone => by rw [hnone] at hl; cases hl
  rw [mxqset, groupWord_eq h hsome, hl]
  simp only [ring_out_of_form_iff]
  rfl

theorem saysMatrixRingsSet : SaysMatrixRingsSet := by
  intro f s x l g stamp h hl hg base n held st
  have hexec : exec (if stamp then .mxqsetStmr f else .mxqsetCmdr f) s = mxqset f stamp s := by cases stamp <;> rfl
  obtain ⟨y, ⟨hissue, honly⟩, hwrote⟩ := writeEnd_wrote_noExc (ringSet_issue? h.here stamp base n st) f
    (writesOf (fun f _ l => wr32 f.dst l st) f x)
  have hregs : y.wv.regs = x.wv.regs := by rw [Ctx.wv, hwrote.wave]
  have helems : (writesOf (fun f _ l => wr32 f.dst l st) f x).map RegWrite.elem = (x.destLanes f).flatMap (fun l => destElems f.dst l 1) := by
    simp only [writesOf, List.map_flatMap, wr32_elems]
  refine ⟨_, y, hexec.trans (mxqset_eq h hl stamp), hissue, (ringSet_onlyQueue ..).trans (.of_onlyWave honly), ?_, hregs, ?_⟩
  · exact (honly.gang? _).trans (ringSet_gang? hg stamp base n st)
  · rw [hwrote.writes, helems]

/-- Settles O33: three words put one command, which waits behind the write; MXQSET is a change of its gang and a write for the end of
the run. -/
theorem matrixWords : Obligations.MatrixWords := ⟨saysMatrixWordsQueueCommands, saysMatrixRingsSet⟩

end Sys2Proof.Machine
end

section
open Sys2Proof Sys2Proof.Machine

namespace Sys2Proof.Machine

/-! ## SQPOP of a record that shares its sequence number (11 R267, R273) -/

@[simp] theorem exec_sqpop_eq (f : Fields) (s : State) : exec (.sqpop f) s = execSqpop f s := by rfl

/-- SQPOP of the queue at the G offset in u8, into u8. -/
def popFields : Fields := loneFields (.uni 8) (.uni 8) .absent .absent 0

/-- A DONE record in slot 0 of a split queue. -/
def doneSplit : SplitRec := { (default : SplitRec) with seq := 0, off := 0, state := 2 }

/-- An OPEN record in slot 1, under the sequence number of the DONE one. -/
def openSplit : SplitRec := { (default : SplitRec) with seq := 0, off := 64, state := 0 }

/-- A query with a split queue of three slots at G offset 0, as where its sequence numbers, of 32 bits, have come round: record 2^32
stands in slot 1 under the number of record 0. The records between are left out. -/
def wrappedQuery : Query :=
  { (default : Query) with by_ := { (default : Issuer) with gang := loneCtx.wv.gang },
                           qrec := List.replicate 36 0 ++ [3, 0], recs := [doneSplit, openSplit] }

/-- That query is live in the core's Colander. -/
def wrappedState : State := loneState.modCore 0 (fun k => { k with col := { k.col with live := [wrappedQuery] } })

theorem wrappedState_issues : wrappedState.issue?.isSome = true := by decide +kernel

/-- The group that issues there. -/
def wrappedCtx : Ctx := wrappedState.issue?.get wrappedState_issues

theorem wrappedState_sqpop_issues : Issues 0xEB popFields wrappedState wrappedCtx :=
  ⟨(Option.some_get _).symm, by decide +kernel, by decide +kernel, by decide +kernel, by decide +kernel⟩

/-- The first OPEN record of the queue that SQPOP names is the one in slot 1. -/
theorem wrappedState_ready :
    (queueAt? wrappedState wrappedCtx.core wrappedCtx.wv.gang (wrappedCtx.na popFields popFields.a ((wrappedCtx.active popFields).headD 0))).bind
      (fun q => (q.recs.find? (fun r => r.state == 0)).map (fun r => (q, r))) = some (wrappedQuery, openSplit) := by
  decide +kernel

/-- SQPOP looks its record up by number: it marks the STATE byte of slot 0 and leaves that of slot 1 as it was. -/
theorem wrappedState_marks :
    (execSqpop popFields wrappedState).state?.map (fun t =>
      (locByte t wrappedCtx.core wrappedCtx.wv.gang .g (doneSplit.off + 37), locByte t wrappedCtx.core wrappedCtx.wv.gang .g (openSplit.off + 37))) =
        some (1, 0) := by
  decide +kernel

/-- Refutes O37: nothing asks that the sequence numbers of a query's records differ; where the OPEN record shares its number with an
earlier one, SQPOP marks CLAIMED in G the slot of the earlier, and the statement has it mark the slot of the one that it claims. -/
theorem not_colanderWordsIssue : ¬ Obligations.ColanderWordsIssue := by
  intro h
  obtain ⟨-, -, hpop, -⟩ := h
  obtain ⟨t, y, hexec, -, -, -, hbytes, -⟩ := hpop popFields wrappedState wrappedCtx wrappedState_sqpop_issues (by decide +kernel)
    (by decide +kernel) (by decide +kernel)
  have hclaimed : locByte t wrappedCtx.core wrappedCtx.wv.gang .g (openSplit.off + 37) = 1 := by
    have hbyte := hbytes (openSplit.off + 37)
    rw [wrappedState_ready] at hbyte
    exact hbyte.trans (if_pos rfl)
  have hmarks := wrappedState_marks
  rw [← exec_sqpop_eq, hexec, Res.state?, Option.map_some, hclaimed] at hmarks
  have hsame : (1 : Byte) = 0 := (Prod.mk.inj (Option.some.inj hmarks)).2
  exact absurd hsame (by decide)

end Sys2Proof.Machine
end

section
open Sys2Proof Sys2Proof.Machine

namespace Sys2Proof.Machine

/-! ## Words of the texture unit, the Stockpot and the vertex and fragment exports at their issue (12 R282, R285, R291 to R296, R299) -/

/-! ### TEXQ in exec -/

@[simp] theorem exec_texq_eq (f : Fields) (s : State) : exec (.texq f) s = execTexq f s := by rfl

/-! ### An operation with a wake flag (02 R58; 12 R284) -/

theorem addOp_eq (x : Ctx) (o : Op) (s : State) : addOp x o s = s.modWave x.core x.wid (fun w => { w with
    flags := bumpFlag (bumpFlag w.flags o.flag) o.wake, ops := w.ops ++ [{ o with id := w.nextOp }], nextOp := w.nextOp + 1 }) := by
  simp only [addOp, Wave.raise_eq]

/-- addOp attaches its operation, whatever flags it raises. -/
theorem addOp_attaches {s : State} {x : Ctx} (h : s.issue? = some x) (o : Op) : Moves s (addOp x o s) x (x.attach o) := by
  rw [addOp_eq]
  exact modWave_moves h (fun w => { w with
    flags := bumpFlag (bumpFlag w.flags o.flag) o.wake, ops := w.ops ++ [{ o with id := w.nextOp }], nextOp := w.nextOp + 1 }) rfl rfl rfl

/-- A word whose effect, where it issues and hyp holds, is one operation, whatever flags it raises. -/
theorem attaches_of_eq_addOp {op : Nat} {mk : Fields → Instr} {hyp : Fields → State → Ctx → Prop} {o : Fields → Ctx → Op}
    (hexec : ∀ f s x, Issues op f s x → hyp f s x → exec (mk f) s = .next (addOp x (o f x) s)) : Attaches op mk hyp o := by
  intro f s x h hhyp
  have hmoves := addOp_attaches h.here (o f x)
  exact ⟨_, _, hexec f s x h hhyp, hmoves.1, hmoves.2, x.attached _⟩

/-! ### Texture words (12 R293, R294) -/

/-- TEX and TEXG are words of the texture unit. -/
theorem exec_textureWord {op : Nat} {mk : Fields → Instr}
    (hword : (op, mk) ∈ ([(0xE0, .tex), (0xE1, .texg)] : List (Nat × (Fields → Instr)))) (f : Fields) (s : State) :
    exec (mk f) s = texWord op f s := by
  simp only [List.mem_cons, Prod.mk.injEq, List.not_mem_nil, or_false] at hword
  obtain ⟨rfl, rfl⟩ | ⟨rfl, rfl⟩ := hword <;> rfl

/-- No lane traps where no texel is refused. -/
theorem texTraps_nil : texTraps [] = [] := by decide

/-- The operation of TEX or TEXG with descriptor d, whose texel reads are lanes ls and whose free slice is k. -/
def texOp (op : Nat) (f : Fields) (x : Ctx) (k : Nat) (ls : List LaneOp) : Op :=
  { x.op op f with lanes := ls, m := k, bytes := texKeep (x.rdT f.a) (x.rd128 f.b) }

/-- A texture word whose texel reads all go on: its one effect is its operation. -/
theorem texWord_eq {op : Nat} {f : Fields} {s : State} {x : Ctx} {ws : List Want} {ks ls : List LaneOp} {k : Nat} (h : Issues op f s x)
    (hlegal : texLegal (x.rdT f.a).toNat = true) (hk : k = Config.unstated 0xE1 (x.rdT f.a).toNat s.free)
    (hwants : texWants op (Tex.of (x.rdT f.a).toNat) k x f = (ws, ks))
    (hchecks : checkWants { s with free := s.free + 1 } x op (texBytes (Tex.of (x.rdT f.a).toNat).fmt) (accR x.g.level) ws [] [] [] =
      ({ s with free := s.free + 1 }, [], ls)) (hsome : ks ++ ls ≠ []) :
    texWord op f s = .next (takeLog (addOp x (texOp op f x k (ks ++ ls)) { s with free := s.free + 1 }) x.core x.wid x.wv.nextOp) := by
  have hempty : (ks ++ ls).isEmpty = false := by rw [List.isEmpty_eq_false_iff]; exact hsome
  have hall : ls.filter (fun l => !([] : List (Nat × Nat × W64)).any (fun p => p.1 == texOwner l.lane)) = ls :=
    List.filter_eq_self.mpr fun _ _ => rfl
  rw [texWord, issueWord_eq h]
  subst hk
  simp only [hlegal, Bool.true_eq_false, if_false, hwants, hchecks, texTraps_nil, laneTraps_nil, hall, hempty, Bool.false_eq_true, texOp]

/-- An operation attached to a wave without another takes no log entry where none of its lanes is logged. -/
theorem takeLog_addOp {s : State} {x : Ctx} (h : s.issue? = some x) (halone : x.wv.ops = []) {o : Op} (hlogged : o.anyLogged = false) :
    takeLog (addOp x o s) x.core x.wid x.wv.nextOp = addOp x o s := by
  have hslot : (addOp x o s).slot? x.core x.wid = some (x.attach o).sl := State.slot?_issue (addOp_attaches h o).1
  exact takeLog_of_not_logged hslot (o := { o with id := x.wv.nextOp }) (by simp [Ctx.attach, Wave.op?, halone]) hlogged

/-- The entry of a lane that reads no texel is known at issue. -/
theorem texWants_known (op : Nat) (t : Tex) (k : Nat) (x : Ctx) (f : Fields) : ∀ l, l ∈ (texWants op t k x f).2 → l.st = .known := by
  intro l hl
  obtain ⟨p, -, rfl⟩ := List.mem_map.mp hl
  rfl

theorem saysTextureWordsIssueTexelReads : SaysTextureWordsIssueTexelReads := by
  intro f s x e r op mk hword h hlegal halone t k ws ks hsome hreach
  have hfree : ({ s with free := s.free + 1 } : State).issue? = some x := h.here
  have hchecks := checkWants_reaches (s := { s with free := s.free + 1 }) (o := op) (e := e) halone ws [] []
    (fun w hw => (hreach w hw).2) (fun w hw => (hreach w hw).1) (.inl rfl)
  rw [List.nil_append] at hchecks
  have hnonempty : ks ++ ws.map (laneAt x e) ≠ [] := by
    rw [ne_eq, List.append_eq_nil_iff, List.map_eq_nil_iff, not_and_or]
    exact hsome.symm
  have hlogged : (texOp op f x k (ks ++ ws.map (laneAt x e))).anyLogged = false := anyLogged_eq_false fun l hl => by
    rcases List.mem_append.mp hl with hl | hl
    · exact .inr (texWants_known op t k x f l hl)
    · obtain ⟨w, -, rfl⟩ := List.mem_map.mp hl
      exact .inl rfl
  have hmoves := addOp_attaches hfree (texOp op f x k (ks ++ ws.map (laneAt x e)))
  have hexec := (exec_textureWord hword f s).trans (texWord_eq (k := k) (ws := ws) (ks := ks) h hlegal rfl rfl hchecks hnonempty)
  rw [takeLog_addOp hfree halone hlogged] at hexec
  exact ⟨_, _, hexec, hmoves.1, hmoves.2, x.attached _⟩

/-- TEXQ's operation, with the queried value of lanes ls. -/
def texqOp (f : Fields) (x : Ctx) (ls : List Nat) : Op :=
  { x.op 0xE2 f with
    lanes := ls.map knownLane,
    writes := ls.flatMap (fun l => wr32 f.dst l (BitVec.ofNat 32 ((Tex.of (x.rdT f.a).toNat).query (f.m 0 2) (x.na f f.b l)))) }

/-- TEXQ with a legal descriptor answers in its destination's lanes. -/
theorem execTexq_eq {f : Fields} {s : State} {x : Ctx} {ls : List Nat} (h : Issues 0xE2 f s x) (hlegal : texLegal (x.rdT f.a).toNat = true)
    (hls : (if isOnce f.dst = true then (x.active f).take 1 else x.acting f) = ls) (hsome : ls ≠ []) :
    execTexq f s = .next (addOp x (texqOp f x ls) s) := by
  have hempty : ls.isEmpty = false := by rw [List.isEmpty_eq_false_iff]; exact hsome
  rw [execTexq, issueWord_eq h]
  simp only [hls, hlegal, hempty, Bool.true_eq_false, Bool.false_eq_true, if_false]
  rfl

theorem saysTextureQueryAnswers : SaysTextureQueryAnswers := by
  refine ⟨attaches_of_eq_addOp fun f s x h hyp => ?lanes, attaches_of_eq_addOp fun f s x h hyp => ?once, fun f s x h hillegal => ?illegal⟩
  case lanes =>
    obtain ⟨hlegal, hsome, honce⟩ := hyp
    exact execTexq_eq h hlegal (if_neg (by rw [honce]; decide)) hsome
  case once =>
    obtain ⟨hlegal, hsome, honce⟩ := hyp
    exact execTexq_eq h hlegal (if_pos honce) (by simpa using hsome)
  case illegal =>
    rw [exec_texq_eq, execTexq, issueWord_eq h]
    simp only [hillegal, if_true]

/-- Settles O34: the texel reads of TEX and TEXG are the lanes of one operation; TEXQ's operation holds what it answers. -/
theorem texturesReadAndQueried : Obligations.TexturesReadAndQueried := ⟨saysTextureWordsIssueTexelReads, saysTextureQueryAnswers⟩

end Sys2Proof.Machine
end

section
open Sys2Proof Sys2Proof.Machine

namespace Sys2Proof.Machine

/-! ### Stockpot words (12 R282, R285) -/

/-- STK's operation: a lookup of each lane's key. -/
def stkOp (f : Fields) (x : Ctx) : Op :=
  { x.op 0xE3 f with
    wake := flagOf x.g.hdr (!f.sf),
    lanes := (x.acting f).map (fun l => { lane := l, va := x.rd64 f f.a l, src := 0, src2 := 0, tgt := .none, st := .ready }) }

theorem execStk_eq {f : Fields} {s : State} {x : Ctx} (h : Issues 0xE3 f s x) (hsome : x.acting f ≠ []) :
    execStk f s = .next (addOp x (stkOp f x) s) := by
  rw [execStk, issueWord_eq h]
  simp only [List.isEmpty_eq_false_iff.mpr (mt List.map_eq_nil_iff.mp hsome), Bool.false_eq_true, if_false, stkOp]

/-- STKDROP's operation: each lane's key and slot. -/
def stkdropOp (f : Fields) (x : Ctx) : Op :=
  { x.op 0xE5 f with
    lanes := (x.acting f).map (fun l =>
      { lane := l, va := x.rd64 f f.a l, src := (x.rd f f.b l).setWidth 128, src2 := 0, tgt := .none, st := .waiting }) }

theorem execStkdrop_eq {f : Fields} {s : State} {x : Ctx} (h : Issues 0xE5 f s x) (hsome : x.acting f ≠ []) :
    execStkdrop f s = .next (addOp x (stkdropOp f x) s) := by
  rw [execStkdrop, issueWord_eq h]
  simp only [List.isEmpty_eq_false_iff.mpr (mt List.map_eq_nil_iff.mp hsome), Bool.false_eq_true, if_false, stkdropOp]

theorem memBytes_length (m : List Host.Cell) (o n : Nat) : (memBytes m o n).length = n := by simp [memBytes]

theorem clearBits_length (ps : List (Nat × Nat)) (o : Nat) (bs : List Byte) : (clearBits ps o bs).length = bs.length := by
  rw [clearBits]
  split
  · rfl
  · rw [List.length_map, List.length_zipIdx]

theorem locRead_length (s : State) (c gang : Nat) (b : Buf) (o n : Nat) : (locRead s c gang b o n).1.length = n := memBytes_length ..

theorem locReadFor_length (s : State) (c gang uid : Nat) (b : Buf) (o n : Nat) : (locReadFor s c gang uid b o n).1.length = n := by
  have hread := locRead_length s c gang b o n
  unfold locReadFor
  split
  next hlocal =>
    rw [hlocal] at hread
    split
    · exact (clearBits_length ..).trans hread
    · exact hread

/-- A fill holds 512 bytes and the byte of its poisoned lines. -/
theorem fillRead_length (s : State) (c gang uid o : Nat) : (fillRead s c gang uid o).length = 513 := by
  rw [fillRead, List.length_append, List.length_flatMap, leBytes_length]
  simp only [locReadFor_length]
  decide

/-- The entry of a fill's lane that asks for slot b with the bytes at G's o. -/
def fillLane (f : Fields) (x : Ctx) (l : Nat) : LaneOp :=
  { lane := l, va := x.rd64 f f.a l, src := BitVec.ofNat 128 (x.na f f.b l + 2 ^ 32 * x.na f f.c l), src2 := 0, tgt := .none, st := .ready }

/-- The entry keeps G's offset above its slot. -/
theorem fillLane_offset (f : Fields) (x : Ctx) (l : Nat) : (fillLane f x l).src.toNat / 2 ^ 32 = x.na f f.c l := by
  have hb : x.na f f.b l < 2 ^ 32 := (x.rd f f.b l).isLt
  have hc : x.na f f.c l < 2 ^ 32 := (x.rd f f.c l).isLt
  simp only [fillLane, BitVec.toNat_ofNat]
  omega

/-- Each lane's bytes of G stand behind those of the lanes before it. -/
theorem fillLoad_fold (f : Fields) (s : State) (x : Ctx) (ls : List Nat) : ∀ (k : Nat) (es : List LaneOp) (bs : List Byte), bs.length = 513 * k →
    (ls.map (fillLane f x)).foldl (fun (p : List LaneOp × List Byte) l =>
      (p.1 ++ [{ l with st := .waiting, src2 := BitVec.ofNat 64 p.2.length }],
       p.2 ++ fillRead s x.core x.wv.gang x.wv.uid (l.src.toNat / 2 ^ 32))) (es, bs) =
    (es ++ (ls.zipIdx k).map (fun p => { fillLane f x p.1 with st := .waiting, src2 := BitVec.ofNat 64 (513 * p.2) }),
     bs ++ ls.flatMap (fun l => fillRead s x.core x.wv.gang x.wv.uid (x.na f f.c l))) := by
  induction ls with
  | nil => simp
  | cons l ls ih =>
    intro k es bs hk
    rw [List.map_cons, List.foldl_cons, fillLane_offset, hk]
    rw [ih (k + 1) _ _ (by rw [List.length_append, hk, fillRead_length, Nat.mul_succ])]
    simp only [List.zipIdx_cons, List.map_cons, List.flatMap_cons, List.append_assoc, List.singleton_append]

/-- STKFILL's operation: each lane's key, slot and 513 bytes. -/
def stkfillOp (f : Fields) (s : State) (x : Ctx) : Op :=
  { x.op 0xE4 f with
    lanes := (x.acting f).zipIdx.map (fun p => { fillLane f x p.1 with st := .waiting, src2 := BitVec.ofNat 64 (513 * p.2) }),
    bytes := (x.acting f).flatMap (fun l => fillRead s x.core x.wv.gang x.wv.uid (x.na f f.c l)) }

/-- A fill in G's bounds passes its check. -/
theorem fillCheck_none {s : State} {c gang o : Nat} (haligned : o % 64 = 0) (hrange : o + 512 ≤ bufSize s c gang .g) :
    fillCheck s c gang o = none := by
  rw [fillCheck, if_neg (not_not_intro haligned), if_neg (Nat.not_lt.mpr hrange)]

theorem execStkfill_eq {f : Fields} {s : State} {x : Ctx} (h : Issues 0xE4 f s x) (hsome : x.acting f ≠ []) (halone : x.wv.ops = [])
    (hrange : ∀ l, l ∈ x.acting f → x.na f f.c l % 64 = 0 ∧ x.na f f.c l + 512 ≤ bufSize s x.core x.wv.gang .g) :
    execStkfill f s = .next (addOp x (stkfillOp f s x) s) := by
  have hchecks : (x.acting f).map (fun l =>
      (({ lane := l, va := x.rd64 f f.a l, src := BitVec.ofNat 128 ((x.rd f f.b l).toNat + 2 ^ 32 * (x.rd f f.c l).toNat), src2 := 0,
          tgt := .none, st := .ready } : LaneOp), fillCheck s x.core x.wv.gang (x.rd f f.c l).toNat)) =
      (x.acting f).map (fun l => (fillLane f x l, none)) :=
    List.map_congr_left fun l hl => Prod.ext rfl (fillCheck_none (hrange l hl).1 (hrange l hl).2)
  have hempty : ((x.acting f).map (fillLane f x)).isEmpty = false := List.isEmpty_eq_false_iff.mpr (mt List.map_eq_nil_iff.mp hsome)
  have hload : fillLoad s x.core x.wv.gang x.wv.uid ((x.acting f).map (fillLane f x)) = ((stkfillOp f s x).lanes, (stkfillOp f s x).bytes) :=
    fillLoad_fold f s x (x.acting f) 0 [] [] rfl
  have htrap : ∀ ls : List Nat, (ls.map (fun l => (fillLane f x l, (none : Option Nat)))).filterMap
      (fun r => r.2.map (fun c => (r.1.lane, c, BitVec.ofNat 64 (r.1.src.toNat / 2 ^ 32)))) = [] := fun ls => by
    rw [List.filterMap_map]; exact List.filterMap_eq_nil_iff.mpr fun _ _ => rfl
  have hpass : ∀ ls : List Nat, ((ls.map (fun l => (fillLane f x l, (none : Option Nat)))).filter (fun r => r.2.isNone)).map Prod.fst =
      ls.map (fillLane f x) := fun ls => by
    rw [List.filter_eq_self.mpr fun r hr => by obtain ⟨_, _, rfl⟩ := List.mem_map.mp hr; rfl, List.map_map]; rfl
  have hgate : ((x.acting f).map (fillLane f x)).any (fun l => gated x.wv x.wv.nextOp (some l.lane)) = false :=
    List.any_eq_false.mpr fun l _ => by rw [gated, halone]; exact Bool.false_ne_true
  have hblock : localBlocked x.wv x.wv.nextOp = false := by rw [localBlocked, halone]; rfl
  rw [execStkfill, issueWord_eq h]
  simp only [hchecks, htrap, hpass, laneTraps_nil, hempty, hgate, hblock, hload, Bool.or_self, Bool.false_eq_true, if_false]
  rfl

/-- Settles O35: each word's one effect is an operation with an entry per acting lane. -/
theorem stockpotWordsIssue : Obligations.StockpotWordsIssue := by
  refine ⟨attaches_of_eq_addOp fun f s x h hsome => execStk_eq h hsome, attaches_of_eq_addOp fun f s x h hsome => execStkdrop_eq h hsome,
    fun f s x h hsome halone hrange => ?fill⟩
  case fill =>
    have hmoves := addOp_attaches h.here (stkfillOp f s x)
    exact ⟨_, _, execStkfill_eq h hsome halone hrange, hmoves.1, hmoves.2, x.attached _⟩

end Sys2Proof.Machine
end

section
open Sys2Proof Sys2Proof.Machine

namespace Sys2Proof.Machine

/-! ### Export words (12 R296, R299) -/

/-- t is s with the numbered operation o attached to the wave of x, whose group y now is. -/
structure Exports (s t : State) (x y : Ctx) (o : Op) : Prop where
  only : OnlyQueue s t x
  ord : (t.core x.core).nextOrd = (s.core x.core).nextOrd + 1
  regs : y.wv.regs = x.wv.regs
  ops : y.wv.ops = x.wv.ops ++ [{ o with n := (s.core x.core).nextOrd }]
  group : y.g = x.g

theorem Exports.added {s t : State} {x y : Ctx} {o : Op} (h : Exports s t x y o) : OnlyQueue s t x ∧
    (t.core x.core).nextOrd = (s.core x.core).nextOrd + 1 ∧ y.wv.regs = x.wv.regs ∧
    y.wv.ops = x.wv.ops ++ [{ o with n := (s.core x.core).nextOrd }] ∧ y.g = x.g := ⟨h.only, h.ord, h.regs, h.ops, h.group⟩

/-- The exporting operation of a word. -/
def expOp (x : Ctx) (o : Nat) (f : Fields) (ls : List LaneOp) (bytes : List Byte) : Op := { x.op o f with lanes := ls, bytes := bytes }

theorem exportOp_nil (x : Ctx) (o : Nat) (f : Fields) (bytes : List Byte) (s : State) : exportOp x o f [] bytes s = s := rfl

theorem exportOp_eq {ls : List LaneOp} (hsome : ls ≠ []) (x : Ctx) (o : Nat) (f : Fields) (bytes : List Byte) (s : State) :
    exportOp x o f ls bytes s = addOp x { expOp x o f ls bytes with n := (s.core x.core).nextOrd }
      (s.modCore x.core (fun k => { k with nextOrd := (s.core x.core).nextOrd + 1 })) := by
  rw [exportOp, List.isEmpty_eq_false_iff.mpr hsome]
  rfl

/-- A word that exports some lane attaches its operation under the core's next ordinal; gangs and the wave's fragments stay. -/
theorem exportOp_exports {s : State} {x : Ctx} (h : s.issue? = some x) {ls : List LaneOp} (hsome : ls ≠ []) (o : Nat) (f : Fields)
    (bytes : List Byte) : ∃ y, (exportOp x o f ls bytes s).issue? = some y ∧
      ((exportOp x o f ls bytes s).core x.core).gangs = (s.core x.core).gangs ∧ y.wv.surf = x.wv.surf ∧
      Exports s (exportOp x o f ls bytes s) x y (expOp x o f ls bytes) := by
  rw [exportOp_eq hsome]
  have hnumber : OnlyQueue s (s.modCore x.core (fun k => { k with nextOrd := (s.core x.core).nextOrd + 1 })) x := .modCore s x rfl
  obtain ⟨p, d, hissue⟩ := State.issue?_modCore_progress h (k := fun k => { k with nextOrd := (s.core x.core).nextOrd + 1 }) rfl rfl rfl
  have hadd : Moves _ (addOp (x.progress p d) _ _) (x.progress p d) _ := addOp_attaches hissue { expOp x o f ls bytes with n := (s.core x.core).nextOrd }
  have honly : OnlyWave _ (addOp x { expOp x o f ls bytes with n := (s.core x.core).nextOrd } _) x.core x.quarter x.wid := hadd.2
  refine ⟨_, hadd.1, ?gangs, rfl, hnumber.trans (.of_onlyWave honly), ?ord, rfl, rfl, rfl⟩
  case gangs => rw [honly.core, State.core_modCore]
  case ord => rw [honly.core, State.core_modCore]

/-- A group's lanes after the trap of no lane. -/
theorem maskOf_not_mem_nil : maskOf (fun l => ([] : List Nat).contains l) = 0#32 := by decide

/-- Lanes ls leave the issuing group: the first thing that a trap in them does. -/
def leaveGroup (x : Ctx) (ls : List Nat) (s : State) : State :=
  s.modGroup x.core x.quarter x.port (fun g => { g with gone := g.gone ||| maskOf (fun l => ls.contains l) })

/-- Where no lane leaves, the same group issues. -/
theorem leaveGroup_nil_moves {s : State} {x : Ctx} (h : s.issue? = some x) : Moves s (leaveGroup x [] s) x x := by
  have hkeep : (fun g : Group => { g with gone := g.gone ||| maskOf (fun l => ([] : List Nat).contains l) }) = id := by
    funext g
    rw [maskOf_not_mem_nil, BitVec.or_zero]
    rfl
  rw [leaveGroup, hkeep]
  have hmoves := modGroup_moves h id (fun _ => rfl) rfl rfl
  have hrun : x.run.groups.map (fun u => if u.port = x.port then id u else u) = x.run.groups := by
    simp only [id_eq, ite_self, List.map_id']
  rw [hrun] at hmoves
  exact hmoves

/-- Where no lane traps, the word goes on in every lane from the state u, in which the same group issues. -/
theorem exportTraps_none {s : State} {x : Ctx} (h : s.issue? = some x) {ls : List Nat} {bad : Nat → Bool}
    (hgood : ∀ l, l ∈ ls → bad l = false) : ∃ u, exportTraps s x ls bad = (u, ls) ∧ Moves s u x x := by
  have hbad : ls.filter bad = [] := List.filter_eq_nil_iff.mpr fun l hl => by rw [hgood l hl]; exact Bool.false_ne_true
  have hrest : ls.filter (fun l => !bad l) = ls := List.filter_eq_self.mpr fun l hl => by rw [hgood l hl]; rfl
  refine ⟨_, ?_, leaveGroup_nil_moves h⟩
  rw [exportTraps, hbad, hrest]
  rfl

/-- Where every lane traps, none goes on. -/
theorem exportTraps_all (s : State) (x : Ctx) {ls : List Nat} {bad : Nat → Bool} (hbad : ∀ l, l ∈ ls → bad l = true) :
    exportTraps s x ls bad = (issueTraps s x ls 20 0 (fun _ => 0) 0, []) := by
  have hall : ls.filter bad = ls := List.filter_eq_self.mpr hbad
  have hnone : ls.filter (fun l => !bad l) = [] := List.filter_eq_nil_iff.mpr fun l hl => by rw [hbad l hl]; exact Bool.false_ne_true
  rw [exportTraps, hall, hnone]

/-- An exporting word from a state u that differs from s in the issuing wave at most. -/
theorem Exports.of_moves {s u t : State} {x y z : Ctx} {o p : Op} (hm : Moves s u x y) (hcore : y.core = x.core) (hwid : y.wid = x.wid)
    (hgang : y.wv.gang = x.wv.gang) (hregs : y.wv.regs = x.wv.regs) (hops : y.wv.ops = x.wv.ops) (hg : y.g = x.g) (ho : p = o)
    (h : Exports u t y z p) : Exports s t x z o := by
  subst ho
  have hord : (u.core x.core).nextOrd = (s.core x.core).nextOrd := by rw [hm.2.core]
  have honly : OnlyQueue u t x := ⟨h.only.rest, hcore ▸ h.only.cores, hcore ▸ h.only.core, hcore ▸ hwid ▸ h.only.slots, hcore ▸ hgang ▸ h.only.gangs⟩
  exact ⟨(OnlyQueue.of_onlyWave hm.2).trans honly, by rw [← hord, ← hcore]; exact h.ord, h.regs.trans hregs,
    by rw [h.ops, hops, ← hord, hcore], h.group.trans hg⟩

/-- EXPVTX with vertex numbers below 256. -/
theorem execExpvtx_exports {f : Fields} {s : State} {x : Ctx} (h : Issues 0xED f s x) (hsome : x.active f ≠ [])
    (hnumbers : ∀ l, l ∈ x.active f → x.na f f.c l < 256) :
    ∃ t y, execExpvtx f s = .next t ∧ t.issue? = some y ∧ (t.core x.core).gangs = (s.core x.core).gangs ∧
      Exports s t x y (expOp x 0xED f ((x.active f).map (fun l => exportLane l 0 (x.rd128 f.a l) ((x.rd f f.c l).setWidth 64)))
        ((x.active f).flatMap (fun l => leBytes 16 (x.rd128 f.b l).toNat))) := by
  obtain ⟨u, htraps, hmoves⟩ := exportTraps_none h.here (bad := fun l => decide (256 ≤ (x.rd f f.c l).toNat))
    fun l hl => decide_eq_false (Nat.not_le.mpr (hnumbers l hl))
  obtain ⟨y, hissue, hgangs, -, hexports⟩ := exportOp_exports hmoves.1
    (ls := (x.active f).map (fun l => exportLane l 0 (x.rd128 f.a l) ((x.rd f f.c l).setWidth 64))) (mt List.map_eq_nil_iff.mp hsome)
    0xED f ((x.active f).flatMap (fun l => leBytes 16 (x.rd128 f.b l).toNat))
  refine ⟨_, y, ?_, hissue, ?_, hexports.of_moves hmoves rfl rfl rfl rfl rfl rfl rfl⟩
  · rw [execExpvtx, issueWord_eq h, htraps]
  · rw [hgangs, hmoves.2.core]

/-- EXPVTX with numbers of no vertex alone. -/
theorem execExpvtx_traps {f : Fields} {s : State} {x : Ctx} (h : Issues 0xED f s x) (hnumbers : ∀ l, l ∈ x.active f → 256 ≤ x.na f f.c l) :
    execExpvtx f s = .next (issueTraps s x (x.active f) 20 0 (fun _ => 0) 0) := by
  rw [execExpvtx, issueWord_eq h, exportTraps_all s x (bad := fun l => decide (256 ≤ (x.rd f f.c l).toNat))
    fun l hl => decide_eq_true (hnumbers l hl)]
  rfl

/-- EXPPRIM's lanes take the ordinals from n while they are below 4096. -/
theorem expprim_ordinals (x : Ctx) (s : State) (n : Nat) (ps : List (Nat × Nat)) : ∀ rs : List (Nat × Nat),
    (∀ p, p ∈ ps → n + p.2 < 4096) →
    ps.foldl (fun (r : State × List (Nat × Nat)) p =>
      if n + p.2 < 4096 then (r.1, r.2 ++ [(p.1, n + p.2)]) else (issueTraps r.1 x [p.1] 20 0 (fun _ => 0) 0, r.2)) (s, rs) =
    (s, rs ++ ps.map (fun p => (p.1, n + p.2))) := by
  induction ps with
  | nil => simp
  | cons p ps ih =>
    intro rs hroom
    rw [List.foldl_cons, if_pos (hroom p List.mem_cons_self), ih _ fun q hq => hroom q (List.mem_cons_of_mem _ hq), List.map_cons,
      List.append_assoc, List.singleton_append]

/-- EXPPRIM's lanes, of a gang that has exported n primitives. -/
def expprimLanes (f : Fields) (x : Ctx) (n : Nat) : List LaneOp :=
  (x.active f).zipIdx.map (fun p => exportLane p.1 (x.rd64 f f.b p.1) ((x.rd f f.a p.1).setWidth 128) (BitVec.ofNat 64 (n + p.2)))

/-- The count of its gang's primitives after the word of x. -/
def countPrims (x : Ctx) (n : Nat) (s : State) : State := s.modGang x.core x.wv.gang (fun g => { g with prims := n })

/-- EXPPRIM of legal triangles, within the count of its gang. -/
theorem execExpprim_exports {f : Fields} {s : State} {x : Ctx} {g : Gang} (h : Issues 0xEE f s x) (hsome : x.active f ≠ [])
    (hgang : s.gang? x.core x.wv.gang = some g) (hlegal : ∀ l, l ∈ x.active f → x.rd f f.a l >>> 24 = 0)
    (hroom : g.prims + (x.active f).length ≤ 4096) :
    ∃ t y, execExpprim f s = .next t ∧ t.issue? = some y ∧
      t.gang? x.core x.wv.gang = some { g with prims := g.prims + (x.active f).length } ∧
      Exports s t x y (expOp x 0xEE f (expprimLanes f x g.prims) []) := by
  obtain ⟨u, htraps, hmoves⟩ := exportTraps_none h.here (bad := fun l => x.rd f f.a l >>> 24 != 0)
    fun l hl => by rw [hlegal l hl]; rfl
  have hordinals := expprim_ordinals x u g.prims (x.active f).zipIdx [] fun p hp => by
    have := (List.mem_zipIdx hp).2.1
    omega
  have hcount : (countPrims x (g.prims + (x.active f).length) u).issue? = some x := modGang_issue? hmoves.1 fun _ => rfl
  obtain ⟨y, hissue, hgangs, -, hexports⟩ := exportOp_exports hcount (ls := expprimLanes f x g.prims)
    (mt List.map_eq_nil_iff.mp (mt List.zipIdx_eq_nil_iff.mp hsome)) 0xEE f []
  have hgangU : u.gang? x.core x.wv.gang = some g := (hmoves.2.gang? _).trans hgang
  have honly : OnlyQueue s (countPrims x (g.prims + (x.active f).length) u) x := (OnlyQueue.of_onlyWave hmoves.2).trans (.modGang ..)
  have hord : ((countPrims x (g.prims + (x.active f).length) u).core x.core).nextOrd = (s.core x.core).nextOrd := by
    rw [countPrims, State.core_modGang, hmoves.2.core]
  refine ⟨_, y, ?exec, hissue, ?gang, honly.trans hexports.only, by rw [hexports.ord, hord], hexports.regs, by rw [hexports.ops, hord],
    hexports.group⟩
  case exec =>
    rw [execExpprim, issueWord_eq h, htraps, hgang]
    simp only [Option.map_some, Option.getD_some, hordinals, List.nil_append, List.length_map, List.length_zipIdx, List.map_map]
    rfl
  case gang =>
    rw [State.gang?, hgangs, ← State.gang?, countPrims, State.gang?_modGang, hgangU]
    rfl

/-- The gang's 4,097th primitive traps its lane. -/
theorem execExpprim_full {f : Fields} {s : State} {x : Ctx} {g : Gang} {l : Nat} (h : Issues 0xEE f s x) (hone : x.active f = [l])
    (hgang : s.gang? x.core x.wv.gang = some g) (hlegal : x.rd f f.a l >>> 24 = 0) (hfull : 4096 ≤ g.prims) :
    ∃ u, u = { s with cores := u.cores } ∧ (∀ v, u.slot? x.core v = s.slot? x.core v) ∧ u.gang? x.core x.wv.gang = some g ∧
      execExpprim f s = .next ((takeTrap u x.core x.wid l
        { cause := 20, sub := 0, off := x.idx, spo := x.spo, res := x.g.pro, aux := 0, aux2 := 0 }).modGang x.core x.wv.gang
          (fun k => { k with prims := g.prims })) := by
  have hbad : [l].filter (fun l => x.rd f f.a l >>> 24 != 0) = [] := by simp [hlegal]
  have hrest : [l].filter (fun l => !(x.rd f f.a l >>> 24 != 0)) = [l] := by simp [hlegal]
  refine ⟨leaveGroup x [l] (leaveGroup x [] s), rfl, ?slots, ?gang, ?exec⟩
  case exec =>
    rw [execExpprim, issueWord_eq h, hone, hgang, exportTraps, hbad, hrest]
    simp only [List.zipIdx_cons, List.zipIdx_nil, List.foldl_cons, List.foldl_nil, Option.map_some, Option.getD_some, Nat.add_zero,
      Nat.not_lt.mpr hfull, if_false, List.length_nil, List.map_nil, exportOp_nil]
    rfl
  case slots => exact fun v => (State.slot?_modGroup ..).trans (State.slot?_modGroup ..)
  case gang => exact ((OnlyWave.modRun _ _ _ x.wid _).gang? _).trans (((OnlyWave.modRun _ _ _ x.wid _).gang? _).trans hgang)

/-- EXPPRIM.END acts in the lowest active lane. -/
theorem execExpprimEnd_exports {f : Fields} {s : State} {x : Ctx} {l : Nat} (h : Issues 0xEE f s x) (hl : (x.active f).head? = some l) :
    ∃ t y, execExpprimEnd f s = .next t ∧ t.issue? = some y ∧ (t.core x.core).gangs = (s.core x.core).gangs ∧
      Exports s t x y (expOp x 0xEE f [exportLane l (x.rd64 f f.a l) 0 0] []) := by
  obtain ⟨y, hissue, hgangs, -, hexports⟩ := exportOp_exports h.here (ls := [exportLane l (x.rd64 f f.a l) 0 0]) (List.cons_ne_nil _ _) 0xEE f []
  refine ⟨_, y, ?_, hissue, hgangs, hexports⟩
  obtain ⟨ls, hactive⟩ := List.head?_eq_some_iff.mp hl
  rw [execExpprimEnd, issueWord_eq h, hactive]
  rfl

/-- A fragment's depth: the word's, or where it gives none the rasteriser's. -/
def fragDepth (f : Fields) (x : Ctx) (u : Surf) (l : Nat) : W32 := if f.b = .absent then u.depth.getD l 0 else x.rd f f.b l

/-- EXPFRAG's lanes. -/
def expfragLanes (f : Fields) (x : Ctx) (u : Surf) : List LaneOp :=
  (x.active f).map (fun l => exportLane l 0 (x.rd128 f.a l) ((fragDepth f x u l).setWidth 64))

/-- The fragments of a surface wave once those of lanes ls are exported. -/
def Surf.marked (u : Surf) (ls : List Nat) : Surf := { u with exported := u.exported ||| maskOf (fun l => ls.contains l) }

theorem Surf.exported_marked (u : Surf) (ls : List Nat) {l : Nat} (hl : l < 32) :
    (u.marked ls).exported.getLsbD l = (u.exported.getLsbD l || decide (l ∈ ls)) := by
  rw [Surf.marked, BitVec.getLsbD_or, maskOf_getLsbD _ hl, List.contains_eq_mem]

/-- EXPFRAG in lanes that have a fragment not exported yet. -/
theorem execExpfrag_exports {f : Fields} {s : State} {x : Ctx} {u : Surf} (h : Issues 0xEF f s x) (hsome : x.active f ≠ [])
    (hsurf : x.wv.surf = some u) (hfresh : ∀ l, l ∈ x.active f → l < u.px.length ∧ u.exported.getLsbD l = false) :
    ∃ t y, execExpfrag f s = .next t ∧ t.issue? = some y ∧ (t.core x.core).gangs = (s.core x.core).gangs ∧
      y.wv.surf = some (u.marked (x.active f)) ∧ Exports s t x y (expOp x 0xEF f (expfragLanes f x u) []) := by
  obtain ⟨v, htraps, hmoves⟩ := exportTraps_none h.here (bad := fun l => !(decide (l < u.px.length) && !u.exported.getLsbD l))
    fun l hl => by rw [decide_eq_true (hfresh l hl).1, (hfresh l hl).2]; rfl
  have hmark := hmoves.step rfl rfl rfl (modWave_moves hmoves.1 (fun w => { w with surf := w.surf.map (fun u => u.marked (x.active f)) }) rfl rfl rfl)
  obtain ⟨y, hissue, hgangs, hkeep, hexports⟩ := exportOp_exports hmark.1 (ls := expfragLanes f x u) (mt List.map_eq_nil_iff.mp hsome) 0xEF f []
  refine ⟨_, y, ?exec, hissue, ?gangs, ?surf, hexports.of_moves hmark rfl rfl rfl rfl rfl rfl rfl⟩
  case exec =>
    rw [execExpfrag, issueWord_eq h]
    simp only [hsurf, htraps, Option.map_some, Option.getD_some]
    rfl
  case gangs => exact hgangs.trans (by rw [hmark.2.core])
  case surf =>
    rw [hkeep]
    exact congrArg (Option.map _) hsurf

/-- Settles O38: the one effect of each of the three words is its numbered operation. -/
theorem exportWordsIssue : Obligations.ExportWordsIssue := by
  refine ⟨fun f s x h hsome hnumbers => ?vtx, fun f s x g h hsome hgang hlegal hroom => ?prim,
    fun f s x g l h hone hgang hlegal hfull => execExpprim_full h hone hgang hlegal hfull, fun f s x l h hl => ?primEnd,
    fun f s x u h hsome hsurf hfresh => ?frag, fun f s x h hnumbers => execExpvtx_traps h hnumbers⟩
  case vtx =>
    obtain ⟨t, y, hexec, hissue, hgangs, hexports⟩ := execExpvtx_exports h hsome hnumbers
    exact ⟨t, y, hexec, hissue, hgangs, hexports.added⟩
  case prim =>
    obtain ⟨t, y, hexec, hissue, hprims, hexports⟩ := execExpprim_exports h hsome hgang hlegal hroom
    exact ⟨t, y, hexec, hissue, hprims, hexports.added⟩
  case primEnd =>
    obtain ⟨t, y, hexec, hissue, hgangs, hexports⟩ := execExpprimEnd_exports h hl
    exact ⟨t, y, hexec, hissue, hgangs, hexports.added⟩
  case frag =>
    obtain ⟨t, y, hexec, hissue, hgangs, hmarked, hexports⟩ := execExpfrag_exports h hsome hsurf hfresh
    exact ⟨t, y, hexec, hissue, hgangs, ⟨_, hmarked, rfl, fun l hl => u.exported_marked (x.active f) hl⟩, hexports.added⟩

end Sys2Proof.Machine
end

section
open Sys2Proof Sys2Proof.Machine

namespace Sys2Proof.Machine

/-! ## Lookups of the Stockpot (12 R283, R284) -/

@[simp] theorem exec_stkLookup_eq (c w id lane : Nat) (s : State) : exec (.stkLookup c w id lane) s = execStkLookup c w id lane s := by rfl
@[simp] theorem exec_stkFillPerform_eq (c w id lane : Nat) (s : State) :
    exec (.stkFillPerform c w id lane) s = execStkFillPerform c w id lane s := by rfl
@[simp] theorem exec_shadingBatchPost_eq (n world : Nat) (s : State) :
    exec (.shadingBatchPost n world) s = execShadingBatchPost n world s := by rfl

/-! ### Registers of an answer -/

theorem wr64_vec (d : BitVec 11) (l : Nat) (v : W64) :
    wr64 (.vec d) l v = [⟨.v d.toNat l, v.setWidth 32⟩, ⟨.v (d.toNat + 1) l, (v >>> 32).setWidth 32⟩] := by
  simp only [wr64, wrWide, destElems, List.range, List.range.loop, List.map, List.zipIdx]
  congr 2

/-- A pair of a lane's registers holds the two words that were written to it. -/
theorem Regs.writes_vecPair (r : Regs) (d : BitVec 11) {l : Nat} (hl : l < 32) (hi lo : W32) :
    (r.writes (wr64 (.vec d) l (hi ++ lo))).read (.v d.toNat l) = lo ∧
    (r.writes (wr64 (.vec d) l (hi ++ lo))).read (.v (d.toNat + 1) l) = hi := by
  have hlow : ((hi ++ lo : W64)).setWidth 32 = lo := by
    ext i hlt
    have hbit : (hi ++ lo : W64).getLsbD i = lo.getLsbD i := BitVec.getLsbD_append.trans (by simp [hlt])
    simpa [hlt] using hbit
  have hhigh : ((hi ++ lo : W64) >>> 32).setWidth 32 = hi := by
    ext i hlt
    have hbit : (hi ++ lo : W64).getLsbD (32 + i) = hi.getLsbD i := BitVec.getLsbD_append.trans (by simp)
    simpa [hlt] using hbit
  rw [wr64_vec, hlow, hhigh]
  constructor
  · exact (Regs.read_write_of_ne _ ⟨.v (d.toNat + 1) l, hi⟩ (.v d.toNat l) hl hl (by simp)).trans
      (Regs.read_write_self r ⟨.v d.toNat l, lo⟩ hl rfl)
  · exact Regs.read_write_self _ ⟨.v (d.toNat + 1) l, hi⟩ hl rfl

/-- The flags of an STK operation fall without a register. -/
theorem stkSettle_regs (v : Wave) (id : Nat) : (stkSettle v id).regs = v.regs := by
  unfold stkSettle
  split
  · rfl
  · dsimp only
    split <;> split <;> simp only [Wave.lower_regs, Wave.modOp]

/-- An answer's two words are in the pair of its lane. -/
theorem stkAnswer_reads {v : Wave} {id lane : Nat} {o : Op} {d : BitVec 11} (ho : v.op? id = some o) (hdst : o.f.dst = .vec d)
    (hlane : lane < 32) (code : Nat) (w : W32) (st : LaneSt) :
    (stkAnswer v id lane code w st).regs.read (.v d.toNat lane) = w ∧
    (stkAnswer v id lane code w st).regs.read (.v (d.toNat + 1) lane) = BitVec.ofNat 32 code := by
  have hregs : (stkAnswer v id lane code w st).regs = v.regs.writes (wr64 (.vec d) lane ((BitVec.ofNat 32 code : W32) ++ w)) := by
    rw [stkAnswer, ho, ← hdst]
    exact stkSettle_regs ..
  rw [hregs]
  exact v.regs.writes_vecPair d hlane _ w

/-! ### The acquire of a slot's lines (04 R111) -/

theorem OnlyCores.acquireSlot (s : State) (c slot : Nat) : OnlyCores s (acquireSlot s c slot) :=
  OnlyCores.foldl (fun s _ => OnlyCores.modCore s c _) _ s

theorem slot?_acquireSlot (s : State) (c slot k v : Nat) : (acquireSlot s c slot).slot? k v = s.slot? k v :=
  List.foldlRecOn (motive := fun u => u.slot? k v = s.slot? k v) _ _ rfl fun u hu _ _ => (slot?_dropL1 u c _ k v).trans hu

/-! ### The event -/

/-- A lookup that posts nothing counts nothing where its cluster has no counter, or its code is none that is counted. -/
theorem lookCounts_eq_self {s : State} {c code : Nat} (h : 2 < code ∨ (s.cluster (clusterOf c)).banks = []) (vf : Nat) :
    lookCounts s c vf code false = s := by
  unfold lookCounts
  dsimp only
  rw [if_neg Bool.false_ne_true]
  split
  next hcounted => exact countEvent_of_no_banks (h.resolve_left (by omega)) ..
  next => rfl

/-- A lane of the one STK of a wave whose key's slice is ready: its lookup may be performed, and posts nothing. -/
structure Looks (s : State) (c w id lane : Nat) (t : Slot) (o : Op) (l : LaneOp) : Prop where
  here : s.slot? c w = some t
  alone : t.wave.ops = [o]
  num : o.id = id
  opc : o.opc = 0xE3
  lanes : o.lanes = [l]
  lane : l.lane = lane
  st : l.st = .ready
  quiet : o.f.m 0 1 = 0
  ready : sliceReady s l.va = true

namespace Looks

variable {s : State} {c w id lane : Nat} {t : Slot} {o : Op} {l : LaneOp}

/-- The lookup of a lane that posts nothing. -/
def look (c w id lane : Nat) (t : Slot) (o : Op) (l : LaneOp) : Look :=
  { core := c, wave := w, uid := t.wave.uid, op := id, lane := lane, vf := t.wave.vf, world := t.wave.world, key := l.va, post := false,
    notouch := o.f.m 1 1 == 1 }

/-- The event counts the lookup, acquires a HIT's slot, and answers the lane. -/
theorem exec_eq (h : Looks s c w id lane t o l) {s' : State} {a : Answered} (hlook : lookup s (look c w id lane t o l) = (s', a)) :
    execStkLookup c w id lane s = .next ((if a.code = 0 then acquireSlot (lookCounts s' c t.wave.vf a.code false) c a.slot.toNat
      else lookCounts s' c t.wave.vf a.code false).modWave c w
        (fun v => stkAnswer v id lane a.code a.slot (if a.code = 1 then .waiting else .done))) := by
  obtain ⟨here, alone, rfl, opc, lanes, rfl, st, quiet, ready⟩ := h
  have hpost : (o.f.m 0 1 == 1) = false := by rw [quiet]; rfl
  have hop := Wave.op?_alone alone
  have hfirst : (o.lanes.any fun k => decide (k.lane < l.lane) && k.st == .ready && k.va == l.va) = false := by simp [lanes]
  have hlane : o.lanes.find? (fun k => k.lane == l.lane) = some l := by simp [lanes]
  simp only [execStkLookup, here, hop, hlane, hpost, opc, st, gated_alone alone, ready, hfirst, Bool.false_and, ne_eq, not_true_eq_false,
    Bool.false_eq_true, Bool.true_eq_false, or_self, if_false]
  simp only [look] at hlook
  rw [hlook]
  congr 1
  split
  · split <;> simp only [and_false, if_false]
  · rfl

/-- What the event leaves, where the answer is no wait and the lookup itself leaves memory and waves. -/
theorem answers (h : Looks s c w id lane t o l) {s' : State} {code : Nat} {slot : W32}
    (hlook : lookup s (look c w id lane t o l) = (s', { code := code, slot := slot })) (hcode : code ≠ 1)
    (hcounts : lookCounts s' c t.wave.vf code false = s') (hmem : s'.mem = s.mem) (hslot : s'.slot? c w = s.slot? c w) :
    ∃ u, exec (.stkLookup c w id lane) s = .next u ∧ u.mem = s.mem ∧
      u.slot? c w = some { t with wave := stkAnswer t.wave id lane code slot .done } := by
  have hexec := h.exec_eq hlook
  simp only [hcounts, hcode, if_false] at hexec
  refine ⟨_, (exec_stkLookup_eq ..).trans hexec, ?_, ?_⟩
  · rw [State.modWave_mem]
    split
    · exact (OnlyCores.acquireSlot ..).mem.trans hmem
    · exact hmem
  · have hkeep : (if code = 0 then acquireSlot s' c slot.toNat else s').slot? c w = some t := by
      split
      · exact (slot?_acquireSlot ..).trans (hslot.trans h.here)
      · exact hslot.trans h.here
    rw [State.slot?_modWave, hkeep]
    rfl

/-- A lookup of a VALID entry of its generation is a HIT. -/
theorem hit (h : Looks s c w id lane t o l) {x : World} {n : Nat} (hbanks : (s.cluster (clusterOf c)).banks = [])
    (hworld : s.world? t.wave.world = some x) (hgranted : s.granted t.wave.world t.wave.vf = true)
    (hmatch : (s.slice (keySlice l.va)).match? l.va t.wave.world = some n) (hvalid : ((s.slice (keySlice l.va)).tag n).state = 2)
    (hgen : ((s.slice (keySlice l.va)).tag n).gen = x.genOf (keyBucket l.va)) :
    ∃ u, exec (.stkLookup c w id lane) s = .next u ∧ u.mem = s.mem ∧ u.slot? c w = some
      { t with wave := stkAnswer t.wave id lane 0 (BitVec.ofNat 32 ((s.slice (keySlice l.va)).tag n).slot) .done } := by
  have hlook : lookup s (look c w id lane t o l) = (if o.f.m 1 1 == 1 then s else
      s.modSlice (keySlice l.va) (fun r => r.setTag n { (s.slice (keySlice l.va)).tag n with age := x.wage }),
      { code := 0, slot := BitVec.ofNat 32 ((s.slice (keySlice l.va)).tag n).slot }) := by
    simp only [lookup, look, hworld, hgranted, hmatch, hvalid, hgen, Bool.true_eq_false, if_false, ne_eq, not_true_eq_false, and_false,
      if_true]
  refine h.answers hlook (by decide) ?_ ?_ ?_
  · exact lookCounts_eq_self (.inr (by split <;> exact hbanks)) _
  · split <;> rfl
  · split <;> rfl

/-- A lookup without a grant is DENIED. -/
theorem denied (h : Looks s c w id lane t o l) (hgranted : s.granted t.wave.world t.wave.vf = false) :
    ∃ u, exec (.stkLookup c w id lane) s = .next u ∧ u.mem = s.mem ∧
      u.slot? c w = some { t with wave := stkAnswer t.wave id lane 3 0xFFFFFFFF .done } := by
  have hlook : lookup s (look c w id lane t o l) = (s, .no 3) := by
    unfold lookup
    split
    · rfl
    · exact if_pos hgranted
  exact h.answers hlook (by decide) (lookCounts_eq_self (.inl (by decide)) _) rfl rfl

end Looks

theorem lookupAnswers : LookupAnswers := by
  intro s c w id lane t o l d here alone num opc lanes hlane st quiet ready hrings hbanks hdst hlt
  have h : Looks s c w id lane t o l := ⟨here, alone, num, opc, lanes, hlane, st, quiet, ready⟩
  have hop : t.wave.op? id = some o := num ▸ Wave.op?_alone alone
  refine ⟨fun x n hworld hgranted hmatch hvalid hgen => ?hit, fun hgranted => ?denied⟩
  case hit =>
    obtain ⟨u, hexec, hmem, hslot⟩ := h.hit hbanks hworld hgranted hmatch hvalid hgen
    obtain ⟨hlow, hhigh⟩ := stkAnswer_reads hop hdst hlt 0 (BitVec.ofNat 32 ((s.slice (keySlice l.va)).tag n).slot) .done
    exact ⟨u, _, hexec, hmem, hslot, hlow, hhigh⟩
  case denied =>
    obtain ⟨u, hexec, hmem, hslot⟩ := h.denied hgranted
    obtain ⟨hlow, hhigh⟩ := stkAnswer_reads hop hdst hlt 3 0xFFFFFFFF .done
    exact ⟨u, _, hexec, hmem, hslot, hlow, hhigh⟩

end Sys2Proof.Machine
end

section
open Sys2Proof Sys2Proof.Machine

namespace Sys2Proof.Machine

/-! ## Batches of shading records (12 R286; 15 R338) -/

/-- A write in HBM4 of a party that has no core is a write at the home slice. -/
theorem engWrite_hbm {g : EngAt} (hcore : g.core = none) (s : State) (a : Nat) (va : W64) (b : List Byte) :
    engWrite s g (.hbm a) va b [] [] 0 = (homeWriteBy s (fun _ _ => g.writer) a b [], none) := by
  simp [engWrite, engPush, EngAt.entry, Target.spa?, hcore]

theorem homeWriteBy_slice {s : State} (h : Untraced s) (w : Nat → Nat → Writer) (spa : Nat) (bytes : List Byte) (hs : List Nat) (n : Nat) :
    (homeWriteBy s w spa bytes hs).slice n = s.slice n := by
  rw [homeWriteBy_frame h]; rfl

theorem batchCard_length {b : Batch} (h : b.tmpl.length = 64) : (batchCard b).length = 64 := by
  simp [batchCard, leBytes_length, h]

/-- A slice's sub-ring of a world after it is replaced. -/
theorem putRing_find {s : State} {n world : Nat} {r : SubRing} (h : r.world = world) :
    ((putRing s n r).slice n).rings.find? (fun r => r.world == world) = some r := by
  rw [putRing, State.slice_modSlice]
  exact List.find?_cons_of_pos (by rw [h]; exact beq_self_eq_true world)

/-- The card that enters a queue is found under its SEQ where none stood there. -/
theorem enterCard_card? {s : State} {q : Nat} (hnone : s.card? q (s.queue q).seq = none) {g : Card → Card} (hg : ∀ k, (g k).seq = k.seq)
    (bytes : List Byte) (unwritten : Bool) :
    (enterCard s q g bytes unwritten).card? q (s.queue q).seq = some (g (Card.entered (s.queue q).seq bytes unwritten)) := by
  rw [State.card?] at hnone ⊢
  rw [enterCard, State.queue_modQueue, List.find?_append, hnone, Option.none_or]
  exact List.find?_cons_of_pos (by rw [hg]; exact beq_self_eq_true _)

theorem enterCard_seq (s : State) (q : Nat) (g : Card → Card) (bytes : List Byte) (unwritten : Bool) :
    ((enterCard s q g bytes unwritten).queue q).seq = (s.queue q).seq + 1 := by
  rw [enterCard, State.queue_modQueue]

/-- A card once its copy stands in its slot. -/
def written (ps : Pages) (k : Card) : Card := { k with unwritten := false, waits := ps }

/-- A card whose slot lies in HBM4 is written there. -/
theorem writeSlot_hbm {s s1 : State} {q a : Nat} {n : W32} {k : Card} {ps : Pages} (hk : s.card? q n = some k) (hw : k.unwritten = true)
    (hslot : slotAt s (queueAt s q) k.waits ((s.queue q).slotGpa n) (accW (queueAt s q).by_.level) = (s1, ps, .at_ (.hbm a))) :
    writeSlot s q n = (homeWriteBy s1 (fun _ _ => (queueAt s q).writer) a k.bytes []).modCard q n (written ps) := by
  simp only [writeSlot, hk, hw, hslot, Bool.true_eq_false, if_false, engWrite_hbm (queueAt_core s q)]
  rfl

/-- A card without a status is not finished. -/
theorem finishCard_of_open {s : State} {q : Nat} {n : W32} {k : Card} (hk : s.card? q n = some k) (hopen : k.status = none) :
    finishCard s q n = s := by
  rw [finishCard, hk, Option.bind_some, hopen]
  rfl

/-- A card of a batch names it. -/
def ofBatch (n world : Nat) (b : Batch) (k : Card) : Card := { k with batch := some (n, world, b.addr, b.count) }

/-- The state in which the queue of the oldest closed batch has taken its card. -/
def batchEntered (s : State) (n world : Nat) (r : SubRing) (b : Batch) (bs : List Batch) : State :=
  enterCard (putRing s n { r with closed := bs }) b.shq (ofBatch n world b) (batchCard b) true

/-- The card of the oldest closed batch enters its queue and is written into its slot. -/
theorem execShadingBatchPost_post {s : State} {n world : Nat} {r : SubRing} {b : Batch} {bs : List Batch}
    (hring : (s.slice n).rings.find? (fun r => r.world == world) = some r) (hwaits : r.waits = []) (hopen : r.open_ = none)
    (hclosed : r.closed = b :: bs) (henabled : (s.queue b.shq).enabled = true) (hroom : (s.queue b.shq).full = false) :
    execShadingBatchPost n world s = .next (finishCard (writeSlot (batchEntered s n world r b bs) b.shq (s.queue b.shq).seq) b.shq
      (s.queue b.shq).seq) := by
  simp only [execShadingBatchPost, hring, hwaits, hopen, hclosed, henabled, hroom, Bool.true_eq_false, Bool.false_eq_true, or_self, if_false,
    batchEntered]
  rfl

/-- A record that waits is tried again. -/
theorem execShadingBatchPost_waits {s : State} {n world : Nat} {r : SubRing} {q : ShRec} {qs : List ShRec}
    (hring : (s.slice n).rings.find? (fun r => r.world == world) = some r) (hwaits : r.waits = q :: qs) :
    execShadingBatchPost n world s = .next (writeShading s n r q) := by
  simp only [execShadingBatchPost, hring, hwaits]

theorem batchPosted : BatchPosted := by
  intro s s1 n world a r b bs ps hring hwaits hopen hclosed henabled hroom htmpl hnone s' hslot hqueue hslice hun
  have hworld : r.world = world := beq_iff_eq.mp (List.find?_some (p := fun r : SubRing => r.world == world) hring)
  have hcard : s'.card? b.shq (s.queue b.shq).seq =
      some (ofBatch n world b (Card.entered (s.queue b.shq).seq (batchCard b) true)) :=
    enterCard_card? (s := putRing s n { r with closed := bs }) (g := ofBatch n world b) hnone (fun _ => rfl) (batchCard b) true
  have hwrite := writeSlot_hbm hcard rfl hslot
  have hposted : (writeSlot s' b.shq (s.queue b.shq).seq).card? b.shq (s.queue b.shq).seq =
      some (written ps (ofBatch n world b (Card.entered (s.queue b.shq).seq (batchCard b) true))) := by
    rw [hwrite, State.card?_modCard (g := written ps) fun _ => rfl, State.card?, homeWriteBy_queue hun, hqueue, ← State.card?, hcard]
    rfl
  have hdone : finishCard (writeSlot s' b.shq (s.queue b.shq).seq) b.shq (s.queue b.shq).seq = writeSlot s' b.shq (s.queue b.shq).seq :=
    finishCard_of_open hposted rfl
  have hexec := (exec_shadingBatchPost_eq ..).trans (execShadingBatchPost_post hring hwaits hopen hclosed henabled hroom)
  rw [show batchEntered s n world r b bs = s' from rfl, hdone] at hexec
  refine ⟨_, _, hexec, ?seq, hposted, rfl, rfl, rfl, ?ring, ?mem⟩
  case seq =>
    rw [hwrite, State.queue_modCard, homeWriteBy_queue hun, hqueue]
    exact enterCard_seq ..
  case ring =>
    have hkept : (writeSlot s' b.shq (s.queue b.shq).seq).slice n = s'.slice n := by
      rw [hwrite, ← hslice]
      exact homeWriteBy_slice hun ..
    rw [hkept, show s'.slice n = (putRing s n { r with closed := bs }).slice n from rfl,
      putRing_find (r := { r with closed := bs }) hworld]
    rfl
  case mem =>
    intro x
    rw [hwrite, State.modCard_mem]
    exact (homeWriteBy_byte hun _ a (batchCard b) [] x).trans (by simp [batchCard_length htmpl])

end Sys2Proof.Machine
end

section
open Sys2Proof Sys2Proof.Machine

namespace Sys2Proof.Machine

/-! ## Fills and drops of the Stockpot (12 R285) -/

/-- A lane of the one STKFILL or STKDROP of a wave, whose key's slice is ready: it may be performed. -/
structure Fills (s : State) (c w id lane : Nat) (t : Slot) (o : Op) (l : LaneOp) : Prop where
  here : s.slot? c w = some t
  alone : t.wave.ops = [o]
  num : o.id = id
  lanes : o.lanes = [l]
  lane : l.lane = lane
  st : l.st = .waiting
  ready : sliceReady s l.va = true

/-- The writer of a lane of an operation. -/
def Op.writerOf (o : Op) (c w lane : Nat) (t : Slot) : Writer := laneWriter c w t.wave.gang o.spo o.off lane

namespace Fills

variable {s s' : State} {c w id lane st : Nat} {t : Slot} {o : Op} {l : LaneOp}

/-- The lane ends with the status that its slice gives. -/
theorem exec_eq (h : Fills s c w id lane t o l) {data : Option (List Byte)} (hopc : o.opc = 0xE4 ∨ o.opc = 0xE5)
    (hdata : (if o.opc = 0xE4 then some ((o.bytes.drop l.src2.toNat).take 513) else none) = data)
    (hfill : fillAt s c t.wave.vf t.wave.world (o.writerOf c w lane t) l.va (l.src.toNat % 2 ^ 32) data = (s', st)) :
    exec (.stkFillPerform c w id lane) s = .next (finishLane s' c w id lane (statusWr o.f lane st) 0) := by
  obtain ⟨here, alone, rfl, lanes, rfl, hst, ready⟩ := h
  have hlane : o.lanes.find? (fun k => k.lane == l.lane) = some l := by simp [lanes]
  have hfirst : (o.lanes.any fun k => decide (k.lane < l.lane) && k.st != .done && k.va == l.va) = false := by simp [lanes]
  have hword : ¬ (o.opc ≠ 0xE4 ∧ o.opc ≠ 0xE5) := by omega
  have hdone : l.st ≠ .done := by rw [hst]; decide
  have hready : l.st ≠ .ready := by rw [hst]; decide
  rw [exec_stkFillPerform_eq]
  simp only [execStkFillPerform, here, Wave.op?_alone alone, hlane, hword, hdone, hready, gated_alone alone, ready, hfirst,
    Bool.false_eq_true, Bool.true_eq_false, or_self, if_false, hdata]
  rw [Op.writerOf] at hfill
  rw [hfill]
  rfl

theorem exec_fill (h : Fills s c w id lane t o l) (hopc : o.opc = 0xE4)
    (hfill : fillAt s c t.wave.vf t.wave.world (o.writerOf c w lane t) l.va (l.src.toNat % 2 ^ 32)
      (some ((o.bytes.drop l.src2.toNat).take 513)) = (s', st)) :
    exec (.stkFillPerform c w id lane) s = .next (finishLane s' c w id lane (statusWr o.f lane st) 0) :=
  h.exec_eq (.inl hopc) (if_pos hopc) hfill

theorem exec_drop (h : Fills s c w id lane t o l) (hopc : o.opc = 0xE5)
    (hfill : fillAt s c t.wave.vf t.wave.world (o.writerOf c w lane t) l.va (l.src.toNat % 2 ^ 32) none = (s', st)) :
    exec (.stkFillPerform c w id lane) s = .next (finishLane s' c w id lane (statusWr o.f lane st) 0) :=
  h.exec_eq (.inr hopc) (if_neg (by rw [hopc]; decide)) hfill

end Fills

/-! ### What stands after the wave's one operation has ended -/

theorem Ends.ops {s u : State} {c w : Nat} {t : Slot} {o : Op} {ws : List RegWrite} {e : Exc} (h : Ends s u c w t o ws e) :
    ∃ t', u.slot? c w = some t' ∧ t'.wave.ops = [] ∧ t'.wave.regs = t.wave.regs.writes ws :=
  ⟨_, h.wave, by cases o.flag <;> rfl, Wave.lower_regs _ _⟩

theorem Regs.writes_vec (r : Regs) (d : BitVec 11) {l : Nat} (hl : l < 32) (v : W32) :
    (r.writes (wr32 (.vec d) l v)).read (.v d.toNat l) = v :=
  Regs.read_write_self r ⟨.v d.toNat l, v⟩ hl rfl

theorem OnlyCores.slice {s u : State} (h : OnlyCores s u) (n : Nat) : u.slice n = s.slice n := by
  rw [h]; rfl

theorem Slice.tag_setTag (t : Slice) (n : Nat) (e : TagEnt) : (t.setTag n e).tag n = e := Tab.get_put_self ..

/-- Waking the waiters of a slice where no one waits changes its list of waiters alone. -/
theorem wakeSome_none {s : State} {slice : Nat} (h : (s.slice slice).waiters = []) (p : Waiter → Bool) (filled : Bool) (slot : Nat) :
    wakeSome s slice p filled slot = s.modSlice slice (fun t => { t with waiters := t.waiters.filter (fun w => !p w) }) := by
  simp only [wakeSome, h, List.filter_nil, List.foldl_nil]

/-- An entry is replaced, and no one waits for it: cores and memory stand. -/
theorem wakeSome_setTag {s : State} {slice : Nat} (h : (s.slice slice).waiters = []) (n : Nat) (e : TagEnt) (p : Waiter → Bool)
    (filled : Bool) (slot : Nat) {u : State} (hu : wakeSome (s.modSlice slice (fun t => t.setTag n e)) slice p filled slot = u) :
    (u.slice slice).tag n = e ∧ u.mem = s.mem ∧ u.cores = s.cores := by
  have hwaiters : ((s.modSlice slice (fun t => t.setTag n e)).slice slice).waiters = [] := by
    rw [State.slice_modSlice]
    exact h
  rw [wakeSome_none hwaiters] at hu
  subst hu
  refine ⟨?_, rfl, rfl⟩
  rw [State.slice_modSlice, State.slice_modSlice]
  exact Slice.tag_setTag (s.slice slice) n e

/-- A dropped entry that no one waits for is INVALID; cores and memory stand. -/
theorem dropEntry_alone {s : State} {slice n : Nat} (h : (s.slice slice).waiters = []) :
    ((dropEntry s slice n).slice slice).tag n = TagEnt.empty ∧ (dropEntry s slice n).mem = s.mem ∧ (dropEntry s slice n).cores = s.cores :=
  wakeSome_setTag h n TagEnt.empty (fun w => w.ent == n) false 0 rfl

/-! ### The bytes of a fill -/

/-- u differs from s in HBM4's bytes and in what is marked of them. -/
def OnlyBytes (s u : State) : Prop :=
  u = { s with mem := u.mem, memPois := u.memPois, llcPois := u.llcPois, eccs := u.eccs, specs := u.specs }

theorem OnlyBytes.trans {s t u : State} (a : OnlyBytes s t) (b : OnlyBytes t u) : OnlyBytes s u := by
  unfold OnlyBytes at *
  rw [b, a]

theorem OnlyBytes.homeWrite {s : State} (h : Untraced s) (w : Writer) (spa : Nat) (bytes : List Byte) :
    OnlyBytes s (homeWrite s w spa bytes) := homeWriteBy_frame h ..

theorem OnlyBytes.writable {s u : State} (h : OnlyBytes s u) (p : Party) (a : Nat) : u.writable p a = s.writable p a := by
  rw [h]; rfl
theorem OnlyBytes.conf {s u : State} (h : OnlyBytes s u) : u.conf = s.conf := by rw [h]
theorem OnlyBytes.cores {s u : State} (h : OnlyBytes s u) : u.cores = s.cores := by rw [h]
theorem OnlyBytes.slice {s u : State} (h : OnlyBytes s u) (n : Nat) : u.slice n = s.slice n := by rw [h]; rfl

/-- Where HBM4 holds a slot of the heap. -/
def State.slotSpa (s : State) (slot : Nat) : Nat := s.conf.heapspa.toNat + 512 * slot

/-- Line i of a fill. -/
def fillPart (w : Writer) (slot : Nat) (b : List Byte) (s : State) (i : Nat) : State :=
  let a := s.conf.heapspa.toNat + 512 * slot + 64 * i
  if s.writable .host a = false then refuseOwner s 0 0xFFFF a
  else
    let s := homeWrite s w a ((b.drop (64 * i)).take 64)
    if (b.getD 512 0).toNat.testBit i then { s with memPois := setIns s.memPois (a / 64) } else s

theorem fillSlot_eq (s : State) (w : Writer) (slot : Nat) (b : List Byte) : fillSlot s w slot b = (List.range 8).foldl (fillPart w slot b) s := rfl

/-- A line that no poison marks is written where the table lets it. -/
theorem fillPart_clean {s : State} {w : Writer} {slot i : Nat} {b : List Byte} (hclean : b.getD 512 0 = 0)
    (hwritable : s.writable .host (s.slotSpa slot + 64 * i) = true) :
    fillPart w slot b s i = homeWrite s w (s.slotSpa slot + 64 * i) ((b.drop (64 * i)).take 64) := by
  have hbit : (b.getD 512 0).toNat.testBit i = false := by rw [hclean]; exact Nat.zero_testBit i
  rw [State.slotSpa] at hwritable ⊢
  simp only [fillPart, hwritable, hbit, Bool.true_eq_false, Bool.false_eq_true, if_false]

/-- After n lines HBM4 holds the first 64 × n bytes of the fill. -/
theorem fillLines_byte {s : State} (h : Untraced s) (w : Writer) (slot : Nat) {b : List Byte} (hlen : b.length = 513)
    (hclean : b.getD 512 0 = 0) (hwritable : ∀ i, i < 8 → s.writable .host (s.slotSpa slot + 64 * i) = true) :
    ∀ n, n ≤ 8 → OnlyBytes s ((List.range n).foldl (fillPart w slot b) s) ∧ Untraced ((List.range n).foldl (fillPart w slot b) s) ∧
      ∀ x, memByte ((List.range n).foldl (fillPart w slot b) s).mem x =
        if s.slotSpa slot ≤ x ∧ x < s.slotSpa slot + 64 * n then b.getD (x - s.slotSpa slot) 0 else memByte s.mem x := by
  intro n
  induction n with
  | zero => exact fun _ => ⟨rfl, h, fun x => (if_neg (by omega)).symm⟩
  | succ n ih =>
    intro hn
    obtain ⟨hframe, hun, hbyte⟩ := ih (by omega)
    rw [List.range_succ, List.foldl_append, List.foldl_cons, List.foldl_nil]
    generalize (List.range n).foldl (fillPart w slot b) s = u at hframe hun hbyte
    have hspa : u.slotSpa slot = s.slotSpa slot := by rw [State.slotSpa, hframe.conf, ← State.slotSpa]
    have hline : fillPart w slot b u n = homeWrite u w (s.slotSpa slot + 64 * n) ((b.drop (64 * n)).take 64) := by
      rw [← hspa]
      exact fillPart_clean hclean (by rw [hspa, hframe.writable]; exact hwritable n (by omega))
    have hpart : ((b.drop (64 * n)).take 64).length = 64 := by rw [List.length_take, List.length_drop, hlen]; omega
    rw [hline]
    refine ⟨hframe.trans (.homeWrite hun ..), hun.homeWrite .., fun x => ?_⟩
    rw [homeWrite_byte hun, hpart, hbyte]
    by_cases hin : s.slotSpa slot + 64 * n ≤ x ∧ x < s.slotSpa slot + 64 * n + 64
    · rw [if_pos hin, if_pos (by omega)]
      rw [List.getD_eq_getElem?_getD, List.getElem?_take_of_lt (by omega), List.getElem?_drop, List.getD_eq_getElem?_getD]
      congr 2
      omega
    · rw [if_neg hin]
      by_cases hbefore : s.slotSpa slot ≤ x ∧ x < s.slotSpa slot + 64 * n
      · rw [if_pos hbefore, if_pos (by omega)]
      · rw [if_neg hbefore, if_neg (by omega)]

/-- What a fill of an entry that is INFLIGHT, and that no one waits for, leaves: the entry VALID, and HBM4 with the slot's bytes. -/
theorem fillAt_inflight {s : State} {c vf world n slot : Nat} {k : W64} {b : List Byte} (w : Writer) (h : Untraced s)
    (hgranted : s.granted world vf = true) (hmatch : (s.slice (keySlice k)).match? k world = some n)
    (hstate : ((s.slice (keySlice k)).tag n).state = 1) (hslot : ((s.slice (keySlice k)).tag n).slot = slot)
    (hwaiters : (s.slice (keySlice k)).waiters = []) (hlen : b.length = 513) (hclean : b.getD 512 0 = 0)
    (hwritable : ∀ i, i < 8 → s.writable .host (s.slotSpa slot + 64 * i) = true) :
    ∃ u, fillAt s c vf world w k slot (some b) = (u, 0) ∧ ((u.slice (keySlice k)).tag n).state = 2 ∧
      (∀ d v, u.slot? d v = s.slot? d v) ∧
      ∀ x, memByte u.mem x = if s.slotSpa slot ≤ x ∧ x < s.slotSpa slot + 512 then b.getD (x - s.slotSpa slot) 0 else memByte s.mem x := by
  obtain ⟨hframe, -, hbyte⟩ := fillLines_byte h w slot hlen hclean hwritable 8 (Nat.le_refl 8)
  rw [← fillSlot_eq] at hframe hbyte
  have hacquired : OnlyCores (fillSlot s w slot b) (acquireSlot (fillSlot s w slot b) c slot) := .acquireSlot ..
  have hnone : ((acquireSlot (fillSlot s w slot b) c slot).slice (keySlice k)).waiters = [] := by
    rw [hacquired.slice, hframe.slice, hwaiters]
  obtain ⟨u, hu⟩ : ∃ u, fillAt s c vf world w k slot (some b) = (u, 0) ∧
      wakeSome ((acquireSlot (fillSlot s w slot b) c slot).modSlice (keySlice k) (fun t => t.setTag n { (s.slice (keySlice k)).tag n with
        state := 2, age := (((acquireSlot (fillSlot s w slot b) c slot).world? world).getD default).wage })) (keySlice k)
        (fun w => w.ent == n) true slot = u := by
    refine ⟨_, ?_, rfl⟩
    simp only [fillAt, hgranted, hmatch, hstate, hslot, Bool.true_eq_false, if_false, ne_eq, not_true_eq_false, false_and, or_self, if_true]
  obtain ⟨hfill, hwake⟩ := hu
  obtain ⟨htag, hmem, hcores⟩ := wakeSome_setTag hnone _ _ _ _ _ hwake
  refine ⟨u, hfill, congrArg TagEnt.state htag, fun d v => ?slots, fun x => ?mem⟩
  case slots => rw [State.slot?_of_cores hcores, slot?_acquireSlot, State.slot?_of_cores hframe.cores]
  case mem => rw [hmem, hacquired.mem, hbyte]

/-- What a drop of such an entry leaves. -/
theorem fillAt_drop {s : State} {c vf world n slot : Nat} {k : W64} (w : Writer) (hgranted : s.granted world vf = true)
    (hmatch : (s.slice (keySlice k)).match? k world = some n) (hstate : ((s.slice (keySlice k)).tag n).state = 1)
    (hslot : ((s.slice (keySlice k)).tag n).slot = slot) :
    fillAt s c vf world w k slot none = (dropEntry s (keySlice k) n, 0) := by
  simp only [fillAt, hgranted, hmatch, hstate, hslot, Bool.true_eq_false, if_false, ne_eq, not_true_eq_false, false_and, or_self]

/-- A status in a vector register. -/
theorem statusWr_vec {f : Fields} {d : BitVec 11} (hdst : f.dst = .vec d) (lane st : Nat) :
    statusWr f lane st = wr32 (.vec d) lane (BitVec.ofNat 32 st) := by
  rw [statusWr, hdst]
  exact if_neg (by simp)

theorem fillOrDropDone : FillOrDropDone := by
  intro s c w id lane n t o l d here alone num unlogged unwritten lanes hlane st ready hdst hlt hgranted hmatch hstate hslot hwaiters
  have h : Fills s c w id lane t o l := ⟨here, alone, num, lanes, hlane, st, ready⟩
  have hpends : Pends s c w t o l := ⟨here, alone, lanes, unlogged, unwritten⟩
  have hstatus := statusWr_vec hdst lane 0
  refine ⟨fun hopc => ?drop, fun hopc hun hlen hsrc hclean _ hwritable => ?fill⟩
  case drop =>
    have hexec := h.exec_drop hopc (fillAt_drop (o.writerOf c w lane t) hgranted hmatch hstate hslot)
    obtain ⟨hempty, hmem, hcores⟩ := dropEntry_alone (n := n) hwaiters
    obtain ⟨t', hslot', hops, hregs⟩ := (hpends.ends (State.slot?_of_cores hcores) (statusWr o.f lane 0) 0).ops
    have honly := OnlyCores.finishLane (dropEntry s (keySlice l.va) n) c w id lane (statusWr o.f lane 0) 0
    rw [num, hlane] at hslot'
    refine ⟨_, t', hexec, honly.mem.trans hmem, ?_, hslot', hops, ?_⟩
    · rw [honly.slice, hempty]; rfl
    · rw [hregs, hstatus]; exact Regs.writes_vec _ d hlt 0
  case fill =>
    have hbytes : (o.bytes.drop l.src2.toNat).take 513 = o.bytes := by rw [hsrc]; exact List.take_of_length_le hlen.le
    obtain ⟨u, hfill, hvalid, hslots, hmem⟩ := fillAt_inflight (c := c) (o.writerOf c w lane t) hun hgranted hmatch hstate hslot hwaiters hlen
      hclean hwritable
    have hexec := h.exec_fill (s' := u) (st := 0) hopc (by rw [hbytes]; exact hfill)
    obtain ⟨t', hslot', hops, hregs⟩ := (hpends.ends hslots (statusWr o.f lane 0) 0).ops
    have honly := OnlyCores.finishLane u c w id lane (statusWr o.f lane 0) 0
    rw [num, hlane] at hslot'
    refine ⟨_, t', hexec, ?_, hslot', hops, ?_, fun x => ?_⟩
    · rw [honly.slice, hvalid]
    · rw [hregs, hstatus]; exact Regs.writes_vec _ d hlt 0
    · rw [honly.mem]; exact hmem x

/-- Settles O54: what a lookup answers, what a post leaves and what a fill or drop leaves, each from the equation of its event. -/
theorem stockpotEventsComplete : Obligations.StockpotEventsComplete := by
  refine ⟨lookupAnswers, batchPosted, fillOrDropDone, ?hit, ?denied, ?waits, ?post, ?status⟩
  case hit =>
    intro s c w id lane n t o l x here alone num opc lanes hlane st quiet ready hrings hbanks hworld hgranted hmatch hvalid hgen
    have h : Looks s c w id lane t o l := ⟨here, alone, num, opc, lanes, hlane, st, quiet, ready⟩
    obtain ⟨u, hexec, hmem, hslot⟩ := h.hit hbanks hworld hgranted hmatch hvalid hgen
    exact ⟨u, _, hexec, hslot, hmem, rfl⟩
  case denied =>
    intro s c w id lane t o l here alone num opc lanes hlane st quiet ready hrings hgranted
    have h : Looks s c w id lane t o l := ⟨here, alone, num, opc, lanes, hlane, st, quiet, ready⟩
    obtain ⟨u, hexec, hmem, hslot⟩ := h.denied hgranted
    exact ⟨u, _, hexec, hslot, hmem, rfl⟩
  case waits =>
    intro s n world r q qs hring hwaits
    exact (exec_shadingBatchPost_eq ..).trans (execShadingBatchPost_waits hring hwaits)
  case post =>
    intro s n world r b bs hring hwaits hopen hclosed henabled hroom
    exact (exec_shadingBatchPost_eq ..).trans (execShadingBatchPost_post hring hwaits hopen hclosed henabled hroom)
  case status =>
    intro s s' c w id lane st t o l here alone num lanes hlane hst ready
    have h : Fills s c w id lane t o l := ⟨here, alone, num, lanes, hlane, hst, ready⟩
    exact ⟨h.exec_fill, h.exec_drop⟩

end Sys2Proof.Machine
end

section
open Sys2Proof Sys2Proof.Machine

namespace Sys2Proof.Machine

/-! ## Passes of the rasteriser (12 R297 to R302) -/

@[simp] theorem exec_primitiveRasterise_eq (id : Nat) (s : State) : exec (.primitiveRasterise id) s = execPrimitiveRasterise id s := by rfl
@[simp] theorem exec_surfaceWaveCreate_eq (c : Nat) (s : State) : exec (.surfaceWaveCreate c) s = execSurfaceWaveCreate c s := by rfl
@[simp] theorem exec_fragmentApply_eq (id x y : Nat) (s : State) : exec (.fragmentApply id x y) s = execFragmentApply id x y s := by rfl
@[simp] theorem exec_passComplete_eq (id : Nat) (s : State) : exec (.passComplete id) s = execPassComplete id s := by rfl

/-- The pass of a number after a change of it that keeps its number. -/
theorem State.pass?_modPass {s : State} {id : Nat} {p : Pass} {g : Pass → Pass} (h : s.pass? id = some p)
    (hg : ∀ r, (g r).id = r.id := by intro _; rfl) : (s.modPass id g).pass? id = some (g p) := by
  have hfind := find?_map_id (key := Pass.id) (n := id) (fun r hr => (hg r).trans hr) s.passes
  rw [show s.passes.find? (fun r => r.id == id) = some p from h] at hfind
  exact hfind

/-! ### Primitives (12 R297) -/

/-- A fragment of a primitive, as its pass holds it. -/
def Prim.fragAt (q : Prim) (g : List Nat) (home : Nat) : Frag :=
  { draw := q.draw, uidx := q.uidx, pseq := q.pseq, x := g.getD 0 0, y := g.getD 1 0, core := home, export_ := none }

/-- The pass holds the fragments of its first primitive, whose shares have still to go out. -/
def rasterised (s : State) (p : Pass) (q : Prim) (qs : List Prim) (fs : List (List Nat)) : State :=
  (s.modPass p.id (fun p => { p with prims := qs })).modPass p.id (fun r => { r with
    frags := r.frags ++ fs.map (fun g => q.fragAt g ((tileHome s r.vf (fragTile g).1 (fragTile g).2).getD 0)) })

/-- A primitive that is discarded leaves its pass. -/
theorem execPrimitiveRasterise_culled {s : State} {p : Pass} {q : Prim} {qs : List Prim} {d : Draw} (hpass : s.pass? p.id = some p)
    (hprims : p.prims = q :: qs) (hdraw : p.draw? q.draw = some d) (hnone : fragsOf p d q = none) :
    execPrimitiveRasterise p.id s = .next (s.modPass p.id (fun p =>
      { p with prims := qs, culled := if q.verts.any vertexOut then p.culled + 1 else p.culled })) := by
  simp only [execPrimitiveRasterise, hpass, hprims, hdraw, hnone]

/-- A primitive that is not discarded gives its fragments to the pass and a share to the home of each tile. -/
theorem execPrimitiveRasterise_shares {s : State} {p : Pass} {q : Prim} {qs : List Prim} {d : Draw} {fs : List (List Nat)}
    (hpass : s.pass? p.id = some p) (hprims : p.prims = q :: qs) (hdraw : p.draw? q.draw = some d) (hsome : fragsOf p d q = some fs)
    (hhome : tileHome s p.vf 0 0 ≠ none) :
    execPrimitiveRasterise p.id s =
      .next (((fs.map fragTile).dedup).foldl (fun s t => sendShare s p q fs t) (rasterised s p q qs fs)) := by
  have hplaced : (tileHome s p.vf 0 0).isNone = false := Option.isNone_eq_false_iff.mpr (Option.isSome_iff_ne_none.mpr hhome)
  simp only [execPrimitiveRasterise, hpass, hprims, hdraw, hsome, hplaced, Bool.and_false, Bool.false_eq_true, if_false]
  rfl

theorem primitiveShared : PrimitiveShared := by
  intro s p q qs d fs x c hpass hprims hdraw hsome hnonempty htile hplaced hhome
  have htiles : (fs.map fragTile).dedup = [x] := by
    rw [List.eq_replicate_of_mem (l := fs.map fragTile) (a := x) fun t ht => by obtain ⟨g, hg, rfl⟩ := List.mem_map.mp ht; exact htile g hg]
    exact List.replicate_dedup (by simpa using hnonempty)
  have hall : fs.filter (fun g => fragTile g == x) = fs := List.filter_eq_self.mpr fun g hg => beq_iff_eq.mpr (htile g hg)
  have hcores : fs.map (fun g => q.fragAt g ((tileHome s p.vf (fragTile g).1 (fragTile g).2).getD 0)) = fs.map (fun g => q.fragAt g c) :=
    List.map_congr_left fun g hg => by rw [htile g hg, hhome]; rfl
  have hexec := (exec_primitiveRasterise_eq ..).trans (execPrimitiveRasterise_shares hpass hprims hdraw hsome hplaced)
  have hshare : tileHome (rasterised s p q qs fs) p.vf x.1 x.2 = some c := hhome
  rw [htiles, List.foldl_cons, List.foldl_nil, sendShare_eq, hshare] at hexec
  refine ⟨_, { p with prims := qs, frags := p.frags ++ fs.map (fun g => q.fragAt g c) }, hexec, rfl, ?pass, rfl, rfl, ?shares⟩
  case pass =>
    refine (State.pass?_modPass (State.pass?_modPass hpass)).trans ?_
    rw [hcores]
  case shares =>
    rw [shareTo, State.core_modCore, hall]
    rfl

/-! ### Surface waves (12 R298; 01 R19) -/

/-- A register reads what was last written to it, or what it held. -/
theorem Regs.read_writes_of_agree {ws : List RegWrite} (hok : ∀ w, w ∈ ws → w.ok) {e : RegElem} {val : W32} (he : e.real)
    (hp : e.isP15 = false) (hagree : ∀ w, w ∈ ws → w.elem = e → w.val = val) :
    ∀ r : Regs, (r.read e = val ∨ ∃ w, w ∈ ws ∧ w.elem = e) → (r.writes ws).read e = val := by
  induction ws with
  | nil => exact fun r hr => hr.resolve_right fun ⟨_, hw, _⟩ => by cases hw
  | cons a ws ih =>
    intro r hr
    refine ih (fun w hw => hok w (List.mem_cons_of_mem _ hw)) (fun w hw => hagree w (List.mem_cons_of_mem _ hw)) (r.write a.elem a.val) ?_
    by_cases hae : a.elem = e
    · left
      rw [← hagree a List.mem_cons_self hae, ← hae]
      exact Regs.read_write_self r a (hok a List.mem_cons_self) (by rw [hae]; exact hp)
    · rw [Regs.read_write_of_ne r a e (hok a List.mem_cons_self) he hae]
      refine hr.imp_right fun ⟨w, hw, hwe⟩ => ⟨w, (List.mem_cons.mp hw).resolve_left fun h => hae (h ▸ hwe), hwe⟩

/-- The writes of a surface wave's attributes, and of its fragments. -/
def surfWrites (attrs : List W32) (fs : List (List Nat)) : List RegWrite :=
  (attrs.take 12).zipIdx.map (fun p => (⟨.u (4 + p.2), p.1⟩ : RegWrite)) ++
  fs.zipIdx.flatMap (fun p =>
    [(⟨.v 0 p.2, BitVec.ofNat 32 (p.1.getD 0 0 + 65536 * p.1.getD 1 0)⟩ : RegWrite), ⟨.v 1 p.2, BitVec.ofNat 32 (p.1.getD 2 0)⟩,
     ⟨.v 2 p.2, BitVec.ofNat 32 (p.1.getD 3 0)⟩, ⟨.v 3 p.2, BitVec.ofNat 32 (p.1.getD 4 0)⟩])

theorem surfRegs_eq (r : Regs) (attrs : List W32) (fs : List (List Nat)) : surfRegs r attrs fs = r.writes (surfWrites attrs fs) := rfl

/-- What each of these writes is. -/
theorem mem_surfWrites {attrs : List W32} {fs : List (List Nat)} {w : RegWrite} (h : w ∈ surfWrites attrs fs) :
    (∃ n a, w = ⟨.u (4 + n), a⟩) ∨ ∃ i g, fs[i]? = some g ∧ (w = ⟨.v 0 i, BitVec.ofNat 32 (g.getD 0 0 + 65536 * g.getD 1 0)⟩ ∨
      w = ⟨.v 1 i, BitVec.ofNat 32 (g.getD 2 0)⟩ ∨ w = ⟨.v 2 i, BitVec.ofNat 32 (g.getD 3 0)⟩ ∨ w = ⟨.v 3 i, BitVec.ofNat 32 (g.getD 4 0)⟩) := by
  rcases List.mem_append.mp h with h | h
  · obtain ⟨p, -, rfl⟩ := List.mem_map.mp h
    exact .inl ⟨_, _, rfl⟩
  · obtain ⟨⟨g, i⟩, hp, hw⟩ := List.mem_flatMap.mp h
    simp only [List.mem_cons, List.not_mem_nil, or_false] at hw
    exact .inr ⟨i, g, List.mk_mem_zipIdx_iff_getElem?.mp hp, hw⟩

theorem surfWrites_ok {attrs : List W32} {fs : List (List Nat)} (hfit : fs.length ≤ 32) : ∀ w, w ∈ surfWrites attrs fs → w.ok := by
  intro w hw
  obtain ⟨n, a, rfl⟩ | ⟨i, g, hg, hv⟩ := mem_surfWrites hw
  · trivial
  · have hi : i < 32 := Nat.lt_of_lt_of_le (List.getElem?_eq_some_iff.mp hg).1 hfit
    obtain rfl | rfl | rfl | rfl := hv <;> exact hi

/-- u0 to u3 stay. -/
theorem surfRegs_low {attrs : List W32} {fs : List (List Nat)} (hfit : fs.length ≤ 32) (r : Regs) {n : Nat} (hn : n < 4) :
    (surfRegs r attrs fs).read (.u n) = r.read (.u n) := by
  rw [surfRegs_eq]
  refine Regs.read_writes_of_agree (e := .u n) (surfWrites_ok hfit) trivial rfl (fun w hw he => ?_) r (.inl rfl)
  obtain ⟨m, a, rfl⟩ | ⟨i, g, -, hv⟩ := mem_surfWrites hw
  · have hm : 4 + m = n := RegElem.u.inj he
    omega
  · obtain rfl | rfl | rfl | rfl := hv <;> cases he

/-- v0 and v1 of a thread hold its pixel and its depth. -/
theorem surfRegs_frag {attrs : List W32} {fs : List (List Nat)} (hfit : fs.length ≤ 32) (r : Regs) {i : Nat} {g : List Nat}
    (hg : fs[i]? = some g) :
    (surfRegs r attrs fs).read (.v 0 i) = BitVec.ofNat 32 (g.getD 0 0 + 65536 * g.getD 1 0) ∧
    (surfRegs r attrs fs).read (.v 1 i) = BitVec.ofNat 32 (g.getD 2 0) := by
  have hi : i < 32 := Nat.lt_of_lt_of_le (List.getElem?_eq_some_iff.mp hg).1 hfit
  have hmem : ∀ w, w ∈ [(⟨.v 0 i, BitVec.ofNat 32 (g.getD 0 0 + 65536 * g.getD 1 0)⟩ : RegWrite), ⟨.v 1 i, BitVec.ofNat 32 (g.getD 2 0)⟩,
      ⟨.v 2 i, BitVec.ofNat 32 (g.getD 3 0)⟩, ⟨.v 3 i, BitVec.ofNat 32 (g.getD 4 0)⟩] → w ∈ surfWrites attrs fs := fun w hw =>
    List.mem_append_right _ (List.mem_flatMap.mpr ⟨(g, i), List.mk_mem_zipIdx_iff_getElem?.mpr hg, hw⟩)
  have hsame : ∀ {k : Nat} {b : List Nat}, k = i → fs[k]? = some b → b = g := fun hk hb => Option.some.inj ((hk ▸ hb).symm.trans hg)
  rw [surfRegs_eq]
  constructor
  · refine Regs.read_writes_of_agree (e := .v 0 i) (surfWrites_ok hfit) hi rfl (fun w hw he => ?_) r (.inr ⟨_, hmem _ List.mem_cons_self, rfl⟩)
    obtain ⟨m, a, rfl⟩ | ⟨k, b, hb, rfl | rfl | rfl | rfl⟩ := mem_surfWrites hw
    · cases he
    · rw [hsame (RegElem.v.inj he).2 hb]
    all_goals exact absurd (RegElem.v.inj he).1 (by decide)
  · refine Regs.read_writes_of_agree (e := .v 1 i) (surfWrites_ok hfit) hi rfl (fun w hw he => ?_) r
      (.inr ⟨_, hmem _ (List.mem_cons_of_mem _ List.mem_cons_self), rfl⟩)
    obtain ⟨m, a, rfl⟩ | ⟨k, b, hb, rfl | rfl | rfl | rfl⟩ := mem_surfWrites hw
    · cases he
    · exact absurd (RegElem.v.inj he).1 (by decide)
    · rw [hsame (RegElem.v.inj he).2 hb]
    all_goals exact absurd (RegElem.v.inj he).1 (by decide)

/-- A surface wave of the fragments fs, made of a new wave. -/
def Wave.surface (v : Wave) (p : Pass) (t : TileShare) (fs : List (List Nat)) : Wave :=
  { v with
    regs := surfRegs v.regs t.attrs fs,
    lanes := v.lanes.zipIdx.map (fun (x : Lane × Nat) => if x.2 < fs.length then x.1 else { x.1 with exited := true }),
    surf := some { pass := p.id, draw := t.draw, pseq := t.pseq, px := fs.map (fun g => (g.getD 0 0, g.getD 1 0)),
                   depth := fs.map (fun g => BitVec.ofNat 32 (g.getD 2 0)), exported := 0 } }

/-- The gang of a surface wave. -/
def surfGang (s : State) (c : Nat) (p : Pass) (l : Launch) (t : TileShare) : Gang :=
  { (default : Gang) with
    id := freeGang s c, vf := p.vf, cls := t.cls, launch := l, priv := p.level == .h, level0 := 1,
    bars := List.replicate 16 { ph := 0, e := 1, a := 0, held := [] }, rings := l.rings.map RingDecl.start }

/-- How a surface wave starts. -/
def surfEntry (g : Gang) (d : Draw) (l : Launch) (t : TileShare) : Entry :=
  { pc := l.entry, level := if g.priv then .h else .u, check := .none, s0 := d.addr,
    s2 := BitVec.ofNat 32 t.pseq, s3 := BitVec.ofNat 32 (t.pseq / 2 ^ 32), owes := true }

/-- The gang stands in its core before its wave. -/
def surfPlaced (s : State) (c : Nat) (p : Pass) (l : Launch) (t : TileShare) : State :=
  s.modCore c (fun x => { x with gangs := x.gangs.ins (freeGang s c) (surfGang s c p l t) })

theorem startSurface_eq {s : State} {c w : Nat} {l : Launch} {zs : List Nat} (hroom : roomFor (s.core c) l.vgran l.aregs 1 = some ([w], zs))
    (p : Pass) (d : Draw) (t : TileShare) (fs : List (List Nat)) :
    startSurface s c p d l t fs = (putWaves (surfPlaced s c p l t) c (surfGang s c p l t) [w] zs
      (fun _ => surfEntry (surfGang s c p l t) d l t)).modWave c w (fun v => v.surface p t fs) := by
  rw [startSurface, hroom]
  rfl

theorem acquireAt_shares (s : State) (c sc d : Nat) : ((acquireAt s c sc).core d).shares = (s.core d).shares := by
  unfold acquireAt invalidateL1
  split
  · by_cases h : d = c
    · subst h; rw [State.core_modCore]
    · rw [State.core_modCore_of_ne _ _ h]
  · rfl

/-- The lanes of a surface wave: those beyond its fragments have exited. -/
theorem Wave.surface_lanes {v : Wave} {p : Pass} {t : TileShare} {fs : List (List Nat)} {x : Lane}
    (hv : ∀ y, y ∈ v.lanes → y.pc = x.pc ∧ y.exited = false) {i : Nat} {y : Lane} (hy : (v.surface p t fs).lanes[i]? = some y) :
    y.pc = x.pc ∧ y.exited = decide (fs.length ≤ i) := by
  rw [Wave.surface, List.getElem?_map, List.getElem?_zipIdx] at hy
  obtain ⟨⟨z, k⟩, hz, rfl⟩ := Option.map_eq_some_iff.mp hy
  obtain ⟨z', hz', hk⟩ := Option.map_eq_some_iff.mp hz
  obtain ⟨rfl, rfl⟩ := Prod.mk.inj hk
  obtain ⟨hpc, hexited⟩ := hv z' (List.mem_of_getElem? hz')
  simp only [Nat.zero_add]
  split
  next hlt => exact ⟨hpc, by rw [hexited, decide_eq_false (Nat.not_le.mpr hlt)]⟩
  next hge => exact ⟨hpc, (decide_eq_true (Nat.not_lt.mp hge)).symm⟩

end Sys2Proof.Machine
end

section
open Sys2Proof Sys2Proof.Machine

namespace Sys2Proof.Machine

/-- The core keeps of its first share what is beyond 32 fragments. -/
def takeShare (s : State) (c : Nat) (t : TileShare) (r : List TileShare) : State :=
  s.modCore c (fun k => { k with
    shares := (if t.frags.drop 32 = [] then [] else [{ t with frags := t.frags.drop 32 }]) ++ r })

section SurfaceWave

variable {s : State} {c : Nat} {t : TileShare} {r : List TileShare} {p : Pass} {d : Draw}

theorem execSurfaceWaveCreate_reads (hshares : (s.core c).shares = t :: r) (hpass : s.pass? t.pass = some p)
    (hdraw : p.draw? t.draw = some d) (hsurf : d.surf = none) (hgood : d.surfBad = false) :
    execSurfaceWaveCreate c s = .next (readSurf s c p d) := by
  simp only [execSurfaceWaveCreate, hshares, hpass, Option.bind_some, hdraw, Option.map_some, hsurf, hgood, Bool.false_eq_true, if_false]

theorem execSurfaceWaveCreate_drops (hshares : (s.core c).shares = t :: r) (hpass : s.pass? t.pass = some p)
    (hdraw : p.draw? t.draw = some d) (hsurf : d.surf = none) (hbad : d.surfBad = true) :
    execSurfaceWaveCreate c s = .next (dropShare (s.modCore c (fun k => { k with shares := r })) t t.frags) := by
  simp only [execSurfaceWaveCreate, hshares, hpass, Option.bind_some, hdraw, Option.map_some, hsurf, hbad, if_true]

theorem execSurfaceWaveCreate_starts {l : Launch} (hshares : (s.core c).shares = t :: r) (hpass : s.pass? t.pass = some p)
    (hdraw : p.draw? t.draw = some d) (hsurf : d.surf = some l) (hready : (s.core c).ready = true) (hstarts : gangStarts s c l = true) :
    execSurfaceWaveCreate c s = .next (startSurface (takeShare s c t r) c p d l t (t.frags.take 32)) := by
  simp only [execSurfaceWaveCreate, hshares, hpass, Option.bind_some, hdraw, Option.map_some, hsurf, hready, hstarts, Bool.true_eq_false,
    or_self, if_false]
  rfl

end SurfaceWave

theorem putWave_shares (s : State) (c w : Nat) (g : Gang) (zs : List Nat) (e : Entry) :
    ((putWave s c w g zs e).core c).shares = (s.core c).shares := by
  rw [putWave, State.core_modGang, State.core_modCore]
  rfl

theorem surfaceWaveMade : SurfaceWaveMade := by
  intro s c w t r p d l zs hshares hfit hpass hdraw hsurf hready hstarts hroom hfree
  have hall : t.frags.take 32 = t.frags := List.take_of_length_le hfit
  have hrest : t.frags.drop 32 = [] := List.drop_of_length_le hfit
  have hcore : (takeShare s c t r).core c = { s.core c with shares := r } := by
    rw [takeShare, State.core_modCore, if_pos hrest]
    rfl
  have hroom' : roomFor ((takeShare s c t r).core c) l.vgran l.aregs 1 = some ([w], zs) := by
    rw [hcore]
    exact hroom
  have hexec := (exec_surfaceWaveCreate_eq ..).trans (execSurfaceWaveCreate_starts hshares hpass hdraw hsurf hready hstarts)
  rw [hall, startSurface_eq hroom', putWaves_one] at hexec
  generalize hg : surfGang (takeShare s c t r) c p l t = g at hexec
  generalize hu : surfPlaced (takeShare s c t r) c p l t = u at hexec
  generalize he : surfEntry g d l t = e at hexec
  generalize hz : zs.take g.launch.aregs = z at hexec
  obtain ⟨hu0, hu1, hu2, hu3⟩ := newWave_regs u c w g z e
  obtain ⟨hcount, hfresh⟩ := newWave_lanes u c w g z e
  have hlane : ∀ y, y ∈ (newWave u c w g z e).lanes → y.pc = (freshLane e.pc e.level e.check).pc ∧ y.exited = false := fun y hy => by
    rw [hfresh y hy]
    exact ⟨rfl, rfl⟩
  refine ⟨_, freshSlot ((newWave u c w g z e).surface p t t.frags), _, hexec, ?mem, ?shares, ?slot, ?count, fun i y hy => ?lanes,
    ?u0, ?u1, ?u2, ?u3, rfl, rfl, rfl, rfl, rfl, fun i f hf => surfRegs_frag hfit _ hf⟩
  case mem => rw [State.modWave_mem, acquireAt_mem, putWave_mem, ← hu]; rfl
  case shares =>
    have hplaced : (u.core c).shares = r := by rw [← hu, surfPlaced, State.core_modCore, hcore]
    rw [State.core_modWave, acquireAt_shares, putWave_shares, hplaced]
  case slot =>
    rw [State.slot?_modWave, slot?_acquireAt, slot?_putWave]
    rfl
  case count =>
    change ((newWave u c w g z e).lanes.zipIdx.map _).length = 32
    rw [List.length_map, List.length_zipIdx, hcount]
  case lanes =>
    obtain ⟨hpc, hexited⟩ := Wave.surface_lanes hlane hy
    exact ⟨hpc.trans (by rw [← he]; rfl), hexited⟩
  case u0 => exact (surfRegs_low hfit _ (by decide)).trans (hu0.trans (by rw [← he]; rfl))
  case u1 => exact (surfRegs_low hfit _ (by decide)).trans (hu1.trans (by rw [← he]; rfl))
  case u2 => exact (surfRegs_low hfit _ (by decide)).trans (hu2.trans (by rw [← he]; rfl))
  case u3 => exact (surfRegs_low hfit _ (by decide)).trans (hu3.trans (by rw [← he]; rfl))

/-! ### Exported fragments (12 R300, R301) -/

/-- A depth that is no number from 0 to 1. -/
def depthOut (z : W32) : Bool :=
  (decodeF .fp32 z.toNat).isNan || ltV false (decodeF .fp32 z.toNat) (intV 0) || ltV false (intV 1) (decodeF .fp32 z.toNat)

section Fragment

variable {s : State} {p : Pass} {x y : Nat} {q : Frag} {d : Draw} {c : List W32} {z : W32}

theorem execFragmentApply_applies (hpass : s.pass? p.id = some p) (hnext : nextFrag p x y = some q) (hexport : q.export_ = some (c, z))
    (hdraw : p.draw? q.draw = some d) (hin : depthOut z = false) :
    execFragmentApply p.id x y s = .next (applyFrag s p d q c z) := by
  rw [depthOut] at hin
  simp only [execFragmentApply, hpass, hnext, hexport, hdraw, hin, Bool.false_eq_true, if_false]

theorem execFragmentApply_discards (hpass : s.pass? p.id = some p) (hnext : nextFrag p x y = some q) (hexport : q.export_ = some (c, z))
    (hdraw : p.draw? q.draw = some d) (hout : depthOut z = true) :
    execFragmentApply p.id x y s = .next (s.modPass p.id (fun p => { p with frags := p.frags.filter (· != q) })) := by
  rw [depthOut] at hout
  simp only [execFragmentApply, hpass, hnext, hexport, hdraw, hout, if_true]
  rfl

/-- The back end's fragment is done in s, with the pages that its pass now waits for. -/
def fragDone (s : State) (g : EngAt) (p : Pass) (ps : Pages) (q : Frag) : State :=
  leaveFrag (dropReads (s.modPass p.id (fun p => { p with waits := ps })) g) p q true

theorem fragDone_pass? {s : State} {p : Pass} (h : s.pass? p.id = some p) (g : EngAt) (ps : Pages) (q : Frag) :
    (fragDone s g p ps q).pass? p.id = some { p with waits := ps, frags := p.frags.filter (· != q), applied := p.applied + 1 } :=
  State.pass?_modPass (p := { p with waits := ps }) (State.pass?_modPass h)

theorem fragDone_mem (s : State) (g : EngAt) (p : Pass) (ps : Pages) (q : Frag) : (fragDone s g p ps q).mem = s.mem := rfl

/-- Under NEVER a fragment whose depth has been read is done. -/
theorem applyFrag_never {s1 : State} {ps : Pages} {zb : List Byte} (hnever : bits d.state.toNat 2 0 = 0)
    (hdepth : targetRead s (rasterAt (some q.core) p.vf p.level) p.waits (p.depthAt q.x q.y) 4 = (s1, ps, some zb)) :
    applyFrag s p d q c z = fragDone s1 (rasterAt (some q.core) p.vf p.level) p ps q := by
  simp only [applyFrag, hdepth, hnever, depthPasses, if_true]
  rfl

/-- Under ALWAYS without a depth write a fragment's blended colour is written. -/
theorem applyFrag_always {s1 s2 s3 : State} {p1 p2 p3 : Pages} {zb cb : List Byte} {a : Nat} (halways : bits d.state.toNat 2 0 = 6)
    (hnodepth : d.state.toNat.testBit 3 = false)
    (hdepth : targetRead s (rasterAt (some q.core) p.vf p.level) p.waits (p.depthAt q.x q.y) 4 = (s1, p1, some zb))
    (hcolour : targetRead s1 (rasterAt (some q.core) p.vf p.level) p1 (p.colourAt q.x q.y) (texBytes p.cfmt) = (s2, p2, some cb))
    (htarget : targetProbe s2 (rasterAt (some q.core) p.vf p.level) p2 (p.colourAt q.x q.y) (texBytes p.cfmt) =
      (s3, p3, some (some (.hbm a)))) :
    applyFrag s p d q c z = fragDone (homeWriteBy s3 (fun _ _ => (rasterAt (some q.core) p.vf p.level).writer) a
      (blendPixel p.cfmt (bits d.state.toNat 6 4) c cb) []) (rasterAt (some q.core) p.vf p.level) p p3 q := by
  have hwrite : ∀ b : List Byte, targetWrite s3 (rasterAt (some q.core) p.vf p.level) (some (.hbm a)) (p.colourAt q.x q.y) b =
      homeWriteBy s3 (fun _ _ => (rasterAt (some q.core) p.vf p.level).writer) a b [] := fun b =>
    congrArg Prod.fst (engWrite_hbm (g := rasterAt (some q.core) p.vf p.level) rfl s3 a (p.colourAt q.x q.y) b)
  simp only [applyFrag, hdepth, halways, depthPasses, hcolour, hnodepth, Bool.true_eq_false, Bool.false_eq_true, if_false, htarget]
  rw [← hwrite]
  rfl

end Fragment

theorem fragmentApplied : FragmentApplied := by
  intro s s1 p x y q d c z p1 zb hpass hnext hexport hdraw hin hdepth hpass1
  have hexec := (exec_fragmentApply_eq ..).trans (execFragmentApply_applies hpass hnext hexport hdraw hin)
  refine ⟨fun hnever => ?never, fun s2 s3 p2 p3 cb a halways hnodepth hcolour htarget hpass3 hun => ?always⟩
  case never =>
    rw [applyFrag_never hnever hdepth] at hexec
    exact ⟨_, _, hexec, fragDone_mem .., fragDone_pass? hpass1 .., rfl, rfl⟩
  case always =>
    rw [applyFrag_always halways hnodepth hdepth hcolour htarget] at hexec
    refine ⟨_, _, hexec, fragDone_pass? ?_ .., rfl, rfl, fun i => ?_⟩
    · rw [State.pass?, homeWriteBy_frame hun]
      exact hpass3
    · rw [fragDone_mem]
      exact (homeWriteBy_byte hun ..).trans (by simp)

/-! ### The record of a pass (12 R302) -/

/-- A write in HBM4 of a party that has no core. -/
theorem ownerWrite_of_no_core {s s1 : State} {g : EngAt} {a : Nat} {ps ps' : Pages} {va : W64} {b : List Byte} (hcore : g.core = none)
    (h : engProbe s g ps va b.length false = (s1, ps', .to (.hbm a))) :
    ownerWrite s g ps va b = (homeWriteBy s1 (fun _ _ => g.writer) a b [], ps', true) := by
  simp only [ownerWrite, h, engWrite_hbm hcore]

section Record

variable {s : State} {p : Pass}

theorem execPassComplete_unaligned (hpass : s.pass? p.id = some p) (hprims : p.prims = []) (hfrags : p.frags = [])
    (hfinished : p.finishedBelow p.ndraw = true) (hdone : p.done.toNat % 16 ≠ 0) :
    execPassComplete p.id s = .next { s with passes := s.passes.filter (fun q => q.id != p.id) } := by
  simp only [execPassComplete, hpass, hprims, hfrags, hfinished, hdone, bne_self_eq_false, Bool.not_true, Bool.or_self, Bool.false_eq_true,
    if_false, ne_eq, not_false_eq_true, if_true]

theorem execPassComplete_writes {s' : State} {ps : Pages} (hpass : s.pass? p.id = some p) (hprims : p.prims = []) (hfrags : p.frags = [])
    (hfinished : p.finishedBelow p.ndraw = true) (hdone : p.done.toNat % 16 = 0)
    (hwrite : ownerWrite s (rasterAt none p.vf p.level) p.waits p.done (doneRecord p.tag p.status p.applied.toNat) = (s', ps, true)) :
    execPassComplete p.id s = .next { s' with passes := s'.passes.filter (fun q => q.id != p.id) } := by
  simp only [execPassComplete, hpass, hprims, hfrags, hfinished, hdone, hwrite, bne_self_eq_false, Bool.not_true, Bool.or_self,
    Bool.false_eq_true, if_false, ne_eq, not_true_eq_false, if_true]

end Record

theorem passRecordWritten : PassRecordWritten := by
  intro s s1 p ps a hpass hprims hfrags hfinished hdone hprobe hun
  have hlen : (doneRecord p.tag p.status p.applied.toNat).length = 16 := doneRecord_length ..
  have hwrite := ownerWrite_of_no_core (b := doneRecord p.tag p.status p.applied.toNat) rfl (hlen.symm ▸ hprobe)
  refine ⟨_, (exec_passComplete_eq ..).trans (execPassComplete_writes hpass hprims hfrags hfinished hdone hwrite), ?passes, fun x => ?mem⟩
  case passes => rw [homeWriteBy_frame hun]
  case mem => exact (homeWriteBy_byte hun ..).trans (by rw [hlen]; simp [doneRecord])

/-- Settles O55: what each event of a pass leaves, from the equations of its cases. -/
theorem passEventsComplete : Obligations.PassEventsComplete := by
  refine ⟨primitiveShared, surfaceWaveMade, fragmentApplied, passRecordWritten, ?primitive, ?surface, ?fragment, ?record⟩
  case primitive =>
    intro s p q qs d hpass hprims hdraw
    exact ⟨fun hnone => (exec_primitiveRasterise_eq ..).trans (execPrimitiveRasterise_culled hpass hprims hdraw hnone),
      fun fs hsome hhome => (exec_primitiveRasterise_eq ..).trans (execPrimitiveRasterise_shares hpass hprims hdraw hsome hhome)⟩
  case surface =>
    intro s c t r p d hshares hpass hdraw
    exact ⟨fun hsurf hgood => (exec_surfaceWaveCreate_eq ..).trans (execSurfaceWaveCreate_reads hshares hpass hdraw hsurf hgood),
      fun hsurf hbad => (exec_surfaceWaveCreate_eq ..).trans (execSurfaceWaveCreate_drops hshares hpass hdraw hsurf hbad),
      fun l hsurf hready hstarts =>
        (exec_surfaceWaveCreate_eq ..).trans (execSurfaceWaveCreate_starts hshares hpass hdraw hsurf hready hstarts)⟩
  case fragment =>
    intro s p x y q d c z hpass hnext hexport hdraw
    exact ⟨fun hin => (exec_fragmentApply_eq ..).trans (execFragmentApply_applies hpass hnext hexport hdraw hin),
      fun hout => (exec_fragmentApply_eq ..).trans (execFragmentApply_discards hpass hnext hexport hdraw hout)⟩
  case record =>
    intro s s' p ps hpass hprims hfrags hfinished
    exact ⟨fun hdone => (exec_passComplete_eq ..).trans (execPassComplete_unaligned hpass hprims hfrags hfinished hdone),
      fun hdone hwrite => (exec_passComplete_eq ..).trans (execPassComplete_writes hpass hprims hfrags hfinished hdone hwrite)⟩

end Sys2Proof.Machine
end

section
open Sys2Proof Sys2Proof.Machine

namespace Sys2Proof.Machine

/-! ## The words that act once (12 R287, R288; 14 R332 to R336) -/

/-- A word that acts once attaches an operation with its leader's operands. -/
theorem onceWord_attaches {op : Nat} {mk : Fields → Instr} {a b : Fields → Ctx → Nat → W64}
    (hexec : ∀ f s, exec (mk f) s = onceWord op f s (a f) (b f)) :
    Attaches op mk SomeActive (fun f x => { x.op op f with
      lanes := [{ lane := (x.active f).headD 0, va := a f x ((x.active f).headD 0), src := (b f x ((x.active f).headD 0)).setWidth 128,
                  src2 := 0, tgt := .none, st := .known }] }) :=
  attaches_of_eq_addOp fun f s x h hsome => by
    obtain ⟨l, ls, hactive⟩ := List.exists_cons_of_ne_nil hsome
    rw [hexec, onceWord, issueWord_eq h, hactive]
    rfl

theorem saysOnceWordsAttach : SaysOnceWordsAttach := by
  unfold SaysOnceWordsAttach
  intro once a64 a32 b32 none_
  exact ⟨onceWord_attaches (a := a32) (b := b32) fun _ _ => rfl, onceWord_attaches (a := a32) (b := none_) fun _ _ => rfl,
    onceWord_attaches (a := a64) (b := b32) fun _ _ => rfl, onceWord_attaches (a := a64) (b := none_) fun _ _ => rfl,
    onceWord_attaches (a := a64) (b := b32) fun _ _ => rfl, onceWord_attaches (a := a64) (b := b32) fun _ _ => rfl,
    onceWord_attaches (a := a64) (b := b32) fun _ _ => rfl, onceWord_attaches (a := a64) (b := none_) fun _ _ => rfl,
    onceWord_attaches (a := a32) (b := none_) fun _ _ => rfl, onceWord_attaches (a := a32) (b := none_) fun _ _ => rfl,
    onceWord_attaches (a := a32) (b := none_) fun _ _ => rfl, onceWord_attaches (a := a64) (b := b32) fun _ _ => rfl⟩

/-! ### Their completion -/

namespace Pends

variable {s : State} {c w : Nat} {t : Slot} {o : Op} {l : LaneOp}

/-- A lane whose result is known takes its word's own last step. -/
theorem exec_known (h : Pends s c w t o l) (hst : l.st = .known) (hopc : 0xE0 ≤ o.opc) :
    exec (.memoryOpComplete c w o.id l.lane) s = (knownStep s c w o.id l.lane t.wave o l).elim (.fault .notEnabled) .next := by
  rw [exec_memoryOpComplete_eq, execMemoryOpComplete_alone h.here h.alone h.lane ⟨by omega, by omega⟩]
  simp only [laneStep, hst]

/-- The last step of a privileged word. -/
theorem exec_priv (h : Pends s c w t o l) (hst : l.st = .known) (hopc : 0xF7 ≤ o.opc) :
    exec (.memoryOpComplete c w o.id l.lane) s = (privOnce s c w o.id l.lane t.wave o l).elim (.fault .notEnabled) .next := by
  rw [h.exec_known hst (by omega), knownStep, if_neg (by omega), if_neg (by omega), if_neg (by omega), if_pos hopc, gated_alone h.alone]
  rfl

/-- The last step of a word of the Stockpot that acts once. -/
theorem exec_stk (h : Pends s c w t o l) (hst : l.st = .known) (hopc : o.opc = 0xE6 ∨ o.opc = 0xE7) :
    exec (.memoryOpComplete c w o.id l.lane) s = (stkOnce s c w o.id l.lane t.wave o l).elim (.fault .notEnabled) .next := by
  rw [h.exec_known hst (by omega), knownStep, if_neg (by omega), if_neg (by omega), if_pos hopc, gated_alone h.alone]
  rfl

/-- The completion changes nothing but its wave. -/
theorem endsAlone (h : Pends s c w t o l) (ws : List RegWrite) : EndsAlone s (finishLane s c w o.id l.lane ws 0) c w t o ws :=
  ⟨h.ends (fun _ _ => rfl) ws 0, OnlyCores.finishLane ..⟩

/-- A privileged word whose effect is x with a status, where the waves of x stand as in s. -/
theorem priv_ends (h : Pends s c w t o l) (hst : l.st = .known) (hopc : 0xF7 ≤ o.opc) {x : State} {st : Nat}
    (honce : privOnce s c w o.id l.lane t.wave o l = some (finishLane x c w o.id l.lane (statusWr o.f l.lane st) 0))
    (hx : ∀ k v, x.slot? k v = s.slot? k v) :
    ∃ u, exec (.memoryOpComplete c w o.id l.lane) s = .next u ∧ OnlyCores x u ∧ Ends s u c w t o (statusWr o.f l.lane st) 0 :=
  ⟨_, by rw [h.exec_priv hst hopc, honce]; rfl, OnlyCores.finishLane .., h.ends hx _ 0⟩

/-- A privileged word that answers a status and has no other effect. -/
theorem priv_only (h : Pends s c w t o l) (hst : l.st = .known) (hopc : 0xF7 ≤ o.opc) {st : Nat}
    (honce : privOnce s c w o.id l.lane t.wave o l = some (finishLane s c w o.id l.lane (statusWr o.f l.lane st) 0)) :
    ∃ u, exec (.memoryOpComplete c w o.id l.lane) s = .next u ∧ EndsAlone s u c w t o (statusWr o.f l.lane st) :=
  ⟨_, by rw [h.exec_priv hst hopc, honce]; rfl, h.endsAlone _⟩

/-- A privileged word that waits. -/
theorem priv_waits (h : Pends s c w t o l) (hst : l.st = .known) (hopc : 0xF7 ≤ o.opc)
    (honce : privOnce s c w o.id l.lane t.wave o l = none) : exec (.memoryOpComplete c w o.id l.lane) s = .fault .notEnabled := by
  rw [h.exec_priv hst hopc, honce]
  rfl

end Pends

/-! ### OWNSET and OWNGET (14 R334; 16 R366, R369) -/

/-- n frames from a are aligned and end in HBM4. -/
def FramesFit (a n : Nat) : Prop := a % 65536 = 0 ∧ a + 65536 * n ≤ hbmEnd

/-- Frame i is one of n frames from a. -/
def FrameOf (a n i : Nat) : Prop := a / 65536 ≤ i ∧ i < a / 65536 + n

theorem framesOk_iff (a n : Nat) : framesOk a n = true ↔ FramesFit a n := by
  simp only [framesOk, Bool.and_eq_true, decide_eq_true_eq, FramesFit]

/-- Something holds of one of n frames from a. -/
theorem any_frames (p : Nat → Bool) (a n : Nat) : ((List.range n).map (a / 65536 + ·)).any p = true ↔ ∃ i, FrameOf a n i ∧ p i = true := by
  simp only [List.any_map, List.any_eq_true, List.mem_range, Function.comp_apply, FrameOf]
  constructor
  · rintro ⟨i, hi, hp⟩
    exact ⟨_, ⟨by omega, by omega⟩, hp⟩
  · rintro ⟨i, ⟨hlo, hhi⟩, hp⟩
    exact ⟨i - a / 65536, by omega, by rwa [Nat.add_sub_cancel' hlo]⟩

/-- Frame i may not go to an owner (16 R369). -/
def PastQuota (s : State) (own i : Nat) : Prop :=
  (own < 64 ∧ (s.func own).chgrp.getLsbD (i / 131072) = false) ∨
    (own = ownHost ∧ ∃ p ∈ s.funcs, p.2.valid = true ∧ p.2.chgrp.getLsbD (i / 131072) = true)

theorem overQuota_iff (s : State) (own i : Nat) : overQuota s own i = true ↔ PastQuota s own i := by
  rw [overQuota, PastQuota, groupOf]
  by_cases hfn : own < 64
  · have hhost : own ≠ ownHost := by intro h; rw [h] at hfn; exact absurd hfn (by decide)
    simp [hfn, hhost]
  · by_cases hhost : own = ownHost
    · simp [hhost, show ¬ ownHost < 64 by decide]
    · simp [hfn, hhost]

theorem ownSet_misfit {s : State} {a n own : Nat} (h : ¬ FramesFit a n) : ownSet s a n own = (s, 2) := by
  rw [← framesOk_iff, Bool.not_eq_true] at h
  rw [ownSet, if_pos h]

/-- Whether a frame is owned. -/
def notFree (s : State) (i : Nat) : Bool := s.owner (65536 * i) != ownFree

theorem ownSet_fits {s : State} {a n own : Nat} (h : FramesFit a n) : ownSet s a n own =
    if ((List.range n).map (a / 65536 + ·)).any (notFree s) = true then (s, 1)
    else if ((List.range n).map (a / 65536 + ·)).any (overQuota s own) = true then (s, 3) else (setOwners s (a / 65536) n own, 0) := by
  rw [ownSet, if_neg (by rw [(framesOk_iff a n).mpr h]; decide)]
  rfl

theorem notFree_iff (s : State) (i : Nat) : notFree s i = true ↔ s.owner (65536 * i) ≠ ownFree := bne_iff_ne

theorem ownSet_owned {s : State} {a n own : Nat} (h : FramesFit a n) (howned : ∃ i, FrameOf a n i ∧ s.owner (65536 * i) ≠ ownFree) :
    ownSet s a n own = (s, 1) := by
  rw [ownSet_fits h, if_pos ((any_frames ..).mpr (howned.imp fun i hi => ⟨hi.1, (notFree_iff ..).mpr hi.2⟩))]

/-- No frame is owned. -/
theorem none_notFree {s : State} {a n : Nat} (hfree : ∀ i, FrameOf a n i → s.owner (65536 * i) = ownFree) :
    ¬ ((List.range n).map (a / 65536 + ·)).any (notFree s) = true := fun h => by
  obtain ⟨i, hi, howned⟩ := (any_frames ..).mp h
  exact (notFree_iff ..).mp howned (hfree i hi)

theorem ownSet_past {s : State} {a n own : Nat} (h : FramesFit a n) (hfree : ∀ i, FrameOf a n i → s.owner (65536 * i) = ownFree)
    (hpast : ∃ i, FrameOf a n i ∧ PastQuota s own i) : ownSet s a n own = (s, 3) := by
  rw [ownSet_fits h, if_neg (none_notFree hfree),
    if_pos ((any_frames ..).mpr (hpast.imp fun i hi => ⟨hi.1, (overQuota_iff ..).mpr hi.2⟩))]

theorem ownSet_gives {s : State} {a n own : Nat} (h : FramesFit a n) (hfree : ∀ i, FrameOf a n i → s.owner (65536 * i) = ownFree)
    (hquota : ∀ i, FrameOf a n i → ¬ PastQuota s own i) : ownSet s a n own = (setOwners s (a / 65536) n own, 0) := by
  rw [ownSet_fits h, if_neg (none_notFree hfree), if_neg fun hany => ?_]
  obtain ⟨i, hi, hpast⟩ := (any_frames ..).mp hany
  exact hquota i hi ((overQuota_iff ..).mp hpast)

/-- The owners after n frames from f are given away. -/
theorem get_setOwners (owners : Tab Nat) (f code i : Nat) : ∀ n,
    Tab.get ownHost ((List.range n).foldl (fun o k => Tab.put ownHost o (f + k) code) owners) i =
      if f ≤ i ∧ i < f + n then code else Tab.get ownHost owners i := by
  intro n
  induction n with
  | zero => exact (if_neg (by omega)).symm
  | succ n ih =>
    rw [List.range_succ, List.foldl_append, List.foldl_cons, List.foldl_nil]
    by_cases hlast : i = f + n
    · rw [hlast, Tab.get_put_self, if_pos (by omega)]
    · rw [Tab.get_put_of_ne _ _ _ hlast, ih]
      by_cases hin : f ≤ i ∧ i < f + n
      · rw [if_pos hin, if_pos (by omega)]
      · rw [if_neg hin, if_neg (by omega)]

theorem owner_frame (s : State) (i : Nat) : s.owner (65536 * i) = Tab.get ownHost s.owners i := by
  rw [State.owner, Nat.mul_div_cancel_left i (by decide)]

/-- Every frame of the range is its new owner's, and every other its old one's. -/
theorem setOwners_owner (s : State) (a n code i : Nat) :
    (FrameOf a n i → (setOwners s (a / 65536) n code).owner (65536 * i) = code) ∧
    (¬ FrameOf a n i → (setOwners s (a / 65536) n code).owner (65536 * i) = s.owner (65536 * i)) := by
  rw [owner_frame, owner_frame, setOwners]
  exact ⟨fun h => (get_setOwners ..).trans (if_pos h), fun h => (get_setOwners ..).trans (if_neg h)⟩

theorem OnlyCores.owner {s u : State} (h : OnlyCores s u) (a : Nat) : u.owner a = s.owner a := by rw [h]; rfl

section OwnerWords

variable {s : State} {c w : Nat} {t : Slot} {o : Op} {l : LaneOp}

theorem privOnce_ownset (hopc : o.opc = 0xFB) (s : State) (c w : Nat) (v : Wave) (l : LaneOp) : privOnce s c w o.id l.lane v o l =
    some (finishLane (ownSet s l.va.toNat l.src.toNat (o.f.m 0 7)).1 c w o.id l.lane
      (statusWr o.f l.lane (ownSet s l.va.toNat l.src.toNat (o.f.m 0 7)).2) 0) := by
  simp only [privOnce, hopc]

/-- OWNSET of which a status alone comes. -/
theorem Pends.ownset_only (h : Pends s c w t o l) (hst : l.st = .known) (hopc : o.opc = 0xFB) {st : Nat}
    (hset : ownSet s l.va.toNat l.src.toNat (o.f.m 0 7) = (s, st)) :
    ∃ u, exec (.memoryOpComplete c w o.id l.lane) s = .next u ∧ EndsAlone s u c w t o (statusWr o.f l.lane st) :=
  h.priv_only hst (by omega) (by rw [privOnce_ownset hopc, hset])

/-- OWNSET that gives its frames away. -/
theorem Pends.ownset_gives (h : Pends s c w t o l) (hst : l.st = .known) (hopc : o.opc = 0xFB)
    (hset : ownSet s l.va.toNat l.src.toNat (o.f.m 0 7) = (setOwners s (l.va.toNat / 65536) l.src.toNat (o.f.m 0 7), 0)) :
    ∃ u, exec (.memoryOpComplete c w o.id l.lane) s = .next u ∧ u.mem = s.mem ∧ Ends s u c w t o (statusWr o.f l.lane 0) 0 ∧
      ∀ i, (FrameOf l.va.toNat l.src.toNat i → u.owner (65536 * i) = o.f.m 0 7) ∧
        (¬ FrameOf l.va.toNat l.src.toNat i → u.owner (65536 * i) = s.owner (65536 * i)) := by
  obtain ⟨u, hexec, honly, hends⟩ := h.priv_ends hst (by omega) (x := setOwners s (l.va.toNat / 65536) l.src.toNat (o.f.m 0 7))
    (by rw [privOnce_ownset hopc, hset]) fun _ _ => rfl
  exact ⟨u, hexec, honly.mem, hends, fun i => by rw [honly.owner]; exact setOwners_owner ..⟩

theorem privOnce_ownget (hopc : o.opc = 0xFC) (s : State) (c w : Nat) (v : Wave) (l : LaneOp) : privOnce s c w o.id l.lane v o l =
    some (finishLane s c w o.id l.lane (statusWr o.f l.lane (ownGet s l.va.toNat).toNat) 0) := by
  simp only [privOnce, hopc]

end OwnerWords

end Sys2Proof.Machine
end

section
open Sys2Proof Sys2Proof.Machine

namespace Sys2Proof.Machine

/-! ### SCRUB (14 R334; 16 R369) -/

/-- What is left of a table under a key once keys are filtered. -/
theorem Tab.get?_filter_key {α : Type} (m : Tab α) (keep : Nat → Bool) (i : Nat) :
    Tab.get? (m.filter (fun p => keep p.1)) i = if keep i = true then m.get? i else none := by
  induction m with
  | nil => simp [Tab.get?]
  | cons p r ih =>
    obtain ⟨k, v⟩ := p
    by_cases hk : keep k = true
    · rw [List.filter_cons_of_pos (p := fun p : Nat × α => keep p.1) hk]
      by_cases hi : i = k
      · subst hi
        simp [Tab.get?, hk]
      · simp only [Tab.get?, if_neg hi, ih]
    · rw [List.filter_cons_of_neg (p := fun p : Nat × α => keep p.1) hk, ih]
      by_cases hi : i = k
      · subst hi
        simp [hk]
      · simp only [Tab.get?, if_neg hi]

/-- A key outside the bytes from a to stop. -/
def outside (a stop x : Nat) : Bool := !(decide (a ≤ x) && decide (x < stop))

theorem outside_iff (a stop x : Nat) : outside a stop x = true ↔ ¬ (a ≤ x ∧ x < stop) := by
  simp only [outside, Bool.not_eq_true', ← Bool.decide_and, decide_eq_false_iff_not]

/-- The part once the bytes from a to stop are zero, clean and in no L1. -/
def zeroed (s : State) (a stop : Nat) : State :=
  { s with
    mem := s.mem.filter (fun p => outside a stop p.1),
    memPois := s.memPois.filter (fun l => outside a stop (64 * l)),
    llcPois := s.llcPois.filter (fun i => outside a stop (4 * i)),
    eccs := s.eccs.filter (fun e => outside a stop e),
    cores := s.cores.map (fun p => (p.1, { p.2 with l1 := p.2.l1.filter (fun l => outside a stop (64 * l.1)) })) }

theorem zeroed_byte (s : State) (a stop x : Nat) : memByte (zeroed s a stop).mem x = if a ≤ x ∧ x < stop then 0 else memByte s.mem x := by
  rw [memByte, Tab.get, zeroed, Tab.get?_filter_key s.mem (outside a stop)]
  by_cases h : a ≤ x ∧ x < stop
  · rw [if_neg (fun hout => (outside_iff ..).mp hout h), if_pos h]
    rfl
  · rw [if_pos ((outside_iff ..).mpr h), if_neg h]
    rfl

/-- A core after its L1 lines from a to stop are gone. -/
theorem zeroed_core (s : State) (a stop k : Nat) :
    (zeroed s a stop).core k = { s.core k with l1 := (s.core k).l1.filter (fun l => outside a stop (64 * l.1)) } := by
  rw [State.core, Tab.get, zeroed, Tab.get?_map s.cores (fun u => { u with l1 := u.l1.filter (fun l => outside a stop (64 * l.1)) }),
    State.core, Tab.get]
  cases Tab.get? s.cores k <;> rfl

theorem zeroed_slot? (s : State) (a stop k v : Nat) : (zeroed s a stop).slot? k v = s.slot? k v := by
  rw [State.slot?, zeroed_core]
  rfl

theorem zeroed_l1 (s : State) {a stop x : Nat} (k : Nat) (ha : a % 64 = 0) (hlo : a ≤ x) (hhi : x < stop) :
    ((zeroed s a stop).core k).l1.get? (x / 64) = none := by
  rw [zeroed_core]
  refine (Tab.get?_filter_key (s.core k).l1 (fun i => outside a stop (64 * i)) (x / 64)).trans (if_neg fun hout => ?_)
  exact (outside_iff ..).mp hout (by omega)

theorem zeroed_linePois (s : State) {a stop x : Nat} (ha : a % 64 = 0) (hstop : stop % 64 = 0) (hlo : a ≤ x) (hhi : x < stop) :
    (zeroed s a stop).linePois x = false := by
  rw [State.linePois, Bool.or_eq_false_iff]
  constructor
  · rw [List.contains_eq_mem, decide_eq_false_iff_not]
    intro hmem
    exact (outside_iff ..).mp (List.mem_filter.mp hmem).2 (by omega)
  · refine List.any_eq_false.mpr fun i hi heq => ?_
    have hline : i / 16 = x / 64 := beq_iff_eq.mp heq
    exact (outside_iff ..).mp (List.mem_filter.mp hi).2 (by omega)

/-- Nothing is traced of a scrub where no page is. -/
theorem scrubTrace_of_untraced {s : State} (h : ∀ p, p ∈ s.funcs → ∀ v, v ∈ p.2.dbg.vtrs → v.pages = []) (old : List Host.Cell)
    (w : Writer) (a n : Nat) : scrubTrace s old w a n = s := by
  have hpages : s.funcs.flatMap (fun p => p.2.dbg.vtrs.flatMap (fun v => v.pages.map Prod.fst)) = [] :=
    List.flatMap_eq_nil_iff.mpr fun p hp => List.flatMap_eq_nil_iff.mpr fun v hv => by rw [h p hp v hv]; rfl
  simp only [scrubTrace, hpages]
  rfl

theorem scrub_misfit {s : State} {a n : Nat} (h : ¬ FramesFit a n) (w : Writer) : scrub s w a n = (s, 2) := by
  rw [← framesOk_iff, Bool.not_eq_true] at h
  rw [scrub, if_pos h]

theorem scrub_fits {s : State} (hun : Untraced s) {a n : Nat} (h : FramesFit a n) (w : Writer) :
    scrub s w a n = (setOwners (zeroed (homeTouches s a (65536 * n)) a (a + 65536 * n)) (a / 65536) n ownFree, 0) := by
  have htrace : ∀ old, scrubTrace (zeroed (homeTouches s a (65536 * n)) a (a + 65536 * n)) old w a n =
      zeroed (homeTouches s a (65536 * n)) a (a + 65536 * n) := fun old =>
    scrubTrace_of_untraced (fun p hp => hun.regions p (by rw [zeroed, homeTouches_frame] at hp; exact hp)) old w a n
  obtain ⟨specs, hspecs⟩ : ∃ specs, homeTouches s a (65536 * n) = { s with specs := specs } := ⟨_, homeTouches_frame ..⟩
  rw [hspecs] at htrace
  rw [scrub, if_neg (by rw [(framesOk_iff a n).mpr h]; decide), hspecs, ← htrace s.mem]
  rfl

/-- What a completion leaves of the lines of a core. -/
theorem finishLane_l1 {s : State} {c w : Nat} {t : Slot} {o : Op} {l : LaneOp} (ws : List RegWrite) (e : Exc) (h : s.slot? c w = some t)
    (ha : t.wave.ops = [o]) (hl : o.lanes = [l]) (hg : o.log = .none) (hn : isAtomic o.opc = false) (k : Nat) :
    ((finishLane s c w o.id l.lane ws e).core k).l1 = (s.core k).l1 := by
  rw [finishLane_alone ws e h ha hl hg hn]
  by_cases hk : k = c
  · rw [hk, State.core_modWave, State.core_modWave]
  · rw [State.core_modWave_of_ne _ _ _ hk, State.core_modWave_of_ne _ _ _ hk]

theorem OnlyCores.linePois {s u : State} (h : OnlyCores s u) (x : Nat) : u.linePois x = s.linePois x := by rw [h]; rfl

section Scrub

variable {s : State} {c w : Nat} {t : Slot} {o : Op} {l : LaneOp}

theorem privOnce_scrub (hopc : o.opc = 0xFF) (s : State) (c w : Nat) (v : Wave) (l : LaneOp) : privOnce s c w o.id l.lane v o l =
    some (finishLane (scrub s (laneWriter c w v.gang o.spo o.off l.lane) l.va.toNat l.src.toNat).1 c w o.id l.lane
      (statusWr o.f l.lane (scrub s (laneWriter c w v.gang o.spo o.off l.lane) l.va.toNat l.src.toNat).2) 0) := by
  simp only [privOnce, hopc]

/-- SCRUB of frames: they are zero, clean, in no L1 and free. -/
theorem Pends.scrub_frames (h : Pends s c w t o l) (hst : l.st = .known) (hopc : o.opc = 0xFF) (hun : Untraced s)
    (hfits : FramesFit l.va.toNat l.src.toNat) :
    ∃ u, exec (.memoryOpComplete c w o.id l.lane) s = .next u ∧ Ends s u c w t o (statusWr o.f l.lane 0) 0 ∧
      (∀ x, memByte u.mem x = if l.va.toNat ≤ x ∧ x < l.va.toNat + 65536 * l.src.toNat then 0 else memByte s.mem x) ∧
      (∀ x, l.va.toNat ≤ x → x < l.va.toNat + 65536 * l.src.toNat →
        u.linePois x = false ∧ ∀ k, (u.core k).l1.get? (x / 64) = none) ∧
      ∀ i, (FrameOf l.va.toNat l.src.toNat i → u.owner (65536 * i) = ownFree) ∧
        (¬ FrameOf l.va.toNat l.src.toNat i → u.owner (65536 * i) = s.owner (65536 * i)) := by
  obtain ⟨haligned, -⟩ := id hfits
  generalize hx : setOwners (zeroed (homeTouches s l.va.toNat (65536 * l.src.toNat)) l.va.toNat (l.va.toNat + 65536 * l.src.toNat))
    (l.va.toNat / 65536) l.src.toNat ownFree = x
  have hslots : ∀ k v, x.slot? k v = s.slot? k v := fun k v => by
    rw [← hx]
    exact (zeroed_slot? ..).trans (by rw [homeTouches_frame]; rfl)
  have honce : privOnce s c w o.id l.lane t.wave o l = some (finishLane x c w o.id l.lane (statusWr o.f l.lane 0) 0) := by
    rw [privOnce_scrub hopc, scrub_fits hun hfits, hx]
  have honly := OnlyCores.finishLane x c w o.id l.lane (statusWr o.f l.lane 0) 0
  refine ⟨_, by rw [h.exec_priv hst (by omega), honce]; rfl, h.ends hslots _ 0, fun b => ?mem, fun b hlo hhi => ⟨?clean, fun k => ?lines⟩,
    fun i => ?owner⟩
  case mem => rw [honly.mem, ← hx]; exact (zeroed_byte ..).trans (by rw [homeTouches_mem])
  case clean => rw [honly.linePois, ← hx]; exact zeroed_linePois _ (by omega) (by omega) hlo hhi
  case lines =>
    rw [finishLane_l1 _ _ ((hslots c w).trans h.here) h.alone h.lane h.unlogged (by rw [hopc]; decide), ← hx]
    exact zeroed_l1 _ k (by omega) hlo hhi
  case owner =>
    have hkept : (zeroed (homeTouches s l.va.toNat (65536 * l.src.toNat)) l.va.toNat (l.va.toNat + 65536 * l.src.toNat)).owner (65536 * i) =
        s.owner (65536 * i) := by
      rw [zeroed, homeTouches_frame]
      rfl
    rw [honly.owner, ← hx, ← hkept]
    exact setOwners_owner ..

end Scrub

end Sys2Proof.Machine
end

section
open Sys2Proof Sys2Proof.Machine

namespace Sys2Proof.Machine

/-! ### TLBINV and TLBINVA (14 R333; 16 R360) -/

/-- A core after an invalidation: selected entries are gone, and its waves give them up. -/
def Core.flushed (sel : TlbSel) (k : Core) : Core :=
  { k with
    tlb := k.tlb.filter (fun e => !sel.takes e),
    slots := k.slots.map (fun q => (q.1, { q.2 with wave := q.2.wave.forget sel })) }

theorem flushTlbs_core (s : State) (sel : TlbSel) (k : Nat) : (flushTlbs s sel).core k = (s.core k).flushed sel := by
  rw [State.core, Tab.get, flushTlbs]
  refine (congrArg (Option.getD · Core.idle) (Tab.get?_map s.cores (Core.flushed sel) k)).trans ?_
  rw [State.core, Tab.get]
  cases Tab.get? s.cores k <;> rfl

/-- A cluster after an invalidation. -/
def Cluster.flushed (sel : TlbSel) (k : Cluster) : Cluster :=
  { k with
    tlb2 := k.tlb2.filter (fun e => !sel.takes e),
    walk := k.walk.filter (fun e => match sel.vf with | some f => e.vf != f | none => false) }

theorem flushTlbs_cluster (s : State) (sel : TlbSel) (k : Nat) : (flushTlbs s sel).cluster k = (s.cluster k).flushed sel := by
  rw [State.cluster, Tab.get, flushTlbs]
  refine (congrArg (Option.getD · Cluster.idle) (Tab.get?_map s.clusters (Cluster.flushed sel) k)).trans ?_
  rw [State.cluster, Tab.get]
  cases Tab.get? s.clusters k <;> rfl

theorem flushTlbs_slot? (s : State) (sel : TlbSel) (c w : Nat) :
    (flushTlbs s sel).slot? c w = (s.slot? c w).map (fun t => { t with wave := t.wave.forget sel }) := by
  rw [State.slot?, flushTlbs_core]
  exact Tab.get?_map (s.core c).slots (fun t => { t with wave := t.wave.forget sel }) w

/-- A wave none of whose operations is of the shared space gives nothing up. -/
theorem Wave.forget_of_unshared {v : Wave} (h : ∀ o, o ∈ v.ops → isShared o = false) (sel : TlbSel) : v.forget sel = v := by
  have hops : v.ops.map (fun (o : Op) => if isShared o then { o with lanes := o.lanes.map (fun (l : LaneOp) =>
      if sel.touches v.vf l.va.toNat then l.forget else l) } else o) = v.ops :=
    (List.map_congr_left fun o ho => by rw [h o ho]; rfl).trans (List.map_id _)
  rw [Wave.forget, hops]

/-- What a completion leaves of the TLB of a core. -/
theorem finishLane_tlb {s : State} {c w : Nat} {t : Slot} {o : Op} {l : LaneOp} (ws : List RegWrite) (e : Exc) (h : s.slot? c w = some t)
    (ha : t.wave.ops = [o]) (hl : o.lanes = [l]) (hg : o.log = .none) (hn : isAtomic o.opc = false) (k : Nat) :
    ((finishLane s c w o.id l.lane ws e).core k).tlb = (s.core k).tlb := by
  rw [finishLane_alone ws e h ha hl hg hn]
  by_cases hk : k = c
  · rw [hk, State.core_modWave, State.core_modWave]
  · rw [State.core_modWave_of_ne _ _ _ hk, State.core_modWave_of_ne _ _ _ hk]

theorem OnlyCores.cluster {s u : State} (h : OnlyCores s u) (k : Nat) : u.cluster k = s.cluster k := by rw [h]; rfl

theorem mem_kept {sel : TlbSel} {es : List TlbEnt} {e : TlbEnt} : e ∈ es.filter (fun e => !sel.takes e) ↔ e ∈ es ∧ ¬ sel.takes e = true := by
  rw [List.mem_filter, Bool.not_eq_true']
  simp

section Invalidation

variable {s : State} {c w : Nat} {t : Slot} {o : Op} {l : LaneOp} {sel : TlbSel}

/-- An invalidation that nothing holds up takes the selected entries from every TLB. -/
theorem Pends.invalidates (h : Pends s c w t o l) (hst : l.st = .known) (hopc : o.opc = 0xF9 ∨ o.opc = 0xFA)
    (honce : privOnce s c w o.id l.lane t.wave o l = invStep s c w o.id l.lane o sel) (hwq : wqUsing s sel = [])
    (hpeers : peersUsing s sel = []) (hheld : heldUsing s sel = false) :
    ∃ u, exec (.memoryOpComplete c w o.id l.lane) s = .next u ∧ u.mem = s.mem ∧
      u.slot? c w = some (t.ended o (statusWr o.f l.lane 0) o.exc) ∧
      (∀ k e, e ∈ (u.core k).tlb ↔ e ∈ (s.core k).tlb ∧ ¬ sel.takes e = true) ∧
      (∀ k e, e ∈ (u.cluster k).tlb2 ↔ e ∈ (s.cluster k).tlb2 ∧ ¬ sel.takes e = true) := by
  have hunshared : isShared o = false := by
    obtain hopc | hopc := hopc <;> simp [isShared, hopc, isLoad, isStore, isAtomic]
  have hatomic : isAtomic o.opc = false := by obtain hopc | hopc := hopc <;> rw [hopc] <;> decide
  have hslot : (flushTlbs s sel).slot? c w = some t := by
    rw [flushTlbs_slot?, h.here, Option.map_some, Wave.forget_of_unshared fun p hp => by
      rw [h.alone] at hp; rw [List.mem_singleton.mp hp]; exact hunshared]
  have hstep : invStep s c w o.id l.lane o sel = some (finishLane (flushTlbs s sel) c w o.id l.lane (statusWr o.f l.lane 0) 0) := by
    simp only [invStep, hwq, hpeers, hheld]
    rfl
  have honly := OnlyCores.finishLane (flushTlbs s sel) c w o.id l.lane (statusWr o.f l.lane 0) 0
  refine ⟨_, by rw [h.exec_priv hst (by omega), honce, hstep]; rfl, honly.mem, ?slot, fun k e => ?tlb, fun k e => ?tlb2⟩
  case slot =>
    rw [finishLane_lands _ _ hslot h.alone h.lane h.unlogged, h.unwritten]
    rw [List.filter_nil, List.nil_append, show o.exc ||| 0 = o.exc from BitVec.or_zero]
  case tlb =>
    rw [finishLane_tlb _ _ hslot h.alone h.lane h.unlogged hatomic, flushTlbs_core]
    exact mem_kept
  case tlb2 =>
    rw [honly.cluster, flushTlbs_cluster]
    exact mem_kept

/-- An invalidation that a write, add or transfer holds up waits. -/
theorem Pends.invalidation_waits (h : Pends s c w t o l) (hst : l.st = .known) (hopc : o.opc = 0xF9 ∨ o.opc = 0xFA)
    (honce : privOnce s c w o.id l.lane t.wave o l = invStep s c w o.id l.lane o sel)
    (husing : wqUsing s sel ≠ [] ∨ peersUsing s sel ≠ [] ∨ heldUsing s sel = true) :
    exec (.memoryOpComplete c w o.id l.lane) s = .fault .notEnabled := by
  refine h.priv_waits hst (by omega) (honce.trans (if_neg fun hnone => ?_))
  simp only [Bool.and_eq_true, List.isEmpty_iff, Bool.not_eq_true'] at hnone
  obtain ⟨⟨hwq, hpeers⟩, hheld⟩ := hnone
  obtain hu | hu | hu := husing
  · exact hu hwq
  · exact hu hpeers
  · exact Bool.false_ne_true (hheld.symm.trans hu)

end Invalidation

/-- The selection of an invalidation. -/
def invSel (v : Wave) (o : Op) (l : LaneOp) : TlbSel :=
  if o.opc = 0xF9 then selRange v.vf l.va l.src.toNat else selAll (o.f.m 6 2) (o.f.m 0 6) l.va l.src.toNat

theorem privOnce_inv {o : Op} (hopc : o.opc = 0xF9 ∨ o.opc = 0xFA) (s : State) (c w : Nat) (v : Wave) (l : LaneOp) :
    privOnce s c w o.id l.lane v o l = invStep s c w o.id l.lane o (invSel v o l) := by
  obtain hopc | hopc := hopc <;> simp only [privOnce, invSel, hopc] <;> rfl

/-- The entries that an invalidation takes. -/
def invTakes (v : Wave) (o : Op) (l : LaneOp) (e : TlbEnt) : Prop :=
  if o.opc = 0xF9 then
    e.vf = v.vf ∧ (l.src.toNat = 0 ∨ (e.va < l.va.toNat + 4096 * l.src.toNat ∧ l.va.toNat < e.va + 2 ^ e.size))
  else match o.f.m 6 2 with
    | 0 => e.vf = o.f.m 0 6
    | 1 => e.vf = o.f.m 0 6 ∧ l.src.toNat ≠ 0 ∧ e.gpa < l.va.toNat + 4096 * l.src.toNat ∧ l.va.toNat < e.gpa + 2 ^ e.size
    | _ => True

theorem meets_iff (lo hi a n : Nat) : meets (some (lo, hi)) a n = true ↔ lo < hi ∧ a < hi ∧ lo < a + n := by
  simp only [meets, Bool.and_eq_true, decide_eq_true_eq, and_assoc]

theorem selRange_takes (f : Nat) (a : W64) (n : Nat) (e : TlbEnt) : (selRange f a n).takes e = true ↔
    e.vf = f ∧ (n = 0 ∨ (e.va < a.toNat + 4096 * n ∧ a.toNat < e.va + 2 ^ e.size)) := by
  by_cases hn : n = 0
  · simp [selRange, TlbSel.takes, hn, meets]
  · have hsel : selRange f a n = { vf := some f, va := some (a.toNat, a.toNat + 4096 * n), gpa := none } := by rw [selRange, if_neg hn]
    rw [hsel]
    simp only [TlbSel.takes, Bool.and_eq_true, beq_iff_eq, meets_iff, hn, false_or]
    simp only [meets, and_true]
    exact and_congr_right fun _ => ⟨fun h => h.2, fun h => ⟨by omega, h⟩⟩

theorem selAll_takes_gpa (f : Nat) (a : W64) (n : Nat) (e : TlbEnt) : (selAll 1 f a n).takes e = true ↔
    e.vf = f ∧ n ≠ 0 ∧ e.gpa < a.toNat + 4096 * n ∧ a.toNat < e.gpa + 2 ^ e.size := by
  simp only [selAll, TlbSel.takes, Bool.and_eq_true, beq_iff_eq, meets_iff]
  simp only [meets, and_true]
  exact and_congr_right fun _ => and_congr_left fun _ => by omega

theorem invSel_takes (v : Wave) (o : Op) (l : LaneOp) (e : TlbEnt) : (invSel v o l).takes e = true ↔ invTakes v o l e := by
  rw [invSel, invTakes]
  split
  · exact selRange_takes ..
  · split
    next h => rw [h]; simp [selAll, TlbSel.takes, meets]
    next h => rw [h]; exact selAll_takes_gpa ..
    next h0 h1 =>
      have hall : selAll (o.f.m 6 2) (o.f.m 0 6) l.va l.src.toNat = { vf := none, va := none, gpa := none } := by
        unfold selAll
        split
        · exact absurd ‹_› h0
        · exact absurd ‹_› h1
        · rfl
      rw [hall]
      simp [TlbSel.takes, meets]

end Sys2Proof.Machine
end

section
open Sys2Proof Sys2Proof.Machine

namespace Sys2Proof.Machine

/-! ### HALTQ (14 R336) -/

theorem OnlyCores.queue {s u : State} (h : OnlyCores s u) (q : Nat) : u.queue q = s.queue q := by rw [h]; rfl

/-- A withdrawal of a queue without cards is over at once. -/
theorem endWithdraw_queue {s : State} {q : Nat} (hw : (s.queue q).withdrawn = true) (hp : (s.queue q).paused = true) :
    (endWithdraw s q).queue q = { s.queue q with withdrawn := !(s.queue q).cards.isEmpty } := by
  rw [endWithdraw, hw, Bool.true_and]
  cases (s.queue q).cards.isEmpty with
  | true =>
    rw [if_pos rfl, State.queue_modQueue]
    exact congrArg (fun p => { s.queue q with withdrawn := false, paused := p }) hp.symm
  | false =>
    rw [if_neg Bool.false_ne_true]
    exact congrArg (fun b => { s.queue q with withdrawn := b }) hw

theorem endWithdraw_queue_of_ne (s : State) {q k : Nat} (h : k ≠ q) : (endWithdraw s q).queue k = s.queue k := by
  rw [endWithdraw]
  split
  · exact State.queue_modQueue_of_ne _ _ h
  · rfl

theorem endWithdraw_cores (s : State) (q : Nat) : (endWithdraw s q).cores = s.cores := by rw [endWithdraw]; split <;> rfl
theorem endWithdraw_mem (s : State) (q : Nat) : (endWithdraw s q).mem = s.mem := by rw [endWithdraw]; split <;> rfl

/-- A core after a queue's records are discarded. -/
def Core.discarded (q : Nat) (k : Core) : Core := { k with held := k.held.filter (fun h => h.q != q) }

theorem discardRecs_core (s : State) (q k : Nat) : (discardRecs s q).core k = (s.core k).discarded q := by
  rw [State.core, Tab.get, discardRecs]
  refine (congrArg (Option.getD · Core.idle) (Tab.get?_map s.cores (Core.discarded q) k)).trans ?_
  rw [State.core, Tab.get]
  cases Tab.get? s.cores k <;> rfl

/-- A queue whose cards have no undealt record. -/
def Queue.discarded (t : Queue) : Queue := { t with cards := t.cards.map (fun k => { k with undealt := [] }) }

theorem discardRecs_queue (s : State) (q : Nat) : (discardRecs s q).queue q = (s.queue q).discarded :=
  State.queue_modQueue s q Queue.discarded

theorem discardRecs_queue_of_ne (s : State) {q k : Nat} (h : k ≠ q) : (discardRecs s q).queue k = s.queue k :=
  State.queue_modQueue_of_ne s Queue.discarded h

/-- A queue under withdrawal. -/
def Queue.withdraw (t : Queue) : Queue := { t with withdrawn := true, paused := true, withdrawals := t.withdrawals + 1 }

theorem withdrawQueue_eq (s : State) (q : Nat) : withdrawQueue s q = endWithdraw ((discardRecs s q).modQueue q Queue.withdraw) q := rfl

theorem withdrawQueue_core (s : State) (q k : Nat) : (withdrawQueue s q).core k = (s.core k).discarded q := by
  rw [withdrawQueue_eq, State.core, endWithdraw_cores, State.modQueue_cores, ← discardRecs_core]
  rfl

theorem withdrawQueue_mem (s : State) (q : Nat) : (withdrawQueue s q).mem = s.mem := endWithdraw_mem ..

theorem withdrawQueue_slot? (s : State) (q k v : Nat) : (withdrawQueue s q).slot? k v = s.slot? k v := by
  rw [State.slot?, withdrawQueue_core]
  rfl

/-- The queue that is withdrawn: paused, none of its records left to deal, under withdrawal while it has a card. -/
theorem withdrawQueue_queue (s : State) (q : Nat) : (withdrawQueue s q).queue q =
    { (s.queue q).discarded.withdraw with withdrawn := !(s.queue q).cards.isEmpty } := by
  have hqueue : ((discardRecs s q).modQueue q Queue.withdraw).queue q = (s.queue q).discarded.withdraw := by
    rw [State.queue_modQueue, discardRecs_queue]
  have hempty : (s.queue q).discarded.withdraw.cards.isEmpty = (s.queue q).cards.isEmpty := List.isEmpty_map
  rw [withdrawQueue_eq, endWithdraw_queue (by rw [hqueue]; rfl) (by rw [hqueue]; rfl), hqueue, hempty]

theorem withdrawQueue_queue_of_ne (s : State) {q k : Nat} (h : k ≠ q) : (withdrawQueue s q).queue k = s.queue k := by
  rw [withdrawQueue_eq, endWithdraw_queue_of_ne _ h, State.queue_modQueue_of_ne _ _ h, discardRecs_queue_of_ne s h]

section Haltq

variable {s : State} {c w : Nat} {t : Slot} {o : Op} {l : LaneOp}

theorem privOnce_haltq (hopc : o.opc = 0xFE) (s : State) (c w : Nat) (v : Wave) (l : LaneOp) :
    privOnce s c w o.id l.lane v o l = haltqStep s c w o.id l.lane o l := by
  simp only [privOnce, hopc]

/-- HALTQ of a number that is no queue's. -/
theorem Pends.haltq_unnamed (h : Pends s c w t o l) (hst : l.st = .known) (hopc : o.opc = 0xFE) (hq : 1024 ≤ l.va.toNat) :
    ∃ u, exec (.memoryOpComplete c w o.id l.lane) s = .next u ∧ EndsAlone s u c w t o (statusWr o.f l.lane 1) :=
  h.priv_only hst (by omega) (by rw [privOnce_haltq hopc, haltqStep, if_pos hq])

/-- A queue's PAUSED bit set to p. -/
def Queue.setPaused (p : Bool) (t : Queue) : Queue := { t with paused := p }

/-- HALTQ that pauses or resumes its queue. -/
theorem Pends.haltq_sets (h : Pends s c w t o l) (hst : l.st = .known) (hopc : o.opc = 0xFE) {p : Bool}
    (hstep : haltqStep s c w o.id l.lane o l =
      some (finishLane (s.modQueue l.va.toNat (Queue.setPaused p)) c w o.id l.lane (statusWr o.f l.lane 0) 0)) :
    ∃ u, exec (.memoryOpComplete c w o.id l.lane) s = .next u ∧ u.mem = s.mem ∧ Ends s u c w t o (statusWr o.f l.lane 0) 0 ∧
      u.queue l.va.toNat = { s.queue l.va.toNat with paused := p } ∧ ∀ q, q ≠ l.va.toNat → u.queue q = s.queue q := by
  obtain ⟨u, hexec, honly, hends⟩ := h.priv_ends hst (by omega) ((privOnce_haltq hopc ..).trans hstep) fun _ _ => rfl
  refine ⟨u, hexec, honly.mem.trans (State.modQueue_mem ..), hends, ?_, fun q hq => ?_⟩
  · rw [honly.queue, State.queue_modQueue]
    rfl
  · rw [honly.queue, State.queue_modQueue_of_ne _ _ hq]

theorem haltqStep_pause (hq : l.va.toNat < 1024) (hf : o.f.m 0 2 = 0) : haltqStep s c w o.id l.lane o l =
    some (finishLane (s.modQueue l.va.toNat (Queue.setPaused true)) c w o.id l.lane (statusWr o.f l.lane 0) 0) := by
  rw [haltqStep, if_neg (Nat.not_le.mpr hq), hf]
  rfl

theorem haltqStep_resume (hq : l.va.toNat < 1024) (hf : o.f.m 0 2 = 1) (hw : (s.queue l.va.toNat).withdrawn = false) :
    haltqStep s c w o.id l.lane o l =
      some (finishLane (s.modQueue l.va.toNat (Queue.setPaused false)) c w o.id l.lane (statusWr o.f l.lane 0) 0) := by
  rw [haltqStep, if_neg (Nat.not_le.mpr hq), hf]
  exact if_neg (by rw [hw]; decide)

theorem haltqStep_resume_waits (hq : l.va.toNat < 1024) (hf : o.f.m 0 2 = 1) (hw : (s.queue l.va.toNat).withdrawn = true) :
    haltqStep s c w o.id l.lane o l = none := by
  rw [haltqStep, if_neg (Nat.not_le.mpr hq), hf]
  exact if_pos hw

/-- WITHDRAW's step. -/
theorem haltqStep_withdraw (hq : l.va.toNat < 1024) (hf : 2 ≤ o.f.m 0 2) : haltqStep s c w o.id l.lane o l =
    if o.released then (if (s.queue l.va.toNat).withdrawn then none else some (finishLane s c w o.id l.lane (statusWr o.f l.lane 0) 0))
    else some (markAsked (withdrawQueue s l.va.toNat) c w o.id) := by
  rw [haltqStep, if_neg (Nat.not_le.mpr hq)]
  split
  · omega
  · omega
  · rfl

theorem markAsked_slot? {s : State} (h : s.slot? c w = some t) (ha : t.wave.ops = [o]) :
    (markAsked s c w o.id).slot? c w = some { t with wave := { t.wave with ops := [{ o with released := true }] } } := by
  rw [markAsked, State.slot?_modWave, h]
  simp [Wave.modOp, ha]

/-- What is changed in a wave leaves the records that the cores hold. -/
theorem modWave_held (s : State) (c w k : Nat) (f : Wave → Wave) : ((s.modWave c w f).core k).held = (s.core k).held := by
  by_cases hk : k = c
  · rw [hk, State.core_modWave]
  · rw [State.core_modWave_of_ne _ _ _ hk]

/-- The first step of HALTQ.WITHDRAW. -/
theorem Pends.haltq_withdraws (h : Pends s c w t o l) (hst : l.st = .known) (hopc : o.opc = 0xFE) (hq : l.va.toNat < 1024)
    (hf : 2 ≤ o.f.m 0 2) (hfirst : o.released = false) :
    ∃ u, exec (.memoryOpComplete c w o.id l.lane) s = .next u ∧ u.mem = s.mem ∧
      u.slot? c w = some { t with wave := { t.wave with ops := [{ o with released := true }] } } ∧
      (u.queue l.va.toNat).paused = true ∧ (u.queue l.va.toNat).withdrawn = !(s.queue l.va.toNat).cards.isEmpty ∧
      (u.queue l.va.toNat).cards = (s.queue l.va.toNat).cards.map (fun k => { k with undealt := [] }) ∧
      (∀ k r, r ∈ (u.core k).held → r.q ≠ l.va.toNat) ∧ ∀ q, q ≠ l.va.toNat → u.queue q = s.queue q := by
  have hstep : haltqStep s c w o.id l.lane o l = some (markAsked (withdrawQueue s l.va.toNat) c w o.id) := by
    rw [haltqStep_withdraw hq hf, hfirst]
    rfl
  have hqueue : ∀ q, (markAsked (withdrawQueue s l.va.toNat) c w o.id).queue q = (withdrawQueue s l.va.toNat).queue q :=
    (OnlyCores.modWave ..).queue
  have hexec : exec (.memoryOpComplete c w o.id l.lane) s = .next (markAsked (withdrawQueue s l.va.toNat) c w o.id) := by
    rw [h.exec_priv hst (by omega), privOnce_haltq hopc, hstep]
    rfl
  refine ⟨markAsked (withdrawQueue s l.va.toNat) c w o.id, hexec, ?mem, ?slot, ?paused, ?withdrawn, ?cards, ?held, ?others⟩
  case mem => rw [markAsked, State.modWave_mem, withdrawQueue_mem]
  case slot => exact markAsked_slot? ((withdrawQueue_slot? ..).trans h.here) h.alone
  case paused => rw [hqueue, withdrawQueue_queue]; rfl
  case withdrawn => rw [hqueue, withdrawQueue_queue]
  case cards => rw [hqueue, withdrawQueue_queue]; rfl
  case held =>
    intro k r hr
    rw [markAsked, modWave_held, withdrawQueue_core] at hr
    exact bne_iff_ne.mp (List.mem_filter.mp hr).2
  case others => exact fun q hne => (hqueue q).trans (withdrawQueue_queue_of_ne s hne)

end Haltq

end Sys2Proof.Machine
end

section
open Sys2Proof Sys2Proof.Machine

namespace Sys2Proof.Machine

/-! ### CTXSV and CTXLD (14 R332) -/

theorem State.slot?_modSlot_elsewhere (s : State) (g : Slot → Slot) {c w k v : Nat} (h : k ≠ c ∨ v ≠ w) :
    (s.modSlot c w g).slot? k v = s.slot? k v := by
  by_cases hk : k = c
  · subst hk
    exact State.slot?_modSlot_of_ne s k g (h.resolve_left (fun e => e rfl))
  · rw [State.slot?, State.modSlot, State.core_modCore_of_ne _ _ hk]
    rfl

/-- The record of a save of wave v at a: it is aligned and HOST's. -/
def SaveRoom (s : State) (a : Nat) (v : Slot) : Prop :=
  a % 4096 = 0 ∧ hostFrames s a (recMap 0 0 v.wave.vgran v.wave.sgran v.wave.tregs v.wave.aregs).stop = true

section Ctxsv

variable {s : State} {c w : Nat} {t : Slot} {o : Op} {l : LaneOp}

theorem privOnce_ctxsv (hopc : o.opc = 0xF7) (s : State) (c w : Nat) (v : Wave) (l : LaneOp) :
    privOnce s c w o.id l.lane v o l = some (ctxsvStep s c w o.id l.lane v o l) := by
  simp only [privOnce, hopc]

/-- CTXSV that answers at once. -/
theorem Pends.ctxsv_only (h : Pends s c w t o l) (hst : l.st = .known) (hopc : o.opc = 0xF7) {st : Nat}
    (hstep : ctxsvStep s c w o.id l.lane t.wave o l = finishLane s c w o.id l.lane (statusWr o.f l.lane st) 0) :
    ∃ u, exec (.memoryOpComplete c w o.id l.lane) s = .next u ∧ EndsAlone s u c w t o (statusWr o.f l.lane st) :=
  h.priv_only hst (by omega) (by rw [privOnce_ctxsv hopc, hstep])

theorem ctxsvStep_unnamed (hnone : s.slot? (l.src.toNat / 64 % 512) (l.src.toNat % 64) = none ∨ 32768 ≤ l.src.toNat) (v : Wave) :
    ctxsvStep s c w o.id l.lane v o l = finishLane s c w o.id l.lane (statusWr o.f l.lane 1) 0 := by
  unfold ctxsvStep
  dsimp only
  split
  · rfl
  next hslot => rw [if_pos (hnone.resolve_left (by rw [hslot]; exact Option.some_ne_none _))]

/-- CTXSV of a resident wave. -/
theorem ctxsvStep_named {x : Slot} (hslot : s.slot? (l.src.toNat / 64 % 512) (l.src.toNat % 64) = some x) (hnamed : l.src.toNat < 32768)
    (v : Wave) : ctxsvStep s c w o.id l.lane v o l =
      if l.va.toNat % 4096 ≠ 0 ∨ hostFrames s l.va.toNat (recMap 0 0 x.wave.vgran x.wave.sgran x.wave.tregs x.wave.aregs).stop = false then
        finishLane s c w o.id l.lane (statusWr o.f l.lane 2) 0
      else if x.drain.isSome then finishLane s c w o.id l.lane (statusWr o.f l.lane 3) 0
      else requestSave (setLane (markAsked s c w o.id) c w o.id l.lane .waiting) (l.src.toNat / 64 % 512) (l.src.toNat % 64)
        { addr := some l.va.toNat, req := some (c, v.uid, o.id), reason := 0, q := 0 } := by
  simp only [ctxsvStep, hslot, if_neg (Nat.not_le.mpr hnamed)]

theorem noRoom_iff (s : State) (a : Nat) (x : Slot) : ¬ SaveRoom s a x ↔
    a % 4096 ≠ 0 ∨ hostFrames s a (recMap 0 0 x.wave.vgran x.wave.sgran x.wave.tregs x.wave.aregs).stop = false := by
  rw [SaveRoom, not_and_or, Bool.not_eq_true]

/-- CTXSV that asks another wave to drain. -/
theorem Pends.ctxsv_asks (h : Pends s c w t o l) (hst : l.st = .known) (hopc : o.opc = 0xF7) {x : Slot}
    (hslot : s.slot? (l.src.toNat / 64 % 512) (l.src.toNat % 64) = some x) (hnamed : l.src.toNat < 32768) (hroom : SaveRoom s l.va.toNat x)
    (hdrain : x.drain = none) (hother : l.src.toNat / 64 % 512 ≠ c ∨ l.src.toNat % 64 ≠ w) :
    ∃ u, exec (.memoryOpComplete c w o.id l.lane) s = .next u ∧ OnlyCores s u ∧
      u.slot? (l.src.toNat / 64 % 512) (l.src.toNat % 64) = some { x with
        drain := some { addr := some l.va.toNat, req := some (c, t.wave.uid, o.id), reason := 0, q := 0, parked := x.parked },
        parked := false } ∧
      u.slot? c w = some { t with wave := { t.wave with
        ops := [{ o with released := true, lanes := [{ l with st := .waiting }] }] } } := by
  have hstep := ctxsvStep_named (o := o) (c := c) (w := w) hslot hnamed t.wave
  rw [if_neg (fun hno => (noRoom_iff ..).mpr hno hroom), if_neg (by rw [hdrain]; decide)] at hstep
  have hexec := (h.exec_priv hst (by omega)).trans (congrArg (Option.elim · _ _) ((privOnce_ctxsv hopc ..).trans (congrArg some hstep)))
  have hask : (setLane (markAsked s c w o.id) c w o.id l.lane .waiting).slot? c w = some { t with wave := { t.wave with
      ops := [{ o with released := true, lanes := [{ l with st := .waiting }] }] } } := by
    rw [setLane, State.slot?_modWave, markAsked_slot? h.here h.alone]
    simp [Wave.modLaneOp, Wave.modOp, h.lane]
  have hkeep : (setLane (markAsked s c w o.id) c w o.id l.lane .waiting).slot? (l.src.toNat / 64 % 512) (l.src.toNat % 64) = some x := by
    rw [setLane, State.slot?_modWave_elsewhere _ _ hother, markAsked, State.slot?_modWave_elsewhere _ _ hother, hslot]
  refine ⟨_, hexec, rfl, ?target, ?asker⟩
  case target =>
    rw [requestSave, State.slot?_modSlot, hkeep]
    rfl
  case asker =>
    rw [requestSave, State.slot?_modSlot_elsewhere _ _ (hother.imp Ne.symm Ne.symm)]
    exact hask

theorem privOnce_ctxld (hopc : o.opc = 0xF8) (s : State) (c w : Nat) (v : Wave) (l : LaneOp) : privOnce s c w o.id l.lane v o l =
    some (finishLane (restoreRecord s l.va.toNat).1 c w o.id l.lane (statusWr o.f l.lane (restoreRecord s l.va.toNat).2) 0) := by
  simp only [privOnce, hopc]

/-- CTXLD of what is no record. -/
theorem Pends.ctxld_none (h : Pends s c w t o l) (hst : l.st = .known) (hopc : o.opc = 0xF8)
    (hnone : l.va.toNat % 4096 ≠ 0 ∨ hostFrames s l.va.toNat 0x1700 = false ∨ headerOk s l.va.toNat = false) :
    ∃ u, exec (.memoryOpComplete c w o.id l.lane) s = .next u ∧ EndsAlone s u c w t o (statusWr o.f l.lane 2) :=
  h.priv_only hst (by omega) (by rw [privOnce_ctxld hopc, restoreRecord, if_pos hnone])

end Ctxsv

/-! ### STKINV and STKAGE (12 R287, R288) -/

/-- The world of a tag after a change that keeps its tag. -/
theorem State.world?_modWorld {s : State} {tag : Nat} {d : World} (h : s.world? tag = some d) {g : World → World}
    (hg : ∀ x, (g x).tag = x.tag := by intro _; rfl) : (s.modWorld tag g).world? tag = some (g d) := by
  obtain ⟨⟨i, x⟩, hfind, rfl⟩ := Option.map_eq_some_iff.mp h
  have htag : tag ≠ 0 := fun hzero => by simpa [hzero] using List.find?_some hfind
  have hpred : (fun p : Nat × World => p.2.tag == tag && tag != 0) = (fun p => p.2.tag == tag) := by
    funext p
    rw [bne_iff_ne.mpr htag, Bool.and_true]
  rw [hpred] at hfind
  have hmap := find?_map_id (key := fun p : Nat × World => p.2.tag) (g := fun p => (p.1, g p.2)) (n := tag)
    (fun p hp => (hg p.2).trans hp) s.worlds
  rw [State.world?, hpred]
  exact congrArg (Option.map Prod.snd) (hmap.trans (by rw [hfind]))

/-- The tags of a slice changed by g. -/
def retag (g : TagEnt → TagEnt) (m : Tab TagEnt) : Tab TagEnt :=
  m.filterMap (fun q => if g q.2 = TagEnt.empty then none else some (q.1, g q.2))

theorem retag_get? {g : TagEnt → TagEnt} {m : Tab TagEnt} {p : Nat} {e : TagEnt} (h : m.get? p = some e) (hkept : g e ≠ TagEnt.empty) :
    (retag g m).get? p = some (g e) := by
  induction m with
  | nil => cases h
  | cons q r ih =>
    obtain ⟨k, v⟩ := q
    by_cases hk : p = k
    · have hv : v = e := by simpa [Tab.get?, hk] using h
      simp [retag, hv, hkept, Tab.get?, hk]
    · have hr : (retag g r).get? p = some (g e) := ih (by simpa [Tab.get?, hk] using h)
      rw [retag] at hr ⊢
      by_cases hdropped : g v = TagEnt.empty
      · simpa [hdropped] using hr
      · simpa [hdropped, Tab.get?, hk] using hr

theorem mem_retag {g : TagEnt → TagEnt} {m : Tab TagEnt} {p : Nat} {e : TagEnt} (h : (p, e) ∈ retag g m) : ∃ x, g x = e ∧ e ≠ TagEnt.empty := by
  obtain ⟨q, -, hq⟩ := List.mem_filterMap.mp h
  split at hq
  · cases hq
  next hkept =>
    obtain ⟨-, rfl⟩ := Prod.mk.inj (Option.some.inj hq)
    exact ⟨_, rfl, hkept⟩

/-- A slice whose tags are changed by g. -/
def Slice.retagged (g : TagEnt → TagEnt) (t : Slice) : Slice := { t with tags := retag g t.tags }

theorem mapTags_slice (s : State) (g : TagEnt → TagEnt) (i : Nat) : (mapTags s g).slice i = (s.slice i).retagged g := by
  rw [State.slice, Tab.get, mapTags]
  refine (congrArg (Option.getD · Slice.idle) (Tab.get?_map s.slices (Slice.retagged g) i)).trans ?_
  rw [State.slice, Tab.get]
  cases Tab.get? s.slices i <;> rfl

/-- The buckets that STKINV touches. -/
def Touched (a n k : Nat) : Prop := k < 4096 ∧ (n = 0 ∨ 4096 ≤ n ∨ (k + 4096 - a % 4096) % 4096 < n)

theorem mem_bucketsOf (a n k : Nat) : k ∈ bucketsOf a n ↔ Touched a n k := by
  rw [bucketsOf, Touched]
  by_cases hall : n = 0 ∨ 4096 ≤ n
  · have hmany : 4096 ≤ (if n = 0 then 2 ^ 32 else n) := by split <;> omega
    simp only [hmany, if_true, List.mem_range]
    exact ⟨fun h => ⟨h, hall.imp_right .inl⟩, fun h => h.1⟩
  · obtain ⟨hzero, hfew⟩ := not_or.mp hall
    simp only [if_neg hzero, if_neg hfew, List.mem_map, List.mem_range]
    constructor
    · rintro ⟨i, hi, rfl⟩
      exact ⟨by omega, .inr (.inr (by omega))⟩
    · rintro ⟨hk, hin⟩
      exact ⟨(k + 4096 - a % 4096) % 4096, by omega, by omega⟩

theorem bucketsOf_nodup (a n : Nat) : (bucketsOf a n).Nodup := by
  rw [bucketsOf]
  by_cases hall : 4096 ≤ (if n = 0 then 2 ^ 32 else n)
  · simp only [hall, if_true]
    exact List.nodup_range
  · simp only [hall, if_false]
    refine List.nodup_range.map_on fun i hi j hj hij => ?_
    rw [List.mem_range] at hi hj
    omega

/-- Each bucket of a list without repetition has its generation raised by one. -/
theorem get_raised {bs : List Nat} (h : bs.Nodup) (k : Nat) : ∀ gen : Tab (BitVec 16),
    Tab.get 0 (bs.foldl (fun g k => Tab.put 0 g k (Tab.get 0 g k + 1)) gen) k = if k ∈ bs then Tab.get 0 gen k + 1 else Tab.get 0 gen k := by
  induction bs with
  | nil => exact fun _ => rfl
  | cons b bs ih =>
    intro gen
    obtain ⟨hb, hbs⟩ := List.nodup_cons.mp h
    rw [List.foldl_cons, ih hbs]
    by_cases hkb : k = b
    · subst hkb
      rw [if_neg hb, if_pos List.mem_cons_self, Tab.get_put_self]
    · rw [Tab.get_put_of_ne _ _ _ hkb]
      simp only [List.mem_cons, hkb, false_or]

/-- A world whose buckets of STKINV's range have a new generation. -/
def World.raised (a n : Nat) (d : World) : World :=
  { d with gen := (bucketsOf a n).foldl (fun g k => Tab.put 0 g k (Tab.get 0 g k + 1)) d.gen }

theorem World.genOf_raised (d : World) (a n k : Nat) :
    (Touched a n k → (d.raised a n).genOf k = d.genOf k + 1) ∧ (¬ Touched a n k → (d.raised a n).genOf k = d.genOf k) := by
  have hget := get_raised (bucketsOf_nodup a n) k d.gen
  rw [World.genOf, World.raised, World.genOf, hget]
  exact ⟨fun h => if_pos ((mem_bucketsOf ..).mpr h), fun h => if_neg (mt (mem_bucketsOf ..).mp h)⟩

/-- What STKINV does to an entry of its world and of its buckets. -/
theorem TagEnt.invalidated_touched {e : TagEnt} {d : World} {bs : List Nat} (hworld : e.world = d.tag) (hb : keyBucket e.key ∈ bs) :
    e.invalidated d bs = if e.state = 1 then { e with state := 3 }
      else if e.state = 2 ∧ d.genOf (keyBucket e.key) = 0 then TagEnt.empty else e := by
  have hcontains : bs.contains (keyBucket e.key) = true := by rw [List.contains_eq_mem, decide_eq_true hb]
  rw [TagEnt.invalidated, if_neg]
  rw [hworld, hcontains]
  simp

/-- An entry of another world or bucket stands. -/
theorem TagEnt.invalidated_other {e : TagEnt} {d : World} {bs : List Nat} (h : ¬ (e.world = d.tag ∧ keyBucket e.key ∈ bs)) :
    e.invalidated d bs = e := by
  rw [TagEnt.invalidated, if_pos]
  rw [List.contains_eq_mem, decide_eq_false_iff_not]
  exact not_and_or.mp h

/-- Nothing becomes an entry of a dropped generation. -/
theorem TagEnt.invalidated_ne {e : TagEnt} {d : World} {bs : List Nat} (hworld : e.world = d.tag) (hb : keyBucket e.key ∈ bs)
    (hvalid : e.state = 2) (hwrapped : d.genOf (keyBucket e.key) = 0) (hsome : e ≠ TagEnt.empty) (x : TagEnt) : x.invalidated d bs ≠ e := by
  intro hx
  by_cases htouched : x.world = d.tag ∧ keyBucket x.key ∈ bs
  · rw [TagEnt.invalidated_touched htouched.1 htouched.2] at hx
    split at hx
    · rw [← hx] at hvalid
      exact absurd hvalid (by decide : (3 : Nat) ≠ 2)
    · split at hx
      · exact hsome hx.symm
      next hkept => exact hkept (hx ▸ ⟨hvalid, hwrapped⟩)
  · rw [TagEnt.invalidated_other htouched] at hx
    exact htouched (hx ▸ ⟨hworld, hb⟩)

end Sys2Proof.Machine
end

section
open Sys2Proof Sys2Proof.Machine

namespace Sys2Proof.Machine

theorem OnlyCores.world? {s u : State} (h : OnlyCores s u) (tag : Nat) : u.world? tag = s.world? tag := by rw [h]; rfl

theorem State.tag_of_world? {s : State} {tag : Nat} {d : World} (h : s.world? tag = some d) : d.tag = tag := by
  obtain ⟨p, hfind, rfl⟩ := Option.map_eq_some_iff.mp h
  have hp := List.find?_some hfind
  rw [Bool.and_eq_true, beq_iff_eq] at hp
  exact hp.1

/-- A world changed by f and every tag by g. -/
def withTags (s : State) (tag : Nat) (f : World → World) (g : TagEnt → TagEnt) : State := mapTags (s.modWorld tag f) g

theorem withTags_tags (s : State) (tag i : Nat) (f : World → World) (g : TagEnt → TagEnt) :
    ((withTags s tag f g).slice i).tags = retag g (s.slice i).tags :=
  congrArg Slice.tags (mapTags_slice ..)

/-- STKINV of a world that is granted. -/
theorem invalidateObjects_granted {s : State} {vf world a n : Nat} {d : World} (hg : s.granted world vf = true) (hd : s.world? world = some d) :
    invalidateObjects s vf world a n =
      withTags s world (World.raised a n) (fun e => e.invalidated (d.raised a n) (bucketsOf a n)) := by
  have hraised : (s.modWorld world (World.raised a n)).world? world = some (d.raised a n) := State.world?_modWorld hd
  rw [invalidateObjects, if_neg (by rw [hg]; decide)]
  change mapTags _ (fun e => e.invalidated (((s.modWorld world (World.raised a n)).world? world).getD default) (bucketsOf a n)) = _
  rw [hraised]
  rfl

theorem invalidateObjects_ungranted {s : State} {vf world : Nat} (hg : s.granted world vf = false) (a n : Nat) :
    invalidateObjects s vf world a n = s := if_pos hg

/-- A world at a new age. -/
def World.atAge (now : BitVec 8) (d : World) : World := { d with wage := now }

/-- What STKAGE by n does to an entry: a VALID one whose age would leave the window is held at its end. -/
def aged (world n : Nat) (d : World) (e : TagEnt) : TagEnt :=
  if e.world = world ∧ e.state = 2 ∧ 255 < (d.wage - e.age).toNat + n then { e with age := d.wage + BitVec.ofNat 8 n + 1 } else e

theorem ageWorld_granted {s : State} {vf world n : Nat} {d : World} (hg : s.granted world vf = true) (hd : s.world? world = some d) :
    ageWorld s vf world n =
      (withTags s world (World.atAge (d.wage + BitVec.ofNat 8 n)) (aged world n d), (d.wage + BitVec.ofNat 8 n).setWidth 32) := by
  rw [ageWorld, if_neg (by rw [hg]; decide), hd]
  rfl

theorem ageWorld_ungranted {s : State} {vf world : Nat} (hg : s.granted world vf = false) (n : Nat) :
    ageWorld s vf world n = (s, 0xFFFFFFFF) := if_pos hg

section StockpotOnce

variable {s : State} {c w : Nat} {t : Slot} {o : Op} {l : LaneOp}

/-- The release of an only operation below HOST scope waits for nothing. -/
theorem releaseDone_alone {v : Wave} (ha : v.ops = [o]) {scope : Nat} (hscope : scope < 10) (k : Core) :
    releaseDone k v o.id scope = true := by
  rw [releaseDone, portsRead, decide_eq_true hscope, ha]
  simp

theorem stkOnce_inv (hopc : o.opc = 0xE6) (ha : t.wave.ops = [o]) : stkOnce s c w o.id l.lane t.wave o l =
    some (finishLane (invalidateObjects s t.wave.vf t.wave.world l.va.toNat l.src.toNat) c w o.id l.lane [] 0) := by
  rw [stkOnce, if_pos hopc, if_pos (releaseDone_alone ha (by decide) _)]

theorem stkOnce_age (hopc : o.opc = 0xE7) : stkOnce s c w o.id l.lane t.wave o l =
    some (finishLane (ageWorld s t.wave.vf t.wave.world (l.va.toNat % 256)).1 c w o.id l.lane
      (if o.f.dst = .absent then [] else wr32 o.f.dst l.lane (ageWorld s t.wave.vf t.wave.world (l.va.toNat % 256)).2) 0) := by
  rw [stkOnce, if_neg (by rw [hopc]; decide)]

/-- STKINV or STKAGE without a grant. -/
theorem Pends.stk_only (h : Pends s c w t o l) (hst : l.st = .known) (hopc : o.opc = 0xE6 ∨ o.opc = 0xE7) {ws : List RegWrite}
    (honce : stkOnce s c w o.id l.lane t.wave o l = some (finishLane s c w o.id l.lane ws 0)) :
    ∃ u, exec (.memoryOpComplete c w o.id l.lane) s = .next u ∧ EndsAlone s u c w t o ws :=
  ⟨_, by rw [h.exec_stk hst hopc, honce]; rfl, h.endsAlone ws⟩

/-- STKINV or STKAGE that changes its world by f and the tags by g. -/
theorem Pends.stk_tags (h : Pends s c w t o l) (hst : l.st = .known) (hopc : o.opc = 0xE6 ∨ o.opc = 0xE7) {ws : List RegWrite}
    {d : World} {f : World → World} {g : TagEnt → TagEnt} (hd : s.world? t.wave.world = some d) (hf : ∀ x, (f x).tag = x.tag)
    (honce : stkOnce s c w o.id l.lane t.wave o l = some (finishLane (withTags s t.wave.world f g) c w o.id l.lane ws 0)) :
    ∃ u, exec (.memoryOpComplete c w o.id l.lane) s = .next u ∧ u.mem = s.mem ∧ Ends s u c w t o ws 0 ∧
      u.world? t.wave.world = some (f d) ∧ ∀ i, (u.slice i).tags = retag g (s.slice i).tags := by
  have honly := OnlyCores.finishLane (withTags s t.wave.world f g) c w o.id l.lane ws 0
  exact ⟨_, by rw [h.exec_stk hst hopc, honce]; rfl, honly.mem, h.ends (x := withTags s t.wave.world f g) (fun _ _ => rfl) ws 0,
    (honly.world? _).trans (State.world?_modWorld hd hf), fun i => by rw [honly.slice, withTags_tags]⟩

theorem Pends.stkinv (h : Pends s c w t o l) (hst : l.st = .known) (hopc : o.opc = 0xE6) {d : World}
    (hg : s.granted t.wave.world t.wave.vf = true) (hd : s.world? t.wave.world = some d) :
    ∃ u d', exec (.memoryOpComplete c w o.id l.lane) s = .next u ∧ u.mem = s.mem ∧ Ends s u c w t o [] 0 ∧
      u.world? t.wave.world = some d' ∧ d' = { d with gen := d'.gen } ∧
      (∀ k, (Touched l.va.toNat l.src.toNat k → d'.genOf k = d.genOf k + 1) ∧
        (¬ Touched l.va.toNat l.src.toNat k → d'.genOf k = d.genOf k)) ∧
      (∀ i p e, (s.slice i).tags.get? p = some e → e.world = t.wave.world → Touched l.va.toNat l.src.toNat (keyBucket e.key) →
        (e.state = 1 → (u.slice i).tags.get? p = some { e with state := 3 }) ∧
        (e.state = 2 → d'.genOf (keyBucket e.key) = 0 → (p, e) ∉ (u.slice i).tags)) := by
  obtain ⟨u, hexec, hmem, hends, hworld, htags⟩ := h.stk_tags hst (.inl hopc) hd (f := World.raised l.va.toNat l.src.toNat) (fun _ => rfl)
    (by rw [stkOnce_inv hopc h.alone, invalidateObjects_granted hg hd])
  refine ⟨u, _, hexec, hmem, hends, hworld, rfl, World.genOf_raised d _ _, fun i p e he hew htouched => ?_⟩
  have hown : e.world = (d.raised l.va.toNat l.src.toNat).tag := hew.trans (State.tag_of_world? hd).symm
  have hbucket := (mem_bucketsOf ..).mpr htouched
  rw [htags]
  constructor
  · intro hinflight
    have hstale := (TagEnt.invalidated_touched hown hbucket).trans (if_pos hinflight)
    rw [← hstale]
    refine retag_get? (g := fun e => e.invalidated (d.raised l.va.toNat l.src.toNat) (bucketsOf l.va.toNat l.src.toNat)) he ?_
    exact fun hempty => absurd (congrArg TagEnt.state (hstale.symm.trans hempty)) (by decide : (3 : Nat) ≠ 0)
  · intro hvalid hwrapped hkept
    obtain ⟨x, hx, hsome⟩ := mem_retag hkept
    exact TagEnt.invalidated_ne hown hbucket hvalid hwrapped hsome x hx

theorem Pends.stkage (h : Pends s c w t o l) (hst : l.st = .known) (hopc : o.opc = 0xE7) {d : World}
    (hg : s.granted t.wave.world t.wave.vf = true) (hd : s.world? t.wave.world = some d) :
    ∃ u, exec (.memoryOpComplete c w o.id l.lane) s = .next u ∧ u.mem = s.mem ∧
      Ends s u c w t o (if o.f.dst = .absent then [] else
        wr32 o.f.dst l.lane ((d.wage + BitVec.ofNat 8 (l.va.toNat % 256)).setWidth 32)) 0 ∧
      u.world? t.wave.world = some { d with wage := d.wage + BitVec.ofNat 8 (l.va.toNat % 256) } ∧
      (∀ i p e, (s.slice i).tags.get? p = some e → e.world = t.wave.world → e.state = 2 →
        255 < (d.wage - e.age).toNat + l.va.toNat % 256 →
        (u.slice i).tags.get? p = some { e with age := d.wage + BitVec.ofNat 8 (l.va.toNat % 256) + 1 }) := by
  obtain ⟨u, hexec, hmem, hends, hworld, htags⟩ := h.stk_tags hst (.inr hopc) hd
    (f := World.atAge (d.wage + BitVec.ofNat 8 (l.va.toNat % 256))) (fun _ => rfl)
    (by rw [stkOnce_age hopc, ageWorld_granted hg hd])
  refine ⟨u, hexec, hmem, hends, hworld, fun i p e he hew hvalid hold => ?_⟩
  have haged : aged t.wave.world (l.va.toNat % 256) d e = { e with age := d.wage + BitVec.ofNat 8 (l.va.toNat % 256) + 1 } :=
    if_pos ⟨hew, hvalid, hold⟩
  rw [htags, ← haged]
  refine retag_get? (g := aged t.wave.world (l.va.toNat % 256) d) he fun hempty => ?_
  have hstate := congrArg TagEnt.state (haged.symm.trans hempty)
  exact absurd (hvalid.symm.trans hstate) (by decide : (2 : Nat) ≠ 0)

end StockpotOnce

end Sys2Proof.Machine
end

section
open Sys2Proof Sys2Proof.Machine

namespace Sys2Proof.Machine

/-! ### The family -/

section OneStatus

variable {s : State} {c w : Nat} {t : Slot} {o : Op} {l : LaneOp}

/-- SCRUB of what are not frames. -/
theorem Pends.scrub_only (h : Pends s c w t o l) (hst : l.st = .known) (hopc : o.opc = 0xFF) (hmisfit : ¬ FramesFit l.va.toNat l.src.toNat) :
    ∃ u, exec (.memoryOpComplete c w o.id l.lane) s = .next u ∧ EndsAlone s u c w t o (statusWr o.f l.lane 2) :=
  h.priv_only hst (by omega) (by rw [privOnce_scrub hopc, scrub_misfit hmisfit])

/-- HALTQ that waits. -/
theorem Pends.haltq_waits (h : Pends s c w t o l) (hst : l.st = .known) (hopc : o.opc = 0xFE)
    (hstep : haltqStep s c w o.id l.lane o l = none) : exec (.memoryOpComplete c w o.id l.lane) s = .fault .notEnabled :=
  h.priv_waits hst (by omega) ((privOnce_haltq hopc ..).trans hstep)

/-- HALTQ.WITHDRAW whose queue is withdrawn no more. -/
theorem Pends.haltq_withdrawn (h : Pends s c w t o l) (hst : l.st = .known) (hopc : o.opc = 0xFE) (hq : l.va.toNat < 1024)
    (hf : 2 ≤ o.f.m 0 2) (hrel : o.released = true) (hw : (s.queue l.va.toNat).withdrawn = false) :
    ∃ u, exec (.memoryOpComplete c w o.id l.lane) s = .next u ∧ EndsAlone s u c w t o (statusWr o.f l.lane 0) :=
  h.priv_only hst (by omega) (by rw [privOnce_haltq hopc, haltqStep_withdraw hq hf, hrel, hw]; rfl)

/-- OWNGET answers the owner's code, or all ones beyond HBM4. -/
theorem Pends.ownget_only (h : Pends s c w t o l) (hst : l.st = .known) (hopc : o.opc = 0xFC) :
    ∃ u, exec (.memoryOpComplete c w o.id l.lane) s = .next u ∧ EndsAlone s u c w t o (statusWr o.f l.lane (ownGet s l.va.toNat).toNat) :=
  h.priv_only hst (by omega) (privOnce_ownget hopc ..)

/-- CTXLD's step. -/
theorem Pends.ctxld_exec (h : Pends s c w t o l) (hst : l.st = .known) (hopc : o.opc = 0xF8) :
    exec (.memoryOpComplete c w o.id l.lane) s = .next (finishLane (restoreRecord s l.va.toNat).1 c w o.id l.lane
      (statusWr o.f l.lane (restoreRecord s l.va.toNat).2) 0) := by
  rw [h.exec_priv hst (by omega), privOnce_ctxld hopc]
  rfl

end OneStatus

theorem saysOnceWordsComplete : SaysOnceWordsComplete := by
  unfold SaysOnceWordsComplete
  intro s c w t o l h hst done waits answers only a n frames fits
  refine ⟨fun hopc => ?ownset, fun hopc => ?ownget, fun hopc => ?scrub, fun hopc => ?tlbinv, fun hopc => ?haltq, fun hopc => ?ctxsv,
    fun hopc => ?ctxld, fun hopc => ?stkinv, fun hopc => ?stkage⟩
  case ownset =>
    intro own past
    exact ⟨fun hmis => h.ownset_only hst hopc (ownSet_misfit hmis), fun hfits howned => h.ownset_only hst hopc (ownSet_owned hfits howned),
      fun hfits hfree hpast => h.ownset_only hst hopc (ownSet_past hfits hfree hpast),
      fun hfits hall => h.ownset_gives hst hopc (ownSet_gives hfits (fun i hi => (hall i hi).1) (fun i hi => (hall i hi).2))⟩
  case ownget =>
    have hown : BitVec.ofNat 32 (ownGet s a).toNat = if hbmEnd ≤ a then 0xFFFFFFFF else BitVec.ofNat 32 (s.owner a) := by
      rw [BitVec.ofNat_toNat, BitVec.setWidth_eq, ownGet]
    exact hown ▸ h.ownget_only hst hopc
  case scrub =>
    exact ⟨fun hmis => h.scrub_only hst hopc hmis, fun hfits hun => h.scrub_frames hst hopc hun hfits⟩
  case tlbinv =>
    intro sel taken
    have honce := privOnce_inv hopc s c w t.wave l
    refine ⟨fun hwq hpeers hheld => ?_, fun husing => h.invalidation_waits hst hopc honce husing⟩
    obtain ⟨u, hexec, hmem, hslot, htlb, htlb2⟩ := h.invalidates hst hopc honce hwq hpeers hheld
    simp only [invSel_takes] at htlb htlb2
    exact ⟨u, hexec, hmem, hslot, htlb, htlb2⟩
  case haltq =>
    exact ⟨h.haltq_unnamed hst hopc, fun hq hf => h.haltq_sets hst hopc (haltqStep_pause hq hf),
      fun hq hf hw => h.haltq_waits hst hopc (haltqStep_resume_waits hq hf hw),
      fun hq hf hw => h.haltq_sets hst hopc (haltqStep_resume hq hf hw), h.haltq_withdraws hst hopc,
      fun hq hf hrel hw => h.haltq_waits hst hopc (by rw [haltqStep_withdraw hq hf, hrel, hw]; rfl), h.haltq_withdrawn hst hopc⟩
  case ctxsv =>
    intro tc tw room
    refine ⟨fun hnone => h.ctxsv_only hst hopc (ctxsvStep_unnamed hnone _), fun v hv hnamed => ?_⟩
    have hstep := ctxsvStep_named (o := o) (c := c) (w := w) hv hnamed t.wave
    refine ⟨fun hno => h.ctxsv_only hst hopc (hstep.trans (if_pos ((noRoom_iff ..).mp hno))), fun hroom hdrain => ?_,
      fun hroom hdrain hother => h.ctxsv_asks hst hopc hv hnamed hroom hdrain hother⟩
    exact h.ctxsv_only hst hopc (hstep.trans ((if_neg fun hno => (noRoom_iff ..).mpr hno hroom).trans (if_pos hdrain)))
  case ctxld => exact ⟨h.ctxld_none hst hopc, h.ctxld_exec hst hopc⟩
  case stkinv =>
    intro touched
    exact ⟨fun hg => h.stk_only hst (.inl hopc) (by rw [stkOnce_inv hopc h.alone, invalidateObjects_ungranted hg]),
      fun d hg hd => h.stkinv hst hopc hg hd⟩
  case stkage =>
    exact ⟨fun hg => h.stk_only hst (.inr hopc) (by rw [stkOnce_age hopc, ageWorld_ungranted hg]), fun d hg hd => h.stkage hst hopc hg hd⟩

/-- Settles O36: the words that act once attach one operation with their leader's operands; at its completion each is a finish of its lane
in the state that its own step function gives. -/
theorem onceWordsAttach : Obligations.OnceWordsAttach := ⟨saysOnceWordsAttach, saysOnceWordsComplete⟩

end Sys2Proof.Machine
end
